-- ==== Sys2Proof/Word.lean ====
section
/-! DEFINITION. Sys2Proof/Word.lean: the word types of the block and their plainest arithmetic.

A Sage general register and a tracker word are 64 bits (R187, R219), a register of the register port is
32 bits (R10), a line is 64 bytes and a flit is 80 bytes (R9, R351). -/

namespace Sys2Proof

/-- A 64-bit Sage or tracker word. -/
abbrev Word := BitVec 64
/-- A 32-bit register of the register port, or an instruction word. -/
abbrev Reg32 := BitVec 32
/-- A byte of a memory. -/
abbrev Byte := BitVec 8
/-- A 64-byte line (R9). -/
abbrev Line := BitVec 512
/-- A flit of 80 bytes (Table 11.3). -/
abbrev Flit := BitVec 640

/-- Host ports HP0 to HP15 (R35). -/
abbrev HpId := Fin 16
/-- Media ports MP0 to MP7 (R35). -/
abbrev MpId := Fin 8
/-- Nodes N00 to N31 (Table 0.5). -/
abbrev NodeId := Fin 32
/-- Quadrants Q0 to Q3 (Table 0.5). -/
abbrev QuadId := Fin 4
/-- DMA channels CH0 to CH15. -/
abbrev ChanId := Fin 16

end Sys2Proof
end

