-- ==== Sys2Proof/Syntax.lean ====
section
/-! DEFINITION. Sys2Proof/Syntax.lean: the commands of the block, one constructor per row of
spec/opcode_table.json, and the operand types they carry. -/

namespace Sys2Proof

/-- The sampled strap, `bm_size` and `fuse_lc_state` inputs (R53, Table 2.9). -/
structure StrapPins where
  quads : BitVec 2
  hpCount : BitVec 5
  mpCount : BitVec 4
  ovfEn : Bool
  tppMax : BitVec 2
  initFill : Bool
  bootSrc : Bool
  bmSize : BitVec 5
  lcState : BitVec 3
  deriving DecidableEq, Repr

/-- A Sage core: the engine of a node, or Chervil (R217). -/
inductive CoreId where
  | node (n : NodeId)
  | chervil
  deriving DecidableEq, Repr

/-- A hardware thread of a Sage core (R217). -/
structure Thr where
  core : CoreId
  t : Fin 8
  deriving DecidableEq, Repr

/-- Who makes a register access: the register port with its privilege, an engine or Chervil through
register space, the boot ROM, or Tarragon (R51, R225, R365). -/
inductive Src where
  | port (priv : Bool)
  | engine (n : NodeId)
  | chervil
  | bootRom
  | tarragon
  deriving DecidableEq, Repr

/-- The clocked ports (Table 2.1). -/
inductive ClkPort where
  | hp (p : HpId)
  | mp (m : MpId)
  | bm | cfg | ev | ps | fuse
  deriving DecidableEq, Repr

/-- Why a port failed (R48, R428). -/
inductive FailCause where
  | partnerReset | clock
  deriving DecidableEq, Repr

/-- The outbound channels of a host port (Table 3.1). -/
inductive HpOut where
  | ndr | drs | bis
  deriving DecidableEq, Repr

/-- A port with an attach sideband (Tables 2.4 and 2.5). -/
inductive AttPort where
  | hp (p : HpId)
  | mp (m : MpId)
  deriving DecidableEq, Repr

/-- How a block-memory access ended: `bm_rsp_err` 00, 01, 10, 11, or BM_TMO (R94, Table 2.3). -/
inductive BmErr where
  | ok | corrected | uncorrectable | address | timeout
  deriving DecidableEq, Repr

/-- Which access of a thread: its stalled load or AMO, or a place of its store buffer. -/
inductive AccSel where
  | pend
  | sb (i : Fin 16)
  deriving DecidableEq, Repr

/-- The scrubbers of Table 15.2 (the bank scrubber has its own row). -/
inductive Scrubber where
  | prog (n : NodeId)
  | scratch (n : NodeId)
  | trk (n : NodeId)
  | rmap (n : NodeId)
  | ledger (p : HpId)
  | chvProg | chvData | surv | rom
  deriving DecidableEq, Repr

/-- The ports of a router (R346). -/
inductive RtrPort where
  | xp | xm | yp | ym | loc | att
  deriving DecidableEq, Repr

/-- The fabric endpoints (Table 11.1). -/
inductive Endpoint where
  | node (n : NodeId)
  | hp (p : HpId)
  | mp (m : MpId)
  | bm | cfg | chv | sys
  deriving DecidableEq, Repr

/-- The kinds of endpoint queue (Table 11.5). -/
inductive QKind where
  | req | snp | mreq | breq | rsp | data | mgt
  deriving DecidableEq, Repr

/-- One endpoint queue (Table 11.5). -/
structure QueueId where
  ep : Endpoint
  k : QKind
  deriving DecidableEq, Repr

/-- A port shell of the quench handshake (R361). -/
inductive QShell where
  | hp (p : HpId)
  | mp (m : MpId)
  | bm | cfg | sys
  deriving DecidableEq, Repr

/-- One of the 144 performance counters (R494). -/
inductive PmcId where
  | node (n : NodeId) (k : Fin 4)
  | block (k : Fin 16)
  deriving DecidableEq, Repr

/-- A lane that failed its test, with up to 16 captured cells (R467 step 3, R472). -/
structure LaneFail where
  unit : BitVec 7
  struct : BitVec 4
  lane : BitVec 6
  cells : List (Nat × Nat)
  overflow : Bool
  deriving DecidableEq, Repr

/-- What Sorrel's hardware found in a run (R466, R472, Table 16.6). -/
structure SorrelRes where
  restoreOk : Bool
  fails : List LaneFail
  commitOk : Bool
  deriving DecidableEq, Repr

/-- The commands: one constructor per row of spec/opcode_table.json. -/
inductive Instr where
  /-- `COLD_RESET_ASSERT` (R392). -/
  | coldResetAssert
  /-- `COLD_RESET_RELEASE` (R396). -/
  | coldResetRelease
  /-- `STRAPS_TAKEN` (R53). -/
  | strapsTaken (pins : StrapPins)
  /-- `STRAP_TIMEOUT` (R53). -/
  | strapTimeout (pins : StrapPins) (unstable : BitVec 9)
  /-- `FILL_END` (R397). -/
  | fillEnd
  /-- `READY` (R400). -/
  | bootReady (src : Src) (wdata : BitVec 32) (staged : List (Nat × BitVec 8))
  /-- `PWR_FULL_RST_PULSE` (R57). -/
  | pwrFullRstPulse
  /-- `HOLD_LIMIT` (R411). -/
  | holdLimit
  /-- `POWER_FAIL` (R429). -/
  | powerFail
  /-- `DRAIN_END` (R430). -/
  | drainEnd
  /-- `DRAIN_LIMIT` (R430). -/
  | drainLimit
  /-- `SYNC_END` (R430). -/
  | syncEnd
  /-- `SYNC_LIMIT` (R430). -/
  | syncLimit
  /-- `REFTICK_LOST` (R59). -/
  | reftickLost
  /-- `SENSOR_UPDATE` (R58). -/
  | sensorUpdate (q : QuadId) (tempA tempB vmonA vmonB : BitVec 10)
  /-- `SENSOR_STALE` (R58). -/
  | sensorStale (q : QuadId)
  /-- `VCORE_LOW` (R386). -/
  | vcoreLow
  /-- `THROTTLE_UPDATE` (R385). -/
  | throttleUpdate (activity : List Nat)
  /-- `VOLTAGE_STEP` (R387). -/
  | voltageStep
  /-- `CLOCK_WINDOW_CHECK` (R44). -/
  | clockWindowCheck (port : ClkPort) (count : Nat)
  /-- `HOST_PORT_FAILURE` (R48). -/
  | hostPortFailure (p : HpId) (why : FailCause)
  /-- `HOST_PORT_RECOVERY` (R48). -/
  | hostPortRecovery (p : HpId)
  /-- `HP_OUT_TIMEOUT` (R45). -/
  | hpOutTimeout (p : HpId) (ch : HpOut)
  /-- `MEDIA_PORT_FAILURE` (R428). -/
  | mediaPortFailure (m : MpId) (why : FailCause)
  /-- `MP_OUT_TIMEOUT` (R45). -/
  | mpOutTimeout (m : MpId)
  /-- `MEM_RD` (R98). -/
  | memRd (p : HpId) (hdr : BitVec 128)
  /-- `MEM_RD_DATA` (R98). -/
  | memRdData (p : HpId) (hdr : BitVec 128)
  /-- `MEM_INV` (R98). -/
  | memInv (p : HpId) (hdr : BitVec 128)
  /-- `MEM_INV_NT` (R99). -/
  | memInvNt (p : HpId) (hdr : BitVec 128)
  /-- `MEM_CLN_EVCT` (R98). -/
  | memClnEvct (p : HpId) (hdr : BitVec 128)
  /-- `MEM_WR` (R98). -/
  | memWr (p : HpId) (hdr : BitVec 128) (data : Line) (be : BitVec 64) (poison : Bool)
  /-- `MEM_WR_PTL` (R30). -/
  | memWrPtl (p : HpId) (hdr : BitVec 128) (data : Line) (be : BitVec 64) (poison : Bool)
  /-- `BI_CONFLICT` (R197). -/
  | biConflict (p : HpId) (hdr : BitVec 128)
  /-- `FLUSH` (R116). -/
  | hostFlush (p : HpId) (hdr : BitVec 128)
  /-- `SESS_OPEN` (R417). -/
  | sessOpen (p : HpId) (hdr : BitVec 128)
  /-- `SESS_CLOSE` (R418). -/
  | sessClose (p : HpId) (hdr : BitVec 128)
  /-- `TRANSLATION_WALK_DONE` (R308). -/
  | translationWalkDone (p : HpId) (idx : Fin 2048) (err : BmErr)
  /-- `BIRSP` (R81). -/
  | birsp (p : HpId) (msg : BitVec 64)
  /-- `HELD_ANSWER_DELIVERY` (R201). -/
  | heldAnswerDelivery (p : HpId) (slot : Fin 8192)
  /-- `SNOOP_TIMEOUT` (R200). -/
  | snoopTimeout (p : HpId) (slot : Fin 8192)
  /-- `SNOOP_SLOT_QUARANTINE_END` (R200). -/
  | snoopSlotQuarantineEnd (p : HpId) (slot : Fin 8192)
  /-- `BI_CONFLICT_ACK` (R197). -/
  | biConflictAck (p : HpId)
  /-- `OUTBOUND_MESSAGE` (R39). -/
  | outboundMessage (p : HpId) (ch : HpOut)
  /-- `ATTACH_REQUEST` (R87). -/
  | attachRequest (port : AttPort) (offer : BitVec 48)
  /-- `ATTACH_CONFIRM` (R87). -/
  | attachConfirm (port : AttPort)
  /-- `ATTACH_TIMEOUT` (R45). -/
  | attachTimeout (port : AttPort)
  /-- `ATTACH_ABANDON` (R88). -/
  | attachAbandon (port : AttPort)
  /-- `HOST_DETACH` (R419). -/
  | hostDetach (p : HpId)
  /-- `MEDIA_DETACH_REQUEST` (R427). -/
  | mediaDetachRequest (m : MpId)
  /-- `MEDIA_DETACH_COMPLETE` (R427). -/
  | mediaDetachComplete (m : MpId)
  /-- `MEDIA_READ_DATA` (R91). -/
  | mediaReadData (m : MpId) (hdr : BitVec 64) (data : Line) (poison : Bool)
  /-- `HANDOFF` (R203). -/
  | handoff (m : MpId)
  /-- `DURABLE` (R91). -/
  | ackDurable (m : MpId) (ack : BitVec 64)
  /-- `SYNC_DONE` (R116). -/
  | ackSyncDone (m : MpId) (ack : BitVec 64)
  /-- `WRITE_FAIL` (R118). -/
  | ackWriteFail (m : MpId) (ack : BitVec 64)
  /-- `MP_ACK_TIMEOUT` (R118). -/
  | mpAckTimeout (m : MpId) (mtag : BitVec 12)
  /-- `BM_RESPONSE` (R94). -/
  | bmResponse (tag : BitVec 10) (data : Line) (err : BitVec 2)
  /-- `BM_TIMEOUT` (R45). -/
  | bmTimeout (tag : BitVec 10)
  /-- `REGISTER_WRITE` (R51). -/
  | registerWrite (addr : BitVec 24) (wdata : Option (BitVec 32)) (be : BitVec 4) (priv : Bool)
  /-- `EVENT_RECORD_SEND` (R448). -/
  | eventRecordSend
  /-- `EV_TIMEOUT` (R450). -/
  | evTimeout
  /-- `EV_WINDOW_ACCESS` (R451). -/
  | evWindowAccess (src : Src) (a : Fin 16) (wr : Bool) (wdata rdata : BitVec 32)
  /-- `READ` (R460). -/
  | psRead (src : Src)
  /-- `LOAD` (R456). -/
  | psLoad (src : Src)
  /-- `COMMIT` (R456). -/
  | psCommit (src : Src)
  /-- `SET_PROTECT` (R459). -/
  | psSetProtect (src : Src) (level : BitVec 2)
  /-- `STATUS` (R460). -/
  | psStatus (src : Src)
  /-- `PS_RESPONSE` (R45). -/
  | psResponse (stat : BitVec 2) (data : BitVec 32)
  /-- `PS_TIMEOUT` (R45). -/
  | psTimeout
  /-- `FUSE_PROGRAM_DONE` (R474). -/
  | fuseProgramDone (err : Bool)
  /-- `FUSE_TIMEOUT` (R45). -/
  | fuseTimeout
  /-- `ADMISSION` (R189). -/
  | admission (n : NodeId) (p : HpId) (idx : Fin 2048)
  /-- `RETRY` (R192). -/
  | retry (p : HpId) (n : NodeId) (idx : Fin 2048)
  /-- `GRANT` (R193). -/
  | grant (p : HpId) (n : NodeId)
  /-- `HOST_REQUEST_EVENT` (R254). -/
  | hostRequestEvent (n : NodeId) (t : Fin 8)
  /-- `WRITE_BACK_EVENT` (R191). -/
  | writeBackEvent (n : NodeId) (t : Fin 8)
  /-- `ASSIST_FAULT` (R324). -/
  | assistFault (n : NodeId) (t : Fin 8)
  /-- `RECALL_START` (R330). -/
  | recallStart (n : NodeId) (t : Fin 8)
  /-- `LINE_COPY_START` (R330). -/
  | lineCopyStart (n : NodeId) (t : Fin 8)
  /-- `MANAGEMENT_MESSAGE` (R256). -/
  | managementMessage (t : Thr)
  /-- `LINE_COPY` (R330). -/
  | lineCopy (n : NodeId) (slot : Fin 16)
  /-- `SECTOR_RECALL` (R330). -/
  | sectorRecall (n : NodeId) (slot : Fin 16)
  /-- `ENGINE_START` (R264). -/
  | engineStart (t : Thr)
  /-- `WAKE_HOST_FLOW` (R261). -/
  | wakeHostFlow (n : NodeId) (t : Fin 8)
  /-- `WAKE_INTERNAL_FLOW` (R261). -/
  | wakeInternalFlow (n : NodeId) (t : Fin 8)
  /-- `SLICE_EXPIRY` (R266). -/
  | sliceExpiry (t : Thr)
  /-- `RUNAWAY` (R267). -/
  | runaway (t : Thr)
  /-- `STORE_BUFFER_SEND` (R292). -/
  | storeBufferSend (t : Thr)
  /-- `MERGE_ENTRY_AGE` (R296). -/
  | mergeEntryAge (t : Thr)
  /-- `ACCESS_COMPLETION` (R287). -/
  | accessCompletion (t : Thr) (k : AccSel) (rsp : BmErr)
  /-- `ACCESS_TIMEOUT` (R226). -/
  | accessTimeout (t : Thr) (k : AccSel)
  /-- `ADD` (R233). -/
  | add (t : Thr) (w : BitVec 32)
  /-- `SUB` (R233). -/
  | sub (t : Thr) (w : BitVec 32)
  /-- `AND` (R233). -/
  | and (t : Thr) (w : BitVec 32)
  /-- `OR` (R233). -/
  | or (t : Thr) (w : BitVec 32)
  /-- `XOR` (R233). -/
  | xor (t : Thr) (w : BitVec 32)
  /-- `SLL` (R233). -/
  | sll (t : Thr) (w : BitVec 32)
  /-- `SRL` (R233). -/
  | srl (t : Thr) (w : BitVec 32)
  /-- `SRA` (R233). -/
  | sra (t : Thr) (w : BitVec 32)
  /-- `SLT` (R233). -/
  | slt (t : Thr) (w : BitVec 32)
  /-- `SLTU` (R233). -/
  | sltu (t : Thr) (w : BitVec 32)
  /-- `MUL` (R233). -/
  | mul (t : Thr) (w : BitVec 32)
  /-- `HSLOT` (R233). -/
  | hslot (t : Thr) (w : BitVec 32)
  /-- `POPC` (R233). -/
  | popc (t : Thr) (w : BitVec 32)
  /-- `CLZ` (R233). -/
  | clz (t : Thr) (w : BitVec 32)
  /-- `MOVF` (R233). -/
  | movf (t : Thr) (w : BitVec 32)
  /-- `ADDI` (R233). -/
  | addi (t : Thr) (w : BitVec 32)
  /-- `ANDI` (R233). -/
  | andi (t : Thr) (w : BitVec 32)
  /-- `ORI` (R233). -/
  | ori (t : Thr) (w : BitVec 32)
  /-- `XORI` (R233). -/
  | xori (t : Thr) (w : BitVec 32)
  /-- `SLLI` (R233). -/
  | slli (t : Thr) (w : BitVec 32)
  /-- `SRLI` (R233). -/
  | srli (t : Thr) (w : BitVec 32)
  /-- `SRAI` (R233). -/
  | srai (t : Thr) (w : BitVec 32)
  /-- `SLTI` (R233). -/
  | slti (t : Thr) (w : BitVec 32)
  /-- `SLTIU` (R233). -/
  | sltiu (t : Thr) (w : BitVec 32)
  /-- `ORSH` (R233). -/
  | orsh (t : Thr) (w : BitVec 32)
  /-- `EXT` (R233). -/
  | ext (t : Thr) (w : BitVec 32)
  /-- `INS` (R233). -/
  | ins (t : Thr) (w : BitVec 32)
  /-- `BEQ` (R233). -/
  | beq (t : Thr) (w : BitVec 32)
  /-- `BNE` (R233). -/
  | bne (t : Thr) (w : BitVec 32)
  /-- `BLT` (R233). -/
  | blt (t : Thr) (w : BitVec 32)
  /-- `BGE` (R233). -/
  | bge (t : Thr) (w : BitVec 32)
  /-- `BLTU` (R233). -/
  | bltu (t : Thr) (w : BitVec 32)
  /-- `BGEU` (R233). -/
  | bgeu (t : Thr) (w : BitVec 32)
  /-- `BBS` (R233). -/
  | bbs (t : Thr) (w : BitVec 32)
  /-- `BBC` (R233). -/
  | bbc (t : Thr) (w : BitVec 32)
  /-- `JAL` (R233). -/
  | jal (t : Thr) (w : BitVec 32)
  /-- `JALR` (R233). -/
  | jalr (t : Thr) (w : BitVec 32)
  /-- `LD8` (R235). -/
  | ld8 (t : Thr) (w : BitVec 32)
  /-- `LD16` (R235). -/
  | ld16 (t : Thr) (w : BitVec 32)
  /-- `LD32` (R235). -/
  | ld32 (t : Thr) (w : BitVec 32)
  /-- `LD64` (R235). -/
  | ld64 (t : Thr) (w : BitVec 32)
  /-- `ST8` (R235). -/
  | st8 (t : Thr) (w : BitVec 32)
  /-- `ST16` (R235). -/
  | st16 (t : Thr) (w : BitVec 32)
  /-- `ST32` (R235). -/
  | st32 (t : Thr) (w : BitVec 32)
  /-- `ST64` (R235). -/
  | st64 (t : Thr) (w : BitVec 32)
  /-- `AMO_SWAP` (R235). -/
  | amoSwap (t : Thr) (w : BitVec 32)
  /-- `AMO_ADD` (R235). -/
  | amoAdd (t : Thr) (w : BitVec 32)
  /-- `AMO_OR` (R235). -/
  | amoOr (t : Thr) (w : BitVec 32)
  /-- `AMO_AND` (R235). -/
  | amoAnd (t : Thr) (w : BitVec 32)
  /-- `AMO_CAS` (R235). -/
  | amoCas (t : Thr) (w : BitVec 32)
  /-- `LBM` (R238). -/
  | lbm (t : Thr) (w : BitVec 32)
  /-- `LBA` (R238). -/
  | lba (t : Thr) (w : BitVec 32)
  /-- `LBF` (R238). -/
  | lbf (t : Thr) (w : BitVec 32)
  /-- `LBLD` (R238). -/
  | lbld (t : Thr) (w : BitVec 32)
  /-- `LBST` (R238). -/
  | lbst (t : Thr) (w : BitVec 32)
  /-- `LBMASK` (R238). -/
  | lbmask (t : Thr) (w : BitVec 32)
  /-- `LBSTAT` (R238). -/
  | lbstat (t : Thr) (w : BitVec 32)
  /-- `SFL` (R239). -/
  | sfl (t : Thr) (w : BitVec 32)
  /-- `SFA` (R239). -/
  | sfa (t : Thr) (w : BitVec 32)
  /-- `SFU` (R241). -/
  | sfu (t : Thr) (w : BitVec 32)
  /-- `SFRD` (R239). -/
  | sfrd (t : Thr) (w : BitVec 32)
  /-- `SFSEC` (R239). -/
  | sfsec (t : Thr) (w : BitVec 32)
  /-- `SF_SCRUB_TICK` (R173). -/
  | sfScrubTick (n : NodeId)
  /-- `SCRUB_TICK` (R439). -/
  | scrubTick (k : Scrubber)
  /-- `RMAP_REBUILD` (R169). -/
  | rmapRebuild (src : Src) (n : NodeId)
  /-- `RMAP_REBUILD_DONE` (R169). -/
  | rmapRebuildDone (n : NodeId)
  /-- `SF_CONS_END` (R178). -/
  | sfConsEnd (src : Src)
  /-- `OVF_CTRL_WRITE` (R159). -/
  | ovfCtrlWrite (src : Src) (wdata : BitVec 32)
  /-- `TALLOC` (R242). -/
  | talloc (t : Thr) (w : BitVec 32)
  /-- `TFIND` (R242). -/
  | tfind (t : Thr) (w : BitVec 32)
  /-- `TCHAIN` (R242). -/
  | tchain (t : Thr) (w : BitVec 32)
  /-- `TFREE` (R242). -/
  | tfree (t : Thr) (w : BitVec 32)
  /-- `TRD` (R242). -/
  | trd (t : Thr) (w : BitVec 32)
  /-- `TWR` (R243). -/
  | twr (t : Thr) (w : BitVec 32)
  /-- `TRDX` (R242). -/
  | trdx (t : Thr) (w : BitVec 32)
  /-- `PLK` (R244). -/
  | plk (t : Thr) (w : BitVec 32)
  /-- `SEND_SNP` (R245). -/
  | sendSnp (t : Thr) (w : BitVec 32)
  /-- `SEND_MRD` (R245). -/
  | sendMrd (t : Thr) (w : BitVec 32)
  /-- `SEND_MWR` (R245). -/
  | sendMwr (t : Thr) (w : BitVec 32)
  /-- `SEND_RSP` (R246). -/
  | sendRsp (t : Thr) (w : BitVec 32)
  /-- `SEND_MGT` (R245). -/
  | sendMgt (t : Thr) (w : BitVec 32)
  /-- `WAIT` (R247). -/
  | wait (t : Thr) (w : BitVec 32)
  /-- `END` (R247). -/
  | endH (t : Thr) (w : BitVec 32)
  /-- `CBAR` (R248). -/
  | cbar (t : Thr) (w : BitVec 32)
  /-- `CBAR_T` (R248). -/
  | cbarT (t : Thr) (w : BitVec 32)
  /-- `YIELD` (R249). -/
  | yieldT (t : Thr) (w : BitVec 32)
  /-- `RTE` (R249). -/
  | rte (t : Thr) (w : BitVec 32)
  /-- `TRAP` (R249). -/
  | trap (t : Thr) (w : BitVec 32)
  /-- `CRR` (R222). -/
  | crr (t : Thr) (w : BitVec 32)
  /-- `CRW` (R222). -/
  | crw (t : Thr) (w : BitVec 32)
  /-- `FLIT_RECEIVE` (R352). -/
  | flitReceive (r : NodeId) (inp : RtrPort) (flits : List Flit)
  /-- `PACKET_PUBLISH` (R368). -/
  | packetPublish (q : QueueId) (flits : List Flit)
  /-- `QUEUE_READ` (R369). -/
  | queueRead (q : QueueId)
  /-- `CREDIT` (R358). -/
  | credit (e : Endpoint) (q : QueueId) (count : Nat)
  /-- `MGT_NAK` (R359). -/
  | mgtNak (t : Thr)
  /-- `MGT_RESEND` (R359). -/
  | mgtResend (t : Thr)
  /-- `SINK_ABSORB` (R363). -/
  | sinkAbsorb (n : NodeId) (p : HpId) (idx : Fin 2048)
  /-- `QUENCH` (R361). -/
  | quench (src : Src) (n : NodeId) (wdata : BitVec 32)
  /-- `QUENCH_ACK` (R361). -/
  | quenchAck (n : NodeId) (shell : QShell)
  /-- `EPOCH_CHANGE` (R365). -/
  | epochChange (src : Src)
  /-- `EPOCH_DRAIN_DONE` (R365). -/
  | epochDrainDone
  /-- `EPOCH_DRAIN_TIMEOUT` (R366). -/
  | epochDrainTimeout
  /-- `QUADRANT_GATE` (R381). -/
  | quadrantGate (src : Src) (q : QuadId)
  /-- `GATING_DONE` (R382). -/
  | gatingDone (q : QuadId)
  /-- `QUADRANT_UNGATE` (R384). -/
  | quadrantUngate (src : Src) (q : QuadId)
  /-- `UNGATING_FILL_DONE` (R384). -/
  | ungatingFillDone (q : QuadId)
  /-- `UNGATE_TIMEOUT` (R384). -/
  | ungateTimeout (q : QuadId)
  /-- `STANDBY` (R392). -/
  | modeStandby (src : Src)
  /-- `SERVICE` (R394). -/
  | modeService (src : Src)
  /-- `EVACUATE` (R100). -/
  | modeEvacuate (src : Src)
  /-- `SELFTEST` (R463). -/
  | modeSelftest (src : Src)
  /-- `FULL` (R407). -/
  | rstFull (src : Src)
  /-- `RELEASE` (R408). -/
  | rstRelease (src : Src)
  /-- `KICK` (R414). -/
  | wdogKick (src : Src) (wdata : BitVec 32)
  /-- `WATCHDOG_EXPIRY` (R414). -/
  | watchdogExpiry
  /-- `EXTEND` (R404). -/
  | measExtend (src : Src) (wdata : BitVec 32)
  /-- `EXTEND_DONE` (R402). -/
  | measExtendDone
  /-- `PRELOAD` (R321). -/
  | xltPreload (src : Src) (inst : BitVec 6) (pclass : BitVec 2)
  /-- `PRELOAD_LOCK` (R318). -/
  | xltPreloadLock (src : Src) (inst : BitVec 6) (pclass : BitVec 2)
  /-- `UNLOCK` (R318). -/
  | xltUnlock (src : Src) (inst : BitVec 6) (way : BitVec 5)
  /-- `INV_CTX` (R321). -/
  | xltInvCtx (src : Src)
  /-- `INV_PEXT` (R321). -/
  | xltInvPext (src : Src)
  /-- `INV_ALL` (R321). -/
  | xltInvAll (src : Src)
  /-- `XLT_CMD_DONE` (R321). -/
  | xltCmdDone (err : BmErr)
  /-- `CHANNEL_GO` (R333). -/
  | channelGo (src : Src) (c : ChanId) (err : BmErr)
  /-- `CHANNEL_RESUME` (R333). -/
  | channelResume (src : Src) (c : ChanId)
  /-- `CHANNEL_STOP` (R333). -/
  | channelStop (src : Src) (c : ChanId)
  /-- `REPORT` (R328). -/
  | dmaReport (msg : Line)
  /-- `ITEM_TMO` (R328). -/
  | itemTmo (c : ChanId) (u : BitVec 32)
  /-- `BUSY_REISSUE` (R328). -/
  | busyReissue (c : ChanId) (u : BitVec 32)
  /-- `DOORBELL` (R482). -/
  | doorbell (src : Src)
  /-- `COMPLETE` (R482). -/
  | mbComplete (src : Src)
  /-- `GET_VERSION` (R484). -/
  | getVersion
  /-- `GET_MEASUREMENTS` (R405). -/
  | getMeasurements
  /-- `GET_STATUS` (R484). -/
  | getStatus
  /-- `FULL_RESET` (R407). -/
  | mbFullReset
  /-- `SHUTDOWN` (R488). -/
  | mbShutdown
  /-- `CTX_SET` (R489). -/
  | ctxSet (err : BmErr)
  /-- `MAP_RUN` (R490). -/
  | mapRun (err : BmErr)
  /-- `UNMAP_RUN` (R491). -/
  | unmapRun (err : BmErr)
  /-- `MIG_START` (R492). -/
  | migStart (err : BmErr)
  /-- `MIG_STATUS` (R484). -/
  | migStatus (err : BmErr)
  /-- `MIG_RESUME` (R492). -/
  | migResume (err : BmErr)
  /-- `MIG_STOP` (R492). -/
  | migStop
  /-- `SET_POWER` (R493). -/
  | setPower
  /-- `GATE` (R493). -/
  | mbGate
  /-- `PMC_READ` (R484). -/
  | pmcRead
  /-- `MAILBOX` (R480). -/
  | evMailbox (t : Fin 8)
  /-- `SESSION` (R417). -/
  | evSession (t : Fin 8) (err : BmErr)
  /-- `DEPART` (R420). -/
  | evDepart (t : Fin 8) (err : BmErr)
  /-- `ERROR_EVENT` (R480). -/
  | evError (t : Fin 8)
  /-- `MODE_EVENT` (R480). -/
  | evMode (t : Fin 8)
  /-- `DMA_EVENT` (R480). -/
  | evDma (t : Fin 8)
  /-- `MP_DETACH` (R480). -/
  | evMpDetach (t : Fin 8)
  /-- `TIMER` (R480). -/
  | evTimer (t : Fin 8)
  /-- `FLUSH_EVENT` (R480). -/
  | evFlush (t : Fin 8)
  /-- `PMC_OVF` (R496). -/
  | pmcOvf (t : Fin 8)
  /-- `VISIT` (R421). -/
  | visit (n : NodeId) (slot : Fin 16)
  /-- `VISIT_DONE` (R421). -/
  | visitDone (n : NodeId) (host : BitVec 10) (depart : Bool) (result : BitVec 4)
  /-- `FREEZE` (R495). -/
  | pmcFreeze (src : Src) (wdata : BitVec 32)
  /-- `SNAP` (R495). -/
  | pmcSnap (src : Src)
  /-- `CLEAR` (R495). -/
  | pmcClear (src : Src)
  /-- `APERTURE_READ_LOW` (R511). -/
  | apertureReadLow (src : Src) (off : BitVec 20)
  /-- `APERTURE_READ_HIGH` (R511). -/
  | apertureReadHigh (src : Src) (off : BitVec 20)
  /-- `APERTURE_WRITE_LOW` (R511). -/
  | apertureWriteLow (src : Src) (off : BitVec 20) (wdata : BitVec 32)
  /-- `APERTURE_WRITE_HIGH` (R513). -/
  | apertureWriteHigh (src : Src) (off : BitVec 20) (wdata : BitVec 32)
  /-- `REFTICK_RETURN` (R59). -/
  | reftickReturn
  /-- `REGISTER_PORT_TIMEOUT` (R45). -/
  | registerPortTimeout
  /-- `MEDIA_PORT_RECOVERY` (R48). -/
  | mediaPortRecovery (m : MpId)
  /-- `SORREL_END` (R466). -/
  | sorrelEnd (res : SorrelRes)
  deriving DecidableEq, Repr

end Sys2Proof
end

