-- ==== Sys2Proof/Machine/Bits.lean ====
section
/-! DEFINITION. Sys2Proof/Machine/Bits.lean: bit fields (R7), little-endian bytes (R8) and sparse maps.

A sparse map lists (key, value) pairs with strictly rising keys and no value equal to what an unlisted key
reads as, so equal maps are equal lists. A memory is the sparse map of bytes, a list of `Host.Cell`. -/

namespace Sys2Proof.Machine

/-- Field `[hi:lo]` of a word, as a number (R7). -/
def bf {w : Nat} (v : BitVec w) (hi lo : Nat) : Nat := (v.toNat >>> lo) % 2 ^ (hi - lo + 1)

/-- Bit `i` of a word. -/
def bt {w : Nat} (v : BitVec w) (i : Nat) : Bool := v.toNat.testBit i

/-- A word with field `[hi:lo]` replaced (R7). -/
def setBf {w : Nat} (v : BitVec w) (hi lo x : Nat) : BitVec w :=
  let m := BitVec.ofNat w ((2 ^ (hi - lo + 1) - 1) <<< lo)
  (v &&& ~~~m) ||| (BitVec.ofNat w ((x % 2 ^ (hi - lo + 1)) <<< lo))

/-- A word with bit `i` set or cleared. -/
def setBt {w : Nat} (v : BitVec w) (i : Nat) (b : Bool) : BitVec w := setBf v i i (if b then 1 else 0)

/-- The number of a truth value. -/
def b2n (b : Bool) : Nat := if b then 1 else 0

/-- How many of the low `n` bits are 1. -/
def popCount (x : Nat) : Nat → Nat
  | 0 => 0
  | n + 1 => popCount x n + b2n (x.testBit n)

/-- Byte `i` of a word (R8). -/
def byteOf {w : Nat} (v : BitVec w) (i : Nat) : Byte := BitVec.ofNat 8 (v.toNat >>> (8 * i))

/-- Bytes of `v` under mask `be`, the others from `old` (Table 3.16). -/
def mergeBytes (old v : Line) (be : BitVec 64) : Line :=
  (List.range 64).foldl (fun a i => if bt be i then setBf a (8 * i + 7) (8 * i) (bf v (8 * i + 7) (8 * i)) else a) old

/-- A sparse map from natural keys. -/
abbrev SMap (α : Type) := List (Nat × α)

/-- The value at key `k`; an unlisted key reads as `d k`. -/
def smGet {α : Type} (d : Nat → α) : SMap α → Nat → α
  | [], k => d k
  | (a, v) :: m, k => if k = a then v else smGet d m k

/-- The map without key `k`. -/
def smDrop {α : Type} (m : SMap α) (k : Nat) : SMap α := m.filter fun e => e.1 != k

/-- Put `(k, v)` before the first larger key. -/
def smIns {α : Type} (k : Nat) (v : α) : SMap α → SMap α
  | [] => [(k, v)]
  | (a, x) :: m => if k < a then (k, v) :: (a, x) :: m else (a, x) :: smIns k v m

/-- Write key `k`, keeping the canonical form: the value an unlisted key reads as is not listed. -/
def smSet {α : Type} [DecidableEq α] (d : Nat → α) (m : SMap α) (k : Nat) (v : α) : SMap α :=
  if v = d k then smDrop m k else smIns k v (smDrop m k)

/-- The canonical form: keys above `lo` rise strictly and no listed value is the unlisted one. -/
def smWfFrom {α : Type} [DecidableEq α] (d : Nat → α) : Option Nat → SMap α → Bool
  | _, [] => true
  | lo, (a, x) :: m => (match lo with | none => true | some l => decide (l < a)) && decide (x ≠ d a) && smWfFrom d (some a) m

/-- A map is in canonical form. -/
def smWf {α : Type} [DecidableEq α] (d : Nat → α) (m : SMap α) : Bool := smWfFrom d none m

/-- Keep the entries whose key passes. -/
def smFilter {α : Type} (p : Nat → Bool) (m : SMap α) : SMap α := m.filter (fun e => p e.1)

/-- What an unlisted byte of a memory reads as: zero. FILL and the written bits clear every array of the block
(R397); block memory after a cold reset is treated as holding nothing (R396, log entry 6). -/
def memZero : Nat → Byte := fun _ => 0

/-- A memory: byte cells in canonical form. -/
abbrev Memory := SMap Byte

/-- The canonical form of a memory. -/
abbrev Memory.wf (m : Memory) : Bool := smWf memZero m

/-- Read one byte. -/
def memByte (m : Memory) (a : Nat) : Byte := smGet memZero m a

/-- Read `n` bytes at `a`, little-endian (R8). -/
def memRead (m : Memory) (a : Nat) : Nat → Nat
  | 0 => 0
  | n + 1 => memRead m a n + (memByte m (a + n)).toNat * 2 ^ (8 * n)

/-- Write the low `n` bytes of `v` at `a`, little-endian (R8). -/
def memWrite (m : Memory) (a v : Nat) : Nat → Memory
  | 0 => m
  | n + 1 => smSet memZero (memWrite m a v n) (a + n) (BitVec.ofNat 8 (v >>> (8 * n)))

/-- Write the bytes of a line whose enable bit is 1 (Table 3.16). -/
def memWriteBe (m : Memory) (a : Nat) (v : Line) (be : BitVec 64) : Nat → Memory
  | 0 => m
  | n + 1 =>
    if bt be n then smSet memZero (memWriteBe m a v be n) (a + n) (byteOf v n) else memWriteBe m a v be n

/-- Read the 64-bit granule `g` of a memory. -/
def memGran (m : Memory) (g : Nat) : Word := BitVec.ofNat 64 (memRead m (8 * g) 8)

/-- Read the 64-byte line `l` of a memory. -/
def memLine (m : Memory) (l : Nat) : Line := BitVec.ofNat 512 (memRead m (64 * l) 64)

/-- The lowest of the `n` numbers from `i` on for which `p` holds. -/
def firstFrom (p : Nat → Bool) : Nat → Nat → Option Nat
  | 0, _ => none
  | n + 1, i => if p i then some i else firstFrom p n (i + 1)

end Sys2Proof.Machine
end

