-- ==== Sys2Proof/Machine/Codes.lean ====
section
/-! DEFINITION. Sys2Proof/Machine/Codes.lean: the SECDED code (R434, R435), CRC-32 and SHA-384. -/

namespace Sys2Proof.Machine

/-- All 8-bit values of weight `w`, ascending. -/
def ofWeight (w : Nat) : List Nat := (List.range 256).filter fun v => popCount v 8 == w

/-- The list L of odd-weight columns, by weight and then by value (R434). -/
def secdedL : List Nat := ofWeight 3 ++ ofWeight 5 ++ ofWeight 7

/-- The check of the low `k` bits of `d` (R434). -/
def secdedCheck (k d : Nat) : Nat :=
  ((List.range k).zip secdedL).foldl (fun c p => if d.testBit p.1 then c ^^^ p.2 else c) 0

/-- What a syndrome says (R435). -/
inductive Ecc where
  | good
  | checkBit
  | dataBit (i : Nat)
  | uce
  deriving DecidableEq, Repr

/-- Classify a syndrome over `k` data bits (R435). -/
def eccClass (k syn : Nat) : Ecc :=
  if syn = 0 then .good
  else if popCount syn 8 = 1 then .checkBit
  else match secdedL.findIdx? (· == syn) with
    | some i => if i < k then .dataBit i else .uce
    | none => .uce

/-- The data of a granule after its check (R435). -/
def eccFix {w : Nat} (d : BitVec w) : Ecc → BitVec w
  | .dataBit i => setBt d i (!bt d i)
  | _ => d

/-- A single-bit error was corrected. -/
def eccCe : Ecc → Bool
  | .checkBit | .dataBit _ => true
  | _ => false

/-- One bit of the reflected CRC-32 of IEEE 802.3 (log entry 10). -/
def crcBit (c : Nat) : Nat := if c % 2 = 1 then (c / 2) ^^^ 0xEDB88320 else c / 2

/-- One byte of CRC-32. -/
def crcByte (c : Nat) (b : Byte) : Nat :=
  (List.range 8).foldl (fun c _ => crcBit c) (c ^^^ b.toNat)

/-- CRC-32 with the IEEE 802.3 polynomial over a list of bytes (log entry 10). -/
def crc32 (bs : List Byte) : BitVec 32 := BitVec.ofNat 32 ((bs.foldl crcByte 0xFFFFFFFF) ^^^ 0xFFFFFFFF)

/-! ### SHA-384 (R402; FIPS 180-4, log entry 10) -/

/-- The largest `r` of `b` bits with `r ^ e ≤ x`, found bit by bit. -/
def iroot (e x : Nat) : Nat → Nat → Nat
  | 0, r => r
  | b + 1, r => if (r + 2 ^ b) ^ e ≤ x then iroot e x b (r + 2 ^ b) else iroot e x b r

/-- The first primes. -/
def primes80 : List Nat := (List.range 410).filter fun n => 2 ≤ n && (List.range 21).all fun d => d < 2 || n ≤ d || n % d != 0

/-- The 80 round constants: fractional parts of the cube roots of the first 80 primes. -/
def shaK : List Word := primes80.map fun p => BitVec.ofNat 64 (iroot 3 (p * 2 ^ 192) 68 0)

/-- The initial hash value of SHA-384: fractional parts of the square roots of the 9th to 16th primes. -/
def shaH0 : List Word := ((primes80.drop 8).take 8).map fun p => BitVec.ofNat 64 (iroot 2 (p * 2 ^ 128) 68 0)

/-- One message-schedule word from the sixteen before it, newest first. -/
def shaSched (w : List Word) : Word :=
  let g (i : Nat) := w.getD i 0
  let s0 := (g 14).rotateRight 1 ^^^ (g 14).rotateRight 8 ^^^ (g 14 >>> 7)
  let s1 := (g 1).rotateRight 19 ^^^ (g 1).rotateRight 61 ^^^ (g 1 >>> 6)
  s1 + g 6 + s0 + g 15

/-- One compression round over the eight working words. -/
def shaRound (v : List Word) (kw : Word) : List Word :=
  let g (i : Nat) := v.getD i 0
  let e := g 4
  let a := g 0
  let t1 := g 7 + (e.rotateRight 14 ^^^ e.rotateRight 18 ^^^ e.rotateRight 41) + ((e &&& g 5) ^^^ (~~~e &&& g 6)) + kw
  let t2 := (a.rotateRight 28 ^^^ a.rotateRight 34 ^^^ a.rotateRight 39)
    + ((a &&& g 1) ^^^ (a &&& g 2) ^^^ (g 1 &&& g 2))
  [t1 + t2, a, g 1, g 2, g 3 + t1, e, g 5, g 6]

/-- The 80 schedule words of a block of sixteen. -/
def shaExpand (blk : List Word) : List Word :=
  ((List.range 64).foldl (fun w _ => shaSched w :: w) blk.reverse).reverse

/-- Compress one block of sixteen words. -/
def shaBlock (h blk : List Word) : List Word :=
  let v := ((shaExpand blk).zip shaK).foldl (fun v p => shaRound v (p.1 + p.2)) h
  (h.zip v).map fun p => p.1 + p.2

/-- Big-endian words of a byte list, by index. -/
def shaWord (bs : List Byte) (i : Nat) : Word :=
  BitVec.ofNat 64 (((bs.drop (8 * i)).take 8).foldl (fun a b => a * 256 + b.toNat) 0)

/-- The padded message. -/
def shaPad (bs : List Byte) : List Byte :=
  let n := bs.length
  let z := (239 - n % 128) % 128
  let tail : List Byte := (List.range 16).reverse.map fun i => BitVec.ofNat 8 ((8 * n) >>> (8 * i))
  bs ++ [(0x80 : Byte)] ++ List.replicate z (0 : Byte) ++ tail

/-- SHA-384 of a byte list, as 48 bytes with the first byte lowest. -/
def sha384 (bs : List Byte) : BitVec 384 :=
  let p := shaPad bs
  let h := (List.range (p.length / 128)).foldl
    (fun h b => shaBlock h ((List.range 16).map fun i => shaWord ((p.drop (128 * b)).take 128) i)) shaH0
  let out : List Byte := (h.take 6).flatMap fun (w : Word) => (List.range 8).reverse.map fun i => BitVec.ofNat 8 (w.toNat >>> (8 * i))
  BitVec.ofNat 384 (out.reverse.foldl (fun a b => a * 256 + b.toNat) 0)

/-- The bytes of a memory from `a`. -/
def memBytes (m : Memory) (a n : Nat) : List Byte := (List.range n).map fun i => memByte m (a + i)

/-- The bytes of a word, lowest first. -/
def wordBytes {w : Nat} (v : BitVec w) (n : Nat) : List Byte := (List.range n).map fun i => byteOf v i

end Sys2Proof.Machine
end

