-- ==== Sys2Proof/Config.lean ====
section
/-! DEFINITION. Sys2Proof/Config.lean: what an implementation fixes and the values the spec leaves open.

Every constant here is opaque: nothing can evaluate it, so a statement about it holds for every value. -/

namespace Sys2Proof.Config

/-- A free value: the `i`-th choice the spec leaves open, read at the counter `State.free` (log entry 4). -/
opaque freeValue : Nat → BitVec 64
/-- A free choice between two permitted outcomes, read at the counter `State.free` (log entry 4). -/
opaque freeBool : Nat → Bool
/-- How a block-memory read that no command answers ends, at the counter `State.free` and for a key that names the read (log
entry 115): its value modulo 5 is taken. -/
opaque freeBmErr : Nat → Nat → Nat
/-- Highest energy the block can draw in one tick at throttle level `k`, in units of 0.25 W × 10 ns (R385):
fused at manufacture, no value given. -/
opaque energyMax : Nat → Nat
/-- The energy estimate of one tick from the activity counts and the readings in use (R385): the coefficients
are fused, no value given. -/
opaque energyOf : List Nat → List Nat → Nat
/-- The average issue interval of a quadrant in picoseconds, as its replica lane measures it (R388). -/
opaque issuePs : Nat → BitVec 16
/-- The 48-byte ROM identity value stored in the boot ROM (R403): no value given. -/
opaque romIdentity : BitVec 384
/-- The place of the identity record in the boot cache (R400 step 1), in units of 16 bytes: no value given. -/
opaque identPlace : Nat
/-- The contents of the boot ROM, by 64-bit granule (R479): no value given. -/
opaque bootRom : Nat → BitVec 64

end Sys2Proof.Config
end

