-- ==== Sys2Proof/Machine/Regs.lean ====
section
/-! DEFINITION. Sys2Proof/Machine/Regs.lean: the registers of the register port, transcribed from the field
maps of the chapters and the addresses of Tables 18.2 to 18.7 (R11, R501 to R510). -/

namespace Sys2Proof.Machine

/-- A ranged field `[hi:lo]` whose encodings outside `min..max` are reserved (R12). -/
structure Ranged where
  hi : Nat
  lo : Nat
  min : Nat
  max : Nat
  deriving DecidableEq, Repr

/-- Who may access a register (R502): by the common rule, writable at either privilege, writable only by
Chervil, accessible only by Chervil, or a supervisor-only counter. -/
inductive RegAcc where
  | std | userWr | chvWr | chvAll | pmc
  deriving DecidableEq, Repr

/-- One row of the register map: the bits software writes (`rw`) or clears by writing 1 (`w1c`), the cold-reset
value, the bits a full reset returns to that value (`full`), and the severity class of its sticky errors. -/
structure RegDesc where
  name : String
  base : Nat
  stride : Nat
  count : Nat
  stride2 : Nat
  count2 : Nat
  rw : BitVec 32
  w1c : BitVec 32
  reset : BitVec 32
  full : BitVec 32
  ranged : List Ranged
  acc : RegAcc
  ce : BitVec 32
  ucna : BitVec 32
  ucr : BitVec 32
  fatal : BitVec 32
  group : Nat
  deriving DecidableEq, Repr

/-- Address of HA_MODE. -/
def HA_MODE : Nat := 0x0
/-- Address of HA_MODE_REQ. -/
def HA_MODE_REQ : Nat := 0x4
/-- Address of HA_RST_CAUSE. -/
def HA_RST_CAUSE : Nat := 0x8
/-- Address of HA_RST_STAT. -/
def HA_RST_STAT : Nat := 0xC
/-- Address of HA_RST_TS. -/
def HA_RST_TS : Nat := 0x10
/-- Address of HA_RST_REQ. -/
def HA_RST_REQ : Nat := 0x14
/-- Address of HA_WDOG. -/
def HA_WDOG : Nat := 0x18
/-- Address of HA_BOOT_CTRL. -/
def HA_BOOT_CTRL : Nat := 0x20
/-- Address of HA_BOOT_STAT. -/
def HA_BOOT_STAT : Nat := 0x24
/-- Address of HA_TOPOLOGY. -/
def HA_TOPOLOGY : Nat := 0x100
/-- Address of HA_MP_MAP. -/
def HA_MP_MAP : Nat := 0x104
/-- Address of HA_HOME_MAPm. -/
def HA_HOME_MAP : Nat := 0x200
/-- Address of HA_STRAP. -/
def HA_STRAP : Nat := 0x300
/-- Address of HA_INPUT_ERR. -/
def HA_INPUT_ERR : Nat := 0x304
/-- Address of HA_PORT_TMO. -/
def HA_PORT_TMO : Nat := 0x30C
/-- Address of HA_HP_STATn. -/
def HA_HP_STAT : Nat := 0x400
/-- Address of HA_MP_STATn. -/
def HA_MP_STAT : Nat := 0x440
/-- Address of HA_SENSEq. -/
def HA_SENSE : Nat := 0x460
/-- Address of HA_HP_V1CTXn. -/
def HA_HP_V1CTX : Nat := 0x480
/-- Address of HA_PORT_CAP. -/
def HA_PORT_CAP : Nat := 0x500
/-- Address of HA_DEVLOAD_Tc. -/
def HA_DEVLOAD_T : Nat := 0x600
/-- Address of HA_SNP_TMO. -/
def HA_SNP_TMO : Nat := 0x620
/-- Address of HA_LOSS_PEND. -/
def HA_LOSS_PEND : Nat := 0x624
/-- Address of HA_DEPART_ERR. -/
def HA_DEPART_ERR : Nat := 0x628
/-- Address of HA_OVF_CTRL. -/
def HA_OVF_CTRL : Nat := 0x700
/-- Address of HA_OVF_BASE. -/
def HA_OVF_BASE : Nat := 0x704
/-- Address of HA_OVF_COUNT. -/
def HA_OVF_COUNT : Nat := 0x708
/-- Address of HA_SF_CONS. -/
def HA_SF_CONS : Nat := 0x70C
/-- Address of HA_SNP_ERR. -/
def HA_SNP_ERR : Nat := 0x800
/-- Address of HA_SAGE_VER. -/
def HA_SAGE_VER : Nat := 0x900
/-- Address of HA_SAGE_FEAT. -/
def HA_SAGE_FEAT : Nat := 0x904
/-- Address of HA_PROG_SHADOW. -/
def HA_PROG_SHADOW : Nat := 0xA00
/-- Address of HA_IMG_STAT. -/
def HA_IMG_STAT : Nat := 0xA04
/-- Address of HA_IMG_HVER. -/
def HA_IMG_HVER : Nat := 0xA08
/-- Address of HA_IMG_SVER. -/
def HA_IMG_SVER : Nat := 0xA0C
/-- Address of HA_ST_TIMEOUT. -/
def HA_ST_TIMEOUT : Nat := 0xB00
/-- Address of HA_ERR_SUM. -/
def HA_ERR_SUM : Nat := 0xC00
/-- Address of HA_ERR_IRQ_EN. -/
def HA_ERR_IRQ_EN : Nat := 0xC04
/-- Address of HA_ERR_ACC. -/
def HA_ERR_ACC : Nat := 0xC08
/-- Address of HA_ERR_ACC_CAP. -/
def HA_ERR_ACC_CAP : Nat := 0xC0C
/-- Address of HA_ERR_ACC_TS. -/
def HA_ERR_ACC_TS : Nat := 0xC10
/-- Address of HA_BM_CECNT. -/
def HA_BM_CECNT : Nat := 0xC14
/-- Address of HA_SCRUB_CTRL. -/
def HA_SCRUB_CTRL : Nat := 0xC20
/-- Address of HA_SCRUB_ERR. -/
def HA_SCRUB_ERR : Nat := 0xC24
/-- Address of HA_CTX_BASE. -/
def HA_CTX_BASE : Nat := 0xD00
/-- Address of HA_PLC_BASE. -/
def HA_PLC_BASE : Nat := 0xD04
/-- Address of HA_MIG_BASE. -/
def HA_MIG_BASE : Nat := 0xD08
/-- Address of HA_META_PLC. -/
def HA_META_PLC : Nat := 0xD0C
/-- Address of HA_META_CKPT. -/
def HA_META_CKPT : Nat := 0xD10
/-- Address of HA_XLT_CMD. -/
def HA_XLT_CMD : Nat := 0xD14
/-- Address of HA_XLT_ARG0. -/
def HA_XLT_ARG0 : Nat := 0xD18
/-- Address of HA_XLT_ARG1. -/
def HA_XLT_ARG1 : Nat := 0xD1C
/-- Address of HA_XLT_STAT. -/
def HA_XLT_STAT : Nat := 0xD20
/-- Address of HA_XLT_ERR. -/
def HA_XLT_ERR : Nat := 0xD24
/-- Address of HA_XLT_PMASKt_p. -/
def HA_XLT_PMASK : Nat := 0xD40
/-- Address of HA_XLT_OFFi. -/
def HA_XLT_OFF : Nat := 0xE00
/-- Address of HA_DMA_CTRL. -/
def HA_DMA_CTRL : Nat := 0xF00
/-- Address of HA_FAB_CTRL. -/
def HA_FAB_CTRL : Nat := 0x1000
/-- Address of HA_FAB_EPOCH. -/
def HA_FAB_EPOCH : Nat := 0x1004
/-- Address of HA_FAB_SINK. -/
def HA_FAB_SINK : Nat := 0x1008
/-- Address of HA_FAB_SINK_ACT. -/
def HA_FAB_SINK_ACT : Nat := 0x100C
/-- Address of HA_FAB_ERR. -/
def HA_FAB_ERR : Nat := 0x1010
/-- Address of HA_FAB_ERR_CAP. -/
def HA_FAB_ERR_CAP : Nat := 0x1014
/-- Address of HA_FAB_ERR_TS. -/
def HA_FAB_ERR_TS : Nat := 0x1018
/-- Address of HA_FAB_QCFG. -/
def HA_FAB_QCFG : Nat := 0x101C
/-- Address of HA_PWR_CAP. -/
def HA_PWR_CAP : Nat := 0x1100
/-- Address of HA_PWR_VREQ. -/
def HA_PWR_VREQ : Nat := 0x1104
/-- Address of HA_PWR_STAT. -/
def HA_PWR_STAT : Nat := 0x1108
/-- Address of HA_PWR_ERR. -/
def HA_PWR_ERR : Nat := 0x110C
/-- Address of HA_SESS_SUM. -/
def HA_SESS_SUM : Nat := 0x1200
/-- Address of HA_MP_DET. -/
def HA_MP_DET : Nat := 0x1204
/-- Address of HA_EVAC_STAT. -/
def HA_EVAC_STAT : Nat := 0x1208
/-- Address of HA_FLUSH_CTRL. -/
def HA_FLUSH_CTRL : Nat := 0x120C
/-- Address of HA_FLUSH_STAT. -/
def HA_FLUSH_STAT : Nat := 0x1210
/-- Address of HA_EV_CTRL. -/
def HA_EV_CTRL : Nat := 0x1300
/-- Address of HA_EV_STAT. -/
def HA_EV_STAT : Nat := 0x1304
/-- Address of HA_EV_WINa. -/
def HA_EV_WIN : Nat := 0x1340
/-- Address of HA_PS_CMD. -/
def HA_PS_CMD : Nat := 0x1400
/-- Address of HA_PS_ADDR. -/
def HA_PS_ADDR : Nat := 0x1404
/-- Address of HA_PS_WDATA. -/
def HA_PS_WDATA : Nat := 0x1408
/-- Address of HA_PS_RDATA. -/
def HA_PS_RDATA : Nat := 0x140C
/-- Address of HA_PS_STAT. -/
def HA_PS_STAT : Nat := 0x1410
/-- Address of HA_PS_ERR. -/
def HA_PS_ERR : Nat := 0x1414
/-- Address of HA_ST_CTRL. -/
def HA_ST_CTRL : Nat := 0x1500
/-- Address of HA_ST_PROG. -/
def HA_ST_PROG : Nat := 0x1504
/-- Address of HA_ST_SAVE. -/
def HA_ST_SAVE : Nat := 0x1508
/-- Address of HA_ST_STAT. -/
def HA_ST_STAT : Nat := 0x150C
/-- Address of HA_ST_RESq. -/
def HA_ST_RES : Nat := 0x1510
/-- Address of HA_ST_ERR. -/
def HA_ST_ERR : Nat := 0x1520
/-- Address of HA_PMC_SELk. -/
def HA_PMC_SEL : Nat := 0x1600
/-- Address of HA_PMC_LOk. -/
def HA_PMC_LO : Nat := 0x1604
/-- Address of HA_PMC_HIk. -/
def HA_PMC_HI : Nat := 0x1608
/-- Address of HA_PMC_CTRL. -/
def HA_PMC_CTRL : Nat := 0x1700
/-- Address of HA_PMC_STAT. -/
def HA_PMC_STAT : Nat := 0x1704
/-- Address of HA_CHV_ERR. -/
def HA_CHV_ERR : Nat := 0x1800
/-- Address of HA_CHV_ERR_CAP. -/
def HA_CHV_ERR_CAP : Nat := 0x1804
/-- Address of HA_CHV_ERR_TS. -/
def HA_CHV_ERR_TS : Nat := 0x1808
/-- Address of HA_CHV_STAT. -/
def HA_CHV_STAT : Nat := 0x180C
/-- Address of HA_CHV_TIMER. -/
def HA_CHV_TIMER : Nat := 0x1810
/-- Address of HA_SESSh_ST. -/
def HA_SESS_ST : Nat := 0x2000
/-- Address of HA_SESSh_LOST. -/
def HA_SESS_LOST : Nat := 0x2004
/-- Address of HA_MB_REQw. -/
def HA_MB_REQ : Nat := 0x10000
/-- Address of HA_MB_RSPw. -/
def HA_MB_RSP : Nat := 0x11000
/-- Address of HA_MB_DOORBELL. -/
def HA_MB_DOORBELL : Nat := 0x12000
/-- Address of HA_MB_STAT. -/
def HA_MB_STAT : Nat := 0x12004
/-- Address of HA_MB_CTRL. -/
def HA_MB_CTRL : Nat := 0x12008
/-- Address of HA_MB_COMPLETE. -/
def HA_MB_COMPLETE : Nat := 0x1200C
/-- Address of HA_MEAS_CTRL. -/
def HA_MEAS_CTRL : Nat := 0x18200
/-- Address of HA_MEAS_EXT_DIGw. -/
def HA_MEAS_EXT_DIG : Nat := 0x18300
/-- Address of HA_MEAS_EXT_SRC. -/
def HA_MEAS_EXT_SRC : Nat := 0x18330
/-- Address of HA_MEAS_EXT_LEN. -/
def HA_MEAS_EXT_LEN : Nat := 0x18334
/-- Address of HA_MEAS_EXT_VER. -/
def HA_MEAS_EXT_VER : Nat := 0x18338
/-- Address of HA_MEAS_EXT_GO. -/
def HA_MEAS_EXT_GO : Nat := 0x1833C
/-- Address offset of QD_GATE. -/
def QD_GATE : Nat := 0x0
/-- Address offset of QD_PWR_STAT. -/
def QD_PWR_STAT : Nat := 0x4
/-- Address offset of QD_PWR_ERR. -/
def QD_PWR_ERR : Nat := 0x8
/-- Address offset of QD_SPEED. -/
def QD_SPEED : Nat := 0xC
/-- Address offset of ND_SF_CTRL. -/
def ND_SF_CTRL : Nat := 0x100
/-- Address offset of ND_SF_STAT. -/
def ND_SF_STAT : Nat := 0x104
/-- Address offset of ND_SF_ERR. -/
def ND_SF_ERR : Nat := 0x108
/-- Address offset of ND_SF_CECNT. -/
def ND_SF_CECNT : Nat := 0x10C
/-- Address offset of ND_SF_SCRUB. -/
def ND_SF_SCRUB : Nat := 0x110
/-- Address offset of ND_SF_ERR_CAP. -/
def ND_SF_ERR_CAP : Nat := 0x114
/-- Address offset of ND_SF_ERR_TS. -/
def ND_SF_ERR_TS : Nat := 0x118
/-- Address offset of ND_TRK_CTRL. -/
def ND_TRK_CTRL : Nat := 0x200
/-- Address offset of ND_TRK_STAT. -/
def ND_TRK_STAT : Nat := 0x204
/-- Address offset of ND_TRK_PEND. -/
def ND_TRK_PEND : Nat := 0x208
/-- Address offset of ND_TRK_ERR. -/
def ND_TRK_ERR : Nat := 0x20C
/-- Address offset of ND_TRK_ERR_CAP. -/
def ND_TRK_ERR_CAP : Nat := 0x210
/-- Address offset of ND_ENG_ERR. -/
def ND_ENG_ERR : Nat := 0x300
/-- Address offset of ND_ENG_ERR_CAP. -/
def ND_ENG_ERR_CAP : Nat := 0x304
/-- Address offset of ND_ENG_ERR_TS. -/
def ND_ENG_ERR_TS : Nat := 0x308
/-- Address offset of ND_DSP_CTRL. -/
def ND_DSP_CTRL : Nat := 0x400
/-- Address offset of ND_DSP_STAT. -/
def ND_DSP_STAT : Nat := 0x404
/-- Address offset of ND_DSP_ERR. -/
def ND_DSP_ERR : Nat := 0x408
/-- Address offset of ND_DSP_ERR_CAP. -/
def ND_DSP_ERR_CAP : Nat := 0x40C
/-- Address offset of ND_FAB_CTRL. -/
def ND_FAB_CTRL : Nat := 0x500
/-- Address offset of ND_FAB_STAT. -/
def ND_FAB_STAT : Nat := 0x504
/-- Address offset of ND_FAB_QCFG. -/
def ND_FAB_QCFG : Nat := 0x508
/-- Address offset of ND_SCRUB_CTRL. -/
def ND_SCRUB_CTRL : Nat := 0x600
/-- Address offset of ND_SCRUB_ERR. -/
def ND_SCRUB_ERR : Nat := 0x604
/-- Address offset of ND_PMC_SELk. -/
def ND_PMC_SEL : Nat := 0x700
/-- Address offset of ND_PMC_LOk. -/
def ND_PMC_LO : Nat := 0x704
/-- Address offset of ND_PMC_HIk. -/
def ND_PMC_HI : Nat := 0x708
/-- Address of HA_DMA_CH_DESC. -/
def HA_DMA_CH_DESC : Nat := 0xF40
/-- Address of HA_DMA_CHX_DESC. -/
def HA_DMA_CHX_DESC : Nat := 0x1040
/-- Address of HA_DMA_CH_CTRL. -/
def HA_DMA_CH_CTRL : Nat := 0xF44
/-- Address of HA_DMA_CHX_CTRL. -/
def HA_DMA_CHX_CTRL : Nat := 0x1044
/-- Address of HA_DMA_CH_STAT. -/
def HA_DMA_CH_STAT : Nat := 0xF48
/-- Address of HA_DMA_CHX_STAT. -/
def HA_DMA_CHX_STAT : Nat := 0x1048
/-- Address of HA_DMA_CH_PROG. -/
def HA_DMA_CH_PROG : Nat := 0xF4C
/-- Address of HA_DMA_CHX_PROG. -/
def HA_DMA_CHX_PROG : Nat := 0x104C
/-- Address of HA_MEAS_SLOTs_w. -/
def HA_MEAS_SLOT : Nat := 0x18000
/-- Address of HA_MEAS_LOGe_w. -/
def HA_MEAS_LOG : Nat := 0x18400
/-- Address of HA_DBG_SEL. -/
def HA_DBG_SEL : Nat := 0x200000
/-- Address of HA_DBG_CTRL. -/
def HA_DBG_CTRL : Nat := 0x200004
/-- Address of HA_DBG_CHK. -/
def HA_DBG_CHK : Nat := 0x200008
/-- Address of HA_DBG_STAT. -/
def HA_DBG_STAT : Nat := 0x20000C

/-- Block, mailbox and measurement registers (Tables 18.2 and 18.4), part 1. -/
def blkRegs1 : List RegDesc := [
  ⟨"HA_MODE", HA_MODE, 0, 1, 0, 1, 0x0, 0x800, 0x1, 0x0, [], .std, 0x0, 0x800, 0x0, 0x0, 14⟩,
  ⟨"HA_MODE_REQ", HA_MODE_REQ, 0, 1, 0, 1, 0x0, 0x0, 0x0, 0x0, [], .std, 0x0, 0x0, 0x0, 0x0, 0⟩,
  ⟨"HA_RST_CAUSE", HA_RST_CAUSE, 0, 1, 0, 1, 0x0, 0x1FF, 0x1, 0x0, [], .std, 0x0, 0x0, 0x0, 0x100, 15⟩,
  ⟨"HA_RST_STAT", HA_RST_STAT, 0, 1, 0, 1, 0x0, 0x0, 0x0, 0x0, [], .std, 0x0, 0x0, 0x0, 0x0, 0⟩,
  ⟨"HA_RST_TS", HA_RST_TS, 0, 1, 0, 1, 0x0, 0x0, 0x0, 0x0, [], .std, 0x0, 0x0, 0x0, 0x0, 0⟩,
  ⟨"HA_RST_REQ", HA_RST_REQ, 0, 1, 0, 1, 0x0, 0x0, 0x0, 0x0, [], .std, 0x0, 0x0, 0x0, 0x0, 0⟩,
  ⟨"HA_WDOG", HA_WDOG, 0, 1, 0, 1, 0xFF, 0x0, 0x0, 0x0, [], .std, 0x0, 0x0, 0x0, 0x0, 0⟩,
  ⟨"HA_BOOT_CTRL", HA_BOOT_CTRL, 0, 1, 0, 1, 0x3, 0x0, 0x0, 0x0, [], .std, 0x0, 0x0, 0x0, 0x0, 0⟩,
  ⟨"HA_BOOT_STAT", HA_BOOT_STAT, 0, 1, 0, 1, 0x0, 0x0, 0x0, 0x0, [], .std, 0x0, 0x0, 0x0, 0x0, 0⟩,
  ⟨"HA_TOPOLOGY", HA_TOPOLOGY, 0, 1, 0, 1, 0x0, 0x0, 0x0, 0x0, [], .std, 0x0, 0x0, 0x0, 0x0, 0⟩,
  ⟨"HA_MP_MAP", HA_MP_MAP, 0, 1, 0, 1, 0x77777777, 0x0, 0x0, 0x0, [], .std, 0x0, 0x0, 0x0, 0x0, 0⟩,
  ⟨"HA_HOME_MAP", HA_HOME_MAP, 4, 32, 0, 1, 0x1F1F1F1F, 0x0, 0x0, 0x0, [], .std, 0x0, 0x0, 0x0, 0x0, 0⟩,
  ⟨"HA_STRAP", HA_STRAP, 0, 1, 0, 1, 0x0, 0x0, 0x0, 0x0, [], .std, 0x0, 0x0, 0x0, 0x0, 0⟩,
  ⟨"HA_INPUT_ERR", HA_INPUT_ERR, 0, 1, 0, 1, 0x0, 0x1FFF, 0x0, 0x0, [], .std, 0x40, 0x11F, 0x1EA0, 0x0, 4⟩,
  ⟨"HA_PORT_TMO", HA_PORT_TMO, 0, 1, 0, 1, 0xFFFFFFFF, 0x0, 0x62C46262, 0x0, [⟨7, 0, 1, 255⟩, ⟨15, 8, 1, 255⟩, ⟨23, 16, 1, 255⟩, ⟨31, 24, 1, 255⟩], .std, 0x0, 0x0, 0x0, 0x0, 0⟩,
  ⟨"HA_HP_STAT", HA_HP_STAT, 4, 16, 0, 1, 0x0, 0x1C0, 0x2, 0x0, [], .std, 0x0, 0x180, 0x40, 0x0, 5⟩,
  ⟨"HA_MP_STAT", HA_MP_STAT, 4, 8, 0, 1, 0x0, 0x3C0, 0x2, 0x0, [], .std, 0x0, 0x100, 0x2C0, 0x0, 5⟩,
  ⟨"HA_SENSE", HA_SENSE, 4, 4, 0, 1, 0x0, 0x0, 0x0, 0x0, [], .std, 0x0, 0x0, 0x0, 0x0, 0⟩,
  ⟨"HA_HP_V1CTX", HA_HP_V1CTX, 4, 16, 0, 1, 0xFFFF, 0x0, 0x0, 0x0, [], .std, 0x0, 0x0, 0x0, 0x0, 0⟩,
  ⟨"HA_PORT_CAP", HA_PORT_CAP, 0, 1, 0, 1, 0x700FF, 0x0, 0x700FF, 0x0, [], .std, 0x0, 0x0, 0x0, 0x0, 0⟩,
  ⟨"HA_DEVLOAD_T", HA_DEVLOAD_T, 4, 8, 0, 1, 0x3FFFFFFF, 0x0, 0x380A0100, 0x0, [], .std, 0x0, 0x0, 0x0, 0x0, 0⟩,
  ⟨"HA_SNP_TMO", HA_SNP_TMO, 0, 1, 0, 1, 0xFF, 0x0, 0x31, 0x0, [⟨7, 0, 1, 255⟩], .std, 0x0, 0x0, 0x0, 0x0, 0⟩,
  ⟨"HA_LOSS_PEND", HA_LOSS_PEND, 0, 1, 0, 1, 0x0, 0x0, 0x0, 0x0, [], .std, 0x0, 0x0, 0x0, 0x0, 0⟩,
  ⟨"HA_DEPART_ERR", HA_DEPART_ERR, 0, 1, 0, 1, 0x0, 0x1, 0x0, 0x0, [], .std, 0x0, 0x0, 0x1, 0x0, 6⟩,
  ⟨"HA_OVF_CTRL", HA_OVF_CTRL, 0, 1, 0, 1, 0x3F, 0x0, 0x38, 0x0, [⟨5, 1, 22, 28⟩], .std, 0x0, 0x0, 0x0, 0x0, 0⟩,
  ⟨"HA_OVF_BASE", HA_OVF_BASE, 0, 1, 0, 1, 0x7F, 0x0, 0x0, 0x0, [], .std, 0x0, 0x0, 0x0, 0x0, 0⟩,
  ⟨"HA_OVF_COUNT", HA_OVF_COUNT, 0, 1, 0, 1, 0x0, 0x0, 0x0, 0x0, [], .std, 0x0, 0x0, 0x0, 0x0, 0⟩,
  ⟨"HA_SF_CONS", HA_SF_CONS, 0, 1, 0, 1, 0x0, 0x0, 0x1, 0x0, [], .std, 0x0, 0x0, 0x0, 0x0, 0⟩,
  ⟨"HA_SNP_ERR", HA_SNP_ERR, 0, 1, 0, 1, 0x0, 0xFFFFFFFF, 0x0, 0x0, [], .std, 0x0, 0xFFFF, 0xFFFF0000, 0x0, 6⟩,
  ⟨"HA_SAGE_VER", HA_SAGE_VER, 0, 1, 0, 1, 0x0, 0x0, 0x100, 0x0, [], .std, 0x0, 0x0, 0x0, 0x0, 0⟩,
  ⟨"HA_SAGE_FEAT", HA_SAGE_FEAT, 0, 1, 0, 1, 0x0, 0x0, 0x38707FF, 0x0, [], .std, 0x0, 0x0, 0x0, 0x0, 0⟩,
  ⟨"HA_PROG_SHADOW", HA_PROG_SHADOW, 0, 1, 0, 1, 0x7FFFF, 0x0, 0x0, 0x0, [], .std, 0x0, 0x0, 0x0, 0x0, 0⟩,
  ⟨"HA_IMG_STAT", HA_IMG_STAT, 0, 1, 0, 1, 0x1FFF, 0x0, 0xFFF, 0x0, [], .std, 0x0, 0x0, 0x0, 0x0, 0⟩,
  ⟨"HA_IMG_HVER", HA_IMG_HVER, 0, 1, 0, 1, 0xFFFFFFFF, 0x0, 0x0, 0x0, [], .std, 0x0, 0x0, 0x0, 0x0, 0⟩,
  ⟨"HA_IMG_SVER", HA_IMG_SVER, 0, 1, 0, 1, 0xFFFFFFFF, 0x0, 0x0, 0x0, [], .std, 0x0, 0x0, 0x0, 0x0, 0⟩]

/-- Block, mailbox and measurement registers (Tables 18.2 and 18.4), part 2. -/
def blkRegs2 : List RegDesc := [
  ⟨"HA_ST_TIMEOUT", HA_ST_TIMEOUT, 0, 1, 0, 1, 0xFFFF, 0x0, 0x7D0, 0x0, [⟨15, 0, 1, 65535⟩], .std, 0x0, 0x0, 0x0, 0x0, 0⟩,
  ⟨"HA_ERR_SUM", HA_ERR_SUM, 0, 1, 0, 1, 0x0, 0x0, 0x0, 0x0, [], .std, 0x0, 0x0, 0x0, 0x0, 0⟩,
  ⟨"HA_ERR_IRQ_EN", HA_ERR_IRQ_EN, 0, 1, 0, 1, 0xF, 0x0, 0xC, 0x0, [], .std, 0x0, 0x0, 0x0, 0x0, 0⟩,
  ⟨"HA_ERR_ACC", HA_ERR_ACC, 0, 1, 0, 1, 0x0, 0x7, 0x0, 0x0, [], .std, 0x0, 0x7, 0x0, 0x0, 10⟩,
  ⟨"HA_ERR_ACC_CAP", HA_ERR_ACC_CAP, 0, 1, 0, 1, 0x0, 0x10000000, 0x0, 0x0, [], .std, 0x0, 0x0, 0x0, 0x0, 0⟩,
  ⟨"HA_ERR_ACC_TS", HA_ERR_ACC_TS, 0, 1, 0, 1, 0x0, 0x0, 0x0, 0x0, [], .std, 0x0, 0x0, 0x0, 0x0, 0⟩,
  ⟨"HA_BM_CECNT", HA_BM_CECNT, 0, 1, 0, 1, 0xFFFF, 0x0, 0x0, 0x0, [], .std, 0x0, 0x0, 0x0, 0x0, 0⟩,
  ⟨"HA_SCRUB_CTRL", HA_SCRUB_CTRL, 0, 1, 0, 1, 0xFFFF03, 0x0, 0x192103, 0x0, [⟨15, 8, 1, 255⟩, ⟨23, 16, 1, 255⟩], .std, 0x0, 0x0, 0x0, 0x0, 0⟩,
  ⟨"HA_SCRUB_ERR", HA_SCRUB_ERR, 0, 1, 0, 1, 0x0, 0x3FF, 0x0, 0x0, [], .std, 0x2A5, 0x0, 0x1A, 0x140, 11⟩,
  ⟨"HA_CTX_BASE", HA_CTX_BASE, 0, 1, 0, 1, 0x3FFF, 0x0, 0x0, 0x0, [], .std, 0x0, 0x0, 0x0, 0x0, 0⟩,
  ⟨"HA_PLC_BASE", HA_PLC_BASE, 0, 1, 0, 1, 0xFFF, 0x0, 0x0, 0x0, [], .std, 0x0, 0x0, 0x0, 0x0, 0⟩,
  ⟨"HA_MIG_BASE", HA_MIG_BASE, 0, 1, 0, 1, 0x3FFF, 0x0, 0x0, 0x0, [], .std, 0x0, 0x0, 0x0, 0x0, 0⟩,
  ⟨"HA_META_PLC", HA_META_PLC, 0, 1, 0, 1, 0x1FF, 0x0, 0x0, 0x0, [], .std, 0x0, 0x0, 0x0, 0x0, 0⟩,
  ⟨"HA_META_CKPT", HA_META_CKPT, 0, 1, 0, 1, 0x3FFFFFF, 0x0, 0x0, 0x0, [], .std, 0x0, 0x0, 0x0, 0x0, 0⟩,
  ⟨"HA_XLT_CMD", HA_XLT_CMD, 0, 1, 0, 1, 0x0, 0x0, 0x0, 0x0, [], .std, 0x0, 0x0, 0x0, 0x0, 0⟩,
  ⟨"HA_XLT_ARG0", HA_XLT_ARG0, 0, 1, 0, 1, 0xFFFFFFFF, 0x0, 0x0, 0xFFFFFFFF, [], .std, 0x0, 0x0, 0x0, 0x0, 0⟩,
  ⟨"HA_XLT_ARG1", HA_XLT_ARG1, 0, 1, 0, 1, 0xFFFFF, 0x0, 0x0, 0xFFFFF, [], .std, 0x0, 0x0, 0x0, 0x0, 0⟩,
  ⟨"HA_XLT_STAT", HA_XLT_STAT, 0, 1, 0, 1, 0x0, 0x0, 0x0, 0x0, [], .std, 0x0, 0x0, 0x0, 0x0, 0⟩,
  ⟨"HA_XLT_ERR", HA_XLT_ERR, 0, 1, 0, 1, 0x0, 0xFF, 0x0, 0x0, [], .std, 0x10, 0x28, 0xC7, 0x0, 7⟩,
  ⟨"HA_XLT_PMASK", HA_XLT_PMASK, 4, 12, 0, 1, 0xFFFFFFFF, 0x0, 0xFFFFFFFF, 0x0, [], .std, 0x0, 0x0, 0x0, 0x0, 0⟩,
  ⟨"HA_XLT_OFF", HA_XLT_OFF, 4, 56, 0, 1, 0x0, 0x0, 0x0, 0x0, [], .std, 0x0, 0x0, 0x0, 0x0, 0⟩,
  ⟨"HA_DMA_CTRL", HA_DMA_CTRL, 0, 1, 0, 1, 0x7FFF, 0x0, 0x804, 0x0, [⟨4, 0, 1, 16⟩, ⟨11, 5, 1, 64⟩], .std, 0x0, 0x0, 0x0, 0x0, 0⟩,
  ⟨"HA_FAB_CTRL", HA_FAB_CTRL, 0, 1, 0, 1, 0x1, 0x0, 0x1, 0x0, [], .std, 0x0, 0x0, 0x0, 0x0, 0⟩,
  ⟨"HA_FAB_EPOCH", HA_FAB_EPOCH, 0, 1, 0, 1, 0x0, 0x0, 0x0, 0x0, [], .std, 0x0, 0x0, 0x0, 0x0, 0⟩,
  ⟨"HA_FAB_SINK", HA_FAB_SINK, 0, 1, 0, 1, 0xFFFFFFFF, 0x0, 0x0, 0x0, [], .std, 0x0, 0x0, 0x0, 0x0, 0⟩,
  ⟨"HA_FAB_SINK_ACT", HA_FAB_SINK_ACT, 0, 1, 0, 1, 0x0, 0x0, 0x0, 0x0, [], .std, 0x0, 0x0, 0x0, 0x0, 0⟩,
  ⟨"HA_FAB_ERR", HA_FAB_ERR, 0, 1, 0, 1, 0x0, 0xFF, 0x0, 0x0, [], .std, 0x1, 0xA0, 0x1E, 0x40, 8⟩,
  ⟨"HA_FAB_ERR_CAP", HA_FAB_ERR_CAP, 0, 1, 0, 1, 0x0, 0x2000000, 0x0, 0x0, [], .std, 0x0, 0x0, 0x0, 0x0, 0⟩,
  ⟨"HA_FAB_ERR_TS", HA_FAB_ERR_TS, 0, 1, 0, 1, 0x0, 0x0, 0x0, 0x0, [], .std, 0x0, 0x0, 0x0, 0x0, 0⟩,
  ⟨"HA_FAB_QCFG", HA_FAB_QCFG, 0, 1, 0, 1, 0x3FFFFFF, 0x0, 0x0, 0x3FFFFFF, [], .std, 0x0, 0x0, 0x0, 0x0, 0⟩,
  ⟨"HA_PWR_CAP", HA_PWR_CAP, 0, 1, 0, 1, 0x3FFFF, 0x0, 0xF0C0, 0x0, [⟨8, 0, 40, 192⟩, ⟨17, 9, 40, 192⟩], .std, 0x0, 0x0, 0x0, 0x0, 0⟩,
  ⟨"HA_PWR_VREQ", HA_PWR_VREQ, 0, 1, 0, 1, 0xFF, 0x0, 0x6464, 0x0, [⟨7, 0, 0, 200⟩], .std, 0x0, 0x0, 0x0, 0x0, 0⟩,
  ⟨"HA_PWR_STAT", HA_PWR_STAT, 0, 1, 0, 1, 0x0, 0x0, 0x0, 0x0, [], .std, 0x0, 0x0, 0x0, 0x0, 0⟩,
  ⟨"HA_PWR_ERR", HA_PWR_ERR, 0, 1, 0, 1, 0x0, 0xF, 0x0, 0x0, [], .std, 0x0, 0x3, 0x0, 0xC, 9⟩,
  ⟨"HA_SESS_SUM", HA_SESS_SUM, 0, 1, 0, 1, 0x0, 0x0, 0x0, 0x0, [], .std, 0x0, 0x0, 0x0, 0x0, 0⟩]

/-- Block, mailbox and measurement registers (Tables 18.2 and 18.4), part 3. -/
def blkRegs3 : List RegDesc := [
  ⟨"HA_MP_DET", HA_MP_DET, 0, 1, 0, 1, 0x0, 0x0, 0xFF00, 0x0, [], .std, 0x0, 0x0, 0x0, 0x0, 0⟩,
  ⟨"HA_EVAC_STAT", HA_EVAC_STAT, 0, 1, 0, 1, 0x0, 0x0, 0x0, 0x0, [], .std, 0x0, 0x0, 0x0, 0x0, 0⟩,
  ⟨"HA_FLUSH_CTRL", HA_FLUSH_CTRL, 0, 1, 0, 1, 0xFFFFFFFF, 0x0, 0x75302710, 0x0, [⟨15, 0, 1, 65535⟩, ⟨31, 16, 1, 65535⟩], .std, 0x0, 0x0, 0x0, 0x0, 0⟩,
  ⟨"HA_FLUSH_STAT", HA_FLUSH_STAT, 0, 1, 0, 1, 0x0, 0x0, 0x0, 0x0, [], .std, 0x0, 0x0, 0x0, 0x0, 0⟩,
  ⟨"HA_EV_CTRL", HA_EV_CTRL, 0, 1, 0, 1, 0x3, 0x0, 0x1, 0x0, [], .std, 0x0, 0x0, 0x0, 0x0, 0⟩,
  ⟨"HA_EV_STAT", HA_EV_STAT, 0, 1, 0, 1, 0x0, 0x0, 0x0, 0x0, [], .std, 0x0, 0x0, 0x0, 0x0, 0⟩,
  ⟨"HA_EV_WIN", HA_EV_WIN, 4, 16, 0, 1, 0xFFFFFFFF, 0x0, 0x0, 0xFFFFFFFF, [], .std, 0x0, 0x0, 0x0, 0x0, 0⟩,
  ⟨"HA_PS_CMD", HA_PS_CMD, 0, 1, 0, 1, 0x0, 0x0, 0x0, 0x0, [], .chvAll, 0x0, 0x0, 0x0, 0x0, 0⟩,
  ⟨"HA_PS_ADDR", HA_PS_ADDR, 0, 1, 0, 1, 0xFFFFF, 0x0, 0x0, 0xFFFFF, [], .chvAll, 0x0, 0x0, 0x0, 0x0, 0⟩,
  ⟨"HA_PS_WDATA", HA_PS_WDATA, 0, 1, 0, 1, 0xFFFFFFFF, 0x0, 0x0, 0xFFFFFFFF, [], .chvAll, 0x0, 0x0, 0x0, 0x0, 0⟩,
  ⟨"HA_PS_RDATA", HA_PS_RDATA, 0, 1, 0, 1, 0x0, 0x0, 0x0, 0x0, [], .chvAll, 0x0, 0x0, 0x0, 0x0, 0⟩,
  ⟨"HA_PS_STAT", HA_PS_STAT, 0, 1, 0, 1, 0x0, 0x0, 0x0, 0x0, [], .std, 0x0, 0x0, 0x0, 0x0, 0⟩,
  ⟨"HA_PS_ERR", HA_PS_ERR, 0, 1, 0, 1, 0x0, 0x1F1F, 0x0, 0x0, [], .std, 0x2, 0x5, 0x18, 0x0, 12⟩,
  ⟨"HA_ST_CTRL", HA_ST_CTRL, 0, 1, 0, 1, 0x7F, 0x0, 0x3C, 0x0, [], .std, 0x0, 0x0, 0x0, 0x0, 0⟩,
  ⟨"HA_ST_PROG", HA_ST_PROG, 0, 1, 0, 1, 0x1FFFFFFF, 0x0, 0x0, 0x0, [], .std, 0x0, 0x0, 0x0, 0x0, 0⟩,
  ⟨"HA_ST_SAVE", HA_ST_SAVE, 0, 1, 0, 1, 0xFFF, 0x0, 0x0, 0x0, [], .std, 0x0, 0x0, 0x0, 0x0, 0⟩,
  ⟨"HA_ST_STAT", HA_ST_STAT, 0, 1, 0, 1, 0x0, 0x0, 0x0, 0x0, [], .std, 0x0, 0x0, 0x0, 0x0, 0⟩,
  ⟨"HA_ST_RES", HA_ST_RES, 4, 4, 0, 1, 0x0, 0x0, 0x0, 0x0, [], .std, 0x0, 0x0, 0x0, 0x0, 0⟩,
  ⟨"HA_ST_ERR", HA_ST_ERR, 0, 1, 0, 1, 0x0, 0x3F, 0x0, 0x0, [], .std, 0x0, 0x24, 0x18, 0x3, 0⟩,
  ⟨"HA_PMC_SEL", HA_PMC_SEL, 16, 16, 0, 1, 0x3FF, 0x0, 0x0, 0x0, [], .pmc, 0x0, 0x0, 0x0, 0x0, 0⟩,
  ⟨"HA_PMC_LO", HA_PMC_LO, 16, 16, 0, 1, 0x0, 0x0, 0x0, 0x0, [], .pmc, 0x0, 0x0, 0x0, 0x0, 0⟩,
  ⟨"HA_PMC_HI", HA_PMC_HI, 16, 16, 0, 1, 0x0, 0x10000, 0x0, 0x0, [], .pmc, 0x0, 0x0, 0x0, 0x0, 0⟩,
  ⟨"HA_PMC_CTRL", HA_PMC_CTRL, 0, 1, 0, 1, 0x9, 0x0, 0x0, 0x0, [], .pmc, 0x0, 0x0, 0x0, 0x0, 0⟩,
  ⟨"HA_PMC_STAT", HA_PMC_STAT, 0, 1, 0, 1, 0x0, 0x0, 0x0, 0x0, [], .pmc, 0x0, 0x0, 0x0, 0x0, 0⟩,
  ⟨"HA_CHV_ERR", HA_CHV_ERR, 0, 1, 0, 1, 0x0, 0x1FF, 0x0, 0x0, [], .std, 0x5, 0x40, 0x1BA, 0x0, 0⟩,
  ⟨"HA_CHV_ERR_CAP", HA_CHV_ERR_CAP, 0, 1, 0, 1, 0x0, 0x1000000, 0x0, 0x0, [], .std, 0x0, 0x0, 0x0, 0x0, 0⟩,
  ⟨"HA_CHV_ERR_TS", HA_CHV_ERR_TS, 0, 1, 0, 1, 0x0, 0x0, 0x0, 0x0, [], .std, 0x0, 0x0, 0x0, 0x0, 0⟩,
  ⟨"HA_CHV_STAT", HA_CHV_STAT, 0, 1, 0, 1, 0x0, 0x0, 0x0, 0x0, [], .std, 0x0, 0x0, 0x0, 0x0, 0⟩,
  ⟨"HA_CHV_TIMER", HA_CHV_TIMER, 0, 1, 0, 1, 0xFFFFFF, 0x0, 0x0, 0xFFFFFF, [], .std, 0x0, 0x0, 0x0, 0x0, 0⟩,
  ⟨"HA_SESS_ST", HA_SESS_ST, 8, 1024, 0, 1, 0x0, 0x0, 0x0, 0x0, [], .std, 0x0, 0x0, 0x0, 0x0, 0⟩,
  ⟨"HA_SESS_LOST", HA_SESS_LOST, 8, 1024, 0, 1, 0x0, 0x0, 0x0, 0x0, [], .std, 0x0, 0x0, 0x0, 0x0, 0⟩,
  ⟨"HA_MB_REQ", HA_MB_REQ, 4, 1024, 0, 1, 0xFFFFFFFF, 0x0, 0x0, 0x0, [], .userWr, 0x0, 0x0, 0x0, 0x0, 0⟩,
  ⟨"HA_MB_RSP", HA_MB_RSP, 4, 1024, 0, 1, 0x0, 0x0, 0x0, 0x0, [], .chvWr, 0x0, 0x0, 0x0, 0x0, 0⟩,
  ⟨"HA_MB_DOORBELL", HA_MB_DOORBELL, 0, 1, 0, 1, 0x0, 0x0, 0x0, 0x0, [], .userWr, 0x0, 0x0, 0x0, 0x0, 0⟩,
  ⟨"HA_MB_STAT", HA_MB_STAT, 0, 1, 0, 1, 0x0, 0x2, 0x0, 0x0, [], .userWr, 0x0, 0x0, 0x0, 0x0, 0⟩]

/-- Block, mailbox and measurement registers (Tables 18.2 and 18.4), part 4. -/
def blkRegs4 : List RegDesc := [
  ⟨"HA_MB_CTRL", HA_MB_CTRL, 0, 1, 0, 1, 0x1, 0x0, 0x1, 0x0, [], .std, 0x0, 0x0, 0x0, 0x0, 0⟩,
  ⟨"HA_MB_COMPLETE", HA_MB_COMPLETE, 0, 1, 0, 1, 0x0, 0x0, 0x0, 0x0, [], .chvWr, 0x0, 0x0, 0x0, 0x0, 0⟩,
  ⟨"HA_MEAS_CTRL", HA_MEAS_CTRL, 0, 1, 0, 1, 0x0, 0x40, 0x0, 0x0, [], .std, 0x0, 0x40, 0x0, 0x0, 16⟩,
  ⟨"HA_MEAS_EXT_DIG", HA_MEAS_EXT_DIG, 4, 12, 0, 1, 0x0, 0x0, 0x0, 0x0, [], .chvWr, 0x0, 0x0, 0x0, 0x0, 0⟩,
  ⟨"HA_MEAS_EXT_SRC", HA_MEAS_EXT_SRC, 0, 1, 0, 1, 0x0, 0x0, 0x0, 0x0, [], .chvWr, 0x0, 0x0, 0x0, 0x0, 0⟩,
  ⟨"HA_MEAS_EXT_LEN", HA_MEAS_EXT_LEN, 0, 1, 0, 1, 0x0, 0x0, 0x0, 0x0, [], .chvWr, 0x0, 0x0, 0x0, 0x0, 0⟩,
  ⟨"HA_MEAS_EXT_VER", HA_MEAS_EXT_VER, 0, 1, 0, 1, 0x0, 0x0, 0x0, 0x0, [], .chvWr, 0x0, 0x0, 0x0, 0x0, 0⟩,
  ⟨"HA_MEAS_EXT_GO", HA_MEAS_EXT_GO, 0, 1, 0, 1, 0x0, 0x0, 0x0, 0x0, [], .chvWr, 0x0, 0x0, 0x0, 0x0, 0⟩,
  ⟨"HA_DMA_CH_DESC", HA_DMA_CH_DESC, 16, 12, 0, 1, 0x1FFFFFFF, 0x0, 0x0, 0x1FFFFFFF, [], .std, 0x0, 0x0, 0x0, 0x0, 0⟩,
  ⟨"HA_DMA_CHX_DESC", HA_DMA_CHX_DESC, 16, 4, 0, 1, 0x1FFFFFFF, 0x0, 0x0, 0x1FFFFFFF, [], .std, 0x0, 0x0, 0x0, 0x0, 0⟩,
  ⟨"HA_DMA_CH_CTRL", HA_DMA_CH_CTRL, 16, 12, 0, 1, 0x0, 0x0, 0x0, 0x0, [], .std, 0x0, 0x0, 0x0, 0x0, 0⟩,
  ⟨"HA_DMA_CHX_CTRL", HA_DMA_CHX_CTRL, 16, 4, 0, 1, 0x0, 0x0, 0x0, 0x0, [], .std, 0x0, 0x0, 0x0, 0x0, 0⟩,
  ⟨"HA_DMA_CH_STAT", HA_DMA_CH_STAT, 16, 12, 0, 1, 0x0, 0x0, 0x0, 0x0, [], .std, 0x0, 0x0, 0x0, 0x0, 0⟩,
  ⟨"HA_DMA_CHX_STAT", HA_DMA_CHX_STAT, 16, 4, 0, 1, 0x0, 0x0, 0x0, 0x0, [], .std, 0x0, 0x0, 0x0, 0x0, 0⟩,
  ⟨"HA_DMA_CH_PROG", HA_DMA_CH_PROG, 16, 12, 0, 1, 0x0, 0x0, 0x0, 0x0, [], .std, 0x0, 0x0, 0x0, 0x0, 0⟩,
  ⟨"HA_DMA_CHX_PROG", HA_DMA_CHX_PROG, 16, 4, 0, 1, 0x0, 0x0, 0x0, 0x0, [], .std, 0x0, 0x0, 0x0, 0x0, 0⟩,
  ⟨"HA_MEAS_SLOT", HA_MEAS_SLOT, 4, 12, 64, 8, 0x0, 0x0, 0x0, 0x0, [], .std, 0x0, 0x0, 0x0, 0x0, 0⟩,
  ⟨"HA_MEAS_LOG", HA_MEAS_LOG, 4, 32, 128, 16, 0x0, 0x0, 0x0, 0x0, [], .std, 0x0, 0x0, 0x0, 0x0, 0⟩]

/-- Block, mailbox and measurement registers (Tables 18.2 and 18.4). -/
def blkRegs : List RegDesc := blkRegs1 ++ blkRegs2 ++ blkRegs3 ++ blkRegs4

/-- Quadrant window registers (Table 18.5), part 1. -/
def qdRegs1 : List RegDesc := [
  ⟨"QD_GATE", QD_GATE, 0, 1, 0, 1, 0x0, 0x0, 0x0, 0x0, [], .std, 0x0, 0x0, 0x0, 0x0, 0⟩,
  ⟨"QD_PWR_STAT", QD_PWR_STAT, 0, 1, 0, 1, 0x0, 0x0, 0x0, 0x0, [], .std, 0x0, 0x0, 0x0, 0x0, 0⟩,
  ⟨"QD_PWR_ERR", QD_PWR_ERR, 0, 1, 0, 1, 0x0, 0x3, 0x0, 0x0, [], .std, 0x0, 0x1, 0x2, 0x0, 9⟩,
  ⟨"QD_SPEED", QD_SPEED, 0, 1, 0, 1, 0x0, 0x0, 0x0, 0x0, [], .std, 0x0, 0x0, 0x0, 0x0, 0⟩]

/-- Quadrant window registers (Table 18.5). -/
def qdRegs : List RegDesc := qdRegs1

/-- Node window registers (Table 18.6), part 1. -/
def ndRegs1 : List RegDesc := [
  ⟨"ND_SF_CTRL", ND_SF_CTRL, 0, 1, 0, 1, 0xFF01, 0x0, 0x6401, 0x0, [⟨15, 8, 1, 255⟩], .std, 0x0, 0x0, 0x0, 0x0, 0⟩,
  ⟨"ND_SF_STAT", ND_SF_STAT, 0, 1, 0, 1, 0x0, 0x0, 0x40000, 0x0, [], .std, 0x0, 0x0, 0x0, 0x0, 0⟩,
  ⟨"ND_SF_ERR", ND_SF_ERR, 0, 1, 0, 1, 0x0, 0x7F, 0x0, 0x0, [], .std, 0x1, 0x40, 0x3E, 0x0, 13⟩,
  ⟨"ND_SF_CECNT", ND_SF_CECNT, 0, 1, 0, 1, 0xFFFF, 0x0, 0x0, 0x0, [], .std, 0x0, 0x0, 0x0, 0x0, 0⟩,
  ⟨"ND_SF_SCRUB", ND_SF_SCRUB, 0, 1, 0, 1, 0x0, 0x0, 0x0, 0x0, [], .std, 0x0, 0x0, 0x0, 0x0, 0⟩,
  ⟨"ND_SF_ERR_CAP", ND_SF_ERR_CAP, 0, 1, 0, 1, 0x0, 0x4000000, 0x0, 0x0, [], .std, 0x0, 0x0, 0x0, 0x0, 0⟩,
  ⟨"ND_SF_ERR_TS", ND_SF_ERR_TS, 0, 1, 0, 1, 0x0, 0x0, 0x0, 0x0, [], .std, 0x0, 0x0, 0x0, 0x0, 0⟩,
  ⟨"ND_TRK_CTRL", ND_TRK_CTRL, 0, 1, 0, 1, 0xFFFF, 0x0, 0x4040, 0x0, [⟨7, 0, 1, 255⟩, ⟨15, 8, 1, 255⟩], .std, 0x0, 0x0, 0x0, 0x0, 0⟩,
  ⟨"ND_TRK_STAT", ND_TRK_STAT, 0, 1, 0, 1, 0x0, 0x0, 0x0, 0x0, [], .std, 0x0, 0x0, 0x0, 0x0, 0⟩,
  ⟨"ND_TRK_PEND", ND_TRK_PEND, 0, 1, 0, 1, 0x0, 0x0, 0x0, 0x0, [], .std, 0x0, 0x0, 0x0, 0x0, 0⟩,
  ⟨"ND_TRK_ERR", ND_TRK_ERR, 0, 1, 0, 1, 0x0, 0xF, 0x0, 0x0, [], .std, 0x1, 0x4, 0xA, 0x0, 13⟩,
  ⟨"ND_TRK_ERR_CAP", ND_TRK_ERR_CAP, 0, 1, 0, 1, 0x0, 0x2000, 0x0, 0x0, [], .std, 0x0, 0x0, 0x0, 0x0, 0⟩,
  ⟨"ND_ENG_ERR", ND_ENG_ERR, 0, 1, 0, 1, 0x0, 0x3F, 0x0, 0x0, [], .std, 0x5, 0x0, 0x3A, 0x0, 13⟩,
  ⟨"ND_ENG_ERR_CAP", ND_ENG_ERR_CAP, 0, 1, 0, 1, 0x0, 0x100000, 0x0, 0x0, [], .std, 0x0, 0x0, 0x0, 0x0, 0⟩,
  ⟨"ND_ENG_ERR_TS", ND_ENG_ERR_TS, 0, 1, 0, 1, 0x0, 0x0, 0x0, 0x0, [], .std, 0x0, 0x0, 0x0, 0x0, 0⟩,
  ⟨"ND_DSP_CTRL", ND_DSP_CTRL, 0, 1, 0, 1, 0xFF, 0x0, 0x40, 0x0, [⟨7, 0, 1, 255⟩], .std, 0x0, 0x0, 0x0, 0x0, 0⟩,
  ⟨"ND_DSP_STAT", ND_DSP_STAT, 0, 1, 0, 1, 0x0, 0x0, 0x0, 0x0, [], .std, 0x0, 0x0, 0x0, 0x0, 0⟩,
  ⟨"ND_DSP_ERR", ND_DSP_ERR, 0, 1, 0, 1, 0x0, 0x1F, 0x0, 0x0, [], .std, 0x0, 0x1, 0x1E, 0x0, 13⟩,
  ⟨"ND_DSP_ERR_CAP", ND_DSP_ERR_CAP, 0, 1, 0, 1, 0x0, 0x20000, 0x0, 0x0, [], .std, 0x0, 0x0, 0x0, 0x0, 0⟩,
  ⟨"ND_FAB_CTRL", ND_FAB_CTRL, 0, 1, 0, 1, 0x1, 0x0, 0x0, 0x1, [], .std, 0x0, 0x0, 0x0, 0x0, 0⟩,
  ⟨"ND_FAB_STAT", ND_FAB_STAT, 0, 1, 0, 1, 0x0, 0x3C000000, 0x0, 0x0, [], .std, 0x0, 0x0, 0x0, 0x0, 0⟩,
  ⟨"ND_FAB_QCFG", ND_FAB_QCFG, 0, 1, 0, 1, 0xF, 0x0, 0x0, 0xF, [], .std, 0x0, 0x0, 0x0, 0x0, 0⟩,
  ⟨"ND_SCRUB_CTRL", ND_SCRUB_CTRL, 0, 1, 0, 1, 0xFF01, 0x0, 0x1901, 0x0, [⟨15, 8, 1, 255⟩], .std, 0x0, 0x0, 0x0, 0x0, 0⟩,
  ⟨"ND_SCRUB_ERR", ND_SCRUB_ERR, 0, 1, 0, 1, 0x0, 0x7F, 0x0, 0x0, [], .std, 0x8, 0x11, 0x66, 0x0, 11⟩,
  ⟨"ND_PMC_SEL", ND_PMC_SEL, 16, 4, 0, 1, 0x3FF, 0x0, 0x0, 0x0, [], .pmc, 0x0, 0x0, 0x0, 0x0, 0⟩,
  ⟨"ND_PMC_LO", ND_PMC_LO, 16, 4, 0, 1, 0x0, 0x0, 0x0, 0x0, [], .pmc, 0x0, 0x0, 0x0, 0x0, 0⟩,
  ⟨"ND_PMC_HI", ND_PMC_HI, 16, 4, 0, 1, 0x0, 0x10000, 0x0, 0x0, [], .pmc, 0x0, 0x0, 0x0, 0x0, 0⟩]

/-- Node window registers (Table 18.6). -/
def ndRegs : List RegDesc := ndRegs1

/-- Debug control registers (Table 18.7), part 1. -/
def dbgRegs1 : List RegDesc := [
  ⟨"HA_DBG_SEL", HA_DBG_SEL, 0, 1, 0, 1, 0xF7F, 0x0, 0x0, 0xF7F, [⟨6, 0, 0, 92⟩], .std, 0x0, 0x0, 0x0, 0x0, 0⟩,
  ⟨"HA_DBG_CTRL", HA_DBG_CTRL, 0, 1, 0, 1, 0x1, 0x0, 0x0, 0x1, [], .std, 0x0, 0x0, 0x0, 0x0, 0⟩,
  ⟨"HA_DBG_CHK", HA_DBG_CHK, 0, 1, 0, 1, 0xFF, 0x0, 0x0, 0xFF, [], .std, 0x0, 0x0, 0x0, 0x0, 0⟩,
  ⟨"HA_DBG_STAT", HA_DBG_STAT, 0, 1, 0, 1, 0x0, 0x0, 0x0, 0x7FF, [], .std, 0x0, 0x0, 0x0, 0x0, 0⟩]

/-- Debug control registers (Table 18.7). -/
def dbgRegs : List RegDesc := dbgRegs1
end Sys2Proof.Machine
end

