-- ==== Sys2Proof/Machine/State.lean ====
section
/-! DEFINITION. Sys2Proof/Machine/State.lean: everything the spec gives the block to hold, as plain data, and the
block right after reset. A structure's default values are its reset values; INVENTORY.md lists each with its rule. -/

namespace Sys2Proof.Machine

/-- The twelve modes (Table 1.11). -/
inductive Mode where
  | off | strap | fill | boot | standby | service | degraded | hold | evacuate | flush | selftest | safe
  deriving DecidableEq, Repr

/-- Session states (Table 14.1). -/
inductive SessSt where
  | closed | opn | closing | departing
  deriving DecidableEq, Repr

/-- A session entry (R416, Table 14.7); `closeIdx` is the ledger entry of the SESS_CLOSE being served, `visits` the
nodes that have yet to report, `todo` those to which the VISIT message has yet to be delivered, `visitSent` whether the
visit has started, `served` whether Chervil has read the departure policy. -/
structure Session where
  st : SessSt := .closed
  port : HpId := 0
  ctx : BitVec 16 := 0
  legacy : Bool := false
  revert : Bool := false
  lost : BitVec 32 := 0
  closeIdx : Option Nat := none
  visits : BitVec 32 := 0
  todo : BitVec 32 := 0
  visitSent : Bool := false
  served : Bool := false
  deriving DecidableEq, Repr

/-- A translation (R308): pool extent, policy class, departure policy and partition class. -/
structure Xlat where
  pext : BitVec 20
  cls : BitVec 3
  depart : Bool
  pclass : BitVec 2
  deriving DecidableEq, Repr

/-- Where an accepted request stands (R41, R192, R211, R309, R516): waiting behind a walk, walking, ready to be
sent, sent to its home, taken there, answered RETRY, a FLUSH, a session message at Chervil, or answered. -/
inductive LedSt where
  | blocked | walk | ready
  | sent (n : NodeId)
  | home
  | retried (n : NodeId) (wb : Bool)
  | flushing | session | answered
  deriving DecidableEq, Repr

/-- An ingress-ledger entry (R41): header, data, byte mask and tag, with its progress. -/
structure LedEnt where
  hdr : BitVec 128
  data : Line
  be : BitVec 64
  poison : Bool
  tag : BitVec 64
  st : LedSt
  pla : BitVec 40 := 0
  cls : BitVec 3 := 0
  /-- The host left: the response is discarded (R122). -/
  gone : Bool := false
  /-- Replayed after a full reset (R409). -/
  replay : Bool := false
  /-- Acceptance order within the port. -/
  seq : Nat := 0
  /-- A session message that Chervil has begun to serve (R417, R418). -/
  taken : Bool := false
  deriving DecidableEq, Repr

/-- Who waits for a snoop's answer: a flow's tracker, or a repair of a node (R171, R199). -/
inductive SnpOwner where
  | flow (n : NodeId) (t : Nat)
  | repair (n : NodeId) (id : Nat)
  deriving DecidableEq, Repr

/-- A snoop as the home sends it (Table 3.8): `named` when a PTR1 or PTR2 field names the host (R314). -/
structure Snoop where
  op : BitVec 3
  blk : BitVec 2
  host : BitVec 10
  pla : BitVec 40
  lines : BitVec 4
  own : SnpOwner
  named : Bool := false
  deriving DecidableEq, Repr

/-- A snoop slot's progress: in an outbound slot, gone out with the count at which its limit passes (R108, R134), holding
an answer back (R201), waiting to be
answered on behalf of a departed host (R209), or out of use until one further limit has passed since a time (R200). -/
inductive SlotSt where
  | queued
  | out (until_ : Nat)
  | held (ans : BitVec 3)
  | gone
  | quar (since : Nat)
  deriving DecidableEq, Repr

/-- A snoop slot (R199). `grp` names the set that stands for one block snoop (R82), `acc` the highest
state answered so far in that set. -/
structure Slot where
  sn : Snoop
  ctx : BitVec 16
  caddr : BitVec 42
  epoch : BitVec 3
  grp : Nat
  acc : BitVec 2
  st : SlotSt
  /-- When the snoop left the block (R199). -/
  ts : BitVec 48 := 0
  deriving DecidableEq, Repr

/-- A held BI_CONFLICT_ACK (R197): host, tag, line and the DEVLOAD computed at dispatch. -/
structure BicAck where
  host : BitVec 10
  tag : BitVec 16
  pla : BitVec 40
  devload : BitVec 2
  deriving DecidableEq, Repr

/-- The attach sideband of a port (R87, R88). -/
inductive Att where
  | idle
  /-- `att_req` is up with its offer in a mode that answers no attach (R87). -/
  | waiting (offer : BitVec 48)
  /-- `att_done` is up with `att_sel`, since a time; the selection is a version and capabilities. -/
  | answered (ver : BitVec 2) (caps : BitVec 32) (at_ : Nat)
  /-- `att_sel` shows a refusal; the partner must lower `att_req`. -/
  | refused
  | attached (ver : BitVec 2) (caps : BitVec 32)
  /-- `att_req` has fallen on an attached port (R419, R427). -/
  | detaching (ver : BitVec 2) (caps : BitVec 32)
  deriving DecidableEq, Repr

/-- The progress of a FLUSH in its host port shell (R116, R516). -/
structure FlushSt where
  idx : Nat
  started : Bool := false
  /-- Ledger entries whose hand-off it waits for. -/
  waitFor : List Nat := []
  /-- Media ports and MTAGs it waits for. -/
  tags : List (Nat × Nat) := []
  /-- Media ports to which a SYNC must still be handed off. -/
  syncs : List Nat := []
  failed : Bool := false
  deriving DecidableEq, Repr

/-- A host port shell (survivor domain: R41, R46, R199). -/
structure HpShell where
  clkOk : Bool := false
  partnerRst : Bool := true
  failed : Bool := false
  att : Att := .idle
  attEpoch : BitVec 12 := 0
  legacy : Bool := false
  /-- The context of HA_HP_V1CTXn taken at attach (R75, R95), and the count of accepted requests. -/
  v1ctx : BitVec 16 := 0
  accN : Nat := 0
  ledger : SMap (Option LedEnt) := []
  /-- Syndrome of each ledger word, entry × 12 + word; unlisted is 0 (R436). -/
  syn : SMap (BitVec 8) := []
  slots : SMap (Option Slot) := []
  /-- Snoops that wait for a free slot, oldest first (R199). -/
  waitSnp : List Snoop := []
  /-- The name of the next set of slots (R82). -/
  grpNext : Nat := 8192
  ndr : List (BitVec 64 × Option Nat) := []
  drs : List (BitVec 64 × Line × Bool × Option Nat) := []
  bis : List Nat := []
  /-- The snoop that the partner took last, as it stood on hp_bis (R78). -/
  bisOut : Option (BitVec 128) := none
  bicAcks : List BicAck := []
  /-- Entries held under RETRY, in acceptance order, and the write-back list (R192). -/
  retry : List (NodeId × Nat) := []
  wbRetry : List (NodeId × Nat) := []
  flushes : List FlushSt := []
  /-- Ticks at which the head of an outbound channel began to wait (Table 2.3). -/
  outSince : SMap Nat := []
  /-- Nodes whose quench this shell has acknowledged (R361). -/
  quenchAck : BitVec 32 := 0
  deriving DecidableEq, Repr

/-- Who waits for a media access: a flow, a FLUSH, a DMA unit, or the FLUSH mode's own SYNC (R203, R430). -/
inductive MOwner where
  | flow (n : NodeId) (t : Nat)
  | hostFlush (p : HpId) (idx : Nat)
  | dma (c : ChanId) (u : Nat)
  | modeFlush
  deriving DecidableEq, Repr

/-- The kind of a media access (Table 18.8). -/
inductive MKind where
  | rd | wr | sync
  deriving DecidableEq, Repr

/-- An outstanding MTAG (R90, R203). `left` are the lines still to return, `ents` the line-buffer entry of each line,
`comp` the ledger entry whose CMP hand-off carries and that CMP (R30), `onack` the ledger entry and the response held for
DURABLE (R246), `pair` the MTAG of the other write of a mirrored pair on the same port, `bad` that the
other one failed (R335). -/
structure Mtag where
  own : MOwner
  kind : MKind
  orphan : Bool := false
  maddr : BitVec 46
  ents : List Nat := []
  left : BitVec 4 := 0
  data : Line := 0
  poison : Bool := false
  handed : Bool := false
  at_ : Nat := 0
  comp : Option (HpId × Nat × BitVec 64) := none
  onack : Option (HpId × Nat × BitVec 64) := none
  pair : Option Nat := none
  bad : Bool := false
  /-- The store-buffer place it occupies until hand-off (R245). -/
  sb : Option (Fin 8 × Nat) := none
  /-- The count at which HA_ST_TIMEOUT passes, as it stood when the request was sent (R303). -/
  lim : Nat := 0
  /-- A write of a host's data by a flow whose CMP rides on another of its writes (R118). -/
  loss : Bool := false
  /-- Port and acceptance order of the write with DHINT 01 that it serves, whose own answer reports its loss (R118). -/
  dh : Option (HpId × Nat) := none
  deriving DecidableEq, Repr

/-- A mirror slot (R335). -/
structure Mirror where
  src : BitVec 20
  dst : BitVec 20
  bound : BitVec 21
  deriving DecidableEq, Repr

/-- A media port shell (survivor domain). -/
structure MpShell where
  clkOk : Bool := false
  partnerRst : Bool := true
  failed : Bool := false
  att : Att := .idle
  mtags : SMap (Option Mtag) := []
  /-- MTAGs whose request waits to be handed off, oldest first (R49). -/
  reqQ : List Nat := []
  /-- The request that the partner took last: its header and data (R90). -/
  reqOut : Option (BitVec 128 × Line) := none
  mirror : SMap (Option Mirror) := []
  outSince : Option Nat := none
  quenchAck : BitVec 32 := 0
  deriving DecidableEq, Repr

/-- Tracker pools (R186). -/
inductive Pool where
  | wb | int | gen
  deriving DecidableEq, Repr

/-- A tracker: its eight words (Table 6.2; NEXT, TAIL and HEAD are read from the chains) and what is kept beside it:
pool, answer set (R241), whether its response was sent, whether a departure answer came (Table 8.2), the wait for a
line-buffer entry (R18), the line-buffer entries it owns through `Lbe.own`, and the request event it was admitted with. -/
structure Trk where
  w0 : Word := 0
  w1 : Word := 0
  w2 : Word := 0
  w3 : Word := 0
  w4 : Word := 0
  w5 : Word := 0
  w6 : Word := 0
  w7 : Word := 0
  syn : SMap (BitVec 8) := []
  pool : Pool := .gen
  ansSel : BitVec 2 := 0
  ansShr : BitVec 20 := 0
  ansAny : Bool := false
  rsp : Bool := false
  depart : Bool := false
  lbWant : Bool := false
  lbGot : Bool := false
  evt : BitVec 8 := 0
  mval : BitVec 2 := 0
  start : Word := 0
  /-- In a WAIT: the next pending condition dispatches it. -/
  waiting : Bool := false
  /-- Its dispatch waits for the first line-buffer entry (R18). -/
  lbDispatch : Bool := false
  wedged : Bool := false
  /-- Hosts whose snoop answer came on behalf of departure (R209). -/
  departed : List (BitVec 10) := []
  replay : Bool := false
  /-- The hand-off of the write of this write-back has been reported (R191). -/
  wbOff : Bool := false
  deriving DecidableEq, Repr

/-- A line-buffer entry (R237); `own` is the tracker that owns it. -/
structure Lbe where
  data : Line := 0
  mask : BitVec 64 := 0
  poison : Bool := false
  landed : Bool := false
  own : Option Nat := none
  /-- Parity bits that disagree: one for each data byte, then one for each 8 mask bits (Table 15.1). -/
  parBad : BitVec 72 := 0
  deriving DecidableEq, Repr

/-- A way in repair (R171): a bank way (key 16 × set + way) or an overflow way (8 × set + way), its candidate sectors, its
tracker once it has one, the answers outstanding, and the ND_SF_ERR bit that names the finder. -/
structure Repair where
  id : Nat
  ovf : Bool
  key : Nat
  cands : List Nat
  out : Nat := 0
  trk : Option Nat := none
  finder : Nat
  deriving DecidableEq, Repr

/-- The phase of an eviction (R157, R165): waiting for a tracker, for its lines, for the overflow set, for a repair that
concerns the set (R172), for the overflow write, for the recall's answers, or for the departure policy of the lines that the
recall lost, with those whose POISON write is still to be sent (R209). -/
inductive EvPhase where
  | wantTrk | wantLines | spillRd | wantAlloc | spillWait
  | spillWr (way : Nat)
  | recall
  | lost (todo : List Nat)
  deriving DecidableEq, Repr

/-- A visit that a node runs for a host (R421): how far it has come, bank ways first (below 131,072) and then overflow sets,
whether an overflow set was lost to it, and whether every entry has been taken. -/
structure Visit where
  host : Nat
  depart : Bool
  pos : Nat := 0
  bad : Bool := false
  done : Bool := false
  deriving DecidableEq, Repr

/-- An eviction flow of the snoop-filter sequencer (R157); `req` is the tracker whose way it frees (none for BULK) and `want`
the sector that the way is reserved for (R156), `noSpill` marks a BULK in recall mode (R342). -/
structure Evict where
  key : Nat
  sector : Nat
  req : Option Nat
  trk : Option Nat
  phase : EvPhase
  noSpill : Bool := false
  want : Nat := 0
  deriving DecidableEq, Repr

/-- An internal flow that waits for a tracker (R193): a TALLOC flow, an eviction by its bank key, a repair by its id. -/
inductive IntWait where
  | talloc (w : Word) (pla : BitVec 40)
  | evict (key : Nat)
  | repair (id : Nat)
  deriving DecidableEq, Repr

/-- A pending event of a core (R254, R480). -/
structure Evt where
  evt : BitVec 8
  cls : BitVec 3
  trk : Option Nat
  datum : Word
  inbox : Option Nat := none
  deriving DecidableEq, Repr

/-- Thread states (Table 8.5). -/
inductive TState where
  | free | ready | stalled | halted
  deriving DecidableEq, Repr

/-- What kind of access a store-buffer place holds (R292). -/
inductive SbKind where
  | st | mwr | mgt
  deriving DecidableEq, Repr

/-- A store-buffer entry (R292, R295, R296). For a store: byte address, byte mask and bytes within its 64-byte line.
`sent`: it has been sent, with the count at which its limit passes (R226, R303). -/
structure SbEnt where
  id : Nat
  kind : SbKind
  addr : Nat
  mask : BitVec 64 := 0
  data : Line := 0
  merging : Bool := false
  pc : Nat := 0
  trk : Option Nat := none
  age : Nat := 0
  sent : Option Nat := none
  nak : Option Nat := none
  dst : CoreId := .chervil
  mp : Nat := 0
  mtag : Nat := 0
  /-- The parity of a byte disagrees (Table 15.1); no command of the spec sets this (log entry 45). -/
  parBad : Bool := false
  /-- Its packet reached its endpoint queue, or was absorbed, under tables that have since been switched (R366). -/
  via : Option Bool := none
  deriving DecidableEq, Repr

/-- Why an instruction waits to issue again (R191, R239, R248, R292): a full store buffer, a barrier, a reserved way or a
way in repair that concerns a sector, the repairs that run, a write-back of a line, a tag, or a router that withholds (R365). -/
inductive Stall where
  | sbFull | barrier
  | sector (s : Nat)
  | repairs
  | writeBack (pla : BitVec 40)
  | tag
  | router
  deriving DecidableEq, Repr

/-- What a stalled thread waits for (Table 8.5): a load or AMO result (with the count at which its limit passes, once it is
sent), an overflow set, a placement read, or a condition
under which its instruction issues again. -/
inductive Pend where
  | none
  | load (rd : Nat) (w : Nat) (ea : Nat) (sent : Option Nat)
  | amo (rd : Nat) (fn : Nat) (v cmp : Word) (ea : Nat) (sent : Option Nat)
  | ovf (rd : Nat) (sector : Nat)
  | plk (rd : Nat) (pla : BitVec 40) (ent : Option Word)
  /-- The instruction issues again when the cause has gone. -/
  | again (why : Stall)
  deriving DecidableEq, Repr

/-- Where a snoop-filter handle points (R221); `lost`: its way entered repair (R241). -/
inductive HLoc where
  | miss
  | lost
  | bank (key : Nat)
  | ovf (set : Nat) (way : Nat)
  deriving DecidableEq, Repr

/-- A thread of a Sage core (R219). -/
structure Thread where
  st : TState := .free
  g : SMap Word := []
  f : SMap Word := []
  pc : Nat := 0
  priv : Bool := false
  incomplete : Bool := false
  trapActive : Bool := false
  trk : Option Nat := none
  handle : Option (Nat × HLoc) := none
  tc : Word := 0
  epc : Word := 0
  ecause : Word := 0
  eval : Word := 0
  ets : Word := 0
  tvec : Word := 0
  sscr : Word := 0
  sb : List SbEnt := []
  sbNext : Nat := 0
  pend : Pend := .none
  /-- The packet of the access it waits for met tables that have since been switched (R366). -/
  via : Option Bool := none
  slice : Nat := 0
  run : Nat := 0
  prio : Nat := 0
  evt : BitVec 8 := 0
  cls : BitVec 3 := 0
  inbox : Option Nat := none
  /-- Address of the first access discarded since TS.INCOMPLETE was last 0 (Table 7.8). -/
  disc : Word := 0
  deriving DecidableEq, Repr

/-- A Sage core: threads, program memory and data memory with the syndrome of each 64-bit granule, inbox and events.
On Chervil `prog` is the program RAM from index 0x1_0000 and `ram` the data RAM. -/
structure Core where
  threads : SMap Thread := []
  prog : Memory := []
  progSyn : SMap (BitVec 8) := []
  ram : Memory := []
  ramSyn : SMap (BitVec 8) := []
  /-- Occupied inbox slots (R256). -/
  inbox : List Nat := []
  events : List Evt := []
  /-- Rotation of the threads within one priority, front first (R265). -/
  order : List Nat := [0, 1, 2, 3, 4, 5, 6, 7]
  /-- Threads that have yet to receive engine start, and those whose engine-start handler has not ended (R264). -/
  toStart : List Nat := []
  starting : List Nat := []
  full : Bool := false
  dspStall : Bool := false
  stopped : Bool := true
  deriving DecidableEq, Repr

/-- A node (R18, Table 1.2): quadrant arrays, tracker bank, line buffer, chains, retry state, sequencer and engine. -/
structure Node where
  cons : Bool := true
  /-- Bank entries by 16 × set + way (Table 5.3). -/
  bank : SMap Word := []
  /-- Reserved ways: way, tracker and sector (R156). -/
  resv : List (Nat × Nat × Nat) := []
  repairs : List Repair := []
  repairNext : Nat := 0
  /-- Region map words, and which sixteenths of it read as ones where no word is listed (R166). -/
  rmap : SMap Word := []
  rmapFill : BitVec 16 := 0
  rmapSyn : SMap (BitVec 8) := []
  rebuild : Bool := false
  trk : SMap Trk := []
  /-- Conflict chains by line: the active flow first (R195). -/
  chains : SMap (List Nat) := []
  lb : SMap Lbe := []
  /-- Flows that found no candidate way, with the sector, in arrival order (R155). -/
  wayWait : List (Nat × Nat) := []
  /-- Flows that wait for a line-buffer entry, in arrival order (R18). -/
  lbWait : List Nat := []
  lastGrant : HpId := 15
  /-- Trackers kept for a GRANT, with the port and whether it is for its write-back list (R193). -/
  kept : List (Nat × HpId × Bool) := []
  /-- RETRY (a ledger index) and GRANT (none) packets on their way, oldest first, and whether the node's router withheld them
  (R349, R365). -/
  rspOut : List (HpId × Option Nat × Bool) := []
  /-- Internal flows that wait for a tracker, in arrival order (R193). -/
  intQ : List IntWait := []
  evicts : List Evict := []
  core : Core := {}
  /-- Tarragon's quench (R382). -/
  tarQuench : Bool := false
  /-- Overflow allocation in progress (R164). -/
  alloc : Bool := false
  /-- The overflow set of the node's last good read, with the ways it found valid (R174). -/
  ovfSeen : Option (Nat × Nat) := none
  /-- The visits that the supervisor image runs (R421). -/
  visits : List Visit := []
  /-- Scrubber positions (Table 15.2): program, scratch, tracker, region map. -/
  scrubPos : SMap Nat := []
  deriving DecidableEq, Repr

/-- Quadrant power states (Table 12.2). -/
inductive QPwr where
  | on | retain | off | test | gating | ungating
  deriving DecidableEq, Repr

/-- A quadrant extent cache entry (Table 18.8). -/
structure QecEnt where
  ctx : BitVec 16
  cidx : BitVec 16
  x : Xlat
  parBad : Bool := false
  deriving DecidableEq, Repr

/-- A quadrant (R375): power state, extent cache with the use order of each set, and its sensors (R58). -/
structure Quad where
  pwr : QPwr := .on
  quadOn : Bool := true
  qec : SMap (Option QecEnt) := []
  lru : SMap (List Nat) := []
  since : Nat := 0
  tempA : List Nat := []
  tempB : List Nat := []
  vmonA : List Nat := []
  vmonB : List Nat := []
  sensAt : Nat := 0
  /-- Both pairs have a reading in use. -/
  sensSeen : Bool := false
  /-- Consecutive ticks with a core reading in use below 600 mV (R386). -/
  vlow : Nat := 0
  /-- It was OFF before Sorrel tested it (R467). -/
  wasOff : Bool := false
  deriving DecidableEq, Repr

/-- An entry of a translation macro: two-part key and data (R315). -/
structure MacEnt where
  k1 : BitVec 16
  k2 : BitVec 20
  data : Word
  /-- The entry's parity disagrees (R320); no command sets it (log entry 45). -/
  parBad : Bool := false
  deriving DecidableEq, Repr

/-- A translation macro of 32 ways (R315, R316, R320). -/
structure Macro where
  ents : SMap (Option MacEnt) := []
  lock : SMap (Option (BitVec 2)) := []
  tree : BitVec 31 := 0
  errs : SMap Nat := []
  deriving DecidableEq, Repr

/-- DMA channel states (Table 10.18). -/
inductive ChSt where
  | idle | run | preempted | halted | done
  deriving DecidableEq, Repr

/-- What a MIGRATE channel waits for between its units (R325, R336, R337, R338): nothing yet, the checkpoint of a window
found copied, the placement write and checkpoint 0 of the start, INV_PEXT at the start, line copies, a checkpoint, the two writes
of the end, or INV_PEXT at the end. -/
inductive MigPh where
  | none | placeStart | ckptStart | invStart | copy
  | skip (k : Nat)
  | ckpt (k : Nat)
  | placeEnd | ckptEnd | invEnd
  deriving DecidableEq, Repr

/-- A DMA channel (R326 to R338). -/
structure Chan where
  st : ChSt := .idle
  cause : BitVec 4 := 0
  op : BitVec 4 := 0
  prio : BitVec 2 := 0
  xl : Bool := false
  chain : Bool := false
  desc : BitVec 29 := 0
  next : BitVec 29 := 0
  a : Word := 0
  b : Word := 0
  start : Nat := 0
  count : Nat := 0
  nextUnit : Nat := 0
  prog : Nat := 0
  doneL : List Nat := []
  /-- Outstanding units with the tick at which each was issued. -/
  out : List (Nat × Nat) := []
  busy : List (Nat × Nat) := []
  /-- Work messages that a full inbox returned as MGT_NAK: unit, node, message, when the limit of the message passes, and when
  it came back (R359). -/
  nak : List (Nat × NodeId × Line × Nat × Nat) := []
  fault : Option (Nat × BitVec 4) := none
  stop : Bool := false
  preempt : Bool := false
  mirror : Bool := false
  ph : MigPh := .none
  srcFrame : BitVec 20 := 0
  /-- Ways that were reserved when a BULK unit began: unit and bank key (R342). -/
  old : List (Nat × Nat) := []
  /-- The last durable checkpoint of a MIGRATE (R337). -/
  ck : Nat := 0
  deriving DecidableEq, Repr

/-- Why a block-memory request was issued (R93, R442). -/
inductive BmWhy where
  | acc (t : Thr) (id : Option Nat)
  | sflOvf (t : Thr)
  | plk (t : Thr)
  | apl (n : NodeId) (t : Nat) (ent : Option Word)
  | spillRd (n : NodeId) (key : Nat)
  | spillWr (n : NodeId) (key : Nat)
  | ovfWr (n : NodeId)
  | shadow (n : NodeId) (gran : Nat) (val : Word) (syn : BitVec 8)
  | dma (c : ChanId) (u : Nat)
  /-- Its requester was lost by a full reset. -/
  | orphan
  deriving DecidableEq, Repr

/-- An outstanding block-memory request (R50). -/
structure BmReq where
  why : BmWhy
  wr : Bool
  line : Nat
  be : BitVec 64 := 0
  data : Line := 0
  at_ : Nat
  /-- A moved-bit read whose placement entry was read for it and is cached once the bit is good (R324). -/
  fresh : Bool := false
  /-- A placement read begun before an invalidation of its extent completed: what it read is discarded (R319). -/
  stale : Bool := false
  /-- Its place in the order of acceptance among the outstanding requests, and, of a write, the bytes that a later write of the
  line has written before this one ended (R94). -/
  seq : Nat := 0
  later : BitVec 64 := 0
  /-- What an overflow entry's bytes held before the write that hardware made at its issue (R94). -/
  old : Line := 0
  deriving DecidableEq, Repr

/-- A performance counter's live value and snapshot (R495). -/
structure Pmc where
  live : BitVec 48 := 0
  snap : BitVec 48 := 0
  deriving DecidableEq, Repr

/-- An endpoint queue (R367): slots of 80 bytes, the pointers F, W and R, the last value read and the credits each
producer has spent. -/
structure Queue where
  slots : SMap Flit := []
  f : Nat := 0
  w : Nat := 0
  r : Nat := 0
  last : List Flit := []
  /-- Credits in use by producer endpoint code (R358). -/
  used : SMap Nat := []
  /-- Credits whose packets were taken, dropped or absorbed and whose CREDIT packet is on its way, by producer (R358, R363, R369). -/
  owed : SMap Nat := []
  deriving DecidableEq, Repr

/-- A packet at a router output: the input port and virtual channel it came on, its flits (R355), the count of ticks at which it
came (R356), and whether an affected router injected it before the epoch change that runs (R365). -/
structure RPkt where
  inp : RtrPort
  vc : Nat
  flits : List Flit
  at_ : Nat := 0
  old : Bool := false
  deriving DecidableEq, Repr

/-- An extend that runs (R402, R415): slot, log kind, whether the digest is given, and the EXT registers as taken. -/
structure ExtReq where
  slot : Nat
  kind : Nat
  direct : Bool
  len : Nat
  src : Nat
  ver : BitVec 32
  dig : BitVec 384
  deriving DecidableEq, Repr

/-- The measurement unit (R402 to R405) with the extend that is running. -/
structure Meas where
  slots : SMap (BitVec 384) := []
  log : List (BitVec 1024) := []
  lock : Bool := false
  busy : Option ExtReq := none
  deriving DecidableEq, Repr

/-- An outstanding register-port request (R51, Table 2.3): address, direction, privilege, the tick of its acceptance, and
the answer (`cfg_rsp_err`, read data) once it is known. -/
structure CfgReq where
  addr : BitVec 24
  wr : Bool
  priv : Bool
  at_ : Nat
  ans : Option (Bool × BitVec 32) := none
  deriving DecidableEq, Repr

/-- Tarragon's limits (R385 to R387). -/
structure Tarragon where
  /-- Energy estimates of the last ticks, newest first (at most 100). -/
  win : List Nat := []
  k : Nat := 0
  /-- The tick of the last voltage step (R387). -/
  lastStep : Option Nat := none
  deriving DecidableEq, Repr

/-- A run of Sorrel (R465, R466): the program and quadrants taken at entry, whether fuses may be programmed, and whether it
found a unit without a repair outcome; UNIT and STRUCT of the steps of a FREE or LEGACY program (R470). -/
structure StRun where
  prog : BitVec 2 := 0
  quads : BitVec 4 := 0
  fuse : Bool := false
  unrep : Bool := false
  steps : List (Nat × Nat) := []
  deriving DecidableEq, Repr

/-- The repair map in force (R473, R475). -/
structure RepairMap where
  retired : BitVec 32 := 0
  portOff : BitVec 24 := 0
  qecBypass : BitVec 4 := 0
  items : List (BitVec 64) := []
  deriving DecidableEq, Repr

/-- The reasons a step could fault. The spec gives every command of the table an effect, so no command faults; the one
constructor is never raised. -/
inductive Fault where
  /-- Raised by no command of this model. Safe: nothing is claimed through it. -/
  | unused
  deriving DecidableEq, Repr

/-- The reasons a step refuses a command. -/
inductive Refusal where
  /-- Raised by an arm of Dispatch.lean whose command has no meaning yet. Safe: the block stops where the hardware
  goes on. -/
  | notModelled (mnemonic : String)
  deriving DecidableEq, Repr

/-- The state of the block. -/
structure State where
  /-- Commands that wait, first in first out. -/
  pending : List Instr := []
  /-- The reference-tick timestamp (R5, R222). -/
  time : BitVec 48 := 0
  /-- The count by which timeouts run: ticks, or monitor intervals while reftick is lost (R59). -/
  tmo : Nat := 0
  reftickOk : Bool := true
  /-- The model's own counter of free choices (log entry 4). -/
  free : Nat := 0
  /-- The mode (R392). -/
  mode : Mode := .strap
  /-- Stored bits of the registers, by address; an unlisted register holds its cold-reset value (R11, R503). -/
  regs : SMap (BitVec 32) := []
  /-- The taken pins, held until a cold reset (R53), which inputs took their defaults for their range, and which for
  instability (R55). -/
  pins : Option StrapPins := none
  defaulted : BitVec 9 := 0
  defaultedU : BitVec 9 := 0
  /-- The strap inputs as last sampled in STRAP, and the tick at which each last changed, by input (R44, R53). -/
  strapNow : Option StrapPins := none
  strapChg : SMap Nat := []
  /-- The tick from which the filter of pwr_full_rst_n can pass a pulse (R44, R57). -/
  fullPinAt : Nat := 4
  /-- Tables active in the fabric (R25, R365). -/
  homeMap : SMap NodeId := []
  mpMap : SMap MpId := []
  hp : SMap HpShell := []
  mp : SMap MpShell := []
  sess : SMap Session := []
  node : SMap Node := []
  quad : SMap Quad := []
  chv : Core := {}
  xlt : SMap Macro := []
  chan : SMap Chan := []
  /-- Block memory (R19): outside the block, kept through a full reset, lost at a cold reset. -/
  bmem : Memory := []
  /-- Outstanding block-memory requests by tag (R50). -/
  bm : SMap (Option BmReq) := []
  /-- The parameter store and its page buffer, as the port sees them (R453, R456). -/
  store : Memory := []
  pageBuf : Memory := []
  psCmd : Option (BitVec 3 × BitVec 20 × BitVec 32 × BitVec 2 × Nat) := none
  storeProt : BitVec 2 := 0
  /-- Fuse words (R474) and the program request that runs. -/
  fuse : SMap (BitVec 32) := []
  fusePgm : Option (BitVec 10 × BitVec 32 × Nat) := none
  /-- The tick at which the fuse words of R475 were asked for, while their answers are outstanding (Table 2.3). -/
  fuseRd : Option Nat := none
  fuseTodo : List (BitVec 10 × BitVec 32) := []
  /-- Event queue, drops since the last DROPPED record, SEQ, and since when the head waits (R450). -/
  evq : List (BitVec 256) := []
  evDrops : BitVec 32 := 0
  evSeq : BitVec 16 := 0
  evSince : Nat := 0
  /-- The beats of the last record that the recorder was sent, each with ev_wr_last (R52). -/
  evBeats : List (BitVec 64 × Bool) := []
  meas : Meas := {}
  tar : Tarragon := {}
  pmc : SMap Pmc := []
  /-- `tmo` before which a snapshot or clear of the counters is running (R495). -/
  pmcBusyTo : Nat := 0
  /-- The boot ROM has requested a full reset after the checked fill (R477). -/
  romRst : Bool := false
  /-- The objects of the boot source have been copied to the boot cache since the cold reset (R400 step 4). -/
  bootCopied : Bool := false
  queues : SMap Queue := []
  /-- Packets that routers hold, by 8 × router + output port, oldest first (R355). -/
  rout : SMap (List RPkt) := []
  /-- The input port that sent last, by 8 × router + output (R356). -/
  rotLast : SMap Nat := []
  /-- Quench acknowledges of the BM, CFG and system shells, a bit for each node (R361). -/
  shellAck : SMap (BitVec 32) := []
  /-- Outstanding register-port requests, oldest first (R51). -/
  cfg : List CfgReq := []
  /-- The access that started the running epoch change (R447) and the tick at which it began. -/
  epAcc : Option (Bool × Bool) := none
  epAt : Nat := 0
  /-- The tables that passed their checks and are to be switched in: both maps, and the sink set (R365). -/
  epMaps : Option (SMap NodeId × SMap MpId) := none
  epSink : Option (BitVec 32) := none
  /-- pwr_fail_n latched (R57). -/
  pwrFail : Bool := false
  /-- The mode before HOLD and the tick of the trigger (R408). -/
  prior : Mode := .off
  holdAt : Nat := 0
  released : Bool := false
  /-- Ticks since firmware last counted an hour of LIFE (R458). -/
  hourTicks : Nat := 0
  /-- Watchdog count base (R414), FLUSH phase base (R430), TIMER base (R480). -/
  wdogAt : Nat := 0
  flushAt : Nat := 0
  timerAt : Nat := 0
  /-- MTAGs the FLUSH mode waits for, per media port (R430). -/
  flushTags : List (Nat × Nat) := []
  /-- The repair map in force, and the hard items (R475). -/
  map : RepairMap := {}
  hard : RepairMap := {}
  /-- Sorrel's run (R466). -/
  st : StRun := {}
  /-- The XLT command that runs (R321): its word and source. -/
  xltCmd : Option (BitVec 32) := none
  /-- The debug latch: granule offset and value read, and the low word held for writing (R511). -/
  dbgLatch : Option (Nat × Word) := none
  dbgHeld : Option (Nat × BitVec 32) := none
  /-- Positions of the block-level scrubbers (R439). -/
  scrubPos : SMap Nat := []
  /-- Line copies that node hardware ended, with the result it reports (R330); empty between commands. -/
  hwRep : List (BitVec 40 × BitVec 4) := []
  /-- Discarded stores that may still be performed at their endpoints, or never (R300). -/
  late : List (Thr × SbEnt) := []
  /-- Syndromes of the granules of survivor tables that carry SECDED (Table 15.1), by 2^20 × table + granule. -/
  survSyn : SMap (BitVec 8) := []
  /-- Syndromes of the 8,192 granules of the boot ROM (Table 15.1); no command of the spec sets one (log entry 45). -/
  romSyn : SMap (BitVec 8) := []
  /-- How far firmware has come with a mailbox command of several stages (R488, R491, R493); 0 between commands. -/
  mbStage : Nat := 0
  /-- Session and departure events that firmware has taken and not yet served: event, datum, and how the read of the context entry
  ends (R417, R418, R420). -/
  chvTodo : List (Nat × Nat × BmErr) := []
  deriving DecidableEq, Repr

/-- The block right after cold reset (R396, R503): HA_MODE reads 1, STRAP, every field holds its cold-reset value, the
arrays read as zeros and no port is attached (log entry 3). -/
def State.reset : State := {}

end Sys2Proof.Machine
end

