-- ==== Sys2Proof/Machine/Flags.lean ====
section
/-! DEFINITION. Sys2Proof/Machine/Flags.lean: where a register stands in the map, the stored bits of registers, and the
sticky error flags by severity class (R11, R444, R446). -/

namespace Sys2Proof.Machine

/-- Whether address `a` is one of the registers of row `d`. -/
def RegDesc.hits (d : RegDesc) (a : Nat) : Bool :=
  (List.range d.count2).any fun j =>
    let b := d.base + j * d.stride2
    if d.count = 1 then a == b
    else decide (b ≤ a) && decide ((a - b) / d.stride < d.count) && (a - b) % d.stride == 0

/-- Address of offset `o` in the window of node `n` (Table 0.6). -/
def ndA (n : NodeId) (o : Nat) : Nat := 0x100000 + n.val * 0x8000 + o

/-- Address of offset `o` in the window of quadrant `q` (Table 0.6). -/
def qdA (q : QuadId) (o : Nat) : Nat := 0x20000 + q.val * 0x1000 + o

/-- The node window an address lies in, with the offset. -/
def ndOf (a : Nat) : Option (NodeId × Nat) :=
  if 0x100000 ≤ a ∧ a < 0x200000 then some (Fin.ofNat 32 ((a - 0x100000) / 0x8000), (a - 0x100000) % 0x8000) else none

/-- The quadrant window an address lies in, with the offset. -/
def qdOf (a : Nat) : Option (QuadId × Nat) :=
  if 0x20000 ≤ a ∧ a < 0x24000 then some (Fin.ofNat 4 ((a - 0x20000) / 0x1000), (a - 0x20000) % 0x1000) else none

/-- The register at address `a` (R501). -/
def findReg (a : Nat) : Option RegDesc :=
  match ndOf a with
  | some (_, o) => ndRegs.find? (·.hits o)
  | none =>
    match qdOf a with
    | some (_, o) => qdRegs.find? (·.hits o)
    | none => if 0x200000 ≤ a then dbgRegs.find? (·.hits a) else blkRegs.find? (·.hits a)

/-- The cold-reset value of the stored bits at address `a` (R503). -/
def regDefault (a : Nat) : BitVec 32 :=
  match findReg a with
  | some d => d.reset
  | none => 0

/-- The stored bits of the register at `a`. -/
def State.raw (s : State) (a : Nat) : BitVec 32 := smGet regDefault s.regs a

/-- Set the stored bits of the register at `a`. -/
def State.setRaw (s : State) (a : Nat) (v : BitVec 32) : State := { s with regs := smSet regDefault s.regs a v }

/-- Field `[hi:lo]` of the stored bits at `a`. -/
def State.fld (s : State) (a hi lo : Nat) : Nat := bf (s.raw a) hi lo

/-- Hardware's update of field `[hi:lo]` of the register at `a`. -/
def State.setFld (s : State) (a hi lo x : Nat) : State := s.setRaw a (setBf (s.raw a) hi lo x)

/-- Bit `i` of the stored bits at `a`. -/
def State.bit (s : State) (a i : Nat) : Bool := bt (s.raw a) i

/-- The severity class of bit `i` of a register: 1 CE, 2 UCNA, 3 UCR, 4 FATAL, 0 none (Table 15.4). -/
def RegDesc.cls (d : RegDesc) (i : Nat) : Nat :=
  if bt d.ce i then 1 else if bt d.ucna i then 2 else if bt d.ucr i then 3 else if bt d.fatal i then 4 else 0

/-- The sticky error bits of class `c` of a register. -/
def RegDesc.mask (d : RegDesc) : Nat → BitVec 32
  | 1 => d.ce
  | 2 => d.ucna
  | 3 => d.ucr
  | 4 => d.fatal
  | _ => 0

/-- Some sticky error field of class `c` is 1 (R446). Error fields reset to 0, so only listed registers count. -/
def State.anyErr (s : State) (c : Nat) : Bool :=
  s.regs.any fun e => match findReg e.1 with
    | some d => decide (e.2 &&& d.mask c ≠ 0)
    | none => false

/-- HA_ERR_SUM.CLASS (Table 15.13). -/
def State.errClasses (s : State) : Nat :=
  b2n (s.anyErr 1) + 2 * b2n (s.anyErr 2) + 4 * b2n (s.anyErr 3) + 8 * b2n (s.anyErr 4)

/-- HA_ERR_SUM (Table 15.13): classes and the groups that hold a set error field. -/
def State.errSum (s : State) : BitVec 32 :=
  s.regs.foldl (fun v e => match findReg e.1 with
    | some d => if d.group ≠ 0 ∧ e.2 &&& (d.ce ||| d.ucna ||| d.ucr ||| d.fatal) ≠ 0 then setBt v d.group true else v
    | none => v) (BitVec.ofNat 32 s.errClasses)

/-- The straps as taken (R65). -/
def State.strapQuads (s : State) : Nat :=
  match s.fld HA_STRAP 1 0 with
  | 0 => 1
  | 1 => 2
  | _ => 4

/-- Enabled nodes: 8, 16 or 32 (R16). Before STRAP ends no strap is taken and every node counts. -/
def State.nodesN (s : State) : Nat := if s.pins.isNone then 32 else 8 * s.strapQuads
/-- Strapped host ports (R54). -/
def State.hpN (s : State) : Nat := s.fld HA_STRAP 6 2
/-- Strapped media ports (R54). -/
def State.mpN (s : State) : Nat := s.fld HA_STRAP 10 7
/-- A host port in use: below the strapped count and not disabled by repair (R49, Table 16.4). -/
def State.hpUse (s : State) (p : HpId) : Bool := decide (p.val < s.hpN) && !bt s.map.portOff p.val
/-- A media port in use. -/
def State.mpUse (s : State) (m : MpId) : Bool := decide (m.val < s.mpN) && !bt s.map.portOff (16 + m.val)
/-- Bytes of the block-memory region (R50). -/
def State.bmBytes (s : State) : Nat := 2 ^ 30 * s.fld HA_STRAP 20 16
/-- The lifecycle state as taken (R53). -/
def State.lc (s : State) : Nat := s.fld HA_STRAP 23 21
/-- The lifecycle states with debug windows and fuse programming (R52, R509). -/
def State.lcOpen (s : State) : Bool := s.lc == 1 || s.lc == 4

end Sys2Proof.Machine
end

