-- ==== Sys2Proof/Machine/Ops.lean ====
section
/-! DEFINITION. Sys2Proof/Machine/Ops.lean: the named operations over the parts of the state, event records, mode
changes, sticky errors, counters and host responses. Every command is written over these. -/

namespace Sys2Proof.Machine

abbrev Out := Host.Outcome State Fault Refusal

/-! ### Parts of the state -/

/-- Host port shell `p`. -/
def State.hpAt (s : State) (p : HpId) : HpShell := smGet (fun _ => {}) s.hp p.val
/-- Replace host port shell `p`. -/
def State.setHp (s : State) (p : HpId) (x : HpShell) : State := { s with hp := smSet (fun _ => {}) s.hp p.val x }
/-- Media port shell `m`. -/
def State.mpAt (s : State) (m : MpId) : MpShell := smGet (fun _ => {}) s.mp m.val
/-- Replace media port shell `m`. -/
def State.setMp (s : State) (m : MpId) (x : MpShell) : State := { s with mp := smSet (fun _ => {}) s.mp m.val x }
/-- Node `n`. -/
def State.nd (s : State) (n : NodeId) : Node := smGet (fun _ => {}) s.node n.val
/-- Replace node `n`. -/
def State.setNd (s : State) (n : NodeId) (x : Node) : State := { s with node := smSet (fun _ => {}) s.node n.val x }
/-- Quadrant `q`. -/
def State.qd (s : State) (q : QuadId) : Quad := smGet (fun _ => {}) s.quad q.val
/-- Replace quadrant `q`. -/
def State.setQd (s : State) (q : QuadId) (x : Quad) : State := { s with quad := smSet (fun _ => {}) s.quad q.val x }
/-- Session entry of host `h` (R416). -/
def State.ses (s : State) (h : Nat) : Session := smGet (fun _ => {}) s.sess h
/-- Replace the session entry of host `h`. -/
def State.setSes (s : State) (h : Nat) (x : Session) : State := { s with sess := smSet (fun _ => {}) s.sess h x }
/-- DMA channel `c`. -/
def State.ch (s : State) (c : ChanId) : Chan := smGet (fun _ => {}) s.chan c.val
/-- Replace DMA channel `c`. -/
def State.setCh (s : State) (c : ChanId) (x : Chan) : State := { s with chan := smSet (fun _ => {}) s.chan c.val x }
/-- Translation macro `i` (Table 10.4). -/
def State.mac (s : State) (i : Nat) : Macro := smGet (fun _ => {}) s.xlt i
/-- Replace translation macro `i`. -/
def State.setMac (s : State) (i : Nat) (x : Macro) : State := { s with xlt := smSet (fun _ => {}) s.xlt i x }
/-- A Sage core. -/
def State.core (s : State) : CoreId → Core
  | .node n => (s.nd n).core
  | .chervil => s.chv
/-- Replace a Sage core. -/
def State.setCore (s : State) (c : CoreId) (x : Core) : State :=
  match c with
  | .node n => s.setNd n { s.nd n with core := x }
  | .chervil => { s with chv := x }
/-- Thread `t` of a core. -/
def Core.thr (c : Core) (t : Nat) : Thread := smGet (fun _ => {}) c.threads t
/-- Replace thread `t` of a core. -/
def Core.setThr (c : Core) (t : Nat) (x : Thread) : Core := { c with threads := smSet (fun _ => {}) c.threads t x }
/-- A thread of the block. -/
def State.thr (s : State) (t : Thr) : Thread := (s.core t.core).thr t.t.val
/-- Replace a thread of the block. -/
def State.setThr (s : State) (t : Thr) (x : Thread) : State := s.setCore t.core ((s.core t.core).setThr t.t.val x)
/-- Tracker `i` of a node. -/
def Node.trkAt (x : Node) (i : Nat) : Trk := smGet (fun _ => {}) x.trk i
/-- Replace tracker `i` of a node. -/
def Node.setTrk (x : Node) (i : Nat) (t : Trk) : Node := { x with trk := smSet (fun _ => {}) x.trk i t }
/-- Line-buffer entry `i` of a node. -/
def Node.lbAt (x : Node) (i : Nat) : Lbe := smGet (fun _ => {}) x.lb i
/-- Replace line-buffer entry `i` of a node. -/
def Node.setLb (x : Node) (i : Nat) (e : Lbe) : Node := { x with lb := smSet (fun _ => {}) x.lb i e }
/-- Change node `n`. -/
def State.modNd (s : State) (n : NodeId) (f : Node → Node) : State := s.setNd n (f (s.nd n))
/-- Change tracker `i` of node `n`. -/
def State.modTrk (s : State) (n : NodeId) (i : Nat) (f : Trk → Trk) : State :=
  s.modNd n fun x => x.setTrk i (f (x.trkAt i))
/-- The quadrant of a node (Table 1.1). -/
def quadOf (n : NodeId) : QuadId := Fin.ofNat 4 (n.val / 8)
/-- The engine-start event of a core, with FULL as its datum (Table 8.2). -/
def Core.startEvt (c : Core) : Evt := { evt := 0x3E, cls := 0, trk := none, datum := BitVec.ofNat 64 (b2n c.full) }
/-- All nodes, ports and quadrants. -/
def allNodes : List NodeId := List.finRange 32
/-- The sixteen host ports. -/
def allHp : List HpId := List.finRange 16
/-- The eight media ports. -/
def allMp : List MpId := List.finRange 8
/-- The four quadrants. -/
def allQd : List QuadId := List.finRange 4

/-- A node that the straps enable and that is not retired (R16, R17). -/
def State.inService (s : State) (n : NodeId) : Bool := decide (n.val < s.nodesN) && !bt s.map.retired n.val
/-- A node in service whose quadrant is ON. -/
def State.live (s : State) (n : NodeId) : Bool := s.inService n && (s.qd (quadOf n)).pwr == .on

/-- The local port of a node sinks: by the active sink set, or while its quadrant is in TEST (R363, R467). -/
def State.sunk (s : State) (n : NodeId) : Bool := s.bit HA_FAB_SINK_ACT n.val || (s.qd (quadOf n)).pwr == .test

/-! ### Counters (R494 to R497) -/

/-- The number of node counter `k` of node `n`, or of block counter `k` (Table 17.3). -/
def pmcIx : PmcId → Nat
  | .node n k => 4 * n.val + k.val
  | .block k => 128 + k.val

/-- The SEL and HI register addresses of a counter (Table 17.10). -/
def pmcSelA : PmcId → Nat
  | .node n k => ndA n (ND_PMC_SEL + 16 * k.val)
  | .block k => HA_PMC_SEL + 16 * k.val

/-- The HI register address of a counter. -/
def pmcHiA (i : PmcId) : Nat := pmcSelA i + 8

/-- A choice between permitted outcomes, and the counter moved on (log entry 4). -/
def State.choose (s : State) : Bool × State := (Config.freeBool s.free, { s with free := s.free + 1 })

/-- Queue an event at Chervil, merging with a pending one of its type (R480): a merged MODE event carries the latest mode and
a merged ERROR event the OR; for other types either datum may be carried (log entry 21). -/
def State.chvEvent (s : State) (evt : Nat) (datum : Nat) : State :=
  let e : Evt := { evt := BitVec.ofNat 8 evt, cls := 0, trk := none, datum := BitVec.ofNat 64 datum }
  let put (s : State) (l : List Evt) : State := { s with chv := { s.chv with events := l } }
  let old := s.chv.events
  let join (f : Word → Word) : List Evt := old.map fun x => if x.evt == e.evt then { x with datum := f x.datum } else x
  if evt = 0x51 ∨ evt = 0x52 ∨ ¬ old.any (fun x => x.evt == e.evt) then put s (old ++ [e])
  else match evt with
    | 0x53 => put s (join fun d => d ||| e.datum)
    | 0x54 => put s (join fun _ => e.datum)
    | _ =>
      let c := s.choose
      put c.2 (join fun d => if c.1 then e.datum else d)

/-- Add `k` to a counter whose SEL names the event, with the wrap of R496. -/
def State.bump (s : State) (i : PmcId) (k : Nat) : State :=
  let c := smGet (fun _ => {}) s.pmc (pmcIx i)
  let v := c.live.toNat + k
  let s := { s with pmc := smSet (fun _ => {}) s.pmc (pmcIx i) { c with live := BitVec.ofNat 48 v } }
  if v < 2 ^ 48 then s
  else
    let s := s.setFld (pmcHiA i) 16 16 1
    if s.bit HA_PMC_CTRL 3 then s.chvEvent 0x59 (pmcIx i) else s

/-- The SEL of a counter, whose reset value is 0 (Table 17.10). -/
def State.selOf (s : State) (i : PmcId) : Nat := bf (smGet (fun _ => (0 : BitVec 32)) s.regs (pmcSelA i)) 9 0
/-- FREEZE, whose reset value is 0. -/
def State.pmcFrozen (s : State) : Bool := bt (smGet (fun _ => (0 : BitVec 32)) s.regs HA_PMC_CTRL) 0

/-- Count node event `sel` at node `n` (Table 17.7), only while its quadrant is ON and nothing is frozen. -/
def State.cntN (s : State) (n : NodeId) (sel k : Nat) : State :=
  if s.pmcFrozen || (s.qd (quadOf n)).pwr != .on then s
  else (List.finRange 4).foldl (fun s i => if s.selOf (.node n i) = sel then s.bump (.node n i) k else s) s

/-- Count what no command of the table shows: issue steps of node `n`, whose number in a tick is open (log entry 98). -/
def State.cntOpen (s : State) (n : NodeId) (sel : Nat) : State :=
  if (List.finRange 4).any fun i => s.selOf (.node n i) == sel then
    { s with free := s.free + 1 }.cntN n sel ((Config.freeValue s.free).toNat % 64)
  else s

/-- SNAP_BUSY (R495). -/
def State.pmcBusy (s : State) : Bool := decide (s.tmo < s.pmcBusyTo)

/-- Count block event `sel` (Table 17.7). -/
def State.cntB (s : State) (sel k : Nat) : State :=
  if s.pmcFrozen then s
  else (List.finRange 16).foldl (fun s i => if s.selOf (.block i) = sel then s.bump (.block i) k else s) s

/-! ### Event records (R448 to R450) -/

/-- Whether a queued record is of class UCR or FATAL. -/
def recHigh (r : BitVec 256) : Bool := decide (3 ≤ bf r 58 56)

/-- Form a record: kind, class, payload bytes 8–27 (Table 15.5). -/
def State.mkRec (s : State) (kind cls payload : Nat) : BitVec 256 :=
  BitVec.ofNat 256 (s.time.toNat + kind * 2 ^ 48 + cls * 2 ^ 56 + (payload % 2 ^ 160) * 2 ^ 64
    + s.evSeq.toNat * 2 ^ 224 + s.fld HA_RST_STAT 2 0 * 2 ^ 240 + 0xA5 * 2 ^ 248)

/-- Place a record in the queue and take its sequence number. -/
def State.pushRec (s : State) (kind cls payload : Nat) : State :=
  let s := if s.evq = [] then { s with evSince := s.tmo } else s
  { s with evq := s.evq ++ [s.mkRec kind cls payload], evSeq := s.evSeq + 1 }

/-- Count a dropped record (R450). -/
def State.dropRec (s : State) : State :=
  let n := s.fld HA_EV_STAT 31 16
  let s := s.setFld HA_EV_STAT 31 16 (if n = 65535 then n else n + 1)
  { s with evDrops := s.evDrops + 1 }

/-- Form the DROPPED record as soon as one of places 1 to 56 is free and records were dropped (R450). -/
def State.dropped (s : State) : State :=
  if s.evDrops = 0 ∨ 56 ≤ s.evq.length then s
  else { s.pushRec 0x07 0 s.evDrops.toNat with evDrops := 0 }

/-- Write an event record (R448, R450): places 57 to 64 take only UCR and FATAL; while EN is 0 it is
dropped, and a DROPPED record is formed as soon as it finds a place. -/
def State.record (s : State) (kind cls payload : Nat) : State :=
  if s.mode = .off then s
  else if !s.bit HA_EV_CTRL 0 then s.dropRec.dropped
  else
    let s := s.dropped
    if s.evq.length < (if 3 ≤ cls then 64 else 56) then s.pushRec kind cls payload else s.dropRec.dropped

/-! ### Modes -/

/-- The HA_MODE code (Table 1.11). -/
def Mode.code : Mode → Nat
  | .off => 0 | .strap => 1 | .fill => 2 | .boot => 3 | .standby => 4 | .service => 5
  | .degraded => 6 | .hold => 7 | .evacuate => 8 | .flush => 9 | .selftest => 10 | .safe => 11

/-- Modes whose request channels may be ready (R42). -/
def Mode.serves : Mode → Bool
  | .service | .degraded | .evacuate => true
  | _ => false

/-- Change the mode (R392): PREV, FIRST_SVC, the MODE record and event, and the watchdog restart. -/
def State.setMode (s : State) (m : Mode) : State :=
  if s.mode = m then s
  else
    let old := s.mode
    let s := (s.setFld HA_MODE 7 4 old.code).setFld HA_MODE 16 16
      (b2n (s.bit HA_MODE 16 || m == .service || m == .degraded))
    let s := { s with mode := m, wdogAt := s.tmo }
    if m = .off then s
    else (s.record 0x08 0 (m.code + 256 * old.code)).chvEvent 0x54 (m.code + 16 * old.code)

/-- Some enabled quadrant is not ON (R394, DG_GATED). -/
def State.dgGated (s : State) : Bool :=
  allQd.any fun q => decide (q.val < s.nodesN / 8) && (s.qd q).pwr != .on

/-- The block belongs in DEGRADED (R394). -/
def State.dgAny (s : State) : Bool := decide (s.map.retired ≠ 0) || s.dgGated || s.anyErr 3

/-- SERVICE and DEGRADED follow the causes of R394. -/
def State.degrade (s : State) : State :=
  match s.mode with
  | .service => if s.dgAny then s.setMode .degraded else s
  | .degraded => if s.dgAny then s else s.setMode .service
  | _ => s

/-! ### Noting errors -/

/-- The severity class of bit `i` of the register at `a`. -/
def errClass (a i : Nat) : Nat := match findReg a with
  | some d => d.cls i
  | none => 0

/-- Note sticky error bit `i`, which was 0 (R444): the bit, its ERROR record (unless the event has its own kind), and the ERROR
event of a class that becomes non-empty. -/
def State.raiseNote (s : State) (a i : Nat) (own : Bool) : State :=
  let before := s.errClasses
  let s := s.setFld a i i 1
  let c := errClass a i
  let v := (s.raw a).toNat
  let s := if c = 0 ∨ own ∨ (c = 1 ∧ s.bit HA_EV_CTRL 1 = false) then s
    else s.record 0x01 c (a + i * 2 ^ 24 + v * 2 ^ 32)
  let after := s.errClasses
  if after ≠ before then s.chvEvent 0x53 after else s

/-- Set a sticky error bit of class CE, UCNA or UCR. -/
def State.note (s : State) (a i : Nat) : State := if s.bit a i then s else (s.raiseNote a i false).degrade

/-! ### Host responses (R76, R77) -/

/-- OPC, HOST, TAG, CTX and CADDR of a request header (Table 3.2). -/
def hdrOpc (h : BitVec 128) : Nat := bf h 4 0
/-- HOST of a request header. -/
def hdrHost (h : BitVec 128) : BitVec 10 := BitVec.ofNat 10 (bf h 17 8)
/-- TAG of a request header. -/
def hdrTag (h : BitVec 128) : BitVec 16 := BitVec.ofNat 16 (bf h 33 18)
/-- CTX of a request header. -/
def hdrCtx (h : BitVec 128) : BitVec 16 := BitVec.ofNat 16 (bf h 49 34)
/-- CADDR of a request header. -/
def hdrCaddr (h : BitVec 128) : BitVec 42 := BitVec.ofNat 42 (bf h 91 50)
/-- The MetaValue the block takes (R72): Invalid when MFLD is 0. -/
def hdrMval (h : BitVec 128) : Nat := if bt h 5 then bf h 7 6 else 0

/-- A No-data response (Table 3.5). -/
def ndrWord (opc : Nat) (host : BitVec 10) (tag : BitVec 16) (devload err durable : Nat) : BitVec 64 :=
  BitVec.ofNat 64 (opc + host.toNat * 2 ^ 4 + tag.toNat * 2 ^ 14 + devload % 4 * 2 ^ 30 + err * 2 ^ 32 + durable * 2 ^ 36)

/-- A Data response header (Table 3.6). -/
def drsWord (opc : Nat) (host : BitVec 10) (tag : BitVec 16) (devload grant err : Nat) : BitVec 64 :=
  BitVec.ofNat 64 (opc + host.toNat * 2 ^ 4 + tag.toNat * 2 ^ 14 + devload % 4 * 2 ^ 30 + grant * 2 ^ 32 + err * 2 ^ 34)

/-- Put a No-data response in an outbound slot; the channel's wait counts from the head's arrival. -/
def HpShell.pushNdr (x : HpShell) (now : Nat) (w : BitVec 64) (idx : Option Nat) : HpShell :=
  { x with ndr := x.ndr ++ [(w, idx)], outSince := if x.ndr = [] then smSet (fun _ => 0) x.outSince 0 now else x.outSince }

/-- Put a Data response in an outbound slot. -/
def HpShell.pushDrs (x : HpShell) (now : Nat) (w : BitVec 64) (d : Line) (poison : Bool) (idx : Option Nat) : HpShell :=
  { x with drs := x.drs ++ [(w, d, poison, idx)],
           outSince := if x.drs = [] then smSet (fun _ => 0) x.outSince 1 now else x.outSince }

/-- Ledger entry `i` of a shell. -/
def HpShell.led (x : HpShell) (i : Nat) : Option LedEnt := smGet (fun _ => none) x.ledger i
/-- Replace ledger entry `i` of a shell. -/
def HpShell.setLed (x : HpShell) (i : Nat) (e : Option LedEnt) : HpShell :=
  { x with ledger := smSet (fun _ => none) x.ledger i e }

/-- The capabilities selected on a port (R87); none when unattached. -/
def Att.caps : Att → BitVec 32
  | .attached _ c => c
  | .detaching _ c => c
  | _ => 0
/-- The version selected on a port (Table 2.16). -/
def Att.ver : Att → BitVec 2
  | .attached v _ => v
  | .detaching v _ => v
  | _ => 0
/-- The port is attached (R87, R419, R427). -/
def Att.on : Att → Bool
  | .attached .. => true
  | .detaching .. => true
  | _ => false

/-- Word `w` of a ledger entry: two of header, eight of data, mask and tag (R41). -/
def LedEnt.word (e : LedEnt) (w : Nat) : Word :=
  if w < 2 then BitVec.ofNat 64 (bf e.hdr (64 * w + 63) (64 * w))
  else if w < 10 then BitVec.ofNat 64 (bf e.data (64 * (w - 2) + 63) (64 * (w - 2)))
  else if w = 10 then e.be else e.tag

/-- Replace word `w` of a ledger entry. -/
def LedEnt.setWord (e : LedEnt) (w : Nat) (v : Word) : LedEnt :=
  if w < 2 then { e with hdr := setBf e.hdr (64 * w + 63) (64 * w) v.toNat }
  else if w < 10 then { e with data := setBf e.data (64 * (w - 2) + 63) (64 * (w - 2)) v.toNat }
  else if w = 10 then { e with be := v } else { e with tag := v }

/-- What the check of word `w` of ledger entry `i` says (R436). -/
def HpShell.ledEcc (x : HpShell) (i w : Nat) : Ecc :=
  eccClass 64 (smGet (fun _ => (0 : BitVec 8)) x.syn (12 * i + w)).toNat

/-- Write a corrected word of ledger entry `i` back. -/
def State.ledCorrect (s : State) (p : HpId) (i w : Nat) : State :=
  let x := s.hpAt p
  let e := x.ledEcc i w
  if eccCe e then
    let x := { x with syn := smSet (fun _ => (0 : BitVec 8)) x.syn (12 * i + w) 0 }
    let x := match x.led i with
      | some l => x.setLed i (some (l.setWord w (eccFix (l.word w) e)))
      | none => x
    (s.setHp p x).note HA_SCRUB_ERR 0
  else s

/-- A read of ledger entry `i` (R436, R438): corrected words are written back; 0 when it is usable, 1 when word 0 is lost, 2
when another word is. -/
def State.ledRead (s : State) (p : HpId) (i : Nat) : Nat × State :=
  let x := s.hpAt p
  if x.syn = [] then (0, s)
  else
    let s := (List.range 12).foldl (fun s w => s.ledCorrect p i w) s
    if x.ledEcc i 0 = .uce then (1, s.note HA_SCRUB_ERR 1)
    else if (List.range 12).any (fun w => x.ledEcc i w == .uce) then (2, s.note HA_SCRUB_ERR 1)
    else (0, s)

/-- Put a No-data response for ledger entry `i` (R211: it is then in the answered state); the response of a departed host is
discarded and its entry retired (R122). -/
def State.putNdr (s : State) (p : HpId) (i : Nat) (w : BitVec 64) : State :=
  let x := s.hpAt p
  match x.led i with
  | none => s
  | some e =>
    if e.gone then s.setHp p (x.setLed i none)
    else s.setHp p ((x.setLed i (some { e with st := .answered })).pushNdr s.tmo w (some i))

/-- The same with a Data response. -/
def State.putDrs (s : State) (p : HpId) (i : Nat) (w : BitVec 64) (d : Line) (poison : Bool) : State :=
  let x := s.hpAt p
  match x.led i with
  | none => s
  | some e =>
    if e.gone then s.setHp p (x.setLed i none)
    else s.setHp p ((x.setLed i (some { e with st := .answered })).pushDrs s.tmo w d poison (some i))

/-- The error of code `code` for ledger entry `i`, in the form of R77. -/
def State.putErr (s : State) (p : HpId) (i : Nat) (code devload : Nat) : State :=
  match (s.hpAt p).led i with
  | none => s
  | some e =>
    let h := hdrHost e.hdr
    let t := hdrTag e.hdr
    if hdrOpc e.hdr ≤ 1 then
      if code = 5 then s.putDrs p i (drsWord 0 h t devload 0 code) 0 true
      else s.putDrs p i (drsWord 1 h t devload 0 code) 0 false
    else s.putNdr p i (ndrWord 4 h t devload code 0)

/-- Answer ledger entry `i` of port `p`, once: the entry is read, and a lost word 0 retires it with no response, another lost
word is answered MEDIA (R438). -/
def State.answer (s : State) (p : HpId) (i : Nat) (f : State → State) : State :=
  match (s.hpAt p).led i with
  | none => s
  | some e =>
    if e.st = .answered then s
    else
      let r := s.ledRead p i
      match r.1 with
      | 0 => f r.2
      | 1 => r.2.setHp p ((r.2.hpAt p).setLed i none)
      | _ => r.2.putErr p i 5 0

/-- Answer ledger entry `i` of port `p` with No-data word `w`. -/
def State.answerNdr (s : State) (p : HpId) (i : Nat) (w : BitVec 64) : State := s.answer p i fun s => s.putNdr p i w

/-- Answer ledger entry `i` of port `p` with a Data response. -/
def State.answerDrs (s : State) (p : HpId) (i : Nat) (w : BitVec 64) (d : Line) (poison : Bool) : State :=
  s.answer p i fun s => s.putDrs p i w d poison

/-- Answer ledger entry `i` of port `p` with the error of code `code`. -/
def State.answerErr (s : State) (p : HpId) (i : Nat) (code devload : Nat) : State :=
  s.answer p i fun s => s.putErr p i code devload

/-- The entries of port `p` are read for the test of R201 or for replay: a lost one is retired or answered (R438). -/
def State.ledScan (s : State) (p : HpId) : State :=
  if (s.hpAt p).syn = [] then s
  else (s.hpAt p).ledger.foldl (fun s e => s.answer p e.1 fun s => s) s

/-- The indices of the live, unanswered entries of a shell (R211). -/
def HpShell.liveIdx (x : HpShell) : List Nat :=
  x.ledger.filterMap fun e => match e.2 with
    | some l => if l.st = .answered then none else some e.1
    | none => none

/-! ### SAFE and sticky errors -/

/-- Halt a running channel with cause STOP (R395, R430). -/
def Chan.halt (c : Chan) (cause : Nat) : Chan :=
  if c.st = .run ∨ c.st = .preempted then { c with st := .halted, cause := BitVec.ofNat 4 cause, out := [], busy := [] } else c

/-- Enter SAFE (R395): engines stop, channels halt with cause STOP, every live unanswered entry is answered SAFE. -/
def State.safeEntry (s : State) (cause : Nat) : State :=
  let s := s.setFld HA_MODE 15 12 cause
  let s := allNodes.foldl (fun s n => s.modNd n fun x => { x with core := { x.core with stopped := true } }) s
  let s := (List.finRange 16).foldl (fun s c => s.setCh c ((s.ch c).halt 10)) s
  let s := allHp.foldl (fun s p => (s.hpAt p).liveIdx.foldl (fun s i => s.answerErr p i 4 0) s) s
  let s := allHp.foldl (fun s p => s.setHp p { s.hpAt p with flushes := [], retry := [], wbRetry := [] }) s
  s.setMode .safe

/-- A FATAL error takes these modes to SAFE; in FLUSH it is only recorded (R392). -/
def Mode.fatalStops : Mode → Bool
  | .boot | .standby | .service | .degraded | .hold | .evacuate | .selftest => true
  | _ => false

/-- A run of Sorrel is abandoned (R476): PHASE 6 and ABANDONED; no further fuse program starts. -/
def State.stAbandon (s : State) : State :=
  let s := { s.setFld HA_ST_STAT 2 0 6 with fuseTodo := [] }
  if s.bit HA_ST_ERR 5 then s else s.raiseNote HA_ST_ERR 5 false

/-- Set sticky error bit `i` of the register at `a` (R444), and change the mode by its class (R392, R394). A FATAL error of
another source abandons a run of Sorrel (R476). -/
def State.raiseK (s : State) (a i : Nat) (own : Bool) : State :=
  if s.bit a i then s
  else
    let s := s.raiseNote a i own
    if errClass a i = 4 ∧ s.mode.fatalStops = true then
      (if s.mode = .selftest ∧ a ≠ HA_ST_ERR then s.stAbandon else s).safeEntry 1
    else s.degrade

/-- Set a sticky error bit whose event has no record kind of its own. -/
def State.raise (s : State) (a i : Nat) : State := s.raiseK a i false

/-- Capture a first error (R445): the capture fields, the timestamp and VALID, while VALID is 0. -/
def State.capture (s : State) (cap valid ts val : Nat) : State :=
  if s.bit cap valid then s
  else (s.setRaw cap (BitVec.ofNat 32 (val % 2 ^ valid + 2 ^ valid))).setRaw ts (BitVec.ofNat 32 s.time.toNat)

/-- The same for a capture register that has no timestamp register. -/
def State.captureV (s : State) (cap valid val : Nat) : State :=
  if s.bit cap valid then s else s.setRaw cap (BitVec.ofNat 32 (val % 2 ^ valid + 2 ^ valid))

/-- The register-access, configuration and CFG_ITEM errors with their capture (R447): kind 1, 2 or 3. -/
def State.accErr (s : State) (kind a : Nat) (wr priv : Bool) : State :=
  (s.capture HA_ERR_ACC_CAP 28 HA_ERR_ACC_TS (a % 2 ^ 24 + b2n wr * 2 ^ 24 + b2n priv * 2 ^ 25 + kind * 2 ^ 26)).raise
    HA_ERR_ACC (kind - 1)

/-- The privilege a source carries (R225, R502). -/
def srcPriv : Src → Bool
  | .port p => p
  | .tarragon => false
  | _ => true

/-- Whether a source counts as Chervil for the Chervil-only rules (R502). -/
def srcChv : Src → Bool
  | .chervil | .bootRom => true
  | _ => false

/-- Granules `g` to `g + k − 1` of survivor table `t` are written with fresh checks: snoop slots of HPn are table n, MTAGs of
MPn table 16 + n, its mirror slots 24 + n, session entries 32, retry lists of HPn 33 + n. -/
def State.survFresh (s : State) (t g k : Nat) : State :=
  { s with survSyn := smFilter (fun i => decide (i < 2 ^ 20 * t + g) || decide (2 ^ 20 * t + g + k ≤ i)) s.survSyn }

/-- An elapsed timeout: at least `n` counts since `t` (R5, R59). -/
def State.past (s : State) (t n : Nat) : Bool := decide (t + n ≤ s.tmo)
/-- The count at which the limit of an access sent now passes (R226, R303). -/
def State.accLimit (s : State) : Nat := s.tmo + s.fld HA_ST_TIMEOUT 15 0

end Sys2Proof.Machine
end

