-- ==== Sys2Proof/Machine/Attach.lean ====
section
/-! DEFINITION. Sys2Proof/Machine/Attach.lean: how the block answers the attach sideband of a port (R86, R87). -/

namespace Sys2Proof.Machine

/-- The block answers an attach only in these modes (R87). -/
def Mode.answers : Mode → Bool
  | .standby | .service | .degraded => true
  | _ => false

/-- The port is strapped, its partner is out of reset with a good clock, and it has not failed. -/
def State.portUp (s : State) : AttPort → Bool
  | .hp p => s.hpUse p && (s.hpAt p).clkOk && !(s.hpAt p).partnerRst && !(s.hpAt p).failed
  | .mp m => s.mpUse m && (s.mpAt m).clkOk && !(s.mpAt m).partnerRst && !(s.mpAt m).failed

/-- The attach sideband of a port. -/
def State.att (s : State) : AttPort → Att
  | .hp p => (s.hpAt p).att
  | .mp m => (s.mpAt m).att
/-- Replace the attach sideband of a port. -/
def State.setAtt (s : State) (q : AttPort) (a : Att) : State :=
  match q with
  | .hp p => s.setHp p { s.hpAt p with att := a }
  | .mp m => s.setMp m { s.mpAt m with att := a }
/-- The status register of a port (R68). -/
def portStat : AttPort → Nat
  | .hp p => HA_HP_STAT + 4 * p.val
  | .mp m => HA_MP_STAT + 4 * m.val
/-- The block's version bitmap (R86): TPP versions up to strap_tpp_max; media protocol versions 1 and 2. -/
def State.verMap (s : State) : AttPort → Nat
  | .hp _ => 2 ^ s.fld HA_STRAP 13 12 - 1
  | .mp _ => 3
/-- The capabilities allowed at version `v` (Tables 3.11 and 3.18) that HA_PORT_CAP offers. -/
def State.capMask (s : State) (q : AttPort) (v : Nat) : Nat :=
  match q with
  | .hp _ => s.fld HA_PORT_CAP 7 0 &&& (if 3 ≤ v then 0xFF else 0x0F)
  | .mp _ => if 2 ≤ v then s.fld HA_PORT_CAP 18 16 else 0

/-- `att_done` of a port (R87, R88). -/
def Att.done : Att → Bool
  | .answered .. | .refused | .attached .. | .detaching .. => true
  | .idle | .waiting _ => false
/-- `att_sel` of a port (R87 step 5): the single bit of the version and the capabilities; zero for a refusal. -/
def Att.sel : Att → BitVec 48
  | .answered v c _ | .attached v c | .detaching v c => BitVec.ofNat 48 (2 ^ (v.toNat - 1) + c.toNat * 2 ^ 8)
  | .idle | .waiting _ | .refused => 0

/-- Steps 2 to 5 of R87. -/
def State.attAnswer (s : State) (q : AttPort) (offer : BitVec 48) : State :=
  if bf offer 47 40 ≠ 0 then (s.raise (portStat q) 7).setAtt q .refused
  else
    let common := bf offer 7 0 &&& s.verMap q
    if common = 0 then s.setAtt q .refused
    else
      let v := Nat.log2 common + 1
      s.setAtt q (.answered (BitVec.ofNat 2 v) (BitVec.ofNat 32 (bf offer 39 8 &&& s.capMask q v)) s.tmo)

/-- att_req rises with an offer: it waits in a mode that answers no attach (R87). -/
def State.attReq (s : State) (q : AttPort) (offer : BitVec 48) : State :=
  if s.mode = .off ∨ s.portUp q = false ∨ s.att q ≠ .idle then s
  else if s.mode.answers then s.attAnswer q offer
  else s.setAtt q (.waiting offer)

/-- A request that has waited is answered once the mode answers attaches (R87). -/
def State.attPoll (s : State) (q : AttPort) : State :=
  match s.att q with
  | .waiting o => if s.mode.answers && s.portUp q then s.attAnswer q o else s
  | _ => s

/-- Every port's. -/
def State.attAll (s : State) : State :=
  allMp.foldl (fun s m => s.attPoll (.mp m)) (allHp.foldl (fun s p => s.attPoll (.hp p)) s)

/-- The ATTACH limit does not run in a mode that answers no attach (R87): the time at which an answer was given moves on with the
count. -/
def Att.pause : Att → Att
  | .answered v c t => .answered v c (t + 1)
  | a => a

/-- One tick of that. -/
def State.attTick (s : State) : State :=
  if s.mode.answers then s
  else
    let s := allHp.foldl (fun s p => s.setHp p { s.hpAt p with att := (s.hpAt p).att.pause }) s
    allMp.foldl (fun s m => s.setMp m { s.mpAt m with att := (s.mpAt m).att.pause }) s

end Sys2Proof.Machine
end

