-- ==== Sys2Proof/Machine/Operands.lean ====
section
/-! DEFINITION. Sys2Proof/Machine/Operands.lean: address arithmetic (R23, R24, R137 to R139, R162, R166) and the fields of
a Sage instruction word (R229). -/

namespace Sys2Proof.Machine

/-! ### Home selection (R23, R24) -/

/-- The home slot of sector number `s` (R23). -/
def homeSlot (s : Nat) : Nat :=
  (s % 128) ^^^ (s >>> 7 % 128) ^^^ (s >>> 14 % 128) ^^^ (s >>> 21 % 128) ^^^ (s >>> 28 % 128) ^^^ (s >>> 35 % 8)

/-- Node of slot `h` in the active home map (R23); before any strap is taken, the 32-node reset map. -/
def State.slotNode (s : State) (h : Nat) : NodeId := smGet (fun i => Fin.ofNat 32 (i % 32)) s.homeMap h

/-- Sector number of a PLA (Table 1.4). -/
def plaSector (pla : BitVec 40) : Nat := pla.toNat / 4

/-- Home node of a PLA (R23). -/
def State.home (s : State) (pla : BitVec 40) : NodeId := s.slotNode (homeSlot (plaSector pla))

/-- Media port of an maddr (R24). -/
def State.mpOf (s : State) (maddr : BitVec 46) : MpId := smGet (fun i => Fin.ofNat 8 i) s.mpMap (bf maddr 10 8)

/-! ### Bank layout (R137 to R139) -/

/-- The home slots a node holds, ascending (R137). -/
def State.slotsOf (s : State) (n : NodeId) : List Nat := (List.range 128).filter fun h => s.slotNode h == n

/-- The group count G for `k` slots (R137). -/
def groupCount (k : Nat) : Nat :=
  if k ≤ 4 then 1 else if k ≤ 8 then 2 else if k ≤ 16 then 4 else if k ≤ 32 then 8 else 16

/-- log2 of G (Table 5.13). -/
def groupLog2 (k : Nat) : Nat :=
  if k ≤ 4 then 0 else if k ≤ 8 then 1 else if k ≤ 16 then 2 else if k ≤ 32 then 3 else 4

/-- Where a sector lies in its home bank (R138): set, ways of its group, tag; none when its slot has no ways (R140). -/
structure BankPos where
  set : Nat
  ways : List Nat
  tag : Nat
  deriving DecidableEq, Repr

/-- The bank position of sector `s` at node `n` (R138). -/
def State.bankPos (st : State) (n : NodeId) (s : Nat) : Option BankPos :=
  let l := st.slotsOf n
  let p := l.idxOf (homeSlot s)
  if l.length ≤ p ∨ 64 ≤ p then none
  else
    let g := groupCount l.length
    let w := 16 / g
    some { set := (p % 4) * 2048 + (s >>> 7) % 2048, ways := (List.range w).map fun i => (p / 4) * w + i,
           tag := (s >>> 18) % 2 ^ 20 }

/-- s[6:0] of a sector whose upper bits are known, from its home slot (R139). -/
def lowFromSlot (up h : Nat) : Nat := up + (h ^^^ homeSlot up)

/-- The sector that a bank entry names (R139). -/
def State.sectorOf (st : State) (n : NodeId) (set way tag : Nat) : Nat :=
  let l := st.slotsOf n
  let g := groupCount l.length
  let p := 4 * (way / (16 / g)) + set / 2048
  lowFromSlot (tag * 2 ^ 18 + (set % 2048) * 2 ^ 7) (l.getD p 0)

/-! ### Overflow directory and region map (R162, R163, R166) -/

/-- m of the overflow directory (R162). -/
def State.ovfM (s : State) : Nat := s.fld HA_OVF_CTRL 5 1

/-- The overflow set of a sector (R162). -/
def State.ovfSet (st : State) (s : Nat) : Nat := homeSlot s * 2 ^ (st.ovfM - 7) + (s >>> 7) % 2 ^ (st.ovfM - 7)
/-- The overflow tag of a sector (R162). -/
def State.ovfTag (st : State) (s : Nat) : Nat := s >>> st.ovfM
/-- Block-memory line of an overflow set (R162). -/
def State.ovfLine (st : State) (set : Nat) : Nat := 4194304 * st.fld HA_OVF_BASE 6 0 + set
/-- The sector an overflow entry names (R162, R139). -/
def State.ovfSector (st : State) (set tag : Nat) : Nat :=
  lowFromSlot (tag * 2 ^ st.ovfM + (set % 2 ^ (st.ovfM - 7)) * 2 ^ 7) (set / 2 ^ (st.ovfM - 7))

/-- b of the region map (R166). -/
def State.rmB (s : State) : Nat := if s.nodesN = 32 then 2 else if s.nodesN = 16 then 3 else 4
/-- The region bit of a sector (R166). -/
def State.region (st : State) (s : Nat) : Nat :=
  (homeSlot s / 2 ^ (7 - st.rmB)) * 2 ^ (21 - st.rmB) + (s >>> (17 + st.rmB))
/-- What an unlisted region-map word reads as. -/
def Node.rmDef (x : Node) (i : Nat) : Word := if bt x.rmapFill (i / 2048) then BitVec.allOnes 64 else 0
/-- A region-map word. -/
def Node.rmWord (x : Node) (i : Nat) : Word := smGet x.rmDef x.rmap i
/-- Write a region-map word. -/
def Node.setRmWord (x : Node) (i : Nat) (v : Word) : Node := { x with rmap := smSet x.rmDef x.rmap i v }
/-- Every region bit whose top four bits pass is set. -/
def Node.rmFillWith (x : Node) (p : Nat → Bool) : Node :=
  { x with rmapFill := (List.range 16).foldl (fun v i => if p i then setBt v i true else v) x.rmapFill,
           rmap := x.rmap.filter fun e => !p (e.1 / 2048) }

/-! ### Snoop-filter entries (R142 to R149) -/

/-- Line state of line `n` in an entry (Table 5.3): 0 I, 1 S, 2 O, 3 IK. -/
def entLs (e : Word) (n : Nat) : Nat := bf e (21 + 2 * n) (20 + 2 * n)
/-- Set the line state of line `n`. -/
def entSetLs (e : Word) (n v : Nat) : Word := setBf e (21 + 2 * n) (20 + 2 * n) v
/-- Position of the LOSS bit of line `n` (Table 5.3). -/
def lossPos (n : Nat) : Nat := if n < 2 then 48 + n else 52 + n
/-- Some line is S or O: the entry holds a host (R144). -/
def entHolds (e : Word) : Bool := (List.range 4).any fun n => entLs e n == 1 || entLs e n == 2
/-- Some LOSS bit is 1. -/
def entLoss (e : Word) : Bool := (List.range 4).any fun n => bt e (lossPos n)
/-- The entry is valid (R144). -/
def entValid (e : Word) : Bool := decide (bf e 27 20 ≠ 0) || entLoss e
/-- All four lines are IK: a kept-empty entry (R144). -/
def entKept (e : Word) : Bool := bf e 27 20 == 255
/-- The entry with a fresh check byte (Table 5.3). -/
def entSeal (e : Word) : Word := setBf e 63 56 (secdedCheck 56 (bf e 55 0))
/-- What an entry is worth at a node: outside conservative tracking a line that reads IK is I, and an entry with no line but I
and no LOSS bit is free (R143, R178). -/
def entLive (cons : Bool) (e : Word) : Word :=
  if cons || (List.range 4).all (fun n => entLs e n != 3) then e
  else
    let f := (List.range 4).foldl (fun f n => if entLs f n = 3 then entSetLs f n 0 else f) e
    if entValid f then entSeal f else 0

/-- The hosts N(e) of a sharer field, as a test (Table 5.5). -/
def namesHost (sel shr : Nat) (h : Nat) : Bool :=
  match sel with
  | 0 => h == shr % 1024
  | 1 => h == shr % 1024 || h == shr / 1024
  | 2 => shr.testBit (h / 64)
  | _ => true
/-- SEL and SHR of an entry. -/
def entSel (e : Word) : Nat := bf e 51 50
/-- SHR of an entry. -/
def entShr (e : Word) : Nat := bf e 47 28
/-- Host `h` is named by the entry (R146). -/
def entNames (e : Word) (h : Nat) : Bool := namesHost (entSel e) (entShr e) h
/-- PTR2 of two different hosts, ascending. -/
def ptr2 (a b : Nat) : Nat × Nat := if a < b then (1, a + b * 1024) else (1, b + a * 1024)
/-- Widen a sharer field that names a host (R147). -/
def widen (sel shr h : Nat) : Nat × Nat :=
  if namesHost sel shr h then (sel, shr)
  else match sel with
    | 0 => ptr2 (shr % 1024) h
    | 1 => (2, 2 ^ (shr % 1024 / 64) ||| 2 ^ (shr / 1024 / 64) ||| 2 ^ (h / 64))
    | 2 => (2, shr ||| 2 ^ (h / 64))
    | _ => (sel, shr)
/-- Remove a host from a PTR1 or PTR2 field (R148): the new field, or none when no host stays named. -/
def removeHost (sel shr h : Nat) : Option (Nat × Nat) :=
  match sel with
  | 0 => if h = shr % 1024 then none else some (0, shr)
  | 1 => if h = shr % 1024 then some (0, shr / 1024) else if h = shr / 1024 then some (0, shr % 1024) else some (1, shr)
  | _ => some (sel, shr)
/-- Set the sharer field of an entry. -/
def entSetShr (e : Word) (f : Nat × Nat) : Word := setBf (setBf e 51 50 f.1) 47 28 f.2

/-! ### Fields of a Sage instruction word (Table 7.7) -/

/-- Opcode [31:26]. -/
def iOp (w : Reg32) : Nat := bf w 31 26
/-- rd, or rsd or rsa [25:21]. -/
def iRd (w : Reg32) : Nat := bf w 25 21
/-- rs1, or rsb [20:16]. -/
def iRs1 (w : Reg32) : Nat := bf w 20 16
/-- rs2 [15:11]. -/
def iRs2 (w : Reg32) : Nat := bf w 15 11
/-- func [10:0]. -/
def iFunc (w : Reg32) : Nat := bf w 10 0
/-- imm16, zero-extended. -/
def iImmZ (w : Reg32) : Word := BitVec.ofNat 64 (bf w 15 0)
/-- imm16, sign-extended. -/
def iImmS (w : Reg32) : Word := (BitVec.ofNat 16 (bf w 15 0)).signExtend 64
/-- off15 of format BB, sign-extended. -/
def iOff15 (w : Reg32) : Word := (BitVec.ofNat 15 (bf w 14 0)).signExtend 64
/-- off21 of format J, sign-extended. -/
def iOff21 (w : Reg32) : Word := (BitVec.ofNat 21 (bf w 20 0)).signExtend 64

end Sys2Proof.Machine
end

