-- ==== Sys2Proof/Machine/RegView.lean ====
section
/-! DEFINITION. Sys2Proof/Machine/RegView.lean: what a register reads as, where its bits are a view of other state
(R11, R501 to R507). -/

namespace Sys2Proof.Machine

/-- Entries of the overflow directory that block memory lists: set × 8 + way, and the entry (R162). -/
def State.ovfEntries (s : State) : List (Nat × Word) :=
  let lo := s.ovfLine 0 * 8
  let gs := (s.bmem.map fun c => c.1 / 8).eraseDups
  (gs.filter fun g => decide (lo ≤ g) && decide (g < lo + 8 * 2 ^ s.ovfM)).map fun g => (g - lo, memGran s.bmem g)

/-- Valid entries of a bank, kept-empty ones included (R143, Table 5.13). -/
def Node.validCount (x : Node) : Nat := (x.bank.filter fun e => entValid (entLive x.cons e.2)).length

/-- HA_EVAC_STAT.HELD (R424): entries with a line S or O. -/
def State.held (s : State) : Nat :=
  (allNodes.map fun n => ((s.nd n).bank.filter fun e => entHolds e.2).length).sum
    + (if s.bit HA_OVF_CTRL 0 then (s.ovfEntries.filter fun e => entHolds e.2).length else 0)

/-- Trackers held, those kept for a GRANT apart (Table 6.5, R380). -/
def Node.trkInUse (x : Node) : Nat := (x.trk.filter fun e => bt e.2.w0 0).length
/-- Trackers held by write-backs. -/
def Node.wbInUse (x : Node) : Nat := (x.trk.filter fun e => bt e.2.w0 0 && bf e.2.w0 4 1 == 1).length

/-- Sessions in a state (Table 14.8). -/
def State.sessIn (s : State) (p : SessSt → Bool) : Nat := (s.sess.filter fun e => p e.2.st).length

/-- Some node is in conservative tracking (Table 5.11). -/
def State.consAny (s : State) : Bool := allNodes.any fun n => decide (n.val < s.nodesN) && (s.nd n).cons

/-- Open legacy sessions (R176). -/
def State.legacyN (s : State) : Nat := (s.sess.filter fun e => e.2.legacy && e.2.st != .closed).length

/-- Occupied slots of an endpoint queue (Table 11.15). -/
def Queue.usedSlots (q : Queue) (d : Nat) : Nat := (q.f + 2 ^ (d + 1) - q.r) % 2 ^ (d + 1)

/-- The endpoint code: nodes 0–31, host ports 32–47, media ports 48–55, BM 56, CFG 57, Chervil 58, system 59. -/
def epCode : Endpoint → Nat
  | .node n => n.val
  | .hp p => 32 + p.val
  | .mp m => 48 + m.val
  | .bm => 56 | .cfg => 57 | .chv => 58 | .sys => 59
/-- The queue-kind code. -/
def qkCode : QKind → Nat
  | .req => 0 | .snp => 1 | .mreq => 2 | .breq => 3 | .rsp => 4 | .data => 5 | .mgt => 6
/-- log2 of a queue's depth (Table 11.5; MGT_IN depths 48 and 192 lie in rings of 64 and 256, log entry 30). -/
def qLog2 (q : QueueId) : Nat :=
  match q.k with
  | .req => 9 | .snp => 8 | .mreq => 8 | .breq => 9 | .rsp => 7 | .data => 7
  | .mgt => if q.ep = .chv then 8 else 6
/-- Slots a producer may fill (Table 11.5). -/
def qDepth (q : QueueId) : Nat :=
  match q.k with
  | .mgt => if q.ep = .chv then 192 else 48
  | _ => 2 ^ qLog2 q
/-- Key of a queue in the state. -/
def qKey (q : QueueId) : Nat := 8 * epCode q.ep + qkCode q.k
/-- A queue of the fabric. -/
def State.que (s : State) (q : QueueId) : Queue := smGet (fun _ => {}) s.queues (qKey q)
/-- Replace a queue. -/
def State.setQue (s : State) (q : QueueId) (x : Queue) : State := { s with queues := smSet (fun _ => {}) s.queues (qKey q) x }
/-- Occupied slots of a queue. -/
def State.qUsed (s : State) (q : QueueId) : Nat := (s.que q).usedSlots (qLog2 q)

/-- A node raises quench (R361, R382, R408). -/
def State.quenches (s : State) (n : NodeId) : Bool := s.bit (ndA n ND_FAB_CTRL) 0 || (s.nd n).tarQuench

/-- Quench holds the requests for a node back: not in FLUSH, which serves those held under quench (R430). -/
def State.quenchHolds (s : State) (n : NodeId) : Bool := s.quenches n && s.mode != .flush

/-- The quench acknowledges of the BM, CFG or system shell. -/
def State.shellAcks (s : State) (i : Nat) : BitVec 32 := smGet (fun _ => 0) s.shellAck i

/-- Every port shell has acknowledged the quench of node `n` (Table 11.15). -/
def State.quenched (s : State) (n : NodeId) : Bool :=
  s.quenches n && allHp.all (fun p => bt (s.hpAt p).quenchAck n.val) && allMp.all (fun m => bt (s.mpAt m).quenchAck n.val)
    && (List.range 3).all fun i => bt (s.shellAcks i) n.val

/-- The home node a shadow home-map slot names (R25, R28). -/
def State.shadowSlot (s : State) (i : Nat) : NodeId :=
  Fin.ofNat 32 (s.fld (HA_HOME_MAP + 4 * (i / 4)) (8 * (i % 4) + 4) (8 * (i % 4)))
/-- Nodes that always read 1 in HA_FAB_SINK_ACT: not enabled, or retired (R364). -/
def State.sinkAlways (s : State) : Nat :=
  (allNodes.map fun n => if s.inService n then 0 else 2 ^ n.val).sum

/-- The epoch change that runs alters the copy that router `r` has of a table: a change of either map affects every router,
one of the sink set those whose bit changes (R365). -/
def State.affects (s : State) (r : Nat) : Bool :=
  (match s.epMaps with
    | some (h, m) => h != s.homeMap || m != s.mpMap
    | none => false)
  || match s.epSink with
    | some v => bt (v ||| BitVec.ofNat 32 s.sinkAlways) r != s.bit HA_FAB_SINK_ACT r
    | none => false

/-- Packets that producer `e` has against its credits at a queue, or has had whose credit is not yet back (R358). -/
def State.creditsUsed (s : State) (q : QueueId) (e : Endpoint) : Nat := smGet (fun _ => 0) (s.que q).used (epCode e)

/-- The consumer of a queue has taken or dropped a packet of producer `e`: its credit goes back in a CREDIT packet (R358, R369). -/
def State.oweCredit (s : State) (q : QueueId) (e : Endpoint) : State :=
  let x := s.que q
  s.setQue q { x with owed := smSet (fun _ => 0) x.owed (epCode e) (smGet (fun _ => 0) x.owed (epCode e) + 1) }

/-- A packet of producer `e` that is spent against a credit is at once taken (R358). -/
def State.spendCredit (s : State) (q : QueueId) (e : Endpoint) : State :=
  let x := s.que q
  s.setQue q { x with used := smSet (fun _ => 0) x.used (epCode e) (s.creditsUsed q e + 1) }

/-- Port `p` has a credit for the request queue of node `n` (R358): its requests on their way hold one each. -/
def State.reqCredit (s : State) (p : HpId) (n : NodeId) : Bool :=
  decide (s.creditsUsed ⟨.node n, .req⟩ (.hp p) + ((s.hpAt p).ledger.filter fun e => match e.2 with
    | some l => l.st == .sent n
    | none => false).length < 2)

/-- Router `r` withholds acknowledge from new packets of its endpoints (R365 step 2). -/
def State.withheld (s : State) (r : Nat) : Bool := s.bit HA_FAB_EPOCH 1 && s.affects r

/-- The router of a core (Table 11.1). -/
def coreRouter : CoreId → Nat
  | .node n => n.val
  | .chervil => 19

/-- The router at which the requester of a block-memory access injects; a request that a reset has orphaned is not sent again. -/
def BmWhy.router : BmWhy → Nat
  | .acc t _ | .sflOvf t | .plk t => coreRouter t.core
  | .apl n .. | .spillRd n _ | .spillWr n _ | .ovfWr n | .shadow n .. => n.val
  | .dma .. | .orphan => 19

/-- The router at which the requester of a media access injects. -/
def MOwner.router : MOwner → Nat
  | .flow n _ => n.val
  | .hostFlush p _ => 2 * p.val
  | .dma .. | .modeFlush => 19

/-- The media port a shadow slot names (R27). -/
def State.shadowMp (s : State) (k : Nat) : MpId := Fin.ofNat 8 (s.fld HA_MP_MAP (4 * k + 2) (4 * k))
/-- The media port an active slot names. -/
def State.activeMp (s : State) (k : Nat) : MpId := smGet (fun i => Fin.ofNat 8 i) s.mpMap k
/-- The shadow home map differs from the active one (HOME_PEND). -/
def State.homePend (s : State) : Bool := (List.range 128).any fun i => s.shadowSlot i != s.slotNode i
/-- The shadow media port map differs from the active one (MP_PEND). -/
def State.mpPend (s : State) : Bool := (List.range 8).any fun k => s.shadowMp k != s.activeMp k

/-- No access of a media port is outstanding (Table 14.9). -/
def MpShell.drained (x : MpShell) : Bool := x.mtags == []

/-- The state code of a quadrant (Table 12.8). -/
def QPwr.code : QPwr → Nat
  | .on => 0 | .retain => 1 | .off => 2 | .test => 3 | .gating => 4 | .ungating => 5
/-- The state code of a channel (Table 10.18). -/
def ChSt.code : ChSt → Nat
  | .idle => 0 | .run => 1 | .preempted => 2 | .halted => 3 | .done => 4
/-- The state code of a session (Table 14.7). -/
def SessSt.code : SessSt → Nat
  | .closed => 0 | .opn => 1 | .closing => 2 | .departing => 3

/-- Threads of a core that are not FREE, and those HALTED, as bit masks (Table 8.13). -/
def Core.busyMask (c : Core) (p : TState → Bool) : Nat :=
  (List.range 8).foldl (fun v t => v + b2n (p (c.thr t).st) * 2 ^ t) 0

/-- HA_SESSh_ST (Table 14.7). -/
def Session.word (x : Session) : BitVec 32 :=
  BitVec.ofNat 32 (x.st.code + x.port.val * 4 + x.ctx.toNat * 2 ^ 6 + b2n x.legacy * 2 ^ 22 + b2n x.revert * 2 ^ 23)

/-- A port status register (Table 2.16): the stored error bits with the view of the shell. -/
def statView (v : BitVec 32) (clkOk rst failed : Bool) (att : Att) (used : Nat) : BitVec 32 :=
  setBf (setBf v 5 0 (b2n clkOk + 2 * b2n rst + 4 * b2n att.on + 8 * att.ver.toNat + 32 * b2n failed)) 23 12 used

/-- A read of block register `a` whose row is `d`. -/
def State.blkView (s : State) (a : Nat) (d : RegDesc) : BitVec 32 :=
  let v := s.raw a
  let k := (a - d.base) / (if d.stride = 0 then 1 else d.stride)
  let b := d.base
  if b = HA_MODE then
    setBf (setBf v 3 0 s.mode.code) 10 8 (b2n (decide (s.map.retired ≠ 0)) + 2 * b2n s.dgGated + 4 * b2n (s.anyErr 3))
  else if b = HA_TOPOLOGY then
    if s.pins.isNone then 0
    else BitVec.ofNat 32 (s.nodesN + (2 ^ s.strapQuads - 1) * 2 ^ 8
      + (allQd.map fun q => if q.val < s.strapQuads ∧ (s.qd q).quadOn then 2 ^ q.val else 0).sum * 2 ^ 12
      + b2n s.homePend * 2 ^ 16 + b2n s.mpPend * 2 ^ 17 + popCount s.map.retired.toNat 32 * 2 ^ 24)
  else if b = HA_HP_STAT then
    let x := s.hpAt (Fin.ofNat 16 k)
    statView v x.clkOk x.partnerRst x.failed x.att x.ledger.length
  else if b = HA_MP_STAT then
    let x := s.mpAt (Fin.ofNat 8 k)
    statView v x.clkOk x.partnerRst x.failed x.att 0
  else if b = HA_SF_CONS then
    BitVec.ofNat 32 (b2n s.consAny + s.legacyN * 4 + (allHp.map fun p => b2n (s.hpAt p).legacy * 2 ^ (13 + p.val)).sum)
  else if b = HA_ERR_SUM then s.errSum
  else if b = HA_XLT_STAT then setBt v 0 s.xltCmd.isSome
  else if b = HA_DMA_CH_STAT ∨ b = HA_DMA_CHX_STAT then
    let c := s.ch (Fin.ofNat 16 (if b = HA_DMA_CH_STAT then k else 12 + k))
    BitVec.ofNat 32 (c.st.code + c.cause.toNat * 8 + b2n c.mirror * 2 ^ 7 + (c.out.length + c.busy.length) * 2 ^ 8 + c.op.toNat * 2 ^ 15)
  else if b = HA_DMA_CH_PROG ∨ b = HA_DMA_CHX_PROG then
    BitVec.ofNat 32 (s.ch (Fin.ofNat 16 (if b = HA_DMA_CH_PROG then k else 12 + k))).prog
  else if b = HA_PWR_VREQ then setBt v 16 (bf v 7 0 != bf v 15 8)
  else if b = HA_PWR_STAT then setBf v 3 0 s.tar.k
  else if b = HA_SESS_ST then (s.ses k).word
  else if b = HA_SESS_LOST then (s.ses k).lost
  else if b = HA_SESS_SUM then
    BitVec.ofNat 32 (s.sessIn (· == .opn) + s.sessIn (fun x => x == .closing || x == .departing) * 2 ^ 11)
  else if b = HA_EVAC_STAT then BitVec.ofNat 32 s.held
  else if b = HA_MP_DET then
    setBf v 15 8 (allMp.map fun m => b2n (s.mpAt m).drained * 2 ^ m.val).sum
  else if b = HA_EV_STAT then setBf v 6 0 s.evq.length
  else if b = HA_PS_STAT then setBt v 0 s.psCmd.isSome
  else if b = HA_MEAS_SLOT then
    let o := a - HA_MEAS_SLOT
    BitVec.ofNat 32 ((smGet (fun _ => (0 : BitVec 384)) s.meas.slots (o / 64)).toNat >>> (32 * (o % 64 / 4)))
  else if b = HA_MEAS_LOG then
    let o := a - HA_MEAS_LOG
    BitVec.ofNat 32 ((s.meas.log.getD (o / 128) 0).toNat >>> (32 * (o % 128 / 4)))
  else if b = HA_MEAS_CTRL then
    setBf (setBt v 7 s.meas.busy.isSome) 5 0 (b2n s.meas.lock + 2 * s.meas.log.length)
  else if b = HA_MEAS_EXT_DIG ∨ b = HA_MEAS_EXT_SRC ∨ b = HA_MEAS_EXT_LEN ∨ b = HA_MEAS_EXT_VER then 0
  else if b = HA_CHV_STAT then
    setBf v 22 0 (s.chv.busyMask (· != .free) + s.chv.busyMask (· == .halted) * 2 ^ 8 + s.chv.events.length % 128 * 2 ^ 16)
  else if b = HA_PMC_LO then
    BitVec.ofNat 32 (smGet (fun _ => ({} : Pmc)) s.pmc (128 + k)).snap.toNat
  else if b = HA_PMC_HI then setBf v 15 0 ((smGet (fun _ => ({} : Pmc)) s.pmc (128 + k)).snap.toNat >>> 32)
  else if b = HA_PMC_STAT then
    BitVec.ofNat 32 (b2n s.pmcBusy + 2 * b2n (s.bit HA_PMC_CTRL 0) + 4 * b2n (s.regs.any fun e =>
      match findReg e.1 with
      | some d => d.acc == .pmc && bt (e.2 &&& d.w1c) 16
      | none => false))
  else if b = HA_DBG_STAT then setBt v 10 s.dbgHeld.isSome
  else v

/-- A read of a node register at offset `o`. -/
def State.ndView (s : State) (n : NodeId) (o : Nat) : BitVec 32 :=
  let v := s.raw (ndA n o)
  let x := s.nd n
  if o = ND_SF_STAT then
    let k := (s.slotsOf n).length
    BitVec.ofNat 32 (x.validCount + b2n x.cons * 2 ^ 18 + groupLog2 k * 2 ^ 19 + k * 2 ^ 22 + b2n x.rebuild * 2 ^ 30)
  else if o = ND_TRK_STAT then BitVec.ofNat 32 (x.trkInUse + x.wbInUse * 2 ^ 11)
  else if o = ND_DSP_STAT then
    BitVec.ofNat 32 (x.core.busyMask (· != .free) + x.core.busyMask (· == .halted) * 2 ^ 8 + x.core.events.length * 2 ^ 16)
  else if o = ND_FAB_STAT then
    setBf v 25 0 (b2n (s.quenched n) + 2 * b2n (s.sunk n) + s.qUsed ⟨.node n, .req⟩ * 4
      + s.qUsed ⟨.node n, .rsp⟩ * 2 ^ 12 + s.qUsed ⟨.node n, .mgt⟩ * 2 ^ 20)
  else if ND_PMC_SEL ≤ o ∧ o % 16 = 4 then
    BitVec.ofNat 32 (smGet (fun _ => ({} : Pmc)) s.pmc (4 * n.val + (o - ND_PMC_SEL) / 16)).snap.toNat
  else if ND_PMC_SEL ≤ o ∧ o % 16 = 8 then
    setBf v 15 0 ((smGet (fun _ => ({} : Pmc)) s.pmc (4 * n.val + (o - ND_PMC_SEL) / 16)).snap.toNat >>> 32)
  else v

/-- A read of a quadrant register at offset `o`. -/
def State.qdView (s : State) (q : QuadId) (o : Nat) : BitVec 32 :=
  let v := s.raw (qdA q o)
  if o = QD_PWR_STAT then
    setBf v 2 0 (if s.pins.isSome ∧ s.strapQuads ≤ q.val then 2 else (s.qd q).pwr.code)
  else if o = QD_SPEED then
    if (s.qd q).pwr = .on ∧ 1024 ≤ s.time.toNat then (Config.issuePs (s.time.toNat / 1024 * 4 + q.val)).setWidth 32 else 0
  else v

/-- What the register at `a` reads as; an address without a register reads zero (R501). -/
def State.readReg (s : State) (a : Nat) : BitVec 32 :=
  match ndOf a with
  | some (n, o) => if (findReg a).isSome then s.ndView n o else 0
  | none =>
    match qdOf a with
    | some (q, o) => if (findReg a).isSome then s.qdView q o else 0
    | none => match findReg a with
      | some d => s.blkView a d
      | none => 0

/-- The level of `cfg_irq` (R446): an enabled class of HA_ERR_SUM, a mailbox reply with IRQ_EN, or a media port that asks to be
detached. -/
def State.cfgIrq (s : State) : Bool :=
  ((List.range 4).any fun c => bt s.errSum c && s.bit HA_ERR_IRQ_EN c) || (s.bit HA_MB_STAT 1 && s.bit HA_MB_CTRL 0)
    || decide (s.fld HA_MP_DET 7 0 ≠ 0)

/-- The level of `cfg_mode` (Table 2.7). -/
def State.cfgMode (s : State) : BitVec 4 := BitVec.ofNat 4 s.mode.code

/-- A window that R14 closes: a node not enabled, retired, or in a quadrant OFF, GATING, UNGATING or TEST (R376, R508);
a quadrant not enabled; or a debug window outside MANUFACTURE and RETURNED (R509). -/
def State.closed (s : State) (a : Nat) : Bool :=
  match ndOf a with
  | some (n, _) =>
    let p := (s.qd (quadOf n)).pwr
    !s.inService n || p == .off || p == .gating || p == .ungating || p == .test
  | none =>
    match qdOf a with
    | some (q, _) => s.pins.isSome && decide (s.strapQuads ≤ q.val)
    | none => decide (0x200000 ≤ a) && decide (a < 0x400000) && !s.lcOpen

end Sys2Proof.Machine
end

