-- ==== Sys2Proof/Machine/Survivor.lean ====
section
/-! DEFINITION. Sys2Proof/Machine/Survivor.lean: the words of the survivor tables that the aperture reaches (Table 18.8): snoop
slots, MTAGs, mirror slots and session entries; and the check of a table word at an ordinary read (R436, Table 15.1). -/

namespace Sys2Proof.Machine

/-- A syndrome of a map. -/
def synAt (m : SMap (BitVec 8)) (g : Nat) : BitVec 8 := smGet (fun _ => (0 : BitVec 8)) m g
/-- Replace it. -/
def synPut (m : SMap (BitVec 8)) (g : Nat) (v : BitVec 8) : SMap (BitVec 8) := smSet (fun _ => (0 : BitVec 8)) m g v

/-- The two granules of a snoop slot in use. -/
def Slot.word (sl : Slot) (hi : Bool) : Word :=
  if hi then BitVec.ofNat 64 sl.ts.toNat
  else
    let o := match sl.sn.own with
      | .flow n t => n.val + t * 2 ^ 8
      | .repair n i => n.val + i * 2 ^ 8
    BitVec.ofNat 64 (o % 2 ^ 24 + sl.sn.host.toNat * 2 ^ 24 + sl.sn.lines.toNat * 2 ^ 40 + sl.epoch.toNat * 2 ^ 48
      + (match sl.st with | .quar _ => 0 | _ => 2 ^ 56))

/-- A snoop slot after a write of one granule; none frees it. A write that sets in use makes an outstanding slot. -/
def Slot.put (old : Option Slot) (hi : Bool) (v : Word) (now limit : Nat) (time : BitVec 48) (i : Nat) : Option Slot :=
  let own : SnpOwner := .flow (Fin.ofNat 32 (bf v 7 0)) (bf v 23 8 % 1024)
  let host := BitVec.ofNat 10 (bf v 39 24)
  let lines := BitVec.ofNat 4 (bf v 43 40)
  let ep := BitVec.ofNat 3 (bf v 55 48)
  match old with
  | some sl =>
    if hi then
      let ts := BitVec.ofNat 48 (bf v 47 0)
      let st : SlotSt := match sl.st with
        | .out u => .out (u + ts.toNat - sl.ts.toNat)
        | o => o
      some { sl with ts := ts, st := st }
    else
      let sn : Snoop := { sl.sn with own := (match sl.sn.own with | .flow .. => own | o => o), host := host, lines := lines }
      match sl.st with
      | .quar _ =>
        if bt v 56 then some { sl with sn := sn, epoch := ep, st := .out (now + limit) } else some { sl with sn := sn, epoch := ep }
      | _ => if bt v 56 then some { sl with sn := sn, epoch := ep } else none
  | none =>
    if hi || !bt v 56 then none
    else some { sn := ⟨0, 0, host, 0, lines, own, false⟩, ctx := 0, caddr := 0, epoch := ep, grp := i, acc := 0, st := .out (now + limit), ts := time }

/-- The word of an outstanding MTAG; `o` supplies the node and tracker of one that no flow owns. -/
def Mtag.word (g : Mtag) (o : Nat) : Word :=
  let w := match g.own with
    | .flow n t => n.val + t * 2 ^ 5
    | _ => o % 2 ^ 15
  let k := match g.kind with
    | .rd => 0
    | .wr => 1
    | .sync => 2
  BitVec.ofNat 64 (w + k * 2 ^ 15 + b2n g.orphan * 2 ^ 18 + 2 ^ 19)

/-- The kind of a code. -/
def mkindOf : Nat → MKind
  | 0 => .rd
  | 1 => .wr
  | _ => .sync

/-- An MTAG after a write of its granule. -/
def Mtag.put (old : Option Mtag) (v : Word) (now : Nat) : Option Mtag :=
  let own : MOwner := .flow (Fin.ofNat 32 (bf v 4 0)) (bf v 14 5)
  if !bt v 19 then none
  else match old with
    | some g =>
      some { g with own := (match g.own with | .flow .. => own | o => o), kind := mkindOf (bf v 17 15), orphan := bt v 18 }
    | none => some { own := own, kind := mkindOf (bf v 17 15), orphan := bt v 18, maddr := 0, handed := true, at_ := now }

/-- The two granules of an active mirror slot. -/
def Mirror.word (r : Mirror) (hi : Bool) : Word :=
  if hi then BitVec.ofNat 64 (r.bound.toNat + 2 ^ 32) else BitVec.ofNat 64 (r.src.toNat + r.dst.toNat * 2 ^ 32)

/-- A mirror slot after a write; `o` supplies what a slot that becomes active held. -/
def Mirror.put (old : Option Mirror) (hi : Bool) (v o : Word) : Option Mirror :=
  let r := old.getD ⟨BitVec.ofNat 20 (bf o 19 0), BitVec.ofNat 20 (bf o 51 32), 0⟩
  if hi then (if bt v 32 then some { r with bound := BitVec.ofNat 21 (bf v 20 0) } else none)
  else match old with
    | some r => some { r with src := BitVec.ofNat 20 (bf v 19 0), dst := BitVec.ofNat 20 (bf v 51 32) }
    | none => none

/-- A session entry after a write of its state word (Table 14.7). -/
def Session.put (x : Session) (v : BitVec 32) : Session :=
  let st : SessSt := match bf v 1 0 with
    | 0 => .closed
    | 1 => .opn
    | 2 => .closing
    | _ => .departing
  { x with st := st, port := Fin.ofNat 16 (bf v 5 2), ctx := BitVec.ofNat 16 (bf v 21 6), legacy := bt v 22, revert := bt v 23 }

/-- The word of granule `g` of survivor table `t` (`State.survFresh` numbers the tables), where its place is in use. The aperture
does not reach the retry lists, so nothing sees the words of theirs. -/
def State.survWord (s : State) (t g : Nat) : Option Word :=
  if t < 16 then (smGet (fun _ => none) (s.hpAt (Fin.ofNat 16 t)).slots (g / 2) : Option Slot).map fun x => x.word (g % 2 == 1)
  else if t < 24 then (smGet (fun _ => none) (s.mpAt (Fin.ofNat 8 (t - 16))).mtags g : Option Mtag).map fun x => x.word 0
  else if t < 32 then (smGet (fun _ => none) (s.mpAt (Fin.ofNat 8 (t - 24))).mirror (g / 2) : Option Mirror).map fun x => x.word (g % 2 == 1)
  else if t = 32 then some (BitVec.ofNat 64 ((s.ses g).word.toNat + (s.ses g).lost.toNat * 2 ^ 32))
  else none

/-- Write it. -/
def State.survSet (s : State) (t g : Nat) (v : Word) : State :=
  if t < 16 then
    let p : HpId := Fin.ofNat 16 t
    let x := s.hpAt p
    let sl := Slot.put (smGet (fun _ => none) x.slots (g / 2)) (g % 2 == 1) v s.tmo (s.fld HA_SNP_TMO 7 0 * 1024) s.time (g / 2)
    s.setHp p { x with slots := smSet (fun _ => none) x.slots (g / 2) sl }
  else if t < 24 then
    let m : MpId := Fin.ofNat 8 (t - 16)
    let x := s.mpAt m
    s.setMp m { x with mtags := smSet (fun _ => none) x.mtags g (Mtag.put (smGet (fun _ => none) x.mtags g) v s.tmo) }
  else if t < 32 then
    let m : MpId := Fin.ofNat 8 (t - 24)
    let x := s.mpAt m
    s.setMp m { x with mirror := smSet (fun _ => none) x.mirror (g / 2) (Mirror.put (smGet (fun _ => none) x.mirror (g / 2)) (g % 2 == 1) v 0) }
  else if t = 32 then
    let x := (s.ses g).put (BitVec.ofNat 32 (bf v 31 0))
    s.setSes g { x with lost := BitVec.ofNat 32 (bf v 63 32) }
  else s

/-- A read of granule `g` of survivor table `t` (Table 15.1): a corrected word is written back; the block loses its state over an
uncorrectable one (SURV_UCE, FATAL). -/
def State.survGran (s : State) (t g : Nat) : State :=
  let k := 2 ^ 20 * t + g
  let syn := synAt s.survSyn k
  if syn = 0 then s
  else
    let e := eccClass 64 syn.toNat
    if e = .uce then s.raise HA_SCRUB_ERR 8
    else
      let s := match s.survWord t g with
        | some v => if eccFix v e = v then s else s.survSet t g (eccFix v e)
        | none => s
      { s with survSyn := synPut s.survSyn k 0 }.raise HA_SCRUB_ERR 7

/-- An ordinary read of granules `g` to `g + n − 1` of survivor table `t`. -/
def State.survRead (s : State) (t g n : Nat) : State :=
  if s.survSyn = [] then s else (List.range n).foldl (fun s i => s.survGran t (g + i)) s

/-- A lookup reads survivor tables by `r`, and goes on by `k` unless that ended in SAFE. -/
def State.survThen (s : State) (r k : State → State) : State :=
  if s.survSyn = [] then k s
  else
    let u := r s
    if u.mode = .safe then u else k u

/-- A lookup reads snoop slot `i` of a port. -/
def State.slotRead (s : State) (p : HpId) (i : Nat) : State := s.survRead p.val (2 * i) 2
/-- A lookup reads an MTAG. -/
def State.tagRead (s : State) (m : MpId) (i : Nat) : State := s.survRead (16 + m.val) i 1
/-- A lookup reads the mirror slots of a port. -/
def State.mirrorRead (s : State) (m : MpId) : State := s.survRead (24 + m.val) 0 32
/-- A lookup reads the session entry of a host. -/
def State.sesRead (s : State) (h : Nat) : State := s.survRead 32 h 1
/-- A shell reads its retry list where it holds entry `i` (log entry 48). -/
def State.heldRead (s : State) (p : HpId) (i : Nat) : State := s.survRead (33 + p.val) i 1

end Sys2Proof.Machine
end

