-- ==== Sys2Proof/Machine/Flow.lean ====
section
/-! DEFINITION. Sys2Proof/Machine/Flow.lean: the fields of a tracker (Table 6.2), the pools (R186), the conflict chains
(R195), the conditions a flow waits for (R261), and the outstanding requests to block memory and to the media. -/

namespace Sys2Proof.Machine

/-! ### Tracker fields (Table 6.2) -/

/-- V of a tracker. -/
def Trk.v (t : Trk) : Bool := bt t.w0 0
/-- KIND (Table 6.1). -/
def Trk.kind (t : Trk) : Nat := bf t.w0 4 1
/-- CLASS. -/
def Trk.cls (t : Trk) : Nat := bf t.w0 7 5
/-- RESUME. -/
def Trk.resume (t : Trk) : Nat := bf t.w0 21 8
/-- PLA. -/
def Trk.pla (t : Trk) : BitVec 40 := BitVec.ofNat 40 (bf t.w0 63 24)
/-- PORT. -/
def Trk.port (t : Trk) : HpId := Fin.ofNat 16 (bf t.w1 3 0)
/-- LEDGER. -/
def Trk.ledger (t : Trk) : Nat := bf t.w1 14 4
/-- LEDGERED. -/
def Trk.ledgered (t : Trk) : Bool := bt t.w1 15
/-- HOST. -/
def Trk.host (t : Trk) : BitVec 10 := BitVec.ofNat 10 (bf t.w1 25 16)
/-- TAG. -/
def Trk.tag (t : Trk) : BitVec 16 := BitVec.ofNat 16 (bf t.w1 41 26)
/-- CTX. -/
def Trk.ctx (t : Trk) : BitVec 16 := BitVec.ofNat 16 (bf t.w1 57 42)
/-- OPC. -/
def Trk.opc (t : Trk) : Nat := bf t.w1 62 58
/-- HOLD4. -/
def Trk.hold4 (t : Trk) : Bool := bt t.w2 22
/-- LBUF. -/
def Trk.lbuf (t : Trk) : Nat := bf t.w2 31 23
/-- LBUF_V. -/
def Trk.lbufV (t : Trk) : Bool := bt t.w2 32
/-- The WAIT mask. -/
def Trk.wait (t : Trk) : Nat := bf t.w2 39 33
/-- SNP_OUT. -/
def Trk.snpOut (t : Trk) : Nat := bf t.w3 10 0
/-- WB_SEEN. -/
def Trk.wbSeen (t : Trk) : Bool := bt t.w3 14
/-- WR_OUT. -/
def Trk.wrOut (t : Trk) : Bool := bt t.w4 27
/-- RD_OUT. -/
def Trk.rdOut (t : Trk) : Bool := bt t.w4 28
/-- The request is a MEM_WR or MEM_WR_PTL (R241). -/
def Trk.isWr (t : Trk) : Bool := t.opc == 0x18 || t.opc == 0x19
/-- The DHINT 01 hint of the ledger entry a tracker answers. -/
def State.dhint (s : State) (t : Trk) : Bool :=
  match (s.hpAt t.port).led t.ledger with
  | some e => bf e.hdr 93 92 == 1
  | none => false

/-- The session that lines lost by a flow count for: the host on whose behalf an answer was made, else the host of the
flow (R153, R421, R422). -/
def Trk.lostHost (r : Trk) : Nat := match r.departed with
  | h :: _ => h.toNat
  | [] => r.host.toNat

/-- Set a field of word 2. -/
def Trk.setW2 (t : Trk) (hi lo v : Nat) : Trk := { t with w2 := setBf t.w2 hi lo v }
/-- Set a field of word 3. -/
def Trk.setW3 (t : Trk) (hi lo v : Nat) : Trk := { t with w3 := setBf t.w3 hi lo v }
/-- Set a field of word 4. -/
def Trk.setW4 (t : Trk) (hi lo v : Nat) : Trk := { t with w4 := setBf t.w4 hi lo v }

/-! ### The check of a tracker's words (R188) -/

/-- A corrected single-bit error or an uncorrectable one in the words `ws` of tracker `k` (R188): the state with the
corrections, and whether a word is uncorrectable. -/
def State.trkCheck (s : State) (n : NodeId) (k : Nat) (ws : List Nat) : Bool × State :=
  ws.foldl (fun a i =>
    let s := a.2
    let r := (s.nd n).trkAt k
    let e := eccClass 64 (smGet (fun _ => (0 : BitVec 8)) r.syn i).toNat
    if e = .uce then
      (true, ((s.modTrk n k fun r => { r with wedged := true }).captureV (ndA n ND_TRK_ERR_CAP) 13
        (k + i * 2 ^ 10)).raise (ndA n ND_TRK_ERR) 1)
    else if eccCe e then
      let fix (r : Trk) : Trk :=
        let r := { r with syn := smSet (fun _ => (0 : BitVec 8)) r.syn i 0 }
        match i with
        | 0 => { r with w0 := eccFix r.w0 e }
        | 1 => { r with w1 := eccFix r.w1 e }
        | 2 => { r with w2 := eccFix r.w2 e }
        | 3 => { r with w3 := eccFix r.w3 e }
        | 4 => { r with w4 := eccFix r.w4 e }
        | 5 => { r with w5 := eccFix r.w5 e }
        | 6 => { r with w6 := eccFix r.w6 e }
        | _ => { r with w7 := eccFix r.w7 e }
      (a.1, (s.modTrk n k fix).raise (ndA n ND_TRK_ERR) 0)
    else a) (false, s)

/-- Hardware updates a field of word `i` of a tracker: the word is checked first, and an uncorrectable one stays as it is
(R188, R437). -/
def State.updTrk (s : State) (n : NodeId) (k i : Nat) (f : Trk → Trk) : State :=
  let r := s.trkCheck n k [i]
  if r.1 then r.2 else r.2.modTrk n k f

/-! ### Pools (R186) -/

/-- Size of a pool of node `n` under ND_TRK_CTRL. -/
def State.poolSize (s : State) (n : NodeId) : Pool → Nat
  | .wb => s.fld (ndA n ND_TRK_CTRL) 7 0
  | .int => s.fld (ndA n ND_TRK_CTRL) 15 8
  | .gen => 1024 - s.fld (ndA n ND_TRK_CTRL) 7 0 - s.fld (ndA n ND_TRK_CTRL) 15 8

/-- Trackers of a pool that are held or kept for a GRANT. -/
def Node.poolUsed (x : Node) (p : Pool) : Nat :=
  (x.trk.filter fun e => e.2.v && e.2.pool == p).length
    + (x.kept.filter fun e => (x.trkAt e.1).pool == p).length

/-- The lowest tracker index that is neither held nor kept (DESIGN CHOICE, log entry 5). -/
def Node.freeIdx (x : Node) : Option Nat :=
  firstFrom (fun i => !(x.trkAt i).v && !x.kept.any (fun e => e.1 == i)) 1024 0

/-- A pool with a free tracker, tried in order. -/
def State.freePool (s : State) (n : NodeId) (ps : List Pool) : Option Pool :=
  ps.find? fun p => decide ((s.nd n).poolUsed p < s.poolSize n p)

/-- The pools a flow of KIND `k` takes from, in order (R186). -/
def poolsOf (k : Nat) : List Pool :=
  if k = 0 then [.gen] else if k = 1 then [.wb, .gen] else [.int, .gen]

/-- Take a tracker for a flow of KIND `k` (R186): its index, with the record given, V, KIND and START set. -/
def State.takeTrk (s : State) (n : NodeId) (k : Nat) (r0 : Trk) : Option (Nat × State) :=
  match s.freePool n (poolsOf k), (s.nd n).freeIdx with
  | some p, some i =>
    let r := { r0 with w0 := setBf (setBf r0.w0 0 0 1) 4 1 k, w5 := BitVec.ofNat 64 s.time.toNat, pool := p }
    some (i, (s.modNd n fun x => x.setTrk i r).cntN n (if k = 0 then 0x004 else if k = 1 then 0x005 else 0x006) 1)
  | _, _ => none

/-! ### Conflict chains (R195, R196) -/

/-- The chain of a line: the active flow first. -/
def Node.chain (x : Node) (l : Nat) : List Nat := smGet (fun _ => []) x.chains l
/-- Replace the chain of a line. -/
def Node.setChain (x : Node) (l : Nat) (c : List Nat) : Node := { x with chains := smSet (fun _ => []) x.chains l c }
/-- The lines on which a tracker stands in a chain. -/
def Node.linesOf (x : Node) (t : Nat) : List Nat := (x.chains.filter fun e => e.2.contains t).map (·.1)
/-- HEAD on every line the flow has joined (Table 8.4 bit 6). -/
def Node.headAll (x : Node) (t : Nat) : Bool := (x.linesOf t).all fun l => (x.chain l).head? == some t
/-- The active flow of a line. -/
def Node.active (x : Node) (l : Nat) : Option Nat := (x.chain l).head?
/-- Join the tail of a line's chain. -/
def Node.join (x : Node) (l t : Nat) : Node := if (x.chain l).contains t then x else x.setChain l (x.chain l ++ [t])
/-- Leave a line's chain. -/
def Node.leave (x : Node) (l t : Nat) : Node := x.setChain l ((x.chain l).filter (· != t))

/-- NEXT, NEXT_V, TAIL and HEAD as a view of the chain of the tracker's first line (Table 6.2). -/
def Node.w2View (x : Node) (t : Nat) : Word :=
  let r := x.trkAt t
  match x.linesOf t with
  | [] => r.w2
  | l :: _ =>
    let c := x.chain l
    let k := c.idxOf t
    let v := match (c.drop (k + 1)).head? with
      | some m => setBf (setBf r.w2 9 0 m) 10 10 1
      | none => r.w2
    if k = 0 then setBf (setBf v 20 11 (c.getLastD t)) 21 21 (b2n (x.headAll t)) else v

/-- Word `k` of a tracker. -/
def Node.trkWord (x : Node) (t k : Nat) : Word :=
  let r := x.trkAt t
  match k with
  | 0 => r.w0
  | 1 => r.w1
  | 2 => x.w2View t
  | 3 => r.w3
  | 4 => r.w4
  | 5 => r.w5
  | 6 => r.w6
  | _ => r.w7

/-! ### Waiting (R261) -/

/-- Whether some thread of the node still holds a store or SEND.MGT of flow `t` (Table 8.4 bit 3). -/
def Node.sbBusy (x : Node) (t : Nat) : Bool :=
  x.core.threads.any fun e => e.2.sb.any fun b => b.trk == some t && b.kind != .mwr

/-- The WAIT conditions of tracker `t` that are pending (Table 8.4). -/
def Node.pendMask (x : Node) (t : Nat) : Nat :=
  let r := x.trkAt t
  b2n (r.snpOut == 0) + 2 * b2n (!r.rdOut) + 4 * b2n (!r.wrOut) + 8 * b2n (!x.sbBusy t) + 16 * b2n r.lbGot
    + 32 * b2n (x.resv.any fun e => e.2.1 == t) + 64 * b2n (x.headAll t)

/-- Raise the wake event of a flow whose awaited condition is pending (R261); a wedged flow stays (R188). -/
def State.wake (s : State) (n : NodeId) (t : Nat) : State :=
  let x := s.nd n
  let r := x.trkAt t
  if r.v && r.waiting && !r.wedged && r.wait &&& x.pendMask t != 0 then
    let e : Evt := { evt := if r.kind ≤ 1 then 0x40 else 0x41, cls := BitVec.ofNat 3 r.cls, trk := some t, datum := 0 }
    let x := x.setTrk t { r with waiting := false }
    s.setNd n { x with core := { x.core with events := x.core.events ++ [e] } }
  else s

/-- Wake every waiting flow of a node with a pending condition. -/
def State.wakeAll (s : State) (n : NodeId) : State := ((s.nd n).trk.map (·.1)).foldl (fun s t => s.wake n t) s

/-- Raise an event at a node (Table 8.1). -/
def State.raiseEvt (s : State) (n : NodeId) (evt cls : Nat) (trk : Option Nat) (datum : Word) : State :=
  s.modNd n fun x => { x with core := { x.core with events := x.core.events ++
    [{ evt := BitVec.ofNat 8 evt, cls := BitVec.ofNat 3 cls, trk := trk, datum := datum }] } }

/-! ### Line-buffer entries (R18, R237) -/

/-- The lowest free entry of the 512 (DESIGN CHOICE, log entry 5). -/
def Node.freeLb (x : Node) : Option Nat := firstFrom (fun i => (x.lbAt i).own.isNone) 512 0

/-- Allocate entry `i` to tracker `t` as LBA does: zeros, and the tracker's LBUF when it has none (Table 7.11). -/
def Node.giveLb (x : Node) (t i : Nat) : Node :=
  let r := x.trkAt t
  let x := x.setLb i { own := some t }
  if r.lbufV then x else x.setTrk t ((r.setW2 31 23 i).setW2 32 32 1)

/-! ### Block-memory requests (R50, R93) -/

/-- Whether a line offset lies in the block's region (R50). -/
def State.bmIn (s : State) (line : Nat) : Bool := decide (line * 64 < s.bmBytes)

/-- The place in the order of acceptance of the next request. -/
def State.bmSeq (s : State) : Nat := s.bm.foldl (fun k o => match o.2 with | some r => max k (r.seq + 1) | none => k) 0

/-- A later write has written bytes of a line: the writes of the line accepted before it no longer write them (R94). -/
def State.bmCover (s : State) (line seq : Nat) (be : BitVec 64) : State :=
  { s with bm := s.bm.map fun o => match o.2 with
      | some r => if r.wr ∧ r.line = line ∧ r.seq < seq then (o.1, some { r with later := r.later ||| be }) else o
      | none => o }

/-- Place a block-memory request under the lowest free tag; none when all 1,024 are outstanding (R50), or while the requester's router
withholds (R365). -/
def State.bmIssue (s : State) (why : BmWhy) (wr : Bool) (line : Nat) (be : BitVec 64) (data : Line) : Option (Nat × State) :=
  match if s.withheld why.router then none else firstFrom (fun i => (smGet (fun _ => none) s.bm i : Option BmReq).isNone) 1024 0 with
  | none => none
  | some i =>
    let r : BmReq := { why := why, wr := wr, line := line, be := be, data := data, at_ := s.tmo, seq := s.bmSeq }
    some (i, { s with bm := smSet (fun _ => none) s.bm i (some r) }.cntB 0x109 1)

/-- The errors of an access that did not end well (R50, R94, Table 2.3). -/
def State.bmErrs (s : State) : BmErr → State
  | .ok => s
  | .corrected =>
    let n := s.fld HA_BM_CECNT 15 0
    s.setFld HA_BM_CECNT 15 0 (if n = 65535 then n else n + 1)
  | .uncorrectable => s
  | .address => s.raise HA_INPUT_ERR 12
  | .timeout => s.raise HA_INPUT_ERR 11

/-- An access ended with usable data (R94). -/
def bmGood : BmErr → Bool
  | .ok | .corrected => true
  | _ => false

/-- The outcome that a free number stands for. -/
def bmErrAt (k : Nat) : BmErr :=
  match k % 5 with
  | 0 => .ok
  | 1 => .corrected
  | 2 => .uncorrectable
  | 3 => .address
  | _ => .timeout

/-- How a block-memory read that no command answers ends: a free choice (R94, R442, log entry 115). -/
def State.bmFree (s : State) : BmErr × State := (bmErrAt (Config.freeBmErr s.free 0), { s with free := s.free + 1 })

/-- A line of block memory that the hardware reads in the course of another command: none where the read fails (R50, R94, log
entry 115). -/
def State.bmLook (s : State) (line : Nat) : Option Line × State :=
  if !s.bmIn line then (none, s.bmErrs .address)
  else
    let r := s.bmFree
    (if bmGood r.1 then some (memLine s.bmem line) else none, r.2.bmErrs r.1)

/-- Bytes that a failed read gives: open values. -/
def State.freeBytes (s : State) (n : Nat) : List Byte :=
  (List.range n).map fun i => BitVec.setWidth 8 (Config.freeValue (s.free + i))

/-- The request under a tag keeps what its bytes held before (R94). -/
def State.bmKeep (s : State) (tag : Nat) (old : Line) : State :=
  match (smGet (fun _ => none) s.bm tag : Option BmReq) with
  | some r => { s with bm := smSet (fun _ => none) s.bm tag (some { r with old := old }) }
  | none => s

/-- The request under a tag, marked as a moved-bit read for an entry that was read for it (R324). -/
def State.bmFresh (s : State) (tag : Nat) (fresh : Bool) : State :=
  match (smGet (fun _ => none) s.bm tag : Option BmReq) with
  | some r => { s with bm := smSet (fun _ => none) s.bm tag (some { r with fresh := fresh }) }
  | none => s

/-! ### Media requests (R90, R203) -/

/-- MTAG `i` of a media port. -/
def MpShell.mtag (x : MpShell) (i : Nat) : Option Mtag := smGet (fun _ => none) x.mtags i
/-- Replace MTAG `i`. -/
def MpShell.setTag (x : MpShell) (i : Nat) (t : Option Mtag) : MpShell :=
  { x with mtags := smSet (fun _ => none) x.mtags i t }
/-- The lowest free MTAG of the 4,096 (R90; DESIGN CHOICE, log entry 5). -/
def MpShell.freeTag (x : MpShell) : Option Nat := firstFrom (fun i => (x.mtag i).isNone) 4096 0

/-- Place a media request in a port's queue under a fresh MTAG; none when all 4,096 are outstanding, or while the requester's router
withholds (R365). -/
def State.mpIssue (s : State) (m : MpId) (t : Mtag) : Option (Nat × State) :=
  match if s.withheld t.own.router then none else (s.mpAt m).freeTag with
  | none => none
  | some i =>
    let x := s.mpAt m
    let since := if x.reqQ = [] then some s.tmo else x.outSince
    some (i, (s.survFresh (16 + m.val) i 1).setMp m ((MpShell.setTag { x with reqQ := x.reqQ ++ [i], outSince := since }) i (some { t with at_ := s.tmo, lim := s.accLimit })))

/-- The mirror slot of port `m` that a write to `a` falls under, as the source address of its second write (R335). -/
def State.mirrorOf (s : State) (m : MpId) (a : BitVec 46) : Option (BitVec 46) :=
  (s.mpAt m).mirror.findSome? fun e => match e.2 with
    | some r => if r.dst.toNat = bf a 45 26 ∧ r.bound.toNat ≤ bf a 25 6 then
        some (BitVec.ofNat 46 (r.src.toNat * 2 ^ 26 + bf a 25 0)) else none
    | none => none

/-- A write-back is classified and its hand-off not yet reported of line `pla`, or of another line on which the active flow of
`pla` is active too: that flow sends no data (R191). One that was answered RETRY waits in its shell's write-back list (R192). -/
def State.wbPending (s : State) (n : NodeId) (pla : BitVec 40) : Bool :=
  let x := s.nd n
  let mine (q : BitVec 40) : Bool := q == pla || ((x.active q.toNat).isSome && x.active q.toNat == x.active pla.toNat)
  x.trk.any (fun e => e.2.v && e.2.kind == 1 && mine e.2.pla && !e.2.wbOff)
    || allHp.any fun p => (s.hpAt p).ledger.any fun o => match o.2 with
      | some l => l.st == .retried n true && mine l.pla
      | none => false

/-! ### DEVLOAD (R125, R126) -/

/-- Trackers that flows of class `c` hold at a node. -/
def Node.classUse (x : Node) (c : Nat) : Nat := (x.trk.filter fun e => e.2.v && e.2.cls == c).length

/-- DEVLOAD of a response that node `n` sends for class `c` to port `p` (R125, R126). -/
def State.devload (s : State) (n : NodeId) (p : HpId) (c : Nat) : Nat :=
  if bt (s.hpAt p).att.caps 7 then
    let a := HA_DEVLOAD_T + 4 * c
    let t0 := s.fld a 9 0
    let t1 := max t0 (s.fld a 19 10)
    let t2 := max t1 (s.fld a 29 20)
    let u := (s.nd n).classUse c
    if u ≤ t0 then 0 else if u ≤ t1 then 1 else if u ≤ t2 then 2 else 3
  else 0

end Sys2Proof.Machine
end

