-- ==== Sys2Proof/Machine/Xlate.lean ====
section
/-! DEFINITION. Sys2Proof/Machine/Xlate.lean: the 32-way translation macro (R315 to R320), the quadrant extent cache, the
walk of the context tables (R304 to R311), the naming of a line in a host's context (R313), and the placement table
(R322 to R324). -/

namespace Sys2Proof.Machine

/-! ### The macro (R316 to R320) -/

/-- Instance type: 0 extent TLB, 1 DMA TLB, 2 placement cache (Table 10.4). -/
def instType (i : Nat) : Nat := if i < 16 then 0 else if i < 24 then 1 else 2
/-- Ways that fills of class `p` may take (HA_XLT_PMASKt_p). -/
def State.pmask (s : State) (i p : Nat) : BitVec 32 := s.raw (HA_XLT_PMASK + 4 * (4 * instType i + p))
/-- Disabled ways of an instance (HA_XLT_OFFi). -/
def State.xOff (s : State) (i : Nat) : BitVec 32 := s.raw (HA_XLT_OFF + 4 * i)
/-- The entry of a way. -/
def Macro.ent (m : Macro) (w : Nat) : Option MacEnt := smGet (fun _ => none) m.ents w
/-- The lock of a way. -/
def Macro.lockOf (m : Macro) (w : Nat) : Option (BitVec 2) := smGet (fun _ => none) m.lock w
/-- Replace the entry of a way. -/
def Macro.setEnt (m : Macro) (w : Nat) (e : Option MacEnt) : Macro := { m with ents := smSet (fun _ => none) m.ents w e }
/-- Tree node of depth `d` on the path to way `w`. -/
def pathNode (w d : Nat) : Nat := 2 ^ d + w / 2 ^ (5 - d)
/-- Point each tree node on the path to `w` at the half that does not hold `w` (R316). -/
def Macro.touch (m : Macro) (w : Nat) : Macro :=
  { m with tree := (List.range 5).foldl (fun t d => setBt t (pathNode w d - 1) (!w.testBit (4 - d))) m.tree }
/-- Follow the tree from node `v` at depth `5 - k` to a way among the candidates (R316). -/
def Macro.descend (m : Macro) (cand : List Nat) : Nat → Nat → Nat
  | 0, v => v - 32
  | k + 1, v =>
    let b := bt m.tree (v - 1)
    let side := 2 * v + b2n b
    let side := if cand.any (fun w => pathNode w (5 - k) == side) then side else 2 * v + b2n (!b)
    m.descend cand k side
/-- The way a fill of class `p` takes (R316); none when it does not fill. -/
def Macro.pick (m : Macro) (mask : BitVec 32) (p : BitVec 2) : Option Nat :=
  let elig := (List.range 32).filter fun w => bt mask w
  match elig.find? fun w => (m.ent w).isNone && m.lockOf w == some p with
  | some w => some w
  | none =>
    match elig.find? fun w => (m.ent w).isNone && (m.lockOf w).isNone with
    | some w => some w
    | none =>
      let cand := elig.filter fun w => (m.lockOf w).isNone
      if cand = [] then none else some (m.descend cand 5 1)
/-- Put an entry into way `w`; a key is held once, so another way with that key is emptied (log entry 116). -/
def Macro.put (m : Macro) (w : Nat) (e : MacEnt) : Macro :=
  let m := (List.range 32).foldl (fun m v => match m.ent v with
    | some o => if o.k1 == e.k1 && o.k2 == e.k2 then m.setEnt v none else m
    | none => m) m
  (m.setEnt w (some e)).touch w
/-- Fill instance `i` with class `p`. -/
def State.fill (s : State) (i : Nat) (p : BitVec 2) (e : MacEnt) : State :=
  let m := s.mac i
  match m.pick (s.pmask i p.toNat &&& ~~~ s.xOff i) p with
  | none => s
  | some w => s.setMac i (m.put w e)
/-- The way of instance `i` whose entry matches, disabled ways apart (R317). -/
def State.hitWay (s : State) (i : Nat) (p : MacEnt → Bool) : Option (Nat × MacEnt) :=
  (List.range 32).findSome? fun w => match (s.mac i).ent w with
    | some e => if p e && !bt (s.xOff i) w then some (w, e) else none
    | none => none

/-- A lookup found a parity error in way `w` (R320): the entry is emptied and the way's error counted; the third error disables
the way, which loses its lock. -/
def State.wayError (s : State) (i w : Nat) : State :=
  let m := s.mac i
  let n := smGet (fun _ => 0) m.errs w + 1
  let m : Macro := { m.setEnt w none with errs := smSet (fun _ => 0) m.errs w n }
  let s := (s.setMac i m).raise HA_XLT_ERR 4
  if n < 3 then s
  else
    let s := s.setMac i { m with lock := smSet (fun _ => none) m.lock w none }
    ((s.setFld (HA_XLT_OFF + 4 * i) w w 1).raiseK HA_XLT_ERR 5 true).record 0x04 2 (i + w * 2 ^ 8)
/-- A lookup in instance `i` (R316, R317, R320): a hit moves the tree; a parity error in the entry that would hit is a miss. -/
def State.macLook (s : State) (i : Nat) (p : MacEnt → Bool) : Option MacEnt × State :=
  match s.hitWay i p with
  | none => (none, s)
  | some (w, e) => if e.parBad then (none, s.wayError i w) else (some e, s.setMac i ((s.mac i).touch w))

/-! ### Translations -/

/-- A translation as the data of an entry: pool extent, class, departure policy, partition class. -/
def Xlat.pack (x : Xlat) : Word :=
  BitVec.ofNat 64 (x.pext.toNat + x.cls.toNat * 2 ^ 20 + b2n x.depart * 2 ^ 23 + x.pclass.toNat * 2 ^ 24)
/-- The translation in an entry's data. -/
def unpackX (w : Word) : Xlat :=
  { pext := BitVec.ofNat 20 (bf w 19 0), cls := BitVec.ofNat 3 (bf w 22 20), depart := bt w 23, pclass := BitVec.ofNat 2 (bf w 25 24) }
/-- Context extent index of a CADDR. -/
def cidxOf (caddr : BitVec 42) : BitVec 16 := BitVec.ofNat 16 (bf caddr 41 26)
/-- The PLA a translation gives a CADDR (R308). -/
def Xlat.pla (x : Xlat) (caddr : BitVec 42) : BitVec 40 := BitVec.ofNat 40 (x.pext.toNat * 2 ^ 20 + bf caddr 25 6)

/-- Quadrants whose QUAD_ON bit is 1 (Table 1.5). -/
def State.quadsOn (s : State) : List QuadId := allQd.filter fun q => decide (q.val < s.strapQuads) && (s.qd q).quadOn
/-- The quadrant whose extent cache serves a context extent (R308 step 2). -/
def State.qecQuad (s : State) (ctx cidx : BitVec 16) : Option QuadId :=
  match s.quadsOn with
  | [] => none
  | l => l[(bf ctx 1 0 ^^^ bf cidx 1 0) % l.length]?
/-- The set of a quadrant extent cache. -/
def qecSet (ctx cidx : BitVec 16) : Nat := (ctx ^^^ cidx).toNat % 512
/-- Way `w` of set `k` of a quadrant extent cache. -/
def Quad.qecAt (q : Quad) (k w : Nat) : Option QecEnt := smGet (fun _ => none) q.qec (8 * k + w)
/-- Replace a way of a quadrant extent cache. -/
def Quad.setQec (q : Quad) (k w : Nat) (e : Option QecEnt) : Quad := { q with qec := smSet (fun _ => none) q.qec (8 * k + w) e }
/-- Mark way `w` of set `k` the most recently used. -/
def Quad.use (q : Quad) (k w : Nat) : Quad :=
  let l := smGet (fun _ => List.range 8) q.lru k
  { q with lru := smSet (fun _ => List.range 8) q.lru k (l.filter (· != w) ++ [w]) }
/-- Look a context extent up in quadrant `q`; an entry with bad parity is emptied and the lookup is a miss (Table 15.1). -/
def State.qecLook (s : State) (q : QuadId) (ctx cidx : BitVec 16) : Option Xlat × State :=
  if bt s.map.qecBypass q.val then (none, s)
  else
    let k := qecSet ctx cidx
    match (List.range 8).find? fun w => match (s.qd q).qecAt k w with
      | some e => e.ctx == ctx && e.cidx == cidx
      | none => false with
    | none => (none, s)
    | some w =>
      match (s.qd q).qecAt k w with
      | none => (none, s)
      | some e =>
        if e.parBad then (none, (s.setQd q ((s.qd q).setQec k w none)).raise HA_SCRUB_ERR 9)
        else (some e.x, s.setQd q ((s.qd q).use k w))
/-- Fill a quadrant extent cache: an empty way first, else the least recently used. -/
def State.qecFill (s : State) (q : QuadId) (ctx cidx : BitVec 16) (x : Xlat) : State :=
  if bt s.map.qecBypass q.val then s
  else
    let k := qecSet ctx cidx
    let u := smGet (fun _ => List.range 8) (s.qd q).lru k
    let w := ((List.range 8).find? fun w => ((s.qd q).qecAt k w).isNone).getD (u.headD 0)
    s.setQd q (((s.qd q).setQec k w (some { ctx := ctx, cidx := cidx, x := x })).use k w)

/-- Steps 1 and 2 of R308 for host port `p`, with the fill of the extent TLB. -/
def State.xlateLook (s : State) (p : HpId) (ctx cidx : BitVec 16) : Option Xlat × State :=
  match s.macLook p.val (fun e => e.k1 == ctx && e.k2 == cidx.setWidth 20) with
  | (some e, s) => (some (unpackX e.data), s)
  | (none, s) =>
    let s := s.cntB 0x105 1
    match s.qecQuad ctx cidx with
    | none => (none, s)
    | some q =>
      match s.qecLook q ctx cidx with
      | (some x, s) => (some x, s.fill p.val x.pclass { k1 := ctx, k2 := cidx.setWidth 20, data := x.pack })
      | (none, s) => (none, s.cntB 0x106 1)
/-- Fill both caches after a walk (R308 step 3). -/
def State.xlateFill (s : State) (p : HpId) (ctx cidx : BitVec 16) (x : Xlat) : State :=
  let s := s.fill p.val x.pclass { k1 := ctx, k2 := cidx.setWidth 20, data := x.pack }
  match s.qecQuad ctx cidx with
  | some q => s.qecFill q ctx cidx x
  | none => s

/-! ### The walk (R304 to R306, R310, R311) -/

/-- Word `k` of the context entry of `c` (R304). -/
def State.ctxWord (s : State) (c : BitVec 16) (k : Nat) : Word :=
  memGran s.bmem (s.fld HA_CTX_BASE 13 0 * 2 ^ 18 + c.toNat * 4 + k)
/-- The context entry lies in the block-memory region (R50). -/
def State.ctxIn (s : State) (c : BitVec 16) : Bool := s.bmIn (s.fld HA_CTX_BASE 13 0 * 2 ^ 15 + c.toNat / 2)

/-- A run record (Table 10.2). -/
structure Run where
  cidx : Nat
  count : Nat
  pext : Nat
  deriving DecidableEq, Repr

/-- Run record `j` of the table at line `base`. -/
def State.runAt (s : State) (base j : Nat) : Run :=
  let v := memGran s.bmem (8 * base + j)
  { cidx := bf v 15 0, count := bf v 32 16, pext := bf v 52 33 }
/-- The first condition of R306 on a record. -/
def Run.ok (r : Run) : Bool := decide (1 ≤ r.count) && decide (r.cidx + r.count ≤ 65536) && decide (r.pext + r.count ≤ 1048576)

/-- How a walk ends (R311). -/
inductive Walk where
  | ok (x : Xlat)
  | fault
  | table
  | bm (e : BmErr)
  deriving DecidableEq, Repr

/-- Two numbered records that follow each other break the second condition of R306. -/
def runClash (a b : Nat × Run) : Bool := a.1 + 1 == b.1 && decide (b.2.cidx < a.2.cidx + a.2.count)

/-- Binary search over the lines `lo` to `hi` − 1 of a run table, eight records each, with the checks of R306 on the records
read here and on those read before. -/
def State.runSearch (s : State) (base n cidx : Nat) : Nat → Nat → Nat → List (Nat × Run) → Except Walk Run
  | 0, _, _, _ => .error .fault
  | k + 1, lo, hi, seen =>
    if hi ≤ lo then .error .fault
    else
      let m := (lo + hi) / 2
      if !s.bmIn (base + m) then .error (.bm .address)
      else
        let new := ((List.range 8).filter fun j => decide (8 * m + j < n)).map fun j => (8 * m + j, s.runAt base (8 * m + j))
        let read := seen ++ new
        let rs := new.map (·.2)
        if !rs.all Run.ok || read.any (fun a => new.any fun b => runClash a b || runClash b a) then .error .table
        else match rs.find? fun r => decide (r.cidx ≤ cidx) && decide (cidx < r.cidx + r.count) with
          | some r => .ok r
          | none =>
            if rs.any fun r => decide (cidx < r.cidx) then
              (if rs.any fun r => decide (r.cidx ≤ cidx) then .error .fault else s.runSearch base n cidx k lo m read)
            else s.runSearch base n cidx k (m + 1) hi read

/-- The walk of R308 step 3 for (ctx, cidx); `err` is how its block-memory reads ended. -/
def State.walk (s : State) (ctx cidx : BitVec 16) (err : BmErr) : Walk :=
  if !bmGood err then .bm err
  else if !s.ctxIn ctx then .bm .address
  else
    let w0 := s.ctxWord ctx 0
    let n := bf w0 24 8
    if !bt w0 0 then .fault
    else if n = 0 ∨ 65536 < n then .table
    else match s.runSearch (bf (s.ctxWord ctx 1) 28 0) n cidx.toNat 18 0 ((n + 7) / 8) [] with
      | .ok r => .ok { pext := BitVec.ofNat 20 (r.pext + (cidx.toNat - r.cidx)), cls := BitVec.ofNat 3 (bf w0 3 1),
                       depart := bt w0 4, pclass := BitVec.ofNat 2 (bf w0 6 5) }
      | .error e => e

/-- Lines of a run table that the search reads. -/
def State.runLines (s : State) (base n cidx : Nat) : Nat → Nat → Nat → Nat
  | 0, _, _ => 0
  | k + 1, lo, hi =>
    if hi ≤ lo then 0
    else
      let m := (lo + hi) / 2
      if !s.bmIn (base + m) then 0
      else
        let rs := ((List.range 8).filter fun j => decide (8 * m + j < n)).map fun j => s.runAt base (8 * m + j)
        if rs.all fun r => decide (cidx < r.cidx) then 1 + s.runLines base n cidx k lo m
        else if rs.all fun r => decide (r.cidx + r.count ≤ cidx) then 1 + s.runLines base n cidx k (m + 1) hi
        else 1

/-- Lines that a walk reads: the context entry and the lines of the search (R310). -/
def State.walkLines (s : State) (ctx cidx : BitVec 16) : Nat :=
  if !s.ctxIn ctx then 0
  else
    let w0 := s.ctxWord ctx 0
    let n := bf w0 24 8
    if !bt w0 0 || n == 0 || decide (65536 < n) then 1
    else 1 + s.runLines (bf (s.ctxWord ctx 1) 28 0) n cidx.toNat 18 0 ((n + 7) / 8)

/-- The errors a walk that did not succeed records (R311). -/
def State.walkErrs (s : State) : Walk → State
  | .ok _ | .fault => s
  | .table => s.raise HA_XLT_ERR 1
  | .bm e => (s.bmErrs e).raise HA_XLT_ERR 0

/-! ### Naming a line in a host's own context (R313, R314, R520) -/

/-- The reverse search's outcome: the context extent index, no run, or a fault: a table fault (`.ok`) or a block-memory error. -/
inductive RevRes where
  | ok (cidx : Nat)
  | noRun
  | bad (e : BmErr)
  deriving DecidableEq, Repr

/-- Run number `j` of the reverse index. -/
def State.revAt (s : State) (base j : Nat) : Nat := memRead s.bmem (64 * base + 2 * j) 2

/-- Binary search of the reverse index by pool extent. -/
def State.revSearch (s : State) (rev base n pext : Nat) : Nat → Nat → Nat → RevRes
  | 0, _, _ => .noRun
  | k + 1, lo, hi =>
    if hi ≤ lo then .noRun
    else
      let m := (lo + hi) / 2
      let j := s.revAt rev m
      if !s.bmIn (rev + m / 32) || (decide (j < n) && !s.bmIn (base + j / 8)) then .bad .address
      else if n ≤ j then .bad .ok
      else
        let r := s.runAt base j
        if !r.ok then .bad .ok
        else if pext < r.pext then s.revSearch rev base n pext k lo m
        else if pext < r.pext + r.count then .ok (r.cidx + (pext - r.pext))
        else s.revSearch rev base n pext k (m + 1) hi

/-- How the block-memory reads of the reverse search for pool extent `pext` in context `ctx` end: no command answers them, so
this is free (R314, R442, log entry 115). -/
def State.revErr (s : State) (ctx : BitVec 16) (pext : Nat) : BmErr := bmErrAt (Config.freeBmErr s.free (ctx.toNat * 2 ^ 20 + pext))

/-- The reverse search in block memory. -/
def State.revWalk (s : State) (ctx : BitVec 16) (pext : Nat) : RevRes :=
  if !s.ctxIn ctx then .bad .address
  else if !bmGood (s.revErr ctx pext) then .bad (s.revErr ctx pext)
  else
    let w0 := s.ctxWord ctx 0
    let n := bf w0 24 8
    if !bt w0 0 then .noRun
    else if n = 0 ∨ 65536 < n then .bad .ok
    else s.revSearch (bf (s.ctxWord ctx 2) 28 0) (bf (s.ctxWord ctx 1) 28 0) n pext 18 0 n

/-- The context extent of pool extent `pext` in context `ctx`, for a snoop through port `p` (R313); a search that reads block
memory records how its reads ended (R50, R94). -/
def State.reverse (s : State) (p : HpId) (ctx : BitVec 16) (pext : Nat) : RevRes × State :=
  match s.macLook p.val (fun e => e.k1 == ctx && bf e.data 19 0 == pext) with
  | (some e, s) => (.ok (e.k2.toNat % 65536), s)
  | (none, s) =>
    let r := s.revWalk ctx pext
    let s := s.bmErrs (match r with | .bad e => e | _ => s.revErr ctx pext)
    (r, { s with free := s.free + 1 })

/-! ### Placement (R322 to R324, R334) -/

/-- Pool extent of a PLA. -/
def plaExt (pla : BitVec 40) : Nat := bf pla 39 20
/-- Block-memory line of the placement entry of an extent (R322). -/
def State.plcLine (s : State) (ext : Nat) : Nat := 2 ^ 17 * s.fld HA_PLC_BASE 11 0 + ext / 8
/-- Block-memory line of the moved bit of a line of channel `c`'s extent (R334). -/
def State.movLine (s : State) (c : Nat) (pla : BitVec 40) : Nat :=
  2 ^ 15 * s.fld HA_MIG_BASE 13 0 + 2 ^ 11 * c + bf pla 19 9
/-- The moved bit within its line. -/
def movBit (pla : BitVec 40) : Nat := bf pla 8 0
/-- A placement entry faults (R324). -/
def plcFault (e : Word) : Bool :=
  let mig := bt e 1
  !bt e 0 || decide (bf e 21 2 < 64) || (mig && (decide (bf e 41 22 < 64) || bf e 41 22 == bf e 21 2))
    || (!mig && decide (bf e 45 22 ≠ 0)) || decide (bf e 63 46 ≠ 0)
/-- The frame of a line: the destination when its moved bit is 1 (R213). -/
def plcFrame (e : Word) (moved : Bool) : Nat := if bt e 1 && moved then bf e 41 22 else bf e 21 2
/-- The maddr of a line in a frame. -/
def maddrOf (frame : Nat) (pla : BitVec 40) : BitVec 46 := BitVec.ofNat 46 (frame * 2 ^ 26 + bf pla 19 0 * 64)
/-- The PLK result of a placed line (Table 7.13b). -/
def State.plcResult (s : State) (e : Word) (moved : Bool) (pla : BitVec 40) : Word :=
  let a := maddrOf (plcFrame e moved) pla
  BitVec.ofNat 64 (a.toNat + b2n (bt e 1) * 2 ^ 46 + b2n (bt e 1 && moved) * 2 ^ 47 + (s.mpOf a).val * 2 ^ 48)
/-- The PLK result of a fault: STAT 1 or 2. -/
def plcStat (k : Nat) : Word := BitVec.ofNat 64 (k * 2 ^ 60)
/-- The placement entry cached at node `n` (R323). -/
def State.plcHit (s : State) (n : NodeId) (ext : Nat) : Option Word × State :=
  match s.macLook (24 + n.val) (fun e => e.k2.toNat == ext) with
  | (some e, s) => (some e.data, s)
  | (none, s) => (none, s)
/-- Fill the placement cache of node `n` with a good entry. -/
def State.plcFill (s : State) (n : NodeId) (ext : Nat) (p : BitVec 2) (e : Word) : State :=
  s.fill (24 + n.val) p { k1 := 0, k2 := BitVec.ofNat 20 ext, data := e }

/-! ### Commands of HA_XLT_CMD (R318, R319, R321) -/

/-- Finish the command with a result. -/
def State.xltEnd (s : State) (r : Nat) : State := { s.setFld HA_XLT_STAT 2 1 r with xltCmd := none }

/-- Empty the entries of instance `i` that pass; each locked one sets LOCK_INV (R319). -/
def State.xltInv (s : State) (i : Nat) (p : MacEnt → Bool) : State :=
  (List.range 32).foldl (fun s w =>
    match (s.mac i).ent w with
    | none => s
    | some e =>
      if p e then
        let l := ((s.mac i).lockOf w).isSome
        let s := s.setMac i ((s.mac i).setEnt w none)
        if l then s.raise HA_XLT_ERR 3 else s
      else s) s

/-- The extent of a placement lookup that a block-memory request serves, and whether it reads the moved bit for an entry. -/
def State.plcOf (s : State) (r : BmReq) : Option (Nat × Bool) :=
  match r.why with
  | .plk t => match (s.thr t).pend with
    | .plk _ pla ent => some (plaExt pla, ent.isSome)
    | _ => none
  | .apl n t ent => some (plaExt ((s.nd n).trkAt t).pla, ent.isSome)
  | _ => none
/-- A placement lookup that uses a cached entry of an extent that passes awaits its moved bit: an invalidation of the entry does
not complete before it is delivered (R321). -/
def State.plcUsing (s : State) (p : Nat → Bool) : Bool := s.bm.any fun o => match o.2 with
  | some r => !r.fresh && (match s.plcOf r with | some (x, moved) => moved && p x | none => false)
  | none => false
/-- Empty the entries of every placement cache whose extent passes; what a read begun before has read of such an extent is
discarded, and read again (R319). -/
def State.plcInv (s : State) (p : Nat → Bool) : State :=
  let s := (List.range 32).foldl (fun s i => s.xltInv (24 + i) fun e => p e.k2.toNat) s
  { s with bm := s.bm.map fun o => match o.2 with
      | some r => (match s.plcOf r with
        | some (x, _) => if p x then (o.1, some { r with stale := true }) else o
        | none => o)
      | none => o }

/-- Empty the entries of every quadrant extent cache that pass. -/
def State.qecInv (s : State) (p : QecEnt → Bool) : State :=
  allQd.foldl (fun s q =>
    let x := s.qd q
    s.setQd q { x with qec := x.qec.filter fun e => match e.2 with
      | some e => !p e
      | none => false }) s

/-- Enabled, unlocked ways of the mask of class `p` of instance `i`. -/
def State.xltOpen (s : State) (i p : Nat) : List Nat :=
  (List.range 32).filter fun w => bt (s.pmask i p &&& ~~~ s.xOff i) w && ((s.mac i).lockOf w).isNone

/-- Fill instance `i` for PRELOAD or PRELOAD_LOCK; a lock that leaves fewer than 4 open ways is refused (R318). -/
def State.xltLoad (s : State) (i : Nat) (p : BitVec 2) (lock : Bool) (e : MacEnt) : State :=
  let m := s.mac i
  match m.pick (s.pmask i p.toNat &&& ~~~ s.xOff i) p with
  | none => s.xltEnd (if lock then 1 else 0)
  | some w =>
    let open_ := (s.xltOpen i p.toNat).filter (· != w)
    if lock ∧ open_.length < 4 ∧ (m.lockOf w).isNone then s.xltEnd 1
    else
      let m := m.put w e
      let m := if lock then { m with lock := smSet (fun _ => none) m.lock w (some p) } else m
      (s.setMac i m).xltEnd 0

/-- PRELOAD and PRELOAD_LOCK; `err` is how its block-memory reads ended (R321). -/
def State.xltPre (s : State) (cmd : BitVec 32) (err : BmErr) : State :=
  let i := bf cmd 9 4
  let p := BitVec.ofNat 2 (bf cmd 11 10)
  let lock := bf cmd 3 0 == 2
  let a := s.raw HA_XLT_ARG0
  if 56 ≤ i then s.xltEnd 1
  else if i < 24 then
    let ctx := BitVec.ofNat 16 (bf a 15 0)
    let cidx := BitVec.ofNat 16 (bf a 31 16)
    match s.walk ctx cidx err with
    | .ok x => (s.bmErrs err).xltLoad i p lock { k1 := ctx, k2 := cidx.setWidth 20, data := x.pack }
    | w => (s.walkErrs w).xltEnd 2
  else
    let ext := bf a 19 0
    match s.plcHit (Fin.ofNat 32 (i - 24)) ext with
    | (some e, s) => s.xltLoad i p lock { k1 := 0, k2 := BitVec.ofNat 20 ext, data := e }
    | (none, s) =>
      if !s.bmIn (s.plcLine ext) then ((s.bmErrs .address).raise HA_XLT_ERR 2).xltEnd 2
      else if !bmGood err then ((s.bmErrs err).raise HA_XLT_ERR 2).xltEnd 2
      else
        let s := s.bmErrs err
        let e := memGran s.bmem (s.plcLine 0 * 8 + ext)
        if plcFault e then (s.raise HA_XLT_ERR 2).xltEnd 2
        else s.xltLoad i p lock { k1 := 0, k2 := BitVec.ofNat 20 ext, data := e }

/-- Run the command that waits (R321); it does not complete while a placement lookup still uses an entry it removes. -/
def State.xltRun (s : State) (err : BmErr) : State :=
  match s.xltCmd with
  | none => s
  | some cmd =>
    let a0 := s.raw HA_XLT_ARG0
    let lo := bf a0 31 16
    let hi := s.fld HA_XLT_ARG1 19 0
    match bf cmd 3 0 with
    | 1 => s.xltPre cmd err
    | 2 => s.xltPre cmd err
    | 3 =>
      let i := bf cmd 9 4
      if 56 ≤ i then s.xltEnd 1
      else
        let m := s.mac i
        (s.setMac i { m with lock := smSet (fun _ => none) m.lock (bf cmd 16 12) none }).xltEnd 0
    | 4 =>
      let ctx := bf a0 15 0
      let s := (List.range 24).foldl (fun s i => s.xltInv i fun e =>
        e.k1.toNat == ctx && decide (lo ≤ e.k2.toNat) && decide (e.k2.toNat ≤ hi)) s
      (s.qecInv fun e => e.ctx.toNat == ctx && decide (lo ≤ e.cidx.toNat) && decide (e.cidx.toNat ≤ hi)).xltEnd 0
    | 5 =>
      let plo := bf a0 19 0
      let in_ (x : Nat) : Bool := decide (plo ≤ x) && decide (x ≤ hi)
      if s.plcUsing in_ then s else (s.plcInv in_).xltEnd 0
    | _ =>
      if s.plcUsing fun _ => true then s
      else ((((List.range 24).foldl (fun s i => s.xltInv i fun _ => true) s).plcInv fun _ => true).qecInv fun _ => true).xltEnd 0

/-- Write HA_XLT_CMD: the command starts unless one runs; a reserved OP sets the register-access error (R12, R321). -/
def State.xltWrite (s : State) (v : BitVec 32) (wr priv : Bool) : State :=
  if s.xltCmd.isSome ∨ bf v 3 0 = 0 ∨ 6 < bf v 3 0 then s.accErr 1 HA_XLT_CMD wr priv
  else { s with xltCmd := some v }

/-- `XLT_CMD_DONE` (R321): the command that runs takes its effect, RESULT is set and BUSY falls. -/
def execXltCmdDone (err : BmErr) (s : State) : Out := .next (s.xltRun err)

end Sys2Proof.Machine
end

