-- ==== Sys2Proof/Machine/Home.lean ====
section
/-! DEFINITION. Sys2Proof/Machine/Home.lean: the start of a request flow with its assists (R254, R256, R260), the release
of lines (R196), and the freeing and offering of trackers (R193). -/

namespace Sys2Proof.Machine

/-! ### Dispatch entries (R258, R259) -/

/-- Granule `g` of a core's program memory, corrected, with what its check says (R434, R436). -/
def Core.progGran (c : Core) (g : Nat) : Word × Ecc :=
  let e := eccClass 64 (smGet (fun _ => (0 : BitVec 8)) c.progSyn g).toNat
  (eccFix (memGran c.prog g) e, e)

/-- The word at instruction index `i` of an engine's program SRAM. -/
def Core.progWord (c : Core) (i : Nat) : Reg32 × Bool :=
  let p := c.progGran (i / 2)
  (BitVec.ofNat 32 (p.1.toNat >>> (32 * (i % 2))), p.2 == .uce)

/-- The dispatch entry of an event on a core (R258): an engine's table, the firmware table, or the boot ROM's. -/
def State.entryAt (s : State) (c : CoreId) (evt cls : Nat) : Reg32 × Bool :=
  match c with
  | .node n => (s.nd n).core.progWord (0x3800 + 8 * evt + cls)
  | .chervil =>
    if s.bit HA_CHV_STAT 23 then s.chv.progWord (0xF800 + 8 * evt + cls)
    else
      let i := 0x3800 + 8 * evt + cls
      (BitVec.ofNat 32 ((Config.bootRom (i / 2)).toNat >>> (32 * (i % 2))), false)

/-- How an event finds its entry (R259): its own, the catch-all after an invalid or an uncorrectable entry, or none. -/
inductive EntRes where
  | own (e : Reg32)
  | any (e : Reg32) (uce : Bool)
  | stall (uce : Bool)
  deriving DecidableEq, Repr

/-- Choose the entry of an event (R259). -/
def State.pickEntry (s : State) (c : CoreId) (evt cls : Nat) : EntRes :=
  let e := s.entryAt c evt cls
  if !e.2 && bt e.1 17 then .own e.1
  else
    let a := s.entryAt c 0xFF cls
    if !a.2 && bt a.1 17 then .any a.1 e.2 else .stall e.2

/-- The entry word whose flags apply to an event; zeros when dispatch stalls. -/
def EntRes.word : EntRes → Reg32
  | .own e => e
  | .any e _ => e
  | .stall _ => 0

/-! ### The start of a request flow (R254, R256, R260) -/

/-- The EVT of a request flow (Table 8.1). -/
def Trk.evtCode (t : Trk) : Nat :=
  let m := match t.mval.toNat with
    | 0 => 0
    | 3 => 1
    | _ => 2
  if t.kind = 1 then (if t.opc = 0x18 then 0x12 else 0x13)
  else match t.opc with
    | 0 => 1 + m
    | 1 => 4
    | 2 => 5 + m
    | 3 => 8 + m
    | 4 => 0x0B
    | 0x18 => 0x0C + m
    | _ => 0x0F + m

/-- Fill a flow's first entry from its ledger entry (R237). -/
def State.fillFirst (s : State) (n : NodeId) (t : Nat) : State :=
  let r := (s.nd n).trkAt t
  match (s.hpAt r.port).led r.ledger with
  | some e => s.modNd n fun x => x.setLb r.lbuf { x.lbAt r.lbuf with data := e.data, mask := e.be, poison := e.poison, parBad := 0 }
  | none => s

/-- Raise the request event of flow `t` with its datum (Table 8.2). -/
def State.pushReq (s : State) (n : NodeId) (t : Nat) : State :=
  let r := (s.nd n).trkAt t
  let d := BitVec.ofNat 64 (r.pla.toNat + (if r.lbufV then r.lbuf * 2 ^ 40 + 2 ^ 49 else 0))
  (s.raiseEvt n r.evtCode r.cls (some t) d).modTrk n t fun r => { r with evt := BitVec.ofNat 8 r.evtCode }

/-- The MetaValue update word of the AMV assist (R260 step 4). -/
def Trk.amvWord (t : Trk) : Word :=
  let n := bf t.pla 1 0
  let m := t.mval.toNat
  let ls := if m = 0 then 0 else if m = 3 then 1 else 2
  BitVec.ofNat 64 (2 ^ n + ls * 2 ^ (4 + 2 * n) + (if m = 0 then 0 else 2 ^ 12) + t.host.toNat * 2 ^ 16)

/-- The flow waits at dispatch for a resource (R18). -/
def State.waitLb (s : State) (n : NodeId) (t : Nat) : State :=
  s.modNd n fun x =>
    let x := x.setTrk t { x.trkAt t with lbDispatch := true }
    if x.lbWait.contains t then x else { x with lbWait := x.lbWait ++ [t] }

/-- The flow waits for a line-buffer entry. -/
def State.waitEntry (s : State) (n : NodeId) (t : Nat) : State := (s.waitLb n t).cntN n 0x015 1

/-- AMV and the event itself. -/
def State.startEnd (s : State) (n : NodeId) (t : Nat) (e : Reg32) : State :=
  let s := if bt e 24 then s.modTrk n t fun r => { r with w6 := r.amvWord } else s
  s.pushReq n t

/-- ARD: a LINE_RD of the line's maddr into LBUF (R260 step 3). -/
def State.startArd (s : State) (n : NodeId) (t : Nat) (e : Reg32) : State :=
  let r := (s.nd n).trkAt t
  if bt e 21 && bt e 22 && bt e 23 then
    let a := maddrOf (bf r.w4 48 29) r.pla
    let m := s.mpOf a
    match s.mpIssue m { own := .flow n t, kind := .rd, maddr := a, ents := [r.lbuf], left := 1 } with
    | none => s.waitLb n t
    | some (g, s) =>
      ((s.updTrk n t 4 fun r => ((r.setW4 2 0 m.val).setW4 26 15 g).setW4 28 28 1).cntN n 0x012 1).startEnd n t e
  else s.startEnd n t e

/-- The placement assist has its result: a fault dispatches EVT 0x14, else FRAME and MOVED are written (R260 step 2). -/
def State.aplFault (s : State) (n : NodeId) (t stat : Nat) : State :=
  let s := s.raise HA_XLT_ERR 2
  let r := (s.nd n).trkAt t
  let d := BitVec.ofNat 64 (r.pla.toNat + r.evtCode * 2 ^ 40 + stat * 2 ^ 60)
  (s.raiseEvt n 0x14 r.cls (some t) d).modTrk n t fun r => { r with evt := 0x14 }

/-- Placement known: write FRAME and MOVED and go on with ARD. -/
def State.aplDone (s : State) (n : NodeId) (t : Nat) (ent : Word) (moved : Bool) : State :=
  let r := (s.nd n).trkAt t
  let e := (s.pickEntry (.node n) r.evtCode r.cls).word
  (s.updTrk n t 4 fun r => (r.setW4 48 29 (plcFrame ent moved)).setW4 49 49 (b2n (bt ent 1 && moved))).startArd n t e

/-- The placement entry is known: read the moved bit of an extent in migration, else finish (R323). -/
def State.aplEnt (s : State) (n : NodeId) (t : Nat) (ent : Word) (fresh : Bool) : State :=
  let r := (s.nd n).trkAt t
  if plcFault ent then s.aplFault n t 1
  else if bt ent 1 then
    let l := s.movLine (bf ent 45 42) r.pla
    if !s.bmIn l then (s.bmErrs .address).aplFault n t 2
    else match s.bmIssue (.apl n t (some ent)) false l 0 0 with
      | none => s.waitLb n t
      | some (i, s) => s.bmFresh i fresh
  else (if fresh then s.plcFill n (plaExt r.pla) 0 ent else s).aplDone n t ent false

/-- Read the placement entry of a flow's line (R323); outside block memory the assist fails at once (R50). -/
def State.aplRead (s : State) (n : NodeId) (t : Nat) : State :=
  let l := s.plcLine (plaExt ((s.nd n).trkAt t).pla)
  if !s.bmIn l then (s.bmErrs .address).aplFault n t 2
  else match s.bmIssue (.apl n t none) false l 0 0 with
    | none => s.waitLb n t
    | some (_, s) => s

/-- The start of a request flow that is active, or of a write-back: line-buffer, placement, read and MetaValue assists,
then its event (R260). -/
def State.startReq (s : State) (n : NodeId) (t : Nat) : State :=
  let r := (s.nd n).trkAt t
  let e := (s.pickEntry (.node n) r.evtCode r.cls).word
  let need := (r.isWr || bt e 21) && !r.lbufV
  let go : Option State :=
    if need then
      match (s.nd n).freeLb with
      | some i =>
        let s := s.modNd n fun x => x.giveLb t i
        some (if r.isWr then s.fillFirst n t else s)
      | none => none
    else some s
  match go with
  | none => s.waitEntry n t
  | some s =>
    if bt e 22 then
      match s.plcHit n (plaExt r.pla) with
      | (some ent, s) => s.aplEnt n t ent false
      | (none, s) => (s.cntN n 0x011 1).aplRead n t
    else s.startArd n t e

/-- A flow has become the first of a line's chain: a host request starts; an internal flow finds HEAD in its WAIT. -/
def State.nowActive (s : State) (n : NodeId) (t : Nat) : State :=
  let r := (s.nd n).trkAt t
  if r.v && r.kind == 0 && !r.wedged then (s.modTrk n t fun r => { r with replay := false }).startReq n t else s

/-- Release every line a flow holds or waits for (R196): the next flow of each chain becomes active. -/
def State.release (s : State) (n : NodeId) (t : Nat) : State :=
  ((s.nd n).linesOf t).foldl (fun s l =>
    let was := (s.nd n).active l == some t
    let s := s.modNd n fun x => x.leave l t
    match was, (s.nd n).active l with
    | true, some h => s.nowActive n h
    | _, _ => s) s

/-! ### Offering trackers (R193) -/

/-- The next port after `last` in rotation whose bit of `bits` is set. -/
def nextPort (bits : Nat) (last : HpId) : Option HpId :=
  ((List.range 16).map fun k => (Fin.ofNat 16 (last.val + 1 + k) : HpId)).find? fun p => bits.testBit p.val

/-- The order of replay: ledger timestamp, port, acceptance (R211). -/
def LedEnt.before (a : LedEnt) (pa : HpId) (b : LedEnt) (pb : HpId) : Bool :=
  let ta := bf a.tag 47 0
  let tb := bf b.tag 47 0
  decide (ta < tb) || (ta == tb && (decide (pa.val < pb.val) || (pa == pb && decide (a.seq < b.seq))))

/-- The port that holds the first of the replayed entries that node `n` answered RETRY (R409 step 4). -/
def State.replayFirst (s : State) (n : NodeId) : Option HpId :=
  let best (a : Option (HpId × LedEnt)) (p : HpId) (l : LedEnt) : Option (HpId × LedEnt) := match a with
    | some (q, m) => if l.before p m q then some (p, l) else a
    | none => some (p, l)
  (allHp.foldl (fun a p => (s.hpAt p).ledger.foldl (fun a e => match e.2 with
    | some l => if l.replay && l.st == .retried n false then best a p l else a
    | none => a) a) none).map (·.1)

/-- Keep tracker `i`, free in pool `p`, for the port R193 chooses, or R409 while replayed entries are held, unless an internal
flow waits for it or the sizes now in force leave no tracker to allocate (R186). Both lists share the port granted last, which
the spec does not settle (log entry 120). -/
def State.offer (s : State) (n : NodeId) (i : Nat) (p : Pool) : State :=
  let x := s.nd n
  let pend := (s.raw (ndA n ND_TRK_PEND)).toNat
  if x.intQ ≠ [] ∧ p ≠ .wb then s
  else
    let gen := if p = .gen then s.freePool n [.gen] else none
    let pick := match (if gen.isSome then s.replayFirst n else none) with
      | some q => some (q, false, Pool.gen)
      | none => match (if p = .int then none else s.freePool n [.wb, .gen]), nextPort (pend / 65536) x.lastGrant with
        | some k, some q => some (q, true, k)
        | _, _ => if gen.isSome then (nextPort (pend % 65536) x.lastGrant).map fun q => (q, false, Pool.gen) else none
    match pick with
    | none => s
    | some (q, wb, k) =>
      (s.modNd n fun x => { x.setTrk i { pool := k } with kept := x.kept ++ [(i, q, wb)], lastGrant := q, rspOut := x.rspOut ++ [(q, none, s.withheld n.val)] }).cntN n 0x009 1

/-- Free every line-buffer entry a tracker owns (R242). -/
def Node.freeLbs (x : Node) (t : Nat) : Node := { x with lb := x.lb.filter fun e => e.2.own != some t }

/-- The buffered accesses of a flow that has ended belong to no flow (R261, R297). -/
def Thread.forget (x : Thread) (t : Nat) : Thread :=
  { x with sb := x.sb.map fun b => if b.trk = some t then { b with trk := none } else b }

/-- Free tracker `t` (R242 TFREE): release its lines, its line-buffer entries and its reservation, and offer it. -/
def State.freeTrk (s : State) (n : NodeId) (t : Nat) : State :=
  let p := ((s.nd n).trkAt t).pool
  let s := s.release n t
  let s := s.modNd n fun x =>
    let x := (x.freeLbs t).setTrk t {}
    { x with resv := x.resv.filter (fun e => e.2.1 != t), lbWait := x.lbWait.filter (· != t),
             wayWait := x.wayWait.filter (fun e => e.1 != t),
             evicts := x.evicts.map (fun v => if v.req = some t then { v with req := none } else v),
             core := { x.core with events := x.core.events.filter (fun e => e.trk != some t),
                                   threads := x.core.threads.map fun e => (e.1, e.2.forget t) } }
  s.offer n t p

/-! ### The tracker of a request -/

/-- The record of a host request from its ledger entry (Table 6.2). -/
def mkTrk (p : HpId) (i : Nat) (e : LedEnt) : Trk :=
  let h := e.hdr
  { w0 := BitVec.ofNat 64 (e.cls.toNat * 2 ^ 5 + e.pla.toNat * 2 ^ 24),
    w1 := BitVec.ofNat 64 (p.val + i * 2 ^ 4 + 2 ^ 15 + (hdrHost h).toNat * 2 ^ 16 + (hdrTag h).toNat * 2 ^ 26
      + (hdrCtx h).toNat * 2 ^ 42 + hdrOpc h * 2 ^ 58),
    mval := BitVec.ofNat 2 (hdrMval h), replay := e.replay }

/-- Whether a snoop covers line `pla` (R79). -/
def Snoop.covers (q : Snoop) (pla : BitVec 40) : Bool :=
  bf q.pla 39 2 == bf pla 39 2 && bt q.lines (bf pla 1 0)

/-- A snoop to `host` that covers `pla` is outstanding for an owner that passes: in a slot, or waiting for one. -/
def State.snpOutTo (s : State) (host : BitVec 10) (pla : BitVec 40) (p : SnpOwner → Bool) : Bool :=
  allHp.any fun hp =>
    ((s.hpAt hp).slots.any fun e => match e.2 with
      | some sl => sl.sn.host == host && sl.sn.covers pla && p sl.sn.own && (match sl.st with | .quar _ => false | _ => true)
      | none => false)
    || (s.hpAt hp).waitSnp.any fun q => q.host == host && q.covers pla && p q.own

/-- The write of `host` to `pla` at node `n` is a write-back (R189): the line's active flow or a repair of the node has a
snoop outstanding to the host that covers the line. -/
def State.isWriteBack (s : State) (n : NodeId) (host : BitVec 10) (pla : BitVec 40) : Bool :=
  s.snpOutTo host pla fun o => match o with
    | .flow m t => m == n && (s.nd n).active pla.toNat == some t
    | .repair m _ => m == n

/-- A write-back is classified: the active flow of the line sets WB_SEEN (R191). -/
def State.seeWb (s : State) (n : NodeId) (pla : BitVec 40) : State :=
  match (s.nd n).active pla.toNat with
  | some t => s.updTrk n t 3 fun r => r.setW3 14 14 1
  | none => s

end Sys2Proof.Machine
end

