-- ==== Sys2Proof/Machine/Snoops.lean ====
section
/-! DEFINITION. Sys2Proof/Machine/Snoops.lean: sending a snoop (R79, R82, R190, R199, R313, R314, R520), delivering an answer
(R107, R190, R201, R205), and the departure of a host (R122, R209, R420). -/

namespace Sys2Proof.Machine

/-- BISNP opcodes (Table 3.8). -/
def snpInvBlk : BitVec 3 := 6

/-- A ledger entry of a slot's host is a write to a line the snoop covers and not yet answered (R201); a request still in
translation is compared by its context address. -/
def HpShell.writeWaits (x : HpShell) (sl : Slot) : Bool :=
  x.ledger.any fun e => match e.2 with
    | some l =>
      let c := hdrCaddr l.hdr
      hdrHost l.hdr == sl.sn.host && (hdrOpc l.hdr == 0x18 || hdrOpc l.hdr == 0x19) && l.st != .answered
        && (match l.st with
          | .blocked | .walk => bf c 41 8 == bf sl.caddr 41 8 && bt sl.sn.lines (bf c 7 6)
          | _ => sl.sn.covers l.pla)
    | none => false

/-- Add a host to the answer set of a tracker (R241). -/
def Trk.addAns (t : Trk) (h : Nat) : Trk :=
  let f := if t.ansAny then widen t.ansSel.toNat t.ansShr.toNat h else (0, h)
  { t with ansAny := true, ansSel := BitVec.ofNat 2 f.1, ansShr := BitVec.ofNat 20 f.2 }

/-- Deliver an answer to the flow or repair that snooped: 0 I, 1 S, 2 E; `gone` when it is made on behalf of a departed
host (R198, R205). -/
def State.deliver (s : State) (q : Snoop) (ans : Nat) (gone : Bool) : State :=
  match q.own with
  | .repair n i =>
    let s := match (s.nd n).repairs.find? fun r => r.id == i with
      | some ⟨_, _, _, _, o, some t, _⟩ => s.updTrk n t 3 fun r => r.setW3 10 0 (min (o - 1) 1024)
      | _ => s
    s.modNd n fun x => { x with repairs := x.repairs.map fun r => if r.id = i then { r with out := r.out - 1 } else r }
  | .flow n t =>
    let s := s.updTrk n t 3 fun r =>
      let r := r.setW3 10 0 (r.snpOut - 1)
      let r := if ans = 1 then r.setW3 11 11 1 else if ans = 2 then r.setW3 12 12 1 else r
      let r := if ans = 0 then r else r.addAns q.host.toNat
      if gone then { r with depart := true, departed := r.departed ++ [q.host] } else r
    s.wake n t

/-- Set slot `i` of a shell. -/
def HpShell.setSlot (x : HpShell) (i : Nat) (v : Option Slot) : HpShell := { x with slots := smSet (fun _ => none) x.slots i v }
/-- Slot `i` of a shell. -/
def HpShell.slotAt (x : HpShell) (i : Nat) : Option Slot := smGet (fun _ => none) x.slots i

/-- A slot's answer is in: the last of its set delivers the highest state answered (R82, R107); the slot is then free, or
out of use for one further limit (R200). -/
def State.slotDone (s : State) (p : HpId) (i : Nat) (ans : Nat) (gone : Bool) : State :=
  let x := s.hpAt p
  match x.slotAt i with
  | none => s
  | some sl =>
    let acc := max sl.acc.toNat ans
    let rest := x.slots.any fun e => match e.2 with
      | some o => o.grp == sl.grp && e.1 != i && (match o.st with | .quar _ => false | _ => true)
      | none => false
    let q := if gone then some { sl with st := .quar s.tmo } else none
    let x := x.setSlot i q
    let x := if rest then { x with slots := x.slots.map fun e => match e.2 with
        | some o => if o.grp = sl.grp then (e.1, some { o with acc := BitVec.ofNat 2 acc }) else e
        | none => e } else x
    let s := s.setHp p x
    if rest then (if gone then match sl.sn.own with
        | .flow n t => s.modTrk n t fun r => { r with depart := true, departed := r.departed ++ [sl.sn.host] }
        | .repair .. => s else s)
    else s.deliver sl.sn acc gone

/-- The lowest `k` free slots of the 8,192 (R199). -/
def HpShell.freeSlots (x : HpShell) (k : Nat) : List Nat :=
  let used := x.slots.map (·.1)
  ((List.range (used.length + k)).filter fun i => !used.contains i && decide (i < 8192)).take k

/-- The wait of an outbound channel counts anew when its head has changed (Table 2.3). -/
def HpShell.heads (x old : HpShell) (now : Nat) : HpShell :=
  let put (c : Nat) (same : Bool) (m : SMap Nat) : SMap Nat := if same then m else smSet (fun _ => 0) m c now
  { x with outSince := put 0 (x.ndr.head? == old.ndr.head?) (put 1 (x.drs.head? == old.drs.head?)
      (put 2 (x.bis.head? == old.bis.head?) x.outSince)) }

/-- A host departs without warning (R122, R420 step 1): its session becomes DEPARTING, its outbound messages are
discarded, its accepted requests lose their responses, its snoop slots wait to be answered on its behalf, and Chervil
hears of it. -/
def State.depart (s : State) (h cause : Nat) : State :=
  let e := s.ses h
  if e.st = .closed ∨ e.st = .departing then s
  else
    let s := s.setSes h { e with st := .departing, closeIdx := none, visits := 0, todo := 0, visitSent := false, served := false }
    let p := e.port
    let x := s.hpAt p
    let hb : BitVec 10 := BitVec.ofNat 10 h
    let mine (w : BitVec 64) : Bool := bf w 13 4 == h
    let dropped := (x.ndr.filter fun m => mine m.1).filterMap (·.2) ++ (x.drs.filter fun m => mine m.1).filterMap (·.2.2.2)
    let bisGone := x.bis.filter fun i => match x.slotAt i with | some sl => sl.sn.host == hb | none => false
    let led := (x.ledger.filter fun e => !dropped.contains e.1).map fun e => match e.2 with
      | some l => if hdrHost l.hdr = hb then (e.1, some { l with gone := true }) else e
      | none => e
    let goneSlot (sl : Slot) : Slot := match sl.st with
      | .quar _ => sl
      | _ => { sl with st := .gone }
    let slots := x.slots.map fun e => match e.2 with
      | some sl => if sl.sn.host = hb then (e.1, some (goneSlot sl)) else e
      | none => e
    let ndr := x.ndr.filter fun m => !mine m.1
    let drs := x.drs.filter fun m => !mine m.1
    let bis := x.bis.filter fun i => !bisGone.contains i
    let acks := x.bicAcks.filter fun a => a.host != hb
    let x : HpShell := { x with ndr := ndr, drs := drs, bis := bis, bicAcks := acks, ledger := led, slots := slots }
    let s := s.setHp p (x.heads (s.hpAt p) s.tmo)
    let s := s.raiseK HA_DEPART_ERR 0 true
    s.chvEvent 0x52 (h + cause * 2 ^ 10)

/-- Answer the slots of departed hosts whose writes have all been answered (R209). -/
def State.goneSlots (s : State) (p : HpId) : State :=
  let s := if (s.hpAt p).slots.any (fun e => match e.2 with
    | some sl => sl.st == .gone
    | none => false) then s.ledScan p else s
  ((s.hpAt p).slots.map (·.1)).foldl (fun s i =>
    match (s.hpAt p).slotAt i with
    | some sl => if sl.st = .gone ∧ (s.hpAt p).writeWaits sl = false then s.slotDone p i 0 true else s
    | none => s) s

/-- The node that sent a snoop. -/
def SnpOwner.node : SnpOwner → NodeId
  | .flow n _ => n
  | .repair n _ => n

/-- Lines a snoop covers, ascending. -/
def Snoop.lineList (q : Snoop) : List Nat := (List.range 4).filter fun n => bt q.lines n

/-- Put a snoop to a named context address into slots of port `p`: one for a block form, or one for each line on a port
without BI_BLK (R82). With too few free slots it waits at the shell (R199). -/
def State.slotSnoop (s : State) (p : HpId) (q : Snoop) (cidx : Nat) (gone : Bool) : State :=
  let x := s.hpAt p
  let ns := q.lineList
  let split := bt q.op 2 && !bt x.att.caps 4
  let one (n : Nat) : Snoop := { q with op := q.op &&& 3, blk := 0, lines := BitVec.ofNat 4 (2 ^ n) }
  let parts : List (Snoop × Nat) := if split then ns.map fun n => (one n, n) else [(q, ns.headD 0)]
  let is := x.freeSlots parts.length
  if is.length < parts.length then s.setHp p { x with waitSnp := x.waitSnp ++ [q] }
  else
    let grp := x.grpNext
    let x := { x with grpNext := grp + 1 }
    let x := (is.zip parts).foldl (fun x a =>
      let ca : BitVec 42 := BitVec.ofNat 42 (cidx * 2 ^ 26 + (bf q.pla 19 2 * 4 + a.2.2) * 64)
      let ep : BitVec 3 := BitVec.ofNat 3 (s.fld HA_RST_STAT 2 0)
      let st : SlotSt := if gone then .gone else .queued
      let sl : Slot := ⟨a.2.1, (s.ses q.host.toNat).ctx, ca, ep, grp, 0, st, 0⟩
      let x := x.setSlot a.1 (some sl)
      if gone then x
      else
        let since := if x.bis = [] then smSet (fun _ => 0) x.outSince 2 s.tmo else x.outSince
        { x with bis := x.bis ++ [a.1], outSince := since }) x
    is.foldl (fun s i => s.survFresh p.val (2 * i) 2) (s.setHp p x)

/-- Place one counted snoop at its host's shell: a departing host is answered on its behalf after its writes (R520); a
failed naming is answered so at once, and the host departs (R314). While the node's router withholds, the snoop waits (R365). -/
def State.placeSnoop (s0 : State) (q : Snoop) : State :=
  let h := q.host.toNat
  s0.survThen (·.sesRead h) fun s =>
  let e := s.ses h
  let gone := e.st == .departing || e.st == .closed
  if s.withheld q.own.node.val then s.setHp e.port { s.hpAt e.port with waitSnp := (s.hpAt e.port).waitSnp ++ [q] }
  else match s.reverse e.port e.ctx (plaExt q.pla) with
  | (.ok c, s) => s.slotSnoop e.port q c gone
  | (_, s) =>
    if gone then s.slotSnoop e.port q 0 true
    else ((s.slotSnoop e.port q 0 true).raise HA_XLT_ERR 6).depart h 4

/-- Snoops that wait for a slot go on when slots are free (R199). -/
def State.waitedSnoops (s : State) (p : HpId) : State :=
  let w := (s.hpAt p).waitSnp
  w.foldl (fun s q => s.placeSnoop q) (s.setHp p { s.hpAt p with waitSnp := [] })

/-- The hosts with a session open (R520). -/
def State.openHosts (s : State) : List Nat := (s.sess.filter fun e => e.2.st != .closed).map (·.1)

/-- A host is skipped: its context maps no run covering the line, and no pointer names it (R520). -/
def State.skips (s : State) (h : Nat) (named : Bool) (pla : BitVec 40) : Bool :=
  let e := s.ses h
  !named && (s.reverse e.port e.ctx (plaExt pla)).1 == .noRun

/-- Every attached host: a session open on an attached host port (R520). -/
def State.attachedHosts (s : State) : List Nat := s.openHosts.filter fun h => (s.hpAt (s.ses h).port).att.on

/-- Writes of a snooped host that wait in the chain of a covered line run at once as write-backs, keeping their tracker
(R190). -/
def State.chainWb (s : State) (n : NodeId) (q : Snoop) : State :=
  q.lineList.foldl (fun s k =>
    let l := bf q.pla 39 2 * 4 + k
    ((s.nd n).chain l).foldl (fun s t =>
      let r := (s.nd n).trkAt t
      if r.kind = 0 ∧ r.isWr = true ∧ r.host = q.host ∧ (s.nd n).active l ≠ some t then
        let s := s.seeWb n r.pla
        let s := s.modNd n fun x => (x.leave l t).setTrk t { r with w0 := setBf r.w0 4 1 1 }
        s.startReq n t
      else s) s) s

/-- Send one snoop of flow or repair `q.own` at node `n` to each host of a list (R190). -/
def State.sendSnoops (s : State) (n : NodeId) (q : Snoop) (hosts : List Nat) : State :=
  hosts.foldl (fun s h =>
    let q := { q with host := BitVec.ofNat 10 h }
    (s.chainWb n q).placeSnoop q) { s with free := s.free + 1 }

/-- The permitted answers of a snoop (Table 4.2): 0 I, 1 S, 2 E. -/
def ansOk (op : BitVec 3) (a : Nat) : Bool :=
  match (op &&& 3).toNat with
  | 0 => decide (a ≤ 2)
  | 1 => decide (a ≤ 1)
  | _ => decide (a = 0)

end Sys2Proof.Machine
end

