-- ==== Sys2Proof/Machine/SnoopFilter.lean ====
section
/-! DEFINITION. Sys2Proof/Machine/SnoopFilter.lean: reads and writes of bank entries with their checks (R170), repair
(R171, R172), conservative tracking (R176, R178), victim choice and eviction (R155 to R165), and `settle`, which lets
everything at a node that waits for a condition go on once the condition holds. -/

namespace Sys2Proof.Machine

/-! ### Entries and their checks (R170) -/

/-- Key of a bank way. -/
def bankKey (set way : Nat) : Nat := 16 * set + way
/-- The stored bank entry. -/
def Node.entry (x : Node) (k : Nat) : Word := smGet (fun _ => 0) x.bank k
/-- Store a bank entry as given. -/
def Node.setEntry (x : Node) (k : Nat) (e : Word) : Node := { x with bank := smSet (fun _ => 0) x.bank k e }
/-- What the check of an entry says. -/
def entCheck (e : Word) : Ecc × Nat :=
  let syn := secdedCheck 56 (bf e 55 0) ^^^ bf e 63 56
  (eccClass 56 syn, syn)
/-- The entry with a single-bit error undone. -/
def entFix (e : Word) : Word :=
  match (entCheck e).1 with
  | .dataBit i => setBt e i (!bt e i)
  | .checkBit => entSeal e
  | _ => e
/-- The syndrome column of bit `i` of an entry (R434). -/
def entCol (i : Nat) : Nat := if i < 56 then secdedL.getD i 0 else 2 ^ (i - 56)
/-- The candidate tags of an uncorrectable entry (R171 step 1). -/
def candTags (e : Word) (syn : Nat) : List Nat :=
  let prs := (List.range 64).flatMap fun a => ((List.range 64).filter fun b => decide (a < b) && (entCol a ^^^ entCol b == syn)).map fun b => (a, b)
  let flip (v i : Nat) : Nat := if i < 20 then v ^^^ 2 ^ i else v
  (prs.map fun p => flip (flip (bf e 19 0) p.1) p.2).eraseDups
/-- Count a corrected entry (R170). -/
def State.entCe (s : State) (n : NodeId) : State :=
  let c := s.fld (ndA n ND_SF_CECNT) 15 0
  (s.setFld (ndA n ND_SF_CECNT) 15 0 (if c = 65535 then c else c + 1)).raise (ndA n ND_SF_ERR) 0

/-! ### Conservative tracking (R176, R178) -/

/-- End conservative tracking at every node. -/
def State.consEnd (s : State) : State := allNodes.foldl (fun s n => s.modNd n fun x => { x with cons := false }) s
/-- End it where LEGACY and LEGACY_PORTS are zero (R178). -/
def State.consCheck (s : State) : State :=
  if s.legacyN = 0 ∧ allHp.all (fun p => !(s.hpAt p).legacy) = true then s.consEnd else s
/-- A later entry: the node is conservative and every open session is legacy (R176). -/
def State.consStart (s : State) (n : NodeId) : State :=
  let s := s.modNd n fun x => { x with cons := true }
  let mark (e : Nat × Session) : Nat × Session := if e.2.st = .closed then e else (e.1, { e.2 with legacy := true })
  let s := { s with sess := s.sess.map mark }
  s.consCheck

/-! ### Overflow directory entries in block memory (R162) -/

/-- Granule number in block memory of overflow way `k` = 8 × set + way. -/
def State.ovfGran (s : State) (k : Nat) : Nat := 8 * s.ovfLine 0 + k
/-- The overflow entry of way `k`. -/
def State.ovfAt (s : State) (k : Nat) : Word := memGran s.bmem (s.ovfGran k)
/-- Write an overflow entry in block memory. -/
def State.ovfPut (s : State) (k : Nat) (e : Word) : State :=
  { s with bmem := memWrite s.bmem (8 * s.ovfGran k) e.toNat 8 }.bmCover (s.ovfGran k / 8) s.bmSeq
    (BitVec.ofNat 64 (255 * 2 ^ (8 * (s.ovfGran k % 8))))
/-- HA_OVF_COUNT moves with an entry's becoming non-zero or zero. -/
def State.ovfCount (s : State) (old new : Word) : State :=
  let c := s.fld HA_OVF_COUNT 31 0
  if entValid old = entValid new then s else s.setFld HA_OVF_COUNT 31 0 (if entValid new then c + 1 else c - 1)
/-- The check of a region-map word (Table 15.1): corrected, or set to all ones. -/
def State.rmapCheck (s : State) (n : NodeId) (i : Nat) : State :=
  let x := s.nd n
  let e := eccClass 64 (smGet (fun _ => (0 : BitVec 8)) x.rmapSyn i).toNat
  let put (x : Node) (v : Word) : Node := { x.setRmWord i v with rmapSyn := smSet (fun _ => (0 : BitVec 8)) x.rmapSyn i 0 }
  if e = .uce then (s.modNd n fun x => put x (BitVec.allOnes 64)).raise (ndA n ND_SCRUB_ERR) 4
  else if eccCe e then (s.modNd n fun x => put x (eccFix (x.rmWord i) e)).raise (ndA n ND_SCRUB_ERR) 3
  else s

/-- Set the region bit of a sector at node `n` (R166). -/
def State.regionSet (s : State) (n : NodeId) (sec : Nat) : State :=
  let r := s.region sec
  (s.rmapCheck n (r / 64)).modNd n fun x => x.setRmWord (r / 64) (setBt (x.rmWord (r / 64)) (r % 64) true)
/-- A lookup reads the overflow set: EN is 1 and the region bit is 1 or a rebuild runs (R161, R169). -/
def State.regionHit (s : State) (n : NodeId) (sec : Nat) : Bool :=
  let r := s.region sec
  s.bit HA_OVF_CTRL 0 && (bt ((s.nd n).rmWord (r / 64)) (r % 64) || (s.nd n).rebuild)
/-- A node has lost overflow entries: the error and conservative tracking (R174). -/
def State.ovfGone (s : State) (n : NodeId) : State := (s.raise (ndA n ND_SF_ERR) 4).consStart n
/-- An overflow set is lost (R174, R442): HA_OVF_COUNT falls by the ways that the node's last good read found valid where that
read was of this set (log entry 105). -/
def State.ovfLost (s : State) (n : NodeId) (set : Nat) : State :=
  let k := match (s.nd n).ovfSeen with
    | some (o, k) => if o = set then k else 0
    | none => 0
  let s := (List.range 8).foldl (fun s w => s.ovfPut (8 * set + w) 0) (s.modNd n fun x => { x with ovfSeen := none })
  (s.setFld HA_OVF_COUNT 31 0 (s.fld HA_OVF_COUNT 31 0 - k)).ovfGone n

/-! ### Repair (R171, R172) -/

/-- Capture the first uncorrectable error of a node (R175). -/
def State.sfCapture (s : State) (n : NodeId) (ovf : Bool) (k syn : Nat) : State :=
  let set := if ovf then k / 8 % 8192 else k / 16
  let way := if ovf then k % 8 else k % 16
  s.capture (ndA n ND_SF_ERR_CAP) 26 (ndA n ND_SF_ERR_TS) (set + way * 2 ^ 13 + syn * 2 ^ 17 + b2n ovf * 2 ^ 25)

/-- The sectors that the candidates of a way name (R139, R162). -/
def State.candSectors (s : State) (n : NodeId) (ovf : Bool) (k : Nat) (e : Word) (syn : Nat) : List Nat :=
  let tags := candTags e syn
  if ovf then (tags.filter fun t => decide (t < 2 ^ (38 - s.ovfM))).map fun t => s.ovfSector (k / 8) t
  else tags.map fun t => s.sectorOf n (k / 16) (k % 16) t

/-- Write a repaired way as zeros. -/
def State.zeroWay (s : State) (n : NodeId) (ovf : Bool) (k : Nat) : State :=
  if ovf then (s.ovfCount (s.ovfAt k) 0).ovfPut k 0 else s.modNd n fun x => x.setEntry k 0

/-- The handles that point at a way are lost to its repair (R221). -/
def Node.loseHandles (x : Node) (ovf : Bool) (k : Nat) : Node :=
  let l : HLoc := if ovf then .ovf (k / 8) (k % 8) else .bank k
  let lose (h : Nat × HLoc) : Nat × HLoc := if h.2 = l then (h.1, .lost) else h
  { x with core := { x.core with threads := x.core.threads.map fun e => (e.1, { e.2 with handle := e.2.handle.map lose }) } }

/-- Begin the repair of an uncorrectable way found with syndrome `syn`; `finder` is the ND_SF_ERR bit of the finder (R171).
With no candidate and an odd syndrome the way is zeroed at once and the node becomes conservative. -/
def State.repairStart (s : State) (n : NodeId) (ovf : Bool) (k : Nat) (e : Word) (syn finder : Nat) : State :=
  if (s.nd n).repairs.any fun r => r.ovf == ovf && r.key == k then s
  else
    let s := (s.sfCapture n ovf k syn).modNd n fun x => x.loseHandles ovf k
    let cs := s.candSectors n ovf k e syn
    if candTags e syn = [] then ((s.zeroWay n ovf k).raise (ndA n ND_SF_ERR) finder).consStart n
    else
      s.modNd n fun x => { x with repairs := x.repairs ++ [{ id := x.repairNext, ovf := ovf, key := k, cands := cs, finder := finder }],
                                  repairNext := x.repairNext + 1, intQ := x.intQ ++ [.repair x.repairNext] }

/-- A repair has its tracker: broadcast to every attached host for each candidate sector (R171 step 3). -/
def State.repairGo (s : State) (n : NodeId) (id t : Nat) : State :=
  match (s.nd n).repairs.find? fun r => r.id == id with
  | none => s
  | some r =>
    let hs (c : Nat) : List Nat := s.attachedHosts.filter fun h => !s.skips h false (BitVec.ofNat 40 (4 * c))
    let total := (r.cands.map fun c => (hs c).length).sum
    let s := (s.modNd n fun x => { x with repairs := x.repairs.map fun q =>
      if q.id = id then { q with trk := some t, out := total } else q }).updTrk n t 3 fun q => q.setW3 10 0 (min total 1024)
    r.cands.foldl (fun s c => s.sendSnoops n
      { op := snpInvBlk, blk := 2, host := 0, pla := BitVec.ofNat 40 (4 * c), lines := 15, own := .repair n id } (hs c)) s

/-- A flow that goes on by itself stands still once a word of its tracker is uncorrectable (R188). -/
def Node.wedge (x : Node) (t : Option Nat) : Bool := t.any fun t => (x.trkAt t).wedged

/-- End the repairs of a node whose answers have all arrived (R171 steps 4 and 5). -/
def State.repairPoll (s : State) (n : NodeId) : State :=
  ((s.nd n).repairs.filter fun r => r.trk.isSome && r.out == 0 && !(s.nd n).wedge r.trk).foldl (fun s r =>
    let s := s.zeroWay n r.ovf r.key
    let s := s.modNd n fun x => { x with repairs := x.repairs.filter fun q => q.id != r.id }
    let s := s.raise (ndA n ND_SF_ERR) r.finder
    match r.trk with
    | some t => s.freeTrk n t
    | none => s) s

/-- A sector is a candidate of a way in repair at the node (R172). -/
def Node.inRepair (x : Node) (sec : Nat) : Bool := x.repairs.any fun r => r.cands.contains sec

/-! ### Victim choice and eviction (R155 to R165) -/

/-- Read a bank way with its check: a single-bit error is corrected and written back (R170). -/
def State.readWay (s : State) (n : NodeId) (k : Nat) : Word × Bool × State :=
  let e := (s.nd n).entry k
  match (entCheck e).1 with
  | .good => (e, false, s)
  | .uce => (e, true, s)
  | _ =>
    let f := entFix e
    (f, false, (s.modNd n fun x => x.setEntry k f).entCe n)

/-- A search of a bank group for a tag: found at a way, missed, or stopped by a repair. -/
inductive BankRes where
  | hit (k : Nat) (e : Word)
  | miss
  | full
  deriving DecidableEq, Repr

/-- Read a way that is not in repair with its check: a hit with its entry, a miss once it is uncorrectable and its repair has
begun, full while four repairs run at the node (R170 to R172). -/
def State.wayRead (s : State) (n : NodeId) (k finder : Nat) : BankRes × State :=
  let r := s.readWay n k
  if !r.2.1 then (.hit k r.1, r.2.2)
  else if 4 ≤ (s.nd n).repairs.length then (.full, s)
  else (.miss, s.repairStart n false k r.1 (entCheck r.1).2 finder)

/-- Way `w` of an overflow set was read as `e`: `a` is what the ways before it gave (see `State.ovfCheck`). -/
def State.ovfWay (a : Bool × List (Nat × Word) × State) (n : NodeId) (set w : Nat) (e : Word) (lookup : Bool) :
    Bool × List (Nat × Word) × State :=
  let s := a.2.2
  let k := 8 * set + w
  let c := entCheck e
  if (s.nd n).repairs.any fun r => r.ovf && r.key == k then a
  else if c.1 = .uce then
    (if 4 ≤ (s.nd n).repairs.length then (true, a.2.1, s) else (a.1, a.2.1, s.repairStart n true k e c.2 3))
  else
    let s := if eccCe c.1 then (s.ovfPut k (entFix e)).entCe n else s
    let f := entLive (s.nd n).cons (entFix e)
    let s := if f = entFix e ∨ lookup = false then s else (s.ovfCount (entFix e) f).ovfPut k f
    (a.1, a.2.1 ++ [(w, f)], s)

/-- The eight ways of an overflow set in turn. -/
def State.ovfWays (s : State) (n : NodeId) (set : Nat) (data : Line) (lookup : Bool) : Bool × List (Nat × Word) × State :=
  (List.range 8).foldl (fun (a : Bool × List (Nat × Word) × State) w =>
    State.ovfWay a n set w (BitVec.ofNat 64 (bf data (64 * w + 63) (64 * w))) lookup) (false, [], s)

/-- What a read of an overflow set finds (R170, R172, R174): whether an uncorrectable way waits because four repairs run, and
the entries of the ways not in repair. A lookup frees kept-empty entries outside conservative tracking (R178). -/
def State.ovfCheck (s : State) (n : NodeId) (set : Nat) (data : Line) (lookup : Bool) : Bool × List (Nat × Word) × State :=
  let r := s.ovfWays n set data lookup
  (r.1, r.2.1, r.2.2.modNd n fun x => { x with ovfSeen := some (set, (r.2.1.filter fun e => entValid e.2).length) })

/-- A sector for which a way is reserved: by a flow that has the way, or by one that waits for its eviction (R156, R205). -/
def Node.reserved (x : Node) (sec : Nat) : Bool :=
  x.resv.any (fun r => r.2.2 == sec) || x.evicts.any fun v => v.req.isSome && v.want == sec

/-- Ways of a group that are neither reserved nor in repair (R155). -/
def Node.candWays (x : Node) (set : Nat) (ways : List Nat) : List Nat :=
  ways.filter fun w => !x.resv.any (fun r => r.1 == bankKey set w) && !x.repairs.any (fun r => !r.ovf && r.key == bankKey set w)
    && !x.evicts.any (fun e => e.key == bankKey set w)

/-- A way that needs no eviction: invalid; else kept-empty or holding only LOSS bits (R143, R155). -/
def Node.freeWay (x : Node) (set : Nat) (cand : List Nat) : Option Nat :=
  let ent (w : Nat) : Word := entLive x.cons (x.entry (bankKey set w))
  match cand.find? fun w => !entValid (ent w) with
  | some w => some w
  | none => cand.find? fun w => entKept (ent w) || (bf (ent w) 27 20 == 0 && entLoss (ent w))

/-- The victim among full ways, and the ways with their ages raised (R155). -/
def Node.victim (x : Node) (set : Nat) (cand : List Nat) : Nat → Node × Nat
  | 0 => (x, cand.headD 0)
  | k + 1 =>
    let age (w : Nat) : Nat := bf (x.entry (bankKey set w)) 53 52
    let old := cand.filter fun w => age w == 3
    let hasO (w : Nat) : Bool := (List.range 4).any fun n => entLs (x.entry (bankKey set w)) n == 2
    if old ≠ [] then
      (x, match old.find? fun w => !hasO w with | some w => w | none => old.headD 0)
    else
      let x := cand.foldl (fun x w =>
        let e := x.entry (bankKey set w)
        x.setEntry (bankKey set w) (entSeal (setBf e 53 52 (age w + 1)))) x
      x.victim set cand k

/-- Lines of an entry that are not I, as a mask. -/
def entLines (e : Word) : Nat := (List.range 4).foldl (fun v n => if entLs e n = 0 then v else v + 2 ^ n) 0

/-- The recall form of a set of lines (Table 5.7): opcode, BLK, first line, lines covered. -/
def recallForm (m : Nat) (four : Bool) : BitVec 3 × BitVec 2 × Nat × BitVec 4 :=
  if four then (6, 2, 0, 15)
  else if m = 1 ∨ m = 2 ∨ m = 4 ∨ m = 8 then (2, 0, Nat.log2 m, BitVec.ofNat 4 m)
  else if m = 3 then (6, 1, 0, 3)
  else if m = 12 then (6, 1, 2, 12)
  else (6, 2, 0, 15)

/-- The hosts of N(e) with a session open that a snoop counts, for a line that is S or O (R146, R520). -/
def State.holders (s : State) (e : Word) (pla : BitVec 40) : List Nat :=
  s.openHosts.filter fun h => entNames e h && !s.skips h (decide (entSel e ≤ 1)) pla

/-- Put an eviction back with a changed phase. -/
def Node.setEvict (x : Node) (v : Evict) : Node := { x with evicts := x.evicts.map fun o => if o.key = v.key then v else o }

/-- An eviction leaves the overflow directory: the node's next allocation may begin (R164). -/
def Node.allocEnd (x : Node) (v : Evict) : Node :=
  { x with alloc := x.alloc && (match v.phase with | .spillRd | .spillWait | .spillWr _ => false | _ => true) }

/-- An eviction is over: its lines are released and its tracker freed. -/
def State.evictOut (s : State) (n : NodeId) (v : Evict) : State :=
  let s := s.modNd n fun x => { x.allocEnd v with evicts := x.evicts.filter fun o => o.key != v.key }
  match v.trk with
  | some t => s.freeTrk n t
  | none => s

/-- An eviction has freed its way, which passes to the flow that asked (R157 step 3). -/
def State.evictEnd (s : State) (n : NodeId) (v : Evict) : State :=
  let s := s.evictOut n v
  match v.req with
  | some r =>
    if ((s.nd n).trkAt r).v then (s.modNd n fun x => { x with resv := x.resv ++ [(v.key, r, v.want)] }).wake n r
    else s
  | none => s

/-- The way of an eviction has entered repair: the flow that asked looks for a way again (R155, R171). -/
def State.evictDrop (s : State) (n : NodeId) (v : Evict) : State :=
  let s := s.evictOut n v
  match v.req with
  | some r => if ((s.nd n).trkAt r).v then s.modNd n fun x => { x with wayWait := x.wayWait ++ [(r, v.want)] } else s
  | none => s

/-- The snoops of a recall: one to each holder in the form of Table 5.7 (R144, R158). -/
def State.recallSend (s : State) (n : NodeId) (v : Evict) (e : Word) : State :=
  let f := recallForm (entLines e) (s.mode == .evacuate)
  let pla : BitVec 40 := BitVec.ofNat 40 (4 * v.sector + f.2.2.1)
  let hs := if entHolds e then s.holders e pla else []
  let s := s.modNd n fun x => (x.allocEnd v).setEvict { v with phase := .recall }
  match v.trk with
  | none => s
  | some t =>
    let s := (s.updTrk n t 3 fun r => r.setW3 10 0 hs.length).cntN n 0x010 1
    s.sendSnoops n { op := f.1, blk := f.2.1, host := 0, pla := pla, lines := f.2.2.2, own := .flow n t, named := decide (entSel e ≤ 1) } hs

/-- Recall a victim (R158) once its entry has been read (R170). -/
def State.recall (s : State) (n : NodeId) (v : Evict) : State :=
  match s.wayRead n v.key 2 with
  | (.hit _ e, s) => s.recallSend n v (entLive (s.nd n).cons e)
  | (.miss, s) => s.evictDrop n v
  | (.full, s) => s.modNd n fun x => (x.allocEnd v).setEvict { v with phase := .wantLines, noSpill := true }

/-- An eviction that holds its lines begins its spill, or its recall (R157, R164, R165). -/
def State.evictGo (s : State) (n : NodeId) (v : Evict) : State :=
  if !s.bit HA_OVF_CTRL 0 || v.noSpill then s.recall n v
  else if (s.nd n).alloc && v.phase != .spillWait then s.modNd n fun x => x.setEvict { v with phase := .wantAlloc }
  else
    let l := s.ovfLine (s.ovfSet v.sector)
    match s.bmIssue (.spillRd n v.key) false l 0 0 with
    | none => s.modNd n fun x => x.setEvict { v with phase := if v.phase = .spillWait then .spillWait else .wantAlloc }
    | some (_, s) => s.modNd n fun x => ({ x with alloc := true }).setEvict { v with phase := .spillRd }

/-- The entry of a victim as the overflow directory stores it (R163). -/
def State.spillEnt (s : State) (v : Evict) (e : Word) : Word := entSeal (setBf e 19 0 (s.ovfTag v.sector))

/-- The overflow set of a victim was read (R165 steps 3 to 5). An uncorrectable way that waits for a repair to end, or that may
hold the victim's own sector, holds the spill back (R172). -/
def State.spillRead (s : State) (n : NodeId) (v : Evict) (data : Line) (err : BmErr) : State :=
  let set := s.ovfSet v.sector
  if !bmGood err then (s.ovfLost n set).recall n v
  else
    let r := s.ovfCheck n set data false
    let s := r.2.2
    if r.1 || (s.nd n).inRepair v.sector then s.modNd n fun x => x.setEvict { v with phase := .spillWait }
    else
      let same := r.2.1.find? fun e => entValid e.2 && bf e.2 19 0 == s.ovfTag v.sector
      let way := match same with
        | some e => some e.1
        | none => (r.2.1.find? fun e => bf e.2 27 20 == 0).map (·.1)
      match way with
      | none => s.recall n v
      | some w => match s.wayRead n v.key 2 with
        | (.miss, s) => s.evictDrop n v
        | (.full, s) => s.modNd n fun x => x.setEvict { v with phase := .spillWait }
        | (.hit _ e, s) =>
          let s := s.regionSet n v.sector
          let line : Line := BitVec.ofNat 512 ((s.spillEnt v e).toNat * 2 ^ (64 * w))
          match s.bmIssue (.spillWr n v.key) true (s.ovfLine set) (BitVec.ofNat 64 (255 * 2 ^ (8 * w))) line with
          | none => s.recall n v
          | some (_, s) => (s.modNd n fun x => x.setEvict { v with phase := .spillWr w }).cntN n 0x00F 1

/-- The overflow write of a victim ended (R165 steps 5 and 6). -/
def State.spillWritten (s : State) (n : NodeId) (v : Evict) (w : Nat) (err : BmErr) : State :=
  if !bmGood err then s.recall n v
  else
    let k := 8 * s.ovfSet v.sector + w
    let e := s.spillEnt v (entFix ((s.nd n).entry v.key))
    let s := (s.ovfCount (s.ovfAt k) e).ovfPut k e
    (s.modNd n fun x => x.setEntry v.key 0).evictEnd n v

/-! ### Lines that a recall loses (R122, R209) -/

/-- The lines of a recalled entry that a departure lost: recorded O, answered on behalf of the departed host, with no other
host's S or E and no write-back seen (R209). -/
def Trk.lostLines (r : Trk) (e : Word) : List Nat :=
  if r.departed = [] ∨ bf r.w3 12 11 ≠ 0 ∨ r.wbSeen = true then [] else (List.range 4).filter fun k => entLs e k == 2

/-- A word of placement state that the sequencer looks up for a line it has lost: the entry, cached or read (R323). -/
def State.lostEnt (s : State) (n : NodeId) (pla : BitVec 40) : Option Word × State :=
  match s.plcHit n (plaExt pla) with
  | (some e, s) => (some e, s)
  | (none, s) =>
    let r := s.bmLook (s.plcLine (plaExt pla))
    let k := plaExt pla % 8
    (r.1.map fun l => BitVec.ofNat 64 (bf l (64 * k + 63) (64 * k)), r.2)

/-- The media address of a lost line (R213, R323): none, with PLC_FAULT, where its placement faults or cannot be read (R324). -/
def State.lostAddr (s : State) (n : NodeId) (pla : BitVec 40) : Option (BitVec 46) × State :=
  let bad (s : State) : Option (BitVec 46) × State := (none, s.raise HA_XLT_ERR 2)
  match s.lostEnt n pla with
  | (none, s) => bad s
  | (some e, s) =>
    if plcFault e then bad s
    else if !bt e 1 then (some (maddrOf (plcFrame e false) pla), s)
    else match s.bmLook (s.movLine (bf e 45 42) pla) with
      | (none, s) => bad s
      | (some l, s) => (some (maddrOf (plcFrame e (bt l (movBit pla))) pla), s)

/-- Send the POISON write of a lost line, zero data with POISON 1, and its mirror write (Table 4.4, R335): none while a media
port lacks tags. A line without placement has nothing to write. -/
def State.lostWrite (s : State) (n : NodeId) (t : Nat) (pla : BitVec 40) : Option State :=
  match s.lostAddr n pla with
  | (none, s) => some s
  | (some a, s) =>
    let m := s.mpOf a
    let g : Mtag := { own := .flow n t, kind := .wr, maddr := a, poison := true }
    match s.mpIssue m g with
    | none => none
    | some (i, s) => match s.mirrorOf m a with
      | none => some s
      | some src => match s.mpIssue m { g with maddr := src, pair := some i } with
        | none => some s
        | some (j, s) => some (s.setMp m ((s.mpAt m).setTag i (((s.mpAt m).mtag i).map fun g => { g with pair := some j })))

/-- A media write of a flow is outstanding. -/
def State.flowWrites (s : State) (n : NodeId) (t : Nat) : Bool :=
  allMp.any fun m => (s.mpAt m).mtags.any fun g => match g.2 with
    | some g => g.own == .flow n t && g.kind == .wr && !g.orphan
    | none => false

/-- Every answer of a recall is in and its lost lines have their policy: the lines are counted, and the entry is written as
zeros (R158, R422). -/
def State.evictZero (s : State) (n : NodeId) (v : Evict) (h lost : Nat) : State :=
  let s := if lost = 0 then s else s.setSes h { s.ses h with lost := (s.ses h).lost + BitVec.ofNat 32 lost }
  (s.modNd n fun x => x.setEntry v.key 0).evictEnd n v

/-- The answers of a recall are in (R158, R209): the entry is written as zeros, or the departure policy is applied first, once
Chervil has read it (R420 step 1). -/
def State.recallDone (s : State) (n : NodeId) (v : Evict) (t : Nat) (todo : Option (List Nat)) : State :=
  let r := (s.nd n).trkAt t
  match s.wayRead n v.key 2 with
  | (.miss, s) => s.evictDrop n v
  | (.full, s) => s
  | (.hit _ e, s) =>
    let h := r.lostHost
    let lost := r.lostLines (entLive (s.nd n).cons e)
    let ses := s.ses h
    if lost = [] ∨ ses.st ≠ .departing then s.evictZero n v h 0
    else
      let s := if bt r.w3 13 then s else s.updTrk n t 3 fun r => r.setW3 13 13 1
      let put (l : List Nat) (s : State) : State := s.modNd n fun x => x.setEvict { v with phase := .lost l }
      if ses.served = false then put lost s
      else if ses.revert then s.evictZero n v h lost.length
      else
        let w := (todo.getD lost).foldl (fun (a : List Nat × State) k =>
          match a.2.lostWrite n t (BitVec.ofNat 40 (4 * v.sector + k)) with
          | some s => (a.1, s)
          | none => (a.1 ++ [k], a.2)) ([], s)
        if w.1 = [] ∧ w.2.flowWrites n t = false then w.2.evictZero n v h lost.length else put w.1 w.2

/-- Start the eviction of a bank way for flow `req` (R157). -/
def Node.evictNew (x : Node) (key sector : Nat) (req : Option Nat) (noSpill : Bool) (want : Nat) : Node :=
  { x with evicts := x.evicts ++ [{ key := key, sector := sector, req := req, trk := none, phase := .wantTrk, noSpill := noSpill,
                                    want := want }],
           intQ := x.intQ ++ [.evict key] }

/-! ### Letting what waits go on -/

/-- An internal flow that waits takes a freed tracker (R193). -/
def State.intTake (s : State) (n : NodeId) : State :=
  match (s.nd n).intQ with
  | [] => s
  | w :: rest =>
    match w with
    | .talloc sw pla =>
      let k := bf sw 3 0
      let r : Trk := { w0 := BitVec.ofNat 64 (bf sw 6 4 * 2 ^ 5 + pla.toNat * 2 ^ 24),
                       w1 := BitVec.ofNat 64 (bf sw 16 7 * 2 ^ 16 + bf sw 32 17 * 2 ^ 42) }
      match s.takeTrk n k r with
      | none => s
      | some (t, s) =>
        let s := s.modNd n fun x => { x with intQ := rest }
        let s := s.modTrk n t fun r => { r with start := sw }
        s.raiseEvt n (if k = 3 then 0x20 else 0x21) (bf sw 6 4) (some t) sw
    | .evict key =>
      match (s.nd n).evicts.find? fun v => v.key == key with
      | none => s.modNd n fun x => { x with intQ := rest }
      | some v =>
        match s.takeTrk n 2 { w0 := BitVec.ofNat 64 (4 * v.sector * 2 ^ 24) } with
        | none => s
        | some (t, s) =>
          s.modNd n fun x =>
            let x := { x with intQ := rest }
            let x := (List.range 4).foldl (fun x k => x.join (4 * v.sector + k) t) x
            let x := x.setTrk t ((x.trkAt t).setW2 22 22 1)
            x.setEvict { v with trk := some t, phase := .wantLines }
    | .repair id =>
      match s.takeTrk n 5 {} with
      | none => s
      | some (t, s) => (s.modNd n fun x => { x with intQ := rest }).repairGo n id t

/-- Evictions whose condition holds go on: their lines held, the overflow set free, a repair ended, or every answer in. -/
def State.evictPoll (s : State) (n : NodeId) : State :=
  (s.nd n).evicts.foldl (fun s v =>
    match v.trk with
    | none => s
    | some t =>
      if (s.nd n).wedge v.trk then s
      else match v.phase with
      | .wantLines => if (s.nd n).headAll t then s.evictGo n v else s
      | .wantAlloc => if (s.nd n).alloc then s else s.evictGo n v
      | .spillWait => if (s.nd n).inRepair v.sector || decide (4 ≤ (s.nd n).repairs.length) then s else s.evictGo n v
      | .recall => if ((s.nd n).trkAt t).snpOut = 0 ∧ (s.nd n).inRepair v.sector = false then s.recallDone n v t none else s
      | .lost todo => s.recallDone n v t (some todo)
      | _ => s) s

/-- The first flow that waits for a line-buffer entry gets one when one is free, or goes on where it needs none (R18). -/
def State.lbPoll (s : State) (n : NodeId) : State :=
  match (s.nd n).lbWait with
  | [] => s
  | t :: rest =>
    let r := (s.nd n).trkAt t
    let need := (r.isWr || bt (s.pickEntry (.node n) r.evtCode r.cls).word 21) && !r.lbufV
    if r.lbDispatch && need && (s.nd n).freeLb.isNone then s
    else if r.lbDispatch then
      let s := s.modNd n fun x => { (x.setTrk t { r with lbDispatch := false }) with lbWait := rest }
      s.startReq n t
    else
      match (s.nd n).freeLb with
      | none => s
      | some i =>
        (s.modNd n fun x =>
          let x := { x with lbWait := rest }
          let x := x.giveLb t i
          x.setTrk t { x.trkAt t with lbGot := true }).wake n t

/-- SFA for flow `t` (R155), in a group whose ways have been read: 0 when a way is now reserved for it, 1 when it waits for one, 2 when the sector has none. -/
def State.wayFor (s : State) (n : NodeId) (t sec : Nat) : Nat × State :=
  let x := s.nd n
  if x.resv.any fun r => r.2.1 == t then (0, s)
  else if x.evicts.any (fun v => v.req == some t) || x.wayWait.any (fun e => e.1 == t) then (1, s)
  else match s.bankPos n sec with
    | none => (2, s)
    | some p =>
      let cand := x.candWays p.set p.ways
      if cand = [] then (1, s.modNd n fun x => { x with wayWait := x.wayWait ++ [(t, sec)] })
      else match x.freeWay p.set cand with
        | some w =>
          let k := bankKey p.set w
          (0, s.modNd n fun x => { x.setEntry k 0 with resv := x.resv ++ [(k, t, sec)] })
        | none =>
          let v := x.victim p.set cand 4
          let k := bankKey p.set v.2
          let old := s.sectorOf n p.set v.2 (bf (v.1.entry k) 19 0)
          (1, (s.setNd n (v.1.evictNew k old (some t) false sec)).cntN n 0x00E 1)

/-- The way of a group that holds the entry of a sector. -/
def Node.wayOf (x : Node) (p : BankPos) : Option Nat :=
  p.ways.find? fun w => let e := x.entry (bankKey p.set w)
    entValid (entLive x.cons e) && bf e 19 0 == p.tag && !x.repairs.any fun r => !r.ovf && r.key == bankKey p.set w

/-- The ways of a group, read with their checks (R170): an uncorrectable one enters repair, unless four repairs run. -/
def State.groupRead (s : State) (n : NodeId) (p : BankPos) : State :=
  p.ways.foldl (fun s w =>
    let k := bankKey p.set w
    if (s.nd n).repairs.any fun r => !r.ovf && r.key == k then s else (s.wayRead n k 2).2) s

/-- Flows that found no candidate way try again, in arrival order (R155): one whose sector another flow has a way reserved for
waits on, and one whose sector has an entry by now takes its way (R136, log entry 104). -/
def State.wayPoll (s : State) (n : NodeId) : State :=
  (s.nd n).wayWait.foldl (fun s e =>
    let x := s.nd n
    if x.reserved e.2 || x.inRepair e.2 then s
    else match s.bankPos n e.2 with
      | none => s
      | some p =>
        let s := s.groupRead n p
        if (s.nd n).inRepair e.2 then s
        else
          let s := s.modNd n fun x => { x with wayWait := x.wayWait.filter fun q => q != e }
          match ((s.nd n).wayOf p).map (bankKey p.set) with
          | some k => s.modNd n fun x => { x with resv := x.resv ++ [(k, e.1, e.2)] }
          | none => (s.wayFor n e.1 e.2).2) s

/-- A write that waits at its lookup is snooped by a repair and leaves the wait as a write-back (R172). -/
def State.rwb (s : State) (n : NodeId) (t : Option Nat) : Bool :=
  match t with
  | none => false
  | some k =>
    let r := (s.nd n).trkAt k
    r.isWr && s.snpOutTo r.host r.pla fun o => match o with
      | .repair m _ => m == n
      | .flow .. => false

/-- The cause for which an instruction waits has gone. -/
def State.unstalled (s : State) (c : CoreId) (t : Thread) (w : Stall) : Bool :=
  match w, c with
  | .sbFull, _ => decide (t.sb.length < 16)
  | .barrier, _ => t.sb == []
  | .sector sec, .node n => (!(s.nd n).inRepair sec && !(s.nd n).reserved sec) || s.rwb n t.trk
  | .repairs, .node n => decide ((s.nd n).repairs.length < 4)
  | .writeBack pla, .node n => !s.wbPending n pla
  | .router, c => !s.withheld (coreRouter c)
  | _, _ => true

/-- Stalled threads whose instruction may issue again become READY (Table 8.5). -/
def State.readyAll (s : State) (c : CoreId) : State :=
  let x := s.core c
  s.setCore c { x with threads := x.threads.map fun e =>
    match e.2.st, e.2.pend with
    | .stalled, .again w => if s.unstalled c e.2 w then (e.1, { e.2 with st := .ready, pend := .none }) else e
    | _, _ => e }

/-- Start an internal flow with a start word (R242): 0 taken now, 1 waits, 2 refused with the queue of 64 full. -/
def State.tallocGo (s : State) (n : NodeId) (sw : Word) (pla : BitVec 40) : Nat × State :=
  let waiting := ((s.nd n).intQ.filter fun q => match q with
    | .talloc .. => true
    | _ => false).length
  let idle := decide ((s.nd n).intQ = [])
  let s1 := s.modNd n fun y => { y with intQ := y.intQ ++ [.talloc sw pla] }
  let s2 := if idle then s1.intTake n else s1
  if (s2.nd n).intQ = [] then (0, s2)
  else if 64 ≤ waiting then (2, s)
  else (1, s2)

/-! ### Visits (R421) -/

/-- How far a bank position is from the overflow sets in a visit's order. -/
def visitBankEnd : Nat := 131072

/-- A visit goes on to a position. -/
def Node.setVisit (x : Node) (j : Visit) : Node :=
  { x with visits := x.visits.map fun o => if o.host = j.host ∧ o.depart = j.depart then j else o }

/-- An entry that a visit has read: one that names its host and has a line S or O gets a recall flow (R421); false while the
TALLOC queue is full (R193). -/
def State.visitEntry (s : State) (n : NodeId) (h sec : Nat) (e : Word) : Bool × State :=
  if entNames e h && entHolds e then
    let r := s.tallocGo n (BitVec.ofNat 64 (3 + h * 2 ^ 7)) (BitVec.ofNat 40 (4 * sec))
    (r.1 != 2, r.2)
  else (true, s)

/-- A visit takes bank way `k` (R170, R421); false where it must wait. -/
def State.visitWay (s : State) (n : NodeId) (h k : Nat) : Bool × State :=
  if (s.nd n).repairs.any fun r => !r.ovf && r.key == k then (true, s)
  else match s.wayRead n k 2 with
    | (.full, s) => (false, s)
    | (.miss, s) => (true, s)
    | (.hit _ e, s) => s.visitEntry n h (s.sectorOf n (k / 16) (k % 16) (bf e 19 0)) (entLive (s.nd n).cons e)

/-- A visit takes an overflow set (R174, R421): whether it could, whether the set was lost, and the state. A set whose flows
found no place is read again. -/
def State.visitSet (s : State) (n : NodeId) (h set : Nat) : Bool × Bool × State :=
  match s.bmLook (s.ovfLine set) with
  | (none, s) => (true, true, s.ovfLost n set)
  | (some l, s) =>
    let r := s.ovfCheck n set l false
    if r.1 then (false, false, r.2.2)
    else
      let w := r.2.1.foldl (fun (a : Bool × State) e =>
        if a.1 then a.2.visitEntry n h (s.ovfSector set (bf e.2 19 0)) e.2 else a) (true, r.2.2)
      (w.1, false, w.2)

/-- The listed overflow sets of the slots that a node holds, ascending. -/
def State.ovfSetsOf (s : State) (n : NodeId) : List Nat :=
  ((s.ovfEntries.map fun e => e.1 / 8).eraseDups).filter fun set => s.slotNode (set / 2 ^ (s.ovfM - 7)) == n

/-- The overflow sets that list nothing are read too: a read of one may be lost (R174). -/
def State.ovfRest (s : State) (n : NodeId) : Bool × State :=
  match s.bmLook (s.ovfLine 0) with
  | (some _, s) => (false, s)
  | (none, s) => (true, s.ovfGone n)

/-- A visit's bank sets and ways in ascending order, from its position: whether all were visited. -/
def State.visitBanks (s : State) (n : NodeId) (j : Visit) : Bool × Visit × State :=
  (s.nd n).bank.foldl (fun (a : Bool × Visit × State) e =>
    if !a.1 || decide (e.1 < a.2.1.pos) then a
    else
      let r := a.2.2.visitWay n j.host e.1
      (r.1, (if r.1 then { a.2.1 with pos := e.1 + 1 } else a.2.1), r.2)) (true, j, s)

/-- A visit's overflow sets, of the node's slots, from its position: whether all were visited. -/
def State.visitSets (s : State) (n : NodeId) (j : Visit) : Bool × Visit × State :=
  (s.ovfSetsOf n).foldl (fun (a : Bool × Visit × State) set =>
    if !a.1 || decide (visitBankEnd + set < a.2.1.pos) then a
    else
      let r := a.2.2.visitSet n j.host set
      (r.1, (if r.1 then { a.2.1 with pos := visitBankEnd + set + 1, bad := a.2.1.bad || r.2.1 } else a.2.1), r.2.2)) (true, j, s)

/-- One visit goes on as far as it can: the banks, then the overflow sets. -/
def State.visitGo (s : State) (n : NodeId) (j : Visit) : State :=
  let put (j : Visit) (s : State) : State := s.modNd n fun x => x.setVisit j
  let b := s.visitBanks n j
  if !b.1 then put b.2.1 b.2.2
  else
    let j := { b.2.1 with pos := max b.2.1.pos visitBankEnd }
    let s := b.2.2
    if s.bit HA_OVF_CTRL 0 = false ∨ s.fld HA_OVF_COUNT 31 0 = 0 then put { j with done := true } s
    else
      let o := s.visitSets n j
      if !o.1 then put o.2.1 o.2.2
      else
        let r := o.2.2.ovfRest n
        put { o.2.1 with done := true, bad := o.2.1.bad || r.1 } r.2

/-- The visits of a node go on. -/
def State.visitPoll (s : State) (n : NodeId) : State :=
  ((s.nd n).visits.filter fun j => !j.done).foldl (fun s j =>
    if s.mode = .hold ∨ (s.nd n).core.stopped = true then s else s.visitGo n j) s

/-- One round of letting what waits at a node go on. -/
def State.settleRound (s : State) (n : NodeId) : State :=
  ((((((s.intTake n).evictPoll n).repairPoll n).wayPoll n).lbPoll n).visitPoll n).wakeAll n

/-- `k` rounds. -/
def State.settleN (s : State) (n : NodeId) : Nat → State
  | 0 => s
  | k + 1 => (s.settleRound n).settleN n k

/-- Rounds enough for everything that waits at a node to go on as far as it can. -/
def Node.rounds (x : Node) : Nat :=
  x.intQ.length + 4 * x.evicts.length + 2 * x.repairs.length + x.lbWait.length + x.wayWait.length + 2 * x.visits.length

/-- Let everything that waits at a node go on. -/
def State.settle (s : State) (n : NodeId) : State :=
  let k := (s.nd n).rounds
  ((if k = 0 then s.wakeAll n else s.settleN n (k + 4)).readyAll (.node n))

/-- The same at every node that holds anything, with the snoops that wait at the shells and the slots of departed hosts. -/
def State.settleAll (s : State) : State :=
  let s := allHp.foldl (fun s p => if (s.hpAt p).slots = [] ∧ (s.hpAt p).waitSnp = [] then s else (s.waitedSnoops p).goneSlots p) s
  (s.node.map (·.1)).foldl (fun s i => s.settle (Fin.ofNat 32 i)) s

end Sys2Proof.Machine
end

