-- ==== Sys2Proof/Machine/Media.lean ====
section
/-! DEFINITION. Sys2Proof/Machine/Media.lean: hand-off, read data and acknowledgements of media accesses (R90, R91, R203 to
R205, R335), FLUSH in its host port shell (R116, R516), and media failures (R118, Table 14.3). -/

namespace Sys2Proof.Machine

/-- A media port that the straps enable and that is attached. -/
def State.mpOn (s : State) (m : MpId) : Bool := s.mpUse m && (s.mpAt m).att.on

/-- R118: the bit of every attached host port whose selection includes FLUSH is set in HA_LOSS_PEND. -/
def State.lossPend (s : State) : State :=
  s.setRaw HA_LOSS_PEND (allHp.foldl (fun v p =>
    if (s.hpAt p).att.on && bt (s.hpAt p).att.caps 3 then setBt v p.val true else v) (s.raw HA_LOSS_PEND))

/-- Answer a ledger entry with a No-data word already formed. -/
def State.complete (s : State) (r : HpId × Nat × BitVec 64) (dur : Bool) : State :=
  s.answerNdr r.1 r.2.1 (setBt r.2.2 36 dur)

/-- Answer a ledger entry ERR with ERRCODE MEDIA, keeping HOST, TAG and DEVLOAD of a formed word. -/
def State.completeErr (s : State) (r : HpId × Nat × BitVec 64) : State :=
  s.answerNdr r.1 r.2.1 (setBt (setBf (setBf r.2.2 3 0 4) 35 32 5) 36 false)

/-! ### FLUSH in the host port shell (R116, R117, R516) -/

/-- A ledger entry's hand-off is in: no FLUSH of its port waits for it any longer. -/
def HpShell.handed (x : HpShell) (i : Nat) : HpShell :=
  { x with flushes := x.flushes.map fun f => { f with waitFor := f.waitFor.filter (· != i) } }

/-- A noted write or SYNC of a FLUSH has arrived; a failed SYNC fails the FLUSH (R116). -/
def State.flushHit (s : State) (m : MpId) (tag : Nat) (fail : Bool) : State :=
  let s := { s with flushTags := s.flushTags.filter (· != (m.val, tag)) }
  allHp.foldl (fun s p =>
    let x := s.hpAt p
    if x.flushes = [] then s
    else
      let hit (f : FlushSt) : FlushSt :=
        if f.tags.contains (m.val, tag) then { f with tags := f.tags.filter (· != (m.val, tag)), failed := f.failed || fail } else f
      s.setHp p { x with flushes := x.flushes.map hit }) s

/-- Start step 2 of a FLUSH: SYNC at every attached media port that selects it, elsewhere note the outstanding writes. -/
def State.flushSync (s : State) (p : HpId) (f : FlushSt) : State × FlushSt :=
  allMp.foldl (fun a m =>
    let s := a.1
    let f := a.2
    if !s.mpOn m then a
    else if (s.mpAt m).att.ver == 2 && bt (s.mpAt m).att.caps 1 then
      match s.mpIssue m { own := .hostFlush p f.idx, kind := .sync, maddr := 0 } with
      | some (t, s) => (s, { f with tags := f.tags ++ [(m.val, t)] })
      | none => (s, { f with syncs := f.syncs ++ [m.val] })
    else
      let ws := (s.mpAt m).mtags.filterMap fun e => match e.2 with
        | some g => if g.kind = .wr then some (m.val, e.1) else none
        | none => none
      (s, { f with tags := f.tags ++ ws })) (s, { f with started := true, waitFor := [] })

/-- Send the SYNCs of a FLUSH that still wait for an MTAG. -/
def State.flushMore (s : State) (p : HpId) (f : FlushSt) : State × FlushSt :=
  f.syncs.foldl (fun a m =>
    if !a.1.mpOn (Fin.ofNat 8 m) then (a.1, { a.2 with failed := true })
    else match a.1.mpIssue (Fin.ofNat 8 m) { own := .hostFlush p f.idx, kind := .sync, maddr := 0 } with
    | some (t, s) => (s, { a.2 with tags := a.2.tags ++ [(m, t)] })
    | none => (a.1, { a.2 with syncs := a.2.syncs ++ [m] })) (s, { f with syncs := [] })

/-- Answer a FLUSH whose arrivals are all in (R116 step 3, R118). -/
def State.flushAnswer (s : State) (p : HpId) (f : FlushSt) : State :=
  let h := match (s.hpAt p).led f.idx with
    | some e => e.hdr
    | none => 0
  let bad := f.failed || s.bit HA_LOSS_PEND p.val
  let w := if bad then ndrWord 4 (hdrHost h) (hdrTag h) 0 5 0 else ndrWord 0 (hdrHost h) (hdrTag h) 0 0 1
  let s := if bad then s.setFld HA_LOSS_PEND p.val p.val 0 else s
  let s := s.setHp p { s.hpAt p with flushes := (s.hpAt p).flushes.filter fun g => g.idx != f.idx }
  s.answerNdr p f.idx w

/-- Let the FLUSHes of a port go on as far as they can. -/
def State.flushPoll (s : State) (p : HpId) : State :=
  (s.hpAt p).flushes.foldl (fun s f0 =>
    match (s.hpAt p).flushes.find? fun g => g.idx == f0.idx with
    | none => s
    | some f =>
      let live := f.waitFor.filter fun i => match (s.hpAt p).led i with
        | some e => e.st != .answered
        | none => false
      if live ≠ [] then s.setHp p { s.hpAt p with flushes := (s.hpAt p).flushes.map fun g => if g.idx = f.idx then { g with waitFor := live } else g }
      else
        let r := if f.started then s.flushMore p f else s.flushSync p f
        let s := r.1.setHp p { r.1.hpAt p with flushes := (r.1.hpAt p).flushes.map fun g => if g.idx = f.idx then r.2 else g }
        if r.2.tags = [] ∧ r.2.syncs = [] then s.flushAnswer p r.2 else s) s

/-- Let every port's FLUSHes go on. -/
def State.flushAll (s : State) : State := allHp.foldl (fun s p => if (s.hpAt p).flushes = [] then s else s.flushPoll p) s

/-- Acceptance order of ledger entry `i`. -/
def HpShell.seqOf (x : HpShell) (i : Nat) : Nat := match x.led i with
  | some e => e.seq
  | none => 0

/-- A write accepted as number `q`, whose own answer reports its loss, fails: a FLUSH of its port accepted after it is answered
ERR (R118). -/
def HpShell.flushLostAt (x : HpShell) (q : Nat) : HpShell :=
  { x with flushes := x.flushes.map fun f => { f with failed := f.failed || decide (q < x.seqOf f.idx) } }

/-- The same for the write of ledger entry `i`. -/
def HpShell.flushLost (x : HpShell) (i : Nat) : HpShell := x.flushLostAt (x.seqOf i)

/-! ### Hand-off (R30, R49, R191, R203) -/

/-- A write's hand-off frees its store-buffer place (R245). -/
def State.freeSb (s : State) (n : NodeId) (q : Fin 8 × Nat) : State :=
  s.modNd n fun x =>
    let t := x.core.thr q.1.val
    { x with core := x.core.setThr q.1.val { t with sb := t.sb.filter fun b => b.id != q.2 } }

/-- A media request's header (Table 3.13), with MTAG `i`. -/
def Mtag.hdr (g : Mtag) (i : Nat) : BitVec 128 :=
  let opc := match g.kind with
    | .rd => if g.ents.length = 4 then 2 else 0
    | .wr => 1
    | .sync => 3
  BitVec.ofNat 128 (opc + b2n g.poison * 2 ^ 3 + i % 4096 * 2 ^ 4 + g.maddr.toNat * 2 ^ 16)

/-- Hand-off of the request at the head of a media port's queue (R49). -/
def State.handOff (s : State) (m : MpId) : State :=
  let x := s.mpAt m
  match x.reqQ with
  | [] => s
  | i :: rest =>
    let x := { x with reqQ := rest, outSince := if rest = [] then none else some s.tmo }
    match x.mtag i with
    | none => s.setMp m x
    | some g =>
      let g := { g with handed := true, at_ := s.tmo }
      let x := { x with reqOut := some (g.hdr i, if g.kind == MKind.wr then g.data else 0) }
      let s := s.setMp m (x.setTag i (some g))
      if g.kind ≠ .wr then s
      else
        let s := s.cntB (0x120 + m.val) 1
        let other := g.pair.bind fun k => (s.mpAt m).mtag k
        let both := match other with
          | some o => o.handed
          | none => true
        let s := match g.own, g.sb with
          | .flow n _, some q => s.freeSb n q
          | _, _ => s
        if !both then s
        else
          let comp := match g.comp, other with
            | some c, _ => some c
            | none, some o => o.comp
            | none, none => none
          let onack := match g.onack, other with
            | some c, _ => some c
            | none, some o => o.onack
            | none, none => none
          let s := match onack with
            | some c => s.setHp c.1 ((s.hpAt c.1).handed c.2.1)
            | none => s
          let s := match comp with
            | some c => (s.setHp c.1 ((s.hpAt c.1).handed c.2.1)).complete c false
            | none => s
          match g.own with
          | .flow n t => (s.modTrk n t fun r => { r with wbOff := r.wbOff || r.kind == 1 }).settle n
          | _ => s

/-! ### Acknowledgements (R91, R115, R118, R203, R205) -/

/-- A write that fails after its CMP was sent is a loss; one with DHINT 01, whose own answer reports it, fails the FLUSHes of its
port that cover it (R118). -/
def State.writeLoss (s : State) (g : Mtag) (ok : Bool) : State :=
  if ok then s
  else
    let s := match g.dh with
      | some d => s.setHp d.1 ((s.hpAt d.1).flushLostAt d.2)
      | none => s
    if (g.comp.isSome && g.handed) || (g.comp.isNone && g.loss) then s.lossPend else s

/-- The CMP of a write that failed before its hand-off becomes an error (R30, R118). -/
def State.writeComp (s : State) (g : Mtag) (ok : Bool) : State :=
  match g.comp with
  | some c => if !g.handed && !ok then s.completeErr c else s
  | none => s

/-- The response held for DURABLE (R246): it goes out with DURABLE 1, or as an error that FLUSHes after it report (R118). -/
def State.writeAck (s : State) (g : Mtag) (ok : Bool) : State :=
  match g.onack with
  | some c => if ok then s.complete c true else (s.setHp c.1 ((s.hpAt c.1).flushLost c.2.1)).completeErr c
  | none => s

/-- The store-buffer place of a write is freed. -/
def State.writeFree (s : State) (n : NodeId) (g : Mtag) : State :=
  match g.sb with
  | some q => s.freeSb n q
  | none => s

/-- The node's hardware ends a line copy and sends the report: 1 WFAIL, 5 DEAD (R330). -/
def State.copyEnd (s : State) (n : NodeId) (t : Nat) (rep : BitVec 4) : State :=
  let pla := ((s.nd n).trkAt t).pla
  let s := s.freeTrk n t
  { s with hwRep := s.hwRep ++ [(pla, rep)] }.settle n

/-- The flow of a write hears of its end (R203): 0 well, 1 WRITE_FAIL or its limit, 2 discarded or on a port that has failed. A
line copy whose write did not end well ends with it (R330). -/
def State.writeFlow (s : State) (n : NodeId) (t oc : Nat) : State :=
  let r := (s.nd n).trkAt t
  if !r.v then s.raise (ndA n ND_TRK_ERR) 2
  else
    let s := s.updTrk n t 4 fun r => r.setW4 27 27 0
    let s := if oc = 0 then s else s.raise (ndA n ND_TRK_ERR) 3
    if oc ≠ 0 ∧ r.kind = 4 then s.copyEnd n t (if oc = 2 then 5 else 1) else (s.wake n t).settle n

/-- A media write or SYNC has ended with an outcome of `State.writeFlow`; the answer also says who waited for it. -/
def State.writeDone (s : State) (m : MpId) (i oc : Nat) : State × Option MOwner :=
  match (s.mpAt m).mtag i with
  | none => (s, none)
  | some g =>
    let s := (s.setMp m ((s.mpAt m).setTag i none)).flushHit m i (g.kind == .sync && oc != 0)
    let oc := if oc = 0 ∧ g.bad = true then 1 else oc
    let ok := oc == 0
    if g.kind = .sync then ((if ok then s else s.lossPend), none)
    else
      match g.pair.bind fun k => ((s.mpAt m).mtag k).map fun o => (k, o) with
      | some (k, o) =>
        -- The other write of the mirrored pair carries the outcome (R335).
        let comp := if o.comp.isSome then o.comp else g.comp
        let onack := if o.onack.isSome then o.onack else g.onack
        let sb := if o.sb.isSome then o.sb else g.sb
        let o := { o with pair := none, bad := !ok || o.bad, comp := comp, onack := onack, sb := sb }
        (s.setMp m ((s.mpAt m).setTag k (some o)), none)
      | none =>
        let s := s.writeLoss g ok
        if g.orphan then (s, none)
        else
          let s := (s.writeComp g ok).writeAck g ok
          match g.own with
          | .flow n t => ((s.writeFree n g).writeFlow n t oc, some g.own)
          | o => (s, some o)

/-! ### Read data (R91, R203, R237) -/

/-- One line of a media read lands: in the line-buffer entry it names, or discarded where its flow is gone. The answer says
who waited. -/
def State.readLand (s : State) (m : MpId) (i line : Nat) (data : Line) (poison : Bool) : State × Option MOwner :=
  match (s.mpAt m).mtag i with
  | none => (s, none)
  | some g =>
    let left := setBt g.left line false
    let s := s.setMp m ((s.mpAt m).setTag i (if left = 0 then none else some { g with left := left }))
    if g.orphan then (s, none)
    else match g.own with
      | .flow n t =>
        let r := (s.nd n).trkAt t
        if !r.v then (s.raise (ndA n ND_TRK_ERR) 2, some g.own)
        else
          let e := g.ents.getD line 0
          let s := s.modNd n fun x =>
            let b := x.lbAt e
            if b.own = some t then x.setLb e { b with data := data, mask := 0, poison := poison, landed := true, parBad := 0 } else x
          let done := !allMp.any fun k => (s.mpAt k).mtags.any fun q => match q.2 with
            | some q => q.own == .flow n t && q.kind == .rd && !q.orphan
            | none => false
          let s := if done then s.updTrk n t 4 fun r => r.setW4 28 28 0 else s
          ((s.wake n t).settle n, some g.own)
      | o => (s, some o)

/-! ### Failure of a media port (R428) -/

/-- Every read of a failed or dead port lands with POISON 1 (Table 14.3). -/
def State.poisonReads (s : State) (m : MpId) (p : Mtag → Bool) : State × List (MOwner) :=
  (s.mpAt m).mtags.foldl (fun a e => match e.2 with
    | some g =>
      if g.kind = .rd ∧ p g then
        (List.range 4).foldl (fun a k =>
          if bt g.left k then
            let r := a.1.readLand m e.1 k 0 true
            (r.1, a.2 ++ r.2.toList)
          else a) a
      else a
    | none => a) (s, [])

/-- Line copies among the owners of reads that landed so end with DEAD (R330). -/
def State.copyDead (s : State) (l : List MOwner) : State :=
  l.foldl (fun s o => match o with
    | .flow n t => if ((s.nd n).trkAt t).v && ((s.nd n).trkAt t).kind == 4 then s.copyEnd n t 5 else s
    | _ => s) s

/-- The outstanding accesses of a failed media port end as Table 14.3 states; the owners that must hear of it. -/
def State.mpFailAll (s : State) (m : MpId) : State × List MOwner :=
  let s := s.setMp m { s.mpAt m with reqQ := [], outSince := none }
  let r := s.poisonReads m fun _ => true
  let r := (r.1.copyDead r.2, r.2)
  (s.mpAt m).mtags.foldl (fun a e => match e.2 with
    | some g => if g.kind = .rd then a else
      let q := a.1.writeDone m e.1 2
      (q.1, a.2 ++ q.2.toList)
    | none => a) r

end Sys2Proof.Machine
end

