-- ==== Sys2Proof/Machine/Requests.lean ====
section
/-! DEFINITION. Sys2Proof/Machine/Requests.lean: the acceptance of host requests at their port shell: field checks (R73 to
R75), ledger (R41), translation (R308 to R311), and their sending to a home (R192, R361, R409). -/

namespace Sys2Proof.Machine

/-- The channel is ready and the message is accepted (R42). -/
def State.reqReady (s : State) (p : HpId) : Bool :=
  let x := s.hpAt p
  s.mode.serves && s.hpUse p && (match x.att with | .attached .. => true | .detaching .. => true | _ => false)
    && !x.failed && decide (x.ledger.length < 2048)

/-- TAG is in range (R74): the host's session is open on this port, TAG[15:12] is zero and no request of the host with the
same TAG is outstanding. A SESS_OPEN's host has no session; one that is CLOSING or DEPARTING is answered by R423. -/
def State.tagOk (s : State) (p : HpId) (h : BitVec 128) : Bool :=
  let e := s.ses (hdrHost h).toNat
  let sess := if hdrOpc h = 0x10 then e.st != .opn else (e.st == .opn || e.st == .closing) && e.port == p
  sess && decide (bf h 33 30 = 0) && !(s.hpAt p).ledger.any fun x => match x.2 with
    | some l => hdrHost l.hdr == hdrHost h && hdrTag l.hdr == hdrTag h
    | none => false

/-- The opcode is carried by the row's channel at the negotiated version and its capability is selected (Table 3.3). -/
def opcOk (opc : Nat) (ver : Nat) (caps : BitVec 32) : Bool :=
  match opc with
  | 0x00 | 0x01 | 0x02 | 0x10 | 0x11 | 0x18 => true
  | 0x03 => bt caps 1
  | 0x04 => bt caps 2
  | 0x05 => decide (3 ≤ ver) && bt caps 5
  | 0x08 => bt caps 3
  | 0x19 => bt caps 0
  | _ => false

/-- Whether every field check of Table 3.4 passes for a message of the row with opcode `opc`. -/
def State.fieldsOk (s : State) (p : HpId) (opc : Nat) (h : BitVec 128) (be : BitVec 64) : Bool :=
  let att := (s.hpAt p).att
  let o := hdrOpc h
  let wr := o == 0x18 || o == 0x19
  let e := s.ses (hdrHost h).toNat
  let dh := bf h 93 92
  o == opc && opcOk o att.ver.toNat att.caps
    && !(bt h 5 && bf h 7 6 == 1)
    && (if att.ver = 1 then hdrCtx h == 0 else if o = 0x10 then e.st == .closed else if o = 0x08 then hdrCtx h == 0 else hdrCtx h == e.ctx)
    && decide (bf h 55 50 = 0) && (!(o == 0x08 || o == 0x10 || o == 0x11) || decide (hdrCaddr h = 0))
    && (decide (dh = 0) || (bt att.caps 6 && wr && decide (dh = 1)))
    && (if o = 0x18 then be == BitVec.allOnes 64 else if o = 0x19 then be != BitVec.allOnes 64 && be != 0 else true)
    && decide (bf h 127 94 = 0) && (att.ver != 1 || o != 0x10 || e.st == .closed)

/-- A write of a CLOSING host runs when an outstanding snoop slot of the host covers it (R418). -/
def HpShell.coveredWr (x : HpShell) (h : BitVec 128) : Bool :=
  (hdrOpc h == 0x18 || hdrOpc h == 0x19) && x.slots.any fun e => match e.2 with
    | some sl => sl.sn.host == hdrHost h && bf sl.caddr 41 8 == bf (hdrCaddr h) 41 8 && bt sl.sn.lines (bf (hdrCaddr h) 7 6)
        && (match sl.st with | .quar _ => false | _ => true)
    | none => false

/-- The error FIELD of a request that has no ledger entry (R74, R77). -/
def State.fieldAnswer (s : State) (p : HpId) (h : BitVec 128) : State :=
  let x := s.hpAt p
  if hdrOpc h ≤ 1 then s.setHp p (x.pushDrs s.tmo (drsWord 1 (hdrHost h) (hdrTag h) 0 0 1) 0 false none)
  else s.setHp p (x.pushNdr s.tmo (ndrWord 4 (hdrHost h) (hdrTag h) 0 1 0) none)

/-- Some replayed entry has not yet reached a chain or been answered RETRY (R409 step 5). -/
def State.replaying (s : State) : Bool :=
  allHp.any fun p => (s.hpAt p).ledger.any fun e => match e.2 with
    | some l => l.replay && (match l.st with | .blocked | .walk | .ready | .sent _ => true | _ => false)
    | none => false

/-- Replace the state of a ledger entry. -/
def State.setLedSt (s : State) (p : HpId) (i : Nat) (f : LedEnt → LedEnt) : State :=
  match (s.hpAt p).led i with
  | some e => s.setHp p ((s.hpAt p).setLed i (some (f e)))
  | none => s

/-- Insert a held entry in acceptance order (R192). -/
def HpShell.hold (x : HpShell) (a : NodeId × Nat) : List (NodeId × Nat) → List (NodeId × Nat)
  | [] => [a]
  | b :: l =>
    let q (i : Nat) : Nat := match x.led i with
      | some e => e.seq
      | none => 0
    if q a.2 ≤ q b.2 then a :: b :: l else b :: x.hold a l

/-- The write-back test of R362 reads the ledger entry of a write (R438). -/
def State.testRead (s : State) (p : HpId) (i : Nat) : State :=
  match (s.hpAt p).led i with
  | some e => if hdrOpc e.hdr = 0x18 ∨ hdrOpc e.hdr = 0x19 then s.answer p i fun s => s else s
  | none => s

/-- Send a translated request to its home, or hold it: behind RETRY in acceptance order (R192, R380), behind quench (R361), behind
an epoch change (R365), behind replay (R409), or for want of a credit (R358).
A write that a snoop to its host covers and a BI_CONFLICT are not held behind RETRY. -/
def State.inject (s0 : State) (p : HpId) (i : Nat) : State :=
  let s := s0.testRead p i
  match (s.hpAt p).led i with
  | none => s
  | some e =>
    let n := s.home e.pla
    let o := hdrOpc e.hdr
    let wr := o == 0x18 || o == 0x19
    let free := o == 5 || (wr && s.snpOutTo (hdrHost e.hdr) e.pla fun _ => true)
    if e.st = .answered then s
    else if s.withheld (2 * p.val) || (!e.replay && (s.replaying || (s.quenchHolds n && !(wr && free)))) then
      s.setLedSt p i fun e => { e with st := .ready }
    else if !free && !e.replay && (s.hpAt p).retry.any (fun r => r.1 == n) then
      let s := s.setLedSt p i fun e => { e with st := .retried n false }
      s.setHp p { s.hpAt p with retry := (s.hpAt p).hold (n, i) (s.hpAt p).retry }
    else if !s.reqCredit p n then s.setLedSt p i fun e => { e with st := .ready }
    else s.setLedSt p i fun e => { e with st := .sent n }

/-- Insert by first component, rising. -/
def insByFst (a : Nat × Nat) : List (Nat × Nat) → List (Nat × Nat)
  | [] => [a]
  | b :: l => if a.1 ≤ b.1 then a :: b :: l else b :: insByFst a l

/-- The entries of a shell that pass, in acceptance order. -/
def HpShell.order (x : HpShell) (p : LedEnt → Bool) : List Nat :=
  ((x.ledger.filterMap fun e => match e.2 with
    | some l => if p l then some (l.seq, e.1) else none
    | none => none).foldr insByFst []).map (·.2)

/-- Send the held, translated requests of every port that may go (R361, R409). -/
def State.injectAll (s : State) : State :=
  allHp.foldl (fun s p => ((s.hpAt p).order fun l => l.st == .ready).foldl (fun s i => s.inject p i) s) s

/-- An earlier request of the port to the same context extent still translates (R309). -/
def HpShell.sameExt (x : HpShell) (e : LedEnt) : Bool :=
  x.ledger.any fun o => match o.2 with
    | some l => (l.st == .walk || l.st == .blocked) && decide (l.seq < e.seq) && hdrCtx l.hdr == hdrCtx e.hdr
        && cidxOf (hdrCaddr l.hdr) == cidxOf (hdrCaddr e.hdr)
    | none => false

/-- The translation of an entry is known: PLA and class are kept, and it is sent. -/
def State.xlated (s : State) (p : HpId) (i : Nat) (x : Xlat) : State :=
  (s.setLedSt p i fun e => { e with pla := x.pla (hdrCaddr e.hdr), cls := x.cls }).inject p i

/-- Translate an entry from the caches, or begin a walk, or wait (R308, R309). -/
def State.translate (s : State) (p : HpId) (i : Nat) : State :=
  match (s.hpAt p).led i with
  | none => s
  | some e =>
    if (s.hpAt p).sameExt e then s.setLedSt p i fun e => { e with st := .blocked }
    else
      match s.xlateLook p (hdrCtx e.hdr) (cidxOf (hdrCaddr e.hdr)) with
      | (some x, s) => s.xlated p i x
      | (none, s) =>
        let walks := ((s.hpAt p).ledger.filter fun o => match o.2 with
          | some l => l.st == .walk
          | none => false).length
        s.setLedSt p i fun e => { e with st := if walks < 8 then .walk else .blocked }

/-- Requests that wait behind a walk try again, in acceptance order (R309). -/
def State.unblock (s : State) (p : HpId) : State :=
  ((s.hpAt p).order fun l => l.st == .blocked).foldl (fun s i => s.translate p i) s

/-- The ledger tag: port, attach epoch and timestamp (R41, log entry 11). -/
def State.ledTag (s : State) (p : HpId) : BitVec 64 :=
  BitVec.ofNat 64 (s.time.toNat + (s.hpAt p).attEpoch.toNat * 2 ^ 48 + p.val * 2 ^ 60)

/-- Write the ledger entry of an accepted request: its index and the state. -/
def State.ledPut (s : State) (p : HpId) (h : BitVec 128) (data : Line) (be : BitVec 64) (poison : Bool) (st : LedSt) : Nat × State :=
  let x := s.hpAt p
  let i := (firstFrom (fun i => (x.led i).isNone) 2048 0).getD 0
  let h := if x.att.ver = 1 ∧ hdrOpc h ≠ 0x08 then setBf h 49 34 x.v1ctx.toNat else h
  let e : LedEnt := { hdr := h, data := data, be := be, poison := poison, tag := s.ledTag p, st := st, seq := x.accN }
  let syn := smFilter (fun g => g / 12 != i) x.syn
  (i, s.setHp p (HpShell.setLed { x with accN := x.accN + 1, syn := syn } i (some e)))

/-- Writes of a port accepted so far and not yet handed off (R116 step 1). -/
def State.unhanded (s : State) (p : HpId) : List Nat :=
  (s.hpAt p).ledger.filterMap fun e => match e.2 with
    | some l =>
      let wr := hdrOpc l.hdr == 0x18 || hdrOpc l.hdr == 0x19
      let gone := allMp.any fun m => (s.mpAt m).mtags.any fun g => match g.2 with
        | some g => g.handed && !g.orphan && (match g.onack with | some c => c.1 == p && c.2.1 == e.1 | none => false)
        | none => false
      if wr && l.st != .answered && !gone then some e.1 else none
    | none => none

/-- What an accepted request does once it has its ledger entry. -/
def State.begin_ (s : State) (p : HpId) (h : BitVec 128) (data : Line) (be : BitVec 64) (poison : Bool) : State :=
  let o := hdrOpc h
  if o = 0x10 ∨ o = 0x11 then
    let tag := s.ledTag p
    let r := s.ledPut p h data be poison .session
    r.2.chvEvent 0x51 (tag.toNat % 2 ^ 40 + p.val * 2 ^ 40)
  else if o = 0x08 then
    let w := s.unhanded p
    let r := s.ledPut p h data be poison .flushing
    (r.2.setHp p { r.2.hpAt p with flushes := (r.2.hpAt p).flushes ++ [{ idx := r.1, waitFor := w }] }).flushPoll p
  else
    let r := s.ledPut p h data be poison .blocked
    r.2.translate p r.1

/-- A request message of the row with opcode `opc` at host port `p` (R38, R41, R74, R75, R418). -/
def State.accept (s : State) (p : HpId) (opc : Nat) (h : BitVec 128) (data : Line) (be : BitVec 64) (poison : Bool) : State :=
  if !s.reqReady p then s
  else s.survThen (·.sesRead (hdrHost h).toNat) fun s =>
    let s := (s.cntB 0x101 1).cntB (0x110 + p.val) 1
    if !s.tagOk p h then s.raise (HA_HP_STAT + 4 * p.val) 7
    else if !s.fieldsOk p opc h be then (s.raise (HA_HP_STAT + 4 * p.val) 7).fieldAnswer p h
    else if (s.ses (hdrHost h).toNat).st = .closing ∧ (s.hpAt p).coveredWr h = false then s.fieldAnswer p h
    else s.begin_ p h data be poison

/-- `MEM_RD` (R98). -/
def execMemRd (p : HpId) (hdr : BitVec 128) (s : State) : Out := .next (s.accept p 0x00 hdr 0 0 false)
/-- `MEM_RD_DATA` (R98). -/
def execMemRdData (p : HpId) (hdr : BitVec 128) (s : State) : Out := .next (s.accept p 0x01 hdr 0 0 false)
/-- `MEM_INV` (R98). -/
def execMemInv (p : HpId) (hdr : BitVec 128) (s : State) : Out := .next (s.accept p 0x02 hdr 0 0 false)
/-- `MEM_INV_NT` (R99). -/
def execMemInvNt (p : HpId) (hdr : BitVec 128) (s : State) : Out := .next (s.accept p 0x03 hdr 0 0 false)
/-- `MEM_CLN_EVCT` (R98). -/
def execMemClnEvct (p : HpId) (hdr : BitVec 128) (s : State) : Out := .next (s.accept p 0x04 hdr 0 0 false)
/-- `MEM_WR` (R98). -/
def execMemWr (p : HpId) (hdr : BitVec 128) (data : Line) (be : BitVec 64) (poison : Bool) (s : State) : Out :=
  .next (s.accept p 0x18 hdr data be poison)
/-- `MEM_WR_PTL` (R30). -/
def execMemWrPtl (p : HpId) (hdr : BitVec 128) (data : Line) (be : BitVec 64) (poison : Bool) (s : State) : Out :=
  .next (s.accept p 0x19 hdr data be poison)
/-- `BI_CONFLICT` (R197). -/
def execBiConflict (p : HpId) (hdr : BitVec 128) (s : State) : Out := .next (s.accept p 0x05 hdr 0 0 false)
/-- `FLUSH` (R116). -/
def execHostFlush (p : HpId) (hdr : BitVec 128) (s : State) : Out := .next (s.accept p 0x08 hdr 0 0 false)
/-- `SESS_OPEN` (R417, R423). -/
def execSessOpen (p : HpId) (hdr : BitVec 128) (s : State) : Out := .next (s.accept p 0x10 hdr 0 0 false)
/-- `SESS_CLOSE` (R418). -/
def execSessClose (p : HpId) (hdr : BitVec 128) (s : State) : Out := .next (s.accept p 0x11 hdr 0 0 false)

/-- A walk has ended (R308, R311). -/
def State.walkDone (s : State) (p : HpId) (i : Nat) (err : BmErr) : State :=
  match (s.hpAt p).led i with
  | some e =>
    if e.st ≠ .walk then s
    else
      let ctx := hdrCtx e.hdr
      let cidx := cidxOf (hdrCaddr e.hdr)
      match s.walk ctx cidx err with
      | .ok x => ((((s.bmErrs err).cntB 0x107 (s.walkLines ctx cidx)).xlateFill p ctx cidx x).xlated p i x).unblock p
      | w => (((s.walkErrs w).cntB 0x107 (s.walkLines ctx cidx)).answerErr p i 2 0).unblock p
  | none => s

/-- `TRANSLATION_WALK_DONE` (R308, R311). -/
def execTranslationWalkDone (p : HpId) (idx : Fin 2048) (err : BmErr) (s : State) : Out := .next (s.walkDone p idx.val err)

end Sys2Proof.Machine
end

