-- ==== Sys2Proof/Machine/Sessions.lean ====
section
/-! DEFINITION. Sys2Proof/Machine/Sessions.lean: management inboxes (R256), the visits of sessions that close or depart
(R418 to R421), the end of a session and of an orderly detach (R419), and what Chervil does for SESS_OPEN, SESS_CLOSE and
a departure (R417, R418, R420). -/

namespace Sys2Proof.Machine

/-! ### Inboxes (R256) -/

/-- Slots of a core's inbox. -/
def inboxSize : CoreId → Nat
  | .node _ => 16
  | .chervil => 64

/-- Offset of inbox slot `k`: local scratch of an engine, data RAM of Chervil (Table 8.2). -/
def inboxAddr : CoreId → Nat → Nat
  | .node _, k => 0x7C00 + 64 * k
  | .chervil, k => 0x1F000 + 64 * k

/-- The lowest free inbox slot. -/
def Core.inboxFree (c : Core) (n : Nat) : Option Nat := (List.range n).find? fun k => !c.inbox.contains k

/-- The sender code of f7 (Table 8.2). -/
def senderCode : CoreId → Nat
  | .node n => n.val
  | .chervil => 0x3F

/-- Deliver a message into a free inbox slot and raise EVT 0x30; none when every slot is full (R256, R359). -/
def State.inboxPut (s : State) (c : CoreId) (sender : Nat) (msg : Line) : Option State :=
  let x := s.core c
  match x.inboxFree (inboxSize c) with
  | none => none
  | some k =>
    let a := inboxAddr c k
    let e : Evt := { evt := 0x30, cls := 0, trk := none, datum := BitVec.ofNat 64 (a + sender * 2 ^ 17), inbox := some k }
    let ram := memWriteBe x.ram a msg (BitVec.allOnes 64) 64
    let syn := smFilter (fun g => decide (g < a / 8) || decide (a / 8 + 8 ≤ g)) x.ramSyn
    some (s.setCore c { x with ram := ram, ramSyn := syn, inbox := x.inbox ++ [k], events := x.events ++ [e] })

/-! ### Sessions -/

/-- Change the session entry of host `h`. -/
def State.modSes (s : State) (h : Nat) (f : Session → Session) : State := s.setSes h (f (s.ses h))

/-- The VISIT message of host `h` (Table 14.2). -/
def visitMsg (h : Nat) (depart : Bool) : Line := BitVec.ofNat 512 (0xC3 + h * 2 ^ 8 + b2n depart * 2 ^ 18)

/-- Firmware of Chervil runs: its threads are released and the mode is one in which sessions are served or end. -/
def State.chvRuns (s : State) : Bool :=
  !s.chv.stopped && (s.mode == .standby || s.mode == .service || s.mode == .degraded || s.mode == .evacuate)

/-- Host `h` has an accepted request that is not complete, the SESS_CLOSE apart (R418 step 2, R420 step 3). -/
def State.hostBusy (s : State) (h : Nat) : Bool :=
  let e := s.ses h
  (s.hpAt e.port).ledger.any fun o => match o.2 with
    | some l => (hdrHost l.hdr).toNat == h && l.st != .answered && l.st != .session
    | none => false

/-- Host `h` has a snoop slot that is not answered, or a snoop that waits for a slot. -/
def State.hostSnooped (s : State) (h : Nat) : Bool :=
  let x := s.hpAt (s.ses h).port
  x.waitSnp.any (fun q => q.host.toNat == h) || x.slots.any fun o => match o.2 with
    | some sl => sl.sn.host.toNat == h && (match sl.st with | .quar _ => false | _ => true)
    | none => false

/-- A host port leaves the attached state (R419): VER and LEGACY_PORTS fall, its LOSS_PEND bit clears (R135), and the end
of conservative tracking is checked where the port was a legacy port (R178). -/
def State.leaveAtt (s : State) (p : HpId) : State :=
  let was := (s.hpAt p).att.on && (s.hpAt p).legacy
  let s := (s.setHp p { s.hpAt p with att := .idle, legacy := false }).setFld HA_LOSS_PEND p.val p.val 0
  if was then s.consCheck else s

/-- A detaching port whose sessions have all closed leaves the attached state; a session that opened meanwhile is closed
like the others (R419). -/
def State.detachPoll (s : State) (p : HpId) : State :=
  match (s.hpAt p).att with
  | .detaching .. =>
    let mine := s.sess.filter fun e => e.2.port == p && e.2.st != .closed
    if mine = [] then (if (s.hpAt p).ledger.any (fun o => match o.2 with | some l => l.st == .session | none => false) then s else s.leaveAtt p)
    else mine.foldl (fun s e => if e.2.st = .opn then
      s.modSes e.1 fun x => { x with st := .closing, closeIdx := none, visits := 0, todo := 0, visitSent := false } else s) s
  | _ => s

/-- Retire the session messages of a host whose departure has ended. -/
def HpShell.dropSess (x : HpShell) (h : Nat) : HpShell :=
  { x with ledger := x.ledger.filter fun o => match o.2 with
    | some l => !((hdrHost l.hdr).toNat == h && l.st == .session)
    | none => false }

/-- Every node has reported: the session ends (R418 step 4, R420 step 4). -/
def State.sessEnd (s : State) (h : Nat) : State :=
  let e := s.ses h
  let s0 := s.modSes h fun x => { x with st := .closed, closeIdx := none, visits := 0, todo := 0, visitSent := false, served := false, legacy := false }
  let s1 := match e.st with
    | .departing =>
      (s0.record 0x02 3 (h + e.ctx.toNat * 2 ^ 16 + b2n e.revert * 2 ^ 32 + e.lost.toNat * 2 ^ 64)).setHp e.port
        ((s.hpAt e.port).dropSess h)
    | _ => match e.closeIdx with
      | some i => match (s.hpAt e.port).led i with
        | some l => s0.answerNdr e.port i (ndrWord 5 (hdrHost l.hdr) (hdrTag l.hdr) 0 0 0)
        | none => s0
      | none => s0
  (if e.legacy then s1.consCheck else s1).detachPoll e.port

/-- Send the VISIT messages of host `h` that have yet to be delivered (R421). -/
def State.visitSend (s : State) (h : Nat) : State :=
  allNodes.foldl (fun s n =>
    let e := s.ses h
    if bt e.todo n.val then
      match s.inboxPut (.node n) 0x3F (visitMsg h (e.st == .departing)) with
      | some s => s.modSes h fun x => { x with todo := setBt x.todo n.val false }
      | none => s
    else s) s

/-- A session that closes or departs goes on: its visit starts once its requests and snoops are done, and it ends once every
node has reported. -/
def State.sessPoll (s : State) (h : Nat) : State :=
  let e := s.ses h
  let ready := match e.st with
    | .closing => !s.hostBusy h
    | .departing => e.served && !s.hostBusy h && !s.hostSnooped h
    | _ => false
  if !s.chvRuns || !ready then s
  else if e.visitSent then (if e.visits = 0 then s.sessEnd h else s.visitSend h)
  else
    let m : BitVec 32 := allNodes.foldl (fun v n => if s.live n then setBt v n.val true else v) 0
    let s := s.modSes h fun x => { x with visitSent := true, visits := m, todo := m }
    if m = 0 then s.sessEnd h else s.visitSend h

/-! ### What Chervil does for a session event -/

/-- Chervil begins to serve a session message. -/
def State.sessTake (s : State) (p : HpId) (i : Nat) (l : LedEnt) : State :=
  s.setHp p ((s.hpAt p).setLed i (some { l with taken := true }))

/-- Chervil serves the SESS_OPEN in ledger entry `i` of port `p` (R417); `err` is how the read of the context entry ended. -/
def State.sessOpen (s : State) (p : HpId) (i : Nat) (l : LedEnt) (err : BmErr) : State :=
  let h := (hdrHost l.hdr).toNat
  let ctx := hdrCtx l.hdr
  if (s.ses h).st ≠ .closed then s.answerErr p i 1 0
  else if !s.ctxIn ctx then ((s.bmErrs .address).raise HA_XLT_ERR 0).answerErr p i 2 0
  else if !bmGood err then ((s.bmErrs err).raise HA_XLT_ERR 0).answerErr p i 2 0
  else
    let s := s.bmErrs err
    if !bt (s.ctxWord ctx 0) 0 then s.answerErr p i 2 0
    else
      let e : Session := { st := .opn, port := p, ctx := ctx, legacy := (s.hpAt p).legacy, lost := 0 }
      (s.setSes h e).answerNdr p i (ndrWord 5 (hdrHost l.hdr) (hdrTag l.hdr) 0 0 0)

/-- Chervil serves the SESS_CLOSE in ledger entry `i` of port `p` (R418 step 1). A session that a detach has closed by then
has nothing left to close (log entry 109); one that already closes for an earlier SESS_CLOSE answers FIELD, as every request of its
host then is. -/
def State.sessClose (s : State) (p : HpId) (i : Nat) (l : LedEnt) : State :=
  let h := (hdrHost l.hdr).toNat
  if (s.ses h).st = .closed ∨ (s.ses h).port ≠ p then s.answerNdr p i (ndrWord 5 (hdrHost l.hdr) (hdrTag l.hdr) 0 0 0)
  else if (s.ses h).st = .departing then s
  else if (s.ses h).st = .closing then
    (if (s.ses h).closeIdx.isSome then s.answerErr p i 1 0 else s.modSes h fun x => { x with closeIdx := some i })
  else s.modSes h fun x => { x with st := .closing, closeIdx := some i, visits := 0, todo := 0, visitSent := false }

/-- Chervil serves the session message whose event datum names its ledger tag (R417, R418). -/
def State.sessServe (s : State) (datum : Nat) (err : BmErr) : State :=
  let p : HpId := Fin.ofNat 16 (datum / 2 ^ 40)
  match (s.hpAt p).ledger.find? fun o => match o.2 with
      | some l => l.st == .session && !l.taken && l.tag.toNat % 2 ^ 40 == datum % 2 ^ 40
      | none => false with
  | some (i, some l) =>
    if l.gone then s.setHp p ((s.hpAt p).setLed i none)
    else (s.sessTake p i l).survThen (·.sesRead (hdrHost l.hdr).toNat) fun s =>
      if hdrOpc l.hdr = 0x10 then s.sessOpen p i l err else s.sessClose p i l
  | _ => s

/-- Chervil serves the departure of host `h`: the policy is read from the context entry (R420 step 1). -/
def State.departServe (s : State) (h : Nat) (err : BmErr) : State :=
  let e := s.ses h
  if e.st ≠ .departing then s
  else if !s.ctxIn e.ctx || !bmGood err then
    let err := if s.ctxIn e.ctx then err else .address
    ((s.bmErrs err).raise HA_XLT_ERR 0).modSes h fun x => { x with revert := false, served := true }
  else (s.bmErrs err).modSes h fun x => { x with revert := bt (s.ctxWord x.ctx 0) 4, served := true }

/-- Chervil serves a session event that a thread has taken. -/
def State.chvServe (s : State) (e : Nat × Nat × BmErr) : State :=
  if e.1 = 0x51 then s.sessServe e.2.1 e.2.2
  else s.survThen (·.sesRead (e.2.1 % 1024)) (·.departServe (e.2.1 % 1024) e.2.2)

/-- The session events that firmware has taken are served, in order, while it runs in a mode that serves them: a hold window only
lengthens the time (R417). -/
def State.chvPoll (s : State) : State :=
  if s.chvRuns then s.chvTodo.foldl State.chvServe { s with chvTodo := [] } else s

/-- Every session that closes or departs, in ascending host order. -/
def State.sessAll (s : State) : State :=
  let s := s.chvPoll
  let s := s.sess.foldl (fun s e => s.sessPoll e.1) s
  allHp.foldl (fun s p => s.detachPoll p) s

/-- A node reports the end of its visit (R421), which is then over: the flows it started must have ended. -/
def State.visitEnd (s : State) (n : NodeId) (h : Nat) (dep : Bool) : State :=
  let e := s.ses h
  let x := s.nd n
  let flow := x.trk.any (fun o => o.2.v && o.2.kind == 3 && o.2.host.toNat == h) || x.intQ.any fun q => match q with
    | .talloc w _ => bf w 3 0 == 3 && bf w 16 7 == h
    | _ => false
  let lost := x.evicts.any fun v => match v.phase, v.trk with
    | .lost _, some t => (x.trkAt t).lostHost == h
    | _, _ => false
  let waits := x.core.inbox.any fun k =>
    let v := memRead x.core.ram (inboxAddr (.node n) k) 3
    v % 256 == 0xC3 && v / 256 % 1024 == h
  if flow || lost || waits then s
  else
    let s := s.modNd n fun x => { x with visits := x.visits.filter fun o => !(o.host == h && o.depart == dep) }
    if e.visitSent && bt e.visits n.val && !bt e.todo n.val && (e.st == .departing) == dep then
      s.modSes h fun y => { y with visits := setBt y.visits n.val false }
    else s

end Sys2Proof.Machine
end

