-- ==== Sys2Proof/Machine/Dma.lean ====
section
/-! DEFINITION. Sys2Proof/Machine/Dma.lean: the DMA channels: descriptors (R326), scheduling (R332), units and reports (R327
to R331), faults (R333), migration with its placement writes and checkpoints (R325, R334 to R339), BULK (R342), JOURNAL and
META_READ (R343). -/

namespace Sys2Proof.Machine

/-- Address of register `k` (0 DESC, 1 CTRL, 2 STAT, 3 PROG) of channel `c` (Table 10.18). -/
def chA (c : ChanId) (k : Nat) : Nat :=
  if c.val < 12 then HA_DMA_CH_DESC + 16 * c.val + 4 * k else HA_DMA_CHX_DESC + 16 * (c.val - 12) + 4 * k

/-- All channels. -/
def allCh : List ChanId := List.finRange 16
/-- The unit after the last. -/
def Chan.last (x : Chan) : Nat := x.start + x.count
/-- The unit numbers that stand for the placement write and the checkpoint write of a channel. -/
def uPlace : Nat := 2 ^ 33
/-- The checkpoint write. -/
def uCkpt : Nat := 2 ^ 33 + 1

/-- Change channel `c`. -/
def State.modCh (s : State) (c : ChanId) (f : Chan → Chan) : State := s.setCh c (f (s.ch c))

/-- A media access of channel `c` under unit number `u` is outstanding. -/
def State.dmaOut (s : State) (c : ChanId) (u : Nat) : Bool :=
  allMp.any fun m => (s.mpAt m).mtags.any fun e => match e.2 with
    | some g => g.own == .dma c u && !g.orphan
    | none => false

/-- Nothing of the channel is outstanding. -/
def State.dmaQuiet (s : State) (c : ChanId) : Bool :=
  (s.ch c).out == [] && (s.ch c).busy == [] && !s.dmaOut c uPlace && !s.dmaOut c uCkpt

/-- Write SAVED and SAVED_V into the descriptor (R331). -/
def State.dmaSave (s : State) (c : ChanId) : State :=
  let x := s.ch c
  if s.bmIn x.desc.toNat then { s with bmem := memWrite s.bmem (64 * x.desc.toNat + 56) (x.prog % 2 ^ 32 + 2 ^ 32) 8 } else s

/-- The channel halts (R333); cause 10 is STOP, which is no fault. -/
def State.dmaHalt (s : State) (c : ChanId) (cause : Nat) : State :=
  let s := s.modCh c fun x => { x with st := .halted, cause := BitVec.ofNat 4 cause, out := [], busy := [], nak := [], fault := none, stop := false, preempt := false }
  let s := s.dmaSave c
  let s := if cause = 10 then s
    else (s.raiseK HA_XLT_ERR 7 true).record 0x05 3 (c.val + cause * 2 ^ 8 + (s.ch c).prog % 2 ^ 32 * 2 ^ 32)
  s.chvEvent 0x55 (c.val + 3 * 16)

/-- A unit meets a fault: the first by unit order is kept (R333). -/
def State.dmaFault (s : State) (c : ChanId) (u cause : Nat) : State :=
  s.modCh c fun x =>
    let f := match x.fault with
      | some (v, k) => if v ≤ u then (v, k) else (u, BitVec.ofNat 4 cause)
      | none => (u, BitVec.ofNat 4 cause)
    { x with fault := some f, out := x.out.filter (fun o => o.1 != u), busy := x.busy.filter (fun o => o.1 != u), nak := x.nak.filter fun o => o.1 != u }

/-- PROG passes the units that are complete (R331). -/
def Chan.advance (x : Chan) : Nat → Chan
  | 0 => x
  | k + 1 =>
    if x.doneL.contains x.prog then Chan.advance { x with prog := x.prog + 1, doneL := x.doneL.filter (· != x.prog) } k else x

/-- A unit is complete: PROG advances, and SAVED is written at multiples of 4,096 (R331, R337). -/
def State.dmaUnit (s : State) (c : ChanId) (u : Nat) : State :=
  let old := (s.ch c).prog
  let s := s.cntB 0x10C 1
  let s := s.modCh c fun x =>
    let x := { x with out := x.out.filter (fun o => o.1 != u), busy := x.busy.filter (fun o => o.1 != u), doneL := x.doneL ++ [u] }
    x.advance x.doneL.length
  let x := s.ch c
  if x.op = 1 ∨ old / 4096 = x.prog / 4096 then s else s.dmaSave c

/-! ### Descriptors (R326) -/

/-- The requirements of Tables 10.6 and 10.7 on a descriptor, by word. -/
def descOk (w : Nat → Word) : Bool :=
  let op := bf (w 0) 3 0
  let start := bf (w 4) 31 0
  let count := bf (w 5) 31 0
  decide (op ≤ 5) && decide (bf (w 0) 63 8 = 0) && decide (w 6 = 0) && decide (bf (w 7) 63 33 = 0) && decide (1 ≤ count)
    && (!bt (w 0) 6 || op == 2)
    && (match op with
      | 0 => decide (w 2 = 0) && decide (w 3 = 0)
      | 1 => decide (w 3 = 0) && decide (start % 4096 = 0) && decide (start + count = 1048576)
      | 3 => decide (w 3 = 0) && decide (start + count ≤ 8192)
      | 4 => decide (bf (w 3) 45 0 + 64 * (start + count) ≤ 2 ^ 32)
      | 5 => decide (bf (w 2) 45 0 + 64 * (start + count) ≤ 2 ^ 32)
      | _ => true)

/-- Pool extent, destination frame of a MIGRATE. -/
def Chan.pext (x : Chan) : Nat := bf x.a 19 0
/-- The destination frame. -/
def Chan.dst (x : Chan) : Nat := bf x.a 39 20

/-- The placement entry of an extent. -/
def State.plcEnt (s : State) (ext : Nat) : Word := memGran s.bmem (s.plcLine 0 * 8 + ext)
/-- Write the placement entry of an extent in block memory. -/
def State.plcPut (s : State) (ext : Nat) (e : Word) : State := { s with bmem := memWrite s.bmem (8 * (s.plcLine 0 * 8 + ext)) e.toNat 8 }

/-- The entry of an extent in migration by channel `c` (Table 10.5). -/
def plcMig (src dst c : Nat) : Word := BitVec.ofNat 64 (3 + src * 2 ^ 2 + dst * 2 ^ 22 + c * 2 ^ 42)
/-- The entry of a migrated extent (R338). -/
def plcDone (dst : Nat) : Word := BitVec.ofNat 64 (1 + dst * 2 ^ 2)

/-- The check of step 1 of R336. -/
def migCheck (e : Word) (d c start : Nat) : Bool :=
  let again := bt e 1 && bf e 41 22 == d && bf e 45 42 == c
  if start = 0 then
    bt e 0 && decide (64 ≤ bf e 21 2) && (again || (!bt e 1 && decide (64 ≤ d) && bf e 21 2 != d))
  else bt e 0 && again

/-- Byte address of the moved bitmap of channel `c` (R334). -/
def State.migByte (s : State) (c : ChanId) : Nat := 2 ^ 21 * s.fld HA_MIG_BASE 13 0 + 2 ^ 17 * c.val

/-- Set `n` bytes at `a` to zeros, the first `k` of them to ones. -/
def memFill (m : Memory) (a n k : Nat) : Memory :=
  (m.filter fun e => decide (e.1 < a)) ++ ((List.range (min k n)).map fun i => (a + i, (0xFF : Byte))) ++ m.filter fun e => decide (a + n ≤ e.1)

/-- Set mirror slot `c` of every media port shell (R335). -/
def State.setMirror (s : State) (c : ChanId) (v : Option Mirror) : State :=
  allMp.foldl (fun s m => (s.survFresh (24 + m.val) (2 * c.val) 2).setMp m { s.mpAt m with mirror := smSet (fun _ => none) (s.mpAt m).mirror c.val v }) s

/-- Set BOUND in every mirror slot `c` that is loaded. -/
def State.setBound (s : State) (c : ChanId) (k : Nat) : State :=
  allMp.foldl (fun s m =>
    match (smGet (fun _ => none) (s.mpAt m).mirror c.val : Option Mirror) with
    | some r => s.setMp m { s.mpAt m with mirror := smSet (fun _ => none) (s.mpAt m).mirror c.val (some { r with bound := BitVec.ofNat 21 k }) }
    | none => s) s

/-- Steps 3 to 6 of R336, once no further window is skipped: `k` is START or the checkpoint reached. -/
def State.migLoad (s : State) (c : ChanId) (k : Nat) : State :=
  let x := s.ch c
  let s := { s with bmem := memFill s.bmem (s.migByte c) (2 ^ 17) (k / 8) }
  let s := s.setMirror c (some { src := x.srcFrame, dst := BitVec.ofNat 20 x.dst, bound := BitVec.ofNat 21 k })
  let s := s.modCh c fun x => { x with mirror := true, ck := k, prog := k, nextUnit := k }
  s.modCh c fun x => { x with ph := if k = 0 then .placeStart else .invStart }

/-- Step 2 of R336: a window whose lines were all copied is passed by its checkpoint. A bitmap outside the block-memory region,
or a read of it that fails, halts the channel (R50, R442, log entries 115 and 117). -/
def State.migSkip (s : State) (c : ChanId) (k : Nat) : State :=
  if !s.bmIn (s.migByte c / 64) then (s.bmErrs .address).dmaHalt c 6
  else if k = 0 ∨ 1048576 ≤ k then s.migLoad c k
  else
    let r := s.bmFree
    let s := r.2.bmErrs r.1
    if !bmGood r.1 then s.dmaHalt c 6
    else if (List.range 512).all fun i => memByte s.bmem (s.migByte c + k / 8 + i) == 0xFF then
      s.modCh c fun x => { x with ph := .skip (k + 4096), prog := k + 4096 }
    else s.migLoad c k

/-- Steps 1 to 6 of R336, from unit `start`: the placement entry is read and checked. -/
def State.migBegin (s : State) (c : ChanId) (start : Nat) : State :=
  let x := s.ch c
  if !s.bmIn (s.plcLine x.pext) then (s.bmErrs .address).dmaHalt c 6
  else
    let r := s.bmFree
    let s := r.2.bmErrs r.1
    let e := s.plcEnt x.pext
    if !bmGood r.1 then s.dmaHalt c 6
    else if !migCheck e x.dst c.val start then s.dmaHalt c 8
    else (s.modCh c fun x => { x with srcFrame := BitVec.ofNat 20 (bf e 21 2) }).migSkip c start

/-- The channel reads the descriptor at its line and starts it from START (R326, R333, R336). -/
def State.dmaBegin (s : State) (c : ChanId) (err : BmErr) : State :=
  let l := (s.ch c).desc.toNat
  let w (k : Nat) : Word := memGran s.bmem (8 * l + k)
  let s0 := s.modCh c fun x => { x with
    st := .run, cause := 0, ph := .none, out := [], busy := [], nak := [], doneL := [], fault := none, stop := false, preempt := false,
    mirror := allMp.any fun m => (smGet (fun _ => none) (s.mpAt m).mirror c.val : Option Mirror).isSome }
  if !s.bmIn l then (s0.bmErrs .address).dmaHalt c 2
  else if !bmGood err then (s0.bmErrs err).dmaHalt c 2
  else
    let start := bf (w 4) 31 0
    let s := (s0.bmErrs err).modCh c fun x => { x with
      op := BitVec.ofNat 4 (bf (w 0) 3 0), prio := BitVec.ofNat 2 (bf (w 0) 5 4), xl := bt (w 0) 6, chain := bt (w 0) 7,
      next := BitVec.ofNat 29 (bf (w 1) 28 0), a := w 2, b := w 3, start := start, count := bf (w 5) 31 0, nextUnit := start, prog := start }
    if !descOk w then s.dmaHalt c 1
    else if bf (w 0) 3 0 = 1 then s.migBegin c start
    else s

/-- The descriptor is complete: SAVED is written, and the next descriptor of a chain starts, or the channel is DONE. -/
def State.dmaComplete (s : State) (c : ChanId) : State :=
  let s := s.dmaSave c
  let x := s.ch c
  if x.chain then
    let r := s.bmFree
    (r.2.modCh c fun x => { x with desc := x.next }).dmaBegin c r.1
  else (s.modCh c fun x => { x with st := .done, ph := .none }).chvEvent 0x55 (c.val + 4 * 16)

/-! ### Units -/

/-- A work message (Table 10.8). -/
def workMsg (type c u pla src dst cls : Nat) : Line :=
  BitVec.ofNat 512 (type + c * 2 ^ 8 + u % 65536 * 2 ^ 16 + pla % 2 ^ 40 * 2 ^ 64 + (src + dst * 2 ^ 20 + cls * 2 ^ 40) * 2 ^ 128)

/-- Send a work message for unit `u` of channel `c` to a home node: a full inbox returns it (R359), a sinking port absorbs it
(R363), and a node that is off never receives it. `lim` is when HA_ST_TIMEOUT discards it (R226). -/
def State.workTo (s : State) (c : ChanId) (u : Nat) (n : NodeId) (m : Line) (lim : Nat) : State :=
  if s.sunk n then s.raise HA_FAB_ERR 5
  else if !s.live n then s
  else match s.inboxPut (.node n) 0x3F m with
    | some s => s
    | none => s.modCh c fun x => { x with nak := x.nak ++ [(u, n, m, lim, s.tmo)] }

/-- Returned work messages are sent again 16 ticks later, until HA_ST_TIMEOUT discards them (R359). -/
def State.workAgain (s : State) (c : ChanId) : State :=
  (s.ch c).nak.foldl (fun s o =>
    let drop (s : State) : State := s.modCh c fun x => { x with nak := x.nak.erase o }
    if s.past o.2.2.2.1 0 then drop s
    else if s.past o.2.2.2.2 16 then (drop s).workTo c o.1 o.2.1 o.2.2.1 o.2.2.2.1
    else s) s

/-- Look a context extent up in the extent cache of its quadrant. -/
def State.dmaQec (s : State) (ctx cidx : BitVec 16) : Option Xlat × State :=
  match s.qecQuad ctx cidx with
  | none => (none, s)
  | some q => s.qecLook q ctx cidx

/-- Fill the TLB of channel `c` with a translation; its partition class is the channel number mod 2 (Table 10.4). -/
def State.dmaFill (s : State) (c : ChanId) (ctx cidx : BitVec 16) (x : Xlat) : State :=
  s.fill (16 + c.val / 2) (BitVec.ofNat 2 (c.val % 2)) { k1 := ctx, k2 := cidx.setWidth 20, data := x.pack }

/-- The end of a walk for channel `c`: what was found enters the TLB and the extent cache. -/
def State.dmaWalked (s : State) (c : ChanId) (ctx cidx : BitVec 16) : Walk → Walk × State
  | .ok x =>
    let s := s.dmaFill c ctx cidx x
    (.ok x, match s.qecQuad ctx cidx with | some q => s.qecFill q ctx cidx x | none => s)
  | .fault => (.fault, s)
  | .table => (.table, s)
  | .bm e => (.bm e, s)

/-- Translate a context extent for a RECALL of channel `c` (R327). -/
def State.dmaXlate (s : State) (c : ChanId) (ctx cidx : BitVec 16) : Walk × State :=
  match s.macLook (16 + c.val / 2) (fun e => e.k1 == ctx && e.k2 == cidx.setWidth 20) with
  | (some e, s) => (.ok (unpackX e.data), s)
  | (none, s) => match s.dmaQec ctx cidx with
    | (some x, s) => (.ok x, s.dmaFill c ctx cidx x)
    | (none, s) =>
      let r := s.bmFree
      let s := if r.1 = .corrected then r.2.bmErrs r.1 else r.2
      s.dmaWalked c ctx cidx (s.walk ctx cidx r.1)

/-- A way of a bank set is free for BULK: reserved by a flow that came after the unit began, or invalid; `old` says that it was
reserved then (R342). -/
def Node.bulkFree (x : Node) (old : Bool) (k : Nat) : Bool := if x.resv.any fun r => r.1 == k then !old else !entValid (entLive x.cons (x.entry k))

/-- Handle every valid way of a set: a kept-empty entry is zeroed, any other evicted (R342). -/
def State.bulkGo (s : State) (n : NodeId) (set : Nat) (noSpill : Bool) : State :=
  (List.range 16).foldl (fun s w =>
    let x := s.nd n
    let k := bankKey set w
    if !entValid (entLive x.cons (x.entry k)) || x.resv.any (fun r => r.1 == k) || x.evicts.any (fun v => v.key == k)
      || x.repairs.any (fun r => !r.ovf && r.key == k) then s
    else
      match s.wayRead n k 2 with
      | (.hit _ e, s) =>
        if entKept e then s.modNd n fun x => x.setEntry k 0
        else (s.modNd n fun x => x.evictNew k (s.sectorOf n set w (bf e 19 0)) none noSpill 0).cntN n 0x00E 1
      | r => r.2) s

/-- BULK over every set of a bank (R342, R379 step 3, R424 step 2): the sets with no entry listed have nothing to handle. -/
def State.bulkBank (s : State) (n : NodeId) (noSpill : Bool) : State :=
  ((s.nd n).bank.map fun e => e.1 / 16).eraseDups.foldl (fun s set => s.bulkGo n set noSpill) s

/-- Note unit `u` as issued. -/
def State.dmaNote (s : State) (c : ChanId) (u : Nat) : State := s.modCh c fun x => { x with out := x.out ++ [(u, s.tmo)] }

/-- The media write of a channel. -/
def State.dmaWrite (s : State) (c : ChanId) (u : Nat) (maddr : Nat) (data : Line) : Option State :=
  let a : BitVec 46 := BitVec.ofNat 46 maddr
  match s.mpIssue (s.mpOf a) { own := .dma c u, kind := .wr, maddr := a, data := data } with
  | some (_, s) => some s
  | none => none

/-- A media port serves the address. -/
def State.maddrOn (s : State) (maddr : Nat) : Bool := s.mpOn (s.mpOf (BitVec.ofNat 46 maddr))

/-- Hand unit `u` out (Table 10.7); none while a resource is short. -/
def State.dmaIssue (s : State) (c : ChanId) (u : Nat) : Option State :=
  let x := s.ch c
  match x.op.toNat with
  | 1 =>
    let pla := x.pext * 2 ^ 20 + u
    some ((s.dmaNote c u).workTo c u (s.home (BitVec.ofNat 40 pla))
      (workMsg 0xC1 c.val u pla x.srcFrame.toNat x.dst (s.fld HA_DMA_CTRL 14 12)) s.accLimit)
  | 2 =>
    let go (s : State) (sec : Nat) : Option State :=
      some ((s.dmaNote c u).workTo c u (s.home (BitVec.ofNat 40 (4 * sec))) (workMsg 0xC2 c.val u (4 * sec) 0 0 0) s.accLimit)
    if x.xl then
      let t := bf x.b 33 0 + u
      match s.dmaXlate c (BitVec.ofNat 16 (bf x.a 15 0)) (BitVec.ofNat 16 (t / 2 ^ 18)) with
      | (.ok y, s) => go s (y.pext.toNat * 2 ^ 18 + t % 2 ^ 18)
      | (.fault, s) => some (s.dmaUnit c u)
      | (w, s) => some ((s.walkErrs w).dmaFault c u 11)
    else go s (bf x.a 37 0 + u)
  | 3 =>
    let n : NodeId := Fin.ofNat 32 (bf x.a 4 0)
    let s := (s.dmaNote c u).modCh c fun x => { x with old := x.old ++ ((s.nd n).resv.filter fun r => r.1 / 16 == u).map fun r => (u, r.1) }
    some (if s.sunk n then s.raise HA_FAB_ERR 5 else if s.live n then s.bulkGo n u (bt x.a 5) else s)
  | 4 =>
    let l := bf x.a 28 0 + u
    if !s.bmIn l then some ((s.bmErrs .address).dmaFault c u 3)
    else match s.bmIssue (.dma c u) false l 0 0 with
      | some (_, s) => some (s.dmaNote c u)
      | none => none
  | 5 =>
    let a := bf x.a 45 0 / 64 * 64 + 64 * u
    if !s.maddrOn a then some (s.dmaFault c u 7)
    else match s.mpIssue (s.mpOf (BitVec.ofNat 46 a)) { own := .dma c u, kind := .rd, maddr := BitVec.ofNat 46 a, left := 1 } with
      | some (_, s) => some (s.dmaNote c u)
      | none => none
  | _ => some s

/-! ### Migration phases (R325, R336 to R338) -/

/-- A channel other than `c` has a placement write outstanding (R325). -/
def State.placeBusy (s : State) (c : ChanId) : Bool := allCh.any fun k => k != c && s.dmaOut k uPlace

/-- The placement write of a channel: block memory, then its line to media (R325). -/
def State.placeWrite (s : State) (c : ChanId) (e : Word) : State :=
  let ext := (s.ch c).pext
  let a := 2 ^ 23 * s.fld HA_META_PLC 8 0 + 64 * (ext / 8)
  if s.placeBusy c then s
  else if !s.maddrOn a then s.dmaFault c (s.ch c).prog 7
  else
    let r := (s.plcPut ext e).bmFree
    let s1 := r.2.bmErrs r.1
    if !bmGood r.1 then s1.dmaFault c (s.ch c).prog 6
    else (s1.dmaWrite c uPlace a (memLine s1.bmem (s1.plcLine ext))).getD s

/-- The checkpoint record (Table 10.9). -/
def ckptRec (pext src dst k : Nat) (done : Bool) : Line :=
  let w0 : Word := BitVec.ofNat 64 (1 + b2n done * 2 + pext * 2 ^ 2 + src * 2 ^ 22 + dst * 2 ^ 42)
  let w1 : Word := BitVec.ofNat 64 k
  let crc := crc32 (wordBytes w0 8 ++ wordBytes w1 8)
  BitVec.ofNat 512 (w0.toNat + w1.toNat * 2 ^ 64 + crc.toNat * 2 ^ 128)

/-- Write checkpoint `k`: SAVED, then the record to media (R337). -/
def State.ckptWrite (s : State) (c : ChanId) (k : Nat) (done : Bool) : State :=
  let x := s.ch c
  let a := (s.fld HA_META_CKPT 25 0 + c.val) * 64
  if !s.maddrOn a then s.dmaFault c x.prog 7
  else ((s.dmaSave c).dmaWrite c uCkpt a (ckptRec x.pext x.srcFrame.toNat x.dst k done)).getD s

/-- A placement or checkpoint write is durable: the next phase. -/
def State.migNext (s : State) (c : ChanId) : State :=
  let x := s.ch c
  match x.ph with
  | .placeStart => s.modCh c fun x => { x with ph := .ckptStart }
  | .ckptStart => (s.setBound c 0).modCh c fun x => { x with ph := .invStart }
  | .skip k => (s.setBound c k).migSkip c k
  | .ckpt k => (s.setBound c k).modCh c fun x => { x with ck := k, ph := if k = 1048576 then .placeEnd else .copy }
  | .placeEnd => s.modCh c fun x => { x with ph := .ckptEnd }
  | .ckptEnd => s.modCh c fun x => { x with ph := .invEnd }
  | _ => s

/-- One move of a MIGRATE channel with nothing of its own phase outstanding. -/
def State.migMove (s : State) (c : ChanId) (room : Bool) : State :=
  let x := s.ch c
  match x.ph with
  | .placeStart =>
    let e := plcMig x.srcFrame.toNat x.dst c.val
    if s.dmaOut c uPlace then s else if s.plcEnt x.pext = e then s.migNext c else s.placeWrite c e
  | .ckptStart => if s.dmaOut c uCkpt then s else s.ckptWrite c 0 false
  | .skip k => if s.dmaOut c uCkpt then s else s.ckptWrite c k false
  | .ckpt k => if s.dmaOut c uCkpt then s else s.ckptWrite c k false
  | .placeEnd => if s.dmaOut c uPlace then s else s.placeWrite c (plcDone x.dst)
  | .ckptEnd => if s.dmaOut c uCkpt then s else s.ckptWrite c 1048576 true
  | .invStart =>
    if s.plcUsing (· == x.pext) then s
    else (s.plcInv (· == x.pext)).modCh c fun x => { x with ph := if x.ck = 1048576 then .placeEnd else .copy }
  | .invEnd =>
    if s.plcUsing (· == x.pext) then s
    else (((s.plcInv (· == x.pext)).setMirror c none).modCh c fun x => { x with mirror := false }).dmaComplete c
  | .copy =>
    if x.prog = x.ck + 4096 then s.modCh c fun x => { x with ph := .ckpt x.prog }
    else if room && decide (x.nextUnit < x.ck + 4096) then
      ((s.dmaIssue c x.nextUnit).map fun s => s.modCh c fun y => { y with nextUnit := x.nextUnit + 1 }).getD s
    else s
  | .none => s

/-! ### Running -/

/-- BULK units whose set is empty end; others go on (R342). -/
def State.bulkPoll (s : State) (c : ChanId) : State :=
  let x := s.ch c
  if x.op ≠ 3 then s
  else
    let n : NodeId := Fin.ofNat 32 (bf x.a 4 0)
    let s := s.modCh c fun x => { x with old := x.old.filter fun q => (s.nd n).resv.any fun r => r.1 == q.2 }
    x.out.foldl (fun s o =>
      if !s.live n then s
      else if (List.range 16).all (fun w => (s.nd n).bulkFree ((s.ch c).old.contains (o.1, bankKey o.1 w)) (bankKey o.1 w)) then s.dmaUnit c o.1
      else s.bulkGo n o.1 (bt x.a 5)) s

/-- One move of a running channel. -/
def State.dmaMove (s : State) (c : ChanId) : State :=
  let s := s.bulkPoll c
  let x := s.ch c
  if x.st ≠ .run then s
  else match x.fault with
    | some f => if s.dmaQuiet c then s.dmaHalt c f.2.toNat else s
    | none =>
      if x.stop then (if s.dmaQuiet c then s.dmaHalt c 10 else s)
      else if x.preempt then (if s.dmaQuiet c then s.modCh c fun x => { x with st := .preempted, preempt := false } else s)
      else
        let room := decide (x.out.length + x.busy.length < s.fld HA_DMA_CTRL 11 5)
        if x.op = 1 then s.migMove c room
        else if x.op = 0 then (s.modCh c fun x => { x with prog := x.last }).dmaComplete c
        else if x.last ≤ x.prog then s.dmaComplete c
        else if room && decide (x.nextUnit < x.last) then
          ((s.dmaIssue c x.nextUnit).map fun s => s.modCh c fun y => { y with nextUnit := x.nextUnit + 1 }).getD s
        else s

/-- Channel `a` outranks channel `b` (R332). -/
def State.outranks (s : State) (a b : ChanId) : Bool :=
  decide ((s.ch b).prio.toNat < (s.ch a).prio.toNat) || ((s.ch a).prio == (s.ch b).prio && decide (a.val < b.val))

/-- A channel wants to run: RUN or PREEMPTED. -/
def Chan.wants (x : Chan) : Bool := x.st == .run || x.st == .preempted

/-- Slots go to the highest-ranked channels; others are pre-empted (R332). -/
def State.dmaSched (s : State) : State :=
  allCh.foldl (fun s c =>
    let x := s.ch c
    if !x.wants then s
    else
      let above := (allCh.filter fun d => (s.ch d).wants && s.outranks d c).length
      let in_ := decide (above < s.fld HA_DMA_CTRL 4 0)
      if in_ then s.setCh c { x with st := .run, preempt := false }
      else if x.st = .run then s.setCh c { x with preempt := true }
      else s) s

/-- `k` rounds of one move for each channel. -/
def State.dmaRounds (s : State) : Nat → State
  | 0 => s
  | k + 1 => (allCh.foldl (fun s c => s.dmaMove c) s.dmaSched).dmaRounds k

/-- A report for unit `u` of channel `c` with a result of Table 10.8 (R328). -/
def State.dmaResult (s : State) (c : ChanId) (u result : Nat) : State :=
  match result with
  | 0 => s.dmaUnit c u
  | 1 => s.dmaFault c u 4
  | 2 => s.dmaFault c u 5
  | 3 => s.dmaFault c u 6
  | 4 => s.modCh c fun x => { x with out := x.out.filter (fun o => o.1 != u), busy := x.busy ++ [(u, s.tmo)] }
  | 5 => s.dmaFault c u 7
  | _ => s

/-- Reports that node hardware sends for line copies it has ended (R330). -/
def State.hwReports (s : State) : State :=
  s.hwRep.foldl (fun s r =>
    match allCh.find? fun c => (s.ch c).op == 1 && (s.ch c).pext == bf r.1 39 20 && (s.ch c).out.any (fun o => o.1 == bf r.1 19 0) with
    | some c => s.dmaResult c (bf r.1 19 0) r.2.toNat
    | none => s) { s with hwRep := [] }

/-- Every channel goes on as far as it can. -/
def State.dmaAll (s : State) : State :=
  let s := if s.hwRep = [] then s else s.hwReports
  let s := allCh.foldl (fun s c => if (s.ch c).nak = [] then s else s.workAgain c) s
  if allCh.any fun c => (s.ch c).wants then s.dmaRounds 140 else s

/-! ### What reaches a channel -/

/-- A media write of channel `c` under `u` has ended: 0 well, 1 WRITE_FAIL, 2 on a failed port (R343, R428). -/
def State.dmaWrote (s : State) (c : ChanId) (u outcome : Nat) : State :=
  let cause := if outcome = 2 then 7 else 4
  if u = uPlace ∨ u = uCkpt then (if outcome = 0 then s.migNext c else s.dmaFault c (s.ch c).prog cause)
  else if !(s.ch c).out.any (fun o => o.1 == u) then s
  else if outcome = 0 then s.dmaUnit c u
  else s.dmaFault c u cause

/-- A META_READ line has landed: it is written to block memory (R343); a cause other than 0 is a fault. -/
def State.dmaRead (s : State) (c : ChanId) (u : Nat) (data : Line) (cause : Nat) : State :=
  let x := s.ch c
  if !x.out.any (fun o => o.1 == u) then s
  else if cause ≠ 0 then s.dmaFault c u cause
  else
    let l := bf x.b 28 0 + u
    if !s.bmIn l then (s.bmErrs .address).dmaFault c u 6
    else match s.bmIssue (.dma c u) true l (BitVec.allOnes 64) data with
      | some (_, s) => s
      | none => s.modCh c fun x => { x with out := x.out.filter (fun o => o.1 != u), busy := x.busy ++ [(u, s.tmo)] }

/-- A block-memory access of unit `u` has ended (R343). -/
def State.dmaBm (s : State) (c : ChanId) (u : Nat) (wr : Bool) (data : Line) (err : BmErr) : State :=
  let x := s.ch c
  if !x.out.any (fun o => o.1 == u) then s
  else if !bmGood err then s.dmaFault c u (if wr then 6 else 3)
  else if wr then s.dmaUnit c u
  else
    let a := bf x.b 45 0 / 64 * 64 + 64 * u
    if !s.maddrOn a then s.dmaFault c u 7
    else match s.dmaWrite c u a data with
      | some s => s
      | none => s.modCh c fun x => { x with out := x.out.filter (fun o => o.1 != u), busy := x.busy ++ [(u, s.tmo)] }

/-- A report message (Table 10.8, R328). -/
def State.dmaMsg (s : State) (m : Line) : State :=
  let c : ChanId := Fin.ofNat 16 (bf m 11 8)
  if bf m 7 0 ≠ 0xD0 then s
  else match (s.ch c).out.find? fun o => o.1 % 65536 == bf m 31 16 with
    | some o => s.dmaResult c o.1 (bf m 35 32)
    | none => s

/-! ### Commands -/

/-- A write of 1 to GO (Table 10.18). -/
def State.chanGo (s : State) (c : ChanId) (err : BmErr) : State :=
  match (s.ch c).st with
  | .idle | .halted | .done => (s.modCh c fun x => { x with desc := BitVec.ofNat 29 (s.fld (chA c 0) 28 0) }).dmaBegin c err
  | _ => s

/-- A write of 1 to RESUME: the same descriptor goes on from PROG (R333). -/
def State.chanResume (s : State) (c : ChanId) : State :=
  let x := s.ch c
  if x.st ≠ .halted then s
  else if x.cause = 1 ∨ x.cause = 2 ∨ x.cause = 8 then
    let r := s.bmFree
    r.2.dmaBegin c r.1
  else
    let s := s.setCh c { x with st := .run, cause := 0, nextUnit := x.prog, doneL := [] }
    if x.op = 1 ∧ x.ph = .none then s.migBegin c x.prog else s

/-- A write of 1 to STOP. -/
def State.chanStop (s : State) (c : ChanId) : State :=
  match (s.ch c).st with
  | .run => s.modCh c fun x => { x with stop := true }
  | .preempted => s.dmaHalt c 10
  | _ => s

/-- No report for a unit within 1,000,000 ticks (R328). -/
def State.itemLate (s : State) (c : ChanId) (u : Nat) : State :=
  match (s.ch c).out.find? fun o => o.1 == u with
  | some o => if s.past o.2 1000000 then s.dmaFault c u 9 else s
  | none => s

/-- A unit reported BUSY is issued again 1,024 ticks later (R328). -/
def State.busyAgain (s : State) (c : ChanId) (u : Nat) : State :=
  match (s.ch c).busy.find? fun o => o.1 == u with
  | some o =>
    if s.past o.2 1024 then
      let s1 := s.modCh c fun x => { x with busy := x.busy.filter fun o => o.1 != u }
      (s1.dmaIssue c u).getD s
    else s
  | none => s

end Sys2Proof.Machine
end

