-- ==== Sys2Proof/Machine/Admit.lean ====
section
/-! DEFINITION. Sys2Proof/Machine/Admit.lean: Request-class messages at their home node: dispatch answers, write-backs,
RETRY and GRANT, and the conflict chains (R189 to R197), and the answers of a sinking node (R363). -/

namespace Sys2Proof.Machine

/-- A bit of ND_TRK_PEND: RETRY_PORTS, or WB_RETRY_PORTS. -/
def retryBit (p : HpId) (wb : Bool) : Nat := p.val + (if wb then 16 else 0)

/-- Some entry of port `p` is still held, or on its way to be held, for node `n`. -/
def HpShell.holds (x : HpShell) (n : NodeId) (wb : Bool) : Bool :=
  x.ledger.any fun o => match o.2 with
    | some l => l.st == .retried n wb
    | none => false

/-- A write held at a shell that a snoop to its host now covers is a write-back, and write-backs are never held (R192,
R362): it is sent. -/
def State.freeHeld (s : State) (p : HpId) : State :=
  (s.hpAt p).retry.foldl (fun s0 r =>
    let s := s0.testRead p r.2
    match (s.hpAt p).led r.2 with
    | some e =>
      let o := hdrOpc e.hdr
      if (o = 0x18 ∨ o = 0x19) ∧ s.withheld (2 * p.val) = false ∧ s.reqCredit p r.1 = true ∧ s.snpOutTo (hdrHost e.hdr) e.pla (fun _ => true) = true then
        let s := s.setHp p { s.hpAt p with retry := (s.hpAt p).retry.filter fun q => q.2 != r.2 }
        let s := s.setLedSt p r.2 fun e => { e with st := .sent r.1 }
        if (s.hpAt p).holds r.1 false then s else s.setFld (ndA r.1 ND_TRK_PEND) (retryBit p false) (retryBit p false) 0
      else s
    | none => s.setHp p { s.hpAt p with retry := (s.hpAt p).retry.filter fun q => q.2 != r.2 }) s

/-- Once node `n` raises no quench, every shell lowers its acknowledge (R361 step 4). -/
def State.quenchSync (s : State) (n : NodeId) : State :=
  if s.quenches n then s
  else
    let s := allHp.foldl (fun s p => s.setHp p { s.hpAt p with quenchAck := setBt (s.hpAt p).quenchAck n.val false }) s
    let s := allMp.foldl (fun s m => s.setMp m { s.mpAt m with quenchAck := setBt (s.mpAt m).quenchAck n.val false }) s
    { s with shellAck := s.shellAck.map fun e => (e.1, setBt e.2 n.val false) }

/-- Every engine-start handler has ended (R264). -/
def State.enginesStarted (s : State) : Bool :=
  allNodes.all fun n => !s.live n || ((s.nd n).core.toStart == [] && (s.nd n).core.starting == [])

/-- The mode that follows HOLD (R392, R394). -/
def State.afterHold (s : State) : Mode :=
  match s.prior with
  | .service | .degraded => if s.dgAny then .degraded else .service
  | .evacuate => .evacuate
  | _ => .standby

/-- Step 12 of R408, once RELEASE has been written and every engine-start handler has ended: LAST_HOLD in microseconds,
Tarragon's quench lowered where the quadrant is ON, and the mode. -/
def State.holdPoll (s : State) : State :=
  if s.mode = .hold ∧ s.released = true ∧ s.enginesStarted = true then
    let s := s.setFld HA_RST_STAT 31 19 (min ((s.tmo - s.holdAt) / 100) 8191)
    let s := allNodes.foldl (fun s n =>
      if (s.qd (quadOf n)).pwr = .on then (s.modNd n fun x => { x with tarQuench := false }).quenchSync n else s) s
    { s with released := false }.setMode s.afterHold
  else s

/-- Replay has ended: the replayed flow that is active on each line starts (R409 step 5). -/
def State.replayGo (s : State) : State :=
  if s.replaying then s
  else s.node.foldl (fun s e =>
    let n : NodeId := Fin.ofNat 32 e.1
    (e.2.trk.filter fun r => r.2.replay).foldl (fun s r =>
      if ((s.nd n).trkAt r.1).replay = true ∧ (s.nd n).active ((s.nd n).trkAt r.1).pla.toNat = some r.1 then s.nowActive n r.1 else s) s) s

/-- Everything that waits anywhere in the block goes on as far as it can. -/
def State.goOn (s : State) : State :=
  let s := s.attAll.holdPoll.replayGo.settleAll
  let s := allHp.foldl (fun s p => if (s.hpAt p).retry = [] then s else s.freeHeld p) s
  s.injectAll.flushAll.sessAll.dmaAll

/-- An older message of port `p` is on its way to node `n`: one port's requests reach a node in order (R194). -/
def State.olderSent (s : State) (p : HpId) (n : NodeId) (e : LedEnt) : Bool :=
  (s.hpAt p).ledger.any fun o => match o.2 with
    | some l => l.st == .sent n && decide (l.seq < e.seq)
    | none => false

/-- The home answers RETRY and notes the port (R192). -/
def State.answerRetry (s : State) (n : NodeId) (p : HpId) (i : Nat) (wb : Bool) : State :=
  let s := s.modNd n fun x => { x with rspOut := x.rspOut.filter (fun t => t.1 != p || t.2.1 != some i) ++ [(p, some i, s.withheld n.val)] }
  ((s.setFld (ndA n ND_TRK_PEND) (retryBit p wb) (retryBit p wb) 1).setLedSt p i fun e => { e with st := .retried n wb }).cntN n 0x008 1

/-- A RETRY or GRANT of node `n` still stands for what it says: the entry waits for its RETRY, or a tracker is kept for the port. -/
def State.rspValid (s : State) (n : NodeId) (t : HpId × Option Nat × Bool) : Bool :=
  match t.2.1 with
  | some i => match (s.hpAt t.1).led i with
    | some e => match e.st with
      | .retried m wb => m == n && !((if wb then (s.hpAt t.1).wbRetry else (s.hpAt t.1).retry).contains (n, i))
      | _ => false
    | none => false
  | none => (s.nd n).kept.any fun k => k.2.1 == t.1

/-- The RETRY and GRANT packets of node `n` that are on their way to port `p`, oldest first: they arrive in the order in which they
were sent (R349), and none arrives that the node's router withholds (R365). -/
def State.rspTo (s : State) (n : NodeId) (p : HpId) : List (HpId × Option Nat × Bool) :=
  ((s.nd n).rspOut.filter fun t => t.1 == p && s.rspValid n t).takeWhile fun t => !(t.2.2 && s.withheld n.val)

/-- The RETRY (`some` index) or GRANT (`none`) that port `p` has received is no longer on its way. -/
def State.rspTook (s : State) (n : NodeId) (p : HpId) (i : Option Nat) : State :=
  s.modNd n fun x => { x with rspOut := x.rspOut.eraseP fun t => t.1 == p && t.2.1 == i }

/-- The home takes a request of port `p` from its queue: the credit goes back (R358). -/
def State.takeReq (s : State) (p : HpId) (n : NodeId) : State :=
  (s.spendCredit ⟨.node n, .req⟩ (.hp p)).oweCredit ⟨.node n, .req⟩ (.hp p)

/-- Replayed flow `t` comes before flow `u` (R211). -/
def State.replayBefore (s : State) (n : NodeId) (t u : Nat) : Bool :=
  let r := (s.nd n).trkAt t
  let q := (s.nd n).trkAt u
  match (s.hpAt r.port).led r.ledger, (s.hpAt q.port).led q.ledger with
  | some a, some b => a.before r.port b q.port
  | _, _ => false

/-- The place of a replayed flow in a chain: before the first replayed flow of later tag (R409 step 2). -/
def State.replayInto (s : State) (n : NodeId) (t : Nat) : List Nat → List Nat
  | [] => [t]
  | u :: c => if ((s.nd n).trkAt u).replay && s.replayBefore n t u then t :: u :: c else u :: s.replayInto n t c

/-- A request flow that has its tracker `t` joins its line's chain, and starts when it is active (R195); a replayed flow
takes its place by its tag and starts once replay has ended (R409). -/
def State.startFlow (s : State) (n : NodeId) (t : Nat) : State :=
  let l := ((s.nd n).trkAt t).pla.toNat
  if ((s.nd n).trkAt t).replay then s.modNd n fun x => x.setChain l (s.replayInto n t (x.chain l))
  else
    let s := s.modNd n fun x => x.join l t
    if (s.nd n).active l = some t then s.startReq n t else s.cntN n 0x014 1

/-- A write-back that has its tracker runs at once (R191). -/
def State.startWb (s : State) (n : NodeId) (t : Nat) : State :=
  (s.seeWb n ((s.nd n).trkAt t).pla).startReq n t

/-- The admitted replayed flow of latest tag that has not started. -/
def State.replayLast (s : State) (n : NodeId) : Option Nat :=
  ((s.nd n).trk.filter fun e => e.2.replay && e.2.kind == 0).foldl (fun a e => match a with
    | some u => if s.replayBefore n u e.1 then some e.1 else a
    | none => some e.1) none

/-- A replayed request that finds no tracker (R409 step 3): it takes that of the admitted replayed request of latest tag when
its own is earlier, and that request is answered RETRY; else it is answered RETRY itself. -/
def State.replayFull (s : State) (n : NodeId) (p : HpId) (i : Nat) (e : LedEnt) : State :=
  match s.replayLast n with
  | none => s.answerRetry n p i false
  | some u =>
    let q := (s.nd n).trkAt u
    let first := match (s.hpAt q.port).led q.ledger with
      | some b => e.before p b q.port
      | none => true
    if !first then s.answerRetry n p i false
    else
      let s := s.answerRetry n q.port q.ledger false
      let r0 := mkTrk p i e
      let r := { r0 with w0 := setBf r0.w0 0 0 1, w5 := BitVec.ofNat 64 s.time.toNat, pool := q.pool }
      let s := s.modNd n fun x => (x.leave q.pla.toNat u).setTrk u r
      (s.setLedSt p i fun e => { e with st := .home }).startFlow n u

/-- Dispatch of a Request-class message at its home (R189, R192, R197). -/
def State.admission (s : State) (n : NodeId) (p : HpId) (i : Nat) : State :=
  match (s.hpAt p).led i with
  | none => s
  | some e =>
    if e.st ≠ .sent n ∨ s.live n = false ∨ s.sunk n = true ∨ s.olderSent p n e = true then s
    else
      let s := s.takeReq p n
      let o := hdrOpc e.hdr
      let home (s : State) : State := s.setLedSt p i fun e => { e with st := .home }
      if o = 5 then
        let a : BicAck := { host := hdrHost e.hdr, tag := hdrTag e.hdr, pla := e.pla, devload := BitVec.ofNat 2 (s.devload n p e.cls.toNat) }
        home (s.setHp p { s.hpAt p with bicAcks := (s.hpAt p).bicAcks ++ [a] })
      else if (o = 0x18 ∨ o = 0x19) ∧ s.isWriteBack n (hdrHost e.hdr) e.pla = true then
        match s.takeTrk n 1 { mkTrk p i e with replay := false } with
        | none => (s.seeWb n e.pla).answerRetry n p i true
        | some (t, s) => (home s).startWb n t
      else if e.replay then match s.takeTrk n 0 (mkTrk p i e) with
        | none => s.replayFull n p i e
        | some (t, s) => (home s).startFlow n t
      else if s.bit (ndA n ND_TRK_PEND) (retryBit p false) then s.answerRetry n p i false
      else match s.takeTrk n 0 (mkTrk p i e) with
        | none => s.answerRetry n p i false
        | some (t, s) => (home s).startFlow n t

/-- `ADMISSION` (R189, R192, R195). -/
def execAdmission (n : NodeId) (p : HpId) (idx : Fin 2048) (s : State) : Out := .next (s.admission n p idx.val).goOn

/-- The shell receives RETRY for an entry and holds it (R192). -/
def State.retryIn (s0 : State) (p : HpId) (n : NodeId) (i : Nat) : State :=
  let s := s0.rspTook n p (some i)
  let x := s.hpAt p
  match x.led i with
  | none => s0
  | some e =>
    match e.st with
    | .retried m wb =>
      if m ≠ n ∨ ((s0.rspTo n p).head?.map (·.2.1)) ≠ some (some i) then s0
      else if wb then s.setHp p { x with wbRetry := x.hold (n, i) x.wbRetry }
      else s.setHp p { x with retry := x.hold (n, i) x.retry }
    | _ => s0

/-- `RETRY` (R192). -/
def execRetry (p : HpId) (n : NodeId) (idx : Fin 2048) (s : State) : Out := .next (s.retryIn p n idx.val).goOn

/-- Put a request into the tracker kept for its port (R193). -/
def State.intoKept (s : State) (n : NodeId) (t : Nat) (p : HpId) (i : Nat) (wb : Bool) : State :=
  match (s.hpAt p).led i with
  | none => s
  | some e =>
    let o := hdrOpc e.hdr
    let k := if wb || ((o == 0x18 || o == 0x19) && s.isWriteBack n (hdrHost e.hdr) e.pla) then 1 else 0
    let r0 := mkTrk p i e
    let pool := ((s.nd n).trkAt t).pool
    let r := { r0 with w0 := setBf (setBf r0.w0 0 0 1) 4 1 k, w5 := BitVec.ofNat 64 s.time.toNat, pool := pool,
                       replay := r0.replay && k == 0 }
    let s := s.modNd n fun x => x.setTrk t r
    let s := s.setLedSt p i fun e => { e with st := .home }
    if k = 1 then s.startWb n t else s.startFlow n t

/-- The shell receives a GRANT and sends its oldest held entry, or returns the GRANT (R193). While its router withholds, while the
node quenches it, but for a replayed entry (R409), or while it has no credit, it keeps the GRANT (R357, R358, R361). -/
def State.grantIn (s : State) (p : HpId) (n : NodeId) : State :=
  match (s.nd n).kept.find? fun k => k.2.1 == p && ((s.rspTo n p).head?.map (·.2.1)) == some none with
  | none => s
  | some (t, _, wb) =>
    let x := s.hpAt p
    let took (s : State) : State := (s.rspTook n p none).modNd n fun y => { y with kept := y.kept.filter fun k => k.1 != t }
    match (if wb then x.wbRetry else x.retry).find? fun r => r.1 == n with
    | none =>
      let pool := ((s.nd n).trkAt t).pool
      ((took s).modNd n fun y => y.setTrk t {}).offer n t pool
    | some (_, i) =>
      let replay := match x.led i with
        | some e => e.replay
        | none => false
      if s.withheld (2 * p.val) || (!wb && !replay && s.quenchHolds n) || !s.reqCredit p n then s else
      s.survThen (·.heldRead p i) fun s =>
      let s := (took s).takeReq p n
      let drop (l : List (NodeId × Nat)) : List (NodeId × Nat) := l.filter fun r => r != (n, i)
      let s := s.setHp p { x with retry := drop x.retry, wbRetry := drop x.wbRetry }
      let s := s.intoKept n t p i wb
      if (s.hpAt p).holds n wb then s else s.setFld (ndA n ND_TRK_PEND) (retryBit p wb) (retryBit p wb) 0

/-- `GRANT` (R193). -/
def execGrant (p : HpId) (n : NodeId) (s : State) : Out := .next (s.grantIn p n).goOn

/-- A sinking node absorbs a host request: SINK_HIT, and DOMAIN_OFF to the host (R132, R363). -/
def State.sink (s : State) (n : NodeId) (p : HpId) (i : Nat) : State :=
  match (s.hpAt p).led i with
  | none => s
  | some e =>
    if e.st ≠ .sent n ∨ s.sunk n = false then s
    else (((s.takeReq p n).raise HA_FAB_ERR 5).cntB 0x10B 1).answerErr p i 3 0

/-- `SINK_ABSORB` (R363). -/
def execSinkAbsorb (n : NodeId) (p : HpId) (idx : Fin 2048) (s : State) : Out := .next (s.sink n p idx.val).goOn

end Sys2Proof.Machine
end

