-- ==== Sys2Proof/Machine/SageOps.lean ====
section
/-! DEFINITION. Sys2Proof/Machine/SageOps.lean: the mnemonics of Sage, the word each is spelled by, and the rules of R230 that
the word alone decides. -/

namespace Sys2Proof.Machine

/-! ### Mnemonics -/

/-- The Sage mnemonics of Tables 7.9 to 7.14c. -/
inductive Op where
  | add | sub | and | or | xor | sll | srl | sra | slt | sltu | mul | hslot | popc | clz | movf
  | addi | andi | ori | xori | slli | srli | srai | slti | sltiu | orsh | ext | ins
  | beq | bne | blt | bge | bltu | bgeu | bbs | bbc | jal | jalr
  | ld8 | ld16 | ld32 | ld64 | st8 | st16 | st32 | st64
  | amoSwap | amoAdd | amoOr | amoAnd | amoCas
  | lbm | lba | lbf | lbld | lbst | lbmask | lbstat
  | sfl | sfa | sfu | sfrd | sfsec
  | talloc | tfind | tchain | tfree | trd | twr | trdx | plk
  | sendSnp | sendMrd | sendMwr | sendRsp | sendMgt | wait | endH
  | cbar | cbarT | yieldT | rte | trap | crr | crw
  deriving DecidableEq, Repr

/-- The listed operations of opcode `op` by function or first operand nibble (Tables 7.9 to 7.14c). -/
def aluOps : List Op := [.add, .sub, .and, .or, .xor, .sll, .srl, .sra, .slt, .sltu, .mul, .hslot, .popc, .clz, .movf]
/-- Opcodes 0x01 to 0x0C. -/
def immOps : List Op := [.addi, .andi, .ori, .xori, .slli, .srli, .srai, .slti, .sltiu, .orsh, .ext, .ins]
/-- Opcodes 0x10 to 0x19. -/
def brOps : List Op := [.beq, .bne, .blt, .bge, .bltu, .bgeu, .bbs, .bbc, .jal, .jalr]
/-- Opcodes 0x20 to 0x27. -/
def memOps : List Op := [.ld8, .ld16, .ld32, .ld64, .st8, .st16, .st32, .st64]
/-- Functions of opcode 0x28. -/
def amoOps : List Op := [.amoSwap, .amoAdd, .amoOr, .amoAnd, .amoCas]
/-- Functions of opcode 0x2B. -/
def lbOps : List Op := [.lbm, .lba, .lbf, .lbld, .lbst, .lbmask, .lbstat]
/-- Functions of opcode 0x34. -/
def sfOps : List Op := [.sfl, .sfa, .sfu, .sfrd, .sfsec]
/-- Functions of opcode 0x35. -/
def trkOps : List Op := [.talloc, .tfind, .tchain, .tfree, .trd, .twr, .trdx]
/-- Functions of opcode 0x30. -/
def sendOps : List Op := [.sendSnp, .sendMrd, .sendMwr, .sendRsp, .sendMgt]

/-- The mnemonic a word spells; none for an opcode or function that no table lists (R230). -/
def opOf (w : Reg32) : Option Op :=
  let o := iOp w
  let f := iFunc w
  if o = 0 then aluOps[f]?
  else if o ≤ 0x0C then immOps[o - 1]?
  else if 0x10 ≤ o ∧ o ≤ 0x19 then brOps[o - 0x10]?
  else if 0x20 ≤ o ∧ o ≤ 0x27 then memOps[o - 0x20]?
  else match o with
    | 0x28 => amoOps[f]?
    | 0x2B => lbOps[f]?
    | 0x30 => sendOps[f % 16]?
    | 0x31 => some .wait
    | 0x32 => some .endH
    | 0x34 => sfOps[f]?
    | 0x35 => trkOps[f]?
    | 0x36 => if f = 0 then some .plk else none
    | 0x38 => match f with
      | 0 => some .cbar
      | 1 => some .cbarT
      | 2 => some .yieldT
      | 4 => some .rte
      | _ => none
    | 0x39 => some .trap
    | 0x3A => some .crr
    | 0x3B => some .crw
    | _ => none

/-- Register fields and immediate bits that an instruction leaves unused, in ones (R230). -/
def Op.unused : Op → Nat
  | .hslot | .popc | .clz => 0xF800
  | .movf => 0x1FC000
  | .slli | .srli | .srai => 0xFFC0
  | .ext | .ins => 0xF
  | .lbm => 0x3E00000
  | .lba => 0x1FF800
  | .lbf => 0x3E0F800
  | .lbld | .lbst => 0xC000
  | .lbmask | .lbstat => 0xF800
  | .sfl | .sfa | .sfrd | .sfsec => 0xF800
  | .tfind | .trdx | .plk => 0xF800
  | .tchain => 0xF000
  | .tfree => 0x3FFF800
  | .trd => 0x1FC000
  | .twr => 0x3E0C000
  | .sendMrd | .sendMwr | .sendRsp => 0x3E007E0
  | .sendMgt => 0x3E007F0
  | .wait => 0x7C000
  | .endH => 0x3FFFFFF
  | .cbar | .cbarT => 0x1FF800
  | .yieldT | .rte => 0x3FFF800
  | .trap => 0x3FF0000
  | .crr => 0x1F0000
  | .crw => 0x3E00000
  | _ => 0

/-- Instructions that the supervisor profile lacks (Table 7.1). -/
def Op.engineOnly : Op → Bool
  | .lbm | .lba | .lbf | .lbld | .lbst | .lbmask | .lbstat | .sfl | .sfa | .sfu | .sfrd | .sfsec
  | .talloc | .tfind | .tchain | .tfree | .trd | .twr | .trdx | .plk
  | .sendSnp | .sendMrd | .sendMwr | .sendRsp | .wait => true
  | _ => false

/-- Instructions marked S whatever their operands (Tables 7.12, 7.13, 7.14c) to which no operand can be ILLEGAL. TALLOC, CRR and
CRW check their operands first (R232). -/
def Op.super : Op → Bool
  | .sfrd | .sfsec | .trdx | .rte => true
  | _ => false

/-- Arithmetic, branches and jumps act on the thread alone: nothing that waits elsewhere can go on because of them. -/
def Op.quiet (o : Op) : Bool := aluOps.contains o || immOps.contains o || brOps.contains o

end Sys2Proof.Machine
end

