-- ==== Sys2Proof/Machine/StoreBuf.lean ====
section
/-! DEFINITION. Sys2Proof/Machine/StoreBuf.lean: the data regions of Sage (R225), the store buffer of a thread and its two
modes (R292 to R296), and how its entries are sent. -/

namespace Sys2Proof.Machine

/-! ### Data regions (Table 7.6) -/

/-- A data region with the offset in it; the local scratch of an engine is its own remote window. -/
inductive Reg where
  | scr (n : NodeId) (o : Nat)
  | chvRam (o : Nat)
  | reg (a : Nat)
  | prog (n : NodeId) (o : Nat)
  | chvProg (o : Nat)
  | bm (b : Nat)
  deriving DecidableEq, Repr

/-- The address lies in the window of a region marked S in Table 7.6, whatever the region's size (log entry 35). -/
def eaSuper (ea : Nat) : Bool :=
  (decide (0x200000000 ≤ ea) && decide (ea < 0x600000000)) || (decide (0x10000000000 ≤ ea) && decide (ea < 2 ^ 48))

/-- The region an address of core `c` lies in; none raises ADDR (R225). -/
def State.regionOf (s : State) (c : CoreId) (ea : Nat) : Option Reg :=
  let lo := ea % 2 ^ 32
  match ea / 2 ^ 32 with
  | 0 => match c with
    | .node n => if lo < 0x8000 then some (.scr n lo) else none
    | .chervil => none
  | 1 => if lo / 0x10000 < 32 ∧ lo % 0x10000 < 0x8000 ∧ s.inService (Fin.ofNat 32 (lo / 0x10000)) = true then
      some (.scr (Fin.ofNat 32 (lo / 0x10000)) (lo % 0x10000)) else none
  | 2 => if lo < 0x20000 then some (.chvRam lo) else none
  | 3 => if lo < 0x1000000 then some (.reg lo) else none
  | 4 => if lo / 0x10000 < 32 ∧ s.inService (Fin.ofNat 32 (lo / 0x10000)) = true then
      some (.prog (Fin.ofNat 32 (lo / 0x10000)) (lo % 0x10000)) else none
  | 5 => if c = .chervil ∧ lo < 0x40000 then some (.chvProg lo) else none
  | h => if 0x100 ≤ h ∧ h < 0x10000 ∧ ea - 0x10000000000 < s.bmBytes then some (.bm (ea - 0x10000000000)) else none

/-- The one address of a place, whatever window it was reached through. -/
def Reg.canon : Reg → Nat
  | .scr n o => 0x100000000 + n.val * 0x10000 + o
  | .chvRam o => 0x200000000 + o
  | .reg a => 0x300000000 + a
  | .prog n o => 0x400000000 + n.val * 0x10000 + o
  | .chvProg o => 0x500000000 + o
  | .bm b => 0x10000000000 + b

/-- The place of a canonical address. -/
def regOfCanon (a : Nat) : Reg :=
  let lo := a % 2 ^ 32
  match a / 2 ^ 32 with
  | 1 => .scr (Fin.ofNat 32 (lo / 0x10000)) (lo % 0x10000)
  | 2 => .chvRam lo
  | 3 => .reg lo
  | 4 => .prog (Fin.ofNat 32 (lo / 0x10000)) (lo % 0x10000)
  | 5 => .chvProg lo
  | _ => .bm (a - 0x10000000000)

/-- Access widths a region takes (Table 7.6); a store or a load of `w` bytes. -/
def Reg.widthOk (r : Reg) (st : Bool) (w : Nat) : Bool :=
  match r with
  | .reg _ => w == 4
  | .prog .. | .chvProg _ => st && (w == 4 || w == 8)
  | _ => true

/-- An AMO reaches the region (R225). -/
def Reg.amoOk : Reg → Bool
  | .reg _ | .prog .. | .chvProg _ => false
  | _ => true

/-- The target of a store-buffer entry (Table 9.1), as a number. -/
def SbEnt.target (e : SbEnt) : Nat :=
  match e.kind with
  | .mwr => 2 ^ 60 + e.addr / 64
  | .mgt => 2 ^ 61 + (match e.dst with | .node n => n.val | .chervil => 32)
  | .st => match regOfCanon e.addr with
    | .scr n _ => n.val
    | .chvRam _ => 64
    | .reg _ => 65
    | .prog n _ => 128 + n.val
    | .chvProg _ => 66
    | .bm b => 2 ^ 20 + b / 64

/-! ### Modes of the buffer (Table 9.3) -/

/-- SBM: merging mode is in force. -/
def State.sbm (s : State) : Bool := s.mode == .boot || s.mode == .hold || s.mode == .selftest

/-- The byte mask of `w` bytes at an address within its line. -/
def laneMask (a w : Nat) : BitVec 64 := BitVec.ofNat 64 ((2 ^ w - 1) * 2 ^ (a % 64))

/-- A value placed at its bytes within its line. -/
def laneData (a : Nat) (v : Word) (w : Nat) : Line := BitVec.ofNat 512 (v.toNat % 2 ^ (8 * w) * 2 ^ (8 * (a % 64)))

/-- A buffered store overlaps `w` bytes at canonical address `a` (R295). -/
def SbEnt.overlaps (e : SbEnt) (a w : Nat) : Bool :=
  e.kind == .st && e.addr / 64 == a / 64 && decide (e.mask &&& laneMask a w ≠ 0)

/-- A buffered store covers `w` bytes at canonical address `a`. -/
def SbEnt.covers (e : SbEnt) (a w : Nat) : Bool := e.overlaps a w && e.mask &&& laneMask a w == laneMask a w

/-- The `w` bytes at `a` that a buffered store holds. -/
def SbEnt.value (e : SbEnt) (a w : Nat) : Word := BitVec.ofNat 64 (bf e.data (8 * (a % 64 + w) - 1) (8 * (a % 64)))

/-- Put a store into the buffer (R292, R296): in merging mode it joins the unsent merging entry of its line. -/
def Thread.sbStore (x : Thread) (merging isReg : Bool) (a w : Nat) (v : Word) (pc : Nat) : Thread :=
  let m := laneMask a w
  let d := laneData a v w
  let fits (e : SbEnt) : Bool := e.kind == .st && e.merging && e.sent.isNone && e.addr / 64 == a / 64
  if merging && !isReg && x.sb.any fits then
    { x with sb := x.sb.map fun e => if fits e then { e with mask := e.mask ||| m, data := mergeBytes e.data d m } else e }
  else
    let e : SbEnt := { id := x.sbNext, kind := .st, addr := a, mask := m, data := d, merging := merging, pc := pc, trk := x.trk }
    { x with sb := x.sb ++ [e], sbNext := x.sbNext + 1 }

/-- The thread's buffer takes another store, SEND.MWR or SEND.MGT: not all of its 16 places are held (R236, R292). -/
def Thread.sbRoom (x : Thread) : Bool := decide (x.sb.length < 16)

/-! ### Sending (R292, R295, R296) -/

/-- Change thread `t`. -/
def State.modThr (s : State) (t : Thr) (f : Thread → Thread) : State := s.setThr t (f (s.thr t))

/-- Change buffer entry `id` of thread `t`. -/
def State.modSb (s : State) (t : Thr) (id : Nat) (f : SbEnt → SbEnt) : State :=
  s.modThr t fun x => { x with sb := x.sb.map fun e => if e.id = id then f e else e }

/-- Free the place of entry `id`. -/
def State.dropSb (s : State) (t : Thr) (id : Nat) : State :=
  s.modThr t fun x => { x with sb := x.sb.filter fun e => e.id != id }

/-- Queue a media request whose MTAG is allocated (R49). -/
def State.mpQueue (s : State) (m : MpId) (i : Nat) : State :=
  let x := s.mpAt m
  s.setMp m { x with reqQ := x.reqQ ++ [i], outSince := if x.reqQ = [] then some s.tmo else x.outSince }

/-- The core whose data memory a region names, with the offset. -/
def Reg.ramOf : Reg → Option (CoreId × Nat)
  | .scr n o => some (.node n, o)
  | .chvRam o => some (.chervil, o)
  | _ => none

/-- A load or AMO is performed without leaving the engine: its own scratch, or Chervil's own data RAM. -/
def Reg.isOwn (r : Reg) (c : CoreId) : Bool := match r.ramOf with
  | some (d, _) => d == c
  | none => false

/-- The node whose memory a region lies in. -/
def Reg.nodeOf : Reg → Option NodeId
  | .scr n _ | .prog n _ => some n
  | .reg a => (ndOf a).map (·.1)
  | _ => none

/-- The router of a core withholds an access (R365): one that leaves the core as a Request, not a register access, which is a
Management packet. -/
def State.accHeld (s : State) (c : CoreId) (r : Reg) : Bool :=
  !r.isOwn c && (match r with | .reg _ => false | _ => true) && s.withheld (coreRouter c)

/-- A store, SEND.MWR or SEND.MGT of a thread is discarded: its place is freed and TS.INCOMPLETE set (R226). -/
def State.discard (s : State) (t : Thr) (e : SbEnt) : State :=
  s.modThr t fun x => { x with sb := x.sb.filter (fun b => b.id != e.id), incomplete := true,
                               disc := if x.incomplete then x.disc else BitVec.ofNat 64 e.addr }

/-- A SEND.MWR is discarded (R300): the node treats it as a failed write; its request may still be handed off or never. -/
def State.dropMwr (s : State) (m : MpId) (i : Nat) : State :=
  match (s.mpAt m).mtag i with
  | none => s
  | some g =>
    if g.handed then s
    else
      let c := s.choose
      let s := (c.2.writeDone m i 2).1
      if c.1 then
        s.setMp m ((s.mpAt m).setTag i (some { g with own := .modeFlush, orphan := true, comp := none, onack := none, pair := none, sb := none }))
      else
        let x := s.mpAt m
        s.setMp m { x with reqQ := x.reqQ.filter (· != i) }

/-- An entry is discarded, and a SEND.MWR with its media requests. -/
def State.discardAll (s : State) (t : Thr) (e : SbEnt) : State :=
  let s1 := s.discard t e
  match e.kind with
  | .mwr =>
    let m : MpId := Fin.ofNat 8 e.mp
    let s2 := s1.dropMwr m e.mtag
    (match ((s.mpAt m).mtag e.mtag).bind (·.pair) with
    | some k => s2.dropMwr m k
    | none => s2)
  | _ => s1

/-- A read of an entry finds a parity error: it is discarded as under R226, with SB_PAR (Table 15.1), which Chervil's registers
lack. -/
def State.sbParity (s : State) (t : Thr) (e : SbEnt) : State :=
  let s := s.discardAll t e
  match t.core with
  | .node n => s.raise (ndA n ND_SCRUB_ERR) 6
  | .chervil => s

/-- DRAIN was cut, or skipped with entries live: a write not handed off by then is never written (R431). -/
def State.flushCut (s : State) : Bool :=
  s.mode == .flush && decide (2 ≤ s.fld HA_FLUSH_STAT 1 0) && (s.bit HA_FLUSH_STAT 2 || s.fld HA_FLUSH_STAT 27 12 != 0)

/-- The router of a thread withholds an entry (R365): a request through the fabric; a register write and a message are Management
packets. A write that a cut DRAIN left behind stays unsent. -/
def State.sbHeld (s : State) (t : Thr) (e : SbEnt) : Bool :=
  match e.kind with
  | .mgt => false
  | .mwr => s.withheld (coreRouter t.core) || s.flushCut
  | .st => s.accHeld t.core (regOfCanon e.addr)

/-- Send one entry toward its endpoint; a block-memory store without a free tag is not sent yet, nor one that the router withholds. -/
def State.sbSendOne (s : State) (t : Thr) (e : SbEnt) : State :=
  if e.parBad then s.sbParity t e
  else if s.sbHeld t e then s else
  let sent (s : State) : State := s.modSb t e.id fun e => { e with sent := some s.accLimit, merging := false }
  match e.kind with
  | .mgt => sent s
  | .mwr =>
    let m : MpId := Fin.ofNat 8 e.mp
    let s := s.mpQueue m e.mtag
    let s := match (s.mpAt m).mtag e.mtag with
      | some g => match g.pair with
        | some k => s.mpQueue m k
        | none => s
      | none => s
    sent s
  | .st => match regOfCanon e.addr with
    | .bm b => match s.bmIssue (.acc t (some e.id)) true (b / 64) e.mask e.data with
      | some (_, s) => sent s
      | none => s
    | _ => sent s

/-- The oldest entry not yet sent. -/
def Thread.sbNextOut (x : Thread) : Option SbEnt := x.sb.find? fun e => e.sent.isNone

/-- The oldest unsent entry may be sent: one of FIFO mode, or a merging one that R296 lets go. -/
def Thread.sbMaySend (x : Thread) (e : SbEnt) : Bool :=
  !e.merging || e.mask == BitVec.allOnes 64 || decide (16 ≤ x.sb.length)

/-- Send entries in order while `p` holds of the next one, at most `k`. -/
def State.sbSendWhile (s : State) (t : Thr) (p : SbEnt → Bool) : Nat → State
  | 0 => s
  | k + 1 => match (s.thr t).sbNextOut with
    | none => s
    | some e => if p e then (s.sbSendOne t e).sbSendWhile t p k else s

/-- Let merging entries go that pass, and send what can be sent. -/
def State.sbFlush (s : State) (t : Thr) (last : Option Nat) : State :=
  let ids := (s.thr t).sb.map (·.id)
  let upTo := match last with
    | some i => ids.take (ids.idxOf i + 1)
    | none => ids
  let s := s.modThr t fun x => { x with sb := x.sb.map fun e => if upTo.contains e.id then { e with merging := false } else e }
  s.sbSendWhile t (fun e => upTo.contains e.id) 16

/-- The sends of an event of R296 at which every entry goes: only in merging mode is an entry held back. -/
def State.sbRelease (s : State) (t : Thr) : State := if s.sbm || (s.thr t).sb.any (·.merging) then s.sbFlush t none else s

/-- `STORE_BUFFER_SEND` (R292, R295, R296): the oldest unsent entry is sent when its mode lets it go. -/
def execStoreBufferSend (t : Thr) (s : State) : Out :=
  .next (match (s.thr t).sbNextOut with
    | some e => if (s.thr t).sbMaySend e then (s.sbSendOne t e).goOn else s
    | none => s)

/-- `MERGE_ENTRY_AGE` (R296): 32 issues of the thread have passed since the oldest unsent entry was created; the age counts the
issue that created it too. -/
def execMergeEntryAge (t : Thr) (s : State) : Out :=
  .next (match (s.thr t).sbNextOut with
    | some e => if e.merging && decide (33 ≤ e.age) then (s.sbSendOne t e).goOn else s
    | none => s)

end Sys2Proof.Machine
end

