-- ==== Sys2Proof/Machine/Engine.lean ====
section
/-! DEFINITION. Sys2Proof/Machine/Engine.lean: how a Sage instruction issues (R217 to R232, R263 to R267, R271), how it
traps (R269), how an event is dispatched (R220, R254 to R259, R264) and how a handler ends (R247). -/

namespace Sys2Proof.Machine

/-! ### Threads -/

/-- A general register; g0 reads zero (R219). -/
def Thread.reg (x : Thread) (i : Nat) : Word := if i = 0 then 0 else smGet (fun _ => 0) x.g i
/-- Write a general register; writes to g0 are discarded (R219). -/
def Thread.setReg (x : Thread) (i : Nat) (v : Word) : Thread :=
  if i = 0 then x else { x with g := smSet (fun _ => 0) x.g i v }
/-- An event frame register. -/
def Thread.frame (x : Thread) (i : Nat) : Word := smGet (fun _ => 0) x.f i
/-- Write rd of the thread's instruction. -/
def State.setRd (s : State) (t : Thr) (i : Nat) (v : Word) : State := s.modThr t fun x => x.setReg i v

/-- The priority of a thread: 3 from trap entry to RTE, else that of its entry (R265). -/
def Thread.effPrio (x : Thread) : Nat := if x.trapActive then 3 else x.prio

/-- An index lies in a core's program space (Table 7.1). -/
def pcIn (c : CoreId) (p : Nat) : Bool :=
  match c with
  | .node _ => decide (p < 0x4000)
  | .chervil => decide (p < 0x4000) || (decide (0x10000 ≤ p) && decide (p < 0x20000))

/-- The snoop-filter handle is valid: set, and its way has not entered repair (R221). -/
def Thread.handleOk (x : Thread) : Bool :=
  match x.handle with
  | some (_, .lost) => false
  | h => h.isSome

/-- TS (Table 7.4). -/
def State.tsWord (s : State) (t : Thr) : Word :=
  let x := s.thr t
  let tr := match x.trk with
    | some k => 2 ^ 7 + k * 2 ^ 8
    | none => 0
  BitVec.ofNat 64 (b2n x.priv + 2 * b2n x.incomplete + 4 * b2n x.trapActive + 8 * b2n s.sbm + 16 * t.t.val + tr
    + 2 ^ 18 * b2n x.handleOk)

/-- A core that runs: its threads are released and, for an engine, its quadrant is ON. -/
def State.coreRuns (s : State) (c : CoreId) : Bool :=
  !(s.core c).stopped && (match c with | .node n => s.live n | .chervil => true)

/-- The boot ROM's granule at an index, with what its check says (Table 15.1). -/
def State.romGran (s : State) (g : Nat) : Word × Ecc :=
  let e := eccClass 64 (smGet (fun _ => (0 : BitVec 8)) s.romSyn g).toNat
  (eccFix (Config.bootRom g) e, e)

/-- The instruction at an index, with what its check says (R271, R443). -/
def State.fetch (s : State) (c : CoreId) (p : Nat) : Reg32 × Ecc :=
  let half (g : Word) : Reg32 := BitVec.ofNat 32 (g.toNat >>> (32 * (p % 2)))
  match c with
  | .node _ =>
    let g := (s.core c).progGran (p / 2)
    (half g.1, g.2)
  | .chervil =>
    if p < 0x10000 then
      let g := s.romGran (p / 2)
      (half g.1, g.2)
    else
      let g := s.chv.progGran ((p - 0x10000) / 2)
      (half g.1, g.2)

/-- Address of the error register of a core: ND_ENG_ERR or HA_CHV_ERR; the first six bits agree (R253, R499). -/
def engErrA : CoreId → Nat
  | .node n => ndA n ND_ENG_ERR
  | .chervil => HA_CHV_ERR

/-- Set error bit `i` of a thread's core, capturing KIND `k` (0: no capture) with index `pc` (Tables 7.19, 17.9). -/
def State.engErr (s : State) (t : Thr) (i k pc : Nat) : State :=
  let s := if k = 0 then s else match t.core with
    | .node n => s.capture (ndA n ND_ENG_ERR_CAP) 20 (ndA n ND_ENG_ERR_TS) (t.t.val + pc % 2 ^ 14 * 8 + k * 2 ^ 17)
    | .chervil => s.capture HA_CHV_ERR_CAP 24 HA_CHV_ERR_TS (t.t.val + pc % 2 ^ 17 * 8 + k * 2 ^ 20)
  s.raise (engErrA t.core) i

/-- Halt a thread (R266, R267, R269); KIND of ND_DSP_ERR_CAP and the error bit. -/
def State.haltThr (s : State) (t : Thr) (bit kind : Nat) : State :=
  let x := s.thr t
  let s := s.modThr t fun x => { x with st := .halted, pend := .none }
  match t.core with
  | .node n =>
    (s.captureV (ndA n ND_DSP_ERR_CAP) 17
      (x.evt.toNat + x.cls.toNat * 2 ^ 8 + t.t.val * 2 ^ 11 + kind * 2 ^ 14)).raise (ndA n ND_DSP_ERR) bit
  | .chervil => s.engErr t 7 5 x.pc

/-- Enter the trap of a cause (R269); `epc` as R232 states. -/
def State.trapTo (s : State) (t : Thr) (cause : Nat) (val : Word) (epc : Nat) : State :=
  let x := s.thr t
  let v := x.tvec.toNat + 8 * cause
  if x.trapActive || !pcIn t.core v then s.haltThr t 2 3
  else
    let ts := s.tsWord t
    let s := s.modThr t fun x => { x with ets := ts, epc := BitVec.ofNat 64 epc, ecause := BitVec.ofNat 64 cause, eval := val,
                                          priv := true, trapActive := true, handle := none, pc := v, st := .ready, pend := .none }
    s.sbRelease t

/-! ### Issue -/

/-- What an instruction does: it ends and goes on, transfers control, traps with everything as before, traps with an error
recorded, raises SOFT, stalls, or ends its handler. -/
inductive Res where
  | next (s : State)
  | jump (s : State) (target : Word)
  | trap (cause : Nat) (val : Word)
  | fault (s : State) (cause : Nat) (val : Word)
  | soft (val : Word)
  | stall (s : State) (p : Pend)
  | left (s : State)

/-- Some other READY thread of the core has priority `p`. -/
def Core.rival (c : Core) (t p : Nat) : Bool :=
  (List.range 8).any fun k => k != t && (c.thr k).st == .ready && (c.thr k).effPrio == p

/-- Count an issue: SLICE, the run of the handler, the age of merging entries, and the counter (R266, R267, R296). -/
def State.account (s : State) (t : Thr) : State :=
  let s := s.modThr t fun x =>
    let sl := x.slice - 1
    let sl := if sl = 0 ∧ (s.core t.core).rival t.t.val x.effPrio = false then 512 else sl
    { x with slice := sl, run := x.run + 1, sb := x.sb.map fun e => if e.merging then { e with age := e.age + 1 } else e }
  match t.core with
  | .node n => s.cntN n 0x001 1
  | .chervil => s

/-- The instruction at `pc` is done: go to `to_`, with the PC_RANGE of a fall-through and the STEP trap (R231, R232). -/
def State.goto (s : State) (t : Thr) (pc to_ : Nat) : State :=
  if !pcIn t.core to_ then s.trapTo t 5 (BitVec.ofNat 64 to_) pc
  else
    let s := s.modThr t fun x => { x with pc := to_, st := .ready, pend := .none }
    if bt (s.thr t).tc 1 then s.trapTo t 13 (BitVec.ofNat 64 to_) to_ else s

/-- The last index of a part of the program space: what is there would fall through (R232). -/
def pcLast (c : CoreId) (pc : Nat) : Bool := !pcIn c (pc + 1)

/-- The end of an issue. A fall-through out of the program space traps with everything as before (R232, log entry 29). -/
def State.finish (s : State) (t : Thr) (pc : Nat) : Res → State
  | .next s2 => if pcLast t.core pc then (s.account t).trapTo t 5 (BitVec.ofNat 64 (pc + 1)) pc else (s2.account t).goto t pc (pc + 1)
  | .jump s2 v => if pcIn t.core v.toNat then (s2.account t).goto t pc v.toNat else (s.account t).trapTo t 5 v pc
  | .trap c v => (s.account t).trapTo t c v pc
  | .fault s c v => (s.account t).trapTo t c v pc
  | .soft v => (s.account t).trapTo t 12 v (pc + 1)
  | .stall s2 p =>
    let again := match p with
      | .again _ => true
      | _ => false
    if pcLast t.core pc ∧ again = false then (s.account t).trapTo t 5 (BitVec.ofNat 64 (pc + 1)) pc
    else (if again then s2 else s2.account t).modThr t fun x => { x with st := .stalled, pend := p, via := none }
  | .left s => match t.core with
    | .node n => s.cntN n 0x001 1
    | .chervil => s

/-- It is thread `k`'s turn in the rotation of its priority: no READY thread of the priority with slice left stands before it
(R265; a turn lasts until R266 or YIELD moves the thread, log entry 122). -/
def Core.turn (c : Core) (k : Nat) : Bool :=
  !(c.order.takeWhile (· != k)).any fun j => (c.thr j).st == .ready && (c.thr j).slice != 0 && (c.thr j).effPrio == (c.thr k).effPrio

/-- A thread may issue: READY, on a core that runs, with no READY thread of higher priority, in its turn, and within RUN_LIMIT and
SLICE (R263 to R267). -/
def State.mayIssue (s : State) (t : Thr) : Bool :=
  let c := s.core t.core
  let x := c.thr t.t.val
  s.coreRuns t.core && x.st == .ready && x.slice != 0 && c.turn t.t.val
    && !(List.range 8).any (fun k => (c.thr k).st == .ready && decide (x.effPrio < (c.thr k).effPrio))
    && (match t.core with
      | .node n => decide (x.run ≤ s.fld (ndA n ND_DSP_CTRL) 7 0 * 512)
      | .chervil => true)

/-- The index lies in the boot ROM. -/
def inRom (c : CoreId) (p : Nat) : Bool := c == .chervil && decide (p < 0x10000)

/-- A corrected fetch writes the word back and sets PROG_CE (R271); a word of the boot ROM is not written back, and sets ROM_CE. -/
def State.fetchCe (s : State) (t : Thr) (p : Nat) (e : Ecc) : State :=
  if eccCe e && inRom t.core p then s.raise HA_SCRUB_ERR 5
  else if eccCe e then
    let c := s.core t.core
    let g := match t.core with
      | .node _ => p / 2
      | .chervil => (p - 0x10000) / 2
    (s.setCore t.core { c with prog := memWrite c.prog (8 * g) (c.progGran g).1.toNat 8,
                               progSyn := smSet (fun _ => (0 : BitVec 8)) c.progSyn g 0 }).engErr t 0 0 0
  else s

/-- An uncorrectable fetch (R271, R443): FETCH_UCE with EPC = EVAL = the index; from the boot ROM, ROM_UCE, and SAFE. -/
def State.fetchUce (s : State) (t : Thr) (p : Nat) : State :=
  if inRom t.core p then s.raise HA_SCRUB_ERR 6 else
  ((s.engErr t 1 1 p).account t).trapTo t 6 (BitVec.ofNat 64 p) p

/-- The ILLEGAL and PRIV rules that the word alone decides (R217, R218, R230). -/
def Op.wordFault (o : Op) (c : CoreId) (x : Thread) (w : Reg32) : Option Nat :=
  if w.toNat &&& o.unused ≠ 0 ∨ (c = .chervil ∧ o.engineOnly = true) then some 1
  else if o.super && !x.priv then some 2
  else none

/-- One issue of thread `t` whose command is operation `o` with word `w`: the word must be the one at its pc, and spell
that operation or none (log entry 40). -/
def State.issue (s : State) (t : Thr) (o : Op) (w : Reg32) (f : Thread → State → Res) : State :=
  if !s.mayIssue t then s
  else
    let x := s.thr t
    let r := s.fetch t.core x.pc
    if r.2 = .uce then (s.fetchUce t x.pc).goOn
    else if r.1 ≠ w then s
    else match opOf w with
      | none => ((s.fetchCe t x.pc r.2).finish t x.pc (.trap 1 (w.setWidth 64))).goOn
      | some o' =>
        if o' ≠ o then s
        else
          let s := s.fetchCe t x.pc r.2
          match o.wordFault t.core x w with
          | some c => (s.finish t x.pc (.trap c (w.setWidth 64))).goOn
          | none =>
            let s := s.finish t x.pc (f x s)
            if o.quiet then s else s.goOn

/-- The checks of R232 in their order: ILLEGAL, PRIV, ALIGN with its address, ADDR with its address, STATE with its sub-code. -/
def checks (w : Reg32) (ill priv : Bool) (align addr : Option Word) (st : Option Nat) (k : Res) : Res :=
  if ill then .trap 1 (w.setWidth 64)
  else if priv then .trap 2 (w.setWidth 64)
  else match align, addr, st with
    | some a, _, _ => .trap 3 a
    | none, some a, _ => .trap 4 a
    | none, none, some i => .trap 11 (BitVec.ofNat 64 i)
    | none, none, none => k

/-! ### The end of a handler (R247) -/

/-- The handler of thread `t` ends: the handle and binding are lost, the thread is FREE, its inbox slot is freed, and an
engine-start handler counts as ended (R256, R264). -/
def State.endHandler (s : State) (t : Thr) : State :=
  let s := s.sbRelease t
  let slot := (s.thr t).inbox
  let s := s.modThr t fun x => { x with st := .free, handle := none, trk := none, inbox := none, pend := .none }
  let c := s.core t.core
  s.setCore t.core { c with inbox := (match slot with | some k => c.inbox.filter (· != k) | none => c.inbox),
                            starting := c.starting.filter (· != t.t.val) }

/-! ### Dispatch (R220, R256, R259, R264) -/

/-- The node of a core. -/
def nodeOf : CoreId → Option NodeId
  | .node n => some n
  | .chervil => none

/-- The PRIO of an event's entry (Table 8.3). -/
def State.evPrio (s : State) (c : CoreId) (e : Evt) : Nat := bf (s.pickEntry c e.evt.toNat e.cls.toNat).word 20 19

/-- The next event in priority order and arrival order among those that pass (R264). -/
def State.headEvt (s : State) (c : CoreId) (p : Evt → Bool) : Option Evt :=
  (s.core c).events.foldl (fun b e => if !p e then b else match b with
    | none => some e
    | some o => if s.evPrio c o < s.evPrio c e then some e else b) none

/-- A reservation wake: a wake whose pending conditions include mask bit 5 (R264). -/
def State.resvWake (s : State) (c : CoreId) (e : Evt) : Bool :=
  match c, e.trk with
  | .node n, some k => (e.evt == 0x40 || e.evt == 0x41) &&
      ((s.nd n).trkAt k).wait &&& (s.nd n).pendMask k &&& 32 != 0
  | _, _ => false

/-- The event a core would dispatch now (R264). On Chervil engine start waits among the other events, for the threads that have yet
to receive it. -/
def State.nextEvt (s : State) (c : CoreId) : Option Evt :=
  let x := s.core c
  let free := ((List.range 8).filter fun k => (x.thr k).st == .free).length
  if x.dspStall || !s.coreRuns c || free == 0 then none
  else match c with
    | .chervil => s.headEvt c fun e => e.evt != 0x3E || x.toStart.any fun k => (x.thr k).st == .free
    | .node _ =>
      if x.toStart ≠ [] ∨ x.starting ≠ [] then none
      else if free = 1 then s.headEvt c (s.resvWake c)
      else s.headEvt c fun _ => true

/-- f7 of an event: a wake's datum is formed at dispatch (Table 8.2). -/
def State.datum (s : State) (c : CoreId) (e : Evt) : Word :=
  match c, e.trk with
  | .node n, some k =>
    if e.evt == 0x40 || e.evt == 0x41 then
      let r := (s.nd n).trkAt k
      let b := (s.nd n).lbAt r.lbuf
      BitVec.ofNat 64 (r.lbuf + b2n r.lbufV * 2 ^ 9 + b2n (r.lbufV && b.landed) * 2 ^ 10 + b2n (r.lbufV && b.poison) * 2 ^ 11
        + b2n r.depart * 2 ^ 12 + (r.wait &&& (s.nd n).pendMask k) * 2 ^ 16)
    else e.datum
  | _, _ => e.datum

/-- Bind an event to thread `t` through entry word `w` (R220), its own entry or the catch-all's: a wake starts at RESUME
through its own (Table 8.3; log entry 106). -/
def State.bind (s : State) (t : Thr) (e : Evt) (w : Reg32) (own : Bool) : State :=
  let wake := e.evt == 0x40 || e.evt == 0x41
  let ws : List Word := match t.core, e.trk with
    | .node n, some k => (List.range 6).map fun i => (s.nd n).trkWord k i
    | _, _ => []
  let entry := match t.core, e.trk with
    | .node n, some k => if wake && own then ((s.nd n).trkAt k).resume else bf w 13 0
    | .node _, none => bf w 13 0
    | .chervil, _ => bf w 16 0
  let f0 := BitVec.ofNat 64 (e.evt.toNat + e.cls.toNat * 2 ^ 8
    + (match e.trk with | some k => 2 ^ 11 + k * 2 ^ 12 | none => 0) + t.t.val * 2 ^ 22)
  let set (f : SMap Word) (i : Nat) (v : Word) : SMap Word := smSet (fun _ => 0) f i v
  let fr := (List.range 6).foldl (fun f i => set f (i + 1) (ws.getD i 0)) (set (set [] 0 f0) 7 (s.datum t.core e))
  let priv := t.core = .chervil ∨ bt w 18 = true
  let s := s.modThr t fun x => { x with
    st := .ready, g := [], f := fr, pc := entry, priv := priv, incomplete := false, trapActive := false, trk := e.trk,
    handle := none, pend := .none, slice := 512, run := 0, prio := bf w 20 19, evt := e.evt, cls := e.cls, inbox := e.inbox }
  match t.core, e.trk with
  | .node n, some k => s.modTrk n k fun r => { r with depart := false }
  | _, _ => s

/-- NO_ENTRY, TBL_UCE or DSP_STALL with its capture (R259, Table 8.15; Table 17.9 for Chervil, where NO_ENTRY stands for both). -/
def State.dspErr (s : State) (c : CoreId) (e : Evt) (k : Nat) : State :=
  match c with
  | .node n =>
    let bit := if k = 1 then 0 else if k = 2 then 1 else 4
    (s.captureV (ndA n ND_DSP_ERR_CAP) 17 (e.evt.toNat + e.cls.toNat * 2 ^ 8 + k * 2 ^ 14)).raise
      (ndA n ND_DSP_ERR) bit
  | .chervil =>
    if k = 1 ∨ k = 2 then s.raise HA_CHV_ERR 6
    else s.engErr ⟨.chervil, 0⟩ 8 6 0

/-- Dispatch event `e` to the free thread `t` (R220, R259). -/
def State.dispatch (s : State) (t : Thr) (e : Evt) : State :=
  let drop (s : State) : State := s.setCore t.core { s.core t.core with events := (s.core t.core).events.erase e }
  match s.pickEntry t.core e.evt.toNat e.cls.toNat with
  | .stall uce =>
    let s := s.setCore t.core { s.core t.core with dspStall := true }
    (s.dspErr t.core e (if uce then 2 else 1)).dspErr t.core e 5
  | .own w =>
    let r := match t.core, e.trk with
      | .node n, some k => s.trkCheck n k (List.range 6)
      | _, _ => (false, s)
    if r.1 then drop r.2 else (drop r.2).bind t e w true
  | .any w uce =>
    let r := match t.core, e.trk with
      | .node n, some k => s.trkCheck n k (List.range 6)
      | _, _ => (false, s)
    let s := r.2.dspErr t.core e (if uce then 2 else 1)
    if r.1 then drop s else (drop s).bind t e w false

/-- Dispatch the next event of a core to thread `t` when that thread is FREE and the event passes. -/
def State.dispatchIf (s : State) (t : Thr) (p : Evt → Bool) : State :=
  if (s.thr t).st ≠ .free then s
  else match s.nextEvt t.core with
    | none => s
    | some e =>
      if p e then
        let s := match t.core with
          | .node n => s.cntN n 0x003 1
          | .chervil => s
        (s.dispatch t e).goOn
      else s

/-- Thread `t` receives engine start `e`; an event that finds no entry stays (R259). -/
def State.startWith (s : State) (t : Thr) (e : Evt) : State :=
  match s.pickEntry t.core 0x3E 0 with
  | .stall _ => s.dispatch t e
  | _ =>
    let c := s.core t.core
    let s := s.setCore t.core { c with toStart := c.toStart.filter (· != t.t.val), starting := c.starting ++ [t.t.val] }
    (s.dispatch t e).goOn

/-- Engine start of thread `t` (R264): one to each thread, at an engine before any other event, on Chervil in priority order; the
datum is FULL. -/
def State.startThr (s : State) (t : Thr) : State :=
  let c := s.core t.core
  if !c.toStart.contains t.t.val || (s.thr t).st != .free || c.dspStall || !s.coreRuns t.core then s
  else match t.core with
    | .node _ => s.startWith t c.startEvt
    | .chervil => match s.nextEvt .chervil with
      | some e => if e.evt = 0x3E then s.startWith t e else s
      | none => s

/-- `ENGINE_START` (R264). -/
def execEngineStart (t : Thr) (s : State) : Out := .next (s.startThr t)

/-- `SLICE_EXPIRY` (R266): the thread moves behind every READY thread of its priority, and SLICE returns to 512. -/
def execSliceExpiry (t : Thr) (s : State) : Out :=
  .next (if (s.thr t).slice = 0 ∧ (s.thr t).st = .ready then
    let c := s.core t.core
    (s.setCore t.core { c with order := c.order.filter (· != t.t.val) ++ [t.t.val] }).modThr t fun x => { x with slice := 512 }
  else s)

/-- `RUNAWAY` (R267): a handler that has issued more than RUN_LIMIT × 512 instructions without reaching WAIT or END is halted. -/
def execRunaway (t : Thr) (s : State) : Out :=
  .next (match t.core with
    | .chervil => s
    | .node n =>
      if ((s.thr t).st = .ready ∨ (s.thr t).st = .stalled) ∧ s.fld (ndA n ND_DSP_CTRL) 7 0 * 512 < (s.thr t).run then s.haltThr t 3 4
      else s)

end Sys2Proof.Machine
end

