-- ==== Sys2Proof/Machine/SageMem.lean ====
section
/-! DEFINITION. Sys2Proof/Machine/SageMem.lean: loads, stores and AMO (Table 7.10, R225 to R227, R235, R236, R290 to R296),
and the barriers and system instructions (R222 to R224, R248, R249). -/

namespace Sys2Proof.Machine

/-! ### SECDED memories (R227, R437) -/

/-- A memory with the syndromes of its granules. -/
structure EccMem where
  mem : Memory
  syn : SMap (BitVec 8)
  deriving DecidableEq, Repr

/-- What the check of granule `g` says. -/
def EccMem.check (m : EccMem) (g : Nat) : Ecc := eccClass 64 (smGet (fun _ => (0 : BitVec 8)) m.syn g).toNat

/-- Store granule `g` with a fresh check. -/
def EccMem.put (m : EccMem) (g : Nat) (v : Word) : EccMem :=
  { mem := memWrite m.mem (8 * g) v.toNat 8, syn := smSet (fun _ => (0 : BitVec 8)) m.syn g 0 }

/-- A checked read of granule `g`: its value and the memory, or none for an uncorrectable one; and whether it was
corrected. -/
def EccMem.get (m : EccMem) (g : Nat) : Option Word × Bool × EccMem :=
  let e := m.check g
  let v := eccFix (memGran m.mem g) e
  if e = .uce then (none, false, m)
  else if eccCe e then (some v, true, m.put g v)
  else (some v, false, m)

/-- Write the bytes of granule `g` under an 8-bit mask: a narrow write is a checked read-modify-write (R437). The memory, a
correction, and an uncorrectable read, which discards the write. -/
def EccMem.write (m : EccMem) (g be : Nat) (v : Word) : EccMem × Bool × Bool :=
  if be = 0 then (m, false, false)
  else if be = 255 then (m.put g v, false, false)
  else
    let r := m.get g
    match r.1 with
    | none => (m, false, true)
    | some old =>
      let new := (List.range 8).foldl (fun a i => if be.testBit i then setBf a (8 * i + 7) (8 * i) (bf v (8 * i + 7) (8 * i)) else a) old
      (r.2.2.put g new, r.2.1, false)

/-- Write a line of bytes under a mask, granule by granule; whether some granule was corrected or could not be read. -/
def EccMem.writeLine (m : EccMem) (line : Nat) (be : BitVec 64) (d : Line) : EccMem × Bool × Bool :=
  (List.range 8).foldl (fun a i =>
    let r := a.1.write (8 * line + i) (bf be (8 * i + 7) (8 * i)) (BitVec.ofNat 64 (bf d (64 * i + 63) (64 * i)))
    (r.1, a.2.1 || r.2.1, a.2.2 || r.2.2)) (m, false, false)

/-- Scratch of an engine or data RAM of Chervil. -/
def Core.data (c : Core) : EccMem := { mem := c.ram, syn := c.ramSyn }
/-- Replace it. -/
def Core.setData (c : Core) (m : EccMem) : Core := { c with ram := m.mem, ramSyn := m.syn }
/-- Program memory of a core. -/
def Core.code (c : Core) : EccMem := { mem := c.prog, syn := c.progSyn }
/-- Replace it. -/
def Core.setCode (c : Core) (m : EccMem) : Core := { c with prog := m.mem, progSyn := m.syn }

/-- Record a correction and an uncorrectable word in the registers of the core whose thread made the access (R227). -/
def State.scrErrs (s : State) (t : Thr) (pc : Nat) (ce uce : Bool) : State :=
  let s := if ce then s.engErr t 2 0 0 else s
  if uce then s.engErr t 3 2 pc else s

/-- A checked read of `w` bytes of a core's data memory for thread `t`; none when uncorrectable. -/
def State.ramRead (s : State) (t : Thr) (c : CoreId) (a w : Nat) : Option Word × State :=
  let r := (s.core c).data.get (a / 8)
  let s := (s.setCore c ((s.core c).setData r.2.2)).scrErrs t (s.thr t).pc r.2.1 r.1.isNone
  (r.1.map fun v => BitVec.ofNat 64 (bf v (8 * (a % 8 + w) - 1) (8 * (a % 8))), s)

/-! ### AMO -/

/-- The new value of an AMO: 0 SWAP, 1 ADD, 2 OR, 3 AND, 4 CAS (Table 7.10). -/
def amoNew (fn : Nat) (old v cmp : Word) : Word :=
  match fn with
  | 0 => v
  | 1 => old + v
  | 2 => old ||| v
  | 3 => old &&& v
  | _ => if old = cmp then v else old

/-- A checked AMO on a core's data memory: the old value, or none when uncorrectable. -/
def State.ramAmo (s : State) (t : Thr) (c : CoreId) (a fn : Nat) (v cmp : Word) : Option Word × State :=
  let r := s.ramRead t c a 8
  match r.1 with
  | none => r
  | some old => (some old, r.2.setCore c ((r.2.core c).setData ((r.2.core c).data.put (a / 8) (amoNew fn old v cmp))))

/-! ### Ending an access that a thread waits for -/

/-- A load or AMO of thread `t` ends with a value. -/
def State.pendOk (s : State) (t : Thr) (rd : Nat) (v : Word) : State :=
  let pc := (s.thr t).pc
  (s.setRd t rd v).goto t pc (pc + 1)

/-- A load or AMO of thread `t` traps with its address. -/
def State.pendTrap (s : State) (t : Thr) (cause ea : Nat) : State :=
  s.trapTo t cause (BitVec.ofNat 64 ea) (s.thr t).pc

/-- Some buffered store of the thread overlaps an access. -/
def Thread.overlapped (x : Thread) (a w : Nat) : Bool := x.sb.any fun e => e.overlaps a w

/-- Perform or send a load whose bytes no buffered store holds. -/
def State.loadNow (s : State) (t : Thr) (rd w ea : Nat) (r : Reg) : Res :=
  if s.accHeld t.core r then .stall s (.load rd w ea none) else
  match r with
  | .bm b => match s.bmIssue (.acc t none) false (b / 64) 0 0 with
    | none => .stall s (.again .tag)
    | some (_, s) => .stall s (.load rd w ea (some s.accLimit))
  | _ =>
    match r.ramOf with
    | some (c, o) =>
      if c = t.core then
        let v := s.ramRead t c o w
        match v.1 with
        | some d => .next (v.2.setRd t rd d)
        | none => .fault v.2 7 (BitVec.ofNat 64 ea)
      else .stall s (.load rd w ea (some s.accLimit))
    | none => .stall s (.load rd w ea (some s.accLimit))

/-- The last buffered store that overlaps an access. -/
def Thread.lastOver (x : Thread) (a w : Nat) : Option SbEnt := (x.sb.filter fun e => e.overlaps a w).getLast?

/-- A load or AMO waits for the stores it overlaps; in merging mode they are sent (R295, R296). -/
def State.waitStores (s : State) (t : Thr) (e : SbEnt) (p : Pend) : Res :=
  .stall (if s.sbm || (s.thr t).sb.any (·.merging) then s.sbFlush t (some e.id) else s) p

/-- A load (R235, R295, R296). An uncorrectable word of the thread's own memory traps at once. -/
def State.loadGo (s : State) (t : Thr) (x : Thread) (rd w ea : Nat) (r : Reg) : Res :=
  let a := r.canon
  let isReg := match r with
    | .reg _ => true
    | _ => false
  match x.lastOver a w with
  | some e =>
    if e.parBad then .stall (s.sbParity t e) (.load rd w ea none)
    else if !s.sbm && !isReg && e.covers a w then .next (s.setRd t rd (e.value a w))
    else s.waitStores t e (.load rd w ea none)
  | none => s.loadNow t rd w ea r

/-- An AMO (R235, R295). -/
def State.amoGo (s : State) (t : Thr) (x : Thread) (rd fn : Nat) (v cmp : Word) (ea : Nat) (r : Reg) : Res :=
  match x.lastOver r.canon 8 with
  | some e => s.waitStores t e (.amo rd fn v cmp ea none)
  | none => if s.accHeld t.core r then .stall s (.amo rd fn v cmp ea none) else match r with
    | .bm b => match s.bmIssue (.acc t none) false (b / 64) 0 0 with
      | none => .stall s (.again .tag)
      | some (_, s) => .stall s (.amo rd fn v cmp ea (some s.accLimit))
    | _ => match r.ramOf with
      | some (c, o) =>
        if c = t.core then
          let q := s.ramAmo t c o fn v cmp
          match q.1 with
          | some old => .next (q.2.setRd t rd old)
          | none => .fault q.2 7 (BitVec.ofNat 64 ea)
        else .stall s (.amo rd fn v cmp ea (some s.accLimit))
      | none => .next s

/-- A load of `w` bytes. -/
def State.loadOp (s : State) (t : Thr) (o : Op) (w : Reg32) (n : Nat) : State :=
  s.issue t o w fun x s =>
    let v := x.reg (iRs1 w) + iImmS w
    let r := s.regionOf t.core v.toNat
    let ok := match r with
      | some r => r.widthOk false n
      | none => false
    checks w false (eaSuper v.toNat && !x.priv) (if v.toNat % n ≠ 0 then some v else none) (if ok then none else some v) none
      (match r with
       | some r => s.loadGo t x (iRd w) n v.toNat r
       | none => .next s)
/-- A store of `w` bytes (R235, R236). -/
def State.storeOp (s : State) (t : Thr) (o : Op) (w : Reg32) (n : Nat) : State :=
  s.issue t o w fun x s =>
    let v := x.reg (iRs1 w) + iImmS w
    let r := s.regionOf t.core v.toNat
    let ok := match r with
      | some r => r.widthOk true n
      | none => false
    let isReg := match r with
      | some (.reg _) => true
      | _ => false
    checks w false (eaSuper v.toNat && !x.priv) (if v.toNat % n ≠ 0 then some v else none) (if ok then none else some v) none
      (match r with
       | some r =>
         if x.sbRoom then .next (s.modThr t fun x => x.sbStore s.sbm isReg r.canon n (x.reg (iRd w)) x.pc)
         else .stall s (.again .sbFull)
       | none => .next s)

/-- An AMO instruction. -/
def State.amoOp (s : State) (t : Thr) (o : Op) (w : Reg32) : State :=
  s.issue t o w fun x s =>
    let v := x.reg (iRs1 w)
    let r := s.regionOf t.core v.toNat
    let ok := match r with
      | some r => r.amoOk
      | none => false
    checks w false (eaSuper v.toNat && !x.priv) (if v.toNat % 8 ≠ 0 then some v else none) (if ok then none else some v) none
      (match r with
       | some r => s.amoGo t x (iRd w) (iFunc w) (x.reg (iRs2 w)) (x.reg (iRd w)) v.toNat r
       | none => .next s)
/-- `LD8` (R235). -/
def execLd8 (t : Thr) (w : BitVec 32) (s : State) : Out := .next (s.loadOp t .ld8 w 1)
/-- `LD16` (R235). -/
def execLd16 (t : Thr) (w : BitVec 32) (s : State) : Out := .next (s.loadOp t .ld16 w 2)
/-- `LD32` (R235). -/
def execLd32 (t : Thr) (w : BitVec 32) (s : State) : Out := .next (s.loadOp t .ld32 w 4)
/-- `LD64` (R235). -/
def execLd64 (t : Thr) (w : BitVec 32) (s : State) : Out := .next (s.loadOp t .ld64 w 8)
/-- `ST8` (R235). -/
def execSt8 (t : Thr) (w : BitVec 32) (s : State) : Out := .next (s.storeOp t .st8 w 1)
/-- `ST16` (R235). -/
def execSt16 (t : Thr) (w : BitVec 32) (s : State) : Out := .next (s.storeOp t .st16 w 2)
/-- `ST32` (R235). -/
def execSt32 (t : Thr) (w : BitVec 32) (s : State) : Out := .next (s.storeOp t .st32 w 4)
/-- `ST64` (R235). -/
def execSt64 (t : Thr) (w : BitVec 32) (s : State) : Out := .next (s.storeOp t .st64 w 8)
/-- `AMO_SWAP` (R235). -/
def execAmoSwap (t : Thr) (w : BitVec 32) (s : State) : Out := .next (s.amoOp t .amoSwap w)
/-- `AMO_ADD` (R235). -/
def execAmoAdd (t : Thr) (w : BitVec 32) (s : State) : Out := .next (s.amoOp t .amoAdd w)
/-- `AMO_OR` (R235). -/
def execAmoOr (t : Thr) (w : BitVec 32) (s : State) : Out := .next (s.amoOp t .amoOr w)
/-- `AMO_AND` (R235). -/
def execAmoAnd (t : Thr) (w : BitVec 32) (s : State) : Out := .next (s.amoOp t .amoAnd w)
/-- `AMO_CAS` (R235). -/
def execAmoCas (t : Thr) (w : BitVec 32) (s : State) : Out := .next (s.amoOp t .amoCas w)

/-! ### Barriers (R248) and system instructions (R249) -/

/-- CBAR and CBAR.T: wait until the buffer is empty, then report or trap on TS.INCOMPLETE. -/
def State.barrier (s : State) (t : Thr) (o : Op) (w : Reg32) (trap : Bool) : State :=
  s.issue t o w fun x s =>
    if x.sb ≠ [] then .stall (s.sbRelease t) (.again .barrier)
    else if trap || bt x.tc 0 then
      (if x.incomplete then .trap 9 x.disc else .next (s.setRd t (iRd w) 0))
    else .next (s.setRd t (iRd w) (BitVec.ofNat 64 (b2n x.incomplete)))

/-- `CBAR` (R248). -/
def execCbar (t : Thr) (w : BitVec 32) (s : State) : Out := .next (s.barrier t .cbar w false)
/-- `CBAR_T` (R248). -/
def execCbarT (t : Thr) (w : BitVec 32) (s : State) : Out := .next (s.barrier t .cbarT w true)

/-- `YIELD` (R249): behind every other ready thread of its priority; the slice restarts after this issue. -/
def execYieldT (t : Thr) (w : BitVec 32) (s : State) : Out :=
  .next (s.issue t .yieldT w fun _ s =>
    let c := s.core t.core
    .next ((s.setCore t.core { c with order := c.order.filter (· != t.t.val) ++ [t.t.val] }).modThr t fun x => { x with slice := 513 }))

/-- `RTE` (R249): STATE 9 outside a trap; PRIV, INCOMPLETE and the tracker binding return from ETS. The handle stays lost, as the
trap left it (R221, log entry 38). -/
def execRte (t : Thr) (w : BitVec 32) (s : State) : Out :=
  .next (s.issue t .rte w fun x s =>
    checks w false false none none (if x.trapActive then none else some 9)
      (let s := s.sbRelease t
       .jump (s.modThr t fun x => { x with
          trapActive := false, priv := t.core == .chervil || bt x.ets 0, incomplete := bt x.ets 1,
          trk := if bt x.ets 7 then some (bf x.ets 17 8) else none })
         x.epc))

/-- `TRAP` (R249): SOFT with EVAL := imm16. -/
def execTrap (t : Thr) (w : BitVec 32) (s : State) : Out := .next (s.issue t .trap w fun _ _ => .soft (iImmZ w))

/-- A control register (Table 7.3); none for a number not listed. -/
def State.csr (s : State) (t : Thr) (i : Nat) : Option Word :=
  let x := s.thr t
  let chv := t.core == .chervil
  match i with
  | 0x000 => some (s.tsWord t)
  | 0x001 => some x.tc
  | 0x002 => some x.epc
  | 0x003 => some x.ecause
  | 0x004 => some x.eval
  | 0x005 => some x.ets
  | 0x006 => some x.tvec
  | 0x007 => some x.sscr
  | 0x100 => some 0x100
  | 0x101 => some (if chv then 0x387 else 0x7FF)
  | 0x102 => some (match t.core with | .node n => BitVec.ofNat 64 n.val | .chervil => 0x3F)
  | 0x103 => some (s.time.setWidth 64)
  | 0x104 => some (BitVec.ofNat 64 (s.fld HA_RST_STAT 2 0))
  | 0x105 => some (BitVec.ofNat 64 s.mode.code)
  | 0x106 => some (BitVec.ofNat 64 x.slice)
  | _ => none

/-- `CRR` (R222, R249). -/
def execCrr (t : Thr) (w : BitVec 32) (s : State) : Out :=
  .next (s.issue t .crr w fun x s =>
    let v := s.csr t (bf w 15 0)
    checks w v.isNone (!x.priv) none none none (.next (s.setRd t (iRd w) (v.getD 0))))

/-- The bits of a control register that CRW may write as 1 (Tables 7.3 to 7.5): a 1 anywhere else names a field not writable, and
no bit of a number not listed or read-only may be written (R222, log entry 121). -/
def csrBits (i : Nat) : Option Word :=
  match i with
  | 0x000 => some 2
  | 0x001 => some 3
  | 0x003 => some 31
  | 0x002 | 0x004 | 0x005 | 0x006 | 0x007 => some (BitVec.allOnes 64)
  | _ => none

/-- `CRW` (R222 to R224, R249): TS takes only a 1 to INCOMPLETE; a write of TC.STEP outside MANUFACTURE and RETURNED is ignored. -/
def execCrw (t : Thr) (w : BitVec 32) (s : State) : Out :=
  .next (s.issue t .crw w fun x s =>
    let v := x.reg (iRs1 w)
    let put (f : Thread → Thread) : Res := .next (s.modThr t f)
    let ill := match csrBits (bf w 15 0) with
      | some m => v &&& ~~~m != 0
      | none => true
    checks w ill (!x.priv) none none none <| match bf w 15 0 with
    | 0x000 => put fun x => if bt v 1 then { x with incomplete := false } else x
    | 0x001 =>
      let keep := if s.lcOpen then bf v 1 1 else bf x.tc 1 1
      put fun x => { x with tc := BitVec.ofNat 64 (bf v 0 0 + 2 * keep) }
    | 0x002 => put fun x => { x with epc := v }
    | 0x003 => put fun x => { x with ecause := v }
    | 0x004 => put fun x => { x with eval := v }
    | 0x005 => put fun x => { x with ets := v }
    | 0x006 => put fun x => { x with tvec := v }
    | _ => put fun x => { x with sscr := v })

end Sys2Proof.Machine
end

