-- ==== Sys2Proof/Machine/SageArrays.lean ====
section
/-! DEFINITION. Sys2Proof/Machine/SageArrays.lean: the line-buffer, snoop-filter, tracker and placement instructions of an
engine (Tables 7.11 to 7.13b, R237 to R244). -/

namespace Sys2Proof.Machine

/-- A word with only its top bit set, the answer of LBA and SFSEC that found nothing. -/
def topBit : Word := BitVec.ofNat 64 (2 ^ 63)

/-- Issue an instruction that only an engine has. -/
def State.issueN (s : State) (t : Thr) (o : Op) (w : Reg32) (f : NodeId → Thread → State → Res) : State :=
  match t.core with
  | .node n => s.issue t o w (f n)
  | .chervil => s.issue t o w fun _ s => .next s

/-- The STATE sub-code of an instruction that needs a bound tracker (Table 7.8a). -/
def needTrk (x : Thread) : Option Nat := if x.trk.isNone then some 1 else none

/-! ### Line buffer (Table 7.11) -/

/-- A line-buffer entry as read: a parity error poisons it (Table 15.1). -/
def State.lbGet (s : State) (n : NodeId) (e : Nat) : Lbe × State :=
  let b := (s.nd n).lbAt e
  if b.parBad ≠ 0 then
    let b := { b with poison := true, parBad := 0 }
    (b, (s.modNd n fun x => x.setLb e b).raise (ndA n ND_SCRUB_ERR) 5)
  else (b, s)

/-- STATE 1 without a tracker, STATE 3 for an entry that the tracker does not own (R238). -/
def State.lbState (s : State) (n : NodeId) (x : Thread) (es : List Nat) : Option Nat :=
  if x.trk.isNone then some 1
  else if es.any (fun e => ((s.nd n).lbAt e).own != x.trk) then some 3
  else none

/-- An instruction on entry rs1[8:0] that yields a value for rd and a new entry. -/
def State.lbOne (s : State) (t : Thr) (o : Op) (w : Reg32) (rd : Bool) (f : Thread → Lbe → Word × Lbe) : State :=
  s.issueN t o w fun n x s =>
    let e := bf (x.reg (iRs1 w)) 8 0
    checks w false false none none (s.lbState n x [e])
      (let r := s.lbGet n e
       let v := f x r.1
       let s := r.2.modNd n fun y => y.setLb e v.2
       .next (if rd then s.setRd t (iRd w) v.1 else s))

/-- `LBM` (R238): the second entry fills the bytes the first one's mask leaves open. -/
def execLbm (t : Thr) (w : BitVec 32) (s : State) : Out :=
  .next (s.issueN t .lbm w fun n x s =>
    let d := bf (x.reg (iRs1 w)) 8 0
    let e := bf (x.reg (iRs2 w)) 8 0
    checks w false false none none (s.lbState n x [d, e])
      (let a := s.lbGet n d
       let b := a.2.lbGet n e
       let r : Lbe := { a.1 with data := mergeBytes b.1.data a.1.data a.1.mask, mask := BitVec.allOnes 64, poison := a.1.poison || b.1.poison }
       .next (b.2.modNd n fun y => y.setLb d r)))

/-- `LBA` (R238): allocate an entry to the flow, or note that it waits for one. -/
def execLba (t : Thr) (w : BitVec 32) (s : State) : Out :=
  .next (s.issueN t .lba w fun n x s =>
    checks w false false none none (needTrk x)
      (match x.trk with
       | none => .next s
       | some k => match (s.nd n).freeLb with
         | some i => .next ((s.modNd n fun y => y.giveLb k i).setRd t (iRd w) (BitVec.ofNat 64 i))
         | none =>
           let s := s.modNd n fun y =>
             let y := y.setTrk k { y.trkAt k with lbWant := true, lbGot := false }
             if y.lbWait.contains k then y else { y with lbWait := y.lbWait ++ [k] }
           .next ((s.cntN n 0x015 1).setRd t (iRd w) topBit)))

/-- `LBF` (R238): free an entry. -/
def execLbf (t : Thr) (w : BitVec 32) (s : State) : Out :=
  .next (s.issueN t .lbf w fun n x s =>
    let e := bf (x.reg (iRs1 w)) 8 0
    checks w false false none none (s.lbState n x [e])
      (match x.trk with
       | none => .next s
       | some k =>
         let s := s.modNd n fun y => y.setLb e {}
         .next (if ((s.nd n).trkAt k).lbuf = e then s.updTrk n k 2 fun r => r.setW2 32 32 0 else s)))

/-- `LBLD` (R238): eight bytes of an entry. -/
def execLbld (t : Thr) (w : BitVec 32) (s : State) : Out :=
  .next (s.lbOne t .lbld w true fun _ b => (BitVec.ofNat 64 (bf b.data (64 * bf w 13 11 + 63) (64 * bf w 13 11)), b))

/-- `LBST` (R238): write eight bytes of an entry and their mask bits. -/
def execLbst (t : Thr) (w : BitVec 32) (s : State) : Out :=
  .next (s.lbOne t .lbst w false fun x b =>
    let k := bf w 13 11
    (0, { b with data := setBf b.data (64 * k + 63) (64 * k) (x.reg (iRd w)).toNat, mask := setBf b.mask (8 * k + 7) (8 * k) 255 }))

/-- `LBMASK` (R238). -/
def execLbmask (t : Thr) (w : BitVec 32) (s : State) : Out := .next (s.lbOne t .lbmask w true fun _ b => (b.mask, b))

/-- `LBSTAT` (R238): LANDED and POISON. -/
def execLbstat (t : Thr) (w : BitVec 32) (s : State) : Out :=
  .next (s.lbOne t .lbstat w true fun _ b => (BitVec.ofNat 64 (2 * b2n b.landed + b2n b.poison), b))

/-! ### Snoop filter (Tables 7.12 to 7.12b) -/

/-- The sector of a PLA in a register. -/
def regSector (v : Word) : Nat := bf v 39 2

/-- Set a thread's handle. -/
def State.setHandle (s : State) (t : Thr) (h : Nat × HLoc) : State := s.modThr t fun x => { x with handle := some h }

/-- Search the ways of a group with their checks (R161 step 1, R170): an uncorrectable way goes to repair, unless four
repairs run at the node (R172). -/
def State.bankFind (s : State) (n : NodeId) (p : BankPos) : BankRes × State :=
  p.ways.foldl (fun a w =>
    let k := bankKey p.set w
    let s := a.2
    let x := s.nd n
    match a.1 with
    | .miss =>
      if x.repairs.any (fun r => !r.ovf && r.key == k) || x.resv.any (fun r => r.1 == k) then a
      else match s.wayRead n k 2 with
        | (.hit _ f, s) =>
          let e := entLive x.cons f
          let s := if e = f then s else s.modNd n fun x => x.setEntry k e
          if entValid e && bf e 19 0 == p.tag then (.hit k e, s) else (.miss, s)
        | r => r
    | _ => a) (.miss, s)

/-- The status bits of a miss: UNKNOWN in conservative tracking (R177). -/
def State.missWord (s : State) (n : NodeId) : Word := if (s.nd n).cons then BitVec.ofNat 64 (2 ^ 58) else 0

/-- SFL ends with the entry at a place. -/
def State.sflHit (s : State) (t : Thr) (rd sec : Nat) (l : HLoc) (e : Word) : State :=
  let ovf := match l with
    | .ovf _ _ => true
    | _ => false
  (s.setHandle t (sec, l)).setRd t rd (BitVec.ofNat 64 (bf e 55 0 + 2 ^ 56 + b2n ovf * 2 ^ 57))

/-- SFL ends without an entry. -/
def State.sflMiss (s : State) (n : NodeId) (t : Thr) (rd sec : Nat) : State :=
  ((s.setHandle t (sec, .miss)).setRd t rd (s.missWord n)).cntN n 0x00D 1

/-- A sector must wait at a lookup: a way reserved for it, or a way in repair of which it is a candidate (R156, R172). -/
def Node.blocked (x : Node) (sec : Nat) : Bool := x.inRepair sec || x.reserved sec

/-- The search of the overflow set that was read (R161 step 2, R170, R174): the way found and its entry, with the repairs
it started; full while an uncorrectable way waits for one of four repairs to end (R172). -/
def State.ovfFind (s : State) (n : NodeId) (sec : Nat) (data : Line) (err : BmErr) : BankRes × State :=
  let set := s.ovfSet sec
  if !bmGood err then (.miss, s.ovfLost n set)
  else
    let r := s.ovfCheck n set data true
    let hit := r.2.1.find? fun e => entValid e.2 && bf e.2 19 0 == s.ovfTag sec
    (match r.1, hit with
      | true, _ => .full
      | _, some e => .hit e.1 e.2
      | _, none => .miss, r.2.2)

/-- `SFL` (R161, R239): look a sector up and set the handle. -/
def execSfl (t : Thr) (w : BitVec 32) (s : State) : Out :=
  .next (s.issueN t .sfl w fun n x s =>
    let sec := regSector (x.reg (iRs1 w))
    let rd := iRd w
    if (s.nd n).blocked sec then
      (if (s.nd n).inRepair sec && s.rwb n x.trk then
        .next ((s.setHandle t (sec, .miss)).setRd t rd (BitVec.ofNat 64 (2 ^ 60)))
      else .stall s (.again (.sector sec)))
    else match s.bankPos n sec with
      | none =>
        .next (((s.setHandle t (sec, .miss)).setRd t rd (BitVec.ofNat 64 (2 ^ 59) ||| s.missWord n)).raise (ndA n ND_SF_ERR) 6)
      | some p =>
        let r := s.bankFind n p
        let s := r.2
        if (s.nd n).inRepair sec then .stall s (.again (.sector sec))
        else match r.1 with
        | .full => .stall s (.again .repairs)
        | .hit k e => .next ((s.sflHit t rd sec (.bank k) e).cntN n 0x00B 1)
        | .miss =>
          let s := if s.bit HA_OVF_CTRL 0 then s.rmapCheck n (s.region sec / 64) else s
          if s.regionHit n sec then
            let l := s.ovfLine (s.ovfSet sec)
            if !s.bmIn l then
              .next (((s.bmErrs .address).ovfLost n (s.ovfSet sec)).sflMiss n t rd sec)
            else match s.bmIssue (.sflOvf t) false l 0 0 with
              | some (_, s) => .stall s (.ovf rd sec)
              | none => .stall s (.again .tag)
          else .next (s.sflMiss n t rd sec))

/-- The overflow set that an SFL of thread `t` waits for was read. -/
def State.sflOvfDone (s : State) (t : Thr) (data : Line) (err : BmErr) : State :=
  match t.core, (s.thr t).pend with
  | .node n, .ovf rd sec =>
    let pc := (s.thr t).pc
    let r := s.ovfFind n sec data err
    let s := r.2
    if (s.nd n).inRepair sec then s.modThr t fun x => { x with pend := .again (.sector sec) }
    else match r.1 with
      | .hit w e => ((s.sflHit t rd sec (.ovf (s.ovfSet sec) w) e).cntN n 0x00C 1).goto t pc (pc + 1)
      | .full => s.modThr t fun x => { x with pend := .again .repairs }
      | .miss => (s.sflMiss n t rd sec).goto t pc (pc + 1)
  | _, _ => s

/-- STATE of SFA: no tracker, or no handle that missed for the sector. -/
def sfaState (x : Thread) (sec : Nat) : Option Nat :=
  if x.trk.isNone then some 1 else if x.handle = some (sec, .miss) then none else some 7

/-- `SFA` (R155, R156, R239): take a way for the sector that missed. -/
def execSfa (t : Thr) (w : BitVec 32) (s : State) : Out :=
  .next (s.issueN t .sfa w fun n x s =>
    let sec := regSector (x.reg (iRs1 w))
    let mine := (s.nd n).resv.any (fun r => some r.2.1 == x.trk) || (s.nd n).evicts.any fun v => v.req.isSome && v.req == x.trk
    checks w false false none none (sfaState x sec)
      (if (s.nd n).inRepair sec || (!mine && (s.nd n).reserved sec) then .stall s (.again (.sector sec))
       else match x.trk, s.bankPos n sec with
        | some k, some p =>
          let r := s.bankFind n p
          if (r.2.nd n).inRepair sec then .stall r.2 (.again (.sector sec))
          else match r.1 with
          | .full => .stall r.2 (.again .repairs)
          | .hit j _ => .next ((r.2.setHandle t (sec, .bank j)).setRd t (iRd w) 0)
          | .miss =>
            let v := r.2.wayFor n k sec
            .next (v.2.setRd t (iRd w) (BitVec.ofNat 64 v.1))
        | _, _ => .next (s.setRd t (iRd w) 2)))

/-- Where an SFU writes: the way of the thread's handle, or the way reserved for the flow, with the tag it carries (R156). -/
def State.sfuPlace (s : State) (n : NodeId) (x : Thread) (sec : Nat) : Option (HLoc × Option Nat) :=
  let res : Option (HLoc × Option Nat) := match x.trk with
    | none => none
    | some k => ((s.nd n).resv.find? fun r => r.2.1 == k).map fun r =>
      (.bank r.1, some (match s.bankPos n r.2.2 with | some p => p.tag | none => 0))
  match x.handle with
  | some (h, .bank k) => if h = sec then some (.bank k, none) else res
  | some (h, .ovf st wy) => if h = sec then some (.ovf st wy, none) else res
  | _ => res

/-- Overflow way `k` as an update reads it, with the check of R170. -/
def State.sfuOvf (s : State) (n : NodeId) (k : Nat) (e : Word) : BankRes × State :=
  match (entCheck e).1 with
  | .good => (.hit k e, s)
  | .uce => if 4 ≤ (s.nd n).repairs.length then (.full, s) else (.miss, s.repairStart n true k e (entCheck e).2 3)
  | _ => (.hit k (entFix e), s.entCe n)

/-- Read the way that an SFU writes, with its check (R170). -/
def State.sfuRead (s : State) (n : NodeId) (l : HLoc × Option Nat) : BankRes × State :=
  match l.1 with
  | .bank k => match s.wayRead n k 2 with
    | (.hit k e, s) => (.hit k (match l.2 with | some g => setBf e 19 0 g | none => e), s)
    | r => r
  | .ovf set wy =>
    s.sfuOvf n (8 * set + wy) (s.ovfAt (8 * set + wy))
  | _ => (.miss, s)

/-- The entry after R151: with every line I it is written as zeros, or as kept-empty in conservative tracking; LOSS bits
keep the tag; and a line that leaves I turns the other IK lines to I. -/
def entClose (cons : Bool) (old e : Word) : Word :=
  let held (v : Word) (n : Nat) : Bool := entLs v n == 1 || entLs v n == 2
  let rose := (List.range 4).any fun n => !held old n && held e n
  let e := if rose then (List.range 4).foldl (fun e n => if entLs e n = 3 then entSetLs e n 0 else e) e else e
  if (List.range 4).any (held e) then e
  else
    let e := setBf (setBf (setBf e 27 20 (if cons then 255 else 0)) 47 28 0) 51 50 0
    if cons || entLoss e then e else 0

/-- The update word (Table 7.12b) applied to an entry by R241, before its check; `clear` as R518 states. -/
def entUpdate (cons clear : Bool) (ans : Option (Nat × Nat)) (u e : Word) : Word :=
  let held := entHolds e
  let add := bt u 12
  let host := bf u 25 16
  let line (e2 : Word) (n : Nat) : Word :=
    if bt u n then
      let v := bf u (5 + 2 * n) (4 + 2 * n)
      let e2 := entSetLs e2 n (if v = 3 ∧ cons = false then 0 else v)
      if bt u 26 then setBt e2 (lossPos n) true else if clear then setBt e2 (lossPos n) false else e2
    else e2
  let e1 := (List.range 4).foldl line e
  let e1 := if add then entSetShr e1 (if held then widen (entSel e1) (entShr e1) host else (0, host)) else e1
  let rem : Word × Bool :=
    if bt u 13 && decide (entSel e1 ≤ 1) then
      (match removeHost (entSel e1) (entShr e1) host with
       | some f => (entSetShr e1 f, false)
       | none => (e1, true))
    else (e1, false)
  let ex : Word × Bool :=
    if bt u 14 then
      (match ans, add with
       | some f, true => (entSetShr rem.1 (widen f.1 f.2 host), rem.2)
       | some f, false => (entSetShr rem.1 f, rem.2)
       | none, true => (entSetShr rem.1 (0, host), rem.2)
       | none, false => (rem.1, true))
    else rem
  let e2 := if ex.2 then (List.range 4).foldl (fun e2 n => if entLs e2 n = 1 ∨ entLs e2 n = 2 then entSetLs e2 n 0 else e2) ex.1 else ex.1
  let e3 := entClose cons e e2
  if e3 = 0 then 0 else setBf e3 53 52 (if bt u 15 then 3 else 0)

/-- An SFU with nothing to record: no ADD, no LOSS, and every line named in LSET becomes I (R241). Code 11 is I only outside
conservative tracking (R143). -/
def sfuEmpty (cons : Bool) (u : Word) : Bool :=
  !bt u 12 && !bt u 26 && (List.range 4).all fun n =>
    !bt u n || bf u (5 + 2 * n) (4 + 2 * n) == 0 || (!cons && bf u (5 + 2 * n) (4 + 2 * n) == 3)

/-- The update word as EVACUATE carries it out (R34, R100, R151): a grant withheld adds no host, and a line it would have granted
is as the answers leave it: S where a clean copy stays, else I (log entry 119). -/
def Trk.evacWord (r : Trk) (e u : Word) : Word :=
  if !bt u 12 then u
  else
    let stays (n : Nat) : Bool := bf u (5 + 2 * n) (4 + 2 * n) == 1 && !r.isWr && (entLs e n == 1 || (entLs e n == 2 && bt r.w3 11))
    (List.range 4).foldl (fun u n => if bt u n then setBf u (5 + 2 * n) (4 + 2 * n) (b2n (stays n)) else u) (setBt u 12 false)

/-- The update word of an SFU in the mode of the block. -/
def State.modeWord (s : State) (n : NodeId) (k : Option Nat) (e u : Word) : Word :=
  match s.mode, k with
  | .evacuate, some k => ((s.nd n).trkAt k).evacWord e u
  | _, _ => u

/-- Count the lines whose Owned record an SFU of a flow with LOST 1 ends (R422). -/
def State.countLost (s : State) (r : Trk) (e e2 : Word) : State :=
  let k := ((List.range 4).filter fun i => entLs e i == 2 && entLs e2 i != 2).length
  if bt r.w3 13 && k != 0 && (s.ses r.lostHost).st == .departing then
    s.setSes r.lostHost { s.ses r.lostHost with lost := (s.ses r.lostHost).lost + BitVec.ofNat 32 k }
  else s

/-- `SFU` (R241): apply an update word through the handle or the reserved way. -/
def execSfu (t : Thr) (w : BitVec 32) (s : State) : Out :=
  .next (s.issueN t .sfu w fun n x s =>
    let sec := regSector (x.reg (iRs1 w))
    let u := x.reg (iRs2 w)
    let ill := decide (bf u 63 27 ≠ 0) || (bt u 12 && bt u 13)
    let lost := x.handle == some (sec, .lost)
    let place := s.sfuPlace n x sec
    let empty := sfuEmpty (s.nd n).cons (s.modeWord n x.trk 0 u)
    let st := if x.trk.isNone then some 1 else if !lost && place.isNone && !empty then some 7 else none
    checks w ill false none none st
      (if lost then .next (s.setRd t (iRd w) 1)
       else if (s.nd n).inRepair sec then .stall s (.again (.sector sec))
       else match x.trk, place with
        | some k, some l => (match s.sfuRead n l with
          | (.full, s) => .stall s (.again .repairs)
          | (.miss, s) => if l.2.isSome then .stall s (.again .repairs) else .next (s.setRd t (iRd w) 1)
          | (.hit _ e, s) =>
            let r := (s.nd n).trkAt k
            let clear := r.isWr || r.wbSeen
            let ans := if r.ansAny then some (r.ansSel.toNat, r.ansShr.toNat) else none
            let e2 := entUpdate (s.nd n).cons clear ans (s.modeWord n (some k) e u) e
            let e2 := if e2 = 0 then 0 else entSeal e2
            let s0 := s
            let s := s.countLost r e e2
            let done (s : State) : State := (s.modNd n fun y => { y with resv := y.resv.filter fun q => q.2.1 != k }).setRd t (iRd w) 0
            (match l.1 with
             | .bank j => .next (done (s.modNd n fun y => y.setEntry j e2))
             | .ovf set wy =>
               let line : Line := BitVec.ofNat 512 (e2.toNat * 2 ^ (64 * wy))
               let old := memLine s.bmem (s.ovfLine set)
               (match ((s.ovfCount e e2).ovfPut (8 * set + wy) e2).bmIssue (.ovfWr n) true (s.ovfLine set) (BitVec.ofNat 64 (255 * 2 ^ (8 * wy))) line with
                | none => .stall s0 (.again .tag)
                | some (i, s) => .next (done (s.bmKeep i old)))
             | _ => .next s))
        | _, _ => .next (s.setRd t (iRd w) 0)))

/-- Read the way that SFRD or SFSEC names, with its check (R170, R239): it is stalled while an uncorrectable way waits for one of
four repairs to end; `f` gives rd from the entry, as it counts at the node (R143), or from none. -/
def State.wayWord (s : State) (n : NodeId) (t : Thr) (rd k : Nat) (f : Option Word → Word) : Res :=
  if (s.nd n).repairs.any (fun q => !q.ovf && q.key == k) && (s.readWay n k).2.1 then .next (s.setRd t rd (f none))
  else match s.wayRead n k 2 with
    | (.hit _ e, s) => .next (s.setRd t rd (f (some (entLive (s.nd n).cons e))))
    | (.miss, s) => .next (s.setRd t rd (f none))
    | (.full, s) => .stall s (.again .repairs)

/-- `SFRD` (R239): read a way with its check. -/
def execSfrd (t : Thr) (w : BitVec 32) (s : State) : Out :=
  .next (s.issueN t .sfrd w fun n x s =>
    let k := bankKey (bf (x.reg (iRs1 w)) 12 0) (bf (x.reg (iRs1 w)) 16 13)
    let resv := (s.nd n).resv.any (fun r => r.1 == k) || (s.nd n).evicts.any fun v => v.req.isSome && v.key == k
    let rep := (s.nd n).repairs.any fun r => !r.ovf && r.key == k
    s.wayWord n t (iRd w) k fun e => match e with
      | none => BitVec.ofNat 64 (b2n resv * 2 ^ 57 + b2n rep * 2 ^ 58 + 2 ^ 59)
      | some e => BitVec.ofNat 64 (bf e 55 0 + b2n (entValid e) * 2 ^ 56 + b2n resv * 2 ^ 57 + b2n rep * 2 ^ 58))

/-- `SFSEC` (R239): the sector of a valid entry. -/
def execSfsec (t : Thr) (w : BitVec 32) (s : State) : Out :=
  .next (s.issueN t .sfsec w fun n x s =>
    let set := bf (x.reg (iRs1 w)) 12 0
    let way := bf (x.reg (iRs1 w)) 16 13
    let k := bankKey set way
    s.wayWord n t (iRd w) k fun e => match e with
      | some e => if entValid e then BitVec.ofNat 64 (s.sectorOf n set way (bf e 19 0)) else topBit
      | none => topBit)

/-! ### Trackers (Table 7.13) -/

/-- `TALLOC` (R242). -/
def execTalloc (t : Thr) (w : BitVec 32) (s : State) : Out :=
  .next (s.issueN t .talloc w fun n x s =>
    let sw := x.reg (iRs1 w)
    let ill := (bf sw 3 0 != 3 && bf sw 3 0 != 4) || bf sw 63 33 != 0
    checks w ill (!x.priv) none none none
      (let r := s.tallocGo n sw (BitVec.ofNat 40 (bf (x.reg (iRs2 w)) 39 0))
       .next (r.2.setRd t (iRd w) (BitVec.ofNat 64 r.1))))

/-- `TFIND` (R242): the active flow of a line and how many wait behind it. -/
def execTfind (t : Thr) (w : BitVec 32) (s : State) : Out :=
  .next (s.issueN t .tfind w fun n x s =>
    checks w false false none none (needTrk x)
      (let c := (s.nd n).chain (bf (x.reg (iRs1 w)) 39 0)
       let v := match c with
         | [] => 0
         | a :: l => a + 2 ^ 10 + min l.length 1023 * 2 ^ 11
       .next (s.setRd t (iRd w) (BitVec.ofNat 64 v))))

/-- Flow `t` holds a line. -/
def Node.holdsLine (x : Node) (t : Nat) : Bool := (x.linesOf t).any fun l => x.active l == some t

/-- `TCHAIN` (R195, R242): join the chain of a line, or of the four lines of a sector when instruction bit 11 is 1. -/
def execTchain (t : Thr) (w : BitVec 32) (s : State) : Out :=
  .next (s.issueN t .tchain w fun n x s =>
    let st := match x.trk with
      | none => some 1
      | some k => if (s.nd n).holdsLine k then some 8 else none
    checks w false false none none st
      (match x.trk with
       | none => .next s
       | some k =>
         let l := bf (x.reg (iRs1 w)) 39 0
         let four := bt w 11
         let ls := if four then (List.range 4).map fun i => l / 4 * 4 + i else [l]
         let s := ls.foldl (fun s l =>
           let s := if (s.nd n).chain l = [] then s else s.cntN n 0x014 1
           s.modNd n fun y => y.join l k) s
         let s := s.updTrk n k 2 fun r => r.setW2 22 22 (b2n four)
         let s := if four then s.updTrk n k 0 fun r => { r with w0 := setBf r.w0 25 24 0 } else s
         .next (s.setRd t (iRd w) (if (s.nd n).headAll k then 1 else 0))))

/-- STATE of TFREE (Table 7.8a). -/
def State.tfreeState (s : State) (n : NodeId) (x : Thread) : Option Nat :=
  match x.trk with
  | none => some 1
  | some k =>
    let r := (s.nd n).trkAt k
    if r.snpOut ≠ 0 ∨ r.rdOut = true ∨ r.wrOut = true ∨ (r.ledgered = true ∧ r.rsp = false) then some 6 else none

/-- `TFREE` (R242): a wedged flow keeps its tracker and lines (R188). -/
def execTfree (t : Thr) (w : BitVec 32) (s : State) : Out :=
  .next (s.issueN t .tfree w fun n x s =>
    checks w false false none none (s.tfreeState n x)
      (match x.trk with
       | none => .next s
       | some k =>
         let s := s.modThr t fun x => { x with trk := none }
         .next (if ((s.nd n).trkAt k).wedged then s else s.freeTrk n k)))

/-- A word of a tracker as an instruction reads it; an uncorrectable word wedges the flow and reads as a free value
(R188, log entry 4). -/
def State.trkRead (s : State) (n : NodeId) (k i : Nat) : Word × State :=
  let r := s.trkCheck n k [i]
  if r.1 then (Config.freeValue r.2.free, { r.2 with free := r.2.free + 1 }) else ((r.2.nd n).trkWord k i, r.2)

/-- `TRD` (R242). -/
def execTrd (t : Thr) (w : BitVec 32) (s : State) : Out :=
  .next (s.issueN t .trd w fun n x s =>
    checks w false false none none (needTrk x)
      (match x.trk with
       | none => .next s
       | some k =>
         let r := s.trkRead n k (bf w 13 11)
         .next (r.2.setRd t (iRd w) r.1)))

/-- `TWR` (R243): words 6 and 7 whole, LOST and REREAD of word 3. -/
def execTwr (t : Thr) (w : BitVec 32) (s : State) : Out :=
  .next (s.issueN t .twr w fun n x s =>
    let i := bf w 13 11
    let v := x.reg (iRs1 w)
    let st := if x.trk.isNone then some 1 else if i = 3 ∨ i = 6 ∨ i = 7 then none else some 2
    checks w false false none none st
      (match x.trk with
       | none => .next s
       | some k =>
         if i = 3 then
           let r := s.trkCheck n k [3]
           .next (if r.1 then r.2 else r.2.modTrk n k fun q => (q.setW3 13 13 (bf v 13 13)).setW3 15 15 (bf v 15 15))
         else
           .next (s.modTrk n k fun q =>
             let q := { q with syn := smSet (fun _ => (0 : BitVec 8)) q.syn i 0 }
             if i = 6 then { q with w6 := v } else { q with w7 := v })))

/-- `TRDX` (R242). -/
def execTrdx (t : Thr) (w : BitVec 32) (s : State) : Out :=
  .next (s.issueN t .trdx w fun n x s =>
    let v := x.reg (iRs1 w)
    let r := s.trkRead n (bf v 9 0) (bf v 12 10)
    .next (r.2.setRd t (iRd w) r.1))

/-! ### Placement (R244, R323, R324) -/

/-- A placed line: FRAME and MOVED of word 4 are written, and rd is set. -/
def State.plkOk (s : State) (n : NodeId) (t : Thr) (rd : Nat) (pla : BitVec 40) (e : Word) (moved : Bool) : State :=
  let s := match (s.thr t).trk with
    | some k => s.updTrk n k 4 fun r => (r.setW4 48 29 (plcFrame e moved)).setW4 49 49 (b2n (bt e 1 && moved))
    | none => s
  s.setRd t rd (s.plcResult e moved pla)

/-- A lookup that failed: STAT 1 or 2, word 4 unchanged, PLC_FAULT (R324). -/
def State.plkBad (s : State) (t : Thr) (rd stat : Nat) : State := (s.raise HA_XLT_ERR 2).setRd t rd (plcStat stat)

/-- The partition class of a fill by PLK: 0 for KIND 0 and 1 flows, 1 for internal flows and at supervisor privilege
(Table 10.4). -/
def State.plcClass (s : State) (n : NodeId) (x : Thread) : BitVec 2 :=
  match x.trk with
  | some k => if x.priv || decide (2 ≤ ((s.nd n).trkAt k).kind) then 1 else 0
  | none => 1

/-- Where a placement lookup stands once its entry is known: done, or the moved bit is still to be read. -/
def State.plkEnt (s : State) (n : NodeId) (t : Thr) (rd : Nat) (pla : BitVec 40) (e : Word) (fresh : Bool) : Res :=
  if plcFault e then .next (s.plkBad t rd 1)
  else if bt e 1 then
    let l := s.movLine (bf e 45 42) pla
    if !s.bmIn l then .next ((s.bmErrs .address).plkBad t rd 2)
    else match s.bmIssue (.plk t) false l 0 0 with
      | some (i, s) => .stall (s.bmFresh i fresh) (.plk rd pla (some e))
      | none => .stall s (.again .tag)
  else .next ((if fresh then s.plcFill n (plaExt pla) (s.plcClass n (s.thr t)) e else s).plkOk n t rd pla e false)

/-- Read the placement entry of a line (R323); outside block memory the lookup fails at once (R50). -/
def State.plkRead (s : State) (t : Thr) (rd : Nat) (pla : BitVec 40) : Res :=
  let l := s.plcLine (plaExt pla)
  if !s.bmIn l then .next ((s.bmErrs .address).plkBad t rd 2)
  else match s.bmIssue (.plk t) false l 0 0 with
    | some (_, s) => .stall s (.plk rd pla none)
    | none => .stall s (.again .tag)

/-- `PLK` (R244). -/
def execPlk (t : Thr) (w : BitVec 32) (s : State) : Out :=
  .next (s.issueN t .plk w fun n x s =>
    let pla : BitVec 40 := BitVec.ofNat 40 (bf (x.reg (iRs1 w)) 39 0)
    checks w false false none none (needTrk x)
      (match s.plcHit n (plaExt pla) with
       | (some e, s) => s.plkEnt n t (iRd w) pla e false
       | (none, s) => (s.cntN n 0x011 1).plkRead t (iRd w) pla))

/-- The placement read of a PLK of thread `t` ended (R244, R319, R323, R324): what an invalidation overtook is read again, and
an entry read for the lookup is cached once neither it nor its moved bit failed. -/
def State.plkDone (s : State) (t : Thr) (fresh stale : Bool) (data : Line) (err : BmErr) : State :=
  match t.core, (s.thr t).pend with
  | .node n, .plk rd pla ent =>
    let pc := (s.thr t).pc
    let fin (r : Res) : State := match r with
      | .next s => s.goto t pc (pc + 1)
      | .stall s p => s.modThr t fun x => { x with pend := p }
      | _ => s
    if !bmGood err then fin (.next (s.plkBad t rd 2))
    else if stale && (ent.isNone || fresh) then fin (s.plkRead t rd pla)
    else match ent with
      | some e =>
        let s := if fresh then s.plcFill n (plaExt pla) (s.plcClass n (s.thr t)) e else s
        fin (.next (s.plkOk n t rd pla e (bt data (movBit pla))))
      | none =>
        let k := plaExt pla % 8
        fin (s.plkEnt n t rd pla (BitVec.ofNat 64 (bf data (64 * k + 63) (64 * k))) true)
  | _, _ => s

end Sys2Proof.Machine
end

