-- ==== Sys2Proof/Machine/SageSend.lean ====
section
/-! DEFINITION. Sys2Proof/Machine/SageSend.lean: SEND in its five forms (R245, R246), WAIT and END (R247). -/

namespace Sys2Proof.Machine

/-! ### Snoops -/

/-- func[6:4] of SEND.SNP: the snoop opcode. -/
def snpOpc (w : Reg32) : BitVec 3 := BitVec.ofNat 3 (bf w 6 4)
/-- func[8:7] of SEND.SNP: BLK. -/
def snpBlk (w : Reg32) : Nat := bf w 8 7
/-- func[10:9] of SEND.SNP: the set of hosts. -/
def snpSet (w : Reg32) : Nat := bf w 10 9

/-- SEND.SNP names an opcode and BLK that Table 7.14a allows. -/
def snpBad (w : Reg32) : Bool :=
  let o := bf w 6 4
  o == 3 || o == 7 || (if o < 3 then snpBlk w != 0 else snpBlk w != 1 && snpBlk w != 2)

/-- The lines a snoop covers, as a mask within its sector (R79). -/
def snpLines (blk : Nat) (pla : Nat) : BitVec 4 :=
  match blk with
  | 0 => BitVec.ofNat 4 (2 ^ (pla % 4))
  | 1 => BitVec.ofNat 4 (3 * 2 ^ (pla % 4))
  | _ => 15

/-- A PLA that is not aligned for its form (R79). -/
def snpMisaligned (blk pla : Nat) : Bool :=
  match blk with
  | 0 => false
  | 1 => pla % 2 != 0
  | _ => pla % 4 != 0

/-- The sharer field that records a sector, in its bank way or in block memory: a PTR1 or PTR2 field names host `h` (R520). -/
def State.ptrNames (s : State) (n : NodeId) (sec h : Nat) : Bool :=
  let named (e : Word) : Bool := entHolds e && decide (entSel e ≤ 1) && entNames e h
  let bank := (s.bankPos n sec).bind fun p => ((s.nd n).wayOf p).map fun w => entFix ((s.nd n).entry (bankKey p.set w))
  match bank with
  | some e => named e
  | none => s.bit HA_OVF_CTRL 0 && (List.range 8).any fun w =>
    let e := entFix (s.ovfAt (8 * s.ovfSet sec + w))
    bf e 19 0 == s.ovfTag sec && named e

/-- The hosts SEND.SNP snoops (Table 7.14a, R146, R520): those of the sharer field in rs2 with an open session, without or with
the requester; one host; or every attached host. A host named by a pointer is never skipped. -/
def State.snpHosts (s : State) (n : NodeId) (set : Nat) (rs2 : Word) (self : Nat) (pla : BitVec 40) : List Nat × Bool :=
  let one := s.ptrNames n (plaSector pla) (bf rs2 9 0)
  match set with
  | 0 => ((s.holders rs2 pla).filter fun h => h != self, decide (entSel rs2 ≤ 1))
  | 1 => (s.holders rs2 pla, decide (entSel rs2 ≤ 1))
  | 2 => (s.openHosts.filter fun h => h == bf rs2 9 0 && !s.skips h one pla, one)
  | _ => (s.attachedHosts.filter fun h => !s.skips h false pla, false)

/-- `SEND_SNP` (R245): rd and SNP_OUT count the hosts snooped. -/
def execSendSnp (t : Thr) (w : BitVec 32) (s : State) : Out :=
  .next (s.issueN t .sendSnp w fun n x s =>
    let pla : BitVec 40 := BitVec.ofNat 40 (bf (x.reg (iRs1 w)) 39 0)
    let al := if snpMisaligned (snpBlk w) pla.toNat then some (x.reg (iRs1 w)) else none
    checks w (snpBad w) false al none (needTrk x)
      (match x.trk with
       | none => .next s
       | some k =>
         let r := (s.nd n).trkAt k
         let hs := s.snpHosts n (snpSet w) (x.reg (iRs2 w)) r.host.toNat pla
         let s := s.updTrk n k 3 fun r => r.setW3 10 0 (r.snpOut + hs.1.length)
         let s := s.cntN n 0x00A hs.1.length
         let s := if snpSet w = 3 ∧ (s.nd n).cons = true then s.cntN n 0x018 1 else s
         let q : Snoop := { op := snpOpc w, blk := BitVec.ofNat 2 (snpBlk w), host := 0, pla := pla,
                            lines := snpLines (snpBlk w) pla.toNat, own := .flow n k, named := hs.2 }
         .next ((s.sendSnoops n q hs.1).setRd t (iRd w) (BitVec.ofNat 64 hs.1.length))))

/-! ### Media reads and writes -/

/-- Frames 0 to 63 hold the metadata region: S only (Table 7.14a). -/
def metaFrame (a : Nat) : Bool := decide (a / 2 ^ 26 % 2 ^ 20 < 64)

/-- The flow may not send line data while a write-back of its line is under way (R191). -/
def State.heldByWb (s : State) (n : NodeId) (k : Nat) : Bool :=
  let r := (s.nd n).trkAt k
  r.wbSeen && s.wbPending n r.pla

/-- Send the reads of SEND.MRD: one LINE_RD, one SECTOR_RD, or four LINE_RD toward a partner without SECTOR_RD (R92). The
first tag and the state; none when the port lacks free MTAGs. -/
def State.mrdGo (s : State) (n : NodeId) (k : Nat) (sector : Bool) (a : BitVec 46) (es : List Nat) : Option (Nat × State) :=
  let m := s.mpOf a
  let att := (s.mpAt m).att
  let rd (a : BitVec 46) (es : List Nat) (left : BitVec 4) : Mtag := { own := .flow n k, kind := .rd, maddr := a, ents := es, left := left }
  if !sector then s.mpIssue m (rd a es 1)
  else if att.ver == 2 && bt att.caps 0 then s.mpIssue m (rd a es 15)
  else
    (List.range 4).foldl (fun o i => match o with
      | none => none
      | some (g, s) => match s.mpIssue m (rd (a + BitVec.ofNat 46 (64 * i)) [es.getD i 0] 1) with
        | none => none
        | some (h, s) => some (if i = 0 then h else g, s)) (some (0, s))

/-- Media reads that SEND.MRD sends. -/
def State.mrdCount (s : State) (sector : Bool) (a : BitVec 46) : Nat :=
  let att := (s.mpAt (s.mpOf a)).att
  if !sector || (att.ver == 2 && bt att.caps 0) then 1 else 4

/-- `SEND_MRD` (R245). -/
def execSendMrd (t : Thr) (w : BitVec 32) (s : State) : Out :=
  .next (s.issueN t .sendMrd w fun n x s =>
    let v := x.reg (iRs2 w)
    let sector := bt w 4
    let a : BitVec 46 := BitVec.ofNat 46 (bf (x.reg (iRs1 w)) 45 0)
    let es := if sector then [bf v 8 0, bf v 17 9, bf v 26 18, bf v 35 27] else [bf v 8 0]
    let al := if a.toNat % (if sector then 256 else 64) ≠ 0 then some (x.reg (iRs1 w)) else none
    checks w false (metaFrame a.toNat && !x.priv) al none (s.lbState n x es)
      (match x.trk with
       | none => .next s
       | some k => match s.mrdGo n k sector a es with
         | none => .stall s (.again .tag)
         | some (g, s) =>
           let m := (s.mpOf a).val
           .next ((s.updTrk n k 4 fun r => ((r.setW4 2 0 m).setW4 26 15 g).setW4 28 28 1).cntN n 0x012 (s.mrdCount sector a))))

/-- Take an MTAG without queueing its request, which waits in a store buffer (R245). -/
def State.mpAlloc (s : State) (m : MpId) (g : Mtag) : Option (Nat × State) :=
  match (s.mpAt m).freeTag with
  | none => none
  | some i => some (i, s.setMp m ((s.mpAt m).setTag i (some { g with at_ := s.tmo })))

/-- The MTAGs of a LINE_WR: one, or the two of a mirrored pair (R335). -/
def State.mwrTags (s0 : State) (m : MpId) (g : Mtag) : Option (Nat × State) :=
  let s := s0.mirrorRead m
  match s.mirrorOf m g.maddr with
  | none => s.mpAlloc m g
  | some src => match s.mpAlloc m g with
    | none => none
    | some (i, s) => match s.mpAlloc m { g with maddr := src, pair := some i, comp := none, sb := none } with
      | none => none
      | some (j, s) => some (i, s.setMp m ((s.mpAt m).setTag i (some { g with pair := some j, at_ := s.tmo })))

/-- A SEND.MWR is the host's own write: not the POISON write that a flow makes first for a line it has marked lost (R422). -/
def Trk.ownWrite (r : Trk) (poison : Bool) : Bool := r.ledgered && r.isWr && !(poison && bt r.w3 13)

/-- The CMP that the hand-off of a host's own write carries (R30, R115): that of a write without DHINT 01 that has sent no
response. -/
def State.cmpOf (s : State) (n : NodeId) (k : Nat) (poison : Bool) : Option (HpId × Nat × BitVec 64) :=
  let r := (s.nd n).trkAt k
  if r.ownWrite poison && !s.dhint r && !r.rsp then
    some (r.port, r.ledger, ndrWord 0 r.host r.tag (s.devload n r.port r.cls) 0 0)
  else none

/-- The port and acceptance order of the write with DHINT 01 that a flow serves (R118). -/
def State.dhOf (s : State) (r : Trk) : Option (HpId × Nat) :=
  if r.ledgered && r.isWr && s.dhint r then ((s.hpAt r.port).led r.ledger).map fun e => (r.port, e.seq) else none

/-- `SEND_MWR` (R245, R289): the entry's data and POISON are captured now; it leaves through the store buffer. -/
def execSendMwr (t : Thr) (w : BitVec 32) (s : State) : Out :=
  .next (s.issueN t .sendMwr w fun n x s =>
    let e := bf (x.reg (iRs2 w)) 8 0
    let a : BitVec 46 := BitVec.ofNat 46 (bf (x.reg (iRs1 w)) 45 0)
    let al := if a.toNat % 64 ≠ 0 then some (x.reg (iRs1 w)) else none
    checks w false (metaFrame a.toNat && !x.priv) al none (s.lbState n x [e])
      (match x.trk with
       | none => .next s
       | some k =>
         if 16 ≤ x.sb.length then .stall s (.again .sbFull)
         else if s.heldByWb n k then .stall s (.again (.writeBack ((s.nd n).trkAt k).pla))
         else
           let b := s.lbGet n e
           let s := b.2
           let m := s.mpOf a
           let r := (s.nd n).trkAt k
           let comp := s.cmpOf n k (bt w 4)
           let g : Mtag := { own := .flow n k, kind := .wr, maddr := a, data := b.1.data, poison := b.1.poison || bt w 4,
                             comp := comp, sb := some (t.t, x.sbNext),
                             loss := r.ownWrite (bt w 4) && !s.dhint r && comp.isNone, dh := s.dhOf r }
           match s.mwrTags m g with
           | none => .stall s (.again .tag)
           | some (i, s) =>
             let s := s.updTrk n k 4 fun r => ((r.setW4 2 0 m.val).setW4 14 3 i).setW4 27 27 1
             let s := if comp.isSome then s.modTrk n k fun r => { r with rsp := true } else s
             let b : SbEnt := { id := x.sbNext, kind := .mwr, addr := a.toNat, pc := x.pc, trk := some k, mp := m.val, mtag := i, merging := s.sbm }
             .next ((s.modThr t fun x => { x with sb := x.sb ++ [b], sbNext := x.sbNext + 1 }).cntN n 0x013 1)))

/-! ### Responses (R246) -/

/-- A response word that Table 7.14b does not allow. -/
def rspBad (v : Word) (data : Bool) : Bool :=
  let o := bf v 3 0
  bf v 63 12 != 0 || (if data then decide (1 < o) || bf v 9 8 == 3 || bt v 10 || bt v 11
    else (decide (2 < o) && o != 4) || bf v 9 8 != 0 || (o != 0 && (bt v 10 || bt v 11)))

/-- STATE of SEND.RSP (Table 7.8a). -/
def State.rspState (s : State) (n : NodeId) (x : Thread) (v : Word) (data : Bool) (e : Nat) : Option Nat :=
  match x.trk with
  | none => some 1
  | some k =>
    let r := (s.nd n).trkAt k
    if data && ((s.nd n).lbAt e).own != some k then some 3
    else if r.rsp then some 4
    else if bt v 11 && !r.wrOut then some 9
    else none

/-- `SEND_RSP` (R246): the response leaves now, or with ONACK is held by the media port shell of WR_MTAG; while the node's router
withholds, the thread waits (R365). EVACUATE withholds
every grant: GRANT is 0, and CMP_S and CMP_E are CMP (R34, R100, log entry 119). A flow without a ledger entry answers nobody: its
response is marked sent (log entry 120). -/
def execSendRsp (t : Thr) (w : BitVec 32) (s : State) : Out :=
  .next (s.issueN t .sendRsp w fun n x s =>
    let v := x.reg (iRs1 w)
    let data := bt w 4
    let e := bf (x.reg (iRs2 w)) 8 0
    checks w (rspBad v data) false none none (s.rspState n x v data e)
      (match x.trk with
       | none => .next s
       | some k =>
         let r := (s.nd n).trkAt k
         if data && s.heldByWb n k then .stall s (.again (.writeBack r.pla))
         else if s.withheld n.val then .stall s (.again .router)
         else
           let dl := s.devload n r.port r.cls
           let sent (s : State) : State := s.modTrk n k fun r => { r with rsp := true }
           if !r.ledgered then .next (sent s)
           else if data then
             let b := s.lbGet n e
             let grant := if s.mode = .evacuate then 0 else bf v 9 8
             .next (sent (b.2.answerDrs r.port r.ledger (drsWord (bf v 3 0) r.host r.tag dl grant (bf v 7 4)) b.1.data b.1.poison))
           else
             let opc := if s.mode = .evacuate ∧ bf v 3 0 ≤ 2 then 0 else bf v 3 0
             let nd := ndrWord opc r.host r.tag dl (bf v 7 4) (bf v 10 10)
             if bt v 11 then
               let m : MpId := Fin.ofNat 8 (bf r.w4 2 0)
               let i := bf r.w4 14 3
               let s := match (s.mpAt m).mtag i with
                 | some g => s.setMp m ((s.mpAt m).setTag i (some { g with onack := some (r.port, r.ledger, nd) }))
                 | none => s
               .next (sent s)
             else .next (sent (s.answerNdr r.port r.ledger nd))))

/-! ### Management messages -/

/-- The 64 bytes SEND.MGT sends: local scratch of an engine, data RAM of Chervil, which has no scratch (log entry 46). -/
def State.mgtSrc (s : State) (c : CoreId) (a : Nat) : Option Nat :=
  match s.regionOf c a, c with
  | some (.scr m o), .node n => if m = n ∧ a < 0x8000 then some o else none
  | some (.chvRam o), .chervil => some o
  | _, _ => none

/-- `SEND_MGT` (R245): the message takes a store-buffer place until it is delivered. -/
def execSendMgt (t : Thr) (w : BitVec 32) (s : State) : Out :=
  .next (s.issue t .sendMgt w fun x s =>
    let v := x.reg (iRs1 w)
    let a := (x.reg (iRs2 w)).toNat
    let toChv := bt v 5
    let dst : CoreId := if toChv then .chervil else .node (Fin.ofNat 32 (bf v 4 0))
    let al := if a % 64 ≠ 0 then some (x.reg (iRs2 w)) else none
    let src := s.mgtSrc t.core a
    let ad := if src.isNone then some (x.reg (iRs2 w))
      else if !toChv && !s.inService (Fin.ofNat 32 (bf v 4 0)) then some v else none
    checks w (bf v 63 6 != 0) (!toChv && !x.priv) al ad none
      (if 16 ≤ x.sb.length then .stall s (.again .sbFull)
       else
         let b : SbEnt := { id := x.sbNext, kind := .mgt, addr := a, data := memLine (s.core t.core).ram (src.getD 0 / 64),
                            pc := x.pc, trk := x.trk, dst := dst, merging := s.sbm }
         .next (s.modThr t fun x => { x with sb := x.sb ++ [b], sbNext := x.sbNext + 1 })))

/-! ### WAIT and END (R247) -/

/-- `WAIT` (R247). -/
def execWait (t : Thr) (w : BitVec 32) (s : State) : Out :=
  .next (s.issueN t .wait w fun n x s =>
    let m := bf w 25 19
    checks w (m == 0) false none none (needTrk x)
      (match x.trk with
       | none => .next s
       | some k =>
         let s := s.updTrk n k 2 fun r => r.setW2 39 33 m
         let s := (s.updTrk n k 0 fun r => { r with w0 := setBf r.w0 21 8 (bf w 13 0) }).modTrk n k fun r => { r with waiting := true }
         .left ((s.endHandler t).wake n k)))

/-- `END` (R247): STATE 5 with a tracker bound. -/
def execEndH (t : Thr) (w : BitVec 32) (s : State) : Out :=
  .next (s.issue t .endH w fun x s =>
    checks w false false none none (if x.trk.isSome then some 5 else none) (.left (s.endHandler t)))

end Sys2Proof.Machine
end

