-- ==== Sys2Proof/Machine/BlockMem.lean ====
section
/-! DEFINITION. Sys2Proof/Machine/BlockMem.lean: the end of a block-memory request (R50, R93, R94, R299, R442, Table 2.3), and
the end of a buffered access of a thread. -/

namespace Sys2Proof.Machine

/-! ### Buffered accesses (R226, R287, R292, R299) -/

/-- A thread whose load or AMO waited for buffered stores goes on once none overlaps (R295). -/
def State.pendPoll (s : State) (t : Thr) : State :=
  let x := s.thr t
  let fin (s : State) (r : Res) : State := match r with
    | .next s => s.goto t x.pc (x.pc + 1)
    | .fault s c v => s.trapTo t c v x.pc
    | .stall s p => s.modThr t fun x => { x with pend := p, via := none }
    | _ => s
  match x.st, x.pend with
  | .stalled, .load rd w ea none => match s.regionOf t.core ea with
    | some r => if x.overlapped r.canon w then s else fin s (s.loadNow t rd w ea r)
    | none => s
  | .stalled, .amo rd fn v cmp ea none => match s.regionOf t.core ea with
    | some r => if x.overlapped r.canon 8 then s else fin s (s.amoGo t x rd fn v cmp ea r)
    | none => s
  | _, _ => s

/-- The line of a block-memory store reached its endpoint: merge its bytes (Table 3.16). -/
def State.bmStore (s : State) (line : Nat) (be : BitVec 64) (data : Line) : State :=
  { s with bmem := memWriteBe s.bmem (64 * line) data be 64 }

/-! ### Readers of block memory -/

/-- The placement read of an assist ended (R260, R319, R323, R324, R442). -/
def State.aplResp (s : State) (n : NodeId) (t : Nat) (ent : Option Word) (fresh stale : Bool) (data : Line) (err : BmErr) : State :=
  let r := (s.nd n).trkAt t
  if !r.v then s
  else if !bmGood err then s.aplFault n t 2
  else if stale && (ent.isNone || fresh) then s.aplRead n t
  else match ent with
    | some e => (if fresh then s.plcFill n (plaExt r.pla) 0 e else s).aplDone n t e (bt data (movBit r.pla))
    | none =>
      let k := plaExt r.pla % 8
      s.aplEnt n t (BitVec.ofNat 64 (bf data (64 * k + 63) (64 * k))) true

/-- The bytes `be` of a write are performed, but those that a later write of the line has written already (R94). -/
def State.bmLand (s : State) (r : BmReq) (be : BitVec 64) : State :=
  (s.bmStore r.line (be &&& ~~~r.later) r.data).bmCover r.line r.seq be

/-- The load or AMO of thread `t` on block memory ended (R227, R299, log entry 47). -/
def State.accResp (s : State) (t : Thr) (r : BmReq) (data : Line) (err : BmErr) : State :=
  let line := r.line
  let cause := if err = .uncorrectable then 7 else 8
  match (s.thr t).pend with
  | .load rd w ea (some _) =>
    if bmGood err then s.pendOk t rd (BitVec.ofNat 64 (bf data (8 * (ea % 64 + w) - 1) (8 * (ea % 64)))) else s.pendTrap t cause ea
  | .amo rd fn v cmp ea (some _) =>
    let put (s : State) (old : Word) : State := s.bmLand { r with data := laneData ea (amoNew fn old v cmp) 8 } (laneMask ea 8)
    if bmGood err then
      let old : Word := BitVec.ofNat 64 (bf data (8 * (ea % 64 + 8) - 1) (8 * (ea % 64)))
      (put s old).pendOk t rd old
    else
      let s := if err = .timeout then
          (let c := s.choose
           if c.1 then put c.2 (BitVec.ofNat 64 (memRead s.bmem (64 * line + ea % 64) 8)) else c.2) else s
      s.pendTrap t cause ea
  | _ => s

/-- The program scrubber's rewrite from the shadow (Table 15.2) of the granule that it read as `val` with syndrome `syn`: a newer
write of the granule stands, and the rewrite is dropped without error (R440). -/
def State.shadowResp (s : State) (n : NodeId) (g : Nat) (val : Word) (syn : BitVec 8) (data : Line) (err : BmErr) : State :=
  if !bmGood err then s.raise (ndA n ND_SCRUB_ERR) 1
  else if memGran (s.nd n).core.prog g ≠ val ∨ synAt (s.nd n).core.progSyn g ≠ syn then s
  else
    let v : Word := BitVec.ofNat 64 (bf data (64 * (g % 8) + 63) (64 * (g % 8)))
    (s.modNd n fun x => { x with core := x.core.setCode (x.core.code.put g v) }).raise (ndA n ND_SCRUB_ERR) 0

/-- The bytes of a write that it has written when it ends: with error 10 some of them, with no response all or none, which is
open (R94, R300); with an address fault none. -/
def State.bmWrote (s : State) (r : BmReq) (err : BmErr) : BitVec 64 × State :=
  match err with
  | .ok | .corrected => (r.be, s)
  | .uncorrectable => (r.be &&& Config.freeValue s.free, { s with free := s.free + 1 })
  | .timeout =>
    let c := s.choose
    (if c.1 then r.be else 0, c.2)
  | .address => (0, s)

/-- A write of block memory ends. -/
def State.bmWriteEnd (s : State) (r : BmReq) (err : BmErr) : State :=
  let w := s.bmWrote r err
  w.2.bmLand r w.1

/-- The write of an overflow entry by SFU, which the node sees from its issue, ends (R94, log entry 118): bytes that it did not
write are as they were. -/
def State.ovfWritten (s : State) (r : BmReq) (err : BmErr) : State :=
  let w := s.bmWrote r err
  w.2.bmStore r.line (r.be &&& ~~~w.1 &&& ~~~r.later) r.old

/-- Threads that wait for buffered stores, at every core. -/
def State.pendAll (s : State) : State :=
  let wait (c : Core) : List Nat := (c.threads.filter fun e => match e.2.pend with
    | .load _ _ _ none => true
    | .amo _ _ _ _ _ none => true
    | _ => false).map (·.1)
  let go (s : State) (c : CoreId) : State := (wait (s.core c)).foldl (fun s i => s.pendPoll ⟨c, Fin.ofNat 8 i⟩) s
  let s := (s.node.map (·.1)).foldl (fun s i => go s (.node (Fin.ofNat 32 i))) s
  go s .chervil

/-- What a block-memory request that has ended gives its requester. -/
def State.bmEnd (s : State) (r : BmReq) (data : Line) (err : BmErr) : State :=
  let own := match r.why with
    | .ovfWr _ => true
    | .spillWr _ _ => bmGood err
    | _ => false
  let s := if r.wr ∧ own = false then s.bmWriteEnd r err else s
  match r.why with
  | .acc t (some id) => match (s.thr t).sb.find? fun e => e.id == id with
    | some e => if bmGood err then s.dropSb t id else s.discard t e
    | none => s
  | .acc t none => s.accResp t r data err
  | .sflOvf t => s.sflOvfDone t data err
  | .plk t => s.plkDone t r.fresh r.stale data err
  | .apl n t ent => s.aplResp n t ent r.fresh r.stale data err
  | .spillRd n key => match (s.nd n).evicts.find? fun v => v.key == key with
    | some v => s.spillRead n v data err
    | none => s
  | .spillWr n key => match (s.nd n).evicts.find? fun v => v.key == key with
    | some v => match v.phase with
      | .spillWr w => s.spillWritten n v w err
      | _ => s
    | none => s
  | .ovfWr _ => s.ovfWritten r err
  | .shadow n g v y => s.shadowResp n g v y data err
  | .dma c u => s.dmaBm c u r.wr data err
  | .orphan => s

/-- The block-memory request under a tag ends; a tag that is not outstanding is discarded (Table 2.3), and once the flush is DONE every
response is sunk (R430). -/
def State.bmDone (s : State) (tag : Nat) (data : Line) (err : BmErr) : State :=
  match (smGet (fun _ => none) s.bm tag : Option BmReq) with
  | none => s.raise HA_INPUT_ERR 12
  | some r =>
    let s := { s with bm := smSet (fun _ => none) s.bm tag none }
    if s.mode = .flush ∧ s.fld HA_FLUSH_STAT 1 0 = 3 then s
    else ((s.bmErrs err).bmEnd r data err).pendAll.goOn

/-- The meaning of `bm_rsp_err` (Table 2.6). -/
def bmErrOf (e : BitVec 2) : BmErr :=
  match e.toNat with
  | 0 => .ok
  | 1 => .corrected
  | 2 => .uncorrectable
  | _ => .address

/-- `BM_RESPONSE` (R94). -/
def execBmResponse (tag : BitVec 10) (data : Line) (err : BitVec 2) (s : State) : Out :=
  .next (if s.mode = .off then s else s.bmDone tag.toNat data (bmErrOf err))

/-- `BM_TIMEOUT` (R45, Table 2.3): 10,000 ticks after the request. -/
def execBmTimeout (tag : BitVec 10) (s : State) : Out :=
  .next (match (smGet (fun _ => none) s.bm tag.toNat : Option BmReq) with
    | some r => if s.past r.at_ 10000 then s.bmDone tag.toNat 0 .timeout else s
    | none => s)

end Sys2Proof.Machine
end

