-- ==== Sys2Proof/Machine/RegCheck.lean ====
section
/-! DEFINITION. Sys2Proof/Machine/RegCheck.lean: which register accesses are turned away (R14, R51, R501, R502), and the
frame every command that is a register write runs in. -/

namespace Sys2Proof.Machine

/-- Addresses of the debug windows (Table 18.1). -/
def isDebug (a : Nat) : Bool := decide (0x200000 ≤ a) && decide (a < 0x400000)

/-- The access rules of R502 exclude a source from a register of row `d`. -/
def RegDesc.excludes (d : RegDesc) (src : Src) (wr : Bool) : Bool :=
  match d.acc with
  | .chvAll => !srcChv src
  | .chvWr => wr && !srcChv src || (wr && !srcPriv src)
  | .userWr => false
  | .pmc => !srcPriv src
  | .std => wr && !srcPriv src

/-- An access at `a` is turned away: no register, a closed window, or a privilege rule. -/
def State.regDenied (s : State) (src : Src) (a : Nat) (wr : Bool) : Bool :=
  match findReg a with
  | none => true
  | some d => s.closed a || d.excludes src wr || (isDebug a && !srcPriv src)

/-- A register access at `a` travels to a node whose local port sinks, which absorbs it (R363, Table 11.7). -/
def State.sunkAt (s : State) (a : Nat) : Bool :=
  match ndOf a with
  | some (n, _) => s.sunk n
  | none => false

/-- Note a request of the register port with its answer, or with none yet (R51). -/
def State.cfgNote (s : State) (a : Nat) (wr priv : Bool) (ans : Option (Bool × BitVec 32)) : State :=
  { s with cfg := s.cfg ++ [{ addr := BitVec.ofNat 24 a, wr := wr, priv := priv, at_ := s.tmo, ans := ans }] }

/-- A register access of a source, as read data and effect: turned away with the register-access error (R447), absorbed by
a sink, or carried out. The register port takes no fifth request while four are outstanding. In OFF no port is in service.
Tarragon requests epoch changes and nothing else, without the checks of the register port (R365, R404). -/
def State.regAccIf (s : State) (src : Src) (a : Nat) (wr denied : Bool) (f : State → BitVec 32 × State) : State :=
  if s.mode = .off then s
  else match src with
    | .tarragon => if a = HA_FAB_EPOCH then (f s).2 else s
    | .port p =>
      if 4 ≤ s.cfg.length then s
      else if denied then (s.accErr 1 a wr p).cfgNote a wr p (some (false, 0))
      else if s.sunkAt a then (s.raise HA_FAB_ERR 5).cfgNote a wr p none
      else (f s).2.cfgNote a wr p (some (false, (f s).1))
    | _ =>
      if denied then s.accErr 1 a wr true
      else if s.sunkAt a then s.raise HA_FAB_ERR 5
      else (f s).2

/-- An access of a register of the map. -/
def State.regAcc (s : State) (src : Src) (a : Nat) (wr : Bool) (f : State → BitVec 32 × State) : State :=
  s.regAccIf src a wr (s.regDenied src a wr) f

/-- A register access whose read data is zero. -/
def State.regDo (s : State) (src : Src) (a : Nat) (wr : Bool) (f : State → State) : State :=
  s.regAcc src a wr fun s => (0, f s)

/-- A pending request of the register port has no completion after 1,000 ticks (Table 2.3): it is answered with an error. -/
def State.cfgLate (s : State) : State :=
  match s.cfg.findIdx? (fun r => r.ans.isNone && s.past r.at_ 1000) with
  | none => s
  | some i => { s with cfg := s.cfg.modify i fun r => { r with ans := some (true, 0) } }

/-- `REGISTER_PORT_TIMEOUT` (R45, Table 2.3). -/
def execRegisterPortTimeout (s : State) : Out := .next (if s.mode = .off then s else s.cfgLate)

end Sys2Proof.Machine
end

