-- ==== Sys2Proof/Machine/Counters.lean ====
section
/-! DEFINITION. Sys2Proof/Machine/Counters.lean: freezing, snapshots and clearing of the performance counters (R495). -/

namespace Sys2Proof.Machine

/-- Change every counter that is not at its reset value. -/
def State.pmcMap (s : State) (f : Pmc → Pmc) : State :=
  { s with pmc := (s.pmc.map fun e => (e.1, f e.2)).filter fun e => decide (e.2 ≠ ({} : Pmc)) }

/-- Copy every live value into its snapshot at one instant. -/
def State.pmcSnapAll (s : State) : State := s.pmcMap fun c => { c with snap := c.live }

/-- Set every live value to 0; snapshots and OVF stay. -/
def State.pmcClearAll (s : State) : State := s.pmcMap fun c => { c with live := 0 }

/-- A snapshot or a clear takes effect at once, and SNAP_BUSY stays 1 for at most 100 ticks; how long is open (R495). -/
def State.pmcRun (s : State) (f : State → State) : State :=
  let u := f s
  { u with pmcBusyTo := u.tmo + (Config.freeValue u.free).toNat % 101, free := u.free + 1 }

/-- A write of HA_PMC_CTRL (Table 17.10): FREEZE and OVF_EVT are stored; SNAP acts and then CLEAR (log entry 50), but while
SNAP_BUSY is 1 they are ignored with the register-access error (R495). -/
def State.pmcCtrl (s : State) (src : Src) (v : BitVec 32) : State :=
  let s := s.setRaw HA_PMC_CTRL (v &&& 0x9)
  if v &&& 6 = 0 then s
  else if s.pmcBusy then s.accErr 1 HA_PMC_CTRL true (srcPriv src)
  else s.pmcRun fun s =>
    let s := if bt v 1 then s.pmcSnapAll else s
    if bt v 2 then s.pmcClearAll else s

/-- `FREEZE` (R495). -/
def execPmcFreeze (src : Src) (wdata : BitVec 32) (s : State) : Out :=
  .next (s.regDo src HA_PMC_CTRL true fun s => s.pmcCtrl src (wdata &&& 0x9))
/-- `SNAP` (R495). -/
def execPmcSnap (src : Src) (s : State) : Out :=
  .next (s.regDo src HA_PMC_CTRL true fun s => s.pmcCtrl src ((s.raw HA_PMC_CTRL &&& 0x9) ||| 0x2))
/-- `CLEAR` (R495). -/
def execPmcClear (src : Src) (s : State) : Out :=
  .next (s.regDo src HA_PMC_CTRL true fun s => s.pmcCtrl src ((s.raw HA_PMC_CTRL &&& 0x9) ||| 0x4))

end Sys2Proof.Machine
end

