-- ==== Sys2Proof/Machine/Records.lean ====
section
/-! DEFINITION. Sys2Proof/Machine/Records.lean: the event port and the recorder's window (R448 to R452), and the
parameter-store port (R52, R453 to R460). -/

namespace Sys2Proof.Machine

/-! ### Event port -/

/-- The recorder is frozen by the block (R452). -/
def State.frozen (s : State) : Bool := s.bit HA_EV_STAT 7

/-- The head of the event queue has left: the wait of the next one begins, and a DROPPED record may find its place. -/
def State.evPop (s : State) : State := { s with evq := s.evq.drop 1, evSince := s.tmo }

/-- The four beats of a record in byte order, each with ev_wr_last: bytes 24–31, which hold the mark, come last (R52). -/
def recBeats (r : BitVec 256) : List (BitVec 64 × Bool) :=
  (List.range 4).map fun k => (BitVec.ofNat 64 (bf r (64 * k + 63) (64 * k)), k == 3)

/-- `EVENT_RECORD_SEND` (R448, R450): the recorder takes the four beats of the oldest record. -/
def execEventRecordSend (s : State) : Out :=
  .next (match s.evq with
    | [] => s
    | r :: _ => if s.frozen = true ∨ s.mode = .off then s else { s.evPop with evBeats := recBeats r }.dropped)

/-- A beat of the head was not accepted for 1 ms: the record is abandoned without its MARK beat and counts as dropped. How many
beats before it had gone is open. -/
def State.evLate (s : State) : State :=
  if s.evq = [] ∨ s.frozen = true ∨ s.mode = .off ∨ s.past s.evSince 100000 = false then s
  else
    let b := (recBeats (s.evq.headD 0)).take ((Config.freeValue s.free).toNat % 4)
    ({ s.evPop with evBeats := b, free := s.free + 1 }.dropRec.raise HA_INPUT_ERR 8).dropped

/-- `EV_TIMEOUT` (R45, R450). -/
def execEvTimeout (s : State) : Out := .next s.evLate

/-- FREEZE as the block last wrote it (R452); the event port's timeout counts anew when the recorder is released. -/
def State.freeze (s : State) (v : BitVec 32) : State :=
  let s := if s.frozen && !bt v 0 then { s with evSince := s.tmo } else s
  s.setFld HA_EV_STAT 7 7 (bf v 0 0)

/-- One access of window register `k` (R451): a write passes the data on, a read brings the recorder's answer. -/
def State.evWin (s : State) (k : Nat) (wr : Bool) (wdata rdata : BitVec 32) : BitVec 32 × State :=
  if wr then
    let s := if k = 1 then s.freeze wdata else s
    (0, s.setRaw (HA_EV_WIN + 4 * k) wdata)
  else (rdata, s.setRaw (HA_EV_WIN + 4 * k) rdata)

/-- `EV_WINDOW_ACCESS` (R451). -/
def execEvWindowAccess (src : Src) (a : Fin 16) (wr : Bool) (wdata rdata : BitVec 32) (s : State) : Out :=
  .next (s.regAcc src (HA_EV_WIN + 4 * a.val) wr fun s => s.evWin a.val wr wdata rdata)

/-! ### Parameter store -/

/-- A write of HA_PS_CMD with GO 1 (R460): the command goes out with HA_PS_ADDR and HA_PS_WDATA, unless one runs. -/
def State.psGo (s : State) (src : Src) (cmd : BitVec 3) (level : BitVec 2) : State :=
  if s.psCmd.isSome then s.accErr 1 HA_PS_CMD true (srcPriv src)
  else { s with psCmd := some (cmd, BitVec.ofNat 20 (s.fld HA_PS_ADDR 19 0), s.raw HA_PS_WDATA, level, s.tmo) }

/-- The write of HA_PS_CMD that a command of the table stands for. -/
def State.psCommand (s : State) (src : Src) (cmd : BitVec 3) (level : BitVec 2) : State :=
  s.regDo src HA_PS_CMD true fun s => s.psGo src cmd level

/-- `READ` (R460). -/
def execPsRead (src : Src) (s : State) : Out := .next (s.psCommand src 0 0)
/-- `LOAD` (R456). -/
def execPsLoad (src : Src) (s : State) : Out := .next (s.psCommand src 1 0)
/-- `COMMIT` (R456). -/
def execPsCommit (src : Src) (s : State) : Out := .next (s.psCommand src 2 0)
/-- `SET_PROTECT` (R459). -/
def execPsSetProtect (src : Src) (level : BitVec 2) (s : State) : Out := .next (s.psCommand src 3 level)
/-- `STATUS` (R460). -/
def execPsStatus (src : Src) (s : State) : Out := .next (s.psCommand src 4 0)

/-- Copy the page buffer to the page of an address. -/
def pageWrite (m buf : Memory) (a : Nat) : Nat → Memory
  | 0 => m
  | n + 1 => smSet memZero (pageWrite m buf a n) (a / 256 * 256 + n) (memByte buf n)

/-- A command that the store has carried out, as the port sees it: LOAD fills the page buffer, COMMIT writes its page
(R456), SET_PROTECT sets the protection. -/
def State.psDone (s : State) (cmd : BitVec 3) (addr : BitVec 20) (w : BitVec 32) (level : BitVec 2) : State :=
  match cmd.toNat with
  | 1 => { s with pageBuf := memWrite s.pageBuf (addr.toNat % 256 / 4 * 4) w.toNat 4 }
  | 2 => { s with store := pageWrite s.store s.pageBuf addr.toNat 256 }
  | 3 => { s with storeProt := level }
  | _ => s

/-- The store answers the command that runs: RSP and RDATA are loaded, STATUS reports the protection, and a status other
than OK is an error (R459, Tables 2.3 and 15.20). -/
def State.psRsp (s : State) (stat : BitVec 2) (data : BitVec 32) : State :=
  match s.psCmd with
  | none => s
  | some (cmd, addr, w, level, _) =>
    let s := ({ s with psCmd := none }.setRaw HA_PS_RDATA data).setFld HA_PS_STAT 2 1 stat.toNat
    if stat = 0 then
      let s := if cmd = 4 then s.setFld HA_PS_STAT 4 3 (bf data 1 0) else s
      s.psDone cmd addr w level
    else if stat = 1 then (if cmd = 2 then s.raise HA_PS_ERR 3 else s)
    else s.raise HA_PS_ERR 4

/-- `PS_RESPONSE` (R45, R459). -/
def execPsResponse (stat : BitVec 2) (data : BitVec 32) (s : State) : Out :=
  .next (if s.mode = .off then s else s.psRsp stat data)

/-- The limit of a parameter-store command in ticks (Table 2.3). -/
def psLimit (cmd : BitVec 3) : Nat := if cmd = 2 then 1000000 else 10000

/-- The command passes its limit; whether the store carried it out is open (log entry 4). -/
def State.psLate (s : State) : State :=
  match s.psCmd with
  | none => s
  | some (cmd, addr, w, level, at_) =>
    if s.past at_ (psLimit cmd) then
      let c := { s with psCmd := none }.choose
      (if c.1 then c.2.psDone cmd addr w level else c.2).raise HA_INPUT_ERR 9
    else s

/-- `PS_TIMEOUT` (R45). -/
def execPsTimeout (s : State) : Out := .next s.psLate

end Sys2Proof.Machine
end

