-- ==== Sys2Proof/Machine/Power.lean ====
section
/-! DEFINITION. Sys2Proof/Machine/Power.lean: Tarragon and the sensors (R58, R374 to R391). -/

namespace Sys2Proof.Machine

/-! ### Sensors (R58) -/

/-- A quadrant that the straps enable. -/
def State.qEnabled (s : State) (q : QuadId) : Bool := s.pins.isNone || decide (q.val < s.strapQuads)

/-- The median of three codes; fewer give no reading (filter M3, Table 2.2). -/
def median3 : List Nat → Option Nat
  | [a, b, c] => some (max (min a b) (min (max a b) c))
  | _ => none

/-- The readings of a quadrant before the range check, none where three codes have not yet come. -/
def Quad.readings (x : Quad) : List (Option Nat) := [median3 x.tempA, median3 x.tempB, median3 x.vmonA, median3 x.vmonB]

/-- Temperature code of 105 °C and the rail of the SLOW corner, used when both readings of a pair fail. -/
def defTemp : Nat := 676
/-- 0.65 V. -/
def defVolt : Nat := 650

/-- Range of a temperature code, −40 to 150 °C, and of a rail reading (Table 2.11). -/
def tempBad (v : Nat) : Bool := decide (v < 96) || decide (856 < v)
/-- The range of a rail reading, 400 to 1,000 mV. -/
def voltBad (v : Nat) : Bool := decide (v < 400) || decide (1000 < v)

/-- The value in use of a pair: combined when both are good, the other when one failed, else the default. -/
def pairUse (f : Nat → Nat → Nat) (a b : Nat) (ba bb : Bool) (dflt : Nat) : Nat :=
  match ba, bb with
  | false, false => f a b
  | true, false => b
  | false, true => a
  | true, true => dflt

/-- SENSOR_ONE or SENSOR_BOTH for a pair (R58). -/
def State.pairErr (s : State) (ba bb : Bool) : State :=
  if ba && bb then s.raise HA_INPUT_ERR 7 else if ba || bb then s.raise HA_INPUT_ERR 6 else s

/-- The register of quadrant `q`'s sensors. -/
def senseA (q : QuadId) : Nat := HA_SENSE + 4 * q.val

/-- Tarragon acts on the temperature in use of a quadrant (R386). -/
def State.thermal (s : State) (q : QuadId) : State :=
  let t := s.fld (senseA q) 9 0
  let p := (s.qd q).pwr
  if !(s.qd q).sensSeen || !s.qEnabled q then s
  else
    let s := if p = .on ∧ 676 < t then (s.setFld HA_PWR_STAT (13 + q.val) (13 + q.val) 1).raise HA_PWR_ERR 1
      else if t ≤ 656 then s.setFld HA_PWR_STAT (13 + q.val) (13 + q.val) 0 else s
    if (p = .on ∨ p = .test) ∧ 696 < t then s.raise HA_PWR_ERR 2 else s

/-- Take the readings of a quadrant into use: failures, HA_SENSEq, and what Tarragon does with them. -/
def State.senseUse (s : State) (q : QuadId) (a b c d : Nat) (fa fb fc fd stale : Bool) : State :=
  let t := pairUse max a b fa fb defTemp
  let v := pairUse min c d fc fd defVolt
  let w := t + v * 2 ^ 10 + b2n fa * 2 ^ 20 + b2n fb * 2 ^ 21 + b2n fc * 2 ^ 22 + b2n fd * 2 ^ 23 + b2n stale * 2 ^ 24
  let s := s.setRaw (senseA q) (BitVec.ofNat 32 w)
  let s := s.setQd q { s.qd q with sensSeen := true }
  ((s.pairErr fa fb).pairErr fc fd).thermal q

/-- A quadrant's four codes are new (R58); pwr_q_sen_upd passes its filter at most every 4 samples (R44). -/
def State.sensor (s : State) (q : QuadId) (a b c d : Nat) : State :=
  if s.mode = .off ∨ s.qEnabled q = false ∨ s.past (s.qd q).sensAt 4 = false then s
  else
    let x := s.qd q
    let s := s.setQd q { x with tempA := (a :: x.tempA).take 3, tempB := (b :: x.tempB).take 3,
                                vmonA := (c :: x.vmonA).take 3, vmonB := (d :: x.vmonB).take 3, sensAt := s.tmo }
    match (s.qd q).readings with
    | [some a, some b, some c, some d] => s.senseUse q a b c d (tempBad a) (tempBad b) (voltBad c) (voltBad d) false
    | _ => s

/-- `SENSOR_UPDATE` (R58). -/
def execSensorUpdate (q : QuadId) (tempA tempB vmonA vmonB : BitVec 10) (s : State) : Out :=
  .next (s.sensor q tempA.toNat tempB.toNat vmonA.toNat vmonB.toNat)

/-- `SENSOR_STALE` (R58, Table 2.3): all four sensors of the quadrant count as failed. -/
def execSensorStale (q : QuadId) (s : State) : Out :=
  .next (if s.mode = .off ∨ s.qEnabled q = false ∨ s.past (s.qd q).sensAt 10000 = false ∨ s.bit (senseA q) 24 = true then s
    else s.senseUse q 0 0 0 0 true true true true true)

/-- Some enabled quadrant has shown a core reading below 600 mV on 100 consecutive ticks. -/
def State.vcoreBad (s : State) : Bool := allQd.any fun q => s.qEnabled q && decide (100 ≤ (s.qd q).vlow)

/-- `VCORE_LOW` (R386). -/
def execVcoreLow (s : State) : Out := .next (if s.mode ≠ .off ∧ s.vcoreBad = true then s.raise HA_PWR_ERR 3 else s)

/-- One more tick for the count of low core readings of each quadrant. -/
def State.vlowTick (s : State) : State :=
  allQd.foldl (fun s q =>
    let x := s.qd q
    if x.sensSeen && s.qEnabled q && decide (s.fld (senseA q) 19 10 < 600) then s.setQd q { x with vlow := x.vlow + 1 }
    else if x.vlow = 0 then s else s.setQd q { x with vlow := 0 }) s

/-! ### Power limit and core voltage (R385, R387) -/

/-- The cap in force, in units of 0.25 W. -/
def State.pwrCap (s : State) : Nat := if s.mode = .flush then s.fld HA_PWR_CAP 17 9 else s.fld HA_PWR_CAP 8 0

/-- The readings in use of every quadrant. -/
def State.readingsUsed (s : State) : List Nat := allQd.flatMap fun q => [s.fld (senseA q) 9 0, s.fld (senseA q) 19 10]

/-- The lowest throttle level from `k` up whose bound holds, else 8. -/
def throttleLevel (used cap : Nat) : Nat → Nat → Nat
  | 0, _ => 8
  | n + 1, k => if used + Config.energyMax k ≤ cap * 101 then k else throttleLevel used cap n (k + 1)

/-- One tick of Tarragon's estimate, which sets the throttle level of the next (R385). -/
def State.throttle (s : State) (activity : List Nat) : State :=
  if s.mode = .off then s
  else
    let win := (Config.energyOf activity s.readingsUsed :: s.tar.win).take 100
    let used := win.sum
    let k := throttleLevel used s.pwrCap 8 0
    let rises := s.tar.k = 0 ∧ 0 < k
    let s := { s with tar := { s.tar with win := win, k := k } }
    let s := s.setFld HA_PWR_STAT 12 4 (min (used / 100) 511)
    if rises then s.raise HA_PWR_ERR 0 else s

/-- `THROTTLE_UPDATE` (R385). -/
def execThrottleUpdate (activity : List Nat) (s : State) : Out := .next (s.throttle activity)

/-- One step of at most 25 codes from `a` toward `c`. -/
def vStep (a c : Nat) : Nat := if a < c then min (a + 25) c else max (a - 25) c

/-- `VOLTAGE_STEP` (R387): 2,000 ticks after the last step, APPLIED moves toward CODE. -/
def execVoltageStep (s : State) : Out :=
  let a := s.fld HA_PWR_VREQ 15 8
  let c := s.fld HA_PWR_VREQ 7 0
  let due := match s.tar.lastStep with
    | none => true
    | some t => s.past t 2000
  .next (if s.mode = .off ∨ a = c ∨ due = false then s
    else { s.setFld HA_PWR_VREQ 15 8 (vStep a c) with tar := { s.tar with lastStep := some s.tmo } })

/-! ### Cores and arrays -/

/-- Entries of a sparse memory with addresses from `a` up to `a + n`, moved down to `b`. -/
def memSlice (m : Memory) (a n b : Nat) : Memory :=
  (m.filter fun c => decide (a ≤ c.1) && decide (c.1 < a + n)).map fun c => (c.1 - a + b, c.2)

/-- The program shadow, as an engine's program SRAM (R280 step 7). -/
def State.shadow (s : State) : Memory := memSlice s.bmem (65536 * s.fld HA_PROG_SHADOW 18 0) 65536 0

/-- An engine whose quadrant was powered or reset: its threads, memories and events are lost. -/
def Core.lost : Core := {}

/-- Release a core: each thread is to receive engine start with FULL as given (R264). -/
def Core.released (c : Core) (full : Bool) : Core :=
  { c with toStart := [0, 1, 2, 3, 4, 5, 6, 7], starting := [], full := full, stopped := false, dspStall := false }

/-- Chervil is released: its engine starts wait among its events (R264). -/
def Core.releasedChv (c : Core) (full : Bool) : Core :=
  let c := c.released full
  { c with events := c.events ++ List.replicate 8 c.startEvt }

/-- A node after its arrays were filled, with its state of conservative tracking kept and Tarragon's quench as given. -/
def Node.filled (x : Node) (quench : Bool) : Node := { cons := x.cons, tarQuench := quench, lastGrant := x.lastGrant }

/-- Nodes of quadrant `q`. -/
def nodesOf (q : QuadId) : List NodeId := allNodes.filter fun n => quadOf n == q

/-- A translation macro whose contents and locks are lost; its error counts stay (R318, R320). -/
def Macro.lost (m : Macro) : Macro := { errs := m.errs }

/-- The nodes of a quadrant lose what they hold. -/
def State.quadLose (s : State) (q : QuadId) (quench : Bool) : State :=
  let s := (nodesOf q).foldl (fun s n =>
    (s.modNd n fun x => x.filled quench).setMac (24 + n.val) (s.mac (24 + n.val)).lost) s
  s.setQd q { s.qd q with qec := [], lru := [] }

/-- Copy the shadow into the program SRAM of the nodes of `q` that are not retired, and release their engines. -/
def State.quadLoad (s : State) (q : QuadId) (full : Bool) : State :=
  let sh := s.shadow
  (nodesOf q).foldl (fun s n =>
    if bt s.map.retired n.val then s
    else s.modNd n fun x => { x with core := ({ x.core with prog := sh, progSyn := [] } : Core).released full }) s

/-- Stop the engines of a quadrant. -/
def State.quadStop (s : State) (q : QuadId) : State :=
  (nodesOf q).foldl (fun s n => s.modNd n fun y => { y with core := { y.core with stopped := true } }) s

/-! ### Gating (R379 to R384) -/

/-- The active home map names a node of the quadrant. -/
def State.qMapped (s : State) (q : QuadId) : Bool := (List.range 128).any fun i => quadOf (s.slotNode i) == q

/-- BUSY of Table 12.5. -/
def State.gateBusy (s : State) : Bool :=
  s.bit HA_FAB_EPOCH 1 || allQd.any (fun q => (s.qd q).pwr == .gating || (s.qd q).pwr == .ungating)
    || !(s.mode == .standby || s.mode == .service || s.mode == .degraded)

/-- The queues of a node hold something. -/
def State.nodeQueued (s : State) (n : NodeId) : Bool :=
  [QKind.req, .rsp, .mgt, .data].any fun k => s.qUsed ⟨.node n, k⟩ != 0

/-- Some thread of an engine is not FREE, or its store buffer is not empty. -/
def Core.threadsBusy (c : Core) : Bool := c.threads.any fun e => e.2.st != .free || e.2.sb != []

/-- The first failed check of Table 12.5 for a gating, 0 when all pass. -/
def State.gateRej (s : State) (q : QuadId) : Nat :=
  if (s.qd q).pwr ≠ .on ∨ s.qEnabled q = false then 8
  else if s.gateBusy then 7
  else if !(allQd.any fun r => r != q && s.qEnabled r && (s.qd r).pwr == .on) then 6
  else if s.qMapped q then 1
  else if (nodesOf q).any fun n => !s.bit HA_FAB_SINK_ACT n.val then 2
  else if (nodesOf q).any fun n => (s.nd n).trkInUse != 0 then 3
  else if (nodesOf q).any fun n => s.nodeQueued n then 4
  else if (nodesOf q).any fun n => (s.nd n).core.threadsBusy then 5
  else 0

/-- The checks that apply to an ungating (R384). -/
def State.ungateRej (s : State) (q : QuadId) : Nat :=
  if (s.qd q).pwr ≠ .off ∨ s.qEnabled q = false then 8
  else if s.gateBusy then 7
  else if s.qMapped q then 1
  else 0

/-- A refused request: its code, and GATE_REJ (R381). -/
def State.gateRefuse (s : State) (q : QuadId) (code : Nat) : State :=
  (s.setFld (qdA q QD_PWR_STAT) 6 3 code).raise (qdA q QD_PWR_ERR) 0

/-- A write of GATE (R381, R382 step 1). -/
def State.gateGo (s : State) (q : QuadId) : State :=
  let r := s.gateRej q
  if r ≠ 0 then s.gateRefuse q r
  else
    let s := s.setFld (qdA q QD_PWR_STAT) 6 3 0
    let s := (nodesOf q).foldl (fun s n => s.modNd n fun x => { x with tarQuench := true }) s
    (s.setQd q { s.qd q with pwr := .gating, quadOn := false, since := s.tmo }).degrade

/-- A write of UNGATE (R384 step 1). -/
def State.ungateGo (s : State) (q : QuadId) : State :=
  let r := s.ungateRej q
  if r ≠ 0 then s.gateRefuse q r
  else
    let s := s.setFld (qdA q QD_PWR_STAT) 6 3 0
    s.setQd q { s.qd q with pwr := .ungating, since := s.tmo }

/-- `QUADRANT_GATE` (R381). -/
def execQuadrantGate (src : Src) (q : QuadId) (s : State) : Out :=
  .next (s.regDo src (qdA q QD_GATE) true fun s => s.gateGo q)
/-- `QUADRANT_UNGATE` (R384). -/
def execQuadrantUngate (src : Src) (q : QuadId) (s : State) : Out :=
  .next (s.regDo src (qdA q QD_GATE) true fun s => s.ungateGo q)

/-- Switch a quadrant off: what it holds is lost, and Tarragon's quench stays raised (R382). -/
def State.quadOffNow (s : State) (q : QuadId) : State :=
  let s := s.quadLose q true
  (s.setQd q { s.qd q with pwr := .off, quadOn := false }).degrade

/-- `GATING_DONE` (R382 steps 2 to 4). -/
def execGatingDone (q : QuadId) (s : State) : Out := .next (if (s.qd q).pwr = .gating then s.quadOffNow q else s)

/-- A quadrant is filled, loaded and released with FULL 0 (R384 steps 2 to 5); in SAFE its engines stay stopped (Table 12.3). -/
def State.quadUp (s : State) (q : QuadId) : State :=
  let s := (s.quadLose q false).quadLoad q false
  let s := if s.mode = .safe then s.quadStop q else s
  let s := (nodesOf q).foldl (fun s n => s.quenchSync n) s
  ((s.setQd q { s.qd q with pwr := .on, quadOn := true }).thermal q).degrade

/-- `UNGATING_FILL_DONE` (R384). -/
def execUngatingFillDone (q : QuadId) (s : State) : Out :=
  .next (if (s.qd q).pwr = .ungating then (s.quadUp q).goOn else s)

/-- `UNGATE_TIMEOUT` (R384). -/
def execUngateTimeout (q : QuadId) (s : State) : Out :=
  .next (if (s.qd q).pwr = .ungating ∧ s.past (s.qd q).since 100000 = true then
    (s.quadOffNow q).raise (qdA q QD_PWR_ERR) 1 else s)

end Sys2Proof.Machine
end

