-- ==== Sys2Proof/Machine/Fabric.lean ====
section
/-! DEFINITION. Sys2Proof/Machine/Fabric.lean: the fabric epoch change (R25, R141, R168, R363 to R366, R380), the quench
handshake (R361), credits (R358) and refused management messages (R359). -/

namespace Sys2Proof.Machine

/-! ### Epoch change -/

/-- The check of R25 on both shadows. -/
def State.mapsOk (s : State) : Bool :=
  ((List.range 128).all fun i => s.inService (s.shadowSlot i) && (s.qd (quadOf (s.shadowSlot i))).quadOn)
    && (List.range 8).all fun k => s.shadowMp k == s.activeMp k
      || (s.mpUse (s.shadowMp k) && (s.mpAt (s.shadowMp k)).att.on)

/-- The shadow home map as a table. -/
def State.shadowHome (s : State) : SMap NodeId :=
  (List.range 128).foldl (fun m i => smSet (fun i => Fin.ofNat 32 (i % 32)) m i (s.shadowSlot i)) []

/-- The shadow media port map as a table. -/
def State.shadowMps (s : State) : SMap MpId :=
  (List.range 8).foldl (fun m k => smSet (fun i => Fin.ofNat 8 i) m k (s.shadowMp k)) []

/-- No bit of the shadow sink set sinks a node that a home map names (R365 step 1). -/
def State.sinkOk (s : State) (named : Nat → NodeId) : Bool :=
  (List.range 128).all fun i => !s.bit HA_FAB_SINK (named i).val

/-- The configuration error of an epoch change, captured with the access that started it (R447). -/
def State.epErr (s : State) : State :=
  match s.epAcc with
  | some (wr, priv) => s.accErr 2 HA_FAB_EPOCH wr priv
  | none => s.accErr 2 0 false false

/-- Step 1 of R365: BUSY, the checks of both kinds, and the tables to switch in. -/
def State.epStart (s : State) (acc : Option (Bool × Bool)) : State :=
  let maps := s.mapsOk
  let named (i : Nat) : NodeId := if maps then s.shadowSlot i else s.slotNode i
  let sink := s.sinkOk named
  let newMaps := if maps then some (s.shadowHome, s.shadowMps) else none
  let newSink := if sink then some (s.raw HA_FAB_SINK) else none
  let s := { s with epAcc := acc, epAt := s.tmo, epMaps := newMaps, epSink := newSink }
  let s := { s with rout := s.rout.map fun (e : Nat × List RPkt) => (e.1, e.2.map fun (k : RPkt) => { k with old := s.affects (bf (k.flits.headD 0) 14 10) }) }
  let s := ((s.setFld HA_FAB_EPOCH 1 1 1).setFld HA_FAB_EPOCH 5 5 (b2n !maps)).setFld HA_FAB_EPOCH 6 6 (b2n !sink)
  if maps && sink then s else s.epErr

/-- A write of GO, or Tarragon's request (R365, R366): ignored while a change runs. -/
def State.epGo (s : State) (src : Src) : State :=
  if s.bit HA_FAB_EPOCH 1 then (if src = .tarragon then s else s.accErr 1 HA_FAB_EPOCH true (srcPriv src))
  else match src with
    | .tarragon => s.epStart none
    | _ => s.epStart (some (true, srcPriv src))

/-- `EPOCH_CHANGE` (R365). -/
def execEpochChange (src : Src) (s : State) : Out := .next (s.regDo src HA_FAB_EPOCH true fun s => s.epGo src)

/-- Step 5 for one node whose layout changed (R141). -/
def State.layout (s : State) (n : NodeId) (old : Nat → NodeId) : State :=
  if (s.nd n).validCount = 0 then s
  else
    let s := s.modNd n fun x => { x with bank := [] }
    let s := s.raise (ndA n ND_SF_ERR) 5
    let got := allNodes.filter fun m => m == n || (List.range 128).any fun i => old i == n && s.slotNode i == m
    got.foldl (fun s m => s.consStart m) s

/-- The region bits of slot `h`, gained by node `n` (R168). -/
def State.gainSlot (s : State) (n : NodeId) (h : Nat) : State :=
  let b := s.rmB
  s.modNd n fun x => x.rmFillWith fun t => t / 2 ^ (4 - b) == h / 2 ^ (7 - b)

/-- Requests that a shell holds for a node that is no longer their home go to the new one, in acceptance order (R380). -/
def State.rehome (s : State) (p : HpId) : State :=
  let x := s.hpAt p
  let moved (e : NodeId × Nat) : Bool := match x.led e.2 with
    | some l => s.home l.pla != e.1
    | none => false
  let go := (x.retry ++ x.wbRetry).filter moved
  let s := s.setHp p { x with retry := x.retry.filter (fun e => !moved e), wbRetry := x.wbRetry.filter (fun e => !moved e) }
  go.foldl (fun s e =>
    let wb := x.wbRetry.contains e
    let s := s.setLedSt p e.2 fun l => { l with st := .ready }
    if (s.hpAt p).holds e.1 wb then s else s.setFld (ndA e.1 ND_TRK_PEND) (retryBit p wb) (retryBit p wb) 0) s

/-- The packet of an access toward node `n` whose sink bit a switch changes was delivered to its endpoint queue, or absorbed, under the
old tables (R366). -/
def viaOf (was is_ : NodeId → Bool) (n : Option NodeId) : Option Bool :=
  match n with
  | some n => if was n == is_ n then none else some (!was n)
  | none => none

/-- The node that a sent entry of a store buffer goes to through the fabric; a refused message is not in the fabric. -/
def SbEnt.toNode (e : SbEnt) : Option NodeId :=
  if e.sent.isNone || e.nak.isSome then none
  else match e.kind with
  | .mwr => none
  | .mgt => (match e.dst with | .node n => some n | .chervil => none)
  | .st => (regOfCanon e.addr).nodeOf

/-- The node that the load or AMO of a thread was sent to. -/
def State.pendNode (s : State) (t : Thr) : Option NodeId :=
  match (s.thr t).pend with
  | .load _ _ ea (some _) | .amo _ _ _ _ ea (some _) => (s.regionOf t.core ea).bind Reg.nodeOf
  | _ => none

/-- Every thread of the block that has a state of its own. -/
def State.threads (s : State) : List Thr :=
  (CoreId.chervil :: allNodes.map CoreId.node).flatMap fun c => (s.core c).threads.map fun e => ⟨c, Fin.ofNat 8 e.1⟩

/-- The accesses of a thread that are on their way when the tables switch (R366); what the old sinks absorbed sets SINK_HIT (R363). -/
def State.viaThr (s : State) (was : NodeId → Bool) (t : Thr) : State :=
  let v (n : Option NodeId) : Option Bool := viaOf was s.sunk n
  let x := s.thr t
  let sb := x.sb.map fun e => if e.via.isSome then e else { e with via := v e.toNode }
  let pv := if x.via.isSome then x.via else v (s.pendNode t)
  if sb = x.sb ∧ pv = x.via then s
  else
    let hit := (sb != x.sb && sb.any fun e => e.via == some false) || (x.via != pv && pv == some false)
    let s := s.modThr t fun x => { x with sb := sb, via := pv }
    if hit then s.raise HA_FAB_ERR 5 else s

/-- Steps 4 and 5 of R365: the tables switch, then layouts, region bits and withdrawn grants follow. -/
def State.epSwitch (s : State) : State :=
  let old := s.slotNode
  let was := s.sunk
  let s := match s.epMaps with
    | some (h, m) => { s with homeMap := h, mpMap := m }
    | none => s
  let s := match s.epSink with
    | some v => s.setRaw HA_FAB_SINK_ACT (BitVec.ofNat 32 (v.toNat ||| s.sinkAlways))
    | none => s
  let s := s.threads.foldl (fun s t => s.viaThr was t) s
  let oldSlots (n : NodeId) : List Nat := (List.range 128).filter fun i => old i == n
  let s := allNodes.foldl (fun s n => if oldSlots n = s.slotsOf n then s else s.layout n old) s
  let s := (List.range 128).foldl (fun s i => if old i = s.slotNode i then s else s.gainSlot (s.slotNode i) i) s
  let s := allNodes.foldl (fun s n =>
    if s.slotsOf n = [] ∧ oldSlots n ≠ [] then (s.modNd n fun x => { x with kept := [], rspOut := x.rspOut.filter (·.2.1.isSome) }).setRaw (ndA n ND_TRK_PEND) 0 else s) s
  let s := allHp.foldl (fun s p => if (s.hpAt p).retry = [] ∧ (s.hpAt p).wbRetry = [] then s else s.rehome p) s
  { s with epMaps := none, epSink := none, epAcc := none }

/-- Step 6 of R365: COUNT advances, BUSY falls, and the routers release. -/
def State.epEnd (s : State) : State :=
  (s.epSwitch.setFld HA_FAB_EPOCH 4 2 (s.fld HA_FAB_EPOCH 4 2 + 1)).setFld HA_FAB_EPOCH 1 1 0

/-- Every packet that affected routers injected before the withhold has been delivered (R365 step 3): no host request of
theirs and no RETRY or GRANT is on its way (a GRANT that its shell keeps because the shell's own router withholds has arrived), and
no packet of theirs, of whatever class, is in a router. -/
def State.drained (s : State) : Bool :=
  (allNodes.all fun n => !s.affects n.val || ((s.nd n).rspOut.filter fun t => !t.2.2 && s.rspValid n t && !(t.2.1.isNone && s.affects (2 * t.1.val))) == []) &&
  allHp.all (fun p => (s.hpAt p).ledger.all fun e => match e.2 with
    | some l => (match l.st with
      | .sent _ => !s.affects (2 * p.val)
      | _ => true)
    | none => true)
  && s.rout.all fun e => e.2.all fun k => !k.old

/-- `EPOCH_DRAIN_DONE` (R365). -/
def execEpochDrainDone (s : State) : Out :=
  .next (if s.bit HA_FAB_EPOCH 1 && s.drained then s.epEnd.goOn else s)

/-- `EPOCH_DRAIN_TIMEOUT` (R366): 800 ticks. -/
def execEpochDrainTimeout (s : State) : Out :=
  .next (if s.bit HA_FAB_EPOCH 1 && s.past s.epAt 800 && !s.drained then s.raise HA_FAB_ERR 6 else s)

/-! ### Quench -/

/-- A write of ND_FAB_CTRL (R361). -/
def State.quenchSet (s : State) (n : NodeId) (v : BitVec 32) : State :=
  let s := s.setFld (ndA n ND_FAB_CTRL) 0 0 (bf v 0 0)
  if s.quenches n then s else (s.quenchSync n).goOn

/-- `QUENCH` (R361). -/
def execQuench (src : Src) (n : NodeId) (wdata : BitVec 32) (s : State) : Out :=
  .next (s.regDo src (ndA n ND_FAB_CTRL) true fun s => s.quenchSet n wdata)

/-- The BM (0), CFG (1) or system (2) shell acknowledges the quench of node `n`. -/
def State.setShellAck (s : State) (i : Nat) (n : NodeId) : State :=
  { s with shellAck := smSet (fun _ => 0) s.shellAck i (setBt (s.shellAcks i) n.val true) }

/-- `QUENCH_ACK` (R361 step 2). -/
def execQuenchAck (n : NodeId) (shell : QShell) (s : State) : Out :=
  .next (if !s.quenches n then s
    else match shell with
      | .hp p => s.setHp p { s.hpAt p with quenchAck := setBt (s.hpAt p).quenchAck n.val true }
      | .mp m => s.setMp m { s.mpAt m with quenchAck := setBt (s.mpAt m).quenchAck n.val true }
      | .bm => s.setShellAck 0 n
      | .cfg => s.setShellAck 1 n
      | .sys => s.setShellAck 2 n)

/-! ### Credits and refused messages -/

/-- A producer of a Request or Snoop queue starts with 2 credits (Table 11.5). -/
def creditQueue (k : QKind) : Bool := match k with
  | .req | .snp | .mreq | .breq => true
  | _ => false

/-- `CREDIT` (R358): endpoint `e` has `count` of its credits for a queue back, of those whose packets were taken, dropped or
absorbed. -/
def execCredit (e : Endpoint) (q : QueueId) (count : Nat) (s : State) : Out :=
  .next (if !creditQueue q.k then s
    else
      let x := s.que q
      let o := smGet (fun _ => 0) x.owed (epCode e)
      let k := min count o
      (s.setQue q { x with used := smSet (fun _ => 0) x.used (epCode e) (s.creditsUsed q e - k),
                           owed := smSet (fun _ => 0) x.owed (epCode e) (o - k) }).goOn)

/-- The oldest management message of a thread that is on its way. -/
def Thread.mgtOut (x : Thread) : Option SbEnt := x.sb.find? fun e => e.kind == .mgt && e.sent.isSome && e.nak.isNone

/-- `MGT_NAK` (R359): the message reaches an inbox whose slots are all full and comes back. -/
def execMgtNak (t : Thr) (s : State) : Out :=
  .next (match (s.thr t).mgtOut with
    | some e =>
      if ((s.core e.dst).inboxFree (inboxSize e.dst)).isNone then s.modSb t e.id fun e => { e with nak := some s.tmo } else s
    | none => s)

/-- `MGT_RESEND` (R359): 16 ticks after the refusal the message is sent again. -/
def execMgtResend (t : Thr) (s : State) : Out :=
  .next (match (s.thr t).sb.find? fun e => e.kind == .mgt && (match e.nak with | some k => s.past k 16 | none => false) with
    | some e => s.modSb t e.id fun e => { e with nak := none }
    | none => s)

end Sys2Proof.Machine
end

