-- ==== Sys2Proof/Machine/Overflow.lean ====
section
/-! DEFINITION. Sys2Proof/Machine/Overflow.lean: the overflow directory's enable (R159), the region-map rebuild (R169), the
end of conservative tracking (R178), and the scrubbers (R173, R439 to R441, Table 15.2). -/

namespace Sys2Proof.Machine

/-! ### HA_OVF_CTRL and HA_OVF_BASE -/

/-- The checks of R159 on a directory of 2^m sets at BASE. -/
def State.ovfOk (s : State) (m : Nat) : Bool :=
  let b := 2 ^ 28 * s.fld HA_OVF_BASE 6 0
  let n := 2 ^ (m + 6)
  s.bit HA_STRAP 11 && b % n == 0 && decide (b + n ≤ s.bmBytes)

/-- A write of HA_OVF_CTRL (R12, R159, R180): a reserved SETS_LOG2 keeps the old one; a refused change of SETS_LOG2, of EN to
1 or of EN to 0 leaves its field and is a configuration error. -/
def State.ovfCtrl (s : State) (src : Src) (v : BitVec 32) : State :=
  let en := s.bit HA_OVF_CTRL 0
  let old := s.fld HA_OVF_CTRL 5 1
  let m0 := bf v 5 1
  let resv := decide (m0 < 22) || decide (28 < m0)
  let m := if resv then old else m0
  let err (s : State) : State := s.accErr 2 HA_OVF_CTRL true (srcPriv src)
  let s := if resv then s.accErr 1 HA_OVF_CTRL true (srcPriv src) else s
  let go := bt v 0
  let s1 := if en && m != old then err s else if en then s else s.setFld HA_OVF_CTRL 5 1 m
  if go && !en then (if s1.ovfOk m then s1.setFld HA_OVF_CTRL 0 0 1 else err s1)
  else if !go && en then (if s1.fld HA_OVF_COUNT 31 0 = 0 then s1.setFld HA_OVF_CTRL 0 0 0 else err s1)
  else s1

/-- A write of HA_OVF_BASE: while EN is 1 a change is refused (R159). -/
def State.ovfBase (s : State) (src : Src) (v : BitVec 32) : State :=
  if s.bit HA_OVF_CTRL 0 then
    if bf v 6 0 = s.fld HA_OVF_BASE 6 0 then s else s.accErr 2 HA_OVF_BASE true (srcPriv src)
  else s.setFld HA_OVF_BASE 6 0 (bf v 6 0)

/-- `OVF_CTRL_WRITE` (R159). -/
def execOvfCtrlWrite (src : Src) (wdata : BitVec 32) (s : State) : Out :=
  .next (s.regDo src HA_OVF_CTRL true fun s => s.ovfCtrl src wdata)

/-! ### Region-map rebuild (R169) -/

/-- Begin a rebuild: the map is cleared and every lookup reads the overflow set until it ends. -/
def State.rebuildGo (s : State) (n : NodeId) : State :=
  if (s.nd n).rebuild then s
  else s.modNd n fun x => { x with rmap := [], rmapFill := 0, rmapSyn := [], rebuild := true }

/-- A rebuild reads an overflow set of the node (R169, R170, R174): it sets the bit of each valid entry; false while an
uncorrectable way waits for one of four repairs to end (R172). -/
def State.rebuildSet (s : State) (n : NodeId) (set : Nat) : Bool × State :=
  match s.bmLook (s.ovfLine set) with
  | (none, s) => (true, s.ovfLost n set)
  | (some l, s) =>
    let r := s.ovfCheck n set l false
    (!r.1, (r.2.1.filter fun e => entValid e.2).foldl (fun s e => s.regionSet n (s.ovfSector set (bf e.2 19 0))) r.2.2)

/-- The rebuild has read every overflow set of the node's slots. -/
def State.rebuildEnd (s : State) (n : NodeId) : State :=
  if !(s.nd n).rebuild then s
  else
    let r := (s.ovfSetsOf n).foldl (fun (a : Bool × State) set =>
      if a.1 then a.2.rebuildSet n set else a) (true, s)
    if r.1 then (r.2.ovfRest n).2.modNd n fun x => { x with rebuild := false } else r.2

/-- `RMAP_REBUILD` (R169). -/
def execRmapRebuild (src : Src) (n : NodeId) (s : State) : Out :=
  .next (s.regDo src (ndA n ND_SF_CTRL) true fun s => s.rebuildGo n)
/-- `RMAP_REBUILD_DONE` (R169). -/
def execRmapRebuildDone (n : NodeId) (s : State) : Out := .next (s.rebuildEnd n).goOn

/-- `SF_CONS_END` (R178). -/
def execSfConsEnd (src : Src) (s : State) : Out := .next (s.regDo src HA_SF_CONS true fun s => s.consEnd.goOn)

/-! ### Bank scrubber (R173) -/

/-- The ways of one set, read by the scrubber: corrected, repaired, and kept-empty ones freed once conservative tracking
has ended (R178). It pauses once a repair runs (R172). -/
def State.scrubSet (s : State) (n : NodeId) (set : Nat) : State :=
  (List.range 16).foldl (fun s w =>
    let k := bankKey set w
    if (s.nd n).repairs ≠ [] then s
    else match s.wayRead n k 1 with
      | (.hit _ e, s) =>
        let f := entLive (s.nd n).cons e
        if f = e then s else s.modNd n fun x => x.setEntry k f
      | r => r.2) s

/-- One step of the bank scrubber of node `n`. -/
def State.sfScrub (s : State) (n : NodeId) : State :=
  if !s.live n || !s.bit (ndA n ND_SF_CTRL) 0 || (s.nd n).repairs != [] then s
  else
    let set := s.fld (ndA n ND_SF_SCRUB) 12 0
    let s := s.scrubSet n set
    let s := if (s.nd n).repairs = [] then s.setFld (ndA n ND_SF_SCRUB) 12 0 (set + 1) else s
    if set = 8191 ∧ (s.nd n).repairs = [] then s.setFld (ndA n ND_SF_SCRUB) 31 16 (s.fld (ndA n ND_SF_SCRUB) 31 16 + 1) else s

/-- `SF_SCRUB_TICK` (R173). -/
def execSfScrubTick (n : NodeId) (s : State) : Out := .next (s.sfScrub n).goOn

/-! ### The other scrubbers (R439, Table 15.2) -/

/-- The position of scrubber `k` of a node, and the position after it in an array of `len` granules. -/
def Node.scrubAt (x : Node) (k : Nat) : Nat := smGet (fun _ => 0) x.scrubPos k
/-- Advance it. -/
def Node.scrubOn (x : Node) (k len : Nat) : Node :=
  { x with scrubPos := smSet (fun _ => 0) x.scrubPos k ((x.scrubAt k + 1) % len) }

/-- Program SRAM (Table 15.2): a corrected word is written back; an uncorrectable one is read from the shadow. -/
def State.scrubProg (s : State) (n : NodeId) : State :=
  let g := (s.nd n).scrubAt 0
  let on (s : State) : State := s.modNd n fun x => x.scrubOn 0 8192
  let r := (s.nd n).core.code.get g
  match r.1 with
  | none =>
    match s.bmIssue (.shadow n g (memGran (s.nd n).core.prog g) (synAt (s.nd n).core.progSyn g)) false (s.fld HA_PROG_SHADOW 18 0 * 1024 + g / 8) 0 0 with
    | some (_, s) => on s
    | none => s
  | some _ =>
    let s := on s
    if r.2.1 then (s.modNd n fun x => { x with core := x.core.setCode r.2.2 }).raise (ndA n ND_ENG_ERR) 0 else s

/-- Local scratch. -/
def State.scrubScr (s : State) (n : NodeId) : State :=
  let g := (s.nd n).scrubAt 1
  let s := s.modNd n fun x => x.scrubOn 1 4096
  let r := (s.nd n).core.data.get g
  match r.1 with
  | none => s.raise (ndA n ND_SCRUB_ERR) 2
  | some _ =>
    if r.2.1 then (s.modNd n fun x => { x with core := x.core.setData r.2.2 }).raise (ndA n ND_ENG_ERR) 2 else s

/-- Tracker words, of trackers with V 1. -/
def State.scrubTrk (s : State) (n : NodeId) : State :=
  let g := (s.nd n).scrubAt 2
  let s := s.modNd n fun x => x.scrubOn 2 8192
  if ((s.nd n).trkAt (g / 8)).v then (s.trkCheck n (g / 8) [g % 8]).2 else s

/-- Region map. -/
def State.scrubRmap (s : State) (n : NodeId) : State :=
  let g := (s.nd n).scrubAt 3
  (s.modNd n fun x => x.scrubOn 3 32768).rmapCheck n g

/-- Position of block-level scrubber `k`. -/
def State.scrubAt (s : State) (k : Nat) : Nat := smGet (fun _ => 0) s.scrubPos k
/-- Advance it in an array of `len` granules. -/
def State.scrubOn (s : State) (k len : Nat) : State :=
  { s with scrubPos := smSet (fun _ => 0) s.scrubPos k ((s.scrubAt k + 1) % len) }

/-- Ledger of host port `p`: a corrected word is written back, an uncorrectable one recorded. -/
def State.scrubLed (s : State) (p : HpId) : State :=
  let g := s.scrubAt p.val
  let s := s.scrubOn p.val 24576
  if (s.hpAt p).ledEcc (g / 12) (g % 12) = .uce then s.raise HA_SCRUB_ERR 1 else s.ledCorrect p (g / 12) (g % 12)

/-- Chervil's program RAM. -/
def State.scrubChvProg (s : State) : State :=
  let g := s.scrubAt 16
  let s := s.scrubOn 16 32768
  let r := s.chv.code.get g
  match r.1 with
  | none => s.raise HA_SCRUB_ERR 3
  | some _ => if r.2.1 then { s with chv := s.chv.setCode r.2.2 }.raise HA_SCRUB_ERR 2 else s

/-- Chervil's data RAM. -/
def State.scrubChvData (s : State) : State :=
  let g := s.scrubAt 17
  let s := s.scrubOn 17 16384
  let r := s.chv.data.get g
  match r.1 with
  | none => s.raise HA_SCRUB_ERR 4
  | some _ => if r.2.1 then { s with chv := s.chv.setData r.2.2 }.raise HA_SCRUB_ERR 2 else s

/-- The boot ROM: a word is not written back (Table 15.1). -/
def State.scrubRom (s : State) : State :=
  let g := s.scrubAt 19
  let s := s.scrubOn 19 8192
  let e := (s.romGran g).2
  if e = .uce then s.raise HA_SCRUB_ERR 6 else if eccCe e then s.raise HA_SCRUB_ERR 5 else s

/-- One step of a scrubber of Table 15.2 but that of the survivor tables. -/
def State.scrub (s : State) (k : Scrubber) : State :=
  if s.mode = .off then s
  else match k with
  | .prog n => if s.live n && s.bit (ndA n ND_SCRUB_CTRL) 0 then s.scrubProg n else s
  | .scratch n => if s.live n && s.bit (ndA n ND_SCRUB_CTRL) 0 then s.scrubScr n else s
  | .trk n => if s.live n && s.bit (ndA n ND_SCRUB_CTRL) 0 then s.scrubTrk n else s
  | .rmap n => if s.live n && s.bit (ndA n ND_SCRUB_CTRL) 0 then s.scrubRmap n else s
  | .ledger p => if s.bit HA_SCRUB_CTRL 0 then s.scrubLed p else s
  | .chvProg => if s.bit HA_SCRUB_CTRL 1 then s.scrubChvProg else s
  | .chvData => if s.bit HA_SCRUB_CTRL 1 then s.scrubChvData else s
  | .rom => s.scrubRom
  | .surv => s

end Sys2Proof.Machine
end

