-- ==== Sys2Proof/Machine/RegWrite.lean ====
section
/-! DEFINITION. Sys2Proof/Machine/RegWrite.lean: what a write of a register does (R11 to R13), with the registers whose
write acts on the block. Mode requests, resets, the boot control, the mailbox, the measurement unit and the debug
windows have files of their own. -/

namespace Sys2Proof.Machine

/-- A counter event that Table 17.7 does not list for its kind of counter (R494). -/
def selReserved (node : Bool) (e : Nat) : Bool :=
  if node then decide (0x019 < e)
  else !(e == 0 || (decide (0x100 ≤ e) && decide (e ≤ 0x10E)) || (decide (0x110 ≤ e) && decide (e ≤ 0x127)))

/-- The programs that Table 16.2 allows in a lifecycle state (R464). -/
def progAllowed (lc prog : Nat) : Bool :=
  if lc = 1 ∨ lc = 4 then true else if lc = 5 then false else decide (prog ≤ 1)

/-- The MODE bits of the queue configuration registers that a write sets outside MANUFACTURE and RETURNED (R373). -/
def State.qcfgBad (s : State) (v : BitVec 32) (n : Nat) : List (Nat × Nat) :=
  if s.lcOpen then [] else ((List.range n).filter fun i => bt v i).map fun i => (i, i)

/-- The fields of a write at `a` whose encoding is reserved, or that R373 refuses: each keeps its value (R12). -/
def State.resvFields (s : State) (a : Nat) (d : RegDesc) (v : BitVec 32) : List (Nat × Nat) :=
  let rs := (d.ranged.filter fun r => decide (bf v r.hi r.lo < r.min) || decide (r.max < bf v r.hi r.lo)).map fun r => (r.hi, r.lo)
  match ndOf a with
  | some (_, o) =>
    if d.base = ND_PMC_SEL then (if selReserved true (bf v 9 0) then [(9, 0)] else [])
    else if o = ND_FAB_QCFG then s.qcfgBad v 4
    else rs
  | none =>
    if d.base = HA_PMC_SEL then (if selReserved false (bf v 9 0) then [(9, 0)] else [])
    else if a = HA_ST_CTRL then (if progAllowed s.lc (bf v 1 0) then [] else [(1, 0)])
    else if a = HA_FAB_QCFG then s.qcfgBad v 26
    else rs

/-- The stored bits after a write: writable fields take the value, W1C bits written with 1 clear, fields in `keep` stay. -/
def RegDesc.merge (d : RegDesc) (old v : BitVec 32) (keep : List (Nat × Nat)) : BitVec 32 :=
  let m := keep.foldl (fun m f => setBf m f.1 f.2 0) d.rw
  ((old &&& ~~~m) ||| (v &&& m)) &&& ~~~(v &&& d.w1c)

/-- A write of stored fields (R11, R12). -/
def State.plainWrite (s : State) (src : Src) (a : Nat) (d : RegDesc) (v : BitVec 32) : State :=
  let keep := s.resvFields a d v
  let s := s.setRaw a (d.merge (s.raw a) v keep)
  if keep = [] then s else s.accErr 1 a true (srcPriv src)

/-- A write of HA_CHV_TIMER: the first interval counts from the write that starts the timer (log entry 52). -/
def State.timerSet (s : State) (v : BitVec 32) : State :=
  let s := if s.fld HA_CHV_TIMER 23 0 = 0 then { s with timerAt := s.time.toNat } else s
  s.setFld HA_CHV_TIMER 23 0 (bf v 23 0)

/-- A write of HA_PS_CMD (R460); a reserved code issues no command and is an access error. -/
def State.psWrite (s : State) (src : Src) (v : BitVec 32) : State :=
  if bf v 2 0 ≤ 4 then (if bt v 3 then s.psGo src (BitVec.ofNat 3 (bf v 2 0)) (BitVec.ofNat 2 (bf v 5 4)) else s)
  else s.accErr 1 HA_PS_CMD true (srcPriv src)

/-- The channel whose CTRL register is at `a`. -/
def ctrlChan (a : Nat) : Option ChanId := (List.finRange 16).find? fun c => chA c 1 == a

/-- A write of a channel's CTRL register (Table 10.18): GO, RESUME and STOP in bit order. -/
def State.chanCtrl (s : State) (c : ChanId) (v : BitVec 32) : State :=
  let s := if bt v 0 then s.chanGo c .ok else s
  let s := if bt v 1 then s.chanResume c else s
  if bt v 2 then s.chanStop c else s

/-- A write of QD_GATE (R390): the reserved codes start nothing and are access errors. -/
def State.gateWrite (s : State) (src : Src) (q : QuadId) (v : BitVec 32) : State :=
  match bf v 1 0 with
  | 1 => s.gateGo q
  | 2 => s.ungateGo q
  | _ => s.accErr 1 (qdA q QD_GATE) true (srcPriv src)

/-- A write of ND_SF_CTRL: its fields, and a rebuild (R169). -/
def State.sfCtrl (s : State) (src : Src) (n : NodeId) (d : RegDesc) (v : BitVec 32) : State :=
  let s := s.plainWrite src (ndA n ND_SF_CTRL) d v
  if bt v 1 then s.rebuildGo n else s

/-- A write of a mailbox request word: ignored with an access error while BUSY (R483). -/
def State.mbReq (s : State) (src : Src) (a : Nat) (v : BitVec 32) : State :=
  if s.bit HA_MB_STAT 0 then s.accErr 1 a true (srcPriv src) else s.setRaw a v

/-- A write of register `a` of the block space (R11): the actions of single registers, else the stored fields. -/
def State.blkWrite (s : State) (src : Src) (a : Nat) (d : RegDesc) (v : BitVec 32) : State :=
  let b := d.base
  if b = HA_OVF_CTRL then s.ovfCtrl src v
  else if b = HA_OVF_BASE then s.ovfBase src v
  else if b = HA_SF_CONS then (if bt v 1 then s.consEnd else s)
  else if b = HA_XLT_CMD then s.xltWrite v true (srcPriv src)
  else if b = HA_DMA_CH_CTRL ∨ b = HA_DMA_CHX_CTRL then
    (match ctrlChan a with
     | some c => s.chanCtrl c v
     | none => s)
  else if b = HA_FAB_EPOCH then (if bt v 0 then s.epGo src else s)
  else if b = HA_EV_CTRL then
    let s := s.plainWrite src a d v
    if s.bit HA_EV_CTRL 0 then s.dropped else s
  else if b = HA_EV_WIN then (s.evWin ((a - HA_EV_WIN) / 4) true v 0).2
  else if b = HA_PS_CMD then s.psWrite src v
  else if b = HA_PMC_CTRL then s.pmcCtrl src v
  else if b = HA_CHV_TIMER then s.timerSet v
  else if b = HA_MB_REQ then s.mbReq src a v
  else if b = HA_MB_RSP ∨ b = HA_MEAS_EXT_DIG ∨ b = HA_MEAS_EXT_SRC ∨ b = HA_MEAS_EXT_LEN ∨ b = HA_MEAS_EXT_VER then s.setRaw a v
  else s.plainWrite src a d v

/-- A write of a register of the block, quadrant or node windows by a source that may make it. -/
def State.regPut (s : State) (src : Src) (a : Nat) (v : BitVec 32) : State :=
  match findReg a with
  | none => s
  | some d =>
    let s := match ndOf a with
      | some (n, o) =>
        if o = ND_SF_CTRL then s.sfCtrl src n d v
        else if o = ND_FAB_CTRL then s.quenchSet n v
        else s.plainWrite src a d v
      | none => match qdOf a with
        | some (q, o) => if o = QD_GATE then s.gateWrite src q v else s.plainWrite src a d v
        | none => s.blkWrite src a d v
    s.degrade

end Sys2Proof.Machine
end

