-- ==== Sys2Proof/Machine/Measure.lean ====
section
/-! DEFINITION. Sys2Proof/Machine/Measure.lean: the measurement unit (R402 to R405, R415), and copies of objects between
memories. -/

namespace Sys2Proof.Machine

/-! ### Copies -/

/-- Replace `n` bytes of a memory at `b` by the cells of `part` that lie there. -/
def memBlit (m part : Memory) (b n : Nat) : Memory :=
  m.filter (fun c => decide (c.1 < b)) ++ part.filter (fun c => decide (b ≤ c.1) && decide (c.1 < b + n))
    ++ m.filter (fun c => decide (b + n ≤ c.1))

/-- Copy `n` bytes of `src` at `a` to `m` at `b`. -/
def memCopy (m src : Memory) (a b n : Nat) : Memory := memBlit m (memSlice src a n b) b n

/-- A list of bytes as cells from address `b`. -/
def cellsOf (bs : List Byte) (b : Nat) : Memory :=
  (bs.zipIdx b).filterMap fun p => if p.1 = 0 then none else some (p.2, p.1)

/-- Write a list of bytes at `b`. -/
def memPut (m : Memory) (b : Nat) (bs : List Byte) : Memory := memBlit m (cellsOf bs b) b bs.length

/-! ### Extends -/

/-- A measurement log entry (Table 13.5). -/
def logEntry (slot kind len : Nat) (ver : BitVec 32) (ts : Nat) (dig after : BitVec 384) : BitVec 1024 :=
  BitVec.ofNat 1024 (slot + kind * 2 ^ 8 + len * 2 ^ 32 + ver.toNat * 2 ^ 64 + ts * 2 ^ 128 + dig.toNat * 2 ^ 192
    + after.toNat * 2 ^ 576)

/-- The value of slot `k`. -/
def Meas.slot (m : Meas) (k : Nat) : BitVec 384 := smGet (fun _ => 0) m.slots k

/-- Extend slot `k` with a digest and append the log entry (R402). -/
def State.extend (s : State) (k kind len : Nat) (ver : BitVec 32) (dig : BitVec 384) : State :=
  let new := sha384 (wordBytes (s.meas.slot k) 48 ++ wordBytes dig 48)
  let e := logEntry k kind len ver s.time.toNat dig new
  { s with meas := { s.meas with slots := smSet (fun _ => 0) s.meas.slots k new, log := s.meas.log ++ [e] } }

/-- Extend with the digest of an object's bytes. -/
def State.extendObj (s : State) (k kind : Nat) (ver : BitVec 32) (bs : List Byte) : State :=
  s.extend k kind bs.length ver (sha384 bs)

/-- The digest held in the EXT_DIG registers. -/
def State.extDig (s : State) : BitVec 384 :=
  BitVec.ofNat 384 ((List.range 12).foldl (fun v w => v + (s.raw (HA_MEAS_EXT_DIG + 4 * w)).toNat * 2 ^ (32 * w)) 0)

/-- An extend is refused (R404). -/
def State.extRefused (s : State) (slot : Nat) : Bool := s.meas.lock || decide (6 ≤ slot) || decide (16 ≤ s.meas.log.length)

/-- A write of HA_MEAS_EXT_GO (R404, R415). While an extend runs another is ignored and is an access error (log entry 53). -/
def State.extGo (s : State) (src : Src) (v : BitVec 32) : State :=
  if !bt v 9 then s
  else if s.meas.busy.isSome then s.accErr 1 HA_MEAS_EXT_GO true (srcPriv src)
  else if s.extRefused (bf v 2 0) then s.raise HA_MEAS_CTRL 6
  else
    let r : ExtReq := { slot := bf v 2 0, kind := bf v 7 3, direct := bt v 8, len := bf (s.raw HA_MEAS_EXT_LEN) 19 0,
                        src := bf (s.raw HA_MEAS_EXT_SRC) 28 0, ver := s.raw HA_MEAS_EXT_VER, dig := s.extDig }
    { s with meas := { s.meas with busy := some r } }

/-- `EXTEND` (R404). -/
def execMeasExtend (src : Src) (wdata : BitVec 32) (s : State) : Out :=
  .next (s.regDo src HA_MEAS_EXT_GO true fun s => s.extGo src wdata)

/-- The bytes of an object of `n` bytes at `a` that lie in a line of block memory, after those in `r`. -/
def objLine (r : Bool × List Byte × State) (a n line : Nat) : Bool × List Byte × State :=
  let lo := max a (64 * line)
  let k := min (a + n) (64 * line + 64) - lo
  let l := r.2.2.bmLook line
  match l.1 with
  | some _ => (r.1, r.2.1 ++ memBytes l.2.bmem lo k, l.2)
  | none => (false, r.2.1 ++ l.2.freeBytes k, { l.2 with free := l.2.free + k })

/-- The bytes of an object of `n` bytes at `a` of block memory, as they are read line by line, and whether every read was good; what a
failed read gives is open (R442, log entry 115). -/
def State.objRead (s : State) (a n : Nat) : Bool × List Byte × State :=
  (List.range (if n = 0 then 0 else (a + n + 63) / 64 - a / 64)).foldl (fun r i => objLine r a n (a / 64 + i)) (true, [], s)

/-- The extend that runs ends (R402, R415). -/
def State.extEnd (s : State) : State :=
  match s.meas.busy with
  | none => s
  | some r =>
    let s := { s with meas := { s.meas with busy := none } }
    if r.direct then s.extend r.slot r.kind 0 r.ver r.dig
    else
      let o := s.objRead (64 * r.src) r.len
      o.2.2.extendObj r.slot r.kind r.ver o.2.1

/-- `EXTEND_DONE` (R402). -/
def execMeasExtendDone (s : State) : Out := .next s.extEnd

end Sys2Proof.Machine
end

