-- ==== Sys2Proof/Machine/PStore.lean ====
section
/-! DEFINITION. Sys2Proof/Machine/PStore.lean: the persistent records of the parameter store, as the boot ROM and the
firmware read and commit them (R453 to R459). -/

namespace Sys2Proof.Machine

/-- The two slots of a record type and their size (Table 15.8). -/
def recSlots (t : Nat) : Nat × Nat × Nat :=
  match t with
  | 1 => (0x0, 0x1000, 4096)
  | 2 => (0x2000, 0x3000, 4096)
  | 3 => (0x4000, 0x4100, 256)
  | 4 => (0x4200, 0x4300, 256)
  | _ => (0x4400, 0x4500, 256)

/-- A valid copy: where it lies, its sequence number and its payload. -/
structure PRec where
  at_ : Nat
  seq : Nat
  load : List Byte
  deriving DecidableEq, Repr

/-- Read the copy of a record at `a`; none when it is not valid (R454). -/
def readCopy (m : Memory) (t a size : Nat) : Option PRec :=
  let len := memRead m (a + 2) 2
  let load := memBytes m (a + 16) len
  if memRead m a 1 = t ∧ memRead m (a + 1) 1 = 1 ∧ len + 16 ≤ size ∧ memRead m (a + 12) 4 = 0
      ∧ memRead m (a + 8) 4 = (crc32 (memBytes m a 8 ++ load)).toNat then
    some { at_ := a, seq := memRead m (a + 4) 4, load := load }
  else none

/-- Copy `a` is newer than copy `b` (R455). -/
def recNewer (a b : Nat) : Bool := let d := (a + 2 ^ 32 - b) % 2 ^ 32; decide (1 ≤ d) && decide (d < 2 ^ 31)

/-- An address of the store that its block protection covers (R459). -/
def State.psProtected (s : State) (a : Nat) : Bool :=
  s.storeProt == 3 || s.storeProt == 2 && decide (0x80000 ≤ a) || s.storeProt == 1 && decide (0xC0000 ≤ a)

/-- A command of the store that the boot ROM or the firmware issues, and whether its status was OK: a COMMIT of a protected page is
refused; with `free`, whether another is carried out, faults or passes its limit is open (Table 2.3, log entry 75). -/
def State.psDo (s : State) (free : Bool) (cmd : BitVec 3) (a : Nat) (w : BitVec 32) (level : BitVec 2) : Bool × State :=
  if cmd = 2 ∧ s.psProtected a = true then (false, s.raise HA_PS_ERR 3)
  else
    let k := if free then (Config.freeValue s.free).toNat % 4 else 0
    let s := { s with free := s.free + 1 }
    let done := s.psDone cmd (BitVec.ofNat 20 a) w level
    let late (s : State) : State := let s := s.raise HA_INPUT_ERR 9; if cmd = 0 then s else s.raise HA_PS_ERR 4
    match k with
    | 0 => (true, done)
    | 1 => (false, s.raise HA_PS_ERR 4)
    | 2 => (false, late s)
    | _ => (false, late done)

/-- The `n` bytes of the store at `a` as they are read, and whether the read was good. -/
def State.psBytes (s : State) (a n : Nat) : Bool × List Byte × State :=
  let r := s.psDo true 0 a 0 0
  if r.1 then (true, memBytes r.2.store a n, r.2) else (false, r.2.freeBytes n, { r.2 with free := r.2.free + n })

/-- The copy of record type `t` at `a`, read with `free` as in `psDo`: one whose read fails counts as not valid. -/
def State.recRead (s : State) (free : Bool) (t a size : Nat) : Option PRec × State :=
  let r := s.psDo free 0 a 0 0
  (if r.1 then readCopy r.2.store t a size else none, r.2)

/-- The winner of two copies, and what is recorded: 0 nothing, 1 COPY_BAD, 2 NO_RECORD, 3 TIE (R455). -/
def recWinner (a b : Option PRec) : Option PRec × Nat :=
  match a, b with
  | some a, none => (some a, 1)
  | none, some b => (some b, 1)
  | none, none => (none, 2)
  | some a, some b =>
    if recNewer a.seq b.seq then (some a, 0)
    else if recNewer b.seq a.seq then (some b, 0)
    else if a.seq = b.seq ∧ a.load = b.load then (some a, 0)
    else (some a, 3)

/-- The winner of the two copies of record type `t` in the store. -/
def State.recWin (s : State) (t : Nat) : Option PRec :=
  (recWinner (readCopy s.store t (recSlots t).1 (recSlots t).2.2) (readCopy s.store t (recSlots t).2.1 (recSlots t).2.2)).1

/-- The winner of the two copies of record type `t` as they are read, with the error noted (R455). -/
def State.recPick (s : State) (t : Nat) : Option PRec × State :=
  let (aa, ab, size) := recSlots t
  let (a, s) := s.recRead true t aa size
  let (b, s) := s.recRead true t ab size
  match recWinner a b with
  | (w, 0) => (w, s)
  | (w, 1) => (w, s.raise HA_PS_ERR 1)
  | (w, 2) => (w, s.raise HA_PS_ERR 2)
  | (w, _) => (w, (s.setFld HA_PS_ERR (7 + t) (7 + t) 1).raise HA_PS_ERR 0)

/-- The bytes of a copy: header and payload (R454). -/
def recBytes (t seq : Nat) (load : List Byte) : List Byte :=
  let h : List Byte := [BitVec.ofNat 8 t, 1] ++ wordBytes (BitVec.ofNat 16 load.length) 2 ++ wordBytes (BitVec.ofNat 32 seq) 4
  h ++ wordBytes (crc32 (h ++ load)) 4 ++ [0, 0, 0, 0] ++ load

/-- A command of a commit, issued while every one before was good. -/
def psThen (r : Bool × State) (free : Bool) (cmd : BitVec 3) (a : Nat) (w : BitVec 32) : Bool × State :=
  if r.1 then r.2.psDo free cmd a w 0 else r

/-- LOAD of the 64 words of a page, from byte `i` of `bs`. -/
def psLoads (r : Bool × State) (free : Bool) (bs : List Byte) (a i : Nat) : Bool × State :=
  let word (k : Nat) : BitVec 32 :=
    BitVec.ofNat 32 ((List.range 4).foldl (fun v j => v + (bs.getD (i + 4 * k + j) 0).toNat * 2 ^ (8 * j)) 0)
  (List.range 64).foldl (fun r k => psThen r free 1 (a + i + 4 * k) (word k)) r

/-- The pages of a slot in ascending order: LOAD of each, and its COMMIT (R456). -/
def State.psPages (s : State) (free : Bool) (bs : List Byte) (a size : Nat) : Bool × State :=
  (List.range (size / 256)).foldl (fun r k => psThen (psLoads r free bs a (256 * k)) free 2 (a + 256 * k) 0) (true, s)

/-- Commit a record (R456): the slot that did not win takes SEQ + 1, its other bytes zero (log entry 54), page by page, and is read back.
What failed stays as it is, and the winner is never written. The result, and whether it succeeded. -/
def State.recCommit (s : State) (free : Bool) (t : Nat) (load : List Byte) : Bool × State :=
  let (aa, ab, size) := recSlots t
  let w := s.recWin t
  let dst := match w with
    | some r => if r.at_ = aa then ab else aa
    | none => aa
  let seq := match w with
    | some r => (r.seq + 1) % 2 ^ 32
    | none => 1
  let r := s.psPages free (recBytes t seq load) dst size
  if r.1 then
    match r.2.recRead free t dst size with
    | (some _, s) => (true, s)
    | (none, s) => (false, s.raise HA_PS_ERR 4)
  else r

/-- Byte `i` of a payload. -/
def pByte (p : List Byte) (i : Nat) : Nat := (p.getD i 0).toNat
/-- `n` bytes of a payload at `i`, little-endian. -/
def pWord (p : List Byte) (i n : Nat) : Nat := (List.range n).foldl (fun v k => v + pByte p (i + k) * 2 ^ (8 * k)) 0

/-- The LIFE payload after adding to its counters (R458). -/
def lifeAdd (p : List Byte) (inc : Nat → Nat) : List Byte :=
  (List.range 6).flatMap fun i => wordBytes (BitVec.ofNat 32 (pWord p (4 * i) 4 + inc i)) 4

/-- Commit LIFE with increments; with no valid copy every counter starts at zero. -/
def State.lifeCommit (s : State) (inc : Nat → Nat) : Bool × State :=
  let p := match s.recWin 4 with
    | some r => r.load
    | none => []
  s.recCommit true 4 (lifeAdd p inc)

/-- A CONFIG item is skipped (R457). -/
def cfgSkip (a hi : Nat) : Bool :=
  hi != 0 || !((decide (0x30 ≤ a) && decide (a ≤ 0xFFFF)) || (decide (0x20000 ≤ a) && decide (a ≤ 0x1FFFFF)))
    || (decide (HA_PS_CMD ≤ a) && decide (a ≤ HA_PS_ERR + 3))

/-- A write by the boot ROM; an epoch change it starts ends before its next step (R400). -/
def State.romWrite (s : State) (a : Nat) (v : BitVec 32) : State :=
  let s := if s.regDenied .bootRom a true then s.accErr 1 a true true
    else if s.sunkAt a then s.raise HA_FAB_ERR 5 else s.regPut .bootRom a v
  if s.bit HA_FAB_EPOCH 1 then s.epEnd else s

/-- Apply the CONFIG items in order (R457). -/
def State.applyConfig (s : State) (p : List Byte) : State :=
  (List.range (p.length / 8)).foldl (fun s i =>
    let a := pWord p (8 * i) 3
    if cfgSkip a (pByte p (8 * i + 3)) then s.accErr 3 a true true
    else s.romWrite a (BitVec.ofNat 32 (pWord p (8 * i + 4) 4))) s

end Sys2Proof.Machine
end

