-- ==== Sys2Proof/Machine/Images.lean ====
section
/-! DEFINITION. Sys2Proof/Machine/Images.lean: the boot directory (R398, R399), program images (R278, R279) and the checks and
loads of the boot ROM (R280 to R284). -/

namespace Sys2Proof.Machine

/-- The block-memory region in units of 1 MiB. -/
def State.bmMib (s : State) : Nat := 2 ^ 10 * s.fld HA_STRAP 20 16
/-- Staging area, boot cache and program shadow in block memory (Table 13.2). -/
def State.stageByte (s : State) : Nat := 2 ^ 20 * (s.bmMib - 3)
/-- The boot cache. -/
def State.cacheByte (s : State) : Nat := 2 ^ 20 * (s.bmMib - 2)
/-- The program shadow. -/
def State.shadowByte (s : State) : Nat := 2 ^ 20 * (s.bmMib - 1)

/-- An entry of the boot directory (Table 13.3). -/
structure DirEnt where
  kind : Nat
  off : Nat
  len : Nat
  deriving DecidableEq, Repr

/-- The entries of the directory at `b`. -/
def dirEnts (m : Memory) (b : Nat) : List DirEnt :=
  (List.range 3).map fun j =>
    { kind := memRead m (b + 16 + 16 * j) 1, off := memRead m (b + 20 + 16 * j) 4, len := memRead m (b + 24 + 16 * j) 4 }

/-- Two images do not overlap. -/
def DirEnt.apart (a b : DirEnt) : Bool := decide (a.off + a.len ≤ b.off) || decide (b.off + b.len ≤ a.off)

/-- The directory at `b` is valid (R399). -/
def dirOk (m : Memory) (b : Nat) : Bool :=
  let es := dirEnts m b
  let e (i : Nat) : DirEnt := es.getD i ⟨0, 0, 0⟩
  memRead m b 4 == 0x52494442 && memRead m (b + 4) 2 == 1 && memRead m (b + 6) 2 == 3
    && [1, 2, 3].all (fun k => es.any fun e => e.kind == k)
    && es.all (fun e => decide (0x40 ≤ e.off) && decide (e.off + e.len ≤ 0x50000))
    && (e 0).apart (e 1) && (e 0).apart (e 2) && (e 1).apart (e 2)

/-- An image: its memory and byte address, its length and the kind its directory entry names. -/
structure Img where
  mem : Memory
  b : Nat
  len : Nat
  kind : Nat
  /-- The code of an image that was not read well, and is invalid whatever its bytes (R442); 0 for another. -/
  bad : Nat := 0
  deriving DecidableEq, Repr

/-- Fields of the image header (Table 8.6). -/
def Img.loadBase (i : Img) : Nat := memRead i.mem (i.b + 16) 4
/-- Number of instruction words. -/
def Img.loadLen (i : Img) : Nat := memRead i.mem (i.b + 20) 4
/-- Number of dispatch records. -/
def Img.dspCount (i : Img) : Nat := memRead i.mem (i.b + 24) 2
/-- IMG_VER. -/
def Img.ver (i : Img) : BitVec 32 := BitVec.ofNat 32 (memRead i.mem (i.b + 28) 4)
/-- The whole image, header included. -/
def Img.bytes (i : Img) : List Byte := memBytes i.mem i.b i.len
/-- Instruction word `k`. -/
def Img.word (i : Img) (k : Nat) : Nat := memRead i.mem (i.b + 64 + 4 * k) 4
/-- Dispatch record `k` (Table 8.7). -/
def Img.rec_ (i : Img) (k : Nat) : Word := BitVec.ofNat 64 (memRead i.mem (i.b + 64 + 4 * i.loadLen + 8 * k) 8)
/-- The dispatch records. -/
def Img.recs (i : Img) : List Word := (List.range i.dspCount).map i.rec_

/-- Step 2 of R280: header fields, with room for the words and records (log entry 55). -/
def Img.headOk (i : Img) : Bool :=
  decide (64 ≤ i.len) && memRead i.mem i.b 4 == 0x45474153 && memRead i.mem (i.b + 4) 2 == 1
    && memRead i.mem (i.b + 6) 1 == i.kind && memRead i.mem (i.b + 9) 3 == 0 && memRead i.mem (i.b + 26) 2 == 0
    && memRead i.mem (i.b + 36) 28 == 0 && decide (64 + 4 * i.loadLen + 8 * i.dspCount ≤ i.len)

/-- Step 2: the CRC over every byte after the header. -/
def Img.crcOk (i : Img) : Bool :=
  memRead i.mem (i.b + 32) 4 == (crc32 (memBytes i.mem (i.b + 64) (i.len - 64))).toNat

/-- Step 2: the load range. -/
def Img.rangeOk (i : Img) : Bool :=
  if i.kind = 3 then decide (0x10000 ≤ i.loadBase) && decide (i.loadBase + i.loadLen ≤ 0x1F800)
  else decide (i.loadBase + i.loadLen ≤ 0x3800)

/-- Step 3: compatible with the core (R251). -/
def Img.isaOk (i : Img) (ver feat : BitVec 32) : Bool :=
  let f := if i.kind = 3 then bf feat 31 16 else bf feat 15 0
  memRead i.mem (i.b + 7) 1 == bf ver 15 8 && decide (memRead i.mem (i.b + 8) 1 ≤ bf ver 7 0)
    && (memRead i.mem (i.b + 12) 4 &&& f) == memRead i.mem (i.b + 12) 4

/-- The event types of an engine (Table 8.1) and of Chervil (R480). -/
def evtKnown (kind e : Nat) : Bool :=
  if kind = 3 then e == 0x30 || e == 0x3E || e == 0xFF || (decide (0x50 ≤ e) && decide (e ≤ 0x59))
  else (decide (1 ≤ e) && decide (e ≤ 0x14)) || [0x20, 0x21, 0x30, 0x3E, 0x40, 0x41, 0xFF].contains e

/-- A dispatch record on its own (R279, step 4). -/
def Img.recOk (i : Img) (r : Word) : Bool :=
  let e := bf r 7 0
  let w := bf r 63 32
  let entry := if i.kind = 3 then bf r 48 32 else bf r 45 32
  let wake := e == 0x40 || e == 0x41
  evtKnown i.kind e && bf r 15 8 != 0
    && (if wake then bf r 48 32 == 0
        else bf r 48 32 == entry && decide (i.loadBase ≤ entry) && decide (entry < i.loadBase + i.loadLen))
    && (i.kind != 1 || (!w.testBit 18 && (decide (e ≤ 0x14) || e == 0x40)))
    && (!w.testBit 23 || (w.testBit 21 && w.testBit 22))

/-- The (EVT, class) pairs a record names. -/
def recPairs (r : Word) : List Nat := ((List.range 8).filter fun c => bt r (8 + c)).map fun c => 8 * bf r 7 0 + c

/-- No EVT and class is given twice in a list of records. -/
def pairsOnce (rs : List Word) : Bool := let ps := rs.flatMap recPairs; decide ps.Nodup

/-- Steps 2 to 4 of R280 on one image: its code of R284, 0 when it passes. -/
def Img.check (i : Img) (ver feat : BitVec 32) : Nat :=
  if i.bad ≠ 0 then i.bad else if !i.headOk then 1 else if !i.crcOk then 2 else if !i.rangeOk then 3 else if !i.isaOk ver feat then 4
  else if !(i.recs.all i.recOk && (i.kind == 3 || pairsOnce i.recs)) then 5 else 0

/-- The two engine images do not overlap. -/
def pairApart (h v : Img) : Bool :=
  decide (h.loadBase + h.loadLen ≤ v.loadBase) || decide (v.loadBase + v.loadLen ≤ h.loadBase)

/-- A record of the supervisor image with PRIV 1 gives an entry for event `e` in class `c`. -/
def Img.gives (v : Img) (e c : Nat) : Bool := v.recs.any fun r => bt r 50 && (recPairs r).contains (8 * e + c)

/-- Some record starts an internal flow in class `c`: an entry for recall or line-copy start (log entry 56). -/
def Img.startsIn (v : Img) (c : Nat) : Bool :=
  v.recs.any fun r => (recPairs r).contains (8 * 0x20 + c) || (recPairs r).contains (8 * 0x21 + c)

/-- The entries step 5 requires. -/
def Img.required (v : Img) : Bool :=
  v.gives 0x3E 0 && (List.range 8).all fun c => v.gives 0xFF c && (!v.startsIn c || v.gives 0x41 c)

/-- The error codes of the three images: firmware, handler, supervisor (R280 to R284). -/
structure ImgErrs where
  fw : Nat
  h : Nat
  v : Nat
  deriving DecidableEq, Repr

/-- Steps 2 to 5 on the three images; a record pair given twice across the engine images counts against the supervisor's. -/
def checkImages (f h v : Img) (ver feat : BitVec 32) : ImgErrs :=
  let cf := f.check ver feat
  let ch := h.check ver feat
  let cv0 := v.check ver feat
  let cv := if ch = 0 ∧ cv0 = 0 ∧ pairsOnce (h.recs ++ v.recs) = false then 5 else cv0
  let (ph, pv) :=
    if ch = 0 ∧ cv = 0 then
      (if !pairApart h v then (6, 6) else if !v.required then (7, 7) else (0, 0))
    else (if ch = 0 then 15 else ch, if cv = 0 then 15 else cv)
  { fw := cf, h := ph, v := pv }

/-- Words of an image as memory cells, from a byte address. -/
def Img.codeCells (i : Img) (b : Nat) : Memory := memSlice i.mem (i.b + 64) (4 * i.loadLen) b

/-- The dispatch words of an image, at their table indices from byte address `tb`. -/
def Img.table (i : Img) (m : Memory) (tb : Nat) : Memory :=
  i.recs.foldl (fun m r => (recPairs r).foldl (fun m k => memWrite m (tb + 4 * k) (bf r 63 32) 4) m) m

/-- The contents of the program shadow (step 6). -/
def shadowImage (h v : Img) : Memory :=
  let put (m : Memory) (i : Img) : Memory := memBlit m (i.codeCells (4 * i.loadBase)) (4 * i.loadBase) (4 * i.loadLen)
  v.table (h.table (put (put [] h) v) (4 * 0x3800)) (4 * 0x3800)

/-- Chervil's program RAM with the firmware loaded. -/
def fwImage (f : Img) : Memory :=
  let o := 4 * (f.loadBase - 0x10000)
  f.table (f.codeCells o) (4 * 0xF800)

end Sys2Proof.Machine
end

