-- ==== Sys2Proof/Machine/Repair.lean ====
section
/-! DEFINITION. Sys2Proof/Machine/Repair.lean: the repair map and its items (R469, R473 to R475), and the hard items of the
fuses (R474). -/

namespace Sys2Proof.Machine

/-! ### Items (Table 16.5) -/

/-- UNIT of an item. -/
def itUnit (i : Word) : Nat := bf i 6 0
/-- STRUCT of an item. -/
def itStruct (i : Word) : Nat := bf i 10 7
/-- LANE of an item. -/
def itLane (i : Word) : Nat := bf i 16 11
/-- KIND of an item: 0 spare row, 1 spare column, 2 spare lane, 3 way off. -/
def itKind (i : Word) : Nat := bf i 18 17
/-- ADDR of an item. -/
def itAddr (i : Word) : Nat := bf i 31 19
/-- SPARE of an item. -/
def itSpare (i : Word) : Nat := bf i 34 32

/-- Build an item. -/
def mkItem (unit struct lane kind addr spare : Nat) : Word :=
  BitVec.ofNat 64 (unit + struct * 2 ^ 7 + lane * 2 ^ 11 + kind * 2 ^ 17 + addr * 2 ^ 19 + spare * 2 ^ 32)

/-- Lanes, rows, columns, spare rows, spare columns and spare lanes of a structure (Table 16.3). Where the table gives no
count of lanes, rows or columns the bound is that of the field (log entry 57). -/
structure StructInfo where
  lanes : Nat
  rows : Nat
  cols : Nat
  spRows : Nat
  spCols : Nat
  spLanes : Nat
  deriving DecidableEq, Repr

/-- Table 16.3. -/
def structInfo (k : Nat) : StructInfo :=
  match k with
  | 0 => ⟨16, 8192, 64, 8, 2, 1⟩
  | 1 => ⟨4, 8192, 72, 8, 2, 1⟩
  | 2 => ⟨2, 4096, 72, 8, 2, 1⟩
  | 3 => ⟨4, 128, 8192, 4, 2, 1⟩
  | 4 => ⟨2, 4096, 72, 8, 2, 1⟩
  | 5 => ⟨1, 4096, 72, 8, 2, 0⟩
  | 6 => ⟨64, 32, 0, 0, 0, 0⟩
  | 7 => ⟨2, 0, 0, 0, 0, 1⟩
  | 8 => ⟨40, 0, 0, 0, 0, 2⟩
  | 9 => ⟨8, 512, 8192, 4, 1, 1⟩
  | 10 => ⟨6, 4096, 72, 8, 2, 1⟩
  | _ => ⟨64, 8192, 8192, 8, 2, 1⟩

/-- A unit has a structure (Table 16.3). -/
def unitHas (u k : Nat) : Bool :=
  if k ≤ 5 ∨ k = 7 then decide (u < 32)
  else match k with
    | 6 => decide (u < 32) || (decide (68 ≤ u) && decide (u ≤ 83)) || u == 92
    | 8 => decide (32 ≤ u) && decide (u < 64)
    | 9 => decide (64 ≤ u) && decide (u < 68)
    | 10 => decide (68 ≤ u) && decide (u ≤ 83)
    | 11 => decide (68 ≤ u) && decide (u ≤ 92)
    | _ => false

/-- No encoding of the item is reserved and no index is out of range (R475 step 2). -/
def itemOk (i : Word) : Bool :=
  let k := itStruct i
  let n := structInfo k
  unitHas (itUnit i) k && bf i 63 35 == 0 && decide (itLane i < n.lanes)
    && (match itKind i with
      | 0 => decide (itAddr i < n.rows) && decide (itSpare i < n.spRows) && k != 6
      | 1 => decide (itAddr i < n.cols) && decide (itSpare i < n.spCols)
      | 2 => (if k = 8 then decide (itAddr i < 6) else itAddr i == 0) && decide (itSpare i < n.spLanes)
      | _ => k == 6 && decide (itAddr i < 32) && (itUnit i != 92 || decide (itLane i < 8)))

/-- Two items name the same spare: unit, structure, kind and index, and for rows and columns the lane (a router's lane
spares belong to a port). -/
def sameSpare (a b : Word) : Bool :=
  itUnit a == itUnit b && itStruct a == itStruct b && itKind a == itKind b && itSpare a == itSpare b
    && (match itKind a with
      | 2 => itStruct a != 8 || itAddr a == itAddr b
      | 3 => false
      | _ => itLane a == itLane b)

/-- The macro instance of a way-off item (Table 10.4). -/
def offInst (i : Word) : Nat :=
  if itUnit i < 32 then 24 + itUnit i else if itUnit i = 92 then 16 + itLane i else itUnit i - 68

/-! ### Maps -/

/-- The repair map that a REPAIR payload carries; none when its length or count is wrong (R473). -/
def parseMap (p : List Byte) : Option RepairMap :=
  let n := pWord p 8 2
  if 16 ≤ p.length ∧ n ≤ 508 ∧ p.length = 16 + 8 * n then
    some { retired := BitVec.ofNat 32 (pWord p 0 4), portOff := BitVec.ofNat 24 (pWord p 4 3),
           qecBypass := BitVec.ofNat 4 (pByte p 7), items := (List.range n).map fun k => BitVec.ofNat 64 (pWord p (16 + 8 * k) 8) }
  else none

/-- The payload of a map. -/
def mapBytes (m : RepairMap) : List Byte :=
  wordBytes m.retired 4 ++ wordBytes m.portOff 3 ++ [m.qecBypass.setWidth 8] ++ wordBytes (BitVec.ofNat 16 m.items.length) 2
    ++ [0, 0, 0, 0, 0, 0] ++ m.items.flatMap fun i => wordBytes i 8

/-- The hard items and the hard RETIRED mask that the fuses hold (R474). A word that reads zero is unused. -/
def State.fuseMap (s : State) : RepairMap :=
  let w (a : Nat) : Nat := (smGet (fun _ => (0 : BitVec 32)) s.fuse a).toNat
  let all := (List.range 256).map fun k => BitVec.ofNat 64 (w (0x100 + 2 * k) + w (0x101 + 2 * k) * 2 ^ 32)
  { retired := BitVec.ofNat 32 (w 0x300 ||| w 0x301), items := all.filter fun i => decide (i ≠ 0) }

/-- Set a way's bit of HA_XLT_OFFi (R475 step 4). -/
def State.wayOffItem (s : State) (i : Word) : State :=
  if itKind i = 3 ∧ itemOk i = true then s.setFld (HA_XLT_OFF + 4 * offInst i) (itAddr i) (itAddr i) 1 else s

/-- Clear a way's bit of HA_XLT_OFFi. -/
def State.wayClear (s : State) (i : Word) : State :=
  if itKind i = 3 ∧ itemOk i = true then s.setFld (HA_XLT_OFF + 4 * offInst i) (itAddr i) (itAddr i) 0 else s

/-- Apply the hard items at the end of STRAP (R475). -/
def State.applyHard (s : State) : State :=
  let m := s.fuseMap
  m.items.foldl (fun s i => s.wayOffItem i) { s with map := m, hard := m }

/-- A spare that a soft item brings into use in a bank is written as zeros (R475 step 3): a row is one entry of the lane's
way, a lane every entry of it, a column one bit of each. The spares of the other arrays lie in arrays that are empty when
an item is applied, or in words that the map does not name (log entry 58). -/
def State.spareZero (s : State) (i : Word) : State :=
  if itStruct i ≠ 0 ∨ 32 ≤ itUnit i then s
  else
    let n : NodeId := Fin.ofNat 32 (itUnit i)
    let w := itLane i
    match itKind i with
    | 0 => s.modNd n fun x => x.setEntry (16 * itAddr i + w) 0
    | 1 => s.modNd n fun x => { x with bank := (x.bank.map fun e =>
        if e.1 % 16 = w then (e.1, entSeal (setBt e.2 (itAddr i) false)) else e).filter fun e => decide (e.2 ≠ 0) }
    | _ => s.modNd n fun x => { x with bank := x.bank.filter fun e => e.1 % 16 != w }

/-- One soft item (R475 step 2): skipped when a hard item is the same, skipped with MAP_ITEM when it is not usable or names
a hard item's spare, else in force. -/
def State.softItem (s : State) (old : List Word) (i : Word) : State :=
  if s.hard.items.contains i then s
  else if !itemOk i || s.hard.items.any (fun h => sameSpare h i) then s.raise HA_ST_ERR 2
  else
    let s := { s with map := { s.map with items := s.map.items ++ [i] } }
    let s := if old.contains i then s else s.spareZero i
    s.wayOffItem i

/-- Apply the soft map (R475); with none only the hard items are in force. -/
def State.applySoft (s : State) (m : Option RepairMap) : State :=
  let old := s.map.items
  match m with
  | none => { s with map := s.hard }
  | some m =>
    let s := { s with map := { retired := m.retired ||| s.hard.retired, portOff := m.portOff ||| s.hard.portOff,
                               qecBypass := m.qecBypass ||| s.hard.qecBypass, items := s.hard.items } }
    m.items.foldl (fun s i => s.softItem old i) s

/-- The nodes in service, in ascending order. -/
def State.nodesIn (s : State) : List NodeId := allNodes.filter s.inService

/-- With a retired node, the home map names the nodes in service in turn, and each retired node sinks, both by a fabric epoch
change that ends before the boot ROM's next step (R400, log entry 59). -/
def State.retireMap (s : State) : State :=
  let ns := s.nodesIn
  if ns.length = s.nodesN ∨ ns = [] then s
  else
    let at_ (i : Nat) : Nat := (ns.getD (i % ns.length) 0).val
    let s := (List.range 32).foldl (fun s m => s.setRaw (HA_HOME_MAP + 4 * m)
      (BitVec.ofNat 32 ((List.range 4).map fun j => at_ (4 * m + j) * 2 ^ (8 * j)).sum)) s
    let s := allNodes.foldl (fun s n =>
      if n.val < s.nodesN ∧ bt s.map.retired n.val = true then s.setFld HA_FAB_SINK n.val n.val 1 else s) s
    (s.epStart (some (true, true))).epEnd

end Sys2Proof.Machine
end

