-- ==== Sys2Proof/Machine/Boot.lean ====
section
/-! DEFINITION. Sys2Proof/Machine/Boot.lean: cold reset, straps and fill (R53 to R55, R396, R397) and the boot ROM (R398 to
R403, R477). -/

namespace Sys2Proof.Machine

/-! ### Cold reset -/

/-- What a cold reset leaves: everything at its cold-reset value but the parameter store, the fuses and the queue of
commands, which lie outside the block. Whether a COMMIT or a fuse program that was under way is carried out is open. -/
def State.coldReset (s : State) : State :=
  let c := match s.psCmd with
    | some (cmd, addr, w, level, _) => let c := s.choose; if c.1 then c.2.psDone cmd addr w level else c.2
    | none => s
  let c := match c.fusePgm with
    | some (a, w, _) =>
      let d := c.choose
      if d.1 then { d.2 with fuse := smSet (fun _ => (0 : BitVec 32)) d.2.fuse a.toNat w } else d.2
    | none => c
  { State.reset with pending := c.pending, store := c.store, pageBuf := c.pageBuf, storeProt := c.storeProt, fuse := c.fuse, free := c.free, romSyn := c.romSyn }

/-- The block in OFF: cold-reset state, every quadrant OFF (Table 12.3). -/
def State.enterOff (s : State) : State :=
  allQd.foldl (fun s q => s.setQd q { s.qd q with pwr := .off }) { s.coldReset with mode := .off }

/-- `COLD_RESET_ASSERT` (R392): OFF, from any mode; outputs are at zero and HA_MODE reads 0. -/
def execColdResetAssert (s : State) : Out := .next (if s.mode = .off then s else s.enterOff)

/-- `COLD_RESET_RELEASE` (R396): the cold-reset state in STRAP. -/
def execColdResetRelease (s : State) : Out := .next (if s.mode = .off then { s.coldReset with mode := .strap } else s)

/-! ### Straps (R53 to R55) -/

/-- Inputs that take their default, by bit: quads, hp, mp, ovf, tpp, init_fill, boot_src, bm_size, lc. -/
def pinsRange (p : StrapPins) : BitVec 9 :=
  let q (b : Bool) (i : Nat) : Nat := if b then 2 ^ i else 0
  BitVec.ofNat 9 (q (p.quads == 3) 0 + q (p.hpCount == 0 || decide (16 < p.hpCount.toNat)) 1
    + q (p.mpCount == 0 || decide (8 < p.mpCount.toNat)) 2 + q (p.tppMax == 0) 4
    + q (decide (p.bmSize.toNat < 4) || decide (24 < p.bmSize.toNat)) 7 + q (decide (5 < p.lcState.toNat)) 8)

/-- The inputs of a mask replaced by the defaults of Table 2.9. -/
def pinsDefault (p : StrapPins) (m : BitVec 9) : StrapPins :=
  { quads := if bt m 0 then 0 else p.quads, hpCount := if bt m 1 then 16 else p.hpCount,
    mpCount := if bt m 2 then 8 else p.mpCount, ovfEn := if bt m 3 then false else p.ovfEn,
    tppMax := if bt m 4 then 3 else p.tppMax, initFill := if bt m 5 then false else p.initFill,
    bootSrc := if bt m 6 then true else p.bootSrc, bmSize := if bt m 7 then 4 else p.bmSize,
    lcState := if bt m 8 then 3 else p.lcState }

/-- HA_STRAP of taken pins (Table 2.13). -/
def strapWord (p : StrapPins) : BitVec 32 :=
  BitVec.ofNat 32 (p.quads.toNat + p.hpCount.toNat * 2 ^ 2 + p.mpCount.toNat * 2 ^ 7 + b2n p.ovfEn * 2 ^ 11
    + p.tppMax.toNat * 2 ^ 12 + b2n p.initFill * 2 ^ 14 + b2n p.bootSrc * 2 ^ 15 + p.bmSize.toNat * 2 ^ 16 + p.lcState.toNat * 2 ^ 21)

/-- Raise a strap error when `b`. -/
def State.raiseIf (s : State) (b : Bool) (a i : Nat) : State := if b then s.raise a i else s

/-- The reset home map and media port map of the strapped counts (Table 18.3), in the shadows and in the fabric. -/
def State.mapsReset (s : State) : State :=
  let n := s.nodesN
  let k := s.mpN
  let s := (List.range 32).foldl (fun s m => s.setRaw (HA_HOME_MAP + 4 * m)
    (BitVec.ofNat 32 ((List.range 4).map fun j => (4 * m + j) % n * 2 ^ (8 * j)).sum)) s
  let s := s.setRaw HA_MP_MAP (BitVec.ofNat 32 ((List.range 8).map fun i => i % k * 2 ^ (4 * i)).sum)
  { s with homeMap := s.shadowHome, mpMap := s.shadowMps }

/-- The inputs in which two samples differ, by bit as in `pinsRange`. -/
def pinsDiff (a b : StrapPins) : List Nat :=
  [a.quads == b.quads, a.hpCount == b.hpCount, a.mpCount == b.mpCount, a.ovfEn == b.ovfEn, a.tppMax == b.tppMax,
    a.initFill == b.initFill, a.bootSrc == b.bootSrc, a.bmSize == b.bmSize, a.lcState == b.lcState].zipIdx.filterMap
    fun e => if e.1 then none else some e.2

/-- The tick at which strap input `i` last changed. -/
def State.chgAt (s : State) (i : Nat) : Nat := smGet (fun _ => 0) s.strapChg i

/-- The strap inputs read `p` on this tick (R53): each input that changed starts its 64 ticks again, and the first sample
starts all of them (filter L64, Table 2.2). -/
def State.strapSample (s : State) (p : StrapPins) : State :=
  let ch := match s.strapNow with
    | some q => pinsDiff p q
    | none => List.range 9
  { s with strapNow := some p, strapChg := ch.foldl (fun m i => smSet (fun _ => 0) m i s.tmo) s.strapChg }

/-- Every input was unchanged for 64 ticks by the 1,024th. -/
def State.strapsMeet (s : State) : Bool := (List.range 9).all fun i => decide (s.chgAt i + 64 ≤ 1024)
/-- Every input has been unchanged for 64 ticks. -/
def State.strapsStable (s : State) : Bool := (List.range 9).all fun i => s.past (s.chgAt i) 64
/-- The inputs that changed in the last 64 of the 1,024 ticks. -/
def State.strapsUnst (s : State) : BitVec 9 :=
  BitVec.ofNat 9 ((List.range 9).map fun i => if 1024 < s.chgAt i + 64 then 2 ^ i else 0).sum

/-- Straps are taken (R53 to R55, R65, R475): defaults, checks and corrections in table order, HA_STRAP, the values that
follow from it, and the hard repair items; FILL begins. -/
def State.takeStraps (s : State) (p : StrapPins) (unstable : BitVec 9) : State :=
  let rng := pinsRange p &&& ~~~unstable
  let q := pinsDefault p (rng ||| unstable)
  let dflt := rng ||| unstable
  let noOvf := q.ovfEn && decide (q.bmSize.toNat < 20)
  let noSrc := !q.bootSrc && bt dflt 7
  let warn := decide (q.mpCount.toNat < 2) && q.quads == 2
  let q := { q with ovfEn := q.ovfEn && !noOvf, bootSrc := q.bootSrc || noSrc }
  let s := { s with pins := some q, defaulted := rng, defaultedU := unstable, strapNow := none, strapChg := [] }
  let s := (s.setRaw HA_STRAP (strapWord q)).setFld HA_BOOT_STAT 3 3 (b2n q.bootSrc)
  let s := s.raiseIf (decide (rng &&& 0x7F ≠ 0)) HA_INPUT_ERR 0
  let s := s.raiseIf (decide (unstable ≠ 0)) HA_INPUT_ERR 1
  let s := s.raiseIf (noOvf || noSrc || warn) HA_INPUT_ERR 2
  let s := s.raiseIf (bt rng 7) HA_INPUT_ERR 3
  let s := s.raiseIf (bt rng 8) HA_INPUT_ERR 4
  let s := { s.mapsReset.applyHard with fuseRd := some s.tmo }
  let s := allQd.foldl (fun s q => if s.strapQuads ≤ q.val then s.setQd q { s.qd q with pwr := .off, quadOn := false } else s) s
  let s := s.setRaw HA_FAB_SINK_ACT (BitVec.ofNat 32 s.sinkAlways)
  s.setMode .fill

/-- The straps are sampled with the values `p`, and taken when every input has been unchanged for 64 ticks. -/
def State.strapsIn (s : State) (p : StrapPins) : State :=
  let s := s.strapSample p
  if s.strapsMeet && s.strapsStable then s.takeStraps p 0 else s

/-- `STRAPS_TAKEN` (R53): the inputs read `pins` on this tick, and hold until the next sample (log entry 111). -/
def execStrapsTaken (pins : StrapPins) (s : State) : Out :=
  .next (if s.mode = .strap ∧ s.pins = none then s.strapsIn pins else s)

/-- The straps are sampled, and taken with defaults for the unstable inputs, unless all were stable in time; those of `unst` changed
and came back between two samples (log entry 111). -/
def State.strapsLate (s : State) (p : StrapPins) (unst : BitVec 9) : State :=
  let s := s.strapSample p
  let u := s.strapsUnst ||| unst
  if u = 0 then (if s.strapsStable then s.takeStraps p 0 else s) else s.takeStraps p u

/-- `STRAP_TIMEOUT` (R53): 1,024 ticks have passed. -/
def execStrapTimeout (pins : StrapPins) (unstable : BitVec 9) (s : State) : Out :=
  .next (if s.mode = .strap ∧ s.pins = none ∧ s.past 0 1024 = true then s.strapsLate pins unstable else s)

/-! ### Boot ROM, PHASE 1 and 2 (R400) -/

/-- HA_BOOT_STAT.PHASE. -/
def State.phase (s : State) (k : Nat) : State := s.setFld HA_BOOT_STAT 2 0 k

/-- The place of the identity record in the boot cache: 16-byte aligned, apart from what Table 13.2 places (log entry 60). -/
def State.identByte (s : State) : Nat := s.cacheByte + 0x50000 + 16 * (Config.identPlace % 0x9000)

/-- Slot 0: the ROM identity value, and the identity record, which is written into the boot cache (R400 step 1, R403). -/
def State.romIdent (s : State) : State :=
  let r : List Byte := [0xA0, BitVec.ofNat 8 s.lc, 0, 0] ++ wordBytes (s.raw HA_STRAP) 4 ++ List.replicate 8 0
  let s : State := { s with bmem := memPut s.bmem s.identByte r }
  (s.extend 0 1 0 0 Config.romIdentity).extendObj 0 2 0 r

/-- Copy a record to its place in the boot cache: header and payload, or nothing (R398). -/
def State.cacheRec (s : State) (off : Nat) (r : Option PRec) : State :=
  let b := s.cacheByte + off
  match r with
  | some r => { s with bmem := memBlit s.bmem (memSlice s.store r.at_ (16 + r.load.length) b) b 4096 }
  | none => { s with bmem := memBlit s.bmem [] b 4096 }

/-- A REPAIR record whose payload is a map; another counts as none (log entry 61). -/
def mapRec (r : Option PRec) : Option PRec := r.filter fun r => (parseMap r.load).isSome

/-- The record of type `t` at `off` in the boot cache extends slot `slot` (Table 13.4). One that was not read well is measured as read,
and the default takes its place, which bit `bit` of HA_BOOT_STAT says (R442). Whether it was read well. -/
def State.measRec (s : State) (t slot kind off bit : Nat) : Bool × State :=
  let o := s.objRead (s.cacheByte + off) 4096
  let m := cellsOf o.2.1 0
  let s := o.2.2
  if o.1 then
    let r := readCopy m t 0 4096
    (true, match if t = 2 then mapRec r else r with
      | some r => s.extendObj slot kind (BitVec.ofNat 32 r.seq) (o.2.1.take (16 + r.load.length))
      | none => s.extendObj slot kind 0 [])
  else (false, (s.extendObj slot kind (BitVec.ofNat 32 (memRead m 4 4)) (o.2.1.take (16 + memRead m 2 2))).setFld HA_BOOT_STAT bit bit 1)

/-- Extend slots 4 and 5 from the boot cache: whether each record was read well. -/
def State.measRecs (s : State) : Bool × Bool × State :=
  let c := s.measRec 1 4 3 0xE0000 5
  let m := c.2.measRec 2 5 4 0xF0000 6
  (c.1, m.1, m.2)

/-- A granule of an array of node `n` reads back with one wrong bit: it is accepted and counted, in bank, program, scratch, region
map or tracker words (R477). -/
def State.fillCe (s : State) (n : NodeId) (arr : Nat) : State :=
  match arr % 5 with
  | 0 => s.entCe n
  | 1 => s.raise (ndA n ND_SCRUB_ERR) 0
  | 2 => s.raise (ndA n ND_SCRUB_ERR) 2
  | 3 => s.raise (ndA n ND_SCRUB_ERR) 3
  | _ => s.raise (ndA n ND_TRK_ERR) 0

/-- A granule of unit `u` reads back uncorrectable: a repair map without its node, or with its extent cache bypassed (Table 16.4), is
committed, and a full reset is requested; in the last node in service UNREP_SYS leads to SAFE (R477). -/
def State.fillBad (s : State) (u : Nat) : State :=
  if u < 32 ∧ s.nodesIn.length = 1 then s.raise HA_ST_ERR 0
  else
    let m := if u < 32 then { s.map with retired := setBt s.map.retired u true } else { s.map with qecBypass := setBt s.map.qecBypass (u - 64) true }
    let c := s.recCommit true 2 (mapBytes m)
    { (if c.1 then c.2 else c.2.raise HA_ST_ERR 3) with romRst := true }

/-- Reading back: which granules read with a wrong bit, and whether one reads uncorrectable, is open; the first such ends the fill
(log entry 62). -/
def State.fillRead (s : State) (units : List Nat) : State :=
  let v := Config.freeValue s.free
  let w := Config.freeValue (s.free + 1)
  let s := s.nodesIn.foldl (fun s n => if bt v n.val then s.fillCe n (w.toNat + n.val) else s) { s with free := s.free + 2 }
  match units[w.toNat % (2 * units.length)]? with
  | some u => s.fillBad u
  | none => s

/-- The checked fill after an unclean start (R477): every array of Table 16.3 of the nodes in service, and every extent
cache, is written as zeros and read back; then DUE is set. -/
def State.checkedFill (s : State) : State :=
  let s := s.nodesIn.foldl (fun s n =>
    (s.modNd n fun x => x.filled x.tarQuench).setMac (24 + n.val) (s.mac (24 + n.val)).lost) s
  let s := allQd.foldl (fun s q => s.setQd q { s.qd q with qec := [], lru := [] }) s
  (s.fillRead (s.nodesIn.map (·.val) ++ ((List.range 4).filter fun q => decide (q < s.strapQuads) && !bt s.map.qecBypass q).map (64 + ·))).setFld HA_ST_STAT 9 9 1

/-- The configuration record and the repair map are read from the store, copied to the boot cache and measured (R400 step 2): those
that are in force. -/
def State.bootRecs (s : State) : Option PRec × Option PRec × State :=
  let c := s.recPick 1
  let m := c.2.recPick 2
  let r := ((m.2.cacheRec 0xE0000 c.1).cacheRec 0xF0000 (mapRec m.1)).measRecs
  let cfg := c.1.filter fun _ => r.1
  let map := (mapRec m.1).filter fun _ => r.2.1
  (cfg, map, (r.2.2.setFld HA_BOOT_STAT 5 5 (b2n cfg.isNone)).setFld HA_BOOT_STAT 6 6 (b2n map.isNone))

/-- They are applied. -/
def State.bootApply (s : State) (cfg map : Option PRec) : State :=
  let s := match cfg with
    | some r => s.applyConfig r.load
    | none => s
  (s.applySoft (map.bind fun r => parseMap r.load)).retireMap

/-- METALOC gives HA_META_PLC and HA_META_CKPT (R457). -/
def State.bootMeta (s : State) : State :=
  let r := s.recPick 3
  match r.1 with
  | some m => (r.2.romWrite HA_META_PLC (BitVec.ofNat 32 (pWord m.load 4 4))).romWrite HA_META_CKPT (BitVec.ofNat 32 (pWord m.load 8 4))
  | none => r.2

/-- LIFE is read, and its counters rise (R458). -/
def State.bootLife (s : State) (unclean : Bool) : State :=
  ((s.recPick 4).2.lifeCommit fun i => if i = 0 then 1 else if i = 1 then b2n unclean else 0).2

/-- The clean-shutdown flag, then its commit as 0 (R457); an unclean start is followed by the checked fill (R477). LIFE is committed at
a cold boot only. -/
def State.bootDown (s : State) (cold : Bool) : State :=
  let r := s.recPick 5
  let unclean := match r.1 with
    | some d => pByte d.load 0 == 0
    | none => true
  let s := r.2.setFld HA_BOOT_STAT 4 4 (b2n unclean)
  let s := if cold then s.bootLife unclean else s
  let s := (s.recCommit true 5 [0]).2
  if unclean then s.checkedFill else s

/-- PHASE 2 of R400. -/
def State.phase2 (s : State) (cold : Bool) : State :=
  let r := (s.phase 2).bootRecs
  (r.2.2.bootApply r.1 r.2.1).bootMeta.bootDown cold

/-! ### Boot ROM, PHASE 4 and 5 -/

/-- An object of `n` bytes at `a` of the boot source, as it is read: of the parameter store with `ps`, else of block memory. -/
def State.srcRead (s : State) (ps : Bool) (a n : Nat) : Bool × List Byte × State := if ps then s.psBytes a n else s.objRead a n

/-- Copy the directory and, when it is valid, its images to the boot cache (R400 step 4), as they are read: the kinds of those that were
not read well, 0 for the directory. -/
def State.copyObjects (s : State) (ps : Bool) (b : Nat) : List Nat × State :=
  let c := s.cacheByte
  let d := s.srcRead ps b 64
  let s := { d.2.2 with bmem := memPut d.2.2.bmem c d.2.1 }
  let es := if d.1 && dirOk s.bmem c then dirEnts s.bmem c else []
  let r := es.foldl (fun (r : List Nat × State) e =>
    let o := r.2.srcRead ps (b + e.off) e.len
    (if o.1 then r.1 else e.kind :: r.1, { o.2.2 with bmem := memPut o.2.2.bmem (c + e.off) o.2.1 })) ([], s)
  (if d.1 then r.1 else 0 :: r.1, r.2)

/-- The image of kind `k` in the boot cache, as it is read. One that was not read well, here or where it was copied, is invalid: which
failure it counts as is open (R442, log entry 115). -/
def State.readImg (s : State) (bad : List Nat) (k : Nat) : Img × State :=
  match (dirEnts s.bmem s.cacheByte).find? fun e => e.kind == k with
  | some e =>
    let o := s.objRead (s.cacheByte + e.off) e.len
    let i : Img := { mem := cellsOf o.2.1 0, b := 0, len := e.len, kind := k }
    if o.1 && !bad.contains k then (i, o.2.2)
    else ({ i with bad := 1 + (Config.freeValue o.2.2.free).toNat % 7 }, { o.2.2 with free := o.2.2.free + 1 })
  | none => ({ mem := [], b := 0, len := 0, kind := k }, s)

/-- The three images as they were read from the boot cache: firmware, handler, supervisor. -/
structure ImgSet where
  f : Img
  h : Img
  v : Img
  deriving DecidableEq, Repr

/-- Read the three images from the boot cache. -/
def State.readSet (s : State) (bad : List Nat) : ImgSet × State :=
  let f := s.readImg bad 3
  let h := f.2.readImg bad 1
  let v := h.2.readImg bad 2
  (⟨f.1, h.1, v.1⟩, v.2)

/-- Read the directory and the images from the boot cache: none when the directory is not valid. -/
def State.readImgs (s : State) (bad : List Nat) : Option ImgSet × State :=
  let d := s.objRead s.cacheByte 64
  if d.1 && !bad.contains 0 && dirOk d.2.2.bmem d.2.2.cacheByte then (some (d.2.2.readSet bad).1, (d.2.2.readSet bad).2)
  else (none, d.2.2)

/-- Extend slots 1, 2 and 3 with the images, and with nothing when there are none (Table 13.4, R400). -/
def State.measImages (s : State) (i : Option ImgSet) : State :=
  match i with
  | some i => [(1, 5, i.f), (2, 6, i.h), (3, 7, i.v)].foldl (fun (s : State) (x : Nat × Nat × Img) =>
      s.extendObj x.1 x.2.1 x.2.2.ver x.2.2.bytes) s
  | none => [(1, 5), (2, 6), (3, 7)].foldl (fun (s : State) (x : Nat × Nat) => s.extendObj x.1 x.2 0 []) s

/-- Steps 2 to 5 of R280 on the images; every code is 1 when the directory is not valid (R400). -/
def State.imgErrs (s : State) (i : Option ImgSet) : ImgErrs :=
  match i with
  | some i => checkImages i.f i.h i.v (s.raw HA_SAGE_VER) (s.raw HA_SAGE_FEAT)
  | none => ⟨1, 1, 1⟩

/-- Write the shadow and the versions, load the engines and Chervil, set LOCK, and release them (R280 steps 6 to 8, R400
step 5, R408 steps 8 to 10): FULL is 1 for the engines when the release follows a full reset (Table 8.2), for Chervil when it is
that of the hold sequence (R400). -/
def State.loadAll (s : State) (i : ImgSet) (full chv : Bool) : State :=
  let f := i.f
  let h := i.h
  let v := i.v
  let b := s.shadowByte
  let s := { s with bmem := memBlit s.bmem (memSlice (shadowImage h v) 0 65536 b) b 65536 }
  let s := s.setFld HA_PROG_SHADOW 18 0 (b / 65536)
  let s := ((s.setRaw HA_IMG_HVER h.ver).setRaw HA_IMG_SVER v.ver).setFld HA_IMG_STAT 12 12 1
  let s := allQd.foldl (fun s q => if s.qEnabled q = true ∧ (s.qd q).pwr = .on then s.quadLoad q full else s) s
  let s := { s with chv := ({ s.chv with prog := fwImage f, progSyn := [] } : Core).releasedChv chv }
  let s := { s with meas := { s.meas with lock := true } }
  s.setFld HA_CHV_STAT 23 23 1

/-- The store protection of the lifecycle state (R459). -/
def State.wantProt (s : State) : BitVec 2 := if s.lc = 2 ∨ s.lc = 3 then 2 else if s.lc = 5 then 3 else 0

/-- The store protection set at handover (R459): never lowered, since the block leaves what it finds (log entry 63). -/
def State.protect (s : State) : State :=
  if s.storeProt.toNat < s.wantProt.toNat then (s.psDo true 3 0 0 s.wantProt).2 else s

/-- The codes of HA_IMG_STAT (R284): while some image fails, none is loaded, and one without a failure of its own reads 15. -/
def ImgErrs.code (e : ImgErrs) (c : Nat) : Nat := if c = 0 ∧ (e.fw ≠ 0 ∨ e.h ≠ 0 ∨ e.v ≠ 0) then 15 else c
/-- No image fails. -/
def ImgErrs.none (e : ImgErrs) : Bool := e.fw == 0 && e.h == 0 && e.v == 0
/-- HA_IMG_STAT of the codes, with RELEASED 0. -/
def ImgErrs.stat (e : ImgErrs) : Nat := e.code e.fw + e.code e.h * 16 + e.code e.v * 256

/-- The boot follows a cold reset, and no full reset came between. -/
def State.coldBoot (s : State) : Bool := s.fld HA_RST_STAT 18 3 == 0

/-- Valid images are loaded and started. -/
def State.startImages (s : State) (i : ImgSet) (hold : Bool) : State :=
  let s := s.loadAll i (hold || !s.coldBoot) hold
  if hold then s else (s.phase 5).protect

/-- Steps 1 to 8 of R280 on the boot cache, as the boot ROM runs them in BOOT and in HOLD. The images are measured, then
checked; a failure leaves PHASE 6 and enters SAFE (R401). -/
def State.loadImages (s : State) (bad : List Nat) (hold : Bool) : State :=
  let r := s.readImgs bad
  let s := r.2.measImages r.1
  let e := s.imgErrs r.1
  let s := s.setFld HA_IMG_STAT 12 0 e.stat
  match r.1.filter fun _ => e.none with
  | some i => s.startImages i hold
  | none => (s.phase 6).safeEntry 2

/-- The staging area in block memory is copied when RELOAD is 1; RELOADED shows it, and RELOAD falls (R406 to R408). The kinds that were
not read well. -/
def State.reloadObjects (s : State) : List Nat × State :=
  if s.bit HA_BOOT_CTRL 1 then
    let r := s.copyObjects false s.stageByte
    (r.1, (r.2.setFld HA_BOOT_CTRL 1 1 0).setFld HA_BOOT_STAT 7 7 1)
  else ([], s.setFld HA_BOOT_STAT 7 7 0)

/-- The objects that PHASE 4 loads: at a cold boot those of the boot source, at the boot path of a full reset those of the boot cache or,
with RELOAD, of the staging area (R400, R407, Table 13.6); where a reset cut the cold boot before this phase, the boot cache holds
nothing yet and the boot source is read (log entry 64). The kinds that were not read well. -/
def State.bootObjects (s : State) : List Nat × State :=
  if s.bootCopied = false ∧ (s.coldBoot = true ∨ s.bit HA_BOOT_CTRL 1 = false) then
    (if s.bit HA_STRAP 15 then s.copyObjects true 0x80000 else s.copyObjects false s.stageByte)
  else s.reloadObjects

/-- PHASE 4 and 5 (R400). -/
def State.phase4 (s : State) : State :=
  let r := (s.phase 4).bootObjects
  { r.2 with bootCopied := true }.loadImages r.1 false

/-- PHASE 3: with boot source 0 the ROM waits for READY. A checked fill that asked for a full reset, or ended in SAFE, ends the start
here (R477). -/
def State.phase3 (s : State) : State :=
  if s.mode ≠ .boot ∨ s.romRst = true then s
  else if s.bit HA_STRAP 15 = false ∧ s.bit HA_BOOT_CTRL 0 = false then s.phase 3 else s.phase4

/-- The boot ROM from step 1 of R400. -/
def State.bootRun (s : State) : State := ((s.phase 1).romIdent.phase2 s.coldBoot).phase3

/-- FILL ends: BOOT, and Chervil is released into its boot ROM (R397). -/
def execFillEnd (s : State) : Out :=
  .next (if s.mode = .fill then ({ s with fuseRd := none }.setMode .boot).bootRun.goOn else s)

/-- A write of HA_BOOT_CTRL (Table 13.9): READY lets a waiting boot ROM go on. -/
def State.bootCtrl (s : State) (v : BitVec 32) : State :=
  let s := s.setRaw HA_BOOT_CTRL (v &&& 3)
  if s.mode = .boot ∧ s.fld HA_BOOT_STAT 2 0 = 3 ∧ bt v 0 = true then s.phase4 else s

/-- `READY` (R400): the enclosing controller has written the staging area with the given bytes, and writes HA_BOOT_CTRL
(log entry 65). -/
def execBootReady (src : Src) (wdata : BitVec 32) (staged : List (Nat × BitVec 8)) (s : State) : Out :=
  .next (s.regDo src HA_BOOT_CTRL true fun s =>
    let put (m : Memory) (c : Nat × BitVec 8) : Memory :=
      if c.1 < 2 ^ 20 then smSet memZero m (s.stageByte + c.1) c.2 else m
    ({ s with bmem := staged.foldl put s.bmem }.bootCtrl wdata).goOn)

end Sys2Proof.Machine
end

