-- ==== Sys2Proof/Machine/EngineEvents.lean ====
section
/-! DEFINITION. Sys2Proof/Machine/EngineEvents.lean: the dispatch of each event type of Table 8.1, the work messages of the
DMA channels (R329, R330), and the visits of sessions (R421). -/

namespace Sys2Proof.Machine

/-- Dispatch the next event of an engine to thread `t` when its EVT lies between two values. -/
def State.dispatchEvt (s : State) (n : NodeId) (t : Fin 8) (lo hi : Nat) : State :=
  s.dispatchIf ⟨.node n, t⟩ fun e => decide (lo ≤ e.evt.toNat) && decide (e.evt.toNat ≤ hi)

/-- `HOST_REQUEST_EVENT` (R254). -/
def execHostRequestEvent (n : NodeId) (t : Fin 8) (s : State) : Out := .next (s.dispatchEvt n t 0x01 0x11)
/-- `WRITE_BACK_EVENT` (R191, R254). -/
def execWriteBackEvent (n : NodeId) (t : Fin 8) (s : State) : Out := .next (s.dispatchEvt n t 0x12 0x13)
/-- `ASSIST_FAULT` (R260, R324). -/
def execAssistFault (n : NodeId) (t : Fin 8) (s : State) : Out := .next (s.dispatchEvt n t 0x14 0x14)
/-- `RECALL_START` (R254, R330). -/
def execRecallStart (n : NodeId) (t : Fin 8) (s : State) : Out := .next (s.dispatchEvt n t 0x20 0x20)
/-- `LINE_COPY_START` (R254, R330). -/
def execLineCopyStart (n : NodeId) (t : Fin 8) (s : State) : Out := .next (s.dispatchEvt n t 0x21 0x21)
/-- `WAKE_HOST_FLOW` (R261). -/
def execWakeHostFlow (n : NodeId) (t : Fin 8) (s : State) : Out := .next (s.dispatchEvt n t 0x40 0x40)
/-- `WAKE_INTERNAL_FLOW` (R261). -/
def execWakeInternalFlow (n : NodeId) (t : Fin 8) (s : State) : Out := .next (s.dispatchEvt n t 0x41 0x41)
/-- `MANAGEMENT_MESSAGE` (R256), at an engine or at Chervil. -/
def execManagementMessage (t : Thr) (s : State) : Out := .next (s.dispatchIf t fun e => e.evt == 0x30)

/-! ### Messages that the supervisor image serves as a whole (R330, R421) -/

/-- The message that waits in an inbox slot whose event has not been dispatched, when its TYPE is `ty`. -/
def State.inboxMsg (s : State) (n : NodeId) (slot ty : Nat) : Option Line :=
  let c := (s.nd n).core
  if !(s.coreRuns (.node n)) || !c.events.any (fun e => e.evt == 0x30 && e.inbox == some slot) then none
  else
    let m := memLine c.ram (inboxAddr (.node n) slot / 64)
    if bf m 7 0 = ty then some m else none

/-- Take the event of an inbox slot and free the slot. -/
def State.inboxTake (s : State) (n : NodeId) (slot : Nat) : State :=
  s.modNd n fun x => { x with core := { x.core with inbox := x.core.inbox.filter (· != slot),
                                                    events := x.core.events.filter fun e => !(e.evt == 0x30 && e.inbox == some slot) } }

/-- A report message for a work message with a result (Table 10.8). -/
def reportMsg (m : Line) (result : Nat) : Line :=
  BitVec.ofNat 512 (0xD0 + bf m 11 8 * 2 ^ 8 + bf m 31 16 * 2 ^ 16 + result * 2 ^ 32 + bf m 103 64 * 2 ^ 64)

/-- The supervisor image serves a work message: TALLOC with the KIND on its PLA; BUSY is reported when it is refused. -/
def State.serveWork (s : State) (n : NodeId) (slot ty kind : Nat) : State :=
  match s.inboxMsg n slot ty with
  | none => s
  | some m =>
    let s := s.inboxTake n slot
    let sw : Word := BitVec.ofNat 64 (kind + bf m 170 168 * 2 ^ 4)
    let r := s.tallocGo n sw (BitVec.ofNat 40 (bf m 103 64))
    (if r.1 = 2 then r.2.dmaMsg (reportMsg m 4) else r.2).goOn

/-- `LINE_COPY` (R330): a KIND 4 flow. -/
def execLineCopy (n : NodeId) (slot : Fin 16) (s : State) : Out := .next (s.serveWork n slot.val 0xC1 4)
/-- `SECTOR_RECALL` (R330): a KIND 3 flow with HOST zero. -/
def execSectorRecall (n : NodeId) (slot : Fin 16) (s : State) : Out := .next (s.serveWork n slot.val 0xC2 3)

/-- `VISIT` (R421): the supervisor image serves a VISIT message. No visit starts in FLUSH (R430). -/
def execVisit (n : NodeId) (slot : Fin 16) (s : State) : Out :=
  .next (match s.inboxMsg n slot.val 0xC3 with
    | none => s
    | some m =>
      if s.mode = .flush then s
      else
        let j : Visit := { host := bf m 17 8, depart := bt m 18 }
        let s := (s.inboxTake n slot.val).modNd n fun x =>
          { x with visits := x.visits.filter (fun o => !(o.host == j.host && o.depart == j.depart)) ++ [j] }
        (s.visitPoll n).goOn)

/-- `VISIT_DONE` (R421): Chervil takes a node's report once the visit has taken every entry and every flow of it has ended;
RESULT 1 says that it lost an overflow set (R174). -/
def execVisitDone (n : NodeId) (host : BitVec 10) (depart : Bool) (result : BitVec 4) (s : State) : Out :=
  .next (match (s.nd n).visits.find? fun j => j.host == host.toNat && j.depart == depart with
    | none => s
    | some j => if j.done && result.toNat == b2n j.bad then (s.visitEnd n j.host j.depart).goOn else s)

end Sys2Proof.Machine
end

