-- ==== Sys2Proof/Machine/ChervilEvents.lean ====
section
/-! DEFINITION. Sys2Proof/Machine/ChervilEvents.lean: the dispatch of each event of Chervil (Table 17.3), with what its
firmware does for a session message and for a departure (R417, R418, R420), and the timer (R480). -/

namespace Sys2Proof.Machine

/-- Dispatch the next event of Chervil to thread `t` when its EVT is `evt`. -/
def State.chvDispatch (s : State) (t : Fin 8) (evt : Nat) : State :=
  s.dispatchIf ⟨.chervil, t⟩ fun e => e.evt == BitVec.ofNat 8 evt

/-- The datum of the event that thread `t` of Chervil would take now, when its EVT is `evt` and it has an entry. -/
def State.chvTakes (s : State) (t : Fin 8) (evt : Nat) : Option Nat :=
  if (s.thr ⟨.chervil, t⟩).st ≠ .free then none
  else match s.nextEvt .chervil with
    | none => none
    | some e =>
      if e.evt = BitVec.ofNat 8 evt then
        match s.pickEntry .chervil evt 0 with
        | .stall _ => none
        | _ => some e.datum.toNat
      else none

/-- Dispatch an event that firmware serves, and let it be served, at once or when the mode lets it: in FLUSH no session message is
served and no visit starts (R430). -/
def State.chvServed (s : State) (t : Fin 8) (evt : Nat) (err : BmErr) : State :=
  let d := s.chvTakes t evt
  let s := s.chvDispatch t evt
  match d with
  | some d => { s with chvTodo := s.chvTodo ++ [(evt, d, err)] }.goOn
  | none => s

/-- The TIMER event is raised once PERIOD ticks have passed since the last one (R480). -/
def State.timerPoll (s : State) : State :=
  let p := s.fld HA_CHV_TIMER 23 0
  if p = 0 ∨ s.time.toNat < s.timerAt + p ∨ s.mode = .off then s
  else { s with timerAt := s.time.toNat }.chvEvent 0x57 s.time.toNat

/-- `MAILBOX` (R480): the event is dispatched; the commands of the mailbox have rows of their own. -/
def execEvMailbox (t : Fin 8) (s : State) : Out := .next (s.chvDispatch t 0x50)
/-- `SESSION` (R417, R418, R480). -/
def execEvSession (t : Fin 8) (err : BmErr) (s : State) : Out :=
  .next (s.chvServed t 0x51 err)
/-- `DEPART` (R420, R480): the departure policy is read; the visit follows once R420 lets it start. -/
def execEvDepart (t : Fin 8) (err : BmErr) (s : State) : Out :=
  .next (s.chvServed t 0x52 err)
/-- `ERROR_EVENT` (R480). -/
def execEvError (t : Fin 8) (s : State) : Out := .next (s.chvDispatch t 0x53)
/-- `MODE_EVENT` (R480). -/
def execEvMode (t : Fin 8) (s : State) : Out := .next (s.chvDispatch t 0x54)
/-- `DMA_EVENT` (R480). -/
def execEvDma (t : Fin 8) (s : State) : Out := .next (s.chvDispatch t 0x55)
/-- `MP_DETACH` (R427, R480). -/
def execEvMpDetach (t : Fin 8) (s : State) : Out := .next (s.chvDispatch t 0x56)
/-- `TIMER` (R480): the event is raised when PERIOD ticks have passed, and dispatched. -/
def execEvTimer (t : Fin 8) (s : State) : Out := .next (s.timerPoll.chvDispatch t 0x57)
/-- `FLUSH_EVENT` (R430, R480). -/
def execEvFlush (t : Fin 8) (s : State) : Out := .next (s.chvDispatch t 0x58)
/-- `PMC_OVF` (R480, R496): raised by the wrap of a counter, and dispatched here. -/
def execPmcOvf (t : Fin 8) (s : State) : Out := .next (s.chvDispatch t 0x59)

end Sys2Proof.Machine
end

