-- ==== Sys2Proof/Machine/Debug.lean ====
section
/-! DEFINITION. Sys2Proof/Machine/Debug.lean: the debug aperture over the arrays of Table 18.8 (R509 to R514), and the
scrubbers of Table 15.2, that of the survivor tables included (R439). -/

namespace Sys2Proof.Machine

/-! ### Arrays (Table 18.8) -/

/-- An array that the aperture reaches. -/
inductive Arr where
  | bank (n : NodeId)
  | rmap (n : NodeId)
  | trk (n : NodeId)
  | lbuf (n : NodeId)
  | prog (n : NodeId)
  | scr (n : NodeId)
  | que (q : QueueId) (slots : Nat)
  | thr (c : CoreId)
  | qec (q : QuadId)
  | led (p : HpId)
  | slots (p : HpId)
  | mtag (m : MpId)
  | mirror (m : MpId)
  | chvProg | chvRam | sess | evq
  deriving DecidableEq, Repr

/-- The array that UNIT and ARRAY name; none for a unit without arrays or an array it lacks. -/
def arrOf (unit arr : Nat) : Option Arr :=
  if unit < 32 then
    let n : NodeId := Fin.ofNat 32 unit
    [Arr.bank n, .rmap n, .trk n, .lbuf n, .prog n, .scr n, .que ⟨.node n, .req⟩ 512, .que ⟨.node n, .rsp⟩ 128,
      .que ⟨.node n, .mgt⟩ 48, .thr (.node n), .que ⟨.node n, .data⟩ 128][arr]?
  else if 64 ≤ unit ∧ unit < 68 then [Arr.qec (Fin.ofNat 4 (unit - 64))][arr]?
  else if 68 ≤ unit ∧ unit < 84 then
    let p : HpId := Fin.ofNat 16 (unit - 68)
    [Arr.led p, .slots p, .que ⟨.hp p, .snp⟩ 256][arr]?
  else if 84 ≤ unit ∧ unit < 92 then
    let m : MpId := Fin.ofNat 8 (unit - 84)
    [Arr.mtag m, .que ⟨.mp m, .mreq⟩ 256, .mirror m][arr]?
  else if unit = 92 then [Arr.chvProg, .chvRam, .sess, .evq, .thr .chervil][arr]?
  else none

/-- Bytes of an array. -/
def Arr.bytes : Arr → Nat
  | .bank _ => 0x100000 | .rmap _ => 0x40000 | .trk _ => 0x10000 | .lbuf _ => 0x10000 | .prog _ => 0x10000
  | .scr _ => 0x8000 | .que _ k => 128 * k | .thr _ => 0x1000 | .qec _ => 0x10000 | .led _ => 0x40000
  | .slots _ => 0x20000 | .mtag _ => 0x8000 | .mirror _ => 256 | .chvProg => 0x40000 | .chvRam => 0x20000
  | .sess => 0x2000 | .evq => 0x800

/-- The unit of an array is unavailable (R512). -/
def State.arrAway (s : State) : Arr → Bool
  | .bank n | .rmap n | .trk n | .lbuf n | .prog n | .scr n | .thr (.node n) | .que ⟨.node n, _⟩ _ => !s.live n
  | .qec q => s.pins.isSome && decide (s.strapQuads ≤ q.val) || (s.qd q).pwr != .on
  | .led p | .slots p | .que ⟨.hp p, _⟩ _ => !s.hpUse p
  | .mtag m | .mirror m | .que ⟨.mp m, _⟩ _ => !s.mpUse m
  | _ => false

/-- Granules narrower than 64 bits: accesses are of 32-bit words (R511). -/
def Arr.narrow : Arr → Bool
  | .lbuf _ | .que .. => true
  | _ => false

/-- The thread state of a core is read-only. -/
def Arr.readOnly : Arr → Bool
  | .thr _ => true
  | _ => false

/-- A granule as the aperture reads it: value, syndrome, and the parity bits of its bytes that disagree. -/
structure Gran where
  val : Word
  syn : BitVec 8 := 0
  par : Nat := 0
  deriving DecidableEq, Repr

/-! ### Words of structured entries -/

/-- A free value, for what a place that is not in use holds: the spec states no value for it (log entry 69). -/
def State.freeWord (s : State) : Word × State := (Config.freeValue s.free, { s with free := s.free + 1 })

/-- The two granules of a valid extent-cache entry. -/
def QecEnt.word (e : QecEnt) (hi : Bool) : Word :=
  if hi then BitVec.ofNat 64 (e.x.cls.toNat + b2n e.x.depart * 8 + e.x.pclass.toNat * 16)
  else BitVec.ofNat 64 (e.ctx.toNat + e.cidx.toNat * 2 ^ 16 + e.x.pext.toNat * 2 ^ 32 + 2 ^ 52)

/-- An extent-cache entry after a write; `o` supplies what an entry that becomes valid held. -/
def QecEnt.put (old : Option QecEnt) (hi : Bool) (v o : Word) (bad : Bool) : Option QecEnt :=
  let x0 : Xlat := ⟨0, BitVec.ofNat 3 (bf o 2 0), bt o 3, BitVec.ofNat 2 (bf o 5 4)⟩
  let e := old.getD { ctx := 0, cidx := 0, x := x0 }
  if hi then
    let x : Xlat := { e.x with cls := BitVec.ofNat 3 (bf v 2 0), depart := bt v 3, pclass := BitVec.ofNat 2 (bf v 5 4) }
    match old with
    | some e => some { e with x := x, parBad := bad }
    | none => none
  else if !bt v 52 then none
  else some { ctx := BitVec.ofNat 16 (bf v 15 0), cidx := BitVec.ofNat 16 (bf v 31 16), x := { e.x with pext := BitVec.ofNat 20 (bf v 51 32) }, parBad := bad }

/-- A granule of the thread state. -/
def State.thrWord (s : State) (t : Thr) (k : Nat) : Word :=
  let x := s.thr t
  if k < 32 then x.reg k
  else match k with
    | 32 => BitVec.ofNat 64 x.pc
    | 33 => s.tsWord t
    | 34 => x.tc
    | 35 => x.epc
    | 36 => x.ecause
    | 37 => x.eval
    | 38 => x.ets
    | 39 => x.tvec
    | 40 => x.sscr
    | 41 => BitVec.ofNat 64 x.slice
    | 42 => BitVec.ofNat 64 (match x.st with | .free => 0 | .ready => 1 | .stalled => 2 | .halted => 3)
    | _ => 0

/-- Replace word `k` of a tracker. -/
def Trk.putWord (r : Trk) (k : Nat) (v : Word) : Trk :=
  match k with
  | 0 => { r with w0 := v }
  | 1 => { r with w1 := v }
  | 2 => { r with w2 := v }
  | 3 => { r with w3 := v }
  | 4 => { r with w4 := v }
  | 5 => { r with w5 := v }
  | 6 => { r with w6 := v }
  | _ => { r with w7 := v }

/-! ### Reading and writing a granule -/

/-- Whether a granule of a survivor table lies in a place that is not in use; a ledger that has taken no request since the
cold reset still holds the zeros of FILL. -/
def State.granFree (s : State) (p : HpId) : Word × State := if (s.hpAt p).accN = 0 then (0, s) else s.freeWord

/-- Granule `g` of an array, as stored (R511). -/
def State.granGet (s : State) (a : Arr) (g : Nat) : Gran × State :=
  match a with
  | .bank n =>
    let e := (s.nd n).entry g
    ({ val := e, syn := BitVec.ofNat 8 (entCheck e).2 }, s)
  | .rmap n => ({ val := (s.nd n).rmWord g, syn := synAt (s.nd n).rmapSyn g }, s)
  | .trk n => ({ val := (s.nd n).trkWord (g / 8) (g % 8), syn := synAt ((s.nd n).trkAt (g / 8)).syn (g % 8) }, s)
  | .lbuf n =>
    let b := (s.nd n).lbAt (g / 16)
    let k := g % 16
    if k < 8 then ({ val := BitVec.ofNat 64 (bf b.data (64 * k + 63) (64 * k)), par := bf b.parBad (8 * k + 7) (8 * k) }, s)
    else if k = 8 then ({ val := b.mask, par := bf b.parBad 71 64 }, s)
    else if k = 9 then ({ val := BitVec.ofNat 64 (b2n b.poison + 2 * b2n b.landed) }, s)
    else ({ val := 0 }, s)
  | .prog n => ({ val := memGran (s.nd n).core.prog g, syn := synAt (s.nd n).core.progSyn g }, s)
  | .scr n => ({ val := memGran (s.nd n).core.ram g, syn := synAt (s.nd n).core.ramSyn g }, s)
  | .que q _ =>
    let f : Flit := smGet (fun _ => 0) (s.que q).slots (g / 16)
    ({ val := if g % 16 < 10 then BitVec.ofNat 64 (bf f (64 * (g % 16) + 63) (64 * (g % 16))) else 0 }, s)
  | .thr c => ({ val := s.thrWord ⟨c, Fin.ofNat 8 (g / 64)⟩ (g % 64) }, s)
  | .qec q =>
    match (smGet (fun _ => none) (s.qd q).qec (g / 2) : Option QecEnt) with
    | some e => ({ val := e.word (g % 2 == 1), par := b2n e.parBad }, s)
    | none =>
      let r := s.freeWord
      ({ val := if g % 2 = 1 then r.1 &&& 0x3F else r.1 &&& 0xFFFFFFFFFFFFF }, r.2)
  | .led p =>
    let k := g % 16
    if 12 ≤ k then ({ val := 0 }, s)
    else
      let syn := synAt (s.hpAt p).syn (12 * (g / 16) + k)
      match (s.hpAt p).led (g / 16) with
      | some l => ({ val := l.word k, syn := syn }, s)
      | none =>
        let r := s.granFree p
        ({ val := r.1, syn := syn }, r.2)
  | .slots p =>
    let syn := synAt s.survSyn (2 ^ 20 * p.val + g)
    match (s.hpAt p).slotAt (g / 2) with
    | some sl => ({ val := sl.word (g % 2 == 1), syn := syn }, s)
    | none =>
      let r := s.granFree p
      ({ val := if g % 2 = 1 then r.1 &&& 0xFFFFFFFFFFFF else r.1 &&& 0xFF0FFFFFFFFFF, syn := syn }, r.2)
  | .mtag m =>
    let syn := synAt s.survSyn (2 ^ 20 * (16 + m.val) + g)
    let r := s.freeWord
    match (s.mpAt m).mtag g with
    | some t => ({ val := t.word r.1.toNat, syn := syn }, r.2)
    | none => ({ val := r.1 &&& 0x7FFFF, syn := syn }, r.2)
  | .mirror m =>
    let syn := synAt s.survSyn (2 ^ 20 * (24 + m.val) + g)
    match (smGet (fun _ => none) (s.mpAt m).mirror (g / 2) : Option Mirror) with
    | some t => ({ val := t.word (g % 2 == 1), syn := syn }, s)
    | none =>
      let r := s.freeWord
      ({ val := if g % 2 = 1 then r.1 &&& 0x1FFFFF else r.1 &&& 0xFFFFF000FFFFF, syn := syn }, r.2)
  | .chvProg => ({ val := memGran s.chv.prog g, syn := synAt s.chv.progSyn g }, s)
  | .chvRam => ({ val := memGran s.chv.ram g, syn := synAt s.chv.ramSyn g }, s)
  | .sess => ({ val := BitVec.ofNat 64 ((s.ses g).word.toNat + (s.ses g).lost.toNat * 2 ^ 32), syn := synAt s.survSyn (32 * 2 ^ 20 + g) }, s)
  | .evq =>
    match s.evq[g / 4]? with
    | some r => ({ val := BitVec.ofNat 64 (bf r (64 * (g % 4) + 63) (64 * (g % 4))) }, s)
    | none =>
      let r := s.freeWord
      ({ val := r.1 }, r.2)

/-- Store granule `g` of an array with a syndrome, parity bits of its bytes, and a mask of the bytes that were written
(R513, R514). -/
def State.granPut (s : State) (a : Arr) (g : Nat) (v : Word) (syn : BitVec 8) (bad : Bool) (be : Nat) : State :=
  match a with
  | .bank n => s.modNd n fun x => x.setEntry g v
  | .rmap n => s.modNd n fun x => { x.setRmWord g v with rmapSyn := synPut x.rmapSyn g syn }
  | .trk n =>
    s.modNd n fun x =>
      let r := x.trkAt (g / 8)
      x.setTrk (g / 8) { r.putWord (g % 8) v with syn := synPut r.syn (g % 8) syn }
  | .lbuf n =>
    s.modNd n fun x =>
      let b := x.lbAt (g / 16)
      let k := g % 16
      let par (m : Nat) : BitVec 72 := setBf b.parBad (8 * m + 7) (8 * m) ((bf b.parBad (8 * m + 7) (8 * m) &&& (255 - be)) ||| (if bad then be else 0))
      let b : Lbe := if k < 8 then { b with data := setBf b.data (64 * k + 63) (64 * k) v.toNat, parBad := par k }
        else if k = 8 then { b with mask := v, parBad := par 8 }
        else if k = 9 then { b with poison := bt v 0, landed := bt v 1 }
        else b
      x.setLb (g / 16) b
  | .prog n => s.modNd n fun x => { x with core := x.core.setCode { mem := memWrite x.core.prog (8 * g) v.toNat 8, syn := synPut x.core.progSyn g syn } }
  | .scr n => s.modNd n fun x => { x with core := x.core.setData { mem := memWrite x.core.ram (8 * g) v.toNat 8, syn := synPut x.core.ramSyn g syn } }
  | .que q _ =>
    let x := s.que q
    let f : Flit := smGet (fun _ => 0) x.slots (g / 16)
    if g % 16 < 10 then s.setQue q { x with slots := smSet (fun _ => 0) x.slots (g / 16) (setBf f (64 * (g % 16) + 63) (64 * (g % 16)) v.toNat) } else s
  | .thr _ => s
  | .qec q =>
    let r := s.freeWord
    let x := r.2.qd q
    r.2.setQd q { x with qec := smSet (fun _ => none) x.qec (g / 2) (QecEnt.put (smGet (fun _ => none) x.qec (g / 2)) (g % 2 == 1) v r.1 bad) }
  | .led p =>
    let k := g % 16
    if 12 ≤ k then s
    else
      let x := s.hpAt p
      let x := { x with syn := synPut x.syn (12 * (g / 16) + k) syn }
      s.setHp p (match x.led (g / 16) with
        | some l => x.setLed (g / 16) (some (l.setWord k v))
        | none => x)
  | .slots p =>
    let x := s.hpAt p
    let sl := Slot.put (x.slotAt (g / 2)) (g % 2 == 1) v s.tmo (s.fld HA_SNP_TMO 7 0 * 1024) s.time (g / 2)
    { s.setHp p (x.setSlot (g / 2) sl) with survSyn := synPut s.survSyn (2 ^ 20 * p.val + g) syn }
  | .mtag m =>
    let x := s.mpAt m
    { s.setMp m (x.setTag g (Mtag.put (x.mtag g) v s.tmo)) with survSyn := synPut s.survSyn (2 ^ 20 * (16 + m.val) + g) syn }
  | .mirror m =>
    let r := s.freeWord
    let x := r.2.mpAt m
    let y := Mirror.put (smGet (fun _ => none) x.mirror (g / 2)) (g % 2 == 1) v r.1
    { r.2.setMp m { x with mirror := smSet (fun _ => none) x.mirror (g / 2) y } with survSyn := synPut s.survSyn (2 ^ 20 * (24 + m.val) + g) syn }
  | .chvProg => { s with chv := s.chv.setCode { mem := memWrite s.chv.prog (8 * g) v.toNat 8, syn := synPut s.chv.progSyn g syn } }
  | .chvRam => { s with chv := s.chv.setData { mem := memWrite s.chv.ram (8 * g) v.toNat 8, syn := synPut s.chv.ramSyn g syn } }
  | .sess =>
    let x := (s.ses g).put (BitVec.ofNat 32 (bf v 31 0))
    { s.setSes g { x with lost := BitVec.ofNat 32 (bf v 63 32) } with survSyn := synPut s.survSyn (32 * 2 ^ 20 + g) syn }
  | .evq => { s with evq := s.evq.modify (g / 4) fun r => setBf r (64 * (g % 4) + 63) (64 * (g % 4)) v.toNat }

/-- The array is protected by SECDED with the check held apart from the data (R513). -/
def Arr.secded : Arr → Bool
  | .rmap _ | .trk _ | .prog _ | .scr _ | .chvProg | .chvRam | .slots _ | .mtag _ | .mirror _ | .sess => true
  | .led _ => true
  | _ => false

/-- The stored check of a granule as read: stored apart, or in the entry of a bank. -/
def granChk (a : Arr) (r : Gran) : Nat :=
  match a with
  | .bank _ => bf r.val 63 56
  | _ => if a.secded then secdedCheck 64 r.val.toNat ^^^ r.syn.toNat else 0

/-- An aperture read loads HA_DBG_CHK, SYN and PAR (R511). -/
def State.dbgLoad (s : State) (a : Arr) (r : Gran) (par : Bool) : State :=
  ((s.setFld HA_DBG_CHK 7 0 (granChk a r)).setFld HA_DBG_STAT 7 0 r.syn.toNat).setFld HA_DBG_STAT 8 8 (b2n par)

/-- The syndrome with which an aperture write stores a value (R513). -/
def State.dbgSyn (s : State) (a : Arr) (v : Word) : BitVec 8 :=
  if a.secded && s.bit HA_DBG_CTRL 0 then BitVec.ofNat 8 (secdedCheck 64 v.toNat ^^^ s.fld HA_DBG_CHK 7 0) else 0

/-! ### Accesses (R511, R512) -/

/-- The key of a granule of the array that HA_DBG_SEL names. -/
def State.dbgKey (s : State) (off : Nat) : Nat := 2 ^ 17 * s.fld HA_DBG_SEL 11 0 + off / 8

/-- An access that reaches no array, an offset beyond it or an unavailable unit: UNAVAIL and the register-access error; a
held word is discarded (R511, R512, Table 18.8). -/
def State.apMiss (s : State) (src : Src) (off : Nat) (wr away : Bool) : State :=
  ({ s with dbgLatch := none, dbgHeld := none }.setFld HA_DBG_STAT 9 9 (b2n away)).accErr 1 (0x300000 + off) wr (srcPriv src)

/-- The array that the aperture reaches at an offset, else why not: whether its unit is unavailable. -/
def State.apArr (s : State) (off : Nat) : Except Bool Arr :=
  match arrOf (s.fld HA_DBG_SEL 6 0) (s.fld HA_DBG_SEL 11 8) with
  | none => .error false
  | some a => if s.arrAway a then .error true else if a.bytes ≤ off then .error false else .ok a

/-- A read of the 32-bit word at an offset (R511). -/
def State.apRead (s : State) (src : Src) (off : Nat) : BitVec 32 × State :=
  match s.apArr off with
  | .error w => (0, s.apMiss src off false w)
  | .ok a =>
    let hi := off / 4 % 2
    let s := s.setFld HA_DBG_STAT 9 9 0
    match (if hi = 1 ∧ a.narrow = false then s.dbgLatch else none) with
    | some l =>
      let s : State := { s with dbgLatch := none, dbgHeld := none }
      if l.1 = s.dbgKey off then (BitVec.ofNat 32 (bf l.2 63 32), s)
      else
        let r := s.granGet a (off / 8)
        (BitVec.ofNat 32 (bf r.1.val 63 32), r.2.dbgLoad a r.1 (r.1.par != 0))
    | none =>
      let r := s.granGet a (off / 8)
      let par := if a.narrow then (r.1.par >>> (4 * hi)) % 16 != 0 else r.1.par != 0
      let latch := if hi = 0 ∧ a.narrow = false then some (s.dbgKey off, r.1.val) else none
      (BitVec.ofNat 32 (bf r.1.val (32 * hi + 31) (32 * hi)), { r.2.dbgLoad a r.1 par with dbgLatch := latch, dbgHeld := none })

/-- A write of the 32-bit word at an offset (R511, R513). -/
def State.apWrite (s : State) (src : Src) (off : Nat) (v : BitVec 32) : State :=
  match s.apArr off with
  | .error w => s.apMiss src off true w
  | .ok a =>
    if a.readOnly then s.apMiss src off true false
    else
      let hi := off / 4 % 2
      let g := off / 8
      let inj := s.bit HA_DBG_CTRL 0
      let s : State := { s.setFld HA_DBG_STAT 9 9 0 with dbgLatch := none }
      let whole (s : State) (lo : Nat) : State :=
        let w : Word := BitVec.ofNat 64 (lo + v.toNat * 2 ^ 32)
        { s.granPut a g w (s.dbgSyn a w) inj 255 with dbgHeld := none }
      if a.narrow then
        let r := s.granGet a g
        { r.2.granPut a g (setBf r.1.val (32 * hi + 31) (32 * hi) v.toNat) 0 inj (15 * 16 ^ hi) with dbgHeld := none }
      else if hi = 0 then { s with dbgHeld := some (s.dbgKey off, v) }
      else match s.dbgHeld with
        | some h =>
          if h.1 = s.dbgKey off then whole s h.2.toNat
          else
            let r := s.granGet a g
            whole r.2 (bf r.1.val 31 0)
        | none =>
          let r := s.granGet a g
          whole r.2 (bf r.1.val 31 0)

/-- An access through the aperture: the windows exist in MANUFACTURE and RETURNED and are supervisor-only (R502, R509). -/
def State.apAcc (s : State) (src : Src) (off : BitVec 20) (wr : Bool) (hi : Nat) (f : State → BitVec 32 × State) : State :=
  if off.toNat % 8 ≠ 4 * hi then s
  else
    let a := 0x300000 + off.toNat
    s.regAccIf src a wr (s.closed a || !srcPriv src) f

/-- `APERTURE_READ_LOW` (R511). -/
def execApertureReadLow (src : Src) (off : BitVec 20) (s : State) : Out :=
  .next (s.apAcc src off false 0 fun s => s.apRead src off.toNat)
/-- `APERTURE_READ_HIGH` (R511). -/
def execApertureReadHigh (src : Src) (off : BitVec 20) (s : State) : Out :=
  .next (s.apAcc src off false 1 fun s => s.apRead src off.toNat)
/-- `APERTURE_WRITE_LOW` (R511, R513). -/
def execApertureWriteLow (src : Src) (off : BitVec 20) (wdata : BitVec 32) (s : State) : Out :=
  .next (s.apAcc src off true 0 fun s => (0, (s.apWrite src off.toNat wdata).goOn))
/-- `APERTURE_WRITE_HIGH` (R511, R513). -/
def execApertureWriteHigh (src : Src) (off : BitVec 20) (wdata : BitVec 32) (s : State) : Out :=
  .next (s.apAcc src off true 1 fun s => (0, (s.apWrite src off.toNat wdata).goOn))

/-! ### The survivor-table scrubber (R439, R441) -/

/-- Granules that the survivor scrubber reads in one pass: snoop slots, MTAGs, mirror slots, session entries and retry lists. -/
def survLen : Nat := 16 * 16384 + 8 * 4096 + 8 * 32 + 1024 + 16 * 2048

/-- The table and granule at a position of a pass. -/
def survPos (k : Nat) : Nat × Nat :=
  if k < 262144 then (k / 16384, k % 16384)
  else if k < 294912 then (16 + (k - 262144) / 4096, k % 4096)
  else if k < 295168 then (24 + (k - 294912) / 32, k % 32)
  else if k < 296192 then (32, k - 295168)
  else (33 + (k - 296192) / 2048, (k - 296192) % 2048)

/-- The survivor scrubber reads one granule (Table 15.2). -/
def State.scrubSurv (s : State) : State :=
  let k := s.scrubAt 18
  (s.scrubOn 18 survLen).survGran (survPos k).1 (survPos k).2

/-- `SCRUB_TICK` (R439 to R441). -/
def execScrubTick (k : Scrubber) (s : State) : Out :=
  let t : State := match k with
    | .surv => if s.mode = Mode.off then s else s.scrubSurv
    | _ => s.scrub k
  .next t.goOn

end Sys2Proof.Machine
end

