-- ==== Sys2Proof/Machine/DmaRows.lean ====
section
/-! DEFINITION. Sys2Proof/Machine/DmaRows.lean: the commands of the DMA channels (R328, R333). -/

namespace Sys2Proof.Machine

/-- `CHANNEL_GO` (R333): a write of 1 to GO; `err` is how the reads of the start ended. -/
def execChannelGo (src : Src) (c : ChanId) (err : BmErr) (s : State) : Out :=
  .next (s.regDo src (chA c 1) true fun s => (s.chanGo c err).goOn)
/-- `CHANNEL_RESUME` (R333). -/
def execChannelResume (src : Src) (c : ChanId) (s : State) : Out :=
  .next (s.regDo src (chA c 1) true fun s => (s.chanResume c).goOn)
/-- `CHANNEL_STOP` (Table 10.18). -/
def execChannelStop (src : Src) (c : ChanId) (s : State) : Out :=
  .next (s.regDo src (chA c 1) true fun s => (s.chanStop c).goOn)
/-- `REPORT` (R328). -/
def execDmaReport (msg : Line) (s : State) : Out := .next (s.dmaMsg msg).goOn
/-- `ITEM_TMO` (R328). -/
def execItemTmo (c : ChanId) (u : BitVec 32) (s : State) : Out := .next (s.itemLate c u.toNat).goOn
/-- `BUSY_REISSUE` (R328). -/
def execBusyReissue (c : ChanId) (u : BitVec 32) (s : State) : Out := .next (s.busyAgain c u.toNat).goOn

end Sys2Proof.Machine
end

