-- ==== Sys2Proof/Machine/SnoopRows.lean ====
section
/-! DEFINITION. Sys2Proof/Machine/SnoopRows.lean: snoop responses and limits (R81, R105, R200 to R202), BI_CONFLICT_ACK
(R197), and messages that leave a host port (R39). -/

namespace Sys2Proof.Machine

/-- The inbound response channels are ready (R43). -/
def State.rspReady (s : State) : Bool :=
  match s.mode with
  | .off | .strap | .fill => false
  | _ => true

/-- Responses are sunk in SAFE and SELFTEST (R43, Table 6.3), and once FLUSH is done (R430). -/
def State.sinks (s : State) : Bool :=
  s.mode == .safe || s.mode == .selftest || (s.mode == .flush && s.fld HA_FLUSH_STAT 1 0 == 3)

/-- The snoop slot of a BITAG (Table 3.8). -/
def birspSlot (msg : BitVec 64) : Nat := bf msg 25 13

/-- A response passes the checks of R81 step 2 against an outstanding slot: its answer. -/
def State.birspOk (s : State) (p : HpId) (msg : BitVec 64) : Option Slot :=
  let o := bf msg 2 0
  match (s.hpAt p).slotAt (birspSlot msg) with
  | none => none
  | some sl =>
    let live := match sl.st with
      | .out _ => true
      | _ => false
    if live && o != 3 && o != 7 && bf msg 12 3 == sl.sn.host.toNat && (bt msg 2 == bt sl.sn.op 2) && bf msg 63 29 == 0 then some sl
    else none

/-- A snoop response is accepted (R43, R81, R105, R201, R202). -/
def State.birsp (s : State) (p : HpId) (msg : BitVec 64) : State :=
  if !s.rspReady || s.sinks || !s.hpUse p || !(s.hpAt p).att.on || (s.hpAt p).failed then s
  else if bf msg 28 26 ≠ s.fld HA_RST_STAT 2 0 then s
  else match s.birspOk p msg with
    | none => s.raise (HA_HP_STAT + 4 * p.val) 7
    | some sl =>
      let s := s.ledScan p
      let i := birspSlot msg
      let a := bf msg 1 0
      if !ansOk sl.sn.op a then
        let s := s.raise HA_SNP_ERR (16 + p.val)
        let s := s.setHp p ((s.hpAt p).setSlot i (some { sl with st := .gone }))
        s.depart sl.sn.host.toNat 3
      else if (s.hpAt p).writeWaits sl then
        (s.raise HA_SNP_ERR p.val).setHp p ((s.hpAt p).setSlot i (some { sl with st := .held (BitVec.ofNat 3 a) }))
      else s.slotDone p i a false

/-- `BIRSP` (R81). -/
def execBirsp (p : HpId) (msg : BitVec 64) (s : State) : Out :=
  .next (if s.rspReady then (s.survThen (·.slotRead p (birspSlot msg)) (·.birsp p msg)).goOn else s.goOn)

/-- A held answer whose writes have all been answered is delivered (R201). -/
def State.heldOut (s : State) (p : HpId) (i : Nat) : State :=
  let s := s.ledScan p
  match (s.hpAt p).slotAt i with
  | some sl =>
    match sl.st with
    | .held a => if (s.hpAt p).writeWaits sl then s else s.slotDone p i a.toNat false
    | _ => s
  | none => s

/-- `HELD_ANSWER_DELIVERY` (R201). -/
def execHeldAnswerDelivery (p : HpId) (slot : Fin 8192) (s : State) : Out :=
  .next (s.survThen (·.slotRead p slot.val) (·.heldOut p slot.val)).goOn

/-- Ticks of the snoop answer limit (R134). -/
def State.snpLimit (s : State) : Nat := s.fld HA_SNP_TMO 7 0 * 1024

/-- The limit of a slot passes without a permitted answer: the answer comes on behalf of departure, and the host
departs (R108, R200). -/
def State.snoopLate (s : State) (p : HpId) (i : Nat) : State :=
  match (s.hpAt p).slotAt i with
  | some sl =>
    match sl.st with
    | .out u =>
      if s.past u 0 then
        ((s.setHp p ((s.hpAt p).setSlot i (some { sl with st := .gone }))).cntB 0x104 1).depart sl.sn.host.toNat 2
      else s
    | _ => s
  | none => s

/-- `SNOOP_TIMEOUT` (R200). -/
def execSnoopTimeout (p : HpId) (slot : Fin 8192) (s : State) : Out :=
  .next (s.survThen (·.slotRead p slot.val) (·.snoopLate p slot.val)).goOn

/-- One further limit has passed for a slot out of use: it is free again (R200). -/
def State.quarEnd (s : State) (p : HpId) (i : Nat) : State :=
  match (s.hpAt p).slotAt i with
  | some sl =>
    match sl.st with
    | .quar t => if s.past t s.snpLimit then s.setHp p ((s.hpAt p).setSlot i none) else s
    | _ => s
  | none => s

/-- `SNOOP_SLOT_QUARANTINE_END` (R200). -/
def execSnoopSlotQuarantineEnd (p : HpId) (slot : Fin 8192) (s : State) : Out := .next (s.quarEnd p slot.val).goOn

/-- The first held acknowledgement whose host has no answered entry for its line left in the shell (R197). -/
def HpShell.ackReady (x : HpShell) : Option BicAck :=
  x.bicAcks.find? fun a => !x.ledger.any fun e => match e.2 with
    | some l => l.st == .answered && hdrHost l.hdr == a.host && l.pla == a.pla
    | none => false

/-- Release a BI_CONFLICT_ACK into the outbound slots (R197). -/
def State.bicOut (s : State) (p : HpId) : State :=
  let x := s.hpAt p
  match x.ackReady with
  | none => s
  | some a =>
    let s := s.setHp p { x with bicAcks := x.bicAcks.erase a }
    match x.ledger.find? fun e => match e.2 with
        | some l => hdrHost l.hdr == a.host && hdrTag l.hdr == a.tag && hdrOpc l.hdr == 5
        | none => false with
    | some (i, _) => s.answerNdr p i (ndrWord 3 a.host a.tag a.devload.toNat 0 0)
    | none => s

/-- `BI_CONFLICT_ACK` (R197). -/
def execBiConflictAck (p : HpId) (s : State) : Out := .next (s.bicOut p).goOn

/-- An outbound channel of port `p` can hand its head to the partner. -/
def State.hpOutOn (s : State) (p : HpId) : Bool :=
  s.mode != .off && s.hpUse p && (s.hpAt p).clkOk && !(s.hpAt p).partnerRst && !(s.hpAt p).failed

/-- A snoop as it stands on hp_bis (Table 3.8), from slot `i`. -/
def Slot.bisWord (sl : Slot) (i : Nat) : BitVec 128 :=
  BitVec.ofNat 128 (sl.sn.op.toNat + sl.sn.host.toNat * 2 ^ 3 + (i % 8192 + sl.epoch.toNat * 2 ^ 13) * 2 ^ 13 + sl.sn.blk.toNat * 2 ^ 29
    + sl.ctx.toNat * 2 ^ 31 + sl.caddr.toNat * 2 ^ 47)

/-- The partner takes the head of an outbound channel: a response retires its ledger entry (R41, R211), a snoop's limit
begins (R108). A snoop that a full reset made stale leaves without one (R200). -/
def State.outMsg (s : State) (p : HpId) (ch : HpOut) : State :=
  let x := s.hpAt p
  let retire (x : HpShell) (i : Option Nat) : HpShell := match i with
    | some i => x.setLed i none
    | none => x
  if !s.hpOutOn p then s
  else match ch with
    | .ndr => match x.ndr with
      | [] => s
      | m :: rest => s.setHp p ((retire { x with ndr := rest } m.2).heads { x with ndr := [] } s.tmo) |>.cntB 0x102 1
    | .drs => match x.drs with
      | [] => s
      | m :: rest => s.setHp p ((retire { x with drs := rest } m.2.2.2).heads { x with drs := [] } s.tmo) |>.cntB 0x102 1
    | .bis => match x.bis with
      | [] => s
      | i :: rest =>
        let y : HpShell := { x with bis := rest, bisOut := (x.slotAt i).map fun sl => sl.bisWord i }
        let y : HpShell := match y.slotAt i with
          | some sl => if sl.st = SlotSt.queued then y.setSlot i (some { sl with st := .out (s.tmo + s.snpLimit), ts := s.time }) else y
          | none => y
        (s.setHp p (y.heads { x with bis := [] } s.tmo)).cntB 0x103 1

/-- `OUTBOUND_MESSAGE` (R39). -/
def execOutboundMessage (p : HpId) (ch : HpOut) (s : State) : Out :=
  .next (s.survThen (fun s => match ch, (s.hpAt p).bis with
    | .bis, i :: _ => s.slotRead p i
    | _, _ => s) (·.outMsg p ch)).goOn

end Sys2Proof.Machine
end

