-- ==== Sys2Proof/Machine/Ports.lean ====
section
/-! DEFINITION. Sys2Proof/Machine/Ports.lean: the attach sideband (R86 to R88), the detach of a host port (R419), the
failure and recovery of a host port (R45, R48), the partner clocks (R44), and the reference tick (R59). -/

namespace Sys2Proof.Machine

/-! ### Attach (R86 to R88) -/

/-- `ATTACH_REQUEST` (R87). -/
def execAttachRequest (port : AttPort) (offer : BitVec 48) (s : State) : Out := .next (s.attReq port offer)

/-- Ticks of the ATTACH limit (R67). -/
def State.attLimit (s : State) : Nat := s.fld HA_PORT_TMO 31 24 * 1024

/-- Step 6 of R87: the port becomes attached. A host port takes its version 1 context (R95), and is a legacy port when the
block has not yet entered SERVICE or DEGRADED (R176). -/
def State.attCfm (s : State) (q : AttPort) : State :=
  match s.att q with
  | .answered v c _ =>
    let s := s.setAtt q (.attached v c)
    match q with
    | .mp _ => s
    | .hp p =>
      s.setHp p { s.hpAt p with attEpoch := (s.hpAt p).attEpoch + 1, v1ctx := BitVec.ofNat 16 (s.fld (HA_HP_V1CTX + 4 * p.val) 15 0),
                                legacy := !s.bit HA_MODE 16 }
  | _ => s

/-- `ATTACH_CONFIRM` (R87, R88). -/
def execAttachConfirm (port : AttPort) (s : State) : Out := .next (s.attCfm port)

/-- The ATTACH limit passes without the confirmation (R87, Table 2.3). -/
def State.attTmo (s : State) (q : AttPort) : State :=
  match s.att q with
  | .answered _ _ t => if s.mode.answers && s.past t s.attLimit then (s.setAtt q .refused).raise (portStat q) 8 else s
  | _ => s

/-- `ATTACH_TIMEOUT` (R45). -/
def execAttachTimeout (port : AttPort) (s : State) : Out := .next (s.attTmo port)

/-- att_req falls before the attach is confirmed, or after a refusal (R88). -/
def State.attDrop (s : State) (q : AttPort) : State :=
  match s.att q with
  | .answered .. => s.setAtt q .idle
  | .refused | .waiting _ => s.setAtt q .idle
  | _ => s

/-- `ATTACH_ABANDON` (R88). -/
def execAttachAbandon (port : AttPort) (s : State) : Out := .next (s.attDrop port)

/-- att_req falls on an attached host port (R419). -/
def State.hpDetach (s : State) (p : HpId) : State :=
  match (s.hpAt p).att with
  | .attached v c => s.setHp p { s.hpAt p with att := .detaching v c }
  | _ => s

/-- `HOST_DETACH` (R419). -/
def execHostDetach (p : HpId) (s : State) : Out := .next (s.hpDetach p).goOn

/-! ### Failure and recovery of a host port (R48) -/

/-- Hosts with a session that is not closed on port `p`. -/
def State.hostsOn (s : State) (p : HpId) : List Nat :=
  (s.sess.filter fun e => e.2.port == p && e.2.st != .closed).map (·.1)

/-- A host port fails: FAILED is set, every session on it departs, its outbound slots are discarded, and it leaves the
attached state (R40, R48). -/
def State.hpFail (s : State) (p : HpId) (cause : Nat) : State :=
  let s := (s.hostsOn p).foldl (fun s h => s.depart h cause) s
  let x := s.hpAt p
  let led := (x.ledger.filter fun o => match o.2 with
    | some l => l.st != .answered
    | none => false).map fun o => (o.1, o.2.map fun l => { l with gone := true })
  let x : HpShell := { x with failed := true, ndr := [], drs := [], bis := [], bicAcks := [], ledger := led, outSince := [] }
  (s.setHp p x).leaveAtt p

/-- A host port's partner resets, or its clock leaves its window (R48). -/
def State.hpDown (s : State) (p : HpId) (why : FailCause) : State :=
  if s.mode = .off ∨ s.hpUse p = false then s
  else
    let x := s.hpAt p
    match why with
    | .partnerReset => (s.setHp p { x with partnerRst := true }).hpFail p 1
    | .clock => (s.setHp p { x with clkOk := false }).hpFail p 0

/-- `HOST_PORT_FAILURE` (R48). -/
def execHostPortFailure (p : HpId) (why : FailCause) (s : State) : Out := .next (s.hpDown p why).goOn

/-- The partner reset has been asserted and released and the clock passes its window: FAILED clears (R48). -/
def State.hpUp (s : State) (p : HpId) : State :=
  if s.mode = .off ∨ s.hpUse p = false then s
  else s.setHp p { s.hpAt p with partnerRst := false, clkOk := true, failed := false }

/-- `HOST_PORT_RECOVERY` (R48). -/
def execHostPortRecovery (p : HpId) (s : State) : Out := .next (s.hpUp p)

/-- The messages that wait in an outbound channel. -/
def HpShell.waitsOut (x : HpShell) : HpOut → Bool
  | .ndr => x.ndr != []
  | .drs => x.drs != []
  | .bis => x.bis != []
/-- Index of an outbound channel. -/
def hpOutIx : HpOut → Nat
  | .ndr => 0 | .drs => 1 | .bis => 2

/-- An outbound host channel has held valid without ready for HP_OUT (Table 2.3). -/
def State.hpOutLate (s : State) (p : HpId) (ch : HpOut) : State :=
  let x := s.hpAt p
  if s.hpOutOn p && x.waitsOut ch && s.past (smGet (fun _ => 0) x.outSince (hpOutIx ch)) (s.fld HA_PORT_TMO 7 0 * 1024) then
    (s.raise (HA_HP_STAT + 4 * p.val) 6).hpFail p 0
  else s

/-- `HP_OUT_TIMEOUT` (R45). -/
def execHpOutTimeout (p : HpId) (ch : HpOut) (s : State) : Out := .next (s.hpOutLate p ch).goOn

/-! ### reftick (R59) -/

/-- The delay monitor sees no edge (R59). -/
def State.refLost (s : State) : State := if s.reftickOk then { s.raise HA_INPUT_ERR 5 with reftickOk := false } else s

/-- `REFTICK_LOST` (R59). -/
def execReftickLost (s : State) : Out := .next s.refLost

/-- `REFTICK_RETURN` (R59): timestamps run again, and timeouts count ticks again. -/
def execReftickReturn (s : State) : Out := .next { s with reftickOk := true }

end Sys2Proof.Machine
end

