-- ==== Sys2Proof/Machine/MediaRows.lean ====
section
/-! DEFINITION. Sys2Proof/Machine/MediaRows.lean: the commands of the media ports: read data, acknowledgements and hand-off
(R91, R203), limits (R45, R118), detach (R427), failure and recovery (R48, R428). -/

namespace Sys2Proof.Machine

/-- Responses of a media port are accepted (R43), and are not sunk (Table 6.3, R430). -/
def State.mpIn (s : State) (m : MpId) : Bool := s.rspReady && s.mpOn m && !(s.mpAt m).failed

/-- A failed check of a media message (Table 2.3). -/
def State.mpField (s : State) (m : MpId) : State := s.raise (HA_MP_STAT + 4 * m.val) 7

/-- A read data message passes its check (R91). -/
def State.rdOk (s : State) (m : MpId) (hdr : BitVec 64) : Bool :=
  match (s.mpAt m).mtag (bf hdr 11 0) with
  | some g => g.kind == .rd && g.handed && bt g.left (bf hdr 13 12) && bf hdr 63 14 == 0
  | none => false

/-- Media read data arrives (R91). -/
def State.rdIn (s : State) (m : MpId) (hdr : BitVec 64) (data : Line) (poison : Bool) : State :=
  if !s.mpIn m || s.sinks then s
  else if !s.rdOk m hdr then s.mpField m
  else
    let r := s.readLand m (bf hdr 11 0) (bf hdr 13 12) data poison
    match r.2 with
    | some (.dma c u) => r.1.dmaRead c u data (if poison then 3 else 0)
    | _ => r.1

/-- `MEDIA_READ_DATA` (R91). -/
def execMediaReadData (m : MpId) (hdr : BitVec 64) (data : Line) (poison : Bool) (s : State) : Out :=
  .next (s.survThen (·.tagRead m (bf hdr 11 0)) (·.rdIn m hdr data poison)).goOn

/-- `HANDOFF` (R203): the back end takes the request at the head of the port's queue. -/
def execHandoff (m : MpId) (s : State) : Out :=
  .next (if s.portUp (.mp m) then (s.survThen (fun s => match (s.mpAt m).reqQ with
    | i :: _ => s.tagRead m i
    | [] => s) (·.handOff m)).goOn else s)

/-- The tags an acknowledgement covers, modulo 4,096 (Table 3.15). -/
def ackTags (ack : BitVec 64) : List Nat := (List.range (bf ack 25 14 + 1)).map fun k => (bf ack 13 2 + k) % 4096

/-- An acknowledgement of kind `k` passes its check (R91). -/
def State.ackOk (s : State) (m : MpId) (k : Nat) (ack : BitVec 64) : Bool :=
  let x := s.mpAt m
  bf ack 1 0 == k && bf ack 63 26 == 0 && (bf ack 25 14 == 0 || (x.att.ver == 2 && bt x.att.caps 2))
    && (ackTags ack).all fun i => match x.mtag i with
      | some g => g.handed && (g.kind == if k = 1 then .sync else .wr)
      | none => false

/-- A write or SYNC ends, and its owner hears of it; the outcome is that of `State.dmaWrote`. -/
def State.ackOne (s : State) (m : MpId) (i outcome : Nat) : State :=
  let r := s.writeDone m i outcome
  match r.2 with
  | some (.dma c u) => r.1.dmaWrote c u outcome
  | _ => r.1

/-- An acknowledgement of kind `k` arrives (R91, R115, R118, R203). -/
def State.ackIn (s : State) (m : MpId) (k : Nat) (ack : BitVec 64) : State :=
  if !s.mpIn m then s
  else s.survThen (fun s => (ackTags ack).foldl (fun s i => s.tagRead m i) s) fun s =>
  if s.sinks then
    -- Only an orphan's failure still applies R118 (Table 6.3).
    (if k = 2 ∧ s.ackOk m k ack = true then (ackTags ack).foldl (fun s i => match (s.mpAt m).mtag i with
      | some g => if g.orphan then s.ackOne m i 1 else s
      | none => s) s else s)
  else if !s.ackOk m k ack then s.mpField m
  else (ackTags ack).foldl (fun s i => s.ackOne m i (if k = 2 then 1 else 0)) s

/-- `DURABLE` (R91, R115). -/
def execAckDurable (m : MpId) (ack : BitVec 64) (s : State) : Out := .next ((s.ackIn m 0 ack).cntB 0x108 (b2n (s.mpIn m && s.ackOk m 0 ack))).goOn
/-- `SYNC_DONE` (R116). -/
def execAckSyncDone (m : MpId) (ack : BitVec 64) (s : State) : Out := .next (s.ackIn m 1 ack).goOn
/-- `WRITE_FAIL` (R118). -/
def execAckWriteFail (m : MpId) (ack : BitVec 64) (s : State) : Out := .next (s.ackIn m 2 ack).goOn

/-- What stands in the FLUSH mode's list for an acknowledgement that never came: its port is not confirmed (R430). -/
def flushLate : Nat := 4097

/-- The MP_ACK limit passes for a write or a SYNC (R91, R118). -/
def State.ackLate (s : State) (m : MpId) (i : Nat) : State :=
  match (s.mpAt m).mtag i with
  | some g =>
    if g.handed && g.kind != .rd && s.past g.at_ (s.fld HA_PORT_TMO 23 16 * 1024) then
      let late (t : Nat × Nat) : Nat × Nat := if t = (m.val, i) then (m.val, flushLate) else t
      ({ s with flushTags := s.flushTags.map late }.raise (HA_MP_STAT + 4 * m.val) 9).ackOne m i 1
    else s
  | none => s

/-- `MP_ACK_TIMEOUT` (R118). -/
def execMpAckTimeout (m : MpId) (mtag : BitVec 12) (s : State) : Out :=
  .next (s.survThen (·.tagRead m mtag.toNat) (·.ackLate m mtag.toNat)).goOn

/-! ### Detach (R427) -/

/-- att_req falls on an attached media port: REQ, the record and the event. -/
def State.mpDetReq (s : State) (m : MpId) : State :=
  match (s.mpAt m).att with
  | .attached v c =>
    (((s.setMp m { s.mpAt m with att := .detaching v c }).setFld HA_MP_DET m.val m.val 1).record 0x06 0 m.val).chvEvent 0x56 m.val
  | _ => s

/-- `MEDIA_DETACH_REQUEST` (R427). -/
def execMediaDetachRequest (m : MpId) (s : State) : Out := .next (s.mpDetReq m)

/-- The active map no longer names the port, and it is drained: it leaves the attached state. -/
def State.mpDetEnd (s : State) (m : MpId) : State :=
  match (s.mpAt m).att with
  | .detaching .. =>
    if (s.mpAt m).drained && (List.range 8).all (fun k => s.activeMp k != m) then
      (s.setMp m { s.mpAt m with att := .idle }).setFld HA_MP_DET m.val m.val 0
    else s
  | _ => s

/-- `MEDIA_DETACH_COMPLETE` (R427). -/
def execMediaDetachComplete (m : MpId) (s : State) : Out := .next (s.mpDetEnd m)

/-! ### Failure and recovery (R48, R428) -/

/-- A media port fails: its outstanding accesses end as Table 14.3 states. -/
def State.mpFail (s : State) (m : MpId) : State :=
  let s := (s.setMp m { s.mpAt m with failed := true, att := .idle }).setFld HA_MP_DET m.val m.val 0
  let r := s.mpFailAll m
  r.2.foldl (fun s o => match o with
    | .dma c u => if (s.ch c).op = 5 then s.dmaRead c u 0 7 else s.dmaWrote c u 2
    | _ => s) r.1

/-- The partner resets, or the clock leaves its window. -/
def State.mpDown (s : State) (m : MpId) (why : FailCause) : State :=
  if s.mode = .off ∨ s.mpUse m = false then s
  else match why with
    | .partnerReset => (s.setMp m { s.mpAt m with partnerRst := true }).mpFail m
    | .clock => (s.setMp m { s.mpAt m with clkOk := false }).mpFail m

/-- `MEDIA_PORT_FAILURE` (R428). -/
def execMediaPortFailure (m : MpId) (why : FailCause) (s : State) : Out := .next (s.mpDown m why).goOn

/-- `MEDIA_PORT_RECOVERY` (R48): FAILED clears and a new attach becomes possible. -/
def execMediaPortRecovery (m : MpId) (s : State) : Out :=
  .next (if s.mode = .off ∨ s.mpUse m = false then s else s.setMp m { s.mpAt m with partnerRst := false, clkOk := true, failed := false })

/-- A request to a port that is not attached, which an active map still names: when HA_ST_TIMEOUT has passed a read lands
with POISON 1, and the channel of a DMA unit's write halts with DEAD (Table 14.3). Nothing else of it ends here. -/
def State.deadMtag (s : State) (m : MpId) (i : Nat) (g : Mtag) : State :=
  let out (s : State) : State := s.setMp m { s.mpAt m with reqQ := (s.mpAt m).reqQ.filter (· != i) }
  if !s.past g.lim 0 then s
  else match g.kind, g.own with
    | .rd, .dma c u =>
      let r := (out s).poisonReads m fun h => h == g
      r.1.dmaRead c u 0 7
    | .rd, _ =>
      let r := (out s).poisonReads m fun h => h == g
      r.1.copyDead r.2
    | .wr, .dma .. => (out s).ackOne m i 2
    | _, _ => s

/-- The requests of every port that is not attached. -/
def State.deadMedia (s : State) : State :=
  s.mp.foldl (fun s e =>
    let m : MpId := Fin.ofNat 8 e.1
    if s.mpOn m then s
    else e.2.mtags.foldl (fun s t => match t.2 with
      | some g => s.deadMtag m t.1 g
      | none => s) s) s

/-- The media request channel has held valid without ready for MP_OUT (Table 2.3). -/
def State.mpOutLate (s : State) (m : MpId) : State :=
  match (s.mpAt m).outSince with
  | some t =>
    if s.portUp (.mp m) && s.mpOn m && (s.mpAt m).reqQ != [] && s.past t (s.fld HA_PORT_TMO 15 8 * 1024) then
      (s.raise (HA_MP_STAT + 4 * m.val) 6).mpFail m
    else s
  | none => s

/-- `MP_OUT_TIMEOUT` (R45). -/
def execMpOutTimeout (m : MpId) (s : State) : Out := .next (s.mpOutLate m).goOn

/-! ### Partner clocks (R44) -/

/-- The window count of a clocked port lies in its range, widened by 5 % (Tables 2.1 and 2.2): 1,024 ticks hold 2,048 to
12,288 edges at 200 to 1,200 MHz, and 256 to 4,096 at 25 to 400 MHz. -/
def clkInRange (p : ClkPort) (count : Nat) : Bool :=
  match p with
  | .hp _ | .mp _ | .bm => decide (1946 ≤ count) && decide (count ≤ 12902)
  | .cfg | .ev | .ps | .fuse => decide (244 ≤ count) && decide (count ≤ 4300)

/-- A window of a partner clock ends: a bad count is handled as a partner reset (Table 2.3). -/
def State.clkCheck (s : State) (p : ClkPort) (count : Nat) : State :=
  let ok := clkInRange p count
  match p with
  | .hp h => if !ok then s.hpDown h .clock else if s.mode = .off ∨ s.hpUse h = false then s else s.setHp h { s.hpAt h with clkOk := true }
  | .mp m => if !ok then s.mpDown m .clock else if s.mode = .off ∨ s.mpUse m = false then s else s.setMp m { s.mpAt m with clkOk := true }
  | _ => s

/-- `CLOCK_WINDOW_CHECK` (R44). -/
def execClockWindowCheck (port : ClkPort) (count : Nat) (s : State) : Out := .next (s.clkCheck port count).goOn

end Sys2Proof.Machine
end

