-- ==== Sys2Proof/Machine/Reset.lean ====
section
/-! DEFINITION. Sys2Proof/Machine/Reset.lean: the full reset, its hold sequence and boot path (R179, R203, R211, R302, R333, R371,
R378, R406 to R412, R476, R486), and the watchdog (R414). -/

namespace Sys2Proof.Machine

/-! ### What a full reset does to each part -/

/-- Registers at a full reset (Table 0.4): the bits that return to their reset values, and the operands of the measurement
unit, which no register holds. -/
def State.regsReset (s : State) : State :=
  { s with regs := s.regs.filterMap fun e => match findReg e.1 with
      | some d =>
        let v := (e.2 &&& ~~~d.full) ||| (d.reset &&& d.full)
        if v = d.reset ∨ d.base = HA_MEAS_EXT_DIG ∨ d.base = HA_MEAS_EXT_SRC ∨ d.base = HA_MEAS_EXT_LEN ∨ d.base = HA_MEAS_EXT_VER
        then none else some (e.1, v)
      | none => some e }

/-- Status fields of the domains that are reset: HA_CHV_STAT.FW, ND_TRK_PEND and ND_SF_SCRUB of every node. -/
def State.statReset (s : State) : State :=
  allNodes.foldl (fun s n => (s.setRaw (ndA n ND_TRK_PEND) 0).setRaw (ndA n ND_SF_SCRUB) 0) (s.setFld HA_CHV_STAT 23 23 0)

/-- A ledger entry that is live and not answered is to be replayed (R211); a FLUSH goes on in its shell (R516), and a session
request waits for its firmware. -/
def LedEnt.replayed (l : LedEnt) : LedEnt :=
  match l.st with
  | .answered | .flushing | .session => l
  | _ => { l with st := .blocked, replay := true }

/-- A slot that a full reset frees (R200). -/
def Slot.stale (sl : Slot) (now : Nat) : Slot :=
  match sl.st with
  | .quar _ => sl
  | _ => { sl with st := .quar now }

/-- A host port shell (R199, R200, R211, R371). -/
def HpShell.fullReset (x : HpShell) (now : Nat) : HpShell :=
  { x with slots := x.slots.map (fun e => (e.1, e.2.map fun sl => sl.stale now)),
           ledger := x.ledger.map (fun e => (e.1, e.2.map LedEnt.replayed)),
           waitSnp := [], bicAcks := [], retry := [], wbRetry := [], quenchAck := 0 }

/-- An outstanding MTAG as an orphan (R203): it keeps the CMP of a write that was handed off, whose loss R118 reports. -/
def Mtag.orphaned (g : Mtag) (other : Option Mtag) : Mtag :=
  let comp := if g.handed && (match other with | some o => o.handed | none => true) then
      (if g.comp.isSome then g.comp else other.bind (·.comp)) else none
  let own := if g.kind = .sync then g.own else .modeFlush
  { g with own := own, orphan := true, comp := comp, onack := none, pair := none, sb := none }

/-- A media port shell: requests that had reached an outbound slot of it, at most 8, and those handed off are orphans; the
others are lost with the queues (R203, R371). How many had is open. -/
def State.mpReset (s : State) (m : MpId) : State :=
  let x := s.mpAt m
  if x.mtags = [] then s.setMp m { x with reqQ := [], outSince := none, quenchAck := 0 }
  else
    let stay := x.reqQ.take ((Config.freeValue s.free).toNat % 9)
    let s := { s with free := s.free + 1 }
    let keep (i : Nat) (g : Mtag) : Bool := g.handed || stay.contains i
    let tags : SMap (Option Mtag) := x.mtags.filterMap fun e => match e.2 with
      | some g => if keep e.1 g then some (e.1, some (g.orphaned (g.pair.bind x.mtag))) else none
      | none => none
    let lost (i : Nat) : Bool := match x.mtag i with
      | some g => !keep i g
      | none => false
    let s := s.setMp m { x with mtags := tags, reqQ := stay, outSince := if stay = [] then none else x.outSince, quenchAck := 0 }
    allHp.foldl (fun s p =>
      let y := s.hpAt p
      if y.flushes = [] then s
      else
        let fix (f : FlushSt) : FlushSt :=
          let gone := f.tags.filter fun t => t.1 == m.val && lost t.2
          let again := gone.any fun t => match x.mtag t.2 with
            | some g => g.kind == .sync
            | none => false
          { f with tags := f.tags.filter (fun t => !gone.contains t), syncs := if again then f.syncs ++ [m.val] else f.syncs }
        s.setHp p { y with flushes := y.flushes.map fix }) s

/-- A block-memory write that the reset cut is performed whole (R302): an overflow entry counts as the sequencer counts it. -/
def State.bmCut (s : State) (r : BmReq) : State :=
  match r.why with
  | .ovfWr _ => s
  | .spillWr _ _ => (List.range 8).foldl (fun s g =>
      if bt r.be (8 * g) then
        let k := r.line * 8 + g - s.ovfLine 0 * 8
        let e : Word := BitVec.ofNat 64 (bf r.data (64 * g + 63) (64 * g))
        (s.ovfCount (s.ovfAt k) e).ovfPut k e
      else s) s
  | .acc t none => match (s.thr t).pend with
    | .amo _ fn v cmp ea (some _) =>
      s.bmStore r.line (laneMask ea 8) (laneData ea (amoNew fn (BitVec.ofNat 64 (memRead s.bmem (64 * r.line + ea % 64) 8)) v cmp) 8)
    | _ => s
  | _ => if r.wr then s.bmLand r r.be else s

/-- Put an outstanding request into a list in the order of acceptance. -/
def bmInsert (e : Nat × BmReq) : List (Nat × BmReq) → List (Nat × BmReq)
  | [] => [e]
  | f :: l => if e.2.seq < f.2.seq then e :: f :: l else f :: bmInsert e l

/-- The outstanding block-memory requests in the order of their acceptance (R94). -/
def State.bmOrder (s : State) : List (Nat × BmReq) :=
  s.bm.foldl (fun l e => match e.2 with | some r => bmInsert (e.1, r) l | none => l) []

/-- Outstanding block-memory requests lose their requesters; a write among them is performed whole or not at all, in the order
of their acceptance (R94, R203, R302). -/
def State.bmReset (s : State) : State :=
  s.bmOrder.foldl (fun s e => match (smGet (fun _ => none) s.bm e.1 : Option BmReq) with
    | some r =>
      let c := s.choose
      let s := if c.1 then c.2.bmCut r else c.2
      { s with bm := smSet (fun _ => none) s.bm e.1 (some { r with why := .orphan, wr := false }) }
    | none => s) s

/-- A node keeps its bank, region map and conservative tracking (R179, R378); a rebuild that was cut leaves every region bit
1 (R169). Tarragon raises its quench. -/
def Node.fullReset (x : Node) : Node :=
  if x.rebuild then { cons := x.cons, bank := x.bank, rmapFill := 0xFFFF, tarQuench := true }
  else { cons := x.cons, bank := x.bank, rmap := x.rmap, rmapFill := x.rmapFill, rmapSyn := x.rmapSyn, tarQuench := true }

/-- Fill a quadrant that Sorrel had in TEST, as step 4 of R467 does: every region bit is 1 while the overflow directory holds
entries. -/
def State.testFill (s : State) (q : QuadId) (quench : Bool) : State :=
  let s := s.quadLose q quench
  if s.bit HA_OVF_CTRL 0 ∧ s.fld HA_OVF_COUNT 31 0 ≠ 0 then
    (nodesOf q).foldl (fun s n => s.modNd n fun x => { x with rmapFill := 0xFFFF }) s
  else s

/-- A quadrant (R378, R412): GATING and UNGATING end OFF; one in TEST is filled and returns as it was before the run. -/
def State.quadReset (s : State) (q : QuadId) : State :=
  let x := s.qd q
  match x.pwr with
  | .gating | .ungating => (s.quadLose q true).setQd q { x with pwr := .off, quadOn := false, qec := [], lru := [] }
  | .test =>
    let y : Quad := if x.wasOff then { x with pwr := .off, quadOn := false } else { x with pwr := .on, quadOn := true }
    (s.testFill q true).setQd q { y with wasOff := false, qec := [], lru := [] }
  | _ => s.setQd q { x with qec := [], lru := [] }

/-- The answer to a mailbox command (R482, R484): CMD and TAG echo, LEN, STATUS and the payload; BUSY falls and DONE rises. -/
def State.mbReply (s : State) (status : Nat) (payload : List Byte) (rom : Bool) : State :=
  let w0 := (s.raw HA_MB_REQ).toNat % 65536 + payload.length * 65536
  let s := s.setRaw HA_MB_RSP (BitVec.ofNat 32 w0)
  let s := s.setRaw (HA_MB_RSP + 4) (s.raw (HA_MB_REQ + 4))
  let s := (s.setRaw (HA_MB_RSP + 8) (BitVec.ofNat 32 status)).setRaw (HA_MB_RSP + 12) 0
  let s := (List.range ((payload.length + 3) / 4)).foldl (fun s k =>
    s.setRaw (HA_MB_RSP + 16 + 4 * k) (BitVec.ofNat 32 (pWord payload (4 * k) 4))) s
  let s := { s with mbStage := 0 }
  (((s.setFld HA_MB_STAT 15 8 status).setFld HA_MB_STAT 3 3 (b2n rom)).setFld HA_MB_STAT 1 1 1).setFld HA_MB_STAT 0 0 0

/-- A command that a full reset cut is answered ABORTED by the boot ROM (R486). -/
def State.mbAbort (s : State) : State := if s.bit HA_MB_STAT 0 then s.mbReply 7 [] true else s

/-- A run of Sorrel that a full reset meets is abandoned (R476). -/
def State.stCut (s : State) : State :=
  if s.mode = .selftest ∨ (s.mode = .hold ∧ s.prior = .selftest ∧ s.fld HA_ST_STAT 2 0 ≠ 6) then s.stAbandon else s

/-- An epoch change that the reset cut is carried out or not (R365); which is open. -/
def State.epCut (s : State) : State :=
  if s.bit HA_FAB_EPOCH 1 then
    let c := s.choose
    if c.1 then c.2.epEnd else { c.2.setFld HA_FAB_EPOCH 1 1 0 with epMaps := none, epSink := none, epAcc := none }
  else s

/-- Steps 1 to 4 of R408 on everything but the mode: what R211, R179, R302 and R371 state. -/
def State.logicReset (s : State) : State :=
  let s := s.epCut.bmReset
  let s := allMp.foldl (fun s m => s.mpReset m) s
  let s := allHp.foldl (fun s p => s.setHp p ((s.hpAt p).fullReset s.tmo)) s
  let s := allNodes.foldl (fun s n => s.modNd n Node.fullReset) s
  let s := allQd.foldl (fun s q => s.quadReset q) s
  let xlt := s.xlt.map fun e => if e.1 < 16 then (e.1, { e.2 with ents := [] }) else (e.1, e.2.lost)
  let sess := s.sess.map fun e => (e.1, { e.2 with visits := 0, todo := 0, visitSent := false })
  let evs := s.chv.events.filter fun e => e.evt == 0x51 || e.evt == 0x52
  let s := { s with xlt := xlt.filter (fun e => decide (e.2 ≠ ({} : Macro))), sess := sess, chv := { events := evs }, chan := [],
                    hwRep := [], late := [], queues := [], rout := [], rotLast := [], xltCmd := none, meas := {}, dbgLatch := none, dbgHeld := none,
                    released := false, romRst := false }
  s.regsReset.statReset.mbAbort

/-- Every shell translates its replayed entries again and injects them, in ledger order over the shells (R409 step 1). -/
def State.replayStart (s : State) : State :=
  let s := allHp.foldl (fun s p => s.ledScan p) s
  let all := allHp.flatMap fun p => (s.hpAt p).ledger.filterMap fun e => match e.2 with
    | some l => if l.replay && l.st == .blocked then some (p, e.1, l) else none
    | none => none
  let ins (a : HpId × Nat × LedEnt) (l : List (HpId × Nat × LedEnt)) : List (HpId × Nat × LedEnt) :=
    l.takeWhile (fun b => b.2.2.before b.1 a.2.2 a.1) ++ a :: l.dropWhile fun b => b.2.2.before b.1 a.2.2 a.1
  (all.foldr ins []).foldl (fun s a => s.translate a.1 a.2.1) s

/-! ### Triggers (R407) -/

/-- The cause, the epoch, the count and the time of a trigger, and its RESET record (R407, R408 step 1, R449). -/
def State.rstNote (s : State) (bits : List Nat) : State :=
  let s := bits.foldl (fun s b => s.setFld HA_RST_CAUSE b b 1) s
  let n := s.fld HA_RST_STAT 18 3
  let s := (s.setFld HA_RST_STAT 2 0 (s.fld HA_RST_STAT 2 0 + 1)).setFld HA_RST_STAT 18 3 (if n = 65535 then n else n + 1)
  let s := s.setRaw HA_RST_TS (BitVec.ofNat 32 s.time.toNat)
  s.record 9 0 ((bits.map fun b => 2 ^ b).sum + s.fld HA_RST_STAT 2 0 * 2 ^ 16)

/-- The boot path (R407): Tarragon's quench is lowered, and the ROM runs R400 from step 1. -/
def State.bootPath (s : State) : State :=
  let s := allNodes.foldl (fun s n =>
    if (s.qd (quadOf n)).pwr = .on then s.modNd n fun x => { x with tarQuench := false } else s) (s.setMode .boot).logicReset
  s.bootRun.replayStart

/-- The hold sequence up to step 10 (R408): the mode, the resets, the measurements and the loads; replay starts. -/
def State.holdSeq (s : State) : State :=
  let s := match s.mode with
    | .hold => { s with holdAt := s.tmo }
    | m => { s with prior := m, holdAt := s.tmo }
  let s := (s.setMode .hold).logicReset.replayStart
  let r := s.romIdent.reloadObjects
  r.2.measRecs.2.2.loadImages r.1 true

/-- A full reset is requested; `cause` is its bit of HA_RST_CAUSE (R407). -/
def State.fullReq (s : State) (cause : Nat) : State :=
  match s.mode with
  | .off => s
  | .strap | .fill | .flush =>
    let s := (s.setFld HA_RST_CAUSE cause cause 1).setFld HA_RST_CAUSE 6 6 1
    s.record 9 0 (2 ^ cause + 2 ^ 6 + s.fld HA_RST_STAT 2 0 * 2 ^ 16)
  | m =>
    if m = .boot ∨ s.bit HA_IMG_STAT 12 = false then (s.rstNote [cause, 7]).stCut.bootPath
    else (s.rstNote [cause]).stCut.holdSeq

/-- A low pulse of pwr_full_rst_n passes its filter (R44, R57): the level must have been high on 4 samples, and takes 4 more to
rise again before the next. -/
def State.fullPulse (s : State) : State :=
  if s.tmo < s.fullPinAt then s else ({ s with fullPinAt := s.tmo + 8 }.fullReq 2).goOn

/-- `PWR_FULL_RST_PULSE` (R57, R407). -/
def execPwrFullRstPulse (s : State) : Out := .next s.fullPulse

/-- A write of HA_RST_REQ (R407, R408 step 11): FULL requests a full reset, RELEASE ends step 11 in HOLD. -/
def State.rstReq (s : State) (v : BitVec 32) : State :=
  let s := if bt v 1 && s.mode == .hold then { s with released := true } else s
  if bt v 0 then s.fullReq 3 else s

/-- `FULL` (R407). -/
def execRstFull (src : Src) (s : State) : Out := .next (s.regDo src HA_RST_REQ true fun s => s.rstReq 1).goOn

/-- `RELEASE` (R408 step 11). -/
def execRstRelease (src : Src) (s : State) : Out := .next (s.regDo src HA_RST_REQ true fun s => s.rstReq 2).goOn

/-! ### Limits -/

/-- The hold limit passes (R411); it does not apply when the prior mode is SELFTEST (R412). -/
def State.holdLate (s : State) : State :=
  if s.mode = .hold ∧ s.prior ≠ .selftest ∧ s.past s.holdAt 40000 = true then
    let s := s.raise HA_RST_CAUSE 8
    if s.mode = .safe then s.setFld HA_MODE 15 12 3 else s.safeEntry 3
  else s

/-- `HOLD_LIMIT` (R411). -/
def execHoldLimit (s : State) : Out := .next s.holdLate.goOn

/-- The modes in which the watchdog counts (R414). -/
def Mode.watched : Mode → Bool
  | .standby | .service | .degraded | .evacuate => true
  | _ => false

/-- The watchdog reaches its limit (R414). -/
def State.wdogLate (s : State) : State :=
  let l := s.fld HA_WDOG 7 0
  if s.mode.watched = true ∧ l ≠ 0 ∧ s.past s.wdogAt (1024 * l) = true then s.fullReq 5 else s

/-- `WATCHDOG_EXPIRY` (R414). -/
def execWatchdogExpiry (s : State) : Out := .next s.wdogLate.goOn

/-- A write of HA_WDOG (R414). -/
def State.wdogWrite (s : State) (v : BitVec 32) : State :=
  let s := s.setFld HA_WDOG 7 0 (bf v 7 0)
  if bt v 8 then { s with wdogAt := s.tmo } else s

/-- `KICK` (R414). -/
def execWdogKick (src : Src) (wdata : BitVec 32) (s : State) : Out :=
  .next (s.regDo src HA_WDOG true fun s => s.wdogWrite wdata)

end Sys2Proof.Machine
end

