-- ==== Sys2Proof/Machine/Flush.lean ====
section
/-! DEFINITION. Sys2Proof/Machine/Flush.lean: the FLUSH mode that a power failure starts (R57, R429 to R431, R476). -/

namespace Sys2Proof.Machine

/-- Live ledger entries that are not answered (LEFT, Table 14.10). -/
def State.leftN (s : State) : Nat := (allHp.map fun p => (s.hpAt p).liveIdx.length).sum

/-- No ledger entry is live (R211): every response has left its shell. -/
def State.noneLive (s : State) : Bool := allHp.all fun p => (s.hpAt p).ledger == []

/-- What stands in the FLUSH mode's list for a SYNC that waits for an MTAG. -/
def flushWant : Nat := 4096

/-- Send the SYNCs of the FLUSH mode that wait for an MTAG. -/
def State.modeSync (s : State) : State :=
  let w := s.flushTags.filter fun t => t.2 == flushWant
  w.foldl (fun s t =>
    match s.mpIssue (Fin.ofNat 8 t.1) { own := .modeFlush, kind := .sync, maddr := 0 } with
    | some (i, s) => { s with flushTags := s.flushTags.map fun u => if u = t then (t.1, i) else u }
    | none => s) s

/-- A write that a host's flow had not handed off when DRAIN was cut (Table 14.5), nor its mirror write. -/
def State.cutWrite (s : State) (m : MpId) (i : Nat) : Bool :=
  match (s.mpAt m).mtag i with
  | some g => g.kind == .wr && !g.handed
      && (match g.own with | .flow n t => ((s.nd n).trkAt t).ledgered | _ => false)
      && (match g.pair.bind fun k => (s.mpAt m).mtag k with | some o => !o.handed | none => true)
  | none => false

/-- Such writes are never written (R431): their requests leave the queues of the media ports. -/
def State.cutWrites (s : State) : State :=
  allMp.foldl (fun s m =>
    let x := s.mpAt m
    let q := x.reqQ.filter fun i => !s.cutWrite m i
    s.setMp m { x with reqQ := q, outSince := if q = [] then none else x.outSince,
                       mtags := x.mtags.filter fun e => !s.cutWrite m e.1 }) s

/-- Phase 2 begins (Table 14.4): SYNC at each attached media port that selects it, elsewhere the outstanding writes are
noted. -/
def State.syncStart (s : State) : State :=
  let tags := allMp.flatMap fun m =>
    let x := s.mpAt m
    if !s.mpOn m then []
    else if x.att.ver == 2 && bt x.att.caps 1 then [(m.val, flushWant)]
    else x.mtags.filterMap fun e => match e.2 with
      | some g => if g.kind = .wr then some (m.val, e.1) else none
      | none => none
  ({ s with flushTags := tags, flushAt := s.tmo }.setFld HA_FLUSH_STAT 1 0 2).modeSync

/-- Every engine thread stops issuing. -/
def State.stopEngines (s : State) : State :=
  allNodes.foldl (fun s n => s.modNd n fun x => { x with core := { x.core with stopped := true } }) s

/-- Sorrel stops: a quadrant in TEST is switched OFF as it is, and no further fuse program is issued (R476). -/
def State.stStop (s : State) : State :=
  let s := { s with fuseTodo := [] }
  allQd.foldl (fun s q =>
    if (s.qd q).pwr = .test then
      let s := s.quadLose q true
      s.setQd q { s.qd q with pwr := .off, quadOn := false }
    else s) s

/-- Enter FLUSH (R430): every channel halts with STOP at its next unit boundary; from HOLD, SELFTEST and SAFE, DRAIN is
skipped, what they left stands where it is, and LEFT counts the live entries. -/
def State.flushEnter (s : State) : State :=
  let old := s.mode
  let s := { s.setMode .flush with flushAt := s.tmo }
  let s := allCh.foldl (fun s c => s.chanStop c) s
  let s := s.chvEvent 0x58 0
  match old with
  | .hold | .selftest | .safe =>
    let s := if old = .selftest then s.stStop else s
    (s.stopEngines.setFld HA_FLUSH_STAT 27 12 s.leftN).cutWrites.syncStart
  | _ => s.setFld HA_FLUSH_STAT 1 0 1

/-- FLUSH starts at once from these modes (R429). -/
def Mode.flushes : Mode → Bool
  | .standby | .service | .degraded | .hold | .evacuate | .selftest | .safe => true
  | _ => false

/-- `POWER_FAIL` (R57, R429): the filter sees the low level on 4 samples, so no assertion passes before the fourth tick (R44,
log entry 113). -/
def execPowerFail (s : State) : Out :=
  .next (if s.mode = .off ∨ s.tmo < 4 then s
    else
      let s := { s with pwrFail := true }
      if s.mode.flushes then s.flushEnter.goOn else s)

/-- Phase 1 ends with every entry served (Table 14.4). -/
def execDrainEnd (s : State) : Out :=
  .next (if s.mode = .flush ∧ s.fld HA_FLUSH_STAT 1 0 = 1 ∧ s.noneLive = true then s.syncStart else s)

/-- The DRAIN limit passes: DRAIN_CUT, engines stop, and LEFT counts what is left. Where no entry is live, DRAIN has ended
before. -/
def State.drainLate (s : State) : State :=
  if s.mode = .flush ∧ s.fld HA_FLUSH_STAT 1 0 = 1 ∧ s.past s.flushAt (s.fld HA_FLUSH_CTRL 15 0) = true then
    if s.noneLive then s.syncStart
    else (((s.setFld HA_FLUSH_STAT 2 2 1).stopEngines).setFld HA_FLUSH_STAT 27 12 s.leftN).cutWrites.syncStart
  else s

/-- `DRAIN_LIMIT` (R430). -/
def execDrainLimit (s : State) : Out := .next s.drainLate

/-- Nothing of media port `m` is outstanding for the FLUSH mode. -/
def State.flushGot (s : State) (m : MpId) : Bool := s.mpOn m && !s.flushTags.any fun t => t.1 == m.val

/-- The end of phase 2: SYNC_OK, the FLUSH record and PHASE 3 (R430, R449). -/
def State.flushDone (s : State) (cut : Bool) : State :=
  let ok := (allMp.map fun m => b2n (s.flushGot m) * 2 ^ m.val).sum
  let s := ((s.setFld HA_FLUSH_STAT 3 3 (b2n cut)).setFld HA_FLUSH_STAT 11 4 ok).setFld HA_FLUSH_STAT 1 0 3
  s.record 3 0 (3 + b2n (s.bit HA_FLUSH_STAT 2) * 2 ^ 8 + b2n cut * 2 ^ 9 + ok * 2 ^ 16 + s.fld HA_FLUSH_STAT 27 12 * 2 ^ 32)

/-- Every media port that is still attached has confirmed; one whose acknowledgement came too late has not (Table 14.4). -/
def State.syncAll (s : State) : Bool := s.flushTags.all fun t => !s.mpOn (Fin.ofNat 8 t.1)

/-- `SYNC_END` (R430). -/
def execSyncEnd (s : State) : Out :=
  .next (if s.mode = .flush ∧ s.fld HA_FLUSH_STAT 1 0 = 2 then
    (let s := s.modeSync
     if s.syncAll then s.flushDone false else s) else s)

/-- The SYNC limit passes (Table 14.4); where every port has confirmed, the phase has ended before. -/
def State.syncLate (s : State) : State :=
  if s.mode = .flush ∧ s.fld HA_FLUSH_STAT 1 0 = 2 ∧ s.past s.flushAt (s.fld HA_FLUSH_CTRL 31 16) = true then s.flushDone !s.syncAll else s

/-- `SYNC_LIMIT` (R430). -/
def execSyncLimit (s : State) : Out := .next s.syncLate

end Sys2Proof.Machine
end

