-- ==== Sys2Proof/Machine/SelfTest.lean ====
section
/-! DEFINITION. Sys2Proof/Machine/SelfTest.lean: Sorrel: entry checks (R463, R470), the run (R464 to R468, R476), repair decisions
(R472), the new repair map and hard repair (R473, R474). -/

namespace Sys2Proof.Machine

/-! ### Entry (R463) -/

/-- One step of a FREE or LEGACY program (R470). -/
def stStepOk (legacy : Bool) (w : BitVec 128) : Bool :=
  let u := bf w 6 0
  decide (bf w 10 7 ≤ 11) && decide (bf w 13 11 ≤ 3) && bf w 31 14 == 0 && bf w 127 112 == 0
    && (if legacy then decide (u ≤ 7) && bf w 111 96 != 0
        else (decide (u < 32) || (decide (64 ≤ u) && decide (u < 68))) && bf w 111 96 == 0)

/-- The program at HA_ST_PROG passes R470. -/
def State.stProgOk (s : State) (legacy : Bool) : Bool :=
  let b := 64 * s.fld HA_ST_PROG 28 0
  let n := memRead s.bmem (b + 6) 2
  decide (b + 16 + 16 * n ≤ s.bmBytes) && memRead s.bmem b 4 == 0x50545253 && memRead s.bmem (b + 4) 1 == 1
    && memRead s.bmem (b + 5) 1 == b2n legacy && decide (1 ≤ n) && decide (n ≤ 4096) && memRead s.bmem (b + 12) 4 == 0
    && memRead s.bmem (b + 8) 4 == (crc32 (memBytes s.bmem (b + 16) (16 * n))).toNat
    && (List.range n).all fun k => stStepOk legacy (BitVec.ofNat 128 (memRead s.bmem (b + 16 + 16 * k) 16))

/-- The first failed check of Table 16.1, 0 when all pass. -/
def State.stRej (s : State) : Nat :=
  let prog := s.fld HA_ST_CTRL 1 0
  if s.lc = 5 then 1
  else if !progAllowed s.lc prog || (decide (2 ≤ prog) && !s.stProgOk (prog == 3)) then 2
  else if s.held ≠ 0 then 3
  else if !s.noneLive then 4
  else if allCh.any fun c => (s.ch c).wants then 5
  else if s.bit HA_FAB_EPOCH 1 || allQd.any (fun q => (s.qd q).pwr == .gating || (s.qd q).pwr == .ungating)
      || allNodes.any (fun n => (s.nd n).rebuild) then 6
  else if s.bmBytes < (s.fld HA_ST_SAVE 11 0 + 1) * 2 ^ 23 + 3 * 2 ^ 20 then 7
  else 0

/-- The quadrants a run tests, ascending (R466 step 3). -/
def State.stQuads (s : State) : List QuadId := allQd.filter fun q => bt s.st.quads q.val && decide (q.val < s.strapQuads)

/-- UNIT and STRUCT of the steps of the program at HA_ST_PROG (R470). -/
def State.stSteps (s : State) : List (Nat × Nat) :=
  let b := 64 * s.fld HA_ST_PROG 28 0
  (List.range (memRead s.bmem (b + 6) 2)).map fun k =>
    let w := memRead s.bmem (b + 16 + 16 * k) 2
    (w % 128, w / 128 % 16)

/-- Enter SELFTEST (R463, R465, R466): PHASE 1, the results of the last run cleared. -/
def State.stEnter (s : State) : State :=
  let prog := s.fld HA_ST_CTRL 1 0
  let prog := if prog = 1 ∧ s.bit HA_ST_STAT 9 = true then 0 else prog
  let run : StRun := { prog := BitVec.ofNat 2 prog, quads := BitVec.ofNat 4 (s.fld HA_ST_CTRL 5 2),
                       fuse := s.bit HA_ST_CTRL 6 && s.lcOpen, unrep := false,
                       steps := if prog < 2 then [] else s.stSteps }
  let s := (((s.setFld HA_ST_STAT 2 0 1).setFld HA_ST_STAT 4 3 0).setFld HA_ST_STAT 8 5 0).setFld HA_ST_STAT 10 10 0
  let s := (List.range 4).foldl (fun s q => s.setRaw (HA_ST_RES + 4 * q) 0) s
  { s with st := run, fuseTodo := [] }.setMode .selftest

/-! ### The run (R466 to R468) -/

/-- Quadrant `q` enters TEST (R467 step 1). -/
def State.stQuadTest (s : State) (q : QuadId) : State :=
  let x := s.qd q
  let s := s.setQd q { x with pwr := .test, wasOff := x.pwr == .off }
  ((s.quadStop q).setFld HA_ST_STAT 4 3 q.val).thermal q

/-- A quadrant in TEST is filled, loaded, and returned as it was (R467 steps 4 and 5). -/
def State.stQuadBack (s : State) (q : QuadId) : State :=
  let off := (s.qd q).wasOff
  let s := s.testFill q off
  let s := if off then s else s.quadLoad q false
  let x := s.qd q
  s.setQd q { x with pwr := if off then .off else .on, quadOn := !off, wasOff := false }

/-- The test of quadrant `q` has ended. -/
def State.stQuadEnd (s : State) (q : QuadId) : State := ((s.stQuadBack q).setFld (HA_ST_RES + 4 * q.val) 24 24 1).thermal q

/-- SAFE holds the quadrants ON with their engines stopped (Table 12.3): one in TEST, whose run is abandoned, is returned as it was. -/
def State.safeQuads (s : State) : State :=
  if s.mode ≠ .safe then s
  else allQd.foldl (fun s q => if (s.qd q).pwr = .test then (s.stQuadBack q).quadStop q else s) s

/-- A quadrant of the run that has not been tested. -/
def State.stNext (s : State) : Option QuadId := s.stQuads.find? fun q => !s.bit (HA_ST_RES + 4 * q.val) 24

/-- One step of the run: the phases in order, the quadrants one at a time (R466, R468). -/
def State.stAdvance (s : State) : State :=
  match s.fld HA_ST_STAT 2 0 with
  | 1 => s.setFld HA_ST_STAT 2 0 2
  | 2 => match s.stNext with
    | some q => (s.setFld HA_ST_STAT 2 0 3).stQuadTest q
    | none => s.setFld HA_ST_STAT 2 0 4
  | 3 =>
    let s := match allQd.find? fun q => (s.qd q).pwr == .test with
      | some q => s.stQuadEnd q
      | none => s
    match s.stNext with
    | some q => s.stQuadTest q
    | none => s.setFld HA_ST_STAT 2 0 4
  | _ => s

/-- On a tick in SELFTEST the run goes on by a step, or not: how long a phase lasts is open. -/
def State.sorrelTick (s : State) : State :=
  if s.mode = .selftest ∧ s.fld HA_ST_STAT 2 0 ≤ 3 then
    let c := s.choose
    if c.1 then c.2.stAdvance else c.2
  else s

/-! ### Repair decisions (R472) -/

/-- The lowest spare of `n` that no item of kind `k` for the place of `i` takes. -/
def freeSpare (items : List Word) (i : Word) (n : Nat) : Option Nat :=
  (List.range n).find? fun k => !items.any fun o => sameSpare o (setBf i 34 32 k)

/-- Spares for a lane so far: the items in force with the new ones, and the cells that are left. -/
structure LaneFix where
  items : List Word
  new : List Word
  cells : List (Nat × Nat)
  deriving DecidableEq, Repr

/-- Take a spare row (`col` false) or column for the cells at `a`; unchanged when none is left. -/
def LaneFix.take (x : LaneFix) (f : LaneFail) (col : Bool) (a : Nat) : LaneFix :=
  let n := structInfo f.struct.toNat
  let i := mkItem f.unit.toNat f.struct.toNat f.lane.toNat (b2n col) a 0
  match freeSpare x.items i (if col then n.spCols else n.spRows) with
  | some k =>
    let i := setBf i 34 32 k
    { items := x.items ++ [i], new := x.new ++ [i], cells := x.cells.filter fun c => (if col then c.2 else c.1) != a }
  | none => x

/-- Rows, or columns, with two or more of the cells. -/
def crowded (cells : List (Nat × Nat)) (col : Bool) : List Nat :=
  let k (c : Nat × Nat) : Nat := if col then c.2 else c.1
  ((cells.map k).eraseDups).filter fun a => decide (2 ≤ (cells.filter fun c => k c == a).length)

/-- Steps 1 to 3 of R472. -/
def LaneFix.cellsFix (x : LaneFix) (f : LaneFail) : LaneFix :=
  let x := (crowded x.cells false).foldl (fun x a => x.take f false a) x
  let x := (crowded x.cells true).foldl (fun x a => x.take f true a) x
  let one (x : LaneFix) (c : Nat × Nat) : LaneFix :=
    let y := x.take f false c.1
    if y.cells.contains c then x.take f true c.2 else y
  x.cells.foldl (fun x c => if x.cells.contains c then one x c else x) x

/-- Step 4: a spare lane; a router's belongs to the port that the capture's first row names. -/
def LaneFix.laneFix (x : LaneFix) (f : LaneFail) : Option LaneFix :=
  let port := if f.struct = 8 then (match f.cells with
    | c :: _ => c.1 % 8
    | [] => 0) else 0
  let i := mkItem f.unit.toNat f.struct.toNat f.lane.toNat 2 port 0
  (freeSpare x.items i (structInfo f.struct.toNat).spLanes).map fun k =>
    let i := setBf i 34 32 k
    { x with items := x.items ++ [i], new := x.new ++ [i] }

/-- Way-off items for the failed ways of a macro, named by the captured rows; a ninth makes the unit unrepairable. -/
def LaneFix.wayFix (x : LaneFix) (f : LaneFail) : Option LaneFix :=
  let mine (i : Word) : Bool := itUnit i == f.unit.toNat && itStruct i == 6 && (f.unit != 92 || itLane i == f.lane.toNat)
  let ways := ((f.cells.map fun c => c.1 % 32).eraseDups).filter fun w => !x.items.any fun i => mine i && itAddr i == w
  let new := ways.map fun w => mkItem f.unit.toNat 6 f.lane.toNat 3 w 0
  let y : LaneFix := { x with items := x.items ++ new, new := x.new ++ new }
  if 8 < (y.items.filter mine).length then none else some y

/-- One failed lane (R472): the spares it takes, or none where the unit cannot be repaired. -/
def LaneFix.fix (x : LaneFix) (f : LaneFail) : Option LaneFix :=
  if f.struct = 6 then x.wayFix f
  else
    let logic := f.struct = 7 ∨ f.struct = 8
    let y := if logic then { x with cells := [] } else { x with cells := f.cells.take 16 }.cellsFix f
    if logic ∨ f.overflow = true ∨ y.cells ≠ [] then y.laneFix f else some y

/-- The failed lanes of one unit: the new items, or none where it cannot be repaired. -/
def unitFix (items : List Word) (fs : List LaneFail) : Option (List Word) :=
  (fs.foldl (fun a f => a.bind fun x => x.fix f) (some (⟨items, [], []⟩ : LaneFix))).map (·.new)

/-! ### The end of a run -/

/-- The run tests structure `k` of unit `u`: the fixed programs test all, a FREE or LEGACY program what its steps name, in LEGACY
by the index of the node in its quadrant (R470, R471); every run tests the survivor groups and the links (R466). -/
def StRun.names (r : StRun) (u k : Nat) : Bool :=
  decide (r.prog.toNat < 2) || (decide (32 ≤ u) && decide (u < 64)) || decide (68 ≤ u)
    || r.steps.any fun e => e.2 == k && (e.1 == u || (r.prog == 3 && decide (u < 32) && e.1 == u % 8))

/-- A failed lane of a unit and structure that the run tests (R464, R466, R467). -/
def State.failOk (s : State) (f : LaneFail) : Bool :=
  let u := f.unit.toNat
  let k := f.struct.toNat
  let inQ (q : Nat) : Bool := s.stQuads.any fun r => r.val == q
  unitHas u k && decide (f.lane.toNat < (structInfo k).lanes) && !(s.st.prog == 1 && (k == 7 || k == 8)) && s.st.names u k
    && (if u < 32 then s.inService (Fin.ofNat 32 u) && inQ (u / 8)
        else if u < 64 then decide (u - 32 < s.nodesN)
        else if u < 68 then inQ (u - 64)
        else if u < 84 then decide (u - 68 < s.hpN)
        else if u < 92 then decide (u - 84 < s.mpN) else true)

/-- The quadrant of a node's or an extent cache's unit. -/
def unitQuad (u : Nat) : Option Nat := if u < 32 then some (u / 8) else if 64 ≤ u ∧ u < 68 then some (u - 64) else none

/-- The outcome for a unit that cannot be repaired (Table 16.4): the map, whether no outcome exists, and its result bit. -/
def State.unitLost (s : State) (m : RepairMap) (u : Nat) : RepairMap × State :=
  if u < 32 then
    let s := s.setFld (HA_ST_RES + 4 * (u / 8)) (16 + u % 8) (16 + u % 8) 1
    let left := (List.range 32).filter fun n => decide (n < s.nodesN) && !bt m.retired n
    if left = [u] then (m, { s with st := { s.st with unrep := true } })
    else ({ m with retired := setBt m.retired u true }, s)
  else if 64 ≤ u ∧ u < 68 then ({ m with qecBypass := setBt m.qecBypass (u - 64) true }, s.setFld (HA_ST_RES + 4 * (u - 64)) 25 25 1)
  else if 68 ≤ u ∧ u < 92 then ({ m with portOff := setBt m.portOff (u - 68) true }, s)
  else (m, { s with st := { s.st with unrep := true } })

/-- Add `k` to a result field that saturates at 255. -/
def State.resAdd (s : State) (q hi lo k : Nat) : State :=
  s.setFld (HA_ST_RES + 4 * q) hi lo (min 255 (s.fld (HA_ST_RES + 4 * q) hi lo + k))

/-- Failed lanes, or the failed ways of a macro (Table 16.11). -/
def LaneFail.count (f : LaneFail) : Nat :=
  if f.struct = 6 then ((f.cells.map fun c => c.1 % 32).eraseDups).length else 1

/-- One unit with failed lanes: its repairs enter the map, or it takes the outcome of Table 16.4. -/
def State.unitEnd (s : State) (m : RepairMap) (fs : List LaneFail) (u : Nat) : RepairMap × State :=
  let mine := fs.filter fun f => f.unit.toNat == u
  let s := match unitQuad u with
    | some q => s.resAdd q 7 0 (mine.map LaneFail.count).sum
    | none => s
  match unitFix m.items mine with
  | some new =>
    let s := match unitQuad u with
      | some q => s.resAdd q 15 8 new.length
      | none => s
    ({ m with items := m.items ++ new }, s)
  | none => s.unitLost m u

/-- The first unused pair of fuse words from pair `k` on (R474). -/
def State.fusePair (s : State) (taken : List Nat) : Option Nat :=
  firstFrom (fun k => !taken.contains k && (smGet (fun _ => (0 : BitVec 32)) s.fuse (0x100 + 2 * k)) == 0
    && (smGet (fun _ => (0 : BitVec 32)) s.fuse (0x101 + 2 * k)) == 0) 256 0

/-- The fuse words of the new items and of the new retirements (R474). -/
def State.fuseList (s : State) (old new : RepairMap) : List (BitVec 10 × BitVec 32) :=
  let items := new.items.drop old.items.length
  let r := items.foldl (fun (a : List Nat × List (BitVec 10 × BitVec 32)) i => match s.fusePair a.1 with
    | some k => (a.1 ++ [k], a.2 ++ [(BitVec.ofNat 10 (0x100 + 2 * k), i.setWidth 32), (BitVec.ofNat 10 (0x101 + 2 * k), BitVec.ofNat 32 (bf i 63 32))])
    | none => a) ([], [])
  let mask := new.retired &&& ~~~old.retired
  let slot := [0x300, 0x301].find? fun a => (smGet (fun _ => (0 : BitVec 32)) s.fuse a) == 0
  r.2 ++ (match slot with
    | some a => if mask = 0 then [] else [(BitVec.ofNat 10 a, new.retired)]
    | none => [])

/-- Steps 5 and 6 of R466: UNREP_SYS leads to SAFE, else PHASE 5 and STANDBY; FULL and FREE clear DUE. -/
def State.stEnd (s : State) : State :=
  if s.st.unrep then s.raise HA_ST_ERR 0
  else
    let s := s.setFld HA_ST_STAT 2 0 5
    let s := if s.st.prog = 0 ∨ s.st.prog = 2 then s.setFld HA_ST_STAT 9 9 0 else s
    s.setMode .standby

/-- Issue the next fuse program, or end the run. -/
def State.fuseNext (s : State) : State :=
  match s.fuseTodo with
  | (a, w) :: l => { s with fuseTodo := l, fusePgm := some (a, w, s.tmo) }
  | [] => if s.mode = .selftest ∧ s.fld HA_ST_STAT 2 0 = 4 then s.stEnd else s

/-- PHASE 4 (R466 step 4): the new map, its commit (a store fault sets FAULT, R456), and hard repair. -/
def State.stCommit (s : State) (res : SorrelRes) : State :=
  let fs := res.fails.filter s.failOk
  let r := ((fs.map fun f => f.unit.toNat).eraseDups).foldl (fun (a : RepairMap × State) u => a.2.unitEnd a.1 fs u) (s.map, s)
  let s := r.2
  let new := r.1
  if new = s.map then s.fuseNext
  else
    let c := if 508 < new.items.length then (false, s)
      else if res.commitOk = true ∨ s.storeProt = 3 then s.recCommit false 2 (mapBytes new) else (false, s.raise HA_PS_ERR 4)
    if !c.1 then (c.2.raise HA_ST_ERR 3).fuseNext
    else
      let s := c.2.setFld HA_ST_STAT 10 10 1
      { s with fuseTodo := if s.st.fuse then s.fuseList s.map new else [] }.fuseNext

/-- Finish the quadrants that are left. -/
def State.stQuadsEnd (s : State) : State :=
  s.stQuads.foldl (fun s q =>
    if s.bit (HA_ST_RES + 4 * q.val) 24 then s
    else (if (s.qd q).pwr = .test then s else s.stQuadTest q).stQuadEnd q) s

/-- The run ends with what Sorrel found (R466, R476); a survivor group that fails its restore ends it in SAFE. -/
def State.sorrelEnd (s : State) (res : SorrelRes) : State :=
  if s.mode ≠ .selftest ∨ s.fusePgm.isSome = true ∨ 4 < s.fld HA_ST_STAT 2 0 then s
  else if !res.restoreOk && s.fld HA_ST_STAT 2 0 == 1 then s.raise HA_ST_ERR 1
  else ((s.stQuadsEnd).setFld HA_ST_STAT 2 0 4).stCommit res

/-- `SORREL_END` (R466). -/
def execSorrelEnd (res : SorrelRes) (s : State) : Out := .next (s.sorrelEnd res).goOn

/-! ### Fuse programs (R45, R474) -/

/-- The running fuse program has ended; a failed low word takes its high word with it. -/
def State.fuseEnd (s : State) (ok : Bool) : State :=
  match s.fusePgm with
  | none => s
  | some (a, w, _) =>
    let s := { s with fusePgm := none }
    let s := if ok then { s with fuse := smSet (fun _ => (0 : BitVec 32)) s.fuse a.toNat w }
      else { s with fuseTodo := s.fuseTodo.filter fun e => !(a.toNat % 2 == 0 && decide (a.toNat < 0x300) && e.1.toNat == a.toNat + 1) }.raise HA_ST_ERR 4
    s.fuseNext

/-- `FUSE_PROGRAM_DONE` (R474). -/
def execFuseProgramDone (err : Bool) (s : State) : Out := .next (s.fuseEnd (!err)).goOn

/-- The fuse words of R475 have not come within 1,000 ticks (Table 2.3): no hard item is in force (log entry 114). -/
def State.fuseRdLate (s : State) : State :=
  match s.fuseRd with
  | some t =>
    if s.past t 1000 then
      let s := s.hard.items.foldl (fun s i => s.wayClear i) { s with fuseRd := none, map := {}, hard := {} }
      (s.setRaw HA_FAB_SINK_ACT (BitVec.ofNat 32 s.sinkAlways)).raise HA_INPUT_ERR 10
    else s
  | none => s

/-- A fuse program passes 100,000 ticks (Table 2.3): whether the word was programmed is open. -/
def State.fuseLate (s : State) : State :=
  match s.fusePgm with
  | some (a, w, t) =>
    if s.past t 100000 then
      let c := s.choose
      let s := if c.1 then { c.2 with fuse := smSet (fun _ => (0 : BitVec 32)) c.2.fuse a.toNat w } else c.2
      ({ s with fusePgm := none }.raise HA_INPUT_ERR 10).fuseNext
    else s
  | none => s.fuseRdLate

/-- `FUSE_TIMEOUT` (R45). -/
def execFuseTimeout (s : State) : Out := .next s.fuseLate.goOn

end Sys2Proof.Machine
end

