-- ==== Sys2Proof/Machine/Modes.lean ====
section
/-! DEFINITION. Sys2Proof/Machine/Modes.lean: mode requests (R392 to R394, R463, R178). -/

namespace Sys2Proof.Machine

/-- Enter SERVICE or DEGRADED (R393, R394); at the first such entry after cold reset R178 is checked. -/
def State.enterService (s : State) : State :=
  let first := !s.bit HA_MODE 16
  let s := s.setMode (if s.dgAny then .degraded else .service)
  if first then s.consCheck else s

/-- Enter STANDBY; a power failure latched earlier starts FLUSH there (R429). -/
def State.enterStandby (s : State) : State :=
  let s := s.setMode .standby
  if s.pwrFail then s.flushEnter else s

/-- The firmware has taken over from the boot ROM (R400). -/
def State.handedOver (s : State) : Bool := s.bit HA_CHV_STAT 23

/-- A request for target 10 (R463): the first failed check is shown in REJ. -/
def State.reqSelftest (s : State) : State :=
  let r := s.stRej
  if r = 0 then s.stEnter else (s.setFld HA_ST_STAT 8 5 r).raise HA_MODE 11

/-- A write of HA_MODE_REQ (R393, Table 13.1): a target that the table does not permit sets REQ_REJ. -/
def State.modeReq (s : State) (target : Nat) : State :=
  match target, s.mode with
  | 4, .boot => if s.handedOver then s.enterStandby else s.raise HA_MODE 11
  | 4, .service | 4, .degraded | 4, .evacuate => s.enterStandby
  | 5, .standby | 5, .evacuate => s.enterService
  | 8, .standby | 8, .service | 8, .degraded => s.setMode .evacuate
  | 10, .evacuate => s.reqSelftest
  | _, _ => s.raise HA_MODE 11

/-- `STANDBY` (R392, R393). -/
def execModeStandby (src : Src) (s : State) : Out := .next (s.regDo src HA_MODE_REQ true fun s => s.modeReq 4).goOn
/-- `SERVICE` (R392, R393). -/
def execModeService (src : Src) (s : State) : Out := .next (s.regDo src HA_MODE_REQ true fun s => s.modeReq 5).goOn
/-- `EVACUATE` (R100, R392). -/
def execModeEvacuate (src : Src) (s : State) : Out := .next (s.regDo src HA_MODE_REQ true fun s => s.modeReq 8).goOn
/-- `SELFTEST` (R463). -/
def execModeSelftest (src : Src) (s : State) : Out := .next (s.regDo src HA_MODE_REQ true fun s => s.modeReq 10).goOn

end Sys2Proof.Machine
end

