-- ==== Sys2Proof/Machine/Mailbox.lean ====
section
/-! DEFINITION. Sys2Proof/Machine/Mailbox.lean: the mailbox and its commands (R482 to R493). -/

namespace Sys2Proof.Machine

/-! ### Doorbell and completion (R482, R483) -/

/-- A write of HA_MB_DOORBELL. -/
def State.mbDoor (s : State) (src : Src) (v : BitVec 32) : State :=
  if !bt v 0 then s
  else if s.bit HA_MB_STAT 0 then s.accErr 1 HA_MB_DOORBELL true (srcPriv src)
  else
    let p := b2n (srcPriv src)
    (((s.setFld HA_MB_STAT 0 0 1).setFld HA_MB_STAT 1 1 0).setFld HA_MB_STAT 2 2 p).chvEvent 0x50 p

/-- `DOORBELL` (R482). -/
def execDoorbell (src : Src) (s : State) : Out := .next (s.regDo src HA_MB_DOORBELL true fun s => s.mbDoor src 1)

/-- A write of HA_MB_COMPLETE by Chervil: STATUS is that of the reply. -/
def State.mbComp (s : State) (src : Src) (v : BitVec 32) : State :=
  if !bt v 0 then s
  else if !s.bit HA_MB_STAT 0 then s.accErr 1 HA_MB_COMPLETE true (srcPriv src)
  else
    let rom := match src with | .bootRom => true | _ => false
    let s := (s.setFld HA_MB_STAT 15 8 (s.fld (HA_MB_RSP + 8) 7 0)).setFld HA_MB_STAT 3 3 (b2n rom)
    { (s.setFld HA_MB_STAT 0 0 0).setFld HA_MB_STAT 1 1 1 with mbStage := 0 }

/-- `COMPLETE` (R482). -/
def execMbComplete (src : Src) (s : State) : Out := .next (s.regDo src HA_MB_COMPLETE true fun s => s.mbComp src 1)

/-! ### Requests (R484, R485) -/

/-- `n` bytes of the request at byte `i`, little-endian. -/
def State.mbNum (s : State) (i n : Nat) : Nat :=
  (List.range n).foldl (fun v k => v + (byteOf (s.raw (HA_MB_REQ + 4 * ((i + k) / 4))) ((i + k) % 4)).toNat * 2 ^ (8 * k)) 0

/-- A row of Table 17.5: marked S, served by the boot ROM, payload bytes of the request. -/
structure MbRow where
  sup : Bool
  rom : Bool
  len : Nat
  deriving DecidableEq, Repr

/-- Table 17.5. -/
def mbRow (cmd : Nat) : Option MbRow :=
  match cmd with
  | 0x0001 | 0x0002 | 0x0003 => some ⟨false, true, 0⟩
  | 0x0010 => some ⟨true, true, 0⟩
  | 0x0011 => some ⟨true, false, 2⟩
  | 0x0020 => some ⟨true, false, 3⟩
  | 0x0021 | 0x0022 => some ⟨true, false, 12⟩
  | 0x0030 => some ⟨true, false, 8⟩
  | 0x0031 => some ⟨false, false, 1⟩
  | 0x0032 | 0x0033 => some ⟨true, false, 1⟩
  | 0x0040 => some ⟨true, false, 3⟩
  | 0x0041 => some ⟨true, false, 2⟩
  | 0x0050 => some ⟨true, false, 0⟩
  | _ => none

/-- Firmware runs: Chervil is not stopped, and some thread is not HALTED (R481). -/
def State.fwRuns (s : State) : Bool :=
  !s.chv.stopped && !s.chv.dspStall && (List.range 8).any fun t => (s.chv.thr t).st != .halted

/-- The server of a command by mode: the boot ROM (true), firmware, or none yet (R485). -/
def State.mbServer (s : State) : Option Bool :=
  match s.mode with
  | .off | .strap | .fill | .hold => none
  | .boot => some true
  | .safe => if s.handedOver then (if s.fwRuns then some false else none) else some true
  | _ => if s.fwRuns then some false else none

/-- The header's LEN fits the command, and its reserved bytes are zero. -/
def State.mbHeadOk (s : State) (r : MbRow) : Bool := s.mbNum 2 2 == r.len && s.mbNum 8 8 == 0

/-- Serve the command that waits, when it has code `code` (R484, R485): the MAILBOX event is taken; a code that the server does
not serve is answered UNKNOWN, then PRIV and ARG apply in that order (log entry 66), then the command's own rules. -/
def State.mbServe (s : State) (code : Nat) (f : Bool → State → State) : State :=
  match s.mbServer with
  | none => s
  | some rom =>
    if !s.bit HA_MB_STAT 0 then s
    else
      let t := { s with chv := { s.chv with events := s.chv.events.filter fun e => e.evt != 0x50 } }
      let c := s.mbNum 0 2
      match mbRow c with
      | none => t.mbReply 1 [] rom
      | some r =>
        if rom && !r.rom then t.mbReply 1 [] rom
        else if c ≠ code then s
        else if r.sup && !s.bit HA_MB_STAT 2 then t.mbReply 2 [] rom
        else if !s.mbHeadOk r then t.mbReply 3 [] rom
        else f rom t

/-- A firmware answer without payload. -/
def State.mbSay (s : State) (status : Nat) : State := s.mbReply status [] false

/-- The bytes of a register as read. -/
def State.regBytes (s : State) (a : Nat) : List Byte := wordBytes (s.readReg a) 4

/-! ### Commands that read -/

/-- IMG_VER of the firmware that was loaded, as its log entry holds it. -/
def State.fwVer (s : State) : BitVec 32 :=
  match s.meas.log.find? fun e => bf e 15 0 == 0x0501 with
  | some e => BitVec.ofNat 32 (bf e 95 64)
  | none => 0

/-- `GET_VERSION` (R484). -/
def execGetVersion (s : State) : Out :=
  .next (s.mbServe 0x0001 fun rom s =>
    s.mbReply 0 ([1, 0, 0xA0, BitVec.ofNat 8 s.lc] ++ s.regBytes HA_SAGE_VER ++ s.regBytes HA_IMG_HVER ++ s.regBytes HA_IMG_SVER
      ++ wordBytes (if rom then 0 else s.fwVer) 4 ++ s.regBytes HA_STRAP) rom)

/-- The reply of GET_MEASUREMENTS (R405, Table 17.5). -/
def State.measBytes (s : State) : List Byte :=
  (List.range 8).flatMap (fun k => wordBytes (s.meas.slot k) 48)
    ++ [BitVec.ofNat 8 s.meas.log.length, BitVec.ofNat 8 (b2n s.meas.lock)] ++ List.replicate 14 0
    ++ s.meas.log.flatMap fun e => wordBytes e 128

/-- `GET_MEASUREMENTS` (R405). -/
def execGetMeasurements (s : State) : Out := .next (s.mbServe 0x0002 fun rom s => s.mbReply 0 s.measBytes rom)

/-- The states of the sixteen channels, four bits each. -/
def State.chStates (s : State) : Nat := (allCh.map fun c => (s.ch c).st.code * 2 ^ (4 * c.val)).sum

/-- `GET_STATUS` (R484). -/
def execGetStatus (s : State) : Out :=
  .next (s.mbServe 0x0003 fun rom s =>
    s.mbReply 0 (s.regBytes HA_MODE ++ s.regBytes HA_ERR_SUM ++ s.regBytes HA_SESS_SUM ++ s.regBytes HA_RST_STAT
      ++ wordBytes (BitVec.ofNat 64 s.chStates) 8) rom)

/-- `FULL_RESET` (R407): the trigger follows DONE. -/
def execMbFullReset (s : State) : Out :=
  .next (s.mbServe 0x0010 fun rom s => ((s.mbReply 0 [] rom).fullReq 1).goOn)

/-- OVF of a counter. -/
def State.pmcOvf (s : State) (i : PmcId) : Bool := s.bit (pmcHiA i) 16

/-- The 144 counters in the order of Table 17.5. -/
def allPmc : List PmcId := allNodes.flatMap (fun n => (List.finRange 4).map fun k => PmcId.node n k) ++ (List.finRange 16).map PmcId.block

/-- `PMC_READ` (R484). -/
def execPmcRead (s : State) : Out :=
  .next (s.mbServe 0x0050 fun rom s =>
    s.mbReply 0 (allPmc.flatMap fun i =>
      wordBytes (BitVec.ofNat 64 ((smGet (fun _ => ({} : Pmc)) s.pmc (pmcIx i)).snap.toNat + b2n (s.pmcOvf i) * 2 ^ 63)) 8) rom)

/-! ### SHUTDOWN (R488) -/

/-- Writes of HA_ST_CTRL.PROG and QUADS, and the request for SELFTEST. -/
def State.shutTest (s : State) : State :=
  let v := setBf (setBf (s.raw HA_ST_CTRL) 1 0 (s.mbNum 16 1)) 5 2 (s.mbNum 17 1)
  (s.regPut .chervil HA_ST_CTRL v).modeReq 10

/-- The run reached PHASE 5: LIFE, then the clean-shutdown flag. -/
def State.shutCommit (s : State) : State :=
  let r := s.lifeCommit fun i => if i = 3 then 1 else if i = 4 then b2n (s.bit HA_ST_STAT 10) else 0
  if !r.1 then r.2.mbSay 8
  else
    let q := r.2.recCommit true 5 [1]
    if q.1 then q.2.mbReply 0 (q.2.regBytes HA_ST_STAT) false else q.2.mbSay 8

/-- The lowest channel that is IDLE or DONE. -/
def State.freeCh (s : State) : Option ChanId := allCh.find? fun c => (s.ch c).st == .idle || (s.ch c).st == .done

/-- Firmware writes a descriptor at the line that the channel's DESC register names, and writes GO (log entry 68). -/
def State.descGo (s : State) (c : ChanId) (w0 a b start count : Nat) : State :=
  let p := 64 * s.fld (chA c 0) 28 0
  let put (m : Memory) (k v : Nat) : Memory := memWrite m (p + 8 * k) v 8
  let m := put (put (put (put (put (put (put (put s.bmem 0 w0) 1 0) 2 a) 3 b) 4 start) 5 count) 6 0) 7 0
  (if s.bmIn (s.fld (chA c 0) 28 0) then { s with bmem := m } else s).chanGo c .ok

/-- The next part of the evacuation of firmware (R424 steps 2 and 3): BULK in recall mode over the banks of every node that is ON; then
a RECALL of one sector for each overflow way in turn. -/
def State.evacGo (s : State) : State :=
  let s := allNodes.foldl (fun s n => if s.live n then s.bulkBank n true else s) s
  let banks := allNodes.all fun n => !s.live n || !(s.nd n).bank.any fun e => entHolds e.2
  let idle := allCh.all fun c => (s.ch c).st != .run && (s.ch c).st != .preempted
  if !banks || !idle || !s.bit HA_OVF_CTRL 0 || s.fld HA_OVF_COUNT 31 0 == 0 then s
  else match s.ovfEntries.find? fun e => entHolds e.2, s.freeCh with
    | some e, some c => s.descGo c 2 (s.ovfSector (e.1 / 8) (bf e.2 19 0)) 0 0 1
    | _, _ => s

/-- One stage of SHUTDOWN: the request for EVACUATE, SELFTEST once no line is held, the commits once the run has ended. -/
def State.shutdown (s : State) : State :=
  match s.mbStage with
  | 0 =>
    if 3 < s.mbNum 16 1 ∨ 15 < s.mbNum 17 1 then s.mbSay 3
    else match s.mode with
      | .standby | .service | .degraded => { s.modeReq 8 with mbStage := 1 }
      | _ => s.mbSay 4
  | 1 =>
    if s.mode = .evacuate ∧ s.held ≠ 0 then s.evacGo
    else
      let t := s.shutTest
      if t.mode = .selftest then { t with mbStage := 2 } else t.mbReply 4 (t.regBytes HA_ST_STAT) false
  | _ =>
    if s.mode = .selftest then s
    else if s.mode = .standby ∧ s.fld HA_ST_STAT 2 0 = 5 then s.shutCommit
    else s.mbSay 8

/-- `SHUTDOWN` (R488). -/
def execMbShutdown (s : State) : Out := .next (s.mbServe 0x0011 fun _ s => s.shutdown).goOn

/-! ### Context tables (R489 to R491) -/

/-- The modes of CTX_SET, MAP_RUN and UNMAP_RUN. -/
def Mode.maps : Mode → Bool
  | .standby | .service | .degraded | .evacuate => true
  | _ => false

/-- The runs of a context. -/
def State.ctxRuns (s : State) (c : BitVec 16) : List Run :=
  let w := s.ctxWord c 0
  if bt w 0 then (List.range (bf w 24 8)).map fun j => s.runAt (bf (s.ctxWord c 1) 28 0) j else []

/-- Write word 0 of a context entry. -/
def State.ctxPut (s : State) (c : BitVec 16) (w : Nat) : State :=
  { s with bmem := memWrite s.bmem (2 ^ 21 * s.fld HA_CTX_BASE 13 0 + 32 * c.toNat) w 8 }

/-- CTX_SET (R489); `err` is how its block-memory and media accesses ended. A context that becomes valid has no run. -/
def State.mbCtxSet (s : State) (err : BmErr) : State :=
  let c : BitVec 16 := BitVec.ofNat 16 (s.mbNum 16 2)
  let b := s.mbNum 18 1
  let w := s.ctxWord c 0
  if 128 ≤ b then s.mbSay 3
  else if !s.mode.maps then s.mbSay 4
  else if !s.ctxIn c then (s.bmErrs .address).mbSay 8
  else if !bmGood err then (s.bmErrs err).mbSay 8
  else
    let s := s.bmErrs err
    let bound := s.sess.any fun e => e.2.ctx == c && e.2.st != .closed
    if b % 2 = 0 ∧ (bound = true ∨ s.ctxRuns c ≠ []) then s.mbSay 5
    else (s.ctxPut c (b + (if bt w 0 then bf w 24 8 * 2 ^ 8 else 0))).mbSay 0

/-- `CTX_SET` (R489). -/
def execCtxSet (err : BmErr) (s : State) : Out := .next (s.mbServe 0x0020 fun _ s => s.mbCtxSet err)

/-- Two runs overlap in context extents or in pool extents (R307). -/
def Run.overlaps (a b : Run) : Bool :=
  (decide (a.cidx < b.cidx + b.count) && decide (b.cidx < a.cidx + a.count))
    || (decide (a.pext < b.pext + b.count) && decide (b.pext < a.pext + a.count))

/-- A run record as 8 bytes (Table 10.2). -/
def Run.word (r : Run) : Nat := r.cidx + r.count * 2 ^ 16 + r.pext * 2 ^ 33

/-- Insert a run by its first context extent. -/
def runIns (r : Run) : List Run → List Run
  | [] => [r]
  | a :: l => if r.cidx < a.cidx then r :: a :: l else a :: runIns r l

/-- Write the runs of a context: the run table, the reverse index in order of pool extent, and RUN_COUNT. Both arrays stay at
their bases (log entry 67). -/
def State.runsPut (s : State) (c : BitVec 16) (rs : List Run) : State :=
  let base := bf (s.ctxWord c 1) 28 0
  let rev := bf (s.ctxWord c 2) 28 0
  let byPext := (rs.zipIdx.map fun p => (p.1.pext, p.2)).foldr insByFst []
  let m := rs.zipIdx.foldl (fun m p => memWrite m (64 * base + 8 * p.2) p.1.word 8) s.bmem
  let m := byPext.zipIdx.foldl (fun m p => memWrite m (64 * rev + 2 * p.2) p.1.2 2) m
  let s := { s with bmem := m }
  s.ctxPut c (setBf (s.ctxWord c 0) 24 8 rs.length).toNat

/-- The run a request names. -/
def State.mbRun (s : State) : Run := { cidx := s.mbNum 18 2, count := s.mbNum 20 4, pext := s.mbNum 24 4 }

/-- MAP_RUN (R490). -/
def State.mbMap (s : State) (err : BmErr) : State :=
  let c : BitVec 16 := BitVec.ofNat 16 (s.mbNum 16 2)
  let r := s.mbRun
  if !r.ok then s.mbSay 3
  else if !s.mode.maps then s.mbSay 4
  else if !s.ctxIn c then (s.bmErrs .address).mbSay 8
  else if !bmGood err then (s.bmErrs err).mbSay 8
  else
    let s := s.bmErrs err
    let rs := s.ctxRuns c
    if !bt (s.ctxWord c 0) 0 then s.mbSay 5
    else if rs.contains r then s.mbSay 0
    else if rs.any r.overlaps then s.mbSay 5
    else if 65536 ≤ rs.length then s.mbSay 6
    else (s.runsPut c (runIns r rs)).mbSay 0

/-- `MAP_RUN` (R490). -/
def execMapRun (err : BmErr) (s : State) : Out := .next (s.mbServe 0x0021 fun _ s => s.mbMap err)

/-- Extents that one RECALL descriptor covers. -/
def recallExts : Nat := 8192

/-- Start the RECALL of a part of a run: with XL 1 over its context extents, with XL 0 over its pool extents (R491). -/
def State.recallGo (s : State) (c : ChanId) (ctx : Nat) (r : Run) (xl : Bool) (done : Nat) : State :=
  let n := min recallExts (r.count - done) * 2 ^ 18
  if xl then s.descGo c (2 + 2 ^ 6) ctx ((r.cidx + done) * 2 ^ 18) 0 n
  else s.descGo c 2 ((r.pext + done) * 2 ^ 18) 0 0 n

/-- Remove a run and invalidate its translations (R491 steps 2 and 3). -/
def State.unmapMid (s : State) (c : BitVec 16) (r : Run) : State :=
  let s := s.runsPut c ((s.ctxRuns c).filter (· != r))
  let s := s.setRaw HA_XLT_ARG0 (BitVec.ofNat 32 (c.toNat + r.cidx * 2 ^ 16))
  let s := s.setRaw HA_XLT_ARG1 (BitVec.ofNat 32 (r.cidx + r.count - 1))
  { s with xltCmd := some 4 }.xltRun .ok

/-- One stage of UNMAP_RUN (R491): `mbStage` holds the phase, the channel and the extents recalled so far. -/
def State.mbUnmap (s : State) (err : BmErr) : State :=
  let c : BitVec 16 := BitVec.ofNat 16 (s.mbNum 16 2)
  let r := s.mbRun
  let ph := s.mbStage % 4
  let ch : ChanId := Fin.ofNat 16 (s.mbStage / 4 % 16)
  let done := s.mbStage / 64
  let at_ (p : Nat) (k : ChanId) (d : Nat) : Nat := p + 4 * k.val + 64 * d
  if ph = 0 then
    if !r.ok then s.mbSay 3
    else if !s.mode.maps then s.mbSay 4
    else if !s.ctxIn c then (s.bmErrs .address).mbSay 8
    else if !(s.ctxRuns c).contains r then s.mbSay 5
    else match s.freeCh with
      | none => s.mbSay 6
      | some k => { s.recallGo k c.toNat r true 0 with mbStage := at_ 1 k 0 }
  else match (s.ch ch).st with
    | .done =>
      let d := done + recallExts
      if d < r.count then { s.recallGo ch c.toNat r (ph == 1) d with mbStage := at_ ph ch d }
      else if ph = 1 then (if s.xltCmd.isSome then s else { (s.unmapMid c r).recallGo ch c.toNat r false 0 with mbStage := at_ 2 ch 0 })
      else if bmGood err then (s.bmErrs err).mbSay 0 else (s.bmErrs err).mbSay 8
    | .halted => s.mbSay 8
    | .idle => s.mbSay 8
    | _ => s

/-- `UNMAP_RUN` (R491). -/
def execUnmapRun (err : BmErr) (s : State) : Out := .next (s.mbServe 0x0022 fun _ s => s.mbUnmap err).goOn

/-! ### Migration (R492) -/

/-- A descriptor of a channel: OP MIGRATE not yet complete, with its SAVED. -/
def State.migLeft (s : State) (c : ChanId) : Option Nat :=
  let l := s.fld (chA c 0) 28 0
  let w (k : Nat) : Word := memGran s.bmem (8 * l + k)
  let saved := if bt (w 7) 32 then bf (w 7) 31 0 else bf (w 4) 31 0
  let e := s.plcEnt (bf (w 2) 19 0)
  if s.bmIn l ∧ bf (w 0) 3 0 = 1 ∧ saved < 1048576 ∧ bt e 0 = true ∧ bt e 1 = true ∧ bf e 45 42 = c.val ∧ bf e 41 22 = bf (w 2) 39 20
    then some saved else none

/-- Restart a migration from SAVED, rounded down (R333, R413); COUNT follows START (Table 10.7). -/
def State.migAgain (s : State) (c : ChanId) (saved : Nat) : State :=
  let p := 64 * s.fld (chA c 0) 28 0
  let st := saved / 4096 * 4096
  { s with bmem := memWrite (memWrite s.bmem (p + 32) st 8) (p + 40) (1048576 - st) 8 }.chanGo c .ok

/-- MIG_START for a unit that already moves to the same place by channel `c`: a stopped move goes on. -/
def State.migSame (s : State) (c : ChanId) (st : ChSt) (left : Option Nat) : State :=
  match st, left with
  | .idle, some k => (s.migAgain c k).mbReply 0 [BitVec.ofNat 8 c.val] false
  | _, _ => s.mbReply 0 [BitVec.ofNat 8 c.val] false

/-- MIG_START. -/
def State.mbMigStart (s : State) (err : BmErr) : State :=
  let ext := s.mbNum 16 4
  let dst := s.mbNum 20 4
  let ok (s : State) (c : Nat) : State := s.mbReply 0 [BitVec.ofNat 8 c] false
  if 1048576 ≤ ext ∨ 1048576 ≤ dst then s.mbSay 3
  else if !(s.mode == .service || s.mode == .degraded) then s.mbSay 4
  else if !s.bmIn (s.plcLine ext) then (s.bmErrs .address).mbSay 8
  else if !bmGood err then (s.bmErrs err).mbSay 8
  else
    let s := s.bmErrs err
    let e := s.plcEnt ext
    if bt e 0 && bt e 1 && bf e 41 22 == dst then
      s.migSame (Fin.ofNat 16 (bf e 45 42)) (s.ch (Fin.ofNat 16 (bf e 45 42))).st (s.migLeft (Fin.ofNat 16 (bf e 45 42)))
    else match s.freeCh with
      | none => s.mbSay 6
      | some c =>
        let s := s.descGo c 1 (ext + dst * 2 ^ 20) 0 0 1048576
        let x := s.ch c
        if x.st = .halted then s.mbSay (if x.cause = 8 then 5 else 8) else ok s c.val

/-- `MIG_START` (R492). -/
def execMigStart (err : BmErr) (s : State) : Out := .next (s.mbServe 0x0030 fun _ s => s.mbMigStart err).goOn

/-- The channel a request names, when it is one. -/
def State.mbChan (s : State) : Option ChanId := if s.mbNum 16 1 < 16 then some (Fin.ofNat 16 (s.mbNum 16 1)) else none

/-- `MIG_STATUS` (R484). -/
def execMigStatus (err : BmErr) (s : State) : Out :=
  .next (s.mbServe 0x0031 fun _ s => match s.mbChan with
    | none => s.mbSay 3
    | some c =>
      let l := s.fld (chA c 0) 28 0
      if !s.bmIn l then (s.bmErrs .address).mbSay 8
      else if !bmGood err then (s.bmErrs err).mbSay 8
      else
        let s := s.bmErrs err
        s.mbReply 0 (s.regBytes (chA c 2) ++ s.regBytes (chA c 3) ++ wordBytes (BitVec.ofNat 32 (memRead s.bmem (64 * l + 56) 4)) 4) false)

/-- The mode allows MIG_RESUME and MIG_STOP. -/
def State.migMode (s : State) : Bool := s.mode == .service || s.mode == .degraded

/-- MIG_RESUME, by the state of the channel. -/
def State.mbMigResume (s : State) (err : BmErr) : State :=
  match s.mbChan with
  | none => s.mbSay 3
  | some c =>
    if !s.migMode then s.mbSay 4
    else match (s.ch c).st with
      | .halted => (s.chanResume c).mbSay 0
      | .run | .preempted => s.mbSay 0
      | .idle =>
        if !bmGood err then (s.bmErrs err).mbSay 8
        else match s.migLeft c with
          | some k => ((s.bmErrs err).migAgain c k).mbSay 0
          | none => (s.bmErrs err).mbSay 5
      | .done => s.mbSay 5

/-- `MIG_RESUME` (R492). -/
def execMigResume (err : BmErr) (s : State) : Out := .next (s.mbServe 0x0032 fun _ s => s.mbMigResume err).goOn

/-- MIG_STOP, by the state of the channel. -/
def State.mbMigStop (s : State) : State :=
  match s.mbChan with
  | none => s.mbSay 3
  | some c =>
    if !s.migMode then s.mbSay 4
    else match (s.ch c).st with
      | .run | .preempted => (s.chanStop c).mbSay 0
      | .halted => s.mbSay (if (s.ch c).cause = 10 then 0 else 5)
      | .idle => s.mbSay (if (s.migLeft c).isSome then 0 else 5)
      | .done => s.mbSay 5

/-- `MIG_STOP` (R492). -/
def execMigStop (s : State) : Out := .next (s.mbServe 0x0033 fun _ s => s.mbMigStop).goOn

/-! ### Power (R493) -/

/-- `SET_POWER` (R493): LIMIT 40 to 192 and CODE up to 200 (Tables 12.6 and 12.7), or nothing is written. -/
def execSetPower (s : State) : Out :=
  .next (s.mbServe 0x0040 fun _ s =>
    let l := s.mbNum 16 2
    let c := s.mbNum 18 1
    if l < 40 ∨ 192 < l ∨ 200 < c then s.mbSay 3
    else ((s.setFld HA_PWR_CAP 8 0 l).setFld HA_PWR_VREQ 7 0 c).mbSay 0)

/-- The buddy of a quadrant (R379). -/
def buddy (q : QuadId) : QuadId := Fin.ofNat 4 (q.val ^^^ 1)

/-- Write QUENCH on every node of a quadrant that is in service. -/
def State.quenchQuad (s : State) (q : QuadId) (v : BitVec 32) : State :=
  (nodesOf q).foldl (fun s n => if s.inService n then s.quenchSet n v else s) s

/-- Every node in service of a quadrant is quenched and holds no tracker (R379 steps 1 and 2). -/
def State.quadIdle (s : State) (q : QuadId) : Bool :=
  (nodesOf q).all fun n => !s.inService n || (s.quenched n && (s.nd n).trkInUse == 0)

/-- BULK over the banks of a quadrant, in spill mode where the overflow directory is in use and in recall mode otherwise (R379
step 3). -/
def State.bulkQuad (s : State) (q : QuadId) : State :=
  (nodesOf q).foldl (fun s n => if s.inService n then s.bulkBank n (!s.bit HA_OVF_CTRL 0) else s) s

/-- Every node in service of a quadrant is quenched, holds no tracker and has an empty bank (R379 steps 1 to 3). -/
def State.quadQuiet (s : State) (q : QuadId) : Bool :=
  (nodesOf q).all fun n => !s.inService n || (s.quenched n && (s.nd n).trkInUse == 0 && (s.nd n).validCount == 0)

/-- Write the shadow home map slot by slot. -/
def State.homeWrite (s : State) (f : Nat → NodeId) : State :=
  (List.range 128).foldl (fun s i => s.setFld (HA_HOME_MAP + 4 * (i / 4)) (8 * (i % 4) + 4) (8 * (i % 4)) (f i).val) s

/-- Set or clear the shadow sink bits of a quadrant. -/
def State.sinkQuad (s : State) (q : QuadId) (v : Nat) : State :=
  (nodesOf q).foldl (fun s n => s.setFld HA_FAB_SINK n.val n.val v) s

/-- Move the slots of a quadrant to its buddy, and sink its nodes (R379 step 4). -/
def State.slotsAway (s : State) (q : QuadId) : State :=
  let f (i : Nat) : NodeId := if quadOf (s.shadowSlot i) = q then Fin.ofNat 32 ((s.shadowSlot i).val ^^^ 8) else s.shadowSlot i
  (s.homeWrite f).sinkQuad q 1

/-- Return the slots that the reset map gives a quadrant, and clear its sink bits (R384). -/
def State.slotsBack (s : State) (q : QuadId) : State :=
  let f (i : Nat) : NodeId := let n : NodeId := Fin.ofNat 32 (i % s.nodesN); if quadOf n = q then n else s.shadowSlot i
  (s.homeWrite f).sinkQuad q 0

/-- The answer of GATE with QD_PWR_STAT. -/
def State.gateSay (s : State) (q : QuadId) (status : Nat) : State := s.mbReply status (s.regBytes (qdA q QD_PWR_STAT)) false

/-- The epoch change of a GATE was refused. -/
def State.epRejected (s : State) : Bool := s.bit HA_FAB_EPOCH 5 || s.bit HA_FAB_EPOCH 6

/-- Steps 2 and 3 of R379 on two quadrants, the second only if `both`: once they are idle the banks are emptied, again while entries
are left that an eviction put back; `go` is what follows. -/
def State.gateDrain (s : State) (q r : QuadId) (both : Bool) (go : State → State) : State :=
  let ok (f : QuadId → Bool) : Bool := f r && (!both || f q)
  if ok s.quadQuiet && !s.bit HA_FAB_EPOCH 1 then go s
  else if ok s.quadIdle then (let s := s.bulkQuad r; if both then s.bulkQuad q else s)
  else s

/-- One stage of GATE (R379, R384, R493). -/
def State.mbGate (s : State) : State :=
  let q : QuadId := Fin.ofNat 4 (s.mbNum 16 1)
  let up := s.mbNum 17 1 == 1
  match s.mbStage with
  | 0 =>
    if 3 < s.mbNum 16 1 ∨ 1 < s.mbNum 17 1 then s.mbSay 3
    else if !s.migMode then s.mbSay 4
    else if up then
      if s.ungateRej q = 0 then { s.ungateGo q with mbStage := 4 } else (s.ungateGo q).gateSay q 5
    else if (s.qd q).pwr ≠ .on ∨ s.qEnabled q = false then (s.gateGo q).gateSay q 5
    else { (s.quenchQuad q 1).quenchQuad (buddy q) 1 with mbStage := 1 }
  | 1 =>
    s.gateDrain q (buddy q) true fun s => { (s.slotsAway q).epGo .chervil with mbStage := 2 }
  | 2 =>
    if s.bit HA_FAB_EPOCH 1 then s
    else
      let s := s.quenchQuad (buddy q) 0
      if s.epRejected then s.gateSay q 5
      else
        if s.gateRej q = 0 then { s.gateGo q with mbStage := 3 } else (s.gateGo q).gateSay q 5
  | 3 => if (s.qd q).pwr = .off then s.gateSay q 0 else s
  | 4 =>
    if (s.qd q).pwr = .on then { s.quenchQuad (buddy q) 1 with mbStage := 5 }
    else if (s.qd q).pwr = .off then s.gateSay q 8 else s
  | 5 => s.gateDrain q (buddy q) false fun s => { (s.slotsBack q).epGo .chervil with mbStage := 6 }
  | _ =>
    if s.bit HA_FAB_EPOCH 1 then s
    else
      let s := (s.quenchQuad (buddy q) 0).quenchQuad q 0
      s.gateSay q (if s.epRejected then 5 else 0)

/-- `GATE` (R493). -/
def execMbGate (s : State) : Out := .next (s.mbServe 0x0041 fun _ s => s.mbGate).goOn

end Sys2Proof.Machine
end

