-- ==== Sys2Proof/Machine/RegPort.lean ====
section
/-! DEFINITION. Sys2Proof/Machine/RegPort.lean: a register write from any source (R10 to R14, R51, R501, R502): every
register whose write acts goes to its own operation, the others store their fields. -/

namespace Sys2Proof.Machine

/-- A write of the register at `a` by a source that may make it. -/
def State.regSet (s : State) (src : Src) (a : Nat) (v : BitVec 32) : State :=
  if a = HA_MODE_REQ then s.modeReq (bf v 3 0)
  else if a = HA_RST_REQ then s.rstReq v
  else if a = HA_WDOG then s.wdogWrite v
  else if a = HA_BOOT_CTRL then s.bootCtrl v
  else if a = HA_MB_DOORBELL then s.mbDoor src v
  else if a = HA_MB_COMPLETE then s.mbComp src v
  else if a = HA_MEAS_EXT_GO then s.extGo src v
  else s.regPut src a v

/-- A write at `a`, with the checks of R14, R501 and R502: a register, or the aperture. -/
def State.regTo (s : State) (src : Src) (a : Nat) (v : BitVec 32) : State :=
  if 0x300000 ≤ a ∧ a < 0x400000 then
    s.regAccIf src a true (s.closed a || !srcPriv src) fun s => (0, s.apWrite src (a - 0x300000) v)
  else s.regDo src a true fun s => s.regSet src a v

/-- The read data of an access at `a` that may be made: the aperture, the recorder's window, whose answer is a free value, or
a register, which a read leaves as it is (R451, R511, Table 0.4). -/
def State.regGet (s : State) (src : Src) (a : Nat) : BitVec 32 × State :=
  if 0x300000 ≤ a ∧ a < 0x400000 then s.apRead src (a - 0x300000)
  else if HA_EV_WIN ≤ a ∧ a < HA_EV_WIN + 64 then
    let r := s.freeWord
    r.2.evWin ((a - HA_EV_WIN) / 4) false 0 (r.1.setWidth 32)
  else (s.readReg a, s)

/-- A read at `a`, with the checks of R14, R501 and R502. -/
def State.regRd (s : State) (src : Src) (a : Nat) : State :=
  if 0x300000 ≤ a ∧ a < 0x400000 then s.regAccIf src a false (s.closed a || !srcPriv src) fun s => s.regGet src a
  else s.regAcc src a false fun s => s.regGet src a

/-- An access of the register port (R51): a misaligned or partial one answers with an error and is ignored. -/
def State.portAcc (s : State) (a : Nat) (wr : Bool) (v : BitVec 32) (be : BitVec 4) (priv : Bool) : State :=
  if s.mode = .off ∨ 4 ≤ s.cfg.length then s
  else if a % 4 ≠ 0 ∨ be ≠ 15 then (s.accErr 1 a wr priv).cfgNote a wr priv (some (true, 0))
  else if wr then (s.regTo (.port priv) a v).goOn
  else s.regRd (.port priv) a

/-- `REGISTER_WRITE` (R11, R12, R51): a request of the register port, a read when it carries no write data (log entry 112). -/
def execRegisterWrite (addr : BitVec 24) (wdata : Option (BitVec 32)) (be : BitVec 4) (priv : Bool) (s : State) : Out :=
  .next (s.portAcc addr.toNat wdata.isSome (wdata.getD 0) be priv)

end Sys2Proof.Machine
end

