-- ==== Sys2Proof/Machine/Completion.lean ====
section
/-! DEFINITION. Sys2Proof/Machine/Completion.lean: a sent access completes at its endpoint (R226, R227, R287, R288, R299), or
its limit passes (R226, R299, R300). -/

namespace Sys2Proof.Machine

/-! ### Endpoints -/

/-- An access of core `c` reaches its endpoint: none in a gated domain or behind a sinking port answers (R226, R363); an
engine's own scratch is not behind the fabric. -/
def State.reaches (s : State) (c : CoreId) (r : Reg) : Bool :=
  match r with
  | .scr n _ => c == .node n || (s.live n && !s.sunk n)
  | .prog n _ => s.live n && !s.sunk n
  | .reg a => !s.sunkAt a
  | _ => true

/-- The access is absorbed by a sinking port (R363). -/
def State.absorbed (s : State) (c : CoreId) (r : Reg) : Bool :=
  match r.nodeOf with
  | some n => s.sunk n && !s.reaches c r
  | none => false

/-- The source of a register access by a thread of a core, at an instruction index (R502). -/
def srcOf (c : CoreId) (pc : Nat) : Src :=
  match c with
  | .node n => .engine n
  | .chervil => if pc < 0x4000 then .bootRom else .chervil

/-- Words of the recorder window. -/
def isEvWin (a : Nat) : Bool := decide (HA_EV_WIN ≤ a) && decide (a < HA_EV_WIN + 64)

/-- A load from register space (R14, R51, R501, R502): zero where it is turned away. -/
def State.regFrom (s : State) (src : Src) (a : Nat) : BitVec 32 × State :=
  let ap := decide (0x300000 ≤ a) && decide (a < 0x400000)
  let denied := if ap then s.closed a || !srcPriv src else s.regDenied src a false
  if denied then (0, s.accErr 1 a false true) else s.regGet src a

/-! ### Performing an access -/

/-- Change a core's memory through a function that also says what was corrected and what could not be read; the registers of
the issuing core record both (R227). -/
def State.storeEcc (s : State) (t : Thr) (pc : Nat) (r : EccMem × Bool × Bool) (put : State → EccMem → State) : State :=
  (put s r.1).scrErrs t pc r.2.1 r.2.2

/-- Perform a buffered store at its endpoint; block memory has its own port. -/
def State.perform (s : State) (t : Thr) (e : SbEnt) : State :=
  match regOfCanon e.addr with
  | .scr n o => s.storeEcc t e.pc ((s.nd n).core.data.writeLine (o / 64) e.mask e.data) fun s m =>
      s.setCore (.node n) ((s.nd n).core.setData m)
  | .chvRam o => s.storeEcc t e.pc (s.chv.data.writeLine (o / 64) e.mask e.data) fun s m =>
      s.setCore .chervil (s.chv.setData m)
  | .prog n o => s.storeEcc t e.pc ((s.nd n).core.code.writeLine (o / 64) e.mask e.data) fun s m =>
      s.setCore (.node n) ((s.nd n).core.setCode m)
  | .chvProg o => s.storeEcc t e.pc (s.chv.code.writeLine (o / 64) e.mask e.data) fun s m =>
      s.setCore .chervil (s.chv.setCode m)
  | .reg a => s.regTo (srcOf t.core e.pc) a (BitVec.ofNat 32 (e.value a 4).toNat)
  | .bm _ => s

/-- Deliver a message: a report goes to the channel unit (R329), any other takes an inbox slot; none when every slot is
full (R359). -/
def State.deliverMgt (s : State) (t : Thr) (e : SbEnt) : Option State :=
  if e.dst = .chervil ∧ bf e.data 7 0 = 0xD0 then some (s.dmaMsg e.data)
  else s.inboxPut e.dst (senderCode t.core) e.data

/-- A management message reaches its receiver's node. -/
def State.mgtReaches (s : State) (d : CoreId) : Bool :=
  match d with
  | .node n => s.live n && !s.sunk n
  | .chervil => true

/-- The block-memory tag of a thread's access: that of buffer entry `id`, or of the load or AMO it waits for. -/
def State.accTag (s : State) (t : Thr) (id : Option Nat) : Option (Nat × BmReq) :=
  (s.bm.findSome? fun o => match o.2 with
    | some r => if r.why = .acc t id then some (o.1, r) else none
    | none => none)

/-- The block-memory request of a thread's access ends. -/
def State.accBm (s : State) (t : Thr) (id : Option Nat) (rsp : BmErr) : State :=
  match s.accTag t id with
  | some (tag, r) =>
    if rsp = .timeout ∧ s.past r.at_ 10000 = false then s
    else s.bmDone tag (if r.wr then 0 else memLine s.bmem r.line) rsp
  | none => s

/-! ### Completion (R287) -/

/-- Buffer entry `e` of thread `t` completes; `earlier` are the entries before it, which complete first where the target is
the same (Table 9.2). -/
def State.sbComplete (s : State) (t : Thr) (earlier : List SbEnt) (e : SbEnt) (rsp : BmErr) : State :=
  if e.sent.isNone || e.via == some false || earlier.any (fun b => b.target == e.target) then s
  else match e.kind with
  | .mwr => s
  | .mgt =>
    if e.via.isNone && !s.mgtReaches e.dst then
      (match e.dst with | .node n => if s.sunk n then s.raise HA_FAB_ERR 5 else s | .chervil => s)
    else if e.nak.isSome then s
    else match s.deliverMgt t e with
      | some s => s.dropSb t e.id
      | none => s
  | .st =>
    let r := regOfCanon e.addr
    match r with
    | .bm _ => s.accBm t (some e.id) rsp
    | _ =>
      if e.via.isSome || s.reaches t.core r then (s.perform t e).dropSb t e.id
      else if s.absorbed t.core r then s.raise HA_FAB_ERR 5 else s

/-- The load or AMO that thread `t` waits for completes. -/
def State.pendComplete (s : State) (t : Thr) (rsp : BmErr) : State :=
  let via := (s.thr t).via
  if via = some false then s else
  match (s.thr t).pend with
  | .load rd w ea (some _) =>
    match s.regionOf t.core ea with
    | some (.bm _) => s.accBm t none rsp
    | some (.reg a) =>
      if via.isNone && s.sunkAt a then s.raise HA_FAB_ERR 5
      else
        let v := s.regFrom (srcOf t.core (s.thr t).pc) a
        v.2.pendOk t rd (v.1.setWidth 64)
    | some r =>
      if via.isNone && !s.reaches t.core r then (if s.absorbed t.core r then s.raise HA_FAB_ERR 5 else s)
      else match r.ramOf with
        | some (c, o) =>
          let v := s.ramRead t c o w
          match v.1 with
          | some d => v.2.pendOk t rd d
          | none => v.2.pendTrap t 7 ea
        | none => s
    | none => s
  | .amo rd fn v cmp ea (some _) =>
    match s.regionOf t.core ea with
    | some (.bm _) => s.accBm t none rsp
    | some r =>
      if via.isNone && !s.reaches t.core r then (if s.absorbed t.core r then s.raise HA_FAB_ERR 5 else s)
      else match r.ramOf with
        | some (c, o) =>
          let q := s.ramAmo t c o fn v cmp
          match q.1 with
          | some old => q.2.pendOk t rd old
          | none => q.2.pendTrap t 7 ea
        | none => s
    | none => s
  | _ => s

/-- The thread's core has power: a gated engine's accesses are lost with it. -/
def State.accLive (s : State) (t : Thr) : Bool :=
  match t.core with
  | .node n => s.live n
  | .chervil => s.mode != .off

/-- `ACCESS_COMPLETION` (R287). -/
def execAccessCompletion (t : Thr) (k : AccSel) (rsp : BmErr) (s : State) : Out :=
  .next (if !s.accLive t then s
    else match k with
      | .pend => (s.pendComplete t rsp).pendAll.goOn
      | .sb i =>
        let l := (s.thr t).sb
        match (l.drop i.val).head? with
        | some e => (s.sbComplete t (l.take i.val) e rsp).pendAll.goOn
        | none => s)

/-! ### Timeouts (R226, R299, R300) -/

/-- Discarded stores are performed once their endpoints answer, or never, or wait on; which is open (R300). -/
def State.lateAll (s : State) : State :=
  s.late.foldl (fun s e =>
    let v := (Config.freeValue s.free).toNat % 3
    let s : State := { s with free := s.free + 1 }
    if v = 0 then { s with late := s.late ++ [e] }
    else if v = 1 then s
    else if s.reaches e.1.core (regOfCanon e.2.addr) then s.perform e.1 e.2
    else { s with late := s.late ++ [e] }) { s with late := [] }

/-- The limit of a sent entry passes: it is discarded with ST_TMO, and may still be performed or never (R226, R300). -/
def State.sbLate (s : State) (t : Thr) (e : SbEnt) : State :=
  let late (s : State) : State := (s.discardAll t e).engErr t 4 3 e.pc
  match e.kind with
  | .mgt | .mwr => late s
  | .st =>
    match regOfCanon e.addr with
    | .bm _ => s
    | _ =>
      let s := late s
      { s with late := s.late ++ [(t, e)] }

/-- The limit of the load or AMO of thread `t` passes: LOAD_TMO; an AMO may or may not have changed memory (R226). -/
def State.pendLate (s : State) (t : Thr) : State :=
  let fail (s : State) (ea : Nat) : State := (s.engErr t 5 4 (s.thr t).pc).pendTrap t 10 ea
  match (s.thr t).pend with
  | .load _ _ ea (some u) => match s.regionOf t.core ea with
    | some (.bm _) => s
    | _ => if s.past u 0 then fail s ea else s
  | .amo _ fn v cmp ea (some u) =>
    match s.regionOf t.core ea with
    | some (.bm _) => s
    | some r =>
      if !s.past u 0 then s
      else match r.ramOf with
        | some (c, o) =>
          let k := s.choose
          let s := if k.1 && s.reaches t.core r then (k.2.ramAmo t c o fn v cmp).2 else k.2
          fail s ea
        | none => fail s ea
    | none => s
  | _ => s

/-- `ACCESS_TIMEOUT` (R226, R299). -/
def execAccessTimeout (t : Thr) (k : AccSel) (s : State) : Out :=
  .next (if !s.accLive t then s
    else match k with
      | .pend => (s.pendLate t).pendAll.goOn
      | .sb i =>
        match ((s.thr t).sb.drop i.val).head? with
        | some e => match e.sent with
          | some u => if s.past u 0 then (s.sbLate t e).pendAll.goOn else s
          | none => s
        | none => s)

end Sys2Proof.Machine
end

