-- ==== Sys2Proof/Machine/FabricRows.lean ====
section
/-! DEFINITION. Sys2Proof/Machine/FabricRows.lean: packets in the fabric: routes and virtual channels (R345 to R348), header
checks (R352), losses (R354), buffers and arbitration (R355 to R358), endpoint queues (R367 to R370). Packets of flits exist
for the commands of this file; the other commands deliver a message as one step (log entry 71). -/

namespace Sys2Proof.Machine

/-! ### Flits (Tables 11.3, 11.4) -/

/-- Header bits [87:0] of a flit. -/
def flitHdr (f : Flit) : BitVec 88 := BitVec.ofNat 88 f.toNat
/-- A flit with a header and its fresh check. -/
def flitSeal (f : Flit) (h : BitVec 88) : Flit := setBf (setBf f 87 0 h.toNat) 95 88 (secdedCheck 88 h.toNat)
/-- What the check of a flit header says, and the corrected header (R352). -/
def flitCheck (f : Flit) : Ecc × BitVec 88 :=
  let h := flitHdr f
  let e := eccClass 88 (secdedCheck 88 h.toNat ^^^ bf f 95 88)
  (e, eccFix h e)
/-- CLASS. -/
def hClass (h : BitVec 88) : Nat := bf h 2 0
/-- DST and SRC. -/
def hDst (h : BitVec 88) : NodeId := Fin.ofNat 32 (bf h 8 4)
/-- Source router. -/
def hSrc (h : BitVec 88) : NodeId := Fin.ofNat 32 (bf h 14 10)
/-- HOPS. -/
def hHops (h : BitVec 88) : Nat := bf h 20 18
/-- KIND. -/
def hKind (h : BitVec 88) : Nat := bf h 28 21

/-- The class of a KIND (Table 11.4); none for a KIND that is never sent. -/
def kindClass (k : Nat) : Option Nat :=
  if 0x01 ≤ k ∧ k ≤ 0x0A then some 0
  else if k = 0x10 then some 1
  else if 0x20 ≤ k ∧ k ≤ 0x2A then some 2
  else if 0x30 ≤ k ∧ k ≤ 0x33 then some 3
  else if 0x40 ≤ k ∧ k ≤ 0x44 then some 4
  else none

/-- The bytes the CRC of a flit covers: 0 to 75, with VC, HOPS and HCHK as zero. -/
def crcBytes (f : Flit) : List Byte :=
  let f := setBf (setBf (setBf f 3 3 0) 20 18 0) 95 88 0
  (List.range 76).map fun i => byteOf f i
/-- A flit passes its CRC (R353). -/
def flitCrcOk (f : Flit) : Bool := (crc32 (crcBytes f)).toNat == bf f 639 608

/-! ### Packets of a message (R351) -/

/-- Where a packet goes or comes from: a router, and whether its attach port. -/
abbrev PortOf := NodeId × Bool

/-- A flit of a message: header, payload, CRC and header check (Table 11.3). -/
def mkFlit (kind : Nat) (src dst : PortOf) (ctag addr : Nat) (two last : Bool) (payload : BitVec 512) : Flit :=
  let h : BitVec 88 := BitVec.ofNat 88 ((kindClass kind).getD 0 + dst.1.val * 2 ^ 4 + b2n dst.2 * 2 ^ 9 + src.1.val * 2 ^ 10
    + b2n src.2 * 2 ^ 15 + b2n two * 2 ^ 16 + b2n last * 2 ^ 17 + kind * 2 ^ 21 + ctag % 8192 * 2 ^ 29 + addr % 2 ^ 40 * 2 ^ 42)
  let f : Flit := BitVec.ofNat 640 (h.toNat + payload.toNat * 2 ^ 96)
  flitSeal (setBf f 639 608 (crc32 (crcBytes f)).toNat) h

/-- A packet of a message: its header flit, and a second flit where it carries a line (R351). -/
def mkPacket (kind : Nat) (src dst : PortOf) (ctag addr : Nat) (msg : BitVec 512) (line : Option Line) : List Flit :=
  match line with
  | none => [mkFlit kind src dst ctag addr false true msg]
  | some l => [mkFlit kind src dst ctag addr true false msg, mkFlit kind src dst ctag addr true true l]

/-- HREQ, or HREQ_D for a write: request header, ledger tag, and for a write its mask and poison (Table 11.4). -/
def hostPacket (p : HpId) (i : Nat) (e : LedEnt) (n : NodeId) : List Flit :=
  let src : PortOf := (Fin.ofNat 32 (2 * p.val), true)
  let wr := hdrOpc e.hdr == 0x18 || hdrOpc e.hdr == 0x19
  let m := e.hdr.toNat + e.tag.toNat * 2 ^ 128
  if wr then mkPacket 2 src (n, false) i e.pla.toNat (BitVec.ofNat 512 (m + e.be.toNat * 2 ^ 192 + b2n e.poison * 2 ^ 256)) (some e.data)
  else mkPacket 1 src (n, false) i e.pla.toNat (BitVec.ofNat 512 m) none

/-- MRD, MWR or MSYNC: the media request header, and the line of a write (Tables 3.13, 11.4). -/
def mediaPacket (src : PortOf) (m : MpId) (i : Nat) (g : Mtag) : List Flit :=
  let dst : PortOf := (Fin.ofNat 32 (4 * m.val + 1), true)
  let hd := BitVec.ofNat 512 (g.hdr i).toNat
  match g.kind with
  | .rd => mkPacket 3 src dst i (g.maddr.toNat / 64) hd none
  | .wr => mkPacket 4 src dst i (g.maddr.toNat / 64) hd (some g.data)
  | .sync => mkPacket 5 src dst i 0 hd none

/-- MGT: the 64 bytes of a management message (Table 11.4). -/
def mgtPacket (src dst : PortOf) (d : Line) : List Flit := mkPacket 0x40 src dst 0 0 d none

/-- The attach or local port of a core. -/
def corePort : CoreId → PortOf
  | .node n => (n, false)
  | .chervil => (19, true)

/-! ### Routes (R345 to R348) -/

/-- Coordinates of a router. -/
def rX (r : NodeId) : Nat := r.val % 8
/-- Its row. -/
def rY (r : NodeId) : Nat := r.val / 8

/-- The direction of a packet on X and on Y (R347). -/
def xDir (src dst : NodeId) : Option RtrPort :=
  let d := (rX dst + 8 - rX src) % 8
  let tie := (rX src + rY src) % 2 == 0
  if d = 0 then none else if d < 4 ∨ (d = 4 ∧ tie = true) then some .xp else some .xm
/-- The direction on Y. -/
def yDir (src dst : NodeId) : Option RtrPort :=
  let d := (rY dst + 4 - rY src) % 4
  let tie := (rX src + rY src) % 2 == 0
  if d = 0 then none else if d < 2 ∨ (d = 2 ∧ tie = true) then some .yp else some .ym

/-- Hops of a route (R347). -/
def hopsOf (src dst : NodeId) : Nat :=
  let dx := (rX dst + 8 - rX src) % 8
  let dy := (rY dst + 4 - rY src) % 4
  min dx (8 - dx) + min dy (4 - dy)

/-- The output port of a packet at router `r`: all X hops, then all Y hops, then the endpoint. -/
def routeOut (r src dst : NodeId) (att : Bool) : RtrPort :=
  if rX r ≠ rX dst then ((xDir src dst).or (xDir r dst)).getD .loc
  else if rY r ≠ rY dst then ((yDir src dst).or (yDir r dst)).getD .loc
  else if att then .att else .loc

/-- The router a ring port leads to; the router itself for the endpoint ports. -/
def linkTo (r : NodeId) : RtrPort → NodeId
  | .xp => Fin.ofNat 32 (8 * rY r + (rX r + 1) % 8)
  | .xm => Fin.ofNat 32 (8 * rY r + (rX r + 7) % 8)
  | .yp => Fin.ofNat 32 ((r.val + 8) % 32)
  | .ym => Fin.ofNat 32 ((r.val + 24) % 32)
  | .loc | .att => r

/-- The port at the other end of a ring link. -/
def portBack : RtrPort → RtrPort
  | .xp => .xm | .xm => .xp | .yp => .ym | .ym => .yp | .loc => .loc | .att => .att

/-- A ring port. -/
def isRing : RtrPort → Bool
  | .loc | .att => false
  | _ => true

/-- Two ports of one dimension. -/
def sameDim : RtrPort → RtrPort → Bool
  | .xp, .xp | .xp, .xm | .xm, .xp | .xm, .xm | .yp, .yp | .yp, .ym | .ym, .yp | .ym, .ym => true
  | _, _ => false

/-- A hop out of router `r` crosses the dateline of its dimension (R348). -/
def crossesDateline (r : NodeId) : RtrPort → Bool
  | .xp => rX r == 7
  | .xm => rX r == 0
  | .yp => rY r == 3
  | .ym => rY r == 0
  | _ => false

/-- The virtual channel of the next hop (R348). -/
def nextVc (r : NodeId) (inp out : RtrPort) (vc : Nat) : Nat :=
  if crossesDateline r out then 1 else if sameDim inp out then vc else 0

/-- The endpoint at a router's attach port (Table 11.1). -/
def attachAt (r : NodeId) : Option Endpoint :=
  if r.val % 2 = 0 then some (.hp (Fin.ofNat 16 (r.val / 2)))
  else if r.val % 4 = 1 then some (.mp (Fin.ofNat 8 (r.val / 4)))
  else match r.val with
    | 3 => some .bm
    | 11 => some .cfg
    | 19 => some .chv
    | 27 => some .sys
    | _ => none

/-- The router of an endpoint. -/
def epRouter : Endpoint → NodeId
  | .node n => n
  | .hp p => Fin.ofNat 32 (2 * p.val)
  | .mp m => Fin.ofNat 32 (4 * m.val + 1)
  | .bm => 3 | .cfg => 11 | .chv => 19 | .sys => 27

/-- An endpoint port of a router sinks (R363); a port disabled by the repair map behaves as one above its strapped count (Table
16.4). -/
def State.portSinks (s : State) (r : NodeId) : RtrPort → Bool
  | .loc => s.sunk r
  | .att => match attachAt r with
    | none => true
    | some (.hp p) => !s.hpUse p
    | some (.mp m) => !s.mpUse m
    | some _ => false
  | _ => false

/-! ### Losses (R354) -/

/-- A packet is lost: its error with its capture, and the full reset that LOSS_RST asks for. Causes 1 to 4 are HDR_UCE, CRC,
MISROUTE and QLEN (Tables 11.11, 11.12). -/
def State.packetLoss (s : State) (r : NodeId) (cause : Nat) (h : BitVec 88) : State :=
  let s := (s.capture HA_FAB_ERR_CAP 25 HA_FAB_ERR_TS
    (r.val + cause * 2 ^ 5 + hClass h * 2 ^ 8 + (hSrc h).val * 2 ^ 11 + bf h 15 15 * 2 ^ 16 + hKind h * 2 ^ 17)).raise HA_FAB_ERR cause
  if s.bit HA_FAB_CTRL 0 then s.fullReq 4 else s

/-! ### Routers (R352, R355 to R358, R363) -/

/-- The number of a router port. -/
def portIx : RtrPort → Nat
  | .xp => 0 | .xm => 1 | .yp => 2 | .ym => 3 | .loc => 4 | .att => 5

/-- Packets of a router output. -/
def State.outAt (s : State) (r : NodeId) (o : RtrPort) : List RPkt := smGet (fun _ => []) s.rout (8 * r.val + portIx o)
/-- Replace them. -/
def State.setOut (s : State) (r : NodeId) (o : RtrPort) (l : List RPkt) : State :=
  { s with rout := smSet (fun _ => []) s.rout (8 * r.val + portIx o) l }

/-- The first header of a packet in a router. -/
def RPkt.hdr (k : RPkt) : BitVec 88 := flitHdr (k.flits.headD 0)

/-- Two headers belong to one flow of R349: class, source and destination endpoint. -/
def sameFlow (a b : BitVec 88) : Bool := hClass a == hClass b && bf a 15 4 == bf b 15 4

/-- Flits in the shared pool of an input port: those beyond the first packet of each class and virtual channel (R355). -/
def poolFlits (l : List RPkt) : Nat :=
  (List.range 10).foldl (fun n i =>
    n + (((l.filter fun k => hClass k.hdr == i / 2 && k.vc == i % 2).drop 1).map fun k => k.flits.length).sum) 0

/-- The packets that router `r` holds from one input port. -/
def State.heldFrom (s : State) (r : NodeId) (inp : RtrPort) : List RPkt :=
  ([RtrPort.xp, .xm, .yp, .ym, .loc, .att].flatMap fun o => s.outAt r o).filter fun k => k.inp == inp

/-- A ring input port has room for a packet of class `c` on channel `vc` (R355). -/
def State.roomIn (s : State) (r : NodeId) (inp : RtrPort) (c vc n : Nat) : Bool :=
  let l := s.heldFrom r inp
  !(l.any fun k => hClass k.hdr == c && k.vc == vc) || (c != 4 && decide (poolFlits l + n ≤ 16))

/-! ### Arbitration (R349, R356) -/

/-- The rank of a packet at an output; an aged one stands before every rank but Management. -/
def RPkt.rank (k : RPkt) (aged : Bool) : Nat :=
  match hClass k.hdr with
  | 4 => 0
  | c => if aged then 1 else match c with
    | 2 | 3 => 2
    | 1 => 3
    | _ => 4

/-- Ticks a packet has waited: fewer than 5 are fewer than 64 link cycles at every rate of Table 11.6, 11 are at least 64 (log entry
123). -/
def State.waited (s : State) (k : RPkt) : Nat := s.tmo - k.at_

/-- The packet that output `o` of router `r` sends next, among those that `ok` lets move: never one ahead of an earlier packet of its
flow (R349); by rank, then by the rotation of input ports, then the first that came (R356). Between 5 and 10 ticks it is open whether
the 64 link cycles have passed. -/
def State.arbPick (s : State) (r : NodeId) (o : RtrPort) (ok : RPkt → Bool) : Option (Nat × RPkt) × State :=
  let l := s.outAt r o
  let c := if l.any fun k => decide (5 ≤ s.waited k) && decide (s.waited k ≤ 10) then s.choose else (false, s)
  let aged (k : RPkt) : Bool := decide (11 ≤ s.waited k) || (decide (5 ≤ s.waited k) && c.1)
  let last := smGet (fun _ => 5) s.rotLast (8 * r.val + portIx o)
  let cost (k : RPkt) : Nat := 6 * k.rank (aged k) + (portIx k.inp + 5 - last) % 6
  let first (a : Nat × RPkt) : Bool := !(l.take a.1).any fun j => sameFlow j.hdr a.2.hdr
  let can := (l.zipIdx.map fun a => (a.2, a.1)).filter fun a => ok a.2 && first a
  (can.foldl (fun b a => match b with
    | none => some a
    | some q => if cost a.2 < cost q.2 then some a else b) none, c.2)

/-- Packet `i` leaves an output, and its input port has had its turn. -/
def State.outTook (s : State) (r : NodeId) (o : RtrPort) (i : Nat) (k : RPkt) : State :=
  { s.setOut r o ((s.outAt r o).eraseIdx i) with
    rotLast := smSet (fun _ => 5) s.rotLast (8 * r.val + portIx o) (portIx k.inp) }

/-- Flits that were sent arrive: unchanged, or with errors that a check finds (R352, R353). -/
def arrives (sent got : List Flit) : Bool :=
  sent.length == got.length
    && (sent.zip got).all fun a =>
      let c := flitCheck a.2
      (c.1 == .uce || c.2 == flitHdr a.1) && (bf a.1 639 96 == bf a.2 639 96 || !flitCrcOk a.2)

/-- The packet a ring link brings is the one its output sends next; the state without it there, none when the flits are not of that
packet. -/
def State.linkTake (s : State) (r : NodeId) (inp : RtrPort) (fs : List Flit) : Option State :=
  let a := linkTo r inp
  match s.arbPick a (portBack inp) fun k => s.roomIn r inp (hClass k.hdr) (bf k.hdr 3 3) k.flits.length with
  | (some (i, k), s) => if arrives k.flits fs then some (s.outTook a (portBack inp) i k) else none
  | (none, _) => none

/-- The queue of Table 11.5 that a packet of a class enters at an endpoint. -/
def queueOf (e : Endpoint) (c : Nat) : Option QueueId :=
  match c, e with
  | 0, .node _ => some ⟨e, .req⟩
  | 0, .mp _ => some ⟨e, .mreq⟩
  | 0, .bm => some ⟨e, .breq⟩
  | 1, .hp _ => some ⟨e, .snp⟩
  | 2, _ => some ⟨e, .rsp⟩
  | 3, .node _ | 3, .hp _ | 3, .chv => some ⟨e, .data⟩
  | 4, .node _ | 4, .chv | 4, .cfg => some ⟨e, .mgt⟩
  | _, _ => none

/-- The endpoint at an endpoint port of a router. -/
def portEp (r : NodeId) : RtrPort → Option Endpoint
  | .loc => some (.node r)
  | .att => attachAt r
  | _ => none

/-- The endpoint that injected a packet. -/
def hFrom (h : BitVec 88) : Option Endpoint := portEp (hSrc h) (if bt h 15 then .att else .loc)

/-- Quench stops a Request packet of a port shell: not a write that a snoop slot of its host covers (R361, R362), nor a replayed
request (R409). -/
def State.quenchStops (s : State) (e : Endpoint) (h : BitVec 88) : Bool :=
  hClass h == 0 && !bt h 9 && s.quenchHolds (hDst h) && match e with
  | .hp p => match (s.hpAt p).led (bf h 41 29) with
    | some l => !l.replay && !((hdrOpc l.hdr == 0x18 || hdrOpc l.hdr == 0x19) && s.snpOutTo (hdrHost l.hdr) l.pla fun _ => true)
    | none => true
  | .node _ | .chv => false
  | _ => true

/-- The endpoint of a port injects nothing: a node without traffic (R16, R17), a gated one, or a shell above its strapped count. -/
def State.portDead (s : State) (r : NodeId) : RtrPort → Bool
  | .loc => !s.live r
  | o => s.portSinks r o

/-- Router port of an endpoint port. -/
def portOfInp (r : NodeId) (inp : RtrPort) : PortOf := (r, inp == .att)

/-- An endpoint has the message that a packet carries: a host request its ledger entry on its way, a media request its MTAG, a
management message the thread that sent it (R351). Messages of other kinds are not compared, since the spec does not place what
they carry (log entry 71). -/
def State.hasMsg (s : State) (r : NodeId) (inp : RtrPort) (h : BitVec 88) (fs : List Flit) : Bool :=
  let src := portOfInp r inp
  match kindClass (hKind h), hKind h with
  | some 0, 1 | some 0, 2 =>
    let p : HpId := Fin.ofNat 16 (r.val / 2)
    (match (s.hpAt p).led (bf h 41 29) with
      | some l => (match l.st with | .sent n => arrives (hostPacket p (bf h 41 29) l n) fs | _ => false)
      | none => false)
  | some 0, 3 | some 0, 4 | some 0, 5 =>
    let m : MpId := Fin.ofNat 8 ((hDst h).val / 4)
    (match (s.mpAt m).mtag (bf h 41 29) with
      | some g => g.own.router == r.val && arrives (mediaPacket src m (bf h 41 29) g) fs
      | none => false)
  | some 4, 0x40 =>
    let c : CoreId := if inp = .att then .chervil else .node r
    (s.core c).threads.any fun t => t.2.sb.any fun e =>
      e.kind == .mgt && e.sent.isSome && e.nak.isNone && arrives (mgtPacket src (corePort e.dst) e.data) fs
  | _, _ => true

/-- An output buffer is free on the first hop of a packet: no packet of its class from its endpoint waits there (R357, log entry
123). -/
def State.outFree (s : State) (r : NodeId) (inp : RtrPort) (h : BitVec 88) : Bool :=
  !(s.outAt r (routeOut r (hSrc h) (hDst h) (bt h 9))).any fun k => k.inp == inp && hClass k.hdr == hClass h

/-- An endpoint injects a packet of its own: only while an output buffer is free, only a Management packet while an epoch change
withholds its router, a Request not toward a node that quenches the shell (R357, R365), and a Request or Snoop only against a credit,
which it then spends (R358). A host request is that of a ledger entry on its way, which holds the credit. -/
def State.injectPkt (s : State) (r : NodeId) (inp : RtrPort) (h : BitVec 88) (fs : List Flit) : Option State :=
  if s.portDead r inp || !s.hasMsg r inp h fs || !s.outFree r inp h || hSrc h != r || bt h 15 != (inp == .att) then none else
  match portEp r inp with
  | none => none
  | some e =>
    let dst := if bt h 9 then portEp (hDst h) .att else portEp (hDst h) .loc
    let c := hClass h
    if (c != 4 && s.withheld r.val) || s.quenchStops e h then none
    else match dst.bind fun d => queueOf d c with
      | none => some s
      | some q =>
        match e, q with
        | .hp p, ⟨.node n, .req⟩ => match (s.hpAt p).led (bf h 41 29) with
          | some l => if l.st = .sent n then some s else none
          | none => none
        | _, _ =>
          if !creditQueue q.k then some s
          else if 2 ≤ s.creditsUsed q e then none
          else some (s.spendCredit q e)

/-- The credit that a packet carries goes back to its producer (R358, R363, R369); that of a host request goes back with its ledger
entry. -/
def State.creditBack (s : State) (q : Option QueueId) (h : BitVec 88) : State :=
  match q, hFrom h with
  | some ⟨.node _, .req⟩, some (.hp _) => s
  | some q, some e => if creditQueue q.k then s.oweCredit q e else s
  | _, _ => s

/-- A sinking port absorbs a packet and returns its credit (R363, Table 11.7). -/
def State.absorb (s : State) (r : NodeId) (h : BitVec 88) : State :=
  let hr := hKind h == 1 || hKind h == 2
  let p : HpId := Fin.ofNat 16 ((hSrc h).val / 2)
  let i := bf h 41 29
  let asked := match (s.hpAt p).led i with
    | some l => l.st == .sent r
    | none => false
  let dst := if bt h 9 then portEp r .att else portEp r .loc
  let s := s.creditBack (dst.bind fun d => queueOf d (hClass h)) h
  if hr && bt h 15 && (hSrc h).val % 2 == 0 && asked && !bt h 9 then s.sink r p i else (s.raise HA_FAB_ERR 5).cntB 0x10B 1

/-- A router forwards a packet whose headers are good (R352, R363). -/
def State.forward (s : State) (r : NodeId) (inp : RtrPort) (fs : List Flit) (hs : List (BitVec 88)) : State :=
  let h := hs.headD 0
  let vc := bf h 3 3
  let hops := hHops h + b2n (isRing inp)
  if 6 < hops || kindClass (hKind h) != some (hClass h) then s.packetLoss r 3 h
  else
    let o := routeOut r (hSrc h) (hDst h) (bt h 9)
    if !isRing o && s.portSinks r o then s.absorb r h
    else
      let v := if isRing o then nextVc r inp o vc else vc
      let fs := (fs.zip hs).map fun a => flitSeal a.1 (setBf (setBf a.2 20 18 hops) 3 3 v)
      s.setOut r o (s.outAt r o ++ [{ inp := inp, vc := vc, flits := fs, at_ := s.tmo }])

/-- The header checks of a router (R352): one uncorrectable header loses the packet. -/
def State.checkHdrs (s : State) (r : NodeId) (inp : RtrPort) (fs : List Flit) : State :=
  let cs := fs.map flitCheck
  match cs.find? fun c => c.1 == .uce with
  | some c => s.packetLoss r 1 c.2
  | none =>
    let s := if cs.any fun c => eccCe c.1 then s.raise HA_FAB_ERR 0 else s
    s.forward r inp fs (cs.map (·.2))

/-- Router `r` receives a packet of one or two flits at an input port. -/
def State.flitRx (s : State) (r : NodeId) (inp : RtrPort) (fs : List Flit) : State :=
  if s.mode = .off ∨ s.mode = .strap ∨ fs = [] ∨ 2 < fs.length then s
  else
    let h := flitHdr (fs.headD 0)
    if isRing inp then
      if !s.roomIn r inp (hClass h) (bf h 3 3) fs.length then s
      else match s.linkTake r inp fs with
        | none => s
        | some s => s.checkHdrs r inp fs
    else match s.injectPkt r inp (flitCheck (fs.headD 0)).2 fs with
      | none => s
      | some s => (s.cntB 0x10A fs.length).checkHdrs r inp fs

/-- `FLIT_RECEIVE` (R352). -/
def execFlitReceive (r : NodeId) (inp : RtrPort) (flits : List Flit) (s : State) : Out := .next (s.flitRx r inp flits).goOn

/-! ### Endpoint queues (R367 to R370) -/

/-- A queue of Table 11.5. -/
def queueExists (q : QueueId) : Bool := (List.range 5).any fun c => queueOf q.ep c == some q

/-- The slot of a pointer. -/
def qSlot (q : QueueId) (i : Nat) : Nat := i % 2 ^ qLog2 q
/-- A pointer of d + 1 bits, advanced. -/
def qAdd (q : QueueId) (i k : Nat) : Nat := (i + k) % 2 ^ (qLog2 q + 1)

/-- The length word of a packet (R368). -/
def lengthWord (fs : List Flit) : Flit := BitVec.ofNat 640 (fs.length + hKind (flitHdr (fs.headD 0)) * 2 ^ 8)

/-- The endpoint port of an endpoint's router. -/
def epPort : Endpoint → RtrPort
  | .node _ => .loc
  | _ => .att

/-- A queue has room for a packet and its length slot (R367). -/
def State.queRoom (s : State) (q : QueueId) (k : Nat) : Bool := decide ((s.que q).usedSlots (qLog2 q) + 1 + k ≤ qDepth q)

/-- A packet may leave an endpoint port: the queue of its class has room, or the port sinks. -/
def State.portOk (s : State) (e : Endpoint) (k : RPkt) : Bool :=
  s.portSinks (epRouter e) (epPort e) || match queueOf e (hClass k.hdr) with
    | some q => s.queRoom q k.flits.length
    | none => true

/-- Write a packet into a queue: the length slot is reserved, the flits are written, then the length word, and W := F
(R368). -/
def State.enqueue (s : State) (q : QueueId) (fs : List Flit) : State :=
    let x := s.que q
    let put (m : SMap Flit) (i : Nat) (f : Flit) : SMap Flit := smSet (fun _ => 0) m (qSlot q i) f
    let m := (fs.zipIdx).foldl (fun m a => put m (x.f + 1 + a.2) a.1) x.slots
    let f := qAdd q x.f (1 + fs.length)
    s.setQue q { x with slots := put m x.f (lengthWord fs), f := f, w := f }

/-- The endpoint port of a router hands over the packet that its turn brings (R349, R356): into the queue of its class (R368), which
waits while the queue is full, or into the sink where the port has come to sink (R363). -/
def State.publish (s : State) (q : QueueId) (fs : List Flit) : State :=
  let r := epRouter q.ep
  let o := epPort q.ep
  match s.arbPick r o (s.portOk q.ep) with
  | (some (i, k), s2) =>
    if arrives k.flits fs && queueOf q.ep (hClass k.hdr) == some q then
      let s2 := s2.outTook r o i k
      if s.portSinks r o then s2.absorb r k.hdr else s2.enqueue q fs
    else s
  | (none, _) => s

/-- `PACKET_PUBLISH` (R368). -/
def execPacketPublish (q : QueueId) (flits : List Flit) (s : State) : Out :=
  .next (if s.mode = .off then s else (s.publish q flits).goOn)

/-- The queue is in FLAG mode (R369, R373). -/
def State.qFlag (s : State) (q : QueueId) : Bool :=
  match q.ep with
  | .node n =>
    let i := match q.k with | .req => 0 | .rsp => 1 | .mgt => 2 | _ => 3
    s.bit (ndA n ND_FAB_QCFG) i
  | .hp p => s.bit HA_FAB_QCFG p.val
  | .mp m => s.bit HA_FAB_QCFG (16 + m.val)
  | .bm => s.bit HA_FAB_QCFG 24
  | .chv => s.bit HA_FAB_QCFG 25
  | _ => false

/-- A read of an empty queue in FLAG mode: UNDERRUN, with the queue's own bit at a node (R369). -/
def State.underrun (s : State) (q : QueueId) : State :=
  let s := s.raise HA_FAB_ERR 7
  match q.ep with
  | .node n =>
    let i := match q.k with | .req => 26 | .rsp => 27 | .mgt => 28 | _ => 29
    s.setFld (ndA n ND_FAB_STAT) i i 1
  | _ => s

/-- A consumer reads a packet (R353, R369, R370): it takes it, or drops it whole on a bad length word or CRC (DROP, R369); either way R
passes it and its credit goes back. QLEN, the higher bit, is set with CRC where both fail, and CRC is captured (R445). -/
def State.queueRd (s : State) (q : QueueId) : State :=
  let x := s.que q
  if !queueExists q then s
  else if x.r = x.w then (if s.qFlag q then s.underrun q else s)
  else
    let at_ (i : Nat) : Flit := smGet (fun _ => 0) x.slots (qSlot q i)
    let len := at_ x.r
    let n := bf len 1 0
    let fs := (List.range n).map fun i => at_ (x.r + 1 + i)
    let h := flitHdr (at_ (x.r + 1))
    let s := (s.setQue q { x with r := qAdd q x.r (1 + n) }).creditBack (some q) h
    let lenBad := n != bf h 16 16 + 1 || bf len 15 8 != hKind h
    let crcBad := fs.any fun f => !flitCrcOk f
    if lenBad && crcBad then (s.raise HA_FAB_ERR 4).packetLoss (epRouter q.ep) 2 h
    else if lenBad then s.packetLoss (epRouter q.ep) 4 h
    else if crcBad then s.packetLoss (epRouter q.ep) 2 h
    else s.setQue q { s.que q with last := fs }

/-- `QUEUE_READ` (R369). -/
def execQueueRead (q : QueueId) (s : State) : Out := .next (if s.mode = .off then s else (s.queueRd q).goOn)

end Sys2Proof.Machine
end

