-- ==== Sys2Proof/Machine/SageAlu.lean ====
section
/-! DEFINITION. Sys2Proof/Machine/SageAlu.lean: integer, bit-field and branch instructions (Table 7.9). -/

namespace Sys2Proof.Machine

/-- The number of a truth value as a word. -/
def boolWord (b : Bool) : Word := if b then 1 else 0

/-- A format R instruction whose result is a function of rs1 and rs2. -/
def State.aluR (s : State) (t : Thr) (o : Op) (w : Reg32) (f : Word → Word → Word) : State :=
  s.issue t o w fun x s => .next (s.setRd t (iRd w) (f (x.reg (iRs1 w)) (x.reg (iRs2 w))))

/-- A format I instruction whose result is a function of rs1 and its immediate. -/
def State.aluI (s : State) (t : Thr) (o : Op) (w : Reg32) (imm : Word) (f : Word → Word → Word) : State :=
  s.issue t o w fun x s => .next (s.setRd t (iRd w) (f (x.reg (iRs1 w)) imm))

/-- A shift count: the low six bits. -/
def shCount (v : Word) : Nat := bf v 5 0

/-- A conditional branch of format B on rsa and rsb. -/
def State.branch (s : State) (t : Thr) (o : Op) (w : Reg32) (p : Word → Word → Bool) : State :=
  s.issue t o w fun x s =>
    if p (x.reg (iRd w)) (x.reg (iRs1 w)) then .jump s (BitVec.ofNat 64 x.pc + iImmS w) else .next s

/-- A branch of format BB on one bit of rsa. -/
def State.branchBit (s : State) (t : Thr) (o : Op) (w : Reg32) (v : Bool) : State :=
  s.issue t o w fun x s =>
    if bt (x.reg (iRd w)) (bf w 20 15) == v then .jump s (BitVec.ofNat 64 x.pc + iOff15 w) else .next s

/-- Home slot and node of a PLA (HSLOT, R23). -/
def State.hslotWord (s : State) (v : Word) : Word :=
  let h := homeSlot (bf v 39 2)
  BitVec.ofNat 64 (h + (s.slotNode h).val * 2 ^ 8)

/-- The number of leading zero bits of a word. -/
def clzWord (v : Word) : Nat := (List.range 64).foldl (fun c i => if bt v i then 63 - i else c) 64

/-- pos and len of format F. -/
def fPos (w : Reg32) : Nat := bf w 15 10
/-- len of format F. -/
def fLen (w : Reg32) : Nat := bf w 9 4 + 1

/-- `ADD` (R233). -/
def execAdd (t : Thr) (w : BitVec 32) (s : State) : Out := .next (s.aluR t .add w fun a b => a + b)

/-- `SUB` (R233). -/
def execSub (t : Thr) (w : BitVec 32) (s : State) : Out := .next (s.aluR t .sub w fun a b => a - b)

/-- `AND` (R233). -/
def execAnd (t : Thr) (w : BitVec 32) (s : State) : Out := .next (s.aluR t .and w fun a b => a &&& b)

/-- `OR` (R233). -/
def execOr (t : Thr) (w : BitVec 32) (s : State) : Out := .next (s.aluR t .or w fun a b => a ||| b)

/-- `XOR` (R233). -/
def execXor (t : Thr) (w : BitVec 32) (s : State) : Out := .next (s.aluR t .xor w fun a b => a ^^^ b)

/-- `SLL` (R233). -/
def execSll (t : Thr) (w : BitVec 32) (s : State) : Out := .next (s.aluR t .sll w fun a b => a <<< shCount b)

/-- `SRL` (R233). -/
def execSrl (t : Thr) (w : BitVec 32) (s : State) : Out := .next (s.aluR t .srl w fun a b => a >>> shCount b)

/-- `SRA` (R233). -/
def execSra (t : Thr) (w : BitVec 32) (s : State) : Out := .next (s.aluR t .sra w fun a b => a.sshiftRight (shCount b))

/-- `SLT` (R233). -/
def execSlt (t : Thr) (w : BitVec 32) (s : State) : Out := .next (s.aluR t .slt w fun a b => boolWord (a.slt b))

/-- `SLTU` (R233). -/
def execSltu (t : Thr) (w : BitVec 32) (s : State) : Out := .next (s.aluR t .sltu w fun a b => boolWord (a.ult b))

/-- `MUL` (R233). -/
def execMul (t : Thr) (w : BitVec 32) (s : State) : Out := .next (s.aluR t .mul w fun a b => a * b)

/-- `HSLOT` (R233). -/
def execHslot (t : Thr) (w : BitVec 32) (s : State) : Out := .next (s.aluR t .hslot w fun a _ => s.hslotWord a)

/-- `POPC` (R233). -/
def execPopc (t : Thr) (w : BitVec 32) (s : State) : Out := .next (s.aluR t .popc w fun a _ => BitVec.ofNat 64 (popCount a.toNat 64))

/-- `CLZ` (R233). -/
def execClz (t : Thr) (w : BitVec 32) (s : State) : Out := .next (s.aluR t .clz w fun a _ => BitVec.ofNat 64 (clzWord a))

/-- `MOVF` (R233): rd := f[n]. -/
def execMovf (t : Thr) (w : BitVec 32) (s : State) : Out :=
  .next (s.issue t .movf w fun x s => .next (s.setRd t (iRd w) (x.frame (bf w 13 11))))

/-- `ADDI` (R233). -/
def execAddi (t : Thr) (w : BitVec 32) (s : State) : Out := .next (s.aluI t .addi w (iImmS w) fun a b => a + b)

/-- `ANDI` (R233). -/
def execAndi (t : Thr) (w : BitVec 32) (s : State) : Out := .next (s.aluI t .andi w (iImmZ w) fun a b => a &&& b)

/-- `ORI` (R233). -/
def execOri (t : Thr) (w : BitVec 32) (s : State) : Out := .next (s.aluI t .ori w (iImmZ w) fun a b => a ||| b)

/-- `XORI` (R233). -/
def execXori (t : Thr) (w : BitVec 32) (s : State) : Out := .next (s.aluI t .xori w (iImmZ w) fun a b => a ^^^ b)

/-- `SLLI` (R233). -/
def execSlli (t : Thr) (w : BitVec 32) (s : State) : Out := .next (s.aluI t .slli w (iImmZ w) fun a b => a <<< shCount b)

/-- `SRLI` (R233). -/
def execSrli (t : Thr) (w : BitVec 32) (s : State) : Out := .next (s.aluI t .srli w (iImmZ w) fun a b => a >>> shCount b)

/-- `SRAI` (R233). -/
def execSrai (t : Thr) (w : BitVec 32) (s : State) : Out := .next (s.aluI t .srai w (iImmZ w) fun a b => a.sshiftRight (shCount b))

/-- `SLTI` (R233). -/
def execSlti (t : Thr) (w : BitVec 32) (s : State) : Out := .next (s.aluI t .slti w (iImmS w) fun a b => boolWord (a.slt b))

/-- `SLTIU` (R233). -/
def execSltiu (t : Thr) (w : BitVec 32) (s : State) : Out := .next (s.aluI t .sltiu w (iImmS w) fun a b => boolWord (a.ult b))

/-- `ORSH` (R233). -/
def execOrsh (t : Thr) (w : BitVec 32) (s : State) : Out := .next (s.aluI t .orsh w (iImmZ w) fun a b => a <<< 16 ||| b)

/-- `EXT` (R233). -/
def execExt (t : Thr) (w : BitVec 32) (s : State) : Out :=
  .next (s.issue t .ext w fun x s =>
    checks w (decide (64 < fPos w + fLen w)) false none none none
      (.next (s.setRd t (iRd w) (BitVec.ofNat 64 (bf (x.reg (iRs1 w)) (fPos w + fLen w - 1) (fPos w))))))

/-- `INS` (R233). -/
def execIns (t : Thr) (w : BitVec 32) (s : State) : Out :=
  .next (s.issue t .ins w fun x s =>
    checks w (decide (64 < fPos w + fLen w)) false none none none
      (.next (s.setRd t (iRd w) (setBf (x.reg (iRd w)) (fPos w + fLen w - 1) (fPos w) (x.reg (iRs1 w)).toNat))))

/-- `BEQ` (R233). -/
def execBeq (t : Thr) (w : BitVec 32) (s : State) : Out := .next (s.branch t .beq w fun a b => a == b)

/-- `BNE` (R233). -/
def execBne (t : Thr) (w : BitVec 32) (s : State) : Out := .next (s.branch t .bne w fun a b => a != b)

/-- `BLT` (R233). -/
def execBlt (t : Thr) (w : BitVec 32) (s : State) : Out := .next (s.branch t .blt w fun a b => a.slt b)

/-- `BGE` (R233). -/
def execBge (t : Thr) (w : BitVec 32) (s : State) : Out := .next (s.branch t .bge w fun a b => !a.slt b)

/-- `BLTU` (R233). -/
def execBltu (t : Thr) (w : BitVec 32) (s : State) : Out := .next (s.branch t .bltu w fun a b => a.ult b)

/-- `BGEU` (R233). -/
def execBgeu (t : Thr) (w : BitVec 32) (s : State) : Out := .next (s.branch t .bgeu w fun a b => !a.ult b)

/-- `BBS` (R233). -/
def execBbs (t : Thr) (w : BitVec 32) (s : State) : Out := .next (s.branchBit t .bbs w true)

/-- `BBC` (R233). -/
def execBbc (t : Thr) (w : BitVec 32) (s : State) : Out := .next (s.branchBit t .bbc w false)

/-- `JAL` (R233). -/
def execJal (t : Thr) (w : BitVec 32) (s : State) : Out :=
  .next (s.issue t .jal w fun x s =>
    .jump (s.setRd t (iRd w) (BitVec.ofNat 64 (x.pc + 1))) (BitVec.ofNat 64 x.pc + iOff21 w))

/-- `JALR` (R233). -/
def execJalr (t : Thr) (w : BitVec 32) (s : State) : Out :=
  .next (s.issue t .jalr w fun x s =>
    .jump (s.setRd t (iRd w) (BitVec.ofNat 64 (x.pc + 1))) (x.reg (iRs1 w) + iImmS w))

end Sys2Proof.Machine
end

