-- ==== Sys2Proof/Machine/XltRows.lean ====
section
/-! DEFINITION. Sys2Proof/Machine/XltRows.lean: the commands of HA_XLT_CMD (R318, R319, R321). A command takes its effect at
XLT_CMD_DONE, when BUSY falls. -/

namespace Sys2Proof.Machine

/-- Write HA_XLT_CMD with an OP, an instance, a partition class and a way. -/
def State.xltGo (s : State) (src : Src) (op inst pclass way : Nat) : State :=
  s.regDo src HA_XLT_CMD true fun s =>
    s.xltWrite (BitVec.ofNat 32 (op + inst * 2 ^ 4 + pclass * 2 ^ 10 + way * 2 ^ 12)) true (srcPriv src)

/-- `PRELOAD` (R321): OP 1. -/
def execXltPreload (src : Src) (inst : BitVec 6) (pclass : BitVec 2) (s : State) : Out :=
  .next (s.xltGo src 1 inst.toNat pclass.toNat 0)
/-- `PRELOAD_LOCK` (R318, R321): OP 2. -/
def execXltPreloadLock (src : Src) (inst : BitVec 6) (pclass : BitVec 2) (s : State) : Out :=
  .next (s.xltGo src 2 inst.toNat pclass.toNat 0)
/-- `UNLOCK` (R318, R321): OP 3. -/
def execXltUnlock (src : Src) (inst : BitVec 6) (way : BitVec 5) (s : State) : Out :=
  .next (s.xltGo src 3 inst.toNat 0 way.toNat)
/-- `INV_CTX` (R319, R321): OP 4. -/
def execXltInvCtx (src : Src) (s : State) : Out := .next (s.xltGo src 4 0 0 0)
/-- `INV_PEXT` (R319, R321): OP 5. -/
def execXltInvPext (src : Src) (s : State) : Out := .next (s.xltGo src 5 0 0 0)
/-- `INV_ALL` (R319, R321): OP 6. -/
def execXltInvAll (src : Src) (s : State) : Out := .next (s.xltGo src 6 0 0 0)

end Sys2Proof.Machine
end

