-- ==== Sys2Proof/Machine/Dispatch.lean ====
section
/-! DEFINITION. Sys2Proof/Machine/Dispatch.lean: one arm per command. -/

namespace Sys2Proof.Machine

def exec (i : Instr) (s : State) : Host.Outcome State Fault Refusal :=
  match i with
  | .coldResetAssert => Sys2Proof.Machine.execColdResetAssert s
  | .coldResetRelease => Sys2Proof.Machine.execColdResetRelease s
  | .strapsTaken pins => Sys2Proof.Machine.execStrapsTaken pins s
  | .strapTimeout pins unstable => Sys2Proof.Machine.execStrapTimeout pins unstable s
  | .fillEnd => Sys2Proof.Machine.execFillEnd s
  | .bootReady src wdata staged => Sys2Proof.Machine.execBootReady src wdata staged s
  | .pwrFullRstPulse => Sys2Proof.Machine.execPwrFullRstPulse s
  | .holdLimit => Sys2Proof.Machine.execHoldLimit s
  | .powerFail => Sys2Proof.Machine.execPowerFail s
  | .drainEnd => Sys2Proof.Machine.execDrainEnd s
  | .drainLimit => Sys2Proof.Machine.execDrainLimit s
  | .syncEnd => Sys2Proof.Machine.execSyncEnd s
  | .syncLimit => Sys2Proof.Machine.execSyncLimit s
  | .reftickLost => Sys2Proof.Machine.execReftickLost s
  | .sensorUpdate q tempA tempB vmonA vmonB => Sys2Proof.Machine.execSensorUpdate q tempA tempB vmonA vmonB s
  | .sensorStale q => Sys2Proof.Machine.execSensorStale q s
  | .vcoreLow => Sys2Proof.Machine.execVcoreLow s
  | .throttleUpdate activity => Sys2Proof.Machine.execThrottleUpdate activity s
  | .voltageStep => Sys2Proof.Machine.execVoltageStep s
  | .clockWindowCheck port count => Sys2Proof.Machine.execClockWindowCheck port count s
  | .hostPortFailure p why => Sys2Proof.Machine.execHostPortFailure p why s
  | .hostPortRecovery p => Sys2Proof.Machine.execHostPortRecovery p s
  | .hpOutTimeout p ch => Sys2Proof.Machine.execHpOutTimeout p ch s
  | .mediaPortFailure m why => Sys2Proof.Machine.execMediaPortFailure m why s
  | .mpOutTimeout m => Sys2Proof.Machine.execMpOutTimeout m s
  | .memRd p hdr => Sys2Proof.Machine.execMemRd p hdr s
  | .memRdData p hdr => Sys2Proof.Machine.execMemRdData p hdr s
  | .memInv p hdr => Sys2Proof.Machine.execMemInv p hdr s
  | .memInvNt p hdr => Sys2Proof.Machine.execMemInvNt p hdr s
  | .memClnEvct p hdr => Sys2Proof.Machine.execMemClnEvct p hdr s
  | .memWr p hdr data be poison => Sys2Proof.Machine.execMemWr p hdr data be poison s
  | .memWrPtl p hdr data be poison => Sys2Proof.Machine.execMemWrPtl p hdr data be poison s
  | .biConflict p hdr => Sys2Proof.Machine.execBiConflict p hdr s
  | .hostFlush p hdr => Sys2Proof.Machine.execHostFlush p hdr s
  | .sessOpen p hdr => Sys2Proof.Machine.execSessOpen p hdr s
  | .sessClose p hdr => Sys2Proof.Machine.execSessClose p hdr s
  | .translationWalkDone p idx err => Sys2Proof.Machine.execTranslationWalkDone p idx err s
  | .birsp p msg => Sys2Proof.Machine.execBirsp p msg s
  | .heldAnswerDelivery p slot => Sys2Proof.Machine.execHeldAnswerDelivery p slot s
  | .snoopTimeout p slot => Sys2Proof.Machine.execSnoopTimeout p slot s
  | .snoopSlotQuarantineEnd p slot => Sys2Proof.Machine.execSnoopSlotQuarantineEnd p slot s
  | .biConflictAck p => Sys2Proof.Machine.execBiConflictAck p s
  | .outboundMessage p ch => Sys2Proof.Machine.execOutboundMessage p ch s
  | .attachRequest port offer => Sys2Proof.Machine.execAttachRequest port offer s
  | .attachConfirm port => Sys2Proof.Machine.execAttachConfirm port s
  | .attachTimeout port => Sys2Proof.Machine.execAttachTimeout port s
  | .attachAbandon port => Sys2Proof.Machine.execAttachAbandon port s
  | .hostDetach p => Sys2Proof.Machine.execHostDetach p s
  | .mediaDetachRequest m => Sys2Proof.Machine.execMediaDetachRequest m s
  | .mediaDetachComplete m => Sys2Proof.Machine.execMediaDetachComplete m s
  | .mediaReadData m hdr data poison => Sys2Proof.Machine.execMediaReadData m hdr data poison s
  | .handoff m => Sys2Proof.Machine.execHandoff m s
  | .ackDurable m ack => Sys2Proof.Machine.execAckDurable m ack s
  | .ackSyncDone m ack => Sys2Proof.Machine.execAckSyncDone m ack s
  | .ackWriteFail m ack => Sys2Proof.Machine.execAckWriteFail m ack s
  | .mpAckTimeout m mtag => Sys2Proof.Machine.execMpAckTimeout m mtag s
  | .bmResponse tag data err => Sys2Proof.Machine.execBmResponse tag data err s
  | .bmTimeout tag => Sys2Proof.Machine.execBmTimeout tag s
  | .registerWrite addr wdata be priv => Sys2Proof.Machine.execRegisterWrite addr wdata be priv s
  | .eventRecordSend => Sys2Proof.Machine.execEventRecordSend s
  | .evTimeout => Sys2Proof.Machine.execEvTimeout s
  | .evWindowAccess src a wr wdata rdata => Sys2Proof.Machine.execEvWindowAccess src a wr wdata rdata s
  | .psRead src => Sys2Proof.Machine.execPsRead src s
  | .psLoad src => Sys2Proof.Machine.execPsLoad src s
  | .psCommit src => Sys2Proof.Machine.execPsCommit src s
  | .psSetProtect src level => Sys2Proof.Machine.execPsSetProtect src level s
  | .psStatus src => Sys2Proof.Machine.execPsStatus src s
  | .psResponse stat data => Sys2Proof.Machine.execPsResponse stat data s
  | .psTimeout => Sys2Proof.Machine.execPsTimeout s
  | .fuseProgramDone err => Sys2Proof.Machine.execFuseProgramDone err s
  | .fuseTimeout => Sys2Proof.Machine.execFuseTimeout s
  | .admission n p idx => Sys2Proof.Machine.execAdmission n p idx s
  | .retry p n idx => Sys2Proof.Machine.execRetry p n idx s
  | .grant p n => Sys2Proof.Machine.execGrant p n s
  | .hostRequestEvent n t => Sys2Proof.Machine.execHostRequestEvent n t s
  | .writeBackEvent n t => Sys2Proof.Machine.execWriteBackEvent n t s
  | .assistFault n t => Sys2Proof.Machine.execAssistFault n t s
  | .recallStart n t => Sys2Proof.Machine.execRecallStart n t s
  | .lineCopyStart n t => Sys2Proof.Machine.execLineCopyStart n t s
  | .managementMessage t => Sys2Proof.Machine.execManagementMessage t s
  | .lineCopy n slot => Sys2Proof.Machine.execLineCopy n slot s
  | .sectorRecall n slot => Sys2Proof.Machine.execSectorRecall n slot s
  | .engineStart t => Sys2Proof.Machine.execEngineStart t s
  | .wakeHostFlow n t => Sys2Proof.Machine.execWakeHostFlow n t s
  | .wakeInternalFlow n t => Sys2Proof.Machine.execWakeInternalFlow n t s
  | .sliceExpiry t => Sys2Proof.Machine.execSliceExpiry t s
  | .runaway t => Sys2Proof.Machine.execRunaway t s
  | .storeBufferSend t => Sys2Proof.Machine.execStoreBufferSend t s
  | .mergeEntryAge t => Sys2Proof.Machine.execMergeEntryAge t s
  | .accessCompletion t k rsp => Sys2Proof.Machine.execAccessCompletion t k rsp s
  | .accessTimeout t k => Sys2Proof.Machine.execAccessTimeout t k s
  | .add t w => Sys2Proof.Machine.execAdd t w s
  | .sub t w => Sys2Proof.Machine.execSub t w s
  | .and t w => Sys2Proof.Machine.execAnd t w s
  | .or t w => Sys2Proof.Machine.execOr t w s
  | .xor t w => Sys2Proof.Machine.execXor t w s
  | .sll t w => Sys2Proof.Machine.execSll t w s
  | .srl t w => Sys2Proof.Machine.execSrl t w s
  | .sra t w => Sys2Proof.Machine.execSra t w s
  | .slt t w => Sys2Proof.Machine.execSlt t w s
  | .sltu t w => Sys2Proof.Machine.execSltu t w s
  | .mul t w => Sys2Proof.Machine.execMul t w s
  | .hslot t w => Sys2Proof.Machine.execHslot t w s
  | .popc t w => Sys2Proof.Machine.execPopc t w s
  | .clz t w => Sys2Proof.Machine.execClz t w s
  | .movf t w => Sys2Proof.Machine.execMovf t w s
  | .addi t w => Sys2Proof.Machine.execAddi t w s
  | .andi t w => Sys2Proof.Machine.execAndi t w s
  | .ori t w => Sys2Proof.Machine.execOri t w s
  | .xori t w => Sys2Proof.Machine.execXori t w s
  | .slli t w => Sys2Proof.Machine.execSlli t w s
  | .srli t w => Sys2Proof.Machine.execSrli t w s
  | .srai t w => Sys2Proof.Machine.execSrai t w s
  | .slti t w => Sys2Proof.Machine.execSlti t w s
  | .sltiu t w => Sys2Proof.Machine.execSltiu t w s
  | .orsh t w => Sys2Proof.Machine.execOrsh t w s
  | .ext t w => Sys2Proof.Machine.execExt t w s
  | .ins t w => Sys2Proof.Machine.execIns t w s
  | .beq t w => Sys2Proof.Machine.execBeq t w s
  | .bne t w => Sys2Proof.Machine.execBne t w s
  | .blt t w => Sys2Proof.Machine.execBlt t w s
  | .bge t w => Sys2Proof.Machine.execBge t w s
  | .bltu t w => Sys2Proof.Machine.execBltu t w s
  | .bgeu t w => Sys2Proof.Machine.execBgeu t w s
  | .bbs t w => Sys2Proof.Machine.execBbs t w s
  | .bbc t w => Sys2Proof.Machine.execBbc t w s
  | .jal t w => Sys2Proof.Machine.execJal t w s
  | .jalr t w => Sys2Proof.Machine.execJalr t w s
  | .ld8 t w => Sys2Proof.Machine.execLd8 t w s
  | .ld16 t w => Sys2Proof.Machine.execLd16 t w s
  | .ld32 t w => Sys2Proof.Machine.execLd32 t w s
  | .ld64 t w => Sys2Proof.Machine.execLd64 t w s
  | .st8 t w => Sys2Proof.Machine.execSt8 t w s
  | .st16 t w => Sys2Proof.Machine.execSt16 t w s
  | .st32 t w => Sys2Proof.Machine.execSt32 t w s
  | .st64 t w => Sys2Proof.Machine.execSt64 t w s
  | .amoSwap t w => Sys2Proof.Machine.execAmoSwap t w s
  | .amoAdd t w => Sys2Proof.Machine.execAmoAdd t w s
  | .amoOr t w => Sys2Proof.Machine.execAmoOr t w s
  | .amoAnd t w => Sys2Proof.Machine.execAmoAnd t w s
  | .amoCas t w => Sys2Proof.Machine.execAmoCas t w s
  | .lbm t w => Sys2Proof.Machine.execLbm t w s
  | .lba t w => Sys2Proof.Machine.execLba t w s
  | .lbf t w => Sys2Proof.Machine.execLbf t w s
  | .lbld t w => Sys2Proof.Machine.execLbld t w s
  | .lbst t w => Sys2Proof.Machine.execLbst t w s
  | .lbmask t w => Sys2Proof.Machine.execLbmask t w s
  | .lbstat t w => Sys2Proof.Machine.execLbstat t w s
  | .sfl t w => Sys2Proof.Machine.execSfl t w s
  | .sfa t w => Sys2Proof.Machine.execSfa t w s
  | .sfu t w => Sys2Proof.Machine.execSfu t w s
  | .sfrd t w => Sys2Proof.Machine.execSfrd t w s
  | .sfsec t w => Sys2Proof.Machine.execSfsec t w s
  | .sfScrubTick n => Sys2Proof.Machine.execSfScrubTick n s
  | .scrubTick k => Sys2Proof.Machine.execScrubTick k s
  | .rmapRebuild src n => Sys2Proof.Machine.execRmapRebuild src n s
  | .rmapRebuildDone n => Sys2Proof.Machine.execRmapRebuildDone n s
  | .sfConsEnd src => Sys2Proof.Machine.execSfConsEnd src s
  | .ovfCtrlWrite src wdata => Sys2Proof.Machine.execOvfCtrlWrite src wdata s
  | .talloc t w => Sys2Proof.Machine.execTalloc t w s
  | .tfind t w => Sys2Proof.Machine.execTfind t w s
  | .tchain t w => Sys2Proof.Machine.execTchain t w s
  | .tfree t w => Sys2Proof.Machine.execTfree t w s
  | .trd t w => Sys2Proof.Machine.execTrd t w s
  | .twr t w => Sys2Proof.Machine.execTwr t w s
  | .trdx t w => Sys2Proof.Machine.execTrdx t w s
  | .plk t w => Sys2Proof.Machine.execPlk t w s
  | .sendSnp t w => Sys2Proof.Machine.execSendSnp t w s
  | .sendMrd t w => Sys2Proof.Machine.execSendMrd t w s
  | .sendMwr t w => Sys2Proof.Machine.execSendMwr t w s
  | .sendRsp t w => Sys2Proof.Machine.execSendRsp t w s
  | .sendMgt t w => Sys2Proof.Machine.execSendMgt t w s
  | .wait t w => Sys2Proof.Machine.execWait t w s
  | .endH t w => Sys2Proof.Machine.execEndH t w s
  | .cbar t w => Sys2Proof.Machine.execCbar t w s
  | .cbarT t w => Sys2Proof.Machine.execCbarT t w s
  | .yieldT t w => Sys2Proof.Machine.execYieldT t w s
  | .rte t w => Sys2Proof.Machine.execRte t w s
  | .trap t w => Sys2Proof.Machine.execTrap t w s
  | .crr t w => Sys2Proof.Machine.execCrr t w s
  | .crw t w => Sys2Proof.Machine.execCrw t w s
  | .flitReceive r inp flits => Sys2Proof.Machine.execFlitReceive r inp flits s
  | .packetPublish q flits => Sys2Proof.Machine.execPacketPublish q flits s
  | .queueRead q => Sys2Proof.Machine.execQueueRead q s
  | .credit e q count => Sys2Proof.Machine.execCredit e q count s
  | .mgtNak t => Sys2Proof.Machine.execMgtNak t s
  | .mgtResend t => Sys2Proof.Machine.execMgtResend t s
  | .sinkAbsorb n p idx => Sys2Proof.Machine.execSinkAbsorb n p idx s
  | .quench src n wdata => Sys2Proof.Machine.execQuench src n wdata s
  | .quenchAck n shell => Sys2Proof.Machine.execQuenchAck n shell s
  | .epochChange src => Sys2Proof.Machine.execEpochChange src s
  | .epochDrainDone => Sys2Proof.Machine.execEpochDrainDone s
  | .epochDrainTimeout => Sys2Proof.Machine.execEpochDrainTimeout s
  | .quadrantGate src q => Sys2Proof.Machine.execQuadrantGate src q s
  | .gatingDone q => Sys2Proof.Machine.execGatingDone q s
  | .quadrantUngate src q => Sys2Proof.Machine.execQuadrantUngate src q s
  | .ungatingFillDone q => Sys2Proof.Machine.execUngatingFillDone q s
  | .ungateTimeout q => Sys2Proof.Machine.execUngateTimeout q s
  | .modeStandby src => Sys2Proof.Machine.execModeStandby src s
  | .modeService src => Sys2Proof.Machine.execModeService src s
  | .modeEvacuate src => Sys2Proof.Machine.execModeEvacuate src s
  | .modeSelftest src => Sys2Proof.Machine.execModeSelftest src s
  | .rstFull src => Sys2Proof.Machine.execRstFull src s
  | .rstRelease src => Sys2Proof.Machine.execRstRelease src s
  | .wdogKick src wdata => Sys2Proof.Machine.execWdogKick src wdata s
  | .watchdogExpiry => Sys2Proof.Machine.execWatchdogExpiry s
  | .measExtend src wdata => Sys2Proof.Machine.execMeasExtend src wdata s
  | .measExtendDone => Sys2Proof.Machine.execMeasExtendDone s
  | .xltPreload src inst pclass => Sys2Proof.Machine.execXltPreload src inst pclass s
  | .xltPreloadLock src inst pclass => Sys2Proof.Machine.execXltPreloadLock src inst pclass s
  | .xltUnlock src inst way => Sys2Proof.Machine.execXltUnlock src inst way s
  | .xltInvCtx src => Sys2Proof.Machine.execXltInvCtx src s
  | .xltInvPext src => Sys2Proof.Machine.execXltInvPext src s
  | .xltInvAll src => Sys2Proof.Machine.execXltInvAll src s
  | .xltCmdDone err => Sys2Proof.Machine.execXltCmdDone err s
  | .channelGo src c err => Sys2Proof.Machine.execChannelGo src c err s
  | .channelResume src c => Sys2Proof.Machine.execChannelResume src c s
  | .channelStop src c => Sys2Proof.Machine.execChannelStop src c s
  | .dmaReport msg => Sys2Proof.Machine.execDmaReport msg s
  | .itemTmo c u => Sys2Proof.Machine.execItemTmo c u s
  | .busyReissue c u => Sys2Proof.Machine.execBusyReissue c u s
  | .doorbell src => Sys2Proof.Machine.execDoorbell src s
  | .mbComplete src => Sys2Proof.Machine.execMbComplete src s
  | .getVersion => Sys2Proof.Machine.execGetVersion s
  | .getMeasurements => Sys2Proof.Machine.execGetMeasurements s
  | .getStatus => Sys2Proof.Machine.execGetStatus s
  | .mbFullReset => Sys2Proof.Machine.execMbFullReset s
  | .mbShutdown => Sys2Proof.Machine.execMbShutdown s
  | .ctxSet err => Sys2Proof.Machine.execCtxSet err s
  | .mapRun err => Sys2Proof.Machine.execMapRun err s
  | .unmapRun err => Sys2Proof.Machine.execUnmapRun err s
  | .migStart err => Sys2Proof.Machine.execMigStart err s
  | .migStatus err => Sys2Proof.Machine.execMigStatus err s
  | .migResume err => Sys2Proof.Machine.execMigResume err s
  | .migStop => Sys2Proof.Machine.execMigStop s
  | .setPower => Sys2Proof.Machine.execSetPower s
  | .mbGate => Sys2Proof.Machine.execMbGate s
  | .pmcRead => Sys2Proof.Machine.execPmcRead s
  | .evMailbox t => Sys2Proof.Machine.execEvMailbox t s
  | .evSession t err => Sys2Proof.Machine.execEvSession t err s
  | .evDepart t err => Sys2Proof.Machine.execEvDepart t err s
  | .evError t => Sys2Proof.Machine.execEvError t s
  | .evMode t => Sys2Proof.Machine.execEvMode t s
  | .evDma t => Sys2Proof.Machine.execEvDma t s
  | .evMpDetach t => Sys2Proof.Machine.execEvMpDetach t s
  | .evTimer t => Sys2Proof.Machine.execEvTimer t s
  | .evFlush t => Sys2Proof.Machine.execEvFlush t s
  | .pmcOvf t => Sys2Proof.Machine.execPmcOvf t s
  | .visit n slot => Sys2Proof.Machine.execVisit n slot s
  | .visitDone n host depart result => Sys2Proof.Machine.execVisitDone n host depart result s
  | .pmcFreeze src wdata => Sys2Proof.Machine.execPmcFreeze src wdata s
  | .pmcSnap src => Sys2Proof.Machine.execPmcSnap src s
  | .pmcClear src => Sys2Proof.Machine.execPmcClear src s
  | .apertureReadLow src off => Sys2Proof.Machine.execApertureReadLow src off s
  | .apertureReadHigh src off => Sys2Proof.Machine.execApertureReadHigh src off s
  | .apertureWriteLow src off wdata => Sys2Proof.Machine.execApertureWriteLow src off wdata s
  | .apertureWriteHigh src off wdata => Sys2Proof.Machine.execApertureWriteHigh src off wdata s
  | .reftickReturn => Sys2Proof.Machine.execReftickReturn s
  | .registerPortTimeout => Sys2Proof.Machine.execRegisterPortTimeout s
  | .mediaPortRecovery m => Sys2Proof.Machine.execMediaPortRecovery m s
  | .sorrelEnd res => Sys2Proof.Machine.execSorrelEnd res s

end Sys2Proof.Machine
end

