-- ==== Sys2Proof/Machine/Tick.lean ====
section
/-! DEFINITION. Sys2Proof/Machine/Tick.lean: one reference tick, which is what the block does when no command waits
(R5, R59; log entry 2). -/

namespace Sys2Proof.Machine

/-- The counters of ticks count (Table 17.7). -/
def State.cntTick (s : State) : State :=
  let s := s.cntB 0x100 1
  let s := if s.mode = .hold then s.cntB 0x10D 1 else s
  let s := if s.tar.k = 0 then s else s.cntB 0x10E 1
  allNodes.foldl (fun s n =>
    let x := s.nd n
    let s := (s.cntN n 0x019 1).cntOpen n 0x002
    let s := if s.tar.k = 0 then s else s.cntOpen n 0x017
    let s := s.cntN n 0x007 ((x.trk.filter fun e => bt e.2.w0 0).length)
    if x.core.threads.any (fun e => e.2.st == .stalled) then s.cntN n 0x016 1 else s) s

/-- The full reset that the boot ROM requests after a checked fill that found an uncorrectable granule (R477). -/
def State.romReset (s : State) : State := if s.mode = .boot ∧ s.romRst = true then { s with romRst := false }.fullReq 3 else s

/-- What the block's own hardware does on a tick with no command: requests to ports that are not attached end (Table 14.3),
Sorrel goes on (R466), the SYNCs of the FLUSH mode and everything else that waits go on. A power failure latched in BOOT takes
effect where HOLD ends in STANDBY (R429). -/
def State.selfRun (s : State) : State :=
  let s := s.deadMedia.sorrelTick.safeQuads
  let s := if s.mode = .standby ∧ s.pwrFail = true then s.flushEnter else s
  let s := if s.mode = .flush then s.modeSync else s
  s.romReset.goOn

/-- The partner of the register port takes an answer when its cfg_rsp_ready is 1, which is open: some of the answers at the
head, in order, or none (R51). -/
def State.cfgTake (s : State) : State :=
  if s.cfg.headD ⟨0, false, false, 0, none⟩ |>.ans.isSome then
    let k := (Config.freeValue s.free).toNat
    { s with free := s.free + 1, cfg := (s.cfg.take k).dropWhile (·.ans.isSome) ++ s.cfg.drop k }
  else s

/-- An hour of LIFE (R458): firmware counts reference ticks since the cold reset, and commits HOURS every 3,600 s. -/
def State.hourTick (s : State) : State :=
  if s.hourTicks + 1 < 360000000000 then { s with hourTicks := s.hourTicks + 1 }
  else if s.handedOver && s.fwRuns then ({ s with hourTicks := 0 }.lifeCommit fun i => if i = 2 then 1 else 0).2
  else s

/-- One reference tick: the timestamp and the timeout count advance, the counters of ticks count, the low core readings and
the TIMER event are counted (R386, R480), and the block's own hardware goes on. The partner of the register port may take
answers that wait, in order (R51), and an hour of LIFE is counted (R458). While reftick is lost the step is one monitor interval: timestamps stop and timeouts
count it (R59). Discarded stores may still be performed (R300). -/
def State.tick (s : State) : State :=
  if s.mode = .off then s
  else
    let s := { s with tmo := s.tmo + 1 }.attTick.cfgTake
    if !s.reftickOk then s.selfRun
    else { s with time := s.time + 1 }.lateAll.cntTick.vlowTick.timerPoll.hourTick.selfRun

end Sys2Proof.Machine
end

