-- ==== Sys2Proof/WellFormed.lean ====
section
/-! DEFINITION. Sys2Proof/WellFormed.lean: which commands the spec's senders can form. The meanings do not rest on it: a
command that is not well formed has some effect or none, like any other. -/

namespace Sys2Proof

/-- The thread, the Sage operation and the word of an instruction command; none for every other command. -/
def Instr.sage : Instr → Option (Thr × Machine.Op × Reg32)
  | .add t w => some (t, .add, w)
  | .sub t w => some (t, .sub, w)
  | .and t w => some (t, .and, w)
  | .or t w => some (t, .or, w)
  | .xor t w => some (t, .xor, w)
  | .sll t w => some (t, .sll, w)
  | .srl t w => some (t, .srl, w)
  | .sra t w => some (t, .sra, w)
  | .slt t w => some (t, .slt, w)
  | .sltu t w => some (t, .sltu, w)
  | .mul t w => some (t, .mul, w)
  | .hslot t w => some (t, .hslot, w)
  | .popc t w => some (t, .popc, w)
  | .clz t w => some (t, .clz, w)
  | .movf t w => some (t, .movf, w)
  | .addi t w => some (t, .addi, w)
  | .andi t w => some (t, .andi, w)
  | .ori t w => some (t, .ori, w)
  | .xori t w => some (t, .xori, w)
  | .slli t w => some (t, .slli, w)
  | .srli t w => some (t, .srli, w)
  | .srai t w => some (t, .srai, w)
  | .slti t w => some (t, .slti, w)
  | .sltiu t w => some (t, .sltiu, w)
  | .orsh t w => some (t, .orsh, w)
  | .ext t w => some (t, .ext, w)
  | .ins t w => some (t, .ins, w)
  | .beq t w => some (t, .beq, w)
  | .bne t w => some (t, .bne, w)
  | .blt t w => some (t, .blt, w)
  | .bge t w => some (t, .bge, w)
  | .bltu t w => some (t, .bltu, w)
  | .bgeu t w => some (t, .bgeu, w)
  | .bbs t w => some (t, .bbs, w)
  | .bbc t w => some (t, .bbc, w)
  | .jal t w => some (t, .jal, w)
  | .jalr t w => some (t, .jalr, w)
  | .ld8 t w => some (t, .ld8, w)
  | .ld16 t w => some (t, .ld16, w)
  | .ld32 t w => some (t, .ld32, w)
  | .ld64 t w => some (t, .ld64, w)
  | .st8 t w => some (t, .st8, w)
  | .st16 t w => some (t, .st16, w)
  | .st32 t w => some (t, .st32, w)
  | .st64 t w => some (t, .st64, w)
  | .amoSwap t w => some (t, .amoSwap, w)
  | .amoAdd t w => some (t, .amoAdd, w)
  | .amoOr t w => some (t, .amoOr, w)
  | .amoAnd t w => some (t, .amoAnd, w)
  | .amoCas t w => some (t, .amoCas, w)
  | .lbm t w => some (t, .lbm, w)
  | .lba t w => some (t, .lba, w)
  | .lbf t w => some (t, .lbf, w)
  | .lbld t w => some (t, .lbld, w)
  | .lbst t w => some (t, .lbst, w)
  | .lbmask t w => some (t, .lbmask, w)
  | .lbstat t w => some (t, .lbstat, w)
  | .sfl t w => some (t, .sfl, w)
  | .sfa t w => some (t, .sfa, w)
  | .sfu t w => some (t, .sfu, w)
  | .sfrd t w => some (t, .sfrd, w)
  | .sfsec t w => some (t, .sfsec, w)
  | .talloc t w => some (t, .talloc, w)
  | .tfind t w => some (t, .tfind, w)
  | .tchain t w => some (t, .tchain, w)
  | .tfree t w => some (t, .tfree, w)
  | .trd t w => some (t, .trd, w)
  | .twr t w => some (t, .twr, w)
  | .trdx t w => some (t, .trdx, w)
  | .plk t w => some (t, .plk, w)
  | .sendSnp t w => some (t, .sendSnp, w)
  | .sendMrd t w => some (t, .sendMrd, w)
  | .sendMwr t w => some (t, .sendMwr, w)
  | .sendRsp t w => some (t, .sendRsp, w)
  | .sendMgt t w => some (t, .sendMgt, w)
  | .wait t w => some (t, .wait, w)
  | .endH t w => some (t, .endH, w)
  | .cbar t w => some (t, .cbar, w)
  | .cbarT t w => some (t, .cbarT, w)
  | .yieldT t w => some (t, .yieldT, w)
  | .rte t w => some (t, .rte, w)
  | .trap t w => some (t, .trap, w)
  | .crr t w => some (t, .crr, w)
  | .crw t w => some (t, .crw, w)
  | _ => none

/-- A failed lane names at most 16 captured cells, each by a row and a column of 13 bits each (R467, Table 16.5). -/
def LaneFail.wf (f : LaneFail) : Bool :=
  decide (f.cells.length ≤ 16) && f.cells.all fun c => decide (c.1 < 2 ^ 13) && decide (c.2 < 2 ^ 13)

/-- A well-formed command: an instruction's word spells its mnemonic or none, so that it can trap as ILLEGAL (R230); a packet
is one or two flits (R351); a credit returns at least one packet (R358); staged block memory is in canonical form; and a
captured cell fits its fields (R472). -/
def Instr.wf (i : Instr) : Bool :=
  (match i.sage with
    | some (_, o, w) => Machine.opOf w == some o || (Machine.opOf w).isNone
    | none => true) &&
  match i with
  | .flitReceive _ _ fl | .packetPublish _ fl => decide (1 ≤ fl.length) && decide (fl.length ≤ 2)
  | .credit _ _ k => decide (1 ≤ k)
  | .bootReady _ _ m => Machine.Memory.wf m
  | .sorrelEnd r => r.fails.all LaneFail.wf
  | _ => true

end Sys2Proof
end

