-- ==== Sys2Proof/Safety.lean ====
section
/-! DEFINITION. Sys2Proof/Safety.lean: the terms in which claims are made: the canonical form of the state, when a Sage
instruction issues, and what a command leaves as it was. -/

namespace Sys2Proof.Machine

/-- The sparse parts of the state are in canonical form, so that equal contents are equal data: block memory, the parameter
store with its page buffer, the stored register bits, the fuse words, the port shells, the nodes, the quadrants and the
channels. -/
structure State.Canon (s : State) : Prop where
  bmem : Memory.wf s.bmem = true
  store : Memory.wf s.store = true
  pageBuf : Memory.wf s.pageBuf = true
  regs : smWf regDefault s.regs = true
  fuse : smWf (fun _ => (0 : BitVec 32)) s.fuse = true
  hp : smWf (fun _ => ({} : HpShell)) s.hp = true
  mp : smWf (fun _ => ({} : MpShell)) s.mp = true
  node : smWf (fun _ => ({} : Node)) s.node = true
  quad : smWf (fun _ => ({} : Quad)) s.quad = true
  chan : smWf (fun _ => ({} : Chan)) s.chan = true

/-- Thread `t` may issue the word `w` that its pc fetches unharmed; the word spells `o`, leaves the unused bits of `o` zero, and
is allowed to this core at this privilege (R230 to R232, R263 to R267). -/
structure Issues (s : State) (t : Thr) (o : Op) (w : Reg32) : Prop where
  may : s.mayIssue t = true
  fetched : s.fetch t.core (s.thr t).pc = (w, Ecc.good)
  spells : opOf w = some o
  allowed : o.wordFault t.core (s.thr t) w = none

/-- Control may pass to `pc`: it lies in the core's program space and the thread does not single-step (R231, R249). -/
def Passes (s : State) (t : Thr) (pc : Nat) : Prop := pcIn t.core pc = true ∧ bt (s.thr t).tc 1 = false

/-- Only thread `t` of the core, the performance counters and what their overflow raises may differ: every other thread, every
memory, port, node array, session and other register is as it was. -/
structure OnlyThread (s u : State) (t : Thr) : Prop where
  rest : { u with node := s.node, chv := s.chv, pmc := s.pmc, regs := s.regs, free := s.free } = s
  regs : ∀ a, (∀ i, a ≠ pmcHiA i) → u.raw a = s.raw a
  nodes : ∀ n, { u.nd n with core := (s.nd n).core } = s.nd n
  cores : ∀ c, { u.core c with threads := (s.core c).threads, events := (s.core c).events } = s.core c
  threads : ∀ k, k ≠ t → u.thr k = s.thr k

/-- Thread `t` went on at `pc` after writing `v` to `rd`: g0 stays zero, every other general register and every control
register is as it was, and the thread is ready (R219, R231). -/
structure WroteRd (s u : State) (t : Thr) (rd : Nat) (v : Word) (pc : Nat) : Prop where
  value : (u.thr t).reg rd = if rd = 0 then 0 else v
  others : ∀ r, r ≠ rd → (u.thr t).reg r = (s.thr t).reg r
  rest : ∀ x, x = u.thr t → { x with g := (s.thr t).g, pc := (s.thr t).pc, slice := (s.thr t).slice, run := (s.thr t).run,
                                      sb := (s.thr t).sb, st := (s.thr t).st, pend := (s.thr t).pend } = s.thr t
  stores : (u.thr t).sb.map (·.id) = (s.thr t).sb.map (·.id)
  pc : (u.thr t).pc = pc
  ready : (u.thr t).st = TState.ready

/-- Command `c`, an instruction of thread `t` whose work on everything but its thread gives `u`, answers a state that differs from
`u` in the thread alone: `v` is written to `rd` and the thread goes on at `pc`. -/
def Gives (c : Instr) (s u : State) (t : Thr) (rd : Nat) (v : Word) (pc : Nat) : Prop :=
  ∃ x, exec c s = .next x ∧ OnlyThread u x t ∧ WroteRd u x t rd v pc

/-- The same for an instruction after which whatever waits in the block goes on. -/
def GivesOn (c : Instr) (s u : State) (t : Thr) (rd : Nat) (v : Word) (pc : Nat) : Prop :=
  ∃ x, exec c s = .next x.goOn ∧ OnlyThread u x t ∧ WroteRd u x t rd v pc

/-- Thread `t` of `u` holds what `x` holds and is ready at `pc`: only its counts of issues, the age of its merging stores and what
it waited for may differ. -/
structure Now (u : State) (t : Thr) (x : Thread) (pc : Nat) : Prop where
  same : { u.thr t with slice := x.slice, run := x.run, sb := x.sb, pc := x.pc, st := x.st, pend := x.pend } = x
  stores : (u.thr t).sb.map (·.id) = x.sb.map (·.id)
  pc : (u.thr t).pc = pc
  ready : (u.thr t).st = TState.ready

/-- Merging mode is not in force, and no merging store waits in the buffer of thread `t`. -/
def NoMerge (s : State) (t : Thr) : Prop := s.sbm = false ∧ ∀ e ∈ (s.thr t).sb, e.merging = false

/-- Thread `t` has entered the trap of `cause` (R269): the status, the cause, its value and `epc` are saved, the thread runs at
supervisor privilege from its vector, the handle is lost, and every general and frame register, the tracker binding, TC, TVEC, SSCR
and INCOMPLETE are as they were; out of merging mode and with no merging store in the buffer, which trap entry would send (R296), nothing else changes. -/
structure Traps (s u : State) (t : Thr) (cause : Nat) (val : Word) (epc : Nat) : Prop where
  saved : (u.thr t).ets = s.tsWord t ∧ (u.thr t).epc = BitVec.ofNat 64 epc ∧ (u.thr t).ecause = BitVec.ofNat 64 cause ∧
    (u.thr t).eval = val
  status : (u.thr t).priv = true ∧ (u.thr t).trapActive = true ∧ (u.thr t).st = .ready ∧ (u.thr t).handle = none
  pc : (u.thr t).pc = (s.thr t).tvec.toNat + 8 * cause
  kept : (u.thr t).g = (s.thr t).g ∧ (u.thr t).f = (s.thr t).f ∧ (u.thr t).trk = (s.thr t).trk ∧ (u.thr t).tc = (s.thr t).tc ∧
    (u.thr t).tvec = (s.thr t).tvec ∧ (u.thr t).sscr = (s.thr t).sscr ∧ (u.thr t).incomplete = (s.thr t).incomplete
  only : NoMerge s t → OnlyThread s u t

/-- Thread `t` may take the trap of `cause` (R269): no trap is active, its vector lies in the program space, and no buffered store has
a parity error, with which trap entry would discard it (Table 15.1). -/
def MayTrap (s : State) (t : Thr) (cause : Nat) : Prop :=
  (s.thr t).trapActive = false ∧ pcIn t.core ((s.thr t).tvec.toNat + 8 * cause) = true ∧ ∀ e ∈ (s.thr t).sb, e.parBad = false

/-- Nothing in the block waits for a thing that has already come: no reset hold, no snoop without a slot and none that a departed
host still owes, no request ready to be sent or held behind RETRY, no FLUSH in progress, no port that detaches, no internal flow,
eviction, repair, visit or line-buffer wait, no flow in a WAIT, no thread that is to issue again, no attach request, no session event
that firmware has taken, no session that closes or departs, no channel that runs and no work message returned to one. -/
structure State.Settled (s : State) : Prop where
  canon : s.Canon
  mode : s.mode ≠ .hold
  snoops : ∀ p, (s.hpAt p).waitSnp = [] ∧ ∀ e ∈ (s.hpAt p).slots, ∀ sl, e.2 = some sl → sl.st ≠ .gone
  requests : ∀ p, (s.hpAt p).retry = [] ∧ (s.hpAt p).flushes = [] ∧ ∀ e ∈ (s.hpAt p).ledger, ∀ l, e.2 = some l → l.st ≠ .ready
  ports : ∀ p v c, (s.hpAt p).att ≠ .detaching v c
  attach : ∀ q o, s.att q ≠ .waiting o
  flows : ∀ n, (s.nd n).rounds = 0 ∧ ∀ e ∈ (s.nd n).trk, e.2.waiting = false ∧ e.2.replay = false
  threads : ∀ n, ∀ e ∈ (s.nd n).core.threads, ∀ why, e.2.pend ≠ .again why
  sessions : ∀ e ∈ s.sess, (s.ses e.1).st = .closed ∨ (s.ses e.1).st = .opn
  served : s.chvTodo = []
  channels : ∀ c, (s.ch c).wants = false ∧ (s.ch c).nak = []
  reports : s.hwRep = []

/-- A register access of `src` at `a` is answered: the register port keeps the answer for its partner (R51), every other source
goes on at once. -/
def State.noted (s : State) (src : Src) (a : Nat) (wr : Bool) (data : Reg32) : State :=
  match src with
  | .port p => s.cfgNote a wr p (some (false, data))
  | _ => s

/-- A register access of `src` at `a` is carried out (R14, R51, R363, R502): the block is not off, the access is allowed and not
absorbed by a sink, and the register port has a free place. -/
structure State.MayAccess (s : State) (src : Src) (a : Nat) (wr : Bool) : Prop where
  mode : s.mode ≠ .off
  allowed : (src = .tarragon ∧ a = HA_FAB_EPOCH) ∨ src ≠ .tarragon ∧ s.regDenied src a wr = false ∧ s.sunkAt a = false
  place : ∀ p, src = .port p → s.cfg.length < 4

end Sys2Proof.Machine
end

