-- ==== Sys2Proof/Certificates/Slice0/Obligations.lean ====
section
/-! DEFINITION. Sys2Proof/Certificates/Slice0/Obligations.lean: the statements for the provers, and the definitions only they use. -/

open Sys2Proof Sys2Proof.Machine

/-- A step with a command at the front of the queue is that command's effect on the state with the queue's rest. The queue is the
model's own. -/
def Obligations.StepRunsTheFrontCommand : Prop :=
  ∀ (s : State) (c : Instr) (cs : List Instr), step { s with pending := c :: cs } = exec c { s with pending := cs }

/-- Every command, in every state, answers a next state, and so does every step: the model neither faults nor refuses. -/
def Obligations.EveryCommandIsTaken : Prop :=
  (∀ (c : Instr) (s : State), ∃ t, exec c s = .next t) ∧ ∀ s : State, ∃ t, step s = .next t

/-- The block right after cold reset (R396, R503). That the arrays the spec gives no value hold zeros is the model's choice
(log entry 3). -/
def Obligations.ColdResetState : Prop :=
  State.reset.mode = .strap ∧ State.reset.pending = [] ∧ State.reset.Canon ∧
  (∀ a, State.reset.raw a = regDefault a) ∧
  (∀ p, (State.reset.hpAt p).att = .idle ∧ (State.reset.hpAt p).ledger = []) ∧
  (∀ m, (State.reset.mpAt m).att = .idle ∧ (State.reset.mpAt m).mtags = []) ∧
  (∀ n, (State.reset.nd n).cons = true ∧ (State.reset.nd n).bank = [] ∧ (State.reset.nd n).trk = []) ∧
  (∀ q, (State.reset.qd q).pwr = .on) ∧ (∀ h, (State.reset.ses h).st = .closed) ∧ (∀ c, (State.reset.ch c).st = .idle) ∧
  State.reset.meas.slots = [] ∧ State.reset.bmem = [] ∧ State.reset.evq = [] ∧
  State.reset.bit HA_SF_CONS 0 = true ∧ State.reset.fld HA_FAB_EPOCH 15 8 = 0

/-- In a settled state, letting everything that waits go on changes nothing. -/
def Obligations.NothingWaits : Prop := ∀ s : State, s.Settled → s.goOn = s

/-- The instructions of Table 7.9 on registers that issue and do not single-step: rd takes the value Table 7.9 gives (g0 takes
none), the thread goes on at pc + 1, and no other register, thread, memory or array changes. HSLOT packs the home slot of PLA
rs1[39:0] with the node of the active home map, POPC counts ones, CLZ leading zeros, MOVF reads the event frame. -/
def Obligations.IntegerRegisterForms : Prop :=
  ∀ (s : State) (t : Thr) (w : Reg32) (a b : Word) (rd pc : Nat), rd = bf w 25 21 → a = (s.thr t).reg (bf w 20 16) →
    b = (s.thr t).reg (bf w 15 11) → pc = (s.thr t).pc + 1 → Passes s t pc →
    (Issues s t .add w → Gives (.add t w) s s t rd (BitVec.ofNat 64 (a.toNat + b.toNat)) pc) ∧
    (Issues s t .sub w → Gives (.sub t w) s s t rd (BitVec.ofInt 64 (a.toNat - b.toNat : Int)) pc) ∧
    (Issues s t .and w → Gives (.and t w) s s t rd (a &&& b) pc) ∧
    (Issues s t .or w → Gives (.or t w) s s t rd (a ||| b) pc) ∧
    (Issues s t .xor w → Gives (.xor t w) s s t rd (a ^^^ b) pc) ∧
    (Issues s t .sll w → Gives (.sll t w) s s t rd (BitVec.ofNat 64 (a.toNat * 2 ^ (b.toNat % 64))) pc) ∧
    (Issues s t .srl w → Gives (.srl t w) s s t rd (BitVec.ofNat 64 (a.toNat / 2 ^ (b.toNat % 64))) pc) ∧
    (Issues s t .sra w → Gives (.sra t w) s s t rd (BitVec.ofInt 64 (a.toInt / 2 ^ (b.toNat % 64))) pc) ∧
    (Issues s t .slt w → Gives (.slt t w) s s t rd (if a.toInt < b.toInt then 1 else 0) pc) ∧
    (Issues s t .sltu w → Gives (.sltu t w) s s t rd (if a.toNat < b.toNat then 1 else 0) pc) ∧
    (Issues s t .mul w → Gives (.mul t w) s s t rd (BitVec.ofNat 64 (a.toNat * b.toNat)) pc) ∧
    (∀ h, h = homeSlot (a.toNat % 2 ^ 40 / 4) → Issues s t .hslot w →
      Gives (.hslot t w) s s t rd (BitVec.ofNat 64 (h + 256 * (s.slotNode h).val)) pc) ∧
    (Issues s t .popc w → Gives (.popc t w) s s t rd (BitVec.ofNat 64 ((List.range 64).countP fun i => a.getLsbD i)) pc) ∧
    (Issues s t .clz w → Gives (.clz t w) s s t rd (BitVec.ofNat 64 (if a = 0 then 64 else 63 - a.toNat.log2)) pc) ∧
    (Issues s t .movf w → Gives (.movf t w) s s t rd ((s.thr t).frame (bf w 13 11)) pc)

/-- The immediate and bit-field instructions of Table 7.9 that issue and do not single-step. -/
def Obligations.IntegerImmediateForms : Prop :=
  ∀ (s : State) (t : Thr) (w : Reg32) (a old z x : Word) (rd pc pos len : Nat), rd = bf w 25 21 → a = (s.thr t).reg (bf w 20 16) →
    old = (s.thr t).reg rd → z = (w.setWidth 16).setWidth 64 → x = (w.setWidth 16).signExtend 64 → pos = bf w 15 10 →
    len = bf w 9 4 + 1 → pc = (s.thr t).pc + 1 → Passes s t pc →
    (Issues s t .addi w → Gives (.addi t w) s s t rd (a + x) pc) ∧
    (Issues s t .andi w → Gives (.andi t w) s s t rd (a &&& z) pc) ∧
    (Issues s t .ori w → Gives (.ori t w) s s t rd (a ||| z) pc) ∧
    (Issues s t .xori w → Gives (.xori t w) s s t rd (a ^^^ z) pc) ∧
    (Issues s t .slli w → Gives (.slli t w) s s t rd (BitVec.ofNat 64 (a.toNat * 2 ^ (bf w 5 0))) pc) ∧
    (Issues s t .srli w → Gives (.srli t w) s s t rd (BitVec.ofNat 64 (a.toNat / 2 ^ (bf w 5 0))) pc) ∧
    (Issues s t .srai w → Gives (.srai t w) s s t rd (BitVec.ofInt 64 (a.toInt / 2 ^ (bf w 5 0))) pc) ∧
    (Issues s t .slti w → Gives (.slti t w) s s t rd (if a.toInt < x.toInt then 1 else 0) pc) ∧
    (Issues s t .sltiu w → Gives (.sltiu t w) s s t rd (if a.toNat < x.toNat then 1 else 0) pc) ∧
    (Issues s t .orsh w → Gives (.orsh t w) s s t rd ((a <<< 16) ||| z) pc) ∧
    (Issues s t .ext w → pos + len ≤ 64 → Gives (.ext t w) s s t rd (BitVec.ofNat 64 (a.toNat / 2 ^ pos % 2 ^ len)) pc) ∧
    (Issues s t .ins w → pos + len ≤ 64 → ∃ v, Gives (.ins t w) s s t rd v pc ∧
      ∀ i < 64, v.getLsbD i = if pos ≤ i ∧ i < pos + len then a.getLsbD (i - pos) else old.getLsbD i)

/-- The branches of Table 7.9 that issue, whose way on lies in the program space, and that do not single-step. A branch writes no
register: writing g0 changes nothing. -/
def Obligations.Branches : Prop :=
  ∀ (s : State) (t : Thr) (w : Reg32) (a b : Word) (taken near to_ next : Nat), a = (s.thr t).reg (bf w 25 21) →
    b = (s.thr t).reg (bf w 20 16) → next = (s.thr t).pc + 1 →
    taken = (BitVec.ofNat 64 (s.thr t).pc + (w.setWidth 16).signExtend 64).toNat →
    near = (BitVec.ofNat 64 (s.thr t).pc + (w.setWidth 15).signExtend 64).toNat → Passes s t to_ →
    (Issues s t .beq w → to_ = (if a = b then taken else next) → Gives (.beq t w) s s t 0 0 to_) ∧
    (Issues s t .bne w → to_ = (if a ≠ b then taken else next) → Gives (.bne t w) s s t 0 0 to_) ∧
    (Issues s t .blt w → to_ = (if a.toInt < b.toInt then taken else next) → Gives (.blt t w) s s t 0 0 to_) ∧
    (Issues s t .bge w → to_ = (if b.toInt ≤ a.toInt then taken else next) → Gives (.bge t w) s s t 0 0 to_) ∧
    (Issues s t .bltu w → to_ = (if a.toNat < b.toNat then taken else next) → Gives (.bltu t w) s s t 0 0 to_) ∧
    (Issues s t .bgeu w → to_ = (if b.toNat ≤ a.toNat then taken else next) → Gives (.bgeu t w) s s t 0 0 to_) ∧
    (Issues s t .bbs w → to_ = (if a.getLsbD (bf w 20 15) then near else next) → Gives (.bbs t w) s s t 0 0 to_) ∧
    (Issues s t .bbc w → to_ = (if a.getLsbD (bf w 20 15) then next else near) → Gives (.bbc t w) s s t 0 0 to_)

/-- JAL and JALR that issue: inside the program space they link and go; outside it (R234) no register is written and the thread
takes the trap PC_RANGE, when it has no trap active and its vector lies in the program space. -/
def Obligations.Jumps : Prop :=
  ∀ (s : State) (t : Thr) (w : Reg32) (c : Instr) (target : Word) (pc : Nat), pc = (s.thr t).pc →
    (Issues s t .jal w ∧ c = .jal t w ∧ target = BitVec.ofNat 64 pc + (w.setWidth 21).signExtend 64 ∨
     Issues s t .jalr w ∧ c = .jalr t w ∧ target = (s.thr t).reg (bf w 20 16) + (w.setWidth 16).signExtend 64) →
    (Passes s t target.toNat → Gives c s s t (bf w 25 21) (BitVec.ofNat 64 (pc + 1)) target.toNat) ∧
    (pcIn t.core target.toNat = false → MayTrap s t 5 → ∃ u, exec c s = .next u ∧ Traps s u t 5 target pc)

/-- The traps that the word alone decides, for every instruction command: ILLEGAL for a word no table lists (R230), an unused bit
that is not zero, or an instruction outside the profile; then PRIV (R218) for an instruction marked S at flow privilege. -/
def Obligations.WordTraps : Prop :=
  ∀ (c : Instr) (s : State) (t : Thr) (o : Op) (w : Reg32) (cause : Nat), c.sage = some (t, o, w) → s.mayIssue t = true →
    s.fetch t.core (s.thr t).pc = (w, Ecc.good) → MayTrap s t cause →
    (cause = 1 ∧ opOf w = none ∨
     cause = 1 ∧ opOf w = some o ∧ (w.toNat &&& o.unused ≠ 0 ∨ t.core = .chervil ∧ o.engineOnly = true) ∨
     cause = 2 ∧ opOf w = some o ∧ w.toNat &&& o.unused = 0 ∧ ¬ (t.core = .chervil ∧ o.engineOnly = true) ∧
       o.super = true ∧ (s.thr t).priv = false) →
    ∃ u, exec c s = .next u.goOn ∧ Traps s u t cause (w.setWidth 64) (s.thr t).pc

/-- TRAP and RTE that issue (R249). -/
def Obligations.TrapAndReturn : Prop :=
  ∀ (s : State) (t : Thr) (w : Reg32) (x : Thread), x = s.thr t →
    (Issues s t .trap w → MayTrap s t 12 →
      ∃ u, exec (.trap t w) s = .next u.goOn ∧ Traps s u t 12 ((w.setWidth 16).setWidth 64) (x.pc + 1)) ∧
    (Issues s t .rte w → x.trapActive = true → NoMerge s t → Passes s t x.epc.toNat →
      ∃ u, exec (.rte t w) s = .next u.goOn ∧ OnlyThread s u t ∧
        Now u t { x with trapActive := false, priv := decide (t.core = .chervil) || bt x.ets 0, incomplete := bt x.ets 1,
                         trk := if bt x.ets 7 then some (bf x.ets 17 8) else none } x.epc.toNat) ∧
    (Issues s t .rte w → x.trapActive = false → MayTrap s t 11 →
      ∃ u, exec (.rte t w) s = .next u.goOn ∧ Traps s u t 11 9 x.pc)

/-- CRR and CRW that issue and do not single-step (Table 7.3); one rule for every bit not writable is log entry 121. -/
def Obligations.ControlRegisters : Prop :=
  ∀ (s : State) (t : Thr) (w : Reg32) (x : Thread) (v : Word) (i pc : Nat), x = s.thr t → v = x.reg (bf w 20 16) → i = bf w 15 0 →
    pc = x.pc + 1 →
    (Issues s t .crr w → x.priv = true → Passes s t pc → ∀ r, (i, r) ∈ [(0x000, s.tsWord t), (0x001, x.tc), (0x002, x.epc), (0x003, x.ecause),
        (0x004, x.eval), (0x005, x.ets), (0x006, x.tvec), (0x007, x.sscr), (0x100, 0x100),
        (0x101, if t.core = .chervil then 0x387 else 0x7FF),
        (0x102, match t.core with | .node n => BitVec.ofNat 64 n.val | .chervil => 0x3F), (0x103, s.time.setWidth 64),
        (0x104, BitVec.ofNat 64 (s.fld HA_RST_STAT 2 0)), (0x105, BitVec.ofNat 64 s.mode.code),
        (0x106, BitVec.ofNat 64 x.slice)] → GivesOn (.crr t w) s s t (bf w 25 21) r pc) ∧
    (Issues s t .crw w → x.priv = true → Passes s t pc → (i = 1 → v.toNat < 4 ∧ ¬ (s.lcOpen = true ∧ bt v 1 = true)) →
      (i = 3 → v.toNat < 32) →
      ∀ y, (i, y) ∈ [(0x001, { x with tc := v &&& 1 }), (0x002, { x with epc := v }), (0x003, { x with ecause := v &&& 31 }),
        (0x004, { x with eval := v }), (0x005, { x with ets := v }), (0x006, { x with tvec := v }), (0x007, { x with sscr := v })] ∨
        (i = 0 ∧ v = 2 ∧ y = { x with incomplete := false }) ∨ (i = 0 ∧ v = 0 ∧ y = x) →
      ∃ u, exec (.crw t w) s = .next u.goOn ∧ OnlyThread s u t ∧ Now u t y pc) ∧
    (MayTrap s t 1 → 0x106 < i ∨ 7 < i ∧ i < 0x100 → (Issues s t .crr w →
        ∃ u, exec (.crr t w) s = .next u.goOn ∧ Traps s u t 1 (w.setWidth 64) x.pc) ∧
      (Issues s t .crw w → ∃ u, exec (.crw t w) s = .next u.goOn ∧ Traps s u t 1 (w.setWidth 64) x.pc)) ∧
    (MayTrap s t 1 → 0xFF < i ∨ i = 0 ∧ v &&& 0xFFFFFFFFFFFFFFFD ≠ 0 ∨ i = 1 ∧ 4 ≤ v.toNat ∨ i = 3 ∧ 32 ≤ v.toNat →
      Issues s t .crw w → ∃ u, exec (.crw t w) s = .next u.goOn ∧ Traps s u t 1 (w.setWidth 64) x.pc) ∧
    (MayTrap s t 2 → x.priv = false → (i ≤ 7 ∨ 0xFF < i ∧ i ≤ 0x106 → Issues s t .crr w →
        ∃ u, exec (.crr t w) s = .next u.goOn ∧ Traps s u t 2 (w.setWidth 64) x.pc) ∧
      (i ≤ 7 → v = 0 → Issues s t .crw w →
        ∃ u, exec (.crw t w) s = .next u.goOn ∧ Traps s u t 2 (w.setWidth 64) x.pc)) ∧
    (MayTrap s t 13 → Issues s t .crw w → x.priv = true → pcIn t.core pc = true → i = 1 → s.lcOpen = true → (v = 2 ∨ v = 3) →
      ∃ u : State, exec (.crw t w) s = .next u.goOn ∧ (u.thr t).tc = v ∧ (u.thr t).ecause = 13 ∧ (u.thr t).epc = BitVec.ofNat 64 pc)

/-- The barriers (R248) and YIELD (R249) that issue. -/
def Obligations.BarriersAndYield : Prop :=
  ∀ (s : State) (t : Thr) (w : Reg32) (x : Thread) (pc rd : Nat), x = s.thr t → pc = x.pc + 1 → rd = bf w 25 21 →
    (Issues s t .cbar w → Passes s t pc → x.sb = [] → bt x.tc 0 = false →
      GivesOn (.cbar t w) s s t rd (if x.incomplete then 1 else 0) pc) ∧
    (Issues s t .cbar w → Passes s t pc → x.sb = [] → bt x.tc 0 = true → x.incomplete = false → GivesOn (.cbar t w) s s t rd 0 pc) ∧
    (Issues s t .cbarT w → Passes s t pc → x.sb = [] → x.incomplete = false → GivesOn (.cbarT t w) s s t rd 0 pc) ∧
    (x.sb = [] → x.incomplete = true → MayTrap s t 9 →
      (Issues s t .cbarT w → ∃ u, exec (.cbarT t w) s = .next u.goOn ∧ Traps s u t 9 x.disc x.pc) ∧
      (Issues s t .cbar w → bt x.tc 0 = true → ∃ u, exec (.cbar t w) s = .next u.goOn ∧ Traps s u t 9 x.disc x.pc)) ∧
    (x.sb ≠ [] → NoMerge s t → ∀ u, u = s.modThr t (fun y => { y with st := .stalled, pend := .again .barrier, via := none }) →
      (Issues s t .cbar w → exec (.cbar t w) s = .next u.goOn) ∧ (Issues s t .cbarT w → exec (.cbarT t w) s = .next u.goOn)) ∧
    (Issues s t .yieldT w → Passes s t pc → ∀ u, u = s.setCore t.core { s.core t.core with
        order := (s.core t.core).order.filter (· != t.t.val) ++ [t.t.val] } →
      ∃ z, exec (.yieldT t w) s = .next z.goOn ∧ OnlyThread u z t ∧ WroteRd u z t 0 0 pc ∧ (z.thr t).slice = 512)

/-- WAIT and END that issue (R247). -/
def Obligations.HandlerEnds : Prop :=
  (∀ (s : State) (n : NodeId) (t : Thr) (w : Reg32) (k : Nat), t.core = .node n → Issues s t .wait w → (s.thr t).trk = some k →
    bf w 25 19 ≠ 0 → (∀ i ∈ [0, 2], smGet (fun _ => 0) ((s.nd n).trkAt k).syn i = 0) → (∀ e ∈ (s.thr t).sb, e.parBad = false) →
    ∃ u : State, exec (.wait t w) s = .next u.goOn ∧ (u.thr t).st = .free ∧ (u.thr t).trk = none ∧ (u.thr t).handle = none ∧
      ((u.nd n).trkAt k).wait = bf w 25 19 ∧ ((u.nd n).trkAt k).resume = bf w 13 0 ∧
      (∀ j, j ≠ k → (u.nd n).trkAt j = (s.nd n).trkAt j) ∧
      (((s.nd n).trkAt k).v = true → ((s.nd n).trkAt k).wedged = false →
        (((u.nd n).trkAt k).waiting = false ↔ bf w 25 19 &&& (u.nd n).pendMask k ≠ 0)) ∧
      (NoMerge s t → ∀ m, { u.nd m with core := (s.nd m).core, trk := (s.nd m).trk } = s.nd m ∧
        ∀ j, j ≠ t → u.thr j = s.thr j)) ∧
  (∀ (s : State) (t : Thr) (w : Reg32) (cause : Nat) (v : Word), Issues s t .wait w → MayTrap s t cause →
    (bf w 25 19 = 0 ∧ cause = 1 ∧ v = w.setWidth 64 ∨ bf w 25 19 ≠ 0 ∧ (s.thr t).trk = none ∧ cause = 11 ∧ v = 1) →
    ∃ u : State, exec (.wait t w) s = .next u.goOn ∧ Traps s u t cause v (s.thr t).pc) ∧
  (∀ (s : State) (t : Thr) (w : Reg32), Issues s t .endH w → (s.thr t).trk = none → ∀ c s1, c = s.core t.core →
    s1 = s.setCore t.core { c with
      inbox := (match (s.thr t).inbox with | some k => c.inbox.filter (· != k) | none => c.inbox),
      starting := c.starting.filter (· != t.t.val) } →
    ∃ u : State, exec (.endH t w) s = .next u.goOn ∧ (u.thr t).st = .free ∧ (u.thr t).handle = none ∧ (u.thr t).inbox = none ∧
      (NoMerge s t → (u.thr t).g = (s.thr t).g ∧ OnlyThread s1 u t)) ∧
  (∀ (s : State) (t : Thr) (w : Reg32) (k : Nat), Issues s t .endH w → (s.thr t).trk = some k → MayTrap s t 11 →
    ∃ u : State, exec (.endH t w) s = .next u.goOn ∧ Traps s u t 11 5 (s.thr t).pc)

/-- Loads of a core's own data memory that complete at once, and the trap of a misaligned one. -/
def Obligations.LocalLoads : Prop :=
  ∀ (s : State) (t : Thr) (w : Reg32) (n : Nat) (o : Op) (c : Instr) (ea : Word) (pc : Nat),
    (n, o, c) ∈ [(1, Op.ld8, Instr.ld8 t w), (2, .ld16, .ld16 t w), (4, .ld32, .ld32 t w), (8, .ld64, .ld64 t w)] → Issues s t o w →
    ea = (s.thr t).reg (bf w 20 16) + (w.setWidth 16).signExtend 64 → pc = (s.thr t).pc + 1 →
    (eaSuper ea.toNat = true → (s.thr t).priv = true) →
    (∀ r k, s.regionOf t.core ea.toNat = some r → r.ramOf = some (t.core, k) → ea.toNat % n = 0 →
      (∀ e ∈ (s.thr t).sb, e.overlaps r.canon n = false) → smGet (fun _ => 0) (s.core t.core).ramSyn (k / 8) = 0 → Passes s t pc →
      GivesOn c s s t (bf w 25 21) (BitVec.ofNat 64 (memRead (s.core t.core).ram k n)) pc) ∧
    (ea.toNat % n ≠ 0 → MayTrap s t 3 → ∃ u, exec c s = .next u.goOn ∧ Traps s u t 3 ea (s.thr t).pc)

/-- Stores in FIFO mode (R292): the store enters the buffer, and memory changes only when it completes. -/
def Obligations.Stores : Prop :=
  ∀ (s : State) (t : Thr) (w : Reg32) (n : Nat) (o : Op) (c : Instr) (ea : Word) (x : Thread) (pc : Nat),
    (n, o, c) ∈ [(1, Op.st8, Instr.st8 t w), (2, .st16, .st16 t w), (4, .st32, .st32 t w), (8, .st64, .st64 t w)] → Issues s t o w →
    x = s.thr t → ea = x.reg (bf w 20 16) + (w.setWidth 16).signExtend 64 → pc = x.pc + 1 →
    (eaSuper ea.toNat = true → x.priv = true) →
    (∀ r, s.regionOf t.core ea.toNat = some r → r.widthOk true n = true → ea.toNat % n = 0 → s.sbm = false → x.sb.length < 16 →
      Passes s t pc → ∃ u e, exec c s = .next u.goOn ∧ OnlyThread s u t ∧ (u.thr t).sb.getLast? = some e ∧
        (u.thr t).sb.map (·.id) = x.sb.map (·.id) ++ [x.sbNext] ∧ (u.thr t).sbNext = x.sbNext + 1 ∧ (u.thr t).g = x.g ∧
        (u.thr t).pc = pc ∧ (u.thr t).st = .ready ∧ e.kind = .st ∧ e.addr = r.canon ∧ e.sent = none ∧ e.trk = x.trk ∧
        (∀ i < 64, e.mask.getLsbD i = (decide (r.canon % 64 ≤ i) && decide (i < r.canon % 64 + n))) ∧
        (∀ i < n, byteOf e.data (r.canon % 64 + i) = byteOf (x.reg (bf w 25 21)) i)) ∧
    (ea.toNat % n ≠ 0 → MayTrap s t 3 → ∃ u, exec c s = .next u.goOn ∧ Traps s u t 3 ea x.pc) ∧
    (ea.toNat % n = 0 → s.regionOf t.core ea.toNat = none → MayTrap s t 4 →
      ∃ u, exec c s = .next u.goOn ∧ Traps s u t 4 ea x.pc)

/-- Atomic operations on a core's own data memory: memory first, then rd. -/
def Obligations.LocalAtomics : Prop :=
  ∀ (s : State) (t : Thr) (w : Reg32) (o : Op) (c : Instr) (ea a old new : Word) (pc k : Nat) (r : Reg) (x : Thread) (m : Core),
    x = s.thr t → ea = x.reg (bf w 20 16) → a = x.reg (bf w 15 11) → pc = x.pc + 1 → m = s.core t.core →
    s.regionOf t.core ea.toNat = some r → r.ramOf = some (t.core, k) → old = BitVec.ofNat 64 (memRead m.ram k 8) →
    (o, c, new) ∈ [(Op.amoSwap, Instr.amoSwap t w, a), (.amoAdd, .amoAdd t w, old + a), (.amoOr, .amoOr t w, old ||| a),
      (.amoAnd, .amoAnd t w, old &&& a), (.amoCas, .amoCas t w, if old = x.reg (bf w 25 21) then a else old)] →
    Issues s t o w → (eaSuper ea.toNat = true → x.priv = true) → ea.toNat % 8 = 0 → (∀ e ∈ x.sb, e.overlaps r.canon 8 = false) →
    smGet (fun _ => 0) m.ramSyn (k / 8) = 0 → Passes s t pc →
    GivesOn c s (s.setCore t.core { m with ram := memWrite m.ram k new.toNat 8,
                                           ramSyn := smSet (fun _ => (0 : BitVec 8)) m.ramSyn (k / 8) 0 }) t (bf w 25 21) old pc

/-- The line-buffer instructions of Table 7.11 on intact entries that the bound tracker owns. The state each is compared with is
`s` with the entry, the tracker or the wait that the instruction changes; reading an entry rewrites it as it was. Which of the free
entries LBA takes is log entry 5's. -/
def Obligations.LineBuffer : Prop :=
  ∀ (s : State) (n : NodeId) (t : Thr) (w : Reg32) (x : Thread) (k d j pc rd : Nat) (a : Lbe), t.core = .node n → x = s.thr t →
    x.trk = some k → d = bf (x.reg (bf w 20 16)) 8 0 → a = (s.nd n).lbAt d → j = bf w 13 11 → pc = x.pc + 1 → rd = bf w 25 21 →
    Passes s t pc →
    (a.own = some k → a.parBad = 0 →
      (Issues s t .lbm w → ∀ e b, e = bf (x.reg (bf w 15 11)) 8 0 → b = (s.nd n).lbAt e → b.own = some k → b.parBad = 0 →
        ∃ v : Line, (∀ i < 64, byteOf v i = if a.mask.getLsbD i then byteOf a.data i else byteOf b.data i) ∧
          GivesOn (.lbm t w) s (s.modNd n fun y => y.setLb d
            { a with data := v, mask := BitVec.allOnes 64, poison := a.poison || b.poison }) t 0 0 pc) ∧
      (Issues s t .lbf w → smGet (fun _ => 0) ((s.nd n).trkAt k).syn 2 = 0 → GivesOn (.lbf t w) s (s.modNd n fun y =>
        let z := y.setLb d {}
        if (y.trkAt k).lbuf = d then z.setTrk k ((y.trkAt k).setW2 32 32 0) else z) t 0 0 pc) ∧
      (Issues s t .lbld w → GivesOn (.lbld t w) s (s.modNd n fun y => y.setLb d a) t rd
        (BitVec.ofNat 64 (a.data.toNat / 2 ^ (64 * j))) pc) ∧
      (Issues s t .lbst w → ∃ b : Lbe, GivesOn (.lbst t w) s (s.modNd n fun y => y.setLb d b) t 0 0 pc ∧
        b = { a with data := b.data, mask := b.mask } ∧
        ∀ i < 64, byteOf b.data i = (if i / 8 = j then byteOf (x.reg rd) (i % 8) else byteOf a.data i) ∧
          b.mask.getLsbD i = (decide (i / 8 = j) || a.mask.getLsbD i)) ∧
      (Issues s t .lbmask w → GivesOn (.lbmask t w) s (s.modNd n fun y => y.setLb d a) t rd a.mask pc) ∧
      (Issues s t .lbstat w → GivesOn (.lbstat t w) s (s.modNd n fun y => y.setLb d a) t rd
        (BitVec.ofNat 64 (2 * b2n a.landed + b2n a.poison)) pc)) ∧
    (Issues s t .lba w →
      (∀ e, (s.nd n).freeLb = some e → ((s.nd n).lbAt e).own = none ∧ e < 512 ∧
        GivesOn (.lba t w) s (s.modNd n fun y =>
          let z := y.setLb e { own := some k }
          if (y.trkAt k).lbufV then z else z.setTrk k (((y.trkAt k).setW2 31 23 e).setW2 32 32 1)) t rd (BitVec.ofNat 64 e) pc) ∧
      ((∀ e < 512, ((s.nd n).lbAt e).own ≠ none) → k ∉ (s.nd n).lbWait →
        GivesOn (.lba t w) s (s.modNd n fun y =>
          { y.setTrk k { y.trkAt k with lbWant := true, lbGot := false } with lbWait := y.lbWait ++ [k] }) t rd
          0x8000000000000000 pc))

/-- The STATE traps of the array instructions (Table 7.8a). -/
def Obligations.ArrayStates : Prop :=
  ∀ (s : State) (n : NodeId) (t : Thr) (w : Reg32) (o : Op) (c : Instr) (x : Thread) (sub : Nat), t.core = .node n → x = s.thr t →
    Issues s t o w → MayTrap s t 11 →
    (sub = 1 ∧ x.trk = none ∧ (o, c) ∈ [(Op.lbm, Instr.lbm t w), (.lba, .lba t w), (.lbf, .lbf t w), (.lbld, .lbld t w),
        (.lbst, .lbst t w), (.lbmask, .lbmask t w), (.lbstat, .lbstat t w), (.sfa, .sfa t w), (.tfind, .tfind t w),
        (.tchain, .tchain t w), (.tfree, .tfree t w), (.trd, .trd t w), (.twr, .twr t w), (.plk, .plk t w)] ∨
     sub = 3 ∧ x.trk ≠ none ∧ ((s.nd n).lbAt (bf (x.reg (bf w 20 16)) 8 0)).own ≠ x.trk ∧
        (o, c) ∈ [(Op.lbm, Instr.lbm t w), (.lbf, .lbf t w), (.lbld, .lbld t w), (.lbst, .lbst t w), (.lbmask, .lbmask t w),
          (.lbstat, .lbstat t w)] ∨
     sub = 7 ∧ x.trk ≠ none ∧ x.handle ≠ some (bf (x.reg (bf w 20 16)) 39 2, .miss) ∧ (o, c) = (Op.sfa, Instr.sfa t w) ∨
     (∃ k, x.trk = some k ∧ (sub = 6 ∧ (o, c) = (Op.tfree, Instr.tfree t w) ∧ (((s.nd n).trkAt k).snpOut ≠ 0 ∨
          ((s.nd n).trkAt k).rdOut = true ∨ ((s.nd n).trkAt k).wrOut = true ∨
          ((s.nd n).trkAt k).ledgered = true ∧ ((s.nd n).trkAt k).rsp = false) ∨
        sub = 8 ∧ (o, c) = (Op.tchain, Instr.tchain t w) ∧ (∃ l ∈ (s.nd n).linesOf k, (s.nd n).active l = some k) ∨
        sub = 2 ∧ (o, c) = (Op.twr, Instr.twr t w) ∧ bf w 13 11 ∈ [0, 1, 2, 4, 5]))) →
    ∃ u, exec c s = .next u.goOn ∧ Traps s u t 11 (BitVec.ofNat 64 sub) x.pc

/-- The lookups of Table 7.12 on intact bank entries. -/
def Obligations.SnoopFilterLookup : Prop :=
  ∀ (s : State) (n : NodeId) (t : Thr) (w : Reg32) (x : Thread) (v unk : Word) (sec pc rd : Nat), t.core = .node n → x = s.thr t →
    v = x.reg (bf w 20 16) → sec = bf v 39 2 → pc = x.pc + 1 → rd = bf w 25 21 → Passes s t pc →
    unk = (if (s.nd n).cons then BitVec.ofNat 64 (2 ^ 58) else 0) →
    (Issues s t .sfl w → (s.nd n).repairs = [] → (s.nd n).resv = [] → (s.nd n).evicts = [] →
      (∀ p, s.bankPos n sec = some p →
        (∀ y ∈ p.ways, ∀ e, e = (s.nd n).entry (bankKey p.set y) → (entCheck e).1 = .good ∧ entLive (s.nd n).cons e = e) →
        (s.bit HA_OVF_CTRL 0 = true → smGet (fun _ => 0) (s.nd n).rmapSyn (s.region sec / 64) = 0) →
        (∀ y e, y ∈ p.ways → e = (s.nd n).entry (bankKey p.set y) → entValid e = true → bf e 19 0 = p.tag →
          (∀ z ∈ p.ways, z ≠ y → entValid ((s.nd n).entry (bankKey p.set z)) = true →
            bf ((s.nd n).entry (bankKey p.set z)) 19 0 ≠ p.tag) →
          ∃ u, exec (.sfl t w) s = .next u.goOn ∧ OnlyThread s u t ∧
            Now u t ({ x with handle := some (sec, .bank (bankKey p.set y)) }.setReg rd
              (BitVec.ofNat 64 (bf e 55 0 + 2 ^ 56))) pc) ∧
        ((∀ y ∈ p.ways, entValid ((s.nd n).entry (bankKey p.set y)) = true → bf ((s.nd n).entry (bankKey p.set y)) 19 0 ≠ p.tag) →
          (s.regionHit n sec = false →
            ∃ u, exec (.sfl t w) s = .next u.goOn ∧ OnlyThread s u t ∧
              Now u t ({ x with handle := some (sec, .miss) }.setReg rd unk) pc) ∧
          (∀ i y, s.regionHit n sec = true → s.bmIn (s.ovfLine (s.ovfSet sec)) = true →
            s.bmIssue (.sflOvf t) false (s.ovfLine (s.ovfSet sec)) 0 0 = some (i, y) → ∃ u, exec (.sfl t w) s = .next u.goOn ∧
              OnlyThread y u t ∧ (u.thr t).st = .stalled ∧ (u.thr t).pend = .ovf rd sec ∧ (u.thr t).g = x.g ∧ (u.thr t).pc = x.pc))) ∧
      (s.bankPos n sec = none → ∃ u, exec (.sfl t w) s = .next u.goOn ∧ OnlyThread (s.raise (ndA n ND_SF_ERR) 6) u t ∧
        Now u t ({ x with handle := some (sec, .miss) }.setReg rd (BitVec.ofNat 64 (2 ^ 59) ||| unk)) pc)) ∧
    (Issues s t .sfl w → (s.nd n).repairs = [] → (∃ r ∈ (s.nd n).resv, r.2.2 = sec) → exec (.sfl t w) s =
      .next (s.modThr t fun y => { y with st := .stalled, pend := .again (.sector sec), via := none }).goOn) ∧
    (∀ k e l, k = bankKey (bf v 12 0) (bf v 16 13) → e = (s.nd n).entry k → (entCheck e).1 = .good → l = entLive (s.nd n).cons e →
      (Issues s t .sfrd w → GivesOn (.sfrd t w) s s t rd (BitVec.ofNat 64 (bf l 55 0 + b2n (entValid l) * 2 ^ 56
        + b2n (((s.nd n).resv.any fun r => r.1 == k) || (s.nd n).evicts.any fun o => o.req.isSome && o.key == k) * 2 ^ 57
        + b2n ((s.nd n).repairs.any fun r => !r.ovf && r.key == k) * 2 ^ 58)) pc) ∧
      (Issues s t .sfsec w → GivesOn (.sfsec t w) s s t rd (if entValid l then
          BitVec.ofNat 64 (s.sectorOf n (bf v 12 0) (bf v 16 13) (bf l 19 0)) else 0x8000000000000000) pc))

/-- SFA that finds a free way and SFU of a flow that is no write and has no loss to count, through a reservation or its handle
(R155, R156, R241). -/
def Obligations.SnoopFilterUpdate : Prop :=
  ∀ (s : State) (n : NodeId) (t : Thr) (w : Reg32) (x : Thread) (v : Word) (sec k pc rd : Nat) (p : BankPos), t.core = .node n →
    x = s.thr t → sec = bf (x.reg (bf w 20 16)) 39 2 → v = x.reg (bf w 15 11) → pc = x.pc + 1 → rd = bf w 25 21 → x.trk = some k →
    Passes s t pc → s.bankPos n sec = some p → (s.nd n).repairs = [] →
    (∀ y, Issues s t .sfa w → x.handle = some (sec, .miss) → (s.nd n).resv = [] → (s.nd n).evicts = [] → (s.nd n).wayWait = [] →
      (∀ z ∈ p.ways, ∀ e, e = (s.nd n).entry (bankKey p.set z) → (entCheck e).1 = .good ∧ entLive (s.nd n).cons e = e ∧
        (entValid e = true → bf e 19 0 ≠ p.tag)) →
      p.ways.find? (fun z => !entValid ((s.nd n).entry (bankKey p.set z))) = some y →
      GivesOn (.sfa t w) s (s.modNd n fun q =>
        { q.setEntry (bankKey p.set y) 0 with resv := [(bankKey p.set y, k, sec)] }) t rd 0 pc) ∧
    (∀ j, Issues s t .sfu w → ((s.nd n).trkAt k).isWr = false → ((s.nd n).trkAt k).wbSeen = false →
      bt ((s.nd n).trkAt k).w3 13 = false → (entCheck ((s.nd n).entry j)).1 = .good →
      (∀ h ls i u, x.handle = some (sec, .miss) → (s.nd n).resv = [(j, k, sec)] → (s.nd n).entry j = 0 → s.mode ≠ .evacuate →
        h < 1024 → (ls = 1 ∨ ls = 2) → i < 4 → v = BitVec.ofNat 64 (2 ^ i + ls * 2 ^ (4 + 2 * i) + 2 ^ 12 + h * 2 ^ 16) →
        u = (fun e : Word => s.modNd n fun q => { q.setEntry j e with resv := [] }) →
        ∃ e, GivesOn (.sfu t w) s (u e) t rd 0 pc ∧ (∀ m < 4, entLs e m = if m = i then ls else 0) ∧ bf e 19 0 = p.tag ∧
          entSel e = 0 ∧ entShr e = h ∧ entLoss e = false ∧ (entCheck e).1 = .good) ∧
      (x.handle = some (sec, .bank j) → (s.nd n).cons = false → entLoss ((s.nd n).entry j) = false → v = 15 →
        GivesOn (.sfu t w) s (s.modNd n fun q =>
          { q.setEntry j 0 with resv := q.resv.filter fun r => r.2.1 != k }) t rd 0 pc)) ∧
    (Issues s t .sfu w → x.handle = some (sec, .lost) → bf v 63 27 = 0 → bf v 13 12 ≠ 3 → GivesOn (.sfu t w) s s t rd 1 pc) ∧
    (Issues s t .sfu w → bf v 63 27 ≠ 0 ∨ bf v 13 12 = 3 → MayTrap s t 1 →
      ∃ u, exec (.sfu t w) s = .next u.goOn ∧ Traps s u t 1 (w.setWidth 64) x.pc) ∧
    (Issues s t .sfu w → x.handle = none → (∀ r ∈ (s.nd n).resv, r.2.1 ≠ k) → bf v 63 27 = 0 → bf v 13 12 ≠ 3 → s.mode ≠ .evacuate →
      bf v 12 12 = 1 ∨ bf v 26 26 = 1 → MayTrap s t 11 → ∃ u, exec (.sfu t w) s = .next u.goOn ∧ Traps s u t 11 7 x.pc)

/-- The tracker instructions of Table 7.13 on intact tracker words. -/
def Obligations.TrackerInstructions : Prop :=
  ∀ (s : State) (n : NodeId) (t : Thr) (w : Reg32) (x : Thread) (v : Word) (k i l pc rd : Nat) (r : Trk), t.core = .node n →
    x = s.thr t → v = x.reg (bf w 20 16) → pc = x.pc + 1 → rd = bf w 25 21 → i = bf w 13 11 → l = bf v 39 0 → Passes s t pc →
    x.trk = some k → r = (s.nd n).trkAt k →
    (Issues s t .tfind w → GivesOn (.tfind t w) s s t rd (match (s.nd n).chain l with
      | [] => 0
      | a :: c => BitVec.ofNat 64 (a + 2 ^ 10 + min c.length 1023 * 2 ^ 11)) pc) ∧
    (Issues s t .tchain w → (s.nd n).linesOf k = [] → (∀ j ∈ [0, 2], smGet (fun _ => 0) r.syn j = 0) → bt w 11 = true →
      ∃ u : State, exec (.tchain t w) s = .next u.goOn ∧ ((u.nd n).trkAt k).pla.toNat = r.pla.toNat / 4 * 4 ∧
        bt ((u.nd n).trkAt k).w2 22 = true ∧ (u.thr t).pc = pc ∧ (rd ≠ 0 → (u.thr t).reg rd =
          if (List.range 4).all (fun i => (s.nd n).chain (l / 4 * 4 + i) == []) then 1 else 0) ∧ (∀ m, m ≠ k → (u.nd n).trkAt m = (s.nd n).trkAt m) ∧
        ∀ m, (u.nd n).chain m = if m / 4 = l / 4 then (s.nd n).chain m ++ [k] else (s.nd n).chain m) ∧
    (Issues s t .tchain w → bt w 11 = false → (s.nd n).linesOf k = [] → smGet (fun _ => 0) r.syn 2 = 0 →
      GivesOn (.tchain t w) s (s.modNd n fun y => (y.setChain l ((s.nd n).chain l ++ [k])).setTrk k (r.setW2 22 22 0)) t rd
        (if (s.nd n).chain l = [] then 1 else 0) pc) ∧
    (Issues s t .trd w → smGet (fun _ => 0) r.syn i = 0 → GivesOn (.trd t w) s s t rd ((s.nd n).trkWord k i) pc) ∧
    (Issues s t .trdx w → smGet (fun _ => 0) ((s.nd n).trkAt (bf v 9 0)).syn (bf v 12 10) = 0 →
      GivesOn (.trdx t w) s s t rd ((s.nd n).trkWord (bf v 9 0) (bf v 12 10)) pc) ∧
    (Issues s t .twr w → (i = 6 → GivesOn (.twr t w) s (s.modTrk n k fun q =>
          { q with w6 := v, syn := smSet (fun _ => (0 : BitVec 8)) q.syn 6 0 }) t 0 0 pc) ∧
      (i = 7 → GivesOn (.twr t w) s (s.modTrk n k fun q =>
          { q with w7 := v, syn := smSet (fun _ => (0 : BitVec 8)) q.syn 7 0 }) t 0 0 pc) ∧
      (i = 3 → smGet (fun _ => 0) r.syn 3 = 0 → ∃ z : Word, GivesOn (.twr t w) s (s.modTrk n k fun q => { q with w3 := z }) t 0 0 pc ∧
        ∀ b < 64, z.getLsbD b = if b = 13 ∨ b = 15 then v.getLsbD b else r.w3.getLsbD b)) ∧
    (Issues s t .tfree w → r.snpOut = 0 → r.rdOut = false → r.wrOut = false → (r.ledgered = true → r.rsp = true) → r.wedged = false →
      (∀ m ∈ (s.nd n).linesOf k, (s.nd n).chain m = [k]) →
      ∃ u, exec (.tfree t w) s = .next u.goOn ∧ Now u t { x with trk := none } pc ∧ ((u.nd n).trkAt k).v = false ∧
        (∀ m, k ∉ (u.nd n).chain m) ∧ (∀ e, ((u.nd n).lbAt e).own ≠ some k) ∧ (∀ q ∈ (u.nd n).resv, q.2.1 ≠ k) ∧
        ∀ m, m ≠ k → (u.nd n).trkAt m = (s.nd n).trkAt m)

/-- TALLOC that issues (R242). Which free tracker is taken is the model's choice (log entry 5). -/
def Obligations.InternalFlowStart : Prop :=
  ∀ (s : State) (n : NodeId) (t : Thr) (w : Reg32) (x : Thread) (v : Word) (pla : BitVec 40) (pc rd : Nat), t.core = .node n →
    x = s.thr t → v = x.reg (bf w 20 16) → pla = (x.reg (bf w 15 11)).setWidth 40 → pc = x.pc + 1 → rd = bf w 25 21 →
    Issues s t .talloc w →
    (x.priv = true → Passes s t pc → (bf v 3 0 = 3 ∨ bf v 3 0 = 4) → bf v 63 33 = 0 →
      (∀ p i, (s.nd n).intQ = [] → s.freePool n [.int, .gen] = some p → (s.nd n).freeIdx = some i →
        ∃ (u : State) (r : Trk) (e : Evt), exec (.talloc t w) s = .next u.goOn ∧ (u.thr t).pc = pc ∧
          (u.thr t).reg rd = 0 ∧ (∀ j, j ≠ rd → (u.thr t).reg j = x.reg j) ∧ (u.nd n).trkAt i = r ∧ r.v = true ∧ r.kind = bf v 3 0 ∧ r.cls = bf v 6 4 ∧
          r.pla = pla ∧ r.host.toNat = bf v 16 7 ∧ r.ctx.toNat = bf v 32 17 ∧ r.start = v ∧ r.pool = p ∧
          (∀ j, j ≠ i → (u.nd n).trkAt j = (s.nd n).trkAt j) ∧ (u.nd n).core.events = (s.nd n).core.events ++ [e] ∧
          e.evt = (if bf v 3 0 = 3 then 0x20 else 0x21) ∧ e.trk = some i ∧ e.datum = v ∧ e.cls.toNat = bf v 6 4 ∧
          (u.nd n).intQ = []) ∧
      (∀ q qs, (s.nd n).intQ = q :: qs → (∀ a ∈ q :: qs, ∃ b y, a = .talloc b y) → qs.length < 63 →
        GivesOn (.talloc t w) s (s.modNd n fun y => { y with intQ := q :: qs ++ [.talloc v pla] }) t rd 1 pc) ∧
      (∀ q qs, (s.nd n).intQ = q :: qs → (∀ a ∈ q :: qs, ∃ b y, a = .talloc b y) → 63 ≤ qs.length →
        GivesOn (.talloc t w) s s t rd 2 pc)) ∧
    (bf v 3 0 ≠ 3 ∧ bf v 3 0 ≠ 4 ∨ bf v 63 33 ≠ 0 → MayTrap s t 1 →
      ∃ u, exec (.talloc t w) s = .next u.goOn ∧ Traps s u t 1 (w.setWidth 64) x.pc) ∧
    (x.priv = false → (bf v 3 0 = 3 ∨ bf v 3 0 = 4) → bf v 63 33 = 0 → MayTrap s t 2 →
      ∃ u, exec (.talloc t w) s = .next u.goOn ∧ Traps s u t 2 (w.setWidth 64) x.pc)

/-- PLK that issues with a bound tracker (R244). -/
def Obligations.PlacementLookup : Prop :=
  ∀ (s : State) (n : NodeId) (t : Thr) (w : Reg32) (x : Thread) (pla : BitVec 40) (k pc rd : Nat), t.core = .node n → x = s.thr t →
    pla = (x.reg (bf w 20 16)).setWidth 40 → pc = x.pc + 1 → rd = bf w 25 21 → x.trk = some k → Issues s t .plk w →
    (∀ y e f a, Passes s t pc → s.plcHit n (plaExt pla) = (some e, y) → bt e 0 = true → bt e 1 = false → f = bf e 21 2 → 64 ≤ f →
      bf e 63 22 = 0 → smGet (fun _ => 0) ((y.nd n).trkAt k).syn 4 = 0 → a = f * 2 ^ 26 + pla.toNat % 2 ^ 20 * 64 →
      GivesOn (.plk t w) s (y.modTrk n k fun r => (r.setW4 48 29 f).setW4 49 49 0) t rd
        (BitVec.ofNat 64 (a + (s.mpOf (BitVec.ofNat 46 a)).val * 2 ^ 48)) pc) ∧
    (∀ l i z y, pcIn t.core pc = true → s.plcHit n (plaExt pla) = (none, z) → l = z.plcLine (plaExt pla) → l * 64 < z.bmBytes →
      (z.cntN n 0x011 1).bmIssue (.plk t) false l 0 0 = some (i, y) →
      ∃ u, exec (.plk t w) s = .next u.goOn ∧ (u.thr t).st = .stalled ∧ (u.thr t).pend = .plk rd pla none ∧ (u.thr t).pc = x.pc ∧
        (u.thr t).g = x.g ∧ OnlyThread y u t) ∧
    (∀ z, Passes s t pc → s.plcHit n (plaExt pla) = (none, z) → z.bmBytes ≤ z.plcLine (plaExt pla) * 64 →
      GivesOn (.plk t w) s (((z.cntN n 0x011 1).raise HA_INPUT_ERR 12).raise HA_XLT_ERR 2) t rd (BitVec.ofNat 64 (2 * 2 ^ 60)) pc)

/-- SEND.SNP (Table 7.14a): the hosts of each set, the count in SNP_OUT and rd, and the snoop that each host's shell is given. -/
def Obligations.SendSnoops : Prop :=
  ∀ (s a b : State) (n : NodeId) (t : Thr) (w : Reg32) (x : Thread) (k o blk : Nat) (v : Word) (pla : BitVec 40) (hs : List Nat)
    (named : Bool), t.core = .node n → x = s.thr t → x.trk = some k → v = x.reg (bf w 15 11) → o = bf w 6 4 → blk = bf w 8 7 →
    pla = BitVec.ofNat 40 (bf (x.reg (bf w 20 16)) 39 0) → Passes s t (x.pc + 1) → Issues s t .sendSnp w →
    smGet (fun _ => 0) ((s.nd n).trkAt k).syn 3 = 0 →
    o ∉ [3, 7] → (if o < 3 then blk = 0 else blk = 1 ∧ pla.toNat % 2 = 0 ∨ blk = 2 ∧ pla.toNat % 4 = 0) →
    (bf w 10 9, named, hs) ∈
      [(0, decide (entSel v ≤ 1), s.openHosts.filter fun h => entNames v h && !s.skips h (decide (entSel v ≤ 1)) pla &&
          h != ((s.nd n).trkAt k).host.toNat),
       (1, decide (entSel v ≤ 1), s.openHosts.filter fun h => entNames v h && !s.skips h (decide (entSel v ≤ 1)) pla),
       (2, s.ptrNames n (plaSector pla) (bf v 9 0), s.openHosts.filter fun h =>
          h == bf v 9 0 && !s.skips h (s.ptrNames n (plaSector pla) (bf v 9 0)) pla),
       (3, false, s.attachedHosts.filter fun h => !s.skips h false pla)] →
    a = (s.modTrk n k fun r => r.setW3 10 0 (r.snpOut + hs.length)).cntN n 0x00A hs.length →
    b = (if bf w 10 9 = 3 ∧ (s.nd n).cons = true then a.cntN n 0x018 1 else a) →
    GivesOn (.sendSnp t w) s
      (b.sendSnoops n { op := BitVec.ofNat 3 o, blk := BitVec.ofNat 2 blk, host := 0, pla := pla, own := .flow n k, named := named,
                        lines := if blk = 0 then BitVec.ofNat 4 (2 ^ (pla.toNat % 4))
                                 else if blk = 1 then BitVec.ofNat 4 (3 * 2 ^ (pla.toNat % 4)) else 15 } hs) t
      (bf w 25 21) (BitVec.ofNat 64 hs.length) (x.pc + 1)

/-- SEND.MRD (Table 7.14a) outside the metadata frames or at supervisor privilege. -/
def Obligations.SendMediaReads : Prop :=
  ∀ (s : State) (n : NodeId) (t : Thr) (w : Reg32) (x : Thread) (k : Nat) (a : BitVec 46) (v : Word) (m : MpId) (es : List Nat)
    (blk : Bool) (rd : Nat → List Nat → BitVec 4 → Mtag) (done : State → Nat → Nat → State), t.core = .node n → x = s.thr t →
    x.trk = some k → v = x.reg (bf w 15 11) → a = BitVec.ofNat 46 (bf (x.reg (bf w 20 16)) 45 0) → m = s.mpOf a →
    es = (if bt w 4 then [bf v 8 0, bf v 17 9, bf v 26 18, bf v 35 27] else [bf v 8 0]) →
    blk = ((s.mpAt m).att.ver == 2 && bt (s.mpAt m).att.caps 0) →
    rd = (fun i es left => { own := .flow n k, kind := .rd, maddr := a + BitVec.ofNat 46 (64 * i), ents := es, left := left }) →
    done = (fun u g c => (u.modTrk n k fun r => ((r.setW4 2 0 m.val).setW4 26 15 g).setW4 28 28 1).cntN n 0x012 c) →
    Passes s t (x.pc + 1) → Issues s t .sendMrd w → a.toNat % (if bt w 4 then 256 else 64) = 0 →
    (a.toNat / 2 ^ 26 % 2 ^ 20 < 64 → x.priv = true) → (∀ e ∈ es, ((s.nd n).lbAt e).own = some k) →
    smGet (fun _ => 0) ((s.nd n).trkAt k).syn 4 = 0 →
    (∀ g u, bt w 4 = false → s.mpIssue m (rd 0 es 1) = some (g, u) → GivesOn (.sendMrd t w) s (done u g 1) t 0 0 (x.pc + 1)) ∧
    (∀ g u, bt w 4 = true → blk = true → s.mpIssue m (rd 0 es 15) = some (g, u) →
      GivesOn (.sendMrd t w) s (done u g 1) t 0 0 (x.pc + 1)) ∧
    (∀ g g1 g2 g3 u1 u2 u3 u, bt w 4 = true → blk = false → s.mpIssue m (rd 0 [bf v 8 0] 1) = some (g, u1) →
      u1.mpIssue m (rd 1 [bf v 17 9] 1) = some (g1, u2) → u2.mpIssue m (rd 2 [bf v 26 18] 1) = some (g2, u3) →
      u3.mpIssue m (rd 3 [bf v 35 27] 1) = some (g3, u) → GivesOn (.sendMrd t w) s (done u g 4) t 0 0 (x.pc + 1)) ∧
    ((s.mpAt m).freeTag = none → exec (.sendMrd t w) s =
      .next (s.modThr t fun x => { x with st := .stalled, pend := .again .tag, via := none }).goOn)

/-- SEND.MWR (Table 7.14a) of an intact entry outside the metadata frames or at supervisor privilege: one tag, or the two of a
write that a mirror slot doubles (R335); no survivor table holds an error, nor word 4 of the tracker. -/
def Obligations.SendMediaWrites : Prop :=
  ∀ (s : State) (n : NodeId) (t : Thr) (w : Reg32) (x : Thread) (k e : Nat) (a : BitVec 46) (m : MpId) (b : Lbe), t.core = .node n →
    x = s.thr t → x.trk = some k → e = bf (x.reg (bf w 15 11)) 8 0 → a = BitVec.ofNat 46 (bf (x.reg (bf w 20 16)) 45 0) →
    m = s.mpOf a → b = (s.nd n).lbAt e → b.own = some k → b.parBad = 0 → Passes s t (x.pc + 1) → Issues s t .sendMwr w →
    a.toNat % 64 = 0 → (a.toNat / 2 ^ 26 % 2 ^ 20 < 64 → x.priv = true) →
    (16 ≤ x.sb.length → exec (.sendMwr t w) s =
      .next (s.modThr t fun x => { x with st := .stalled, pend := .again .sbFull, via := none }).goOn) ∧
    (x.sb.length < 16 → s.heldByWb n k = true → exec (.sendMwr t w) s =
      .next (s.modThr t fun x => { x with st := .stalled, pend := .again (.writeBack ((s.nd n).trkAt k).pla), via := none }).goOn) ∧
    (∀ g, x.sb.length < 16 → s.heldByWb n k = false → smGet (fun _ => 0) ((s.nd n).trkAt k).syn 4 = 0 → s.survSyn = [] →
      g = { own := .flow n k, kind := .wr, maddr := a, data := b.data, poison := b.poison || bt w 4, comp := s.cmpOf n k (bt w 4),
            sb := some (t.t, x.sbNext), dh := s.dhOf ((s.nd n).trkAt k),
            loss := ((s.nd n).trkAt k).ownWrite (bt w 4) && !s.dhint ((s.nd n).trkAt k) && (s.cmpOf n k (bt w 4)).isNone } →
      ((s.mpAt m).freeTag = none → exec (.sendMwr t w) s =
        .next (s.modThr t fun x => { x with st := .stalled, pend := .again .tag, via := none }).goOn) ∧
      (∀ i, s.mirrorOf m a = none → (s.mpAt m).freeTag = some i →
        s.mwrTags m g = some (i, s.setMp m ((s.mpAt m).setTag i (some { g with at_ := s.tmo })))) ∧
      (∀ c i j u z, s.mirrorOf m a = some c → s.mpAlloc m g = some (i, u) →
        u.mpAlloc m { g with maddr := c, pair := some i, comp := none, sb := none } = some (j, z) →
        s.mwrTags m g = some (i, z.setMp m ((z.mpAt m).setTag i (some { g with pair := some j, at_ := z.tmo })))) ∧
      (∀ i u ent, s.mwrTags m g = some (i, u) →
        ent = { id := x.sbNext, kind := .mwr, addr := a.toNat, pc := x.pc, trk := some k, mp := m.val, mtag := i,
                merging := s.sbm } →
        GivesOn (.sendMwr t w) s
          (((u.modTrk n k fun r =>
              let r := ((r.setW4 2 0 m.val).setW4 14 3 i).setW4 27 27 1
              if (s.cmpOf n k (bt w 4)).isSome then { r with rsp := true } else r).modThr t fun x =>
            { x with sb := x.sb ++ [ent], sbNext := x.sbNext + 1 }).cntN n 0x013 1) t 0 0 (x.pc + 1)))

/-- SEND.RSP (R246); what EVACUATE sends is log entry 119's. -/
def Obligations.SendResponses : Prop :=
  ∀ (s : State) (n : NodeId) (t : Thr) (w : Reg32) (x : Thread) (k : Nat) (v : Word) (r : Trk) (sent : State → State), t.core = .node n →
    x = s.thr t → x.trk = some k → v = x.reg (bf w 20 16) → r = (s.nd n).trkAt k → Issues s t .sendRsp w → bf v 63 12 = 0 →
    sent = (fun u => u.modTrk n k fun r => { r with rsp := true }) →
    (Passes s t (x.pc + 1) → r.rsp = false → s.withheld n.val = false →
      (∀ e b, bt w 4 = true → bf v 3 0 ≤ 1 → bf v 9 8 ≠ 3 → bf v 11 10 = 0 → e = bf (x.reg (bf w 15 11)) 8 0 → b = (s.nd n).lbAt e →
        b.own = some k → b.parBad = 0 → s.heldByWb n k = false →
        GivesOn (.sendRsp t w) s (sent (if r.ledgered then s.answerDrs r.port r.ledger (drsWord (bf v 3 0) r.host r.tag
          (s.devload n r.port r.cls) (if s.mode = .evacuate then 0 else bf v 9 8) (bf v 7 4)) b.data b.poison else s)) t 0 0 (x.pc + 1)) ∧
      (∀ nd, bt w 4 = false → bf v 3 0 ∈ [0, 1, 2, 4] → bf v 9 8 = 0 → (bf v 3 0 ≠ 0 → bf v 11 10 = 0) →
        nd = ndrWord (if s.mode = .evacuate ∧ bf v 3 0 ≤ 2 then 0 else bf v 3 0) r.host r.tag (s.devload n r.port r.cls) (bf v 7 4) (bf v 10 10) →
        (bt v 11 = false → GivesOn (.sendRsp t w) s (sent (if r.ledgered then s.answerNdr r.port r.ledger nd else s)) t 0 0 (x.pc + 1)) ∧
        (∀ (m : MpId) i g, bt v 11 = true → r.ledgered = true → r.wrOut = true → m = Fin.ofNat 8 (bf r.w4 2 0) → i = bf r.w4 14 3 →
          (s.mpAt m).mtag i = some g → GivesOn (.sendRsp t w) s
            (sent (s.setMp m ((s.mpAt m).setTag i (some { g with onack := some (r.port, r.ledger, nd) })))) t 0 0 (x.pc + 1)))) ∧
    (r.rsp = false → s.withheld n.val = true → bt w 4 = false → bf v 3 0 ∈ [0, 1, 2, 4] → bf v 11 8 = 0 → exec (.sendRsp t w) s =
      .next (s.modThr t fun x => { x with st := .stalled, pend := .again .router, via := none }).goOn) ∧
    (MayTrap s t 11 → bt w 4 = false → bf v 3 0 = 0 → bf v 9 8 = 0 →
      (r.rsp = true → ∃ u, exec (.sendRsp t w) s = .next u.goOn ∧ Traps s u t 11 4 x.pc) ∧
      (r.rsp = false → bt v 11 = true → r.wrOut = false → ∃ u, exec (.sendRsp t w) s = .next u.goOn ∧ Traps s u t 11 9 x.pc))

/-- SEND.MGT (Table 7.14a); that Chervil sends from its data RAM is log entry 46's. -/
def Obligations.SendManagement : Prop :=
  ∀ (s : State) (t : Thr) (w : Reg32) (x : Thread) (v : Word) (a o : Nat) (dst : CoreId) (e : SbEnt), x = s.thr t → v = x.reg (bf w 20 16) →
    a = (x.reg (bf w 15 11)).toNat → a % 64 = 0 → bf v 63 6 = 0 → Issues s t .sendMgt w →
    (t.core ≠ .chervil ∧ a < 0x8000 ∧ o = a ∨ t.core = .chervil ∧ a = 0x200000000 + o ∧ o < 0x20000) →
    (Passes s t (x.pc + 1) → x.sb.length < 16 → (bt v 5 = true ∧ dst = .chervil ∨ bt v 5 = false ∧ x.priv = true ∧
        s.inService (Fin.ofNat 32 (bf v 4 0)) = true ∧ dst = .node (Fin.ofNat 32 (bf v 4 0))) →
      e = { id := x.sbNext, kind := .mgt, addr := a, data := memLine (s.core t.core).ram (o / 64), pc := x.pc, trk := x.trk,
            dst := dst, merging := s.sbm } →
      GivesOn (.sendMgt t w) s (s.modThr t fun x => { x with sb := x.sb ++ [e], sbNext := x.sbNext + 1 }) t 0 0 (x.pc + 1)) ∧
    (MayTrap s t 2 → bt v 5 = false → x.priv = false →
      ∃ u, exec (.sendMgt t w) s = .next u.goOn ∧ Traps s u t 2 (w.setWidth 64) x.pc)

/-- Dispatch through an event's own valid entry, on a core whose next event (R264) is `e`, with a tracker free of recorded upsets. -/
def Obligations.DispatchBindsTheThread : Prop :=
  ∀ (s : State) (t : Thr) (c : Instr) (lo hi entry : Nat) (e : Evt) (w : Reg32), (s.thr t).st = .free →
    s.nextEvt t.core = some e → lo ≤ e.evt.toNat → e.evt.toNat ≤ hi → s.pickEntry t.core e.evt.toNat e.cls.toNat = .own w →
    ((∃ n, t.core = .node n ∧ (c, lo, hi) ∈ [(Instr.hostRequestEvent n t.t, 0x01, 0x11), (.writeBackEvent n t.t, 0x12, 0x13),
        (.assistFault n t.t, 0x14, 0x14), (.recallStart n t.t, 0x20, 0x20), (.lineCopyStart n t.t, 0x21, 0x21),
        (.wakeHostFlow n t.t, 0x40, 0x40), (.wakeInternalFlow n t.t, 0x41, 0x41)]) ∨
     (c, lo, hi) = (.managementMessage t, 0x30, 0x30) ∨
     t.core = .chervil ∧ (c, lo, hi) ∈ [(Instr.evMailbox t.t, 0x50, 0x50), (.evError t.t, 0x53, 0x53), (.evMode t.t, 0x54, 0x54),
        (.evDma t.t, 0x55, 0x55), (.evMpDetach t.t, 0x56, 0x56), (.evFlush t.t, 0x58, 0x58), (.pmcOvf t.t, 0x59, 0x59)] ∨
     t.core = .chervil ∧ (c, lo, hi) = (.evTimer t.t, 0x57, 0x57) ∧ (s.fld HA_CHV_TIMER 23 0 = 0 ∨
        s.time.toNat < s.timerAt + s.fld HA_CHV_TIMER 23 0)) →
    (∀ n k, t.core = .node n → e.trk = some k → ((s.nd n).trkAt k).syn = []) →
    entry = (match t.core, e.trk with
      | .node n, some k => if e.evt = 0x40 ∨ e.evt = 0x41 then ((s.nd n).trkAt k).resume else bf w 13 0
      | .node _, none => bf w 13 0
      | .chervil, _ => bf w 16 0) →
    ∃ u : State, exec c s = .next u.goOn ∧ (u.core t.core).events = (s.core t.core).events.erase e ∧
      OnlyThread (match t.core, e.trk with
        | .node n, some k => s.modTrk n k fun r => { r with depart := false }
        | _, _ => s) u t ∧
      { u.thr t with f := [] } = { s.thr t with
        f := [], st := .ready, g := [], pc := entry, priv := decide (t.core = .chervil) || bt w 18, incomplete := false,
        trapActive := false, trk := e.trk, handle := none, pend := .none, slice := 512, run := 0, prio := bf w 20 19, evt := e.evt,
        cls := e.cls, inbox := e.inbox } ∧
      (u.thr t).frame 0 = BitVec.ofNat 64 (e.evt.toNat + e.cls.toNat * 2 ^ 8 +
        (match e.trk with | some k => 2 ^ 11 + k * 2 ^ 12 | none => 0) + t.t.val * 2 ^ 22) ∧
      (∀ i < 6, (u.thr t).frame (i + 1) = match t.core, e.trk with
        | .node n, some k => (s.nd n).trkWord k i
        | _, _ => 0) ∧
      (u.thr t).frame 7 = s.datum t.core e

/-- Engine start through its own valid entry (R264), the TIMER event that falls due (Table 17.3), and the thread clock. -/
def Obligations.EngineStartsTimersAndSlices : Prop :=
  ∀ (s : State) (t : Thr),
    (∀ (w : Reg32) (k : Core) (e : Evt), k = s.core t.core → t.t.val ∈ k.toStart → (s.thr t).st = .free → k.dspStall = false →
      s.coreRuns t.core = true → s.pickEntry t.core 0x3E 0 = .own w → e.evt = 0x3E → e.cls = 0 → e.trk = none →
      (match t.core with | .node _ => e = k.startEvt | .chervil => s.nextEvt .chervil = some e) →
      ∃ u : State, exec (.engineStart t) s = .next u.goOn ∧
        OnlyThread (s.setCore t.core { k with toStart := k.toStart.filter (· != t.t.val), starting := k.starting ++ [t.t.val] }) u t ∧
        (u.thr t).st = .ready ∧ (u.thr t).g = [] ∧ (u.thr t).trk = none ∧ (u.thr t).handle = none ∧
        (u.thr t).priv = (decide (t.core = .chervil) || bt w 18) ∧ (u.thr t).incomplete = false ∧ (u.thr t).trapActive = false ∧
        (u.thr t).slice = 512 ∧ (u.thr t).pc = (match t.core with | .node _ => bf w 13 0 | .chervil => bf w 16 0) ∧
        (u.thr t).frame 0 = BitVec.ofNat 64 (0x3E + t.t.val * 2 ^ 22) ∧ (∀ i < 6, (u.thr t).frame (i + 1) = 0) ∧
        (u.thr t).frame 7 = e.datum ∧ k.startEvt.datum = BitVec.ofNat 64 (b2n k.full)) ∧
    (∀ p, p = s.fld HA_CHV_TIMER 23 0 → p ≠ 0 → s.timerAt + p ≤ s.time.toNat → s.mode ≠ .off → (s.thr ⟨.chervil, t.t⟩).st ≠ .free →
      exec (.evTimer t.t) s = .next ({ s with timerAt := s.time.toNat }.chvEvent 0x57 s.time.toNat)) ∧
    (∀ (x : Thread) (k : Core), x = s.thr t → k = s.core t.core →
      (x.slice = 0 → x.st = .ready → exec (.sliceExpiry t) s =
        .next ((s.setCore t.core { k with order := k.order.filter (· != t.t.val) ++ [t.t.val] }).modThr t fun x =>
          { x with slice := 512 })) ∧
      (x.slice ≠ 0 ∨ x.st ≠ .ready → exec (.sliceExpiry t) s = .next s) ∧
      (∀ n, t.core = .node n → (x.st = .ready ∨ x.st = .stalled) → s.fld (ndA n ND_DSP_CTRL) 7 0 * 512 < x.run → exec (.runaway t) s =
        .next (((s.modThr t fun x => { x with st := .halted, pend := .none }).captureV (ndA n ND_DSP_ERR_CAP) 17
          (x.evt.toNat + x.cls.toNat * 2 ^ 8 + t.t.val * 2 ^ 11 + 4 * 2 ^ 14)).raise (ndA n ND_DSP_ERR) 3)) ∧
      (∀ n, t.core = .node n → x.st ≠ .ready ∧ x.st ≠ .stalled ∨ x.run ≤ s.fld (ndA n ND_DSP_CTRL) 7 0 * 512 → exec (.runaway t) s = .next s) ∧
      (t.core = .chervil → exec (.runaway t) s = .next s))

/-- The events that Chervil's firmware serves (dispatch as of every event, then what R417, R418 and R420 say), and the messages that
the supervisor image serves (R330, R421). -/
def Obligations.FirmwareAndSupervisorServe : Prop :=
  (∀ (s : State) (j : Fin 8) (t : Thr) (e : Evt) (w : Reg32) (err : BmErr), t = ⟨.chervil, j⟩ → (s.thr t).st = .free →
      s.nextEvt .chervil = some e → s.pickEntry .chervil e.evt.toNat 0 = .own w → e.cls = 0 → e.trk = none →
      ∀ c, (c, e.evt) ∈ [(Instr.evSession j err, 0x51), (Instr.evDepart j err, 0x52)] →
        ∃ u : State, OnlyThread s u t ∧ (u.thr t).st = .ready ∧ (u.thr t).pc = bf w 16 0 ∧ (u.thr t).frame 7 = e.datum ∧
          exec c s = .next { u.goOn with chvTodo := u.goOn.chvTodo ++ [(e.evt.toNat, e.datum.toNat, err)] }.goOn) ∧
  (∀ (s z : State) (p : HpId) (i : Nat) (l : LedEnt) (h d : Nat) (err : BmErr), h = (hdrHost l.hdr).toNat → p = Fin.ofNat 16 (d / 2 ^ 40) →
      (s.hpAt p).ledger = [(i, some l)] → l.st = .session → l.taken = false → l.tag.toNat % 2 ^ 40 = d % 2 ^ 40 → l.gone = false →
      s.survSyn = [] → s.chvRuns = true → s.chvTodo = [(0x51, d, err)] →
      z = { s with chvTodo := [] }.setHp p ((s.hpAt p).setLed i (some { l with taken := true })) →
      (hdrOpc l.hdr = 0x10 → (s.ses h).st ≠ .closed → s.chvPoll = z.answerErr p i 1 0) ∧
      (hdrOpc l.hdr = 0x10 → (s.ses h).st = .closed → s.ctxIn (hdrCtx l.hdr) = true → bmGood err = true →
        ∀ u, u = z.bmErrs err → bt (u.ctxWord (hdrCtx l.hdr) 0) 0 = true → s.chvPoll =
          (u.setSes h { st := .opn, port := p, ctx := hdrCtx l.hdr, legacy := (u.hpAt p).legacy }).answerNdr p i
            (ndrWord 5 (hdrHost l.hdr) (hdrTag l.hdr) 0 0 0)) ∧
      (hdrOpc l.hdr ≠ 0x10 → (s.ses h).st = .opn → (s.ses h).port = p → s.chvPoll =
        z.modSes h fun x => { x with st := .closing, closeIdx := some i, visits := 0, todo := 0, visitSent := false }) ∧
      (hdrOpc l.hdr ≠ 0x10 → (s.ses h).st = .closed → s.chvPoll = z.answerNdr p i (ndrWord 5 (hdrHost l.hdr) (hdrTag l.hdr) 0 0 0))) ∧
  (∀ (s u : State) (h : Nat) (err : BmErr), h < 1024 → s.survSyn = [] → s.chvRuns = true → s.chvTodo = [(0x52, h, err)] →
      (s.ses h).st = .departing → s.ctxIn (s.ses h).ctx = true → bmGood err = true → u = { s with chvTodo := [] }.bmErrs err →
      s.chvPoll = u.modSes h fun x => { x with revert := bt (u.ctxWord x.ctx 0) 4, served := true }) ∧
  (∀ (s : State) (n : NodeId),
      (∀ (j : Fin 16) (m : Line), s.coreRuns (.node n) = true → (∃ e ∈ (s.nd n).core.events, e.evt = 0x30 ∧ e.inbox = some j.val) →
        m = memLine (s.nd n).core.ram (inboxAddr (.node n) j.val / 64) →
        (∀ c ty kind r, (c, ty, kind) ∈ [(Instr.lineCopy n j, 0xC1, 4), (.sectorRecall n j, 0xC2, 3)] → bf m 7 0 = ty →
          r = (s.inboxTake n j.val).tallocGo n (BitVec.ofNat 64 (kind + bf m 170 168 * 2 ^ 4)) (BitVec.ofNat 40 (bf m 103 64)) →
          exec c s = .next (if r.1 = 2 then r.2.dmaMsg (reportMsg m 4) else r.2).goOn) ∧
        (bf m 7 0 = 0xC3 → s.mode ≠ .flush → (s.nd n).visits = [] → exec (.visit n j) s = .next ((((s.inboxTake n j.val).modNd n fun x =>
          { x with visits := [{ host := bf m 17 8, depart := bt m 18 }] }).visitPoll n).goOn))) ∧
      (∀ (j : Visit) k e r, s.bit HA_OVF_CTRL 0 = false → j.pos = 0 → (s.nd n).bank = [(k, e)] → (entCheck e).1 = .good →
        entLive (s.nd n).cons e = e → (s.nd n).repairs = [] → k < visitBankEnd →
        r = (if entNames e j.host && entHolds e then s.tallocGo n (BitVec.ofNat 64 (3 + j.host * 2 ^ 7))
              (BitVec.ofNat 40 (4 * s.sectorOf n (k / 16) (k % 16) (bf e 19 0))) else (0, s)) → r.1 ≠ 2 →
        s.visitGo n j = r.2.modNd n fun x => x.setVisit { j with pos := visitBankEnd, done := true }) ∧
      (∀ (h : BitVec 10) (dep : Bool) (e : Session) (p : Nat), e = s.ses h.toNat → e.visitSent = true → bt e.visits n.val = true →
        bt e.todo n.val = false → (e.st = .departing ↔ dep = true) →
        (s.nd n).visits = [{ host := h.toNat, depart := dep, pos := p, done := true }] → (s.nd n).evicts = [] →
        (∀ o ∈ (s.nd n).trk, o.2.v = true → o.2.kind = 3 → o.2.host ≠ h) → (s.nd n).intQ = [] → (s.nd n).core.inbox = [] →
        exec (.visitDone n h dep 0) s = .next ((s.modNd n fun x => { x with visits := [] }).modSes h.toNat fun y =>
          { y with visits := setBt y.visits n.val false }).goOn))

/-- The sends of the store buffer; `x.sbNextOut` is the oldest entry not yet sent. -/
def Obligations.StoreBufferSends : Prop :=
  ∀ (s : State) (t : Thr) (x : Thread), x = s.thr t →
    (∀ e c, x.sbNextOut = some e → c = .storeBufferSend t ∧ (e.merging = false ∨ e.mask = BitVec.allOnes 64 ∨ 16 ≤ x.sb.length) ∨
        c = .mergeEntryAge t ∧ e.merging = true ∧ 33 ≤ e.age →
      (e.parBad = false → s.sbHeld t e = true → exec c s = .next s.goOn) ∧
      (∀ n, t.core = .node n → e.parBad = true → e.kind ≠ .mwr → exec c s = .next ((s.modThr t fun x => { x with
        sb := x.sb.filter (fun b => b.id != e.id), incomplete := true,
        disc := if x.incomplete then x.disc else BitVec.ofNat 64 e.addr }).raise (ndA n ND_SCRUB_ERR) 6).goOn) ∧
      (e.parBad = false → s.sbHeld t e = false → (e.kind = .mgt ∨ e.kind = .st ∧ (∀ b, regOfCanon e.addr ≠ .bm b)) → exec c s =
        .next (s.modSb t e.id fun e => { e with sent := some s.accLimit, merging := false }).goOn) ∧
      (∀ m g, e.parBad = false → s.sbHeld t e = false → e.kind = .mwr → m = Fin.ofNat 8 e.mp → (s.mpAt m).mtag e.mtag = some g → g.pair = none → exec c s =
        .next ((s.mpQueue m e.mtag).modSb t e.id fun e => { e with sent := some s.accLimit, merging := false }).goOn) ∧
      (∀ b g u, e.parBad = false → s.sbHeld t e = false → e.kind = .st → regOfCanon e.addr = .bm b → s.bmIssue (.acc t (some e.id)) true (b / 64) e.mask e.data = some (g, u) →
        exec c s = .next (u.modSb t e.id fun e => { e with sent := some u.accLimit, merging := false }).goOn)) ∧
    (x.sbNextOut = none → exec (.storeBufferSend t) s = .next s ∧ exec (.mergeEntryAge t) s = .next s) ∧
    (∀ e, x.sbNextOut = some e → (e.merging = true → e.mask ≠ BitVec.allOnes 64 → x.sb.length < 16 →
        exec (.storeBufferSend t) s = .next s) ∧
      (e.merging = false ∨ e.age < 33 → exec (.mergeEntryAge t) s = .next s))

/-- The completion of buffered accesses (R287); threads that waited for the entry then go on. -/
def Obligations.StoresComplete : Prop :=
  ∀ (s : State) (t : Thr) (i : Fin 16) (rsp : BmErr) (e : SbEnt), s.accLive t = true → ((s.thr t).sb.drop i.val).head? = some e →
    (e.sent = none → exec (.accessCompletion t (.sb i) rsp) s = .next s.pendAll.goOn) ∧
    (e.via = some false → exec (.accessCompletion t (.sb i) rsp) s = .next s.pendAll.goOn) ∧
    (e.sent ≠ none → e.via = none → (∀ b ∈ (s.thr t).sb.take i.val, b.target ≠ e.target) →
      (∀ c o, e.kind = .st → (regOfCanon e.addr).ramOf = some (c, o) → s.reaches t.core (regOfCanon e.addr) = true →
        (∀ g, g / 8 = o / 64 → smGet (fun _ => 0) (s.core c).ramSyn g = 0) →
        ∃ u : State, exec (.accessCompletion t (.sb i) rsp) s = .next (u.dropSb t e.id).pendAll.goOn ∧
          u = s.setCore c { s.core c with ram := (u.core c).ram, ramSyn := (u.core c).ramSyn } ∧
          ∀ b, memRead (u.core c).ram b 1 = if b / 64 = o / 64 ∧ e.mask.getLsbD (b % 64) = true then (byteOf e.data (b % 64)).toNat
            else memRead (s.core c).ram b 1) ∧
      (∀ a, e.kind = .st → regOfCanon e.addr = .reg a → s.sunkAt a = false → exec (.accessCompletion t (.sb i) rsp) s =
        .next ((s.regTo (srcOf t.core e.pc) a (BitVec.ofNat 32 (e.value a 4).toNat)).dropSb t e.id).pendAll.goOn) ∧
      (∀ u, e.kind = .mgt → e.nak = none → s.mgtReaches e.dst = true →
        ¬ (e.dst = .chervil ∧ bf e.data 7 0 = 0xD0) → s.inboxPut e.dst (senderCode t.core) e.data = some u →
        exec (.accessCompletion t (.sb i) rsp) s = .next (u.dropSb t e.id).pendAll.goOn))

/-- What a thread waits for: the end of a load or AMO of data memory, and what the limit does. -/
def Obligations.LoadsComplete : Prop :=
  ∀ (s : State) (t : Thr) (rsp : BmErr) (x : Thread), x = s.thr t → s.accLive t = true → x.via = none →
    (∀ rd w ea z r c o, x.pend = .load rd w ea (some z) → s.regionOf t.core ea = some r → r.ramOf = some (c, o) →
      s.reaches t.core r = true → smGet (fun _ => 0) (s.core c).ramSyn (o / 8) = 0 → w ∈ [1, 2, 4, 8] → o % w = 0 →
      Passes s t (x.pc + 1) → ∃ u, exec (.accessCompletion t .pend rsp) s = .next u.pendAll.goOn ∧ OnlyThread s u t ∧
        WroteRd s u t rd (BitVec.ofNat 64 (memRead (s.core c).ram o w)) (x.pc + 1)) ∧
    (∀ rd w ea z a v, x.pend = .load rd w ea (some z) → s.regionOf t.core ea = some (.reg a) → s.sunkAt a = false →
      v = s.regFrom (srcOf t.core x.pc) a → Passes s t (x.pc + 1) →
      ∃ u, exec (.accessCompletion t .pend rsp) s = .next u.pendAll.goOn ∧ OnlyThread v.2 u t ∧
        WroteRd v.2 u t rd (v.1.setWidth 64) (x.pc + 1)) ∧
    (∀ rd fn v cmp ea z r c o old, x.pend = .amo rd fn v cmp ea (some z) → s.regionOf t.core ea = some r → r.ramOf = some (c, o) →
      s.reaches t.core r = true → smGet (fun _ => 0) (s.core c).ramSyn (o / 8) = 0 → Passes s t (x.pc + 1) → o % 8 = 0 →
      old = BitVec.ofNat 64 (memRead (s.core c).ram o 8) →
      ∃ b u : State, exec (.accessCompletion t .pend rsp) s = .next u.pendAll.goOn ∧ OnlyThread b u t ∧
        WroteRd b u t rd old (x.pc + 1) ∧ b = s.setCore c { s.core c with
          ram := memWrite (s.core c).ram o (amoNew fn old v cmp).toNat 8,
          ramSyn := smSet (fun _ => (0 : BitVec 8)) (s.core c).ramSyn (o / 8) 0 }) ∧
    (∀ rd w ea z, x.pend = .load rd w ea (some z) → (∀ b, s.regionOf t.core ea ≠ some (.bm b)) →
      (s.past z 0 = true → MayTrap s t 10 → ∃ u, exec (.accessTimeout t .pend) s = .next u.pendAll.goOn ∧
        Traps (s.engErr t 5 4 x.pc) u t 10 (BitVec.ofNat 64 ea) x.pc) ∧
      (s.past z 0 = false → exec (.accessTimeout t .pend) s = .next s.pendAll.goOn)) ∧
    (∀ (i : Fin 16) e z, (x.sb.drop i.val).head? = some e → e.sent = some z →
      (s.past z 0 = true → ∀ u, u = (s.modThr t fun x => { x with
          sb := x.sb.filter (fun b => b.id != e.id), incomplete := true,
          disc := if x.incomplete then x.disc else BitVec.ofNat 64 e.addr }).engErr t 4 3 e.pc →
        (e.kind = .mgt → exec (.accessTimeout t (.sb i)) s = .next u.pendAll.goOn) ∧
        (e.kind = .st → (∀ b, regOfCanon e.addr ≠ .bm b) → exec (.accessTimeout t (.sb i)) s =
          .next { u with late := u.late ++ [(t, e)] }.pendAll.goOn)) ∧
      (s.past z 0 = false → exec (.accessTimeout t (.sb i)) s = .next s))

/-- Acceptance of each host request at an attached port (R41, R75); the ledger's entry is then `r.1`. -/
def Obligations.HostRequestsAreAccepted : Prop :=
  ∀ (s u : State) (p : HpId) (h : BitVec 128) (data : Line) (be : BitVec 64) (poison : Bool) (c : Instr) (op : Nat) (v : BitVec 2)
    (caps : BitVec 32) (e : Session), (c, op, data, be, poison) ∈ [(Instr.memRd p h, 0x00, 0, 0, false),
      (.memRdData p h, 0x01, 0, 0, false), (.memInv p h, 0x02, 0, 0, false), (.memInvNt p h, 0x03, 0, 0, false),
      (.memClnEvct p h, 0x04, 0, 0, false), (.biConflict p h, 0x05, 0, 0, false), (.hostFlush p h, 0x08, 0, 0, false),
      (.sessOpen p h, 0x10, 0, 0, false), (.sessClose p h, 0x11, 0, 0, false), (.memWr p h data be poison, 0x18, data, be, poison),
      (.memWrPtl p h data be poison, 0x19, data, be, poison)] →
    s.survSyn = [] → s.mode.serves = true → s.hpUse p = true → (s.hpAt p).att = .attached v caps → (s.hpAt p).failed = false →
    (s.hpAt p).ledger.length < 2048 → e = s.ses (hdrHost h).toNat →
    (if op = 0x10 then e.st = .closed else e.st = .opn ∧ e.port = p) → bf h 33 30 = 0 →
    (∀ x ∈ (s.hpAt p).ledger, ∀ l, x.2 = some l → ¬ (hdrHost l.hdr = hdrHost h ∧ hdrTag l.hdr = hdrTag h)) →
    hdrOpc h = op → opcOk op v.toNat caps = true → ¬ (bt h 5 = true ∧ bf h 7 6 = 1) →
    (if v = 1 ∨ op = 0x08 then hdrCtx h = 0 else op = 0x10 ∨ hdrCtx h = e.ctx) → bf h 55 50 = 0 →
    (op ∈ [0x08, 0x10, 0x11] → hdrCaddr h = 0) → (bf h 93 92 = 0 ∨ bt caps 6 = true ∧ op ∈ [0x18, 0x19] ∧ bf h 93 92 = 1) →
    (op = 0x18 → be = BitVec.allOnes 64) → (op = 0x19 → be ≠ BitVec.allOnes 64 ∧ be ≠ 0) → bf h 127 94 = 0 →
    u = (s.cntB 0x101 1).cntB (0x110 + p.val) 1 →
    (∀ st, ∃ k, k < 2048 ∧ (u.hpAt p).led k = none ∧ (u.ledPut p h data be poison st).1 = k ∧
      (((u.ledPut p h data be poison st).2).hpAt p).led k = some {
        hdr := if v = 1 ∧ op ≠ 0x08 then setBf h 49 34 (u.hpAt p).v1ctx.toNat else h
        data := data, be := be, poison := poison, tag := u.ledTag p, st := st, seq := (u.hpAt p).accN }) ∧
    (∀ r, op ∉ [0x08, 0x10, 0x11] → r = u.ledPut p h data be poison .blocked → exec c s = .next (r.2.translate p r.1)) ∧
    (∀ r, op ∈ [0x10, 0x11] → r = u.ledPut p h data be poison .session →
      exec c s = .next (r.2.chvEvent 0x51 ((u.ledTag p).toNat % 2 ^ 40 + p.val * 2 ^ 40))) ∧
    (∀ r, op = 0x08 → r = u.ledPut p h data be poison .flushing → exec c s = .next ((r.2.setHp p
      { r.2.hpAt p with flushes := (r.2.hpAt p).flushes ++ [{ idx := r.1, waitFor := u.unhanded p }] }).flushPoll p))

/-- Requests that are not accepted (R42, R74, R75). -/
def Obligations.HostRequestsAreTurnedAway : Prop :=
  ∀ (s u : State) (p : HpId) (h : BitVec 128) (data : Line) (be be' : BitVec 64) (poison : Bool) (c : Instr) (op : Nat) (x : HpShell),
    (c, op, be') ∈ [(Instr.memRd p h, 0x00, 0), (.memRdData p h, 0x01, 0), (.memInv p h, 0x02, 0), (.memInvNt p h, 0x03, 0),
      (.memClnEvct p h, 0x04, 0), (.biConflict p h, 0x05, 0), (.hostFlush p h, 0x08, 0), (.sessOpen p h, 0x10, 0),
      (.sessClose p h, 0x11, 0), (.memWr p h data be poison, 0x18, be), (.memWrPtl p h data be poison, 0x19, be)] →
    u = ((s.cntB 0x101 1).cntB (0x110 + p.val) 1).raise (HA_HP_STAT + 4 * p.val) 7 → x = u.hpAt p →
    (s.mode.serves = false ∨ s.hpUse p = false ∨ (s.hpAt p).att = .idle ∨ (s.hpAt p).failed = true ∨
      2048 ≤ (s.hpAt p).ledger.length → exec c s = .next s) ∧
    (s.survSyn = [] → s.reqReady p = true → bf h 33 30 ≠ 0 → exec c s = .next u) ∧
    (s.survSyn = [] → s.reqReady p = true → s.tagOk p h = true → bf h 127 94 ≠ 0 ∨ bf h 55 50 ≠ 0 ∨ hdrOpc h ≠ op ∨ bt h 5 = true ∧ bf h 7 6 = 1 →
      exec c s = .next (u.setHp p (if hdrOpc h ≤ 1 then x.pushDrs u.tmo (drsWord 1 (hdrHost h) (hdrTag h) 0 0 1) 0 false none
        else x.pushNdr u.tmo (ndrWord 4 (hdrHost h) (hdrTag h) 0 1 0) none)))

/-- The way of a request from the end of its walk to its tracker; `z` is the state in which the node has taken the message. -/
def Obligations.WalksAdmissionAndRetry : Prop :=
  ∀ (s z : State) (p : HpId) (n : NodeId) (idx : Fin 2048) (i : Nat) (e : LedEnt) (x : HpShell) (o : Nat), i = idx.val → x = s.hpAt p →
    x.led i = some e → o = hdrOpc e.hdr → z = (s.spendCredit ⟨.node n, .req⟩ (.hp p)).oweCredit ⟨.node n, .req⟩ (.hp p) →
    (∀ err ctx cidx lines, ctx = hdrCtx e.hdr → cidx = cidxOf (hdrCaddr e.hdr) → lines = s.walkLines ctx cidx → e.st = .walk →
      (∀ y, s.walk ctx cidx err = .ok y → exec (.translationWalkDone p idx err) s =
        .next (((((s.bmErrs err).cntB 0x107 lines).xlateFill p ctx cidx y).xlated p i y).unblock p)) ∧
      (∀ w, s.walk ctx cidx err = w → (∀ y, w ≠ .ok y) → exec (.translationWalkDone p idx err) s =
        .next ((((s.walkErrs w).cntB 0x107 lines).answerErr p i 2 0).unblock p))) ∧
    (e.st = .sent n → s.live n = true → s.sunk n = false → s.olderSent p n e = false →
      (o = 5 → exec (.admission n p idx) s = .next ((z.setHp p { z.hpAt p with bicAcks := (z.hpAt p).bicAcks ++ [{
          host := hdrHost e.hdr, tag := hdrTag e.hdr, pla := e.pla, devload := BitVec.ofNat 2 (z.devload n p e.cls.toNat) }] }).setLedSt
          p i fun e => { e with st := .home }).goOn) ∧
      (o ≠ 5 → (o ∈ [0x18, 0x19] → z.isWriteBack n (hdrHost e.hdr) e.pla = false) → e.replay = false →
        (z.bit (ndA n ND_TRK_PEND) p.val = true ∨ z.takeTrk n 0 (mkTrk p i e) = none → exec (.admission n p idx) s =
          .next ((((z.modNd n fun y => { y with rspOut := y.rspOut.filter (fun t => t.1 != p || t.2.1 != some i) ++
            [(p, some i, z.withheld n.val)] }).setFld (ndA n ND_TRK_PEND) p.val p.val 1).setLedSt p i fun e =>
              { e with st := .retried n false }).cntN n 0x008 1).goOn) ∧
        (∀ k u, z.bit (ndA n ND_TRK_PEND) p.val = false → z.takeTrk n 0 (mkTrk p i e) = some (k, u) →
          exec (.admission n p idx) s = .next ((u.setLedSt p i fun e => { e with st := .home }).startFlow n k).goOn)) ∧
      (∀ r, o ∈ [0x18, 0x19] → z.isWriteBack n (hdrHost e.hdr) e.pla = true → r = z.takeTrk n 1 { mkTrk p i e with replay := false } →
        (∀ k u, r = some (k, u) →
          exec (.admission n p idx) s = .next ((u.setLedSt p i fun e => { e with st := .home }).startWb n k).goOn) ∧
        (r = none → exec (.admission n p idx) s = .next ((z.seeWb n e.pla).answerRetry n p i true).goOn))) ∧
    (∀ wb b, e.st = .retried n wb → (n, i) ∉ x.retry → (n, i) ∉ x.wbRetry → (s.nd n).rspOut = [(p, some i, b)] →
      (b = true → s.withheld n.val = false) → exec (.retry p n idx) s = .next ((s.modNd n fun y => { y with rspOut := [] }).setHp p
        (if wb then { x with wbRetry := x.hold (n, i) x.wbRetry } else { x with retry := x.hold (n, i) x.retry })).goOn) ∧
    ((s.nd n).rspOut = [] → exec (.retry p n idx) s = .next s.goOn) ∧
    ((∀ k ∈ (s.nd n).kept, k.2.1 ≠ p) → exec (.grant p n) s = .next s.goOn) ∧
    (∀ k wb b g, (s.nd n).kept = [(k, p, wb)] → (s.nd n).rspOut = [(p, none, b)] → (b = true → s.withheld n.val = false) →
      g = (s.modNd n fun y => { y with rspOut := [] }).modNd n (fun y => { y with kept := [] }) →
      ((∀ r ∈ (if wb then x.wbRetry else x.retry), r.1 ≠ n) → exec (.grant p n) s =
        .next ((g.modNd n fun y => y.setTrk k {}).offer n k ((s.nd n).trkAt k).pool).goOn) ∧
      ((if wb then x.wbRetry else x.retry) = [(n, i)] → ∀ u, u = (((g.spendCredit ⟨.node n, .req⟩ (.hp p)).oweCredit
          ⟨.node n, .req⟩ (.hp p)).setHp p { x with
            retry := x.retry.filter fun r => r != (n, i), wbRetry := x.wbRetry.filter fun r => r != (n, i) }).intoKept n k p i wb →
        (s.withheld (2 * p.val) = true ∨ wb = false ∧ e.replay = false ∧ s.quenches n = true ∧ s.mode ≠ .flush ∨
          s.reqCredit p n = false → exec (.grant p n) s = .next s.goOn) ∧
        (s.withheld (2 * p.val) = false → wb = true ∨ e.replay = true ∨ s.quenches n = false ∨ s.mode = .flush →
          s.reqCredit p n = true → s.survSyn = [] → (u.hpAt p).holds n wb = false →
          exec (.grant p n) s = .next (u.setFld (ndA n ND_TRK_PEND) (retryBit p wb) (retryBit p wb) 0).goOn))) ∧
    (e.st = .sent n → s.sunk n = true →
      exec (.sinkAbsorb n p idx) s = .next (((z.raise HA_FAB_ERR 5).cntB 0x10B 1).answerErr p i 3 0).goOn)

/-- The ends of one outstanding snoop slot `sl` of a flow, alone in its group, at a port whose ledger records no upset, with intact survivor
tables and word 3 of its flow's tracker intact. -/
def Obligations.SnoopAnswers : Prop :=
  ∀ (s : State) (p : HpId) (slot : Fin 8192) (i : Nat) (sl : Slot) (x : HpShell) (n : NodeId) (k : Nat) (msg : BitVec 64) (a : Nat)
    (gone : State) (done : Nat → State) (ok : List Nat), i = slot.val → x = s.hpAt p → x.slotAt i = some sl → x.syn = [] → s.survSyn = [] →
    sl.sn.own = .flow n k → smGet (fun _ => 0) ((s.nd n).trkAt k).syn 3 = 0 →
    (∀ e ∈ x.slots, ∀ o, e.2 = some o → o.grp = sl.grp → e.1 = i) → sl.acc = 0 → a = bf msg 1 0 →
    ok = (if (sl.sn.op &&& 3) = 0 then [0, 1, 2] else if (sl.sn.op &&& 3) = 1 then [0, 1] else [0]) →
    gone = s.setHp p (x.setSlot i (some { sl with st := .gone })) →
    done = (fun a => ((s.setHp p (x.setSlot i none)).modTrk n k fun r =>
      let r := r.setW3 10 0 (r.snpOut - 1)
      let r := if a = 1 then r.setW3 11 11 1 else if a = 2 then r.setW3 12 12 1 else r
      if a = 0 then r else r.addAns sl.sn.host.toNat).wake n k) →
    (∀ z, sl.st = .out z → birspSlot msg = i → s.rspReady = true → s.sinks = false → s.hpUse p = true → x.att.on = true →
      x.failed = false →
      (bf msg 28 26 ≠ s.fld HA_RST_STAT 2 0 → exec (.birsp p msg) s = .next s.goOn) ∧
      (bf msg 28 26 = s.fld HA_RST_STAT 2 0 → bf msg 12 3 = sl.sn.host.toNat → bf msg 63 29 = 0 → bf msg 2 0 ≠ 3 → bf msg 2 0 ≠ 7 →
        bt msg 2 = bt sl.sn.op 2 →
        (a ∈ ok →
          (x.writeWaits sl = false → exec (.birsp p msg) s = .next (done a).goOn) ∧
          (x.writeWaits sl = true → exec (.birsp p msg) s = .next ((s.raise HA_SNP_ERR p.val).setHp p
            (x.setSlot i (some { sl with st := .held (BitVec.ofNat 3 a) }))).goOn)) ∧
        (a ∉ ok → ∀ u, u = s.raise HA_SNP_ERR (16 + p.val) → exec (.birsp p msg) s =
          .next ((u.setHp p ((u.hpAt p).setSlot i (some { sl with st := .gone }))).depart sl.sn.host.toNat 3).goOn))) ∧
    (∀ b : BitVec 3, sl.st = .held b → b.toNat ≤ 2 →
      (x.writeWaits sl = false → exec (.heldAnswerDelivery p slot) s = .next (done b.toNat).goOn) ∧
      (x.writeWaits sl = true → exec (.heldAnswerDelivery p slot) s = .next s.goOn)) ∧
    (∀ z, sl.st = .out z →
      (s.past z 0 = true → exec (.snoopTimeout p slot) s = .next ((gone.cntB 0x104 1).depart sl.sn.host.toNat 2).goOn) ∧
      (s.past z 0 = false → exec (.snoopTimeout p slot) s = .next s.goOn)) ∧
    (∀ z, sl.st = .quar z →
      (s.past z (s.fld HA_SNP_TMO 7 0 * 1024) = true → exec (.snoopSlotQuarantineEnd p slot) s =
        .next (s.setHp p (x.setSlot i none)).goOn) ∧
      (s.past z (s.fld HA_SNP_TMO 7 0 * 1024) = false → exec (.snoopSlotQuarantineEnd p slot) s = .next s.goOn))

/-- OUTBOUND_MESSAGE, with the survivor tables intact, and BI_CONFLICT_ACK (R39, R197). -/
def Obligations.OutboundMessages : Prop :=
  ∀ (s : State) (p : HpId) (x : HpShell), x = s.hpAt p → s.survSyn = [] →
    (s.mode ≠ .off → s.hpUse p = true → x.clkOk = true → x.partnerRst = false → x.failed = false →
      (∀ m k rest, x.ndr = (m, some k) :: rest → exec (.outboundMessage p .ndr) s = .next ((s.setHp p
        ((HpShell.setLed { x with ndr := rest } k none).heads { x with ndr := [] } s.tmo)).cntB 0x102 1).goOn) ∧
      (∀ m rest, x.ndr = (m, none) :: rest → exec (.outboundMessage p .ndr) s = .next ((s.setHp p
        (HpShell.heads { x with ndr := rest } { x with ndr := [] } s.tmo)).cntB 0x102 1).goOn) ∧
      (∀ m d b k rest, x.drs = (m, d, b, some k) :: rest → exec (.outboundMessage p .drs) s = .next ((s.setHp p
        ((HpShell.setLed { x with drs := rest } k none).heads { x with drs := [] } s.tmo)).cntB 0x102 1).goOn) ∧
      (∀ i sl rest, x.bis = i :: rest → x.slotAt i = some sl → sl.st = .queued → exec (.outboundMessage p .bis) s = .next ((s.setHp p
        ((HpShell.setSlot { x with bis := rest, bisOut := some (sl.bisWord i) } i (some { sl with
          st := .out (s.tmo + s.fld HA_SNP_TMO 7 0 * 1024), ts := s.time })).heads { x with bis := [] } s.tmo)).cntB 0x103 1).goOn)) ∧
    (∀ ch, x.waitsOut ch = false ∨ s.mode = .off ∨ x.failed = true → exec (.outboundMessage p ch) s = .next s.goOn) ∧
    (∀ a, x.bicAcks = [a] → (∀ i l, (i, some l) ∈ x.ledger → l.st = .answered → hdrHost l.hdr = a.host → l.pla ≠ a.pla) →
      ∀ i l, x.ledger.find? (fun e => match e.2 with
          | some l => hdrHost l.hdr == a.host && hdrTag l.hdr == a.tag && hdrOpc l.hdr == 5
          | none => false) = some (i, l) → exec (.biConflictAck p) s = .next ((s.setHp p { x with bicAcks := [] }).answerNdr p i
            (ndrWord 3 a.host a.tag a.devload.toNat 0 0)).goOn) ∧
    (x.bicAcks = [] → exec (.biConflictAck p) s = .next s.goOn)

/-- Steps 2 to 6 of R87, the limit (Table 2.3) and R88; a host port is a legacy port when the block has not yet been in service (R176). -/
def Obligations.AttachOfAPort : Prop :=
  ∀ (s ans : State) (q : AttPort) (offer : BitVec 48) (common v : Nat),
    common = (bf offer 7 0 &&& (match q with | .hp _ => 2 ^ s.fld HA_STRAP 13 12 - 1 | .mp _ => 3)) → v = Nat.log2 common + 1 →
    ans = (if bf offer 47 40 ≠ 0 then (s.raise (portStat q) 7).setAtt q .refused
      else if common = 0 then s.setAtt q .refused
      else s.setAtt q (.answered (BitVec.ofNat 2 v) (BitVec.ofNat 32 (bf offer 39 8 &&& (match q with
          | .hp _ => s.fld HA_PORT_CAP 7 0 &&& (if 3 ≤ v then 0xFF else 0x0F)
          | .mp _ => if 2 ≤ v then s.fld HA_PORT_CAP 18 16 else 0))) s.tmo)) →
    (s.portUp q = true → s.att q = .idle →
      (s.mode ∈ [Mode.standby, .service, .degraded] → exec (.attachRequest q offer) s = .next ans) ∧
      (s.mode ∉ [Mode.standby, .service, .degraded] → s.mode ≠ .off →
        exec (.attachRequest q offer) s = .next (s.setAtt q (.waiting offer)))) ∧
    (s.mode ∈ [Mode.standby, .service, .degraded] → s.portUp q = true → s.att q = .waiting offer → s.attPoll q = ans) ∧
    (s.mode = .off ∨ s.portUp q = false ∨ s.att q ≠ .idle → exec (.attachRequest q offer) s = .next s) ∧
    (∀ w caps z, s.att q = .answered w caps z →
      (∀ m, q = .mp m → exec (.attachConfirm q) s = .next (s.setMp m { s.mpAt m with att := .attached w caps })) ∧
      (∀ p u, q = .hp p → u = s.setAtt q (.attached w caps) → exec (.attachConfirm q) s = .next (u.setHp p { u.hpAt p with
        attEpoch := (u.hpAt p).attEpoch + 1, v1ctx := BitVec.ofNat 16 (u.fld (HA_HP_V1CTX + 4 * p.val) 15 0),
        legacy := !u.bit HA_MODE 16 })) ∧
      (s.mode ∈ [Mode.standby, .service, .degraded] → s.past z (s.fld HA_PORT_TMO 31 24 * 1024) = true →
        exec (.attachTimeout q) s = .next ((s.setAtt q .refused).raise (portStat q) 8)) ∧
      (s.mode ∉ [Mode.standby, .service, .degraded] ∨ s.past z (s.fld HA_PORT_TMO 31 24 * 1024) = false →
        exec (.attachTimeout q) s = .next s) ∧
      exec (.attachAbandon q) s = .next (s.setAtt q .idle)) ∧
    (s.att q = .refused ∨ s.att q = .waiting offer → exec (.attachAbandon q) s = .next (s.setAtt q .idle)) ∧
    (∀ w caps, s.att q = .attached w caps → exec (.attachAbandon q) s = .next s ∧ exec (.attachConfirm q) s = .next s)

/-- Failures of a host port (R48, R419, Table 2.3) and of the reference tick (R59). -/
def Obligations.HostPortsFailAndLeave : Prop :=
  ∀ (s : State) (p : HpId) (x : HpShell) (fail : State → Nat → State), x = s.hpAt p →
    fail = (fun s cause =>
      let u := (s.hostsOn p).foldl (fun s h => s.depart h cause) s
      let led := ((u.hpAt p).ledger.filter fun o => match o.2 with
        | some l => l.st != .answered
        | none => false).map fun o => (o.1, o.2.map fun l => { l with gone := true })
      (u.setHp p { u.hpAt p with failed := true, ndr := [], drs := [], bis := [], bicAcks := [], ledger := led, outSince := [] }).leaveAtt p) →
    (∀ v c, x.att = .attached v c → exec (.hostDetach p) s = .next (s.setHp p { x with att := .detaching v c }).goOn) ∧
    ((∀ v c, x.att ≠ .attached v c) → exec (.hostDetach p) s = .next s.goOn) ∧
    (s.mode ≠ .off → s.hpUse p = true →
      exec (.hostPortFailure p .partnerReset) s = .next (fail (s.setHp p { x with partnerRst := true }) 1).goOn ∧
      exec (.hostPortFailure p .clock) s = .next (fail (s.setHp p { x with clkOk := false }) 0).goOn ∧
      exec (.hostPortRecovery p) s = .next (s.setHp p { x with partnerRst := false, clkOk := true, failed := false })) ∧
    (s.mode = .off ∨ s.hpUse p = false → (∀ why, exec (.hostPortFailure p why) s = .next s.goOn) ∧
      exec (.hostPortRecovery p) s = .next s) ∧
    (∀ ch, s.hpOutOn p = true → x.waitsOut ch = true →
      (s.past (smGet (fun _ => 0) x.outSince (hpOutIx ch)) (s.fld HA_PORT_TMO 7 0 * 1024) = true →
        exec (.hpOutTimeout p ch) s = .next (fail (s.raise (HA_HP_STAT + 4 * p.val) 6) 0).goOn) ∧
      (s.past (smGet (fun _ => 0) x.outSince (hpOutIx ch)) (s.fld HA_PORT_TMO 7 0 * 1024) = false →
        exec (.hpOutTimeout p ch) s = .next s.goOn)) ∧
    (s.reftickOk = true → exec .reftickLost s = .next { s.raise HA_INPUT_ERR 5 with reftickOk := false }) ∧
    (s.reftickOk = false → exec .reftickLost s = .next s) ∧
    exec .reftickReturn s = .next { s with reftickOk := true }

/-- MEDIA_READ_DATA (R91) and HANDOFF (R203) of the media requests of a flow, with the survivor tables and word 4 of the flow's
tracker intact. -/
def Obligations.MediaReadsAndHandOff : Prop :=
  ∀ (s : State) (m : MpId) (hdr : BitVec 64) (data : Line) (poison : Bool) (i k : Nat) (n : NodeId) (g : Mtag) (x : MpShell),
    x = s.mpAt m → x.mtag i = some g → g.own = .flow n k → s.survSyn = [] → smGet (fun _ => 0) ((s.nd n).trkAt k).syn 4 = 0 →
    (∀ a b c line e left, i = bf hdr 11 0 → line = bf hdr 13 12 → e = g.ents.getD line 0 → left = setBt g.left line false →
      s.mpIn m = true → s.sinks = false → g.kind = .rd → g.handed = true → bt g.left line = true → bf hdr 63 14 = 0 →
      g.orphan = false → ((s.nd n).trkAt k).v = true → ((s.nd n).lbAt e).own = some k →
      a = s.setMp m (x.setTag i (if left = 0 then none else some { g with left := left })) →
      b = (a.modNd n fun y => y.setLb e { y.lbAt e with data := data, mask := 0, poison := poison, landed := true, parBad := 0 }) →
      c = (if ∃ j, ∃ q ∈ (a.mpAt j).mtags, ∃ z, q.2 = some z ∧ z.own = .flow n k ∧ z.kind = .rd ∧ z.orphan = false then b
           else b.modTrk n k fun r => r.setW4 28 28 0) →
      exec (.mediaReadData m hdr data poison) s = .next ((c.wake n k).settle n).goOn) ∧
    (s.mpIn m = true → s.sinks = false → i = bf hdr 11 0 → g.kind ≠ .rd ∨ g.handed = false ∨ bf hdr 63 14 ≠ 0 →
      exec (.mediaReadData m hdr data poison) s = .next (s.raise (HA_MP_STAT + 4 * m.val) 7).goOn) ∧
    (s.mpIn m = false ∨ s.sinks = true → exec (.mediaReadData m hdr data poison) s = .next s.goOn) ∧
    (∀ rest u, s.portUp (.mp m) = true → x.reqQ = i :: rest →
      u = s.setMp m (MpShell.setTag { x with
        reqQ := rest, outSince := if rest = [] then none else some s.tmo
        reqOut := some (g.hdr i, if g.kind = .wr then g.data else 0) } i (some { g with handed := true, at_ := s.tmo })) →
      (g.kind ≠ .wr → exec (.handoff m) s = .next u.goOn) ∧
      (∀ (y : State) (fin : State → State), g.kind = .wr → g.pair = none →
        y = (match g.sb with | some q => (u.cntB (0x120 + m.val) 1).freeSb n q | none => u.cntB (0x120 + m.val) 1) →
        fin = (fun v => (v.modTrk n k fun r => { r with wbOff := r.wbOff || r.kind == 1 }).settle n) →
        (g.comp = none → g.onack = none → exec (.handoff m) s = .next (fin y).goOn) ∧
        (∀ c, g.comp = none → g.onack = some c →
          exec (.handoff m) s = .next (fin (y.setHp c.1 ((y.hpAt c.1).handed c.2.1))).goOn) ∧
        (∀ c, g.comp = some c → g.onack = none → exec (.handoff m) s =
          .next (fin ((y.setHp c.1 ((y.hpAt c.1).handed c.2.1)).answerNdr c.1 c.2.1 (setBt c.2.2 36 false))).goOn))) ∧
    (s.portUp (.mp m) = true → x.reqQ = [] → exec (.handoff m) s = .next s.goOn) ∧
    (s.portUp (.mp m) = false → exec (.handoff m) s = .next s)

/-- The end of one unpaired write of a flow, and of a SYNC (R91, R118), with the survivor tables intact; `fin` is what the write's own
end does, with outcome 0 DURABLE, 1 failed or late. -/
def Obligations.MediaWritesEnd : Prop :=
  ∀ (s : State) (m : MpId) (ack : BitVec 64) (i k : Nat) (n : NodeId) (g : Mtag) (free : State → State) (fin : State → Nat → State),
    (s.mpAt m).mtag i = some g → g.handed = true → s.survSyn = [] →
    free = (fun u => (u.setMp m ((u.mpAt m).setTag i none)).flushHit m i false) →
    fin = (fun u oc =>
      let f := free u
      let d := match g.dh with
        | none => f
        | some d => if oc = 0 then f else f.setHp d.1 ((f.hpAt d.1).flushLostAt d.2)
      let a := if oc ≠ 0 ∧ (g.comp.isSome = true ∨ g.loss = true) then d.lossPend else d
      let b := match g.onack with
        | none => a
        | some c => if oc = 0 then a.answerNdr c.1 c.2.1 (setBt c.2.2 36 true)
                    else (a.setHp c.1 ((a.hpAt c.1).flushLost c.2.1)).completeErr c
      (match g.sb with | none => b | some q => b.freeSb n q).writeFlow n k oc) →
    (∀ (u v : State) (oc : Nat), ((u.nd n).trkAt k).v = true → smGet (fun _ => 0) ((u.nd n).trkAt k).syn 4 = 0 →
      v = (if oc = 0 then u.modTrk n k fun r => r.setW4 27 27 0
        else (u.modTrk n k fun r => r.setW4 27 27 0).raise (ndA n ND_TRK_ERR) 3) →
      (oc = 0 ∨ ((u.nd n).trkAt k).kind ≠ 4 → u.writeFlow n k oc = (v.wake n k).settle n) ∧
      (oc ≠ 0 → ((u.nd n).trkAt k).kind = 4 → u.writeFlow n k oc = (State.settle { v.freeTrk n k with
        hwRep := (v.freeTrk n k).hwRep ++ [(((v.nd n).trkAt k).pla, if oc = 2 then 5 else 1)] } n))) ∧
    (g.kind = .wr → g.own = .flow n k → g.orphan = false → g.bad = false → g.pair = none →
      (s.mpIn m = true → s.sinks = false → bf ack 63 26 = 0 → bf ack 25 14 = 0 → bf ack 13 2 = i →
        (bf ack 1 0 = 0 → exec (.ackDurable m ack) s = .next ((fin s 0).cntB 0x108 1).goOn) ∧
        (bf ack 1 0 = 2 → exec (.ackWriteFail m ack) s = .next (fin s 1).goOn)) ∧
      (∀ t : BitVec 12, t.toNat = i → s.past g.at_ (s.fld HA_PORT_TMO 23 16 * 1024) = true → s.flushTags = [] →
        exec (.mpAckTimeout m t) s = .next (fin (s.raise (HA_MP_STAT + 4 * m.val) 9) 1).goOn)) ∧
    (g.kind = .sync → g.bad = false → s.mpIn m = true → s.sinks = false → bf ack 63 26 = 0 → bf ack 25 14 = 0 → bf ack 13 2 = i →
      bf ack 1 0 = 1 → exec (.ackSyncDone m ack) s = .next (free s).goOn) ∧
    (s.mpIn m = true → s.sinks = false → bf ack 63 26 ≠ 0 →
      ∀ c ∈ [Instr.ackSyncDone m ack, .ackWriteFail m ack], exec c s = .next (s.raise (HA_MP_STAT + 4 * m.val) 7).goOn)

/-- Media port detach (R427), failure (R428) and the clock windows (R44). -/
def Obligations.MediaPortsFailAndLeave : Prop :=
  ∀ (s : State) (m : MpId) (x : MpShell) (fail : State → State), x = s.mpAt m →
    fail = (fun u =>
      let a := (u.setMp m { u.mpAt m with failed := true, att := .idle }).setFld HA_MP_DET m.val m.val 0
      (a.mpFailAll m).2.foldl (fun s o => match o with
        | .dma c u => if (s.ch c).op = 5 then s.dmaRead c u 0 7 else s.dmaWrote c u 2
        | _ => s) (a.mpFailAll m).1) →
    (∀ v c, x.att = .attached v c → exec (.mediaDetachRequest m) s = .next ((((s.setMp m { x with att := .detaching v c }).setFld
      HA_MP_DET m.val m.val 1).record 0x06 0 m.val).chvEvent 0x56 m.val)) ∧
    ((∀ v c, x.att ≠ .attached v c) → exec (.mediaDetachRequest m) s = .next s) ∧
    (∀ v c, x.att = .detaching v c → (x.drained = true ∧ (∀ k < 8, s.activeMp k ≠ m) → exec (.mediaDetachComplete m) s =
        .next ((s.setMp m { x with att := .idle }).setFld HA_MP_DET m.val m.val 0)) ∧
      (x.drained = false ∨ (∃ k < 8, s.activeMp k = m) → exec (.mediaDetachComplete m) s = .next s)) ∧
    (s.mode ≠ .off → s.mpUse m = true →
      exec (.mediaPortFailure m .partnerReset) s = .next (fail (s.setMp m { x with partnerRst := true })).goOn ∧
      exec (.mediaPortFailure m .clock) s = .next (fail (s.setMp m { x with clkOk := false })).goOn ∧
      exec (.mediaPortRecovery m) s = .next (s.setMp m { x with partnerRst := false, clkOk := true, failed := false }) ∧
      (∀ c, 1946 ≤ c → c ≤ 12902 → exec (.clockWindowCheck (.mp m) c) s = .next (s.setMp m { x with clkOk := true }).goOn) ∧
      (∀ c, c < 1946 ∨ 12902 < c → exec (.clockWindowCheck (.mp m) c) s = .next (fail (s.setMp m { x with clkOk := false })).goOn)) ∧
    (∀ (p : HpId) c, s.mode ≠ .off → s.hpUse p = true →
      (1946 ≤ c → c ≤ 12902 → exec (.clockWindowCheck (.hp p) c) s = .next (s.setHp p { s.hpAt p with clkOk := true }).goOn) ∧
      (c < 1946 ∨ 12902 < c → exec (.clockWindowCheck (.hp p) c) s =
        .next ((s.setHp p { s.hpAt p with clkOk := false }).hpFail p 0).goOn)) ∧
    (∀ q c, q ∈ [ClkPort.bm, .cfg, .ev, .ps, .fuse] → exec (.clockWindowCheck q c) s = .next s.goOn) ∧
    (∀ z, x.outSince = some z → s.portUp (.mp m) = true → s.mpOn m = true → x.reqQ ≠ [] →
      (s.past z (s.fld HA_PORT_TMO 15 8 * 1024) = true →
        exec (.mpOutTimeout m) s = .next (fail (s.raise (HA_MP_STAT + 4 * m.val) 6)).goOn) ∧
      (s.past z (s.fld HA_PORT_TMO 15 8 * 1024) = false → exec (.mpOutTimeout m) s = .next s.goOn)) ∧
    (x.outSince = none → exec (.mpOutTimeout m) s = .next s.goOn)

/-- The end of a thread's accesses to block memory, outside a finished flush, which sinks responses (R430). -/
def Obligations.BlockMemoryEnds : Prop :=
  ∀ (s : State) (tag : BitVec 10) (data : Line) (err : BitVec 2), s.mode ≠ .off → ¬ (s.mode = .flush ∧ s.fld HA_FLUSH_STAT 1 0 = 3) →
    ((smGet (fun _ => none) s.bm tag.toNat : Option BmReq) = none →
      exec (.bmResponse tag data err) s = .next (s.raise HA_INPUT_ERR 12) ∧ exec (.bmTimeout tag) s = .next s) ∧
    (∀ r u v, (smGet (fun _ => none) s.bm tag.toNat : Option BmReq) = some r →
      u = { s with bm := smSet (fun _ => none) s.bm tag.toNat none }.bmErrs (bmErrOf err) →
      v = { s with bm := smSet (fun _ => none) s.bm tag.toNat none }.raise HA_INPUT_ERR 11 →
      exec (.bmResponse tag data err) s = .next (u.bmEnd r data (bmErrOf err)).pendAll.goOn ∧
      (s.past r.at_ 10000 = true → exec (.bmTimeout tag) s = .next (v.bmEnd r 0 .timeout).pendAll.goOn) ∧
      (s.past r.at_ 10000 = false → exec (.bmTimeout tag) s = .next s) ∧
      (∀ t id e, r.why = .acc t (some id) → r.wr = true → ((u.thr t).sb.find? fun e => e.id == id) = some e →
        (∀ w, err = 0 ∨ err = 1 → w = (u.bmStore r.line (r.be &&& ~~~r.later) r.data).bmCover r.line r.seq r.be →
          u.bmEnd r data (bmErrOf err) = w.dropSb t id ∧
          ∀ a, memRead w.bmem a 1 = if a / 64 = r.line ∧ r.be.getLsbD (a % 64) = true ∧ r.later.getLsbD (a % 64) = false
            then (byteOf r.data (a % 64)).toNat else memRead u.bmem a 1) ∧
        (err = 3 → u.bmEnd r data (bmErrOf err) = u.modThr t fun x => { x with
          sb := x.sb.filter (fun b => b.id != e.id), incomplete := true,
          disc := if x.incomplete then x.disc else BitVec.ofNat 64 e.addr })) ∧
      (∀ t rd w ea z pc, r.why = .acc t none → r.wr = false → (u.thr t).pend = .load rd w ea (some z) → err = 0 ∨ err = 1 →
        pc = (u.thr t).pc + 1 → Passes u t pc → OnlyThread u (u.bmEnd r data (bmErrOf err)) t ∧
          WroteRd u (u.bmEnd r data (bmErrOf err)) t rd (BitVec.ofNat 64 (bf data (8 * (ea % 64 + w) - 1) (8 * (ea % 64)))) pc))

/-- The rows of reset and boot (R53, R392 to R414). That the straps hold between two samples, and that the four samples of an input
filter take four ticks, is the model's choice (log entries 111, 113). That a COMMIT or a fuse program that was under way may or may not be carried
out is the model's reading (log entry 4). -/
def Obligations.ResetsAndBoot : Prop :=
  ∀ (s : State) (src : Src),
    (s.mode ≠ .off → exec .coldResetAssert s = .next (allQd.foldl (fun s q => s.setQd q { s.qd q with pwr := .off })
      { s.coldReset with mode := .off }) ∧ exec .coldResetRelease s = .next s) ∧
    (s.mode = .off → exec .coldResetAssert s = .next s ∧ exec .coldResetRelease s = .next { s.coldReset with mode := .strap }) ∧
    (s.psCmd = none → s.fusePgm = none → s.coldReset = { State.reset with
      pending := s.pending, store := s.store, pageBuf := s.pageBuf, storeProt := s.storeProt, fuse := s.fuse, free := s.free,
      romSyn := s.romSyn }) ∧
    (∀ (p : StrapPins) (m : BitVec 9) (x : State), s.mode = .strap → s.pins = none → x = { s with
        strapNow := some p
        strapChg := (match s.strapNow with | some q => pinsDiff p q | none => List.range 9).foldl
          (fun l i => smSet (fun _ => 0) l i s.tmo) s.strapChg } →
      (x.takeStraps p m).mode = .fill ∧
      ((∀ i < 9, x.chgAt i + 64 ≤ 1024 ∧ x.past (x.chgAt i) 64 = true) → exec (.strapsTaken p) s = .next (x.takeStraps p 0)) ∧
      ((∃ i < 9, 1024 < x.chgAt i + 64 ∨ x.past (x.chgAt i) 64 = false) → exec (.strapsTaken p) s = .next x) ∧
      (∀ g, s.past 0 1024 = true → m ≠ 0 → (∀ i < 9, m.getLsbD i = (decide (1024 < x.chgAt i + 64) || g.getLsbD i)) →
        exec (.strapTimeout p g) s = .next (x.takeStraps p m)) ∧
      (s.past 0 1024 = true → (∀ i < 9, x.chgAt i + 64 ≤ 1024 ∧ x.past (x.chgAt i) 64 = true) →
        exec (.strapTimeout p 0) s = .next (x.takeStraps p 0)) ∧
      (∀ g, s.past 0 1024 = false → exec (.strapTimeout p g) s = .next s)) ∧
    (s.mode = .fill → exec .fillEnd s = .next ({ s with fuseRd := none }.setMode .boot).bootRun.goOn) ∧
    (s.mode ≠ .fill → exec .fillEnd s = .next s) ∧
    (∀ w u, s.MayAccess src HA_BOOT_CTRL true → u = s.setRaw HA_BOOT_CTRL (w &&& 3) → exec (.bootReady src w []) s =
      .next ((if s.mode = .boot ∧ u.fld HA_BOOT_STAT 2 0 = 3 ∧ bt w 0 = true then u.phase4 else u).goOn.noted src HA_BOOT_CTRL true 0)) ∧
    (∀ k u, u = (s.setFld HA_RST_CAUSE k k 1).setFld HA_RST_CAUSE 6 6 1 →
      (s.mode = .off → s.fullReq k = s) ∧
      (s.mode ∈ [.strap, .fill, .flush] → s.fullReq k = u.record 9 0 (2 ^ k + 2 ^ 6 + u.fld HA_RST_STAT 2 0 * 2 ^ 16)) ∧
      (s.mode ∉ [.off, .strap, .fill, .flush] → (s.mode = .boot ∨ s.bit HA_IMG_STAT 12 = false) →
        s.fullReq k = (s.rstNote [k, 7]).stCut.bootPath) ∧
      (s.mode ∉ [.off, .strap, .fill, .flush, .boot] → s.bit HA_IMG_STAT 12 = true → s.fullReq k = (s.rstNote [k]).stCut.holdSeq)) ∧
    (s.fullPinAt ≤ s.tmo → exec .pwrFullRstPulse s = .next ({ s with fullPinAt := s.tmo + 8 }.fullReq 2).goOn) ∧
    (s.tmo < s.fullPinAt → exec .pwrFullRstPulse s = .next s) ∧
    (s.MayAccess src HA_RST_REQ true →
      exec (.rstFull src) s = .next (((s.fullReq 3).noted src HA_RST_REQ true 0).goOn) ∧
      (s.mode = .hold → exec (.rstRelease src) s = .next (({ s with released := true }.noted src HA_RST_REQ true 0).goOn)) ∧
      (s.mode ≠ .hold → exec (.rstRelease src) s = .next ((s.noted src HA_RST_REQ true 0).goOn))) ∧
    (s.MayAccess src HA_WDOG true → ∀ w u, u = s.setFld HA_WDOG 7 0 (bf w 7 0) →
      exec (.wdogKick src w) s = .next ((if bt w 8 then { u with wdogAt := s.tmo } else u).noted src HA_WDOG true 0)) ∧
    (s.mode ∈ [.standby, .service, .degraded, .evacuate] → s.fld HA_WDOG 7 0 ≠ 0 →
      s.past s.wdogAt (1024 * s.fld HA_WDOG 7 0) = true → exec .watchdogExpiry s = .next (s.fullReq 5).goOn) ∧
    (s.mode ∉ [.standby, .service, .degraded, .evacuate] ∨ s.fld HA_WDOG 7 0 = 0 ∨
      s.past s.wdogAt (1024 * s.fld HA_WDOG 7 0) = false → exec .watchdogExpiry s = .next s.goOn) ∧
    (∀ u, u = s.raise HA_RST_CAUSE 8 → s.mode = .hold → s.prior ≠ .selftest → s.past s.holdAt 40000 = true → exec .holdLimit s =
      .next (if u.mode = .safe then u.setFld HA_MODE 15 12 3 else u.safeEntry 3).goOn) ∧
    (s.mode ≠ .hold ∨ s.prior = .selftest ∨ s.past s.holdAt 40000 = false → exec .holdLimit s = .next s.goOn)

/-- The mode requests (R393, Table 13.1) and FLUSH (R429, R430). That the four samples of the input filter take four ticks is the
model's choice (log entry 113). -/
def Obligations.ModesAndFlush : Prop :=
  ∀ (s : State) (src : Src),
    (s.MayAccess src HA_MODE_REQ true → ∀ c k, (c, k) ∈ [(Instr.modeStandby src, 4), (.modeService src, 5), (.modeEvacuate src, 8),
      (.modeSelftest src, 10)] → exec c s = .next (((s.modeReq k).noted src HA_MODE_REQ true 0).goOn)) ∧
    (∀ m, (s.setMode m).mode = m ∧ (s.mode = m → s.setMode m = s)) ∧
    (s.mode ∈ [.service, .degraded, .evacuate] ∨ (s.mode = .boot ∧ s.bit HA_CHV_STAT 23 = true) →
      s.modeReq 4 = if (s.setMode .standby).pwrFail then (s.setMode .standby).flushEnter else s.setMode .standby) ∧
    (s.mode ∈ [.standby, .evacuate] → ∀ u, u = s.setMode (if s.dgAny then .degraded else .service) →
      s.modeReq 5 = if s.bit HA_MODE 16 then u else u.consCheck) ∧
    (s.mode ∈ [.standby, .service, .degraded] → s.modeReq 8 = s.setMode .evacuate) ∧
    (s.mode = .evacuate → (s.stRej = 0 → s.modeReq 10 = s.stEnter ∧ s.stEnter.mode = .selftest) ∧
      (s.stRej ≠ 0 → s.modeReq 10 = (s.setFld HA_ST_STAT 8 5 s.stRej).raise HA_MODE 11)) ∧
    (s.mode ∉ [.service, .degraded, .evacuate] → ¬(s.mode = .boot ∧ s.bit HA_CHV_STAT 23 = true) →
      s.modeReq 4 = s.raise HA_MODE 11) ∧
    (s.mode ∉ [.standby, .evacuate] → s.modeReq 5 = s.raise HA_MODE 11) ∧
    (s.mode ∉ [.standby, .service, .degraded] → s.modeReq 8 = s.raise HA_MODE 11) ∧
    (s.mode ≠ .evacuate → s.modeReq 10 = s.raise HA_MODE 11) ∧
    (s.mode ∈ [.standby, .service, .degraded, .hold, .evacuate, .selftest, .safe] →
      4 ≤ s.tmo → exec .powerFail s = .next ({ s with pwrFail := true }.flushEnter.goOn)) ∧
    (s.mode ∈ [.strap, .fill, .boot, .flush] → 4 ≤ s.tmo → exec .powerFail s = .next { s with pwrFail := true }) ∧
    (s.mode = .off ∨ s.tmo < 4 → exec .powerFail s = .next s) ∧
    (s.mode = .flush → s.fld HA_FLUSH_STAT 1 0 = 1 →
      ((∀ p, (s.hpAt p).ledger = []) → exec .drainEnd s = .next s.syncStart) ∧
      (∀ p, (s.hpAt p).ledger ≠ [] → exec .drainEnd s = .next s) ∧
      (s.past s.flushAt (s.fld HA_FLUSH_CTRL 15 0) = true → s.noneLive = false → exec .drainLimit s =
        .next (((s.setFld HA_FLUSH_STAT 2 2 1).stopEngines).setFld HA_FLUSH_STAT 27 12 s.leftN).cutWrites.syncStart)) ∧
    (s.mode = .flush → s.fld HA_FLUSH_STAT 1 0 = 2 →
      (s.modeSync.syncAll = true → exec .syncEnd s = .next (s.modeSync.flushDone false)) ∧
      (s.modeSync.syncAll = false → exec .syncEnd s = .next s.modeSync) ∧
      (s.past s.flushAt (s.fld HA_FLUSH_CTRL 31 16) = true → exec .syncLimit s = .next (s.flushDone !s.syncAll))) ∧
    (s.mode ≠ .flush → ∀ c ∈ [Instr.drainEnd, .drainLimit, .syncEnd, .syncLimit], exec c s = .next s) ∧
    (∀ cut u, u = ((s.setFld HA_FLUSH_STAT 3 3 (b2n cut)).setFld HA_FLUSH_STAT 11 4
        ((allMp.map fun m => b2n (s.flushGot m) * 2 ^ m.val).sum)).setFld HA_FLUSH_STAT 1 0 3 →
      s.flushDone cut = u.record 3 0 (3 + b2n (u.bit HA_FLUSH_STAT 2) * 2 ^ 8 + b2n cut * 2 ^ 9 +
        (allMp.map fun m => b2n (s.flushGot m) * 2 ^ m.val).sum * 2 ^ 16 + u.fld HA_FLUSH_STAT 27 12 * 2 ^ 32))

/-- The rows of the register port and of the event port. -/
def Obligations.RegistersAndEventRecords : Prop :=
  ∀ (s : State), s.mode ≠ .off →
    (∀ (p : Bool) (addr : BitVec 24) (w : BitVec 32) (be : BitVec 4) (a : Nat), a = addr.toNat → s.cfg.length < 4 →
      (∀ o, a % 4 ≠ 0 ∨ be ≠ 15 →
        exec (.registerWrite addr o be p) s = .next ((s.accErr 1 a o.isSome p).cfgNote a o.isSome p (some (true, 0)))) ∧
      (a % 4 = 0 → be = 15 → a < 0x300000 →
        (s.regDenied (.port p) a false = true →
          exec (.registerWrite addr none be p) s = .next ((s.accErr 1 a false p).cfgNote a false p (some (false, 0)))) ∧
        (s.MayAccess (.port p) a false → a < HA_EV_WIN ∨ HA_EV_WIN + 64 ≤ a →
          exec (.registerWrite addr none be p) s = .next (s.cfgNote a false p (some (false, s.readReg a)))) ∧
        (s.regDenied (.port p) a true = true →
          exec (.registerWrite addr (some w) be p) s = .next ((s.accErr 1 a true p).cfgNote a true p (some (false, 0))).goOn) ∧
        (s.regDenied (.port p) a true = false → s.sunkAt a = true →
          exec (.registerWrite addr (some w) be p) s = .next ((s.raise HA_FAB_ERR 5).cfgNote a true p none).goOn) ∧
        (∀ d k m u, s.MayAccess (.port p) a true → findReg a = some d → k = s.resvFields a d w →
          m = k.foldl (fun m f => setBf m f.1 f.2 0) d.rw →
          u = s.setRaw a (((s.raw a &&& ~~~m) ||| (w &&& m)) &&& ~~~(w &&& d.w1c)) →
          (ndOf a = none ∧ qdOf a = none ∧ ∀ x ∈ [HA_MODE_REQ, HA_RST_REQ, HA_WDOG, HA_BOOT_CTRL, HA_MB_DOORBELL, HA_MB_COMPLETE,
            HA_MEAS_EXT_GO, HA_OVF_CTRL, HA_OVF_BASE, HA_SF_CONS, HA_XLT_CMD, HA_DMA_CH_CTRL, HA_DMA_CHX_CTRL, HA_FAB_EPOCH, HA_EV_CTRL,
            HA_EV_WIN, HA_PS_CMD, HA_PMC_CTRL, HA_CHV_TIMER, HA_MB_REQ, HA_MB_RSP, HA_MEAS_EXT_DIG, HA_MEAS_EXT_SRC, HA_MEAS_EXT_LEN,
            HA_MEAS_EXT_VER], a ≠ x ∧ d.base ≠ x) ∨
          ((∀ x ∈ [HA_MODE_REQ, HA_RST_REQ, HA_WDOG, HA_BOOT_CTRL, HA_MB_DOORBELL, HA_MB_COMPLETE, HA_MEAS_EXT_GO], a ≠ x) ∧
            ∃ n o, ndOf a = some (n, o) ∧ o ≠ ND_SF_CTRL ∧ o ≠ ND_FAB_CTRL) →
          exec (.registerWrite addr (some w) be p) s =
            .next (((if k = [] then u else u.accErr 1 a true p).degrade.noted (.port p) a true 0).goOn)))) ∧
    (∀ pre r post, s.cfg = pre ++ r :: post → (∀ q ∈ pre, q.ans = none → s.past q.at_ 1000 = false) → r.ans = none →
      s.past r.at_ 1000 = true → exec .registerPortTimeout s = .next { s with cfg := pre ++ { r with ans := some (true, 0) } :: post }) ∧
    ((∀ q ∈ s.cfg, q.ans = none → s.past q.at_ 1000 = false) → exec .registerPortTimeout s = .next s) ∧
    (∀ e l u beats, s.evq = e :: l → s.bit HA_EV_STAT 7 = false → u = { s with evq := l, evSince := s.tmo } →
      beats = (List.range 4).map (fun k => (BitVec.ofNat 64 (bf e (64 * k + 63) (64 * k)), k == 3)) →
      exec .eventRecordSend s = .next { u with evBeats := beats }.dropped ∧
      (s.past s.evSince 100000 = true → ∃ k < 4, exec .evTimeout s =
        .next ({ u with evBeats := beats.take k, free := s.free + 1 }.dropRec.raise HA_INPUT_ERR 8).dropped) ∧
      (s.past s.evSince 100000 = false → exec .evTimeout s = .next s)) ∧
    (s.evq = [] ∨ s.bit HA_EV_STAT 7 = true → exec .eventRecordSend s = .next s ∧ exec .evTimeout s = .next s) ∧
    (s.evDrops = 0 → s.dropped = s) ∧
    (∀ (src : Src) (k : Fin 16) (wr : Bool) (w r : BitVec 32), s.MayAccess src (HA_EV_WIN + 4 * k.val) wr →
      (wr = false → exec (.evWindowAccess src k wr w r) s = .next ((s.setRaw (HA_EV_WIN + 4 * k.val) r).noted src (HA_EV_WIN + 4 * k.val) wr r)) ∧
      (wr = true → k ≠ 1 →
        exec (.evWindowAccess src k wr w r) s = .next ((s.setRaw (HA_EV_WIN + 4 * k.val) w).noted src (HA_EV_WIN + 4 * k.val) wr 0)) ∧
      (∀ u, wr = true → k = 1 → u = (if s.bit HA_EV_STAT 7 = true ∧ bt w 0 = false then { s with evSince := s.tmo } else s) →
        exec (.evWindowAccess src k wr w r) s =
          .next (((u.setFld HA_EV_STAT 7 7 (bf w 0 0)).setRaw (HA_EV_WIN + 4) w).noted src (HA_EV_WIN + 4) wr 0)))

/-- PMC control (R495) and the debug aperture of a 64-bit array (R511 to R513). -/
def Obligations.CountersAndAperture : Prop :=
  ∀ (s : State) (src : Src) (w : BitVec 32),
    (s.MayAccess src HA_PMC_CTRL true → ∀ u : State, u = s.setRaw HA_PMC_CTRL (s.raw HA_PMC_CTRL &&& 0x9) →
      exec (.pmcFreeze src w) s = .next ((s.setRaw HA_PMC_CTRL (w &&& 0x9)).noted src HA_PMC_CTRL true 0) ∧
      (s.tmo < s.pmcBusyTo → ∀ c ∈ [Instr.pmcSnap src, .pmcClear src],
        exec c s = .next ((u.accErr 1 HA_PMC_CTRL true (srcPriv src)).noted src HA_PMC_CTRL true 0)) ∧
      (s.pmcBusyTo ≤ s.tmo → ∃ k ≤ 100,
        exec (.pmcSnap src) s = .next (State.noted
          { u.pmcMap (fun c => { c with snap := c.live }) with pmcBusyTo := s.tmo + k, free := s.free + 1 } src HA_PMC_CTRL true 0) ∧
        exec (.pmcClear src) s = .next (State.noted
          { u.pmcMap (fun c => { c with live := 0 }) with pmcBusyTo := s.tmo + k, free := s.free + 1 } src HA_PMC_CTRL true 0))) ∧
    (∀ (off : BitVec 20) (a g : Nat) (t : State), a = 0x300000 + off.toNat → g = off.toNat / 8 → s.mode ≠ .off →
      src ≠ .tarragon → s.closed a = false → srcPriv src = true → (∀ p, src = .port p → s.cfg.length < 4) →
      t = s.setFld HA_DBG_STAT 9 9 0 →
      (∀ x r, off.toNat % 8 = 0 → s.apArr off.toNat = .ok x → x.narrow = false → r = t.granGet x g →
        exec (.apertureReadLow src off) s = .next (State.noted
          { r.2.dbgLoad x r.1 (r.1.par != 0) with dbgLatch := some (s.dbgKey off.toNat, r.1.val), dbgHeld := none }
          src a false (BitVec.ofNat 32 (bf r.1.val 31 0))) ∧
        (x.readOnly = false → ∀ u : State, u = { t with dbgLatch := none, dbgHeld := some (s.dbgKey off.toNat, w) } →
          exec (.apertureWriteLow src off w) s = .next (u.goOn.noted src a true 0))) ∧
      (∀ x v, off.toNat % 8 = 4 → s.apArr off.toNat = .ok x → x.narrow = false →
        (s.dbgLatch = some (s.dbgKey off.toNat, v) → exec (.apertureReadHigh src off) s =
          .next (State.noted { t with dbgLatch := none, dbgHeld := none } src a false (BitVec.ofNat 32 (bf v 63 32)))) ∧
        (∀ lo k u, x.readOnly = false → s.dbgHeld = some (s.dbgKey off.toNat, lo) → k = BitVec.ofNat 64 (lo.toNat + w.toNat * 2 ^ 32) →
          u = { t with dbgLatch := none } → exec (.apertureWriteHigh src off w) s =
            .next (State.noted (State.goOn { u.granPut x g k (u.dbgSyn x k) (u.bit HA_DBG_CTRL 0) 255 with dbgHeld := none }) src a true 0))) ∧
      (∀ away u, s.apArr off.toNat = .error away → u = { s with dbgLatch := none, dbgHeld := none }.setFld HA_DBG_STAT 9 9 (b2n away) →
        (off.toNat % 8 = 0 → exec (.apertureReadLow src off) s = .next ((u.accErr 1 a false (srcPriv src)).noted src a false 0) ∧
          exec (.apertureWriteLow src off w) s = .next ((u.accErr 1 a true (srcPriv src)).goOn.noted src a true 0)) ∧
        (off.toNat % 8 = 4 → exec (.apertureReadHigh src off) s = .next ((u.accErr 1 a false (srcPriv src)).noted src a false 0) ∧
          exec (.apertureWriteHigh src off w) s = .next ((u.accErr 1 a true (srcPriv src)).goOn.noted src a true 0))))

/-- The rows of the parameter store, the measurement unit, Sorrel and the fuses. Whether a command past its limit was carried out is
open (log entry 4). -/
def Obligations.StoreMeasurementAndFuses : Prop :=
  ∀ (s : State) (src : Src) (lvl : BitVec 2) (data w : BitVec 32) (stat : BitVec 2),
    (s.MayAccess src HA_PS_CMD true → ∀ c k l, (c, k, l) ∈ [(Instr.psRead src, (0 : BitVec 3), (0 : BitVec 2)), (.psLoad src, 1, 0),
        (.psCommit src, 2, 0), (.psSetProtect src lvl, 3, lvl), (.psStatus src, 4, 0)] →
      (s.psCmd = none → exec c s = .next (State.noted
        { s with psCmd := some (k, BitVec.ofNat 20 (s.fld HA_PS_ADDR 19 0), s.raw HA_PS_WDATA, l, s.tmo) } src HA_PS_CMD true 0)) ∧
      (s.psCmd.isSome = true → exec c s = .next ((s.accErr 1 HA_PS_CMD true (srcPriv src)).noted src HA_PS_CMD true 0))) ∧
    (∀ p, s.mode ≠ .off → s.cfg.length < 4 → ∀ c ∈ [Instr.psRead (.port p), .psLoad (.port p), .psCommit (.port p),
      .psSetProtect (.port p) lvl, .psStatus (.port p)], exec c s = .next ((s.accErr 1 HA_PS_CMD true p).cfgNote HA_PS_CMD true p (some (false, 0)))) ∧
    (s.psCmd = none → exec (.psResponse stat data) s = .next s ∧ exec .psTimeout s = .next s) ∧
    (∀ k a d l t u, s.psCmd = some (k, a, d, l, t) → u = ({ s with psCmd := none }.setRaw HA_PS_RDATA data).setFld HA_PS_STAT 2 1 stat.toNat →
      (s.mode ≠ .off → stat = 0 →
        (k = 0 → exec (.psResponse stat data) s = .next u) ∧
        (k = 1 → exec (.psResponse stat data) s = .next { u with pageBuf := memWrite u.pageBuf (a.toNat % 256 / 4 * 4) d.toNat 4 }) ∧
        (k = 2 → ∃ m, exec (.psResponse stat data) s = .next { u with store := m } ∧ ∀ b, memByte m b =
          if b / 256 = a.toNat / 256 then memByte s.pageBuf (b % 256) else memByte s.store b) ∧
        (k = 3 → exec (.psResponse stat data) s = .next { u with storeProt := l }) ∧
        (k = 4 → exec (.psResponse stat data) s = .next (u.setFld HA_PS_STAT 4 3 (bf data 1 0)))) ∧
      (s.mode ≠ .off → stat = 1 → exec (.psResponse stat data) s = .next (if k = 2 then u.raise HA_PS_ERR 3 else u)) ∧
      (s.mode ≠ .off → stat = 2 ∨ stat = 3 → exec (.psResponse stat data) s = .next (u.raise HA_PS_ERR 4)) ∧
      (s.past t (if k = 2 then 1000000 else 10000) = true → ∀ z : State, z = { s with psCmd := none, free := s.free + 1 } →
        ∃ v ∈ [z, z.psDone k a d l], exec .psTimeout s = .next (v.raise HA_INPUT_ERR 9)) ∧
      (s.past t (if k = 2 then 1000000 else 10000) = false → exec .psTimeout s = .next s)) ∧
    (s.MayAccess src HA_MEAS_EXT_GO true →
      (bt w 9 = true → s.meas.busy = none → s.meas.lock = false → bf w 2 0 < 6 → s.meas.log.length < 16 → ∀ r : ExtReq,
        r = ⟨bf w 2 0, bf w 7 3, bt w 8, bf (s.raw HA_MEAS_EXT_LEN) 19 0, bf (s.raw HA_MEAS_EXT_SRC) 28 0, s.raw HA_MEAS_EXT_VER, s.extDig⟩ →
        exec (.measExtend src w) s = .next (State.noted { s with meas := { s.meas with busy := some r } } src HA_MEAS_EXT_GO true 0)) ∧
      (bt w 9 = true → s.meas.busy = none → s.meas.lock = true ∨ 6 ≤ bf w 2 0 ∨ 16 ≤ s.meas.log.length →
        exec (.measExtend src w) s = .next ((s.raise HA_MEAS_CTRL 6).noted src HA_MEAS_EXT_GO true 0)) ∧
      (bt w 9 = false → exec (.measExtend src w) s = .next (s.noted src HA_MEAS_EXT_GO true 0))) ∧
    (s.meas.busy = none → exec .measExtendDone s = .next s) ∧
    (∀ (r : ExtReq) (q u : State) o dig new, s.meas.busy = some r → q = { s with meas := { s.meas with busy := none } } →
      o = (if r.direct then (true, [], q) else q.objRead (64 * r.src) r.len) → u = o.2.2 →
      dig = (if r.direct then r.dig else sha384 o.2.1) → new = sha384 (wordBytes (u.meas.slot r.slot) 48 ++ wordBytes dig 48) →
      (r.direct = false → o.1 = true → o.2.1 = memBytes s.bmem (64 * r.src) r.len) ∧
      exec .measExtendDone s = .next { u with meas := { u.meas with
        slots := smSet (fun _ => 0) u.meas.slots r.slot new
        log := u.meas.log ++ [logEntry r.slot r.kind o.2.1.length r.ver u.time.toNat dig new] } }) ∧
    (s.fusePgm = none → (∀ err, exec (.fuseProgramDone err) s = .next s.goOn) ∧
      (s.fuseRd = none → exec .fuseTimeout s = .next s.goOn) ∧
      (∀ t, s.fuseRd = some t → s.past t 1000 = false → exec .fuseTimeout s = .next s.goOn) ∧
      (∀ t u, s.fuseRd = some t → s.past t 1000 = true →
        u = s.hard.items.foldl (fun s i => s.wayClear i) { s with fuseRd := none, map := {}, hard := {} } →
        exec .fuseTimeout s = .next ((u.setRaw HA_FAB_SINK_ACT (BitVec.ofNat 32 u.sinkAlways)).raise HA_INPUT_ERR 10).goOn)) ∧
    (∀ a x t, s.fusePgm = some (a, x, t) →
      (∀ u : State, u = { s with fusePgm := none, fuse := smSet (fun _ => (0 : BitVec 32)) s.fuse a.toNat x } →
        exec (.fuseProgramDone false) s = .next u.fuseNext.goOn) ∧
      (∀ u : State, u = { s with
          fusePgm := none, fuseTodo := s.fuseTodo.filter fun e => !(a.toNat % 2 == 0 && decide (a.toNat < 0x300) && e.1.toNat == a.toNat + 1) } →
        exec (.fuseProgramDone true) s = .next (u.raise HA_ST_ERR 4).fuseNext.goOn) ∧
      (s.past t 100000 = false → exec .fuseTimeout s = .next s.goOn) ∧
      (s.past t 100000 = true → ∃ f ∈ [s.fuse, smSet (fun _ => (0 : BitVec 32)) s.fuse a.toNat x], exec .fuseTimeout s =
        .next (State.raise { s with fusePgm := none, fuse := f, free := s.free + 1 } HA_INPUT_ERR 10).fuseNext.goOn)) ∧
    (∀ a x l, s.fuseTodo = (a, x) :: l → s.fuseNext = { s with fuseTodo := l, fusePgm := some (a, x, s.tmo) }) ∧
    (∀ res : SorrelRes, (s.mode ≠ .selftest ∨ s.fusePgm.isSome = true ∨ 4 < s.fld HA_ST_STAT 2 0 → exec (.sorrelEnd res) s = .next s.goOn) ∧
      (s.mode = .selftest → s.fusePgm = none → s.fld HA_ST_STAT 2 0 ≤ 4 →
        (res.restoreOk = false → s.fld HA_ST_STAT 2 0 = 1 → exec (.sorrelEnd res) s = .next (s.raise HA_ST_ERR 1).goOn) ∧
        (res.restoreOk = true ∨ s.fld HA_ST_STAT 2 0 ≠ 1 → ∀ u : State, u = s.stQuadsEnd.setFld HA_ST_STAT 2 0 4 →
          exec (.sorrelEnd res) s = .next (u.stCommit res).goOn ∧ (res.fails = [] → u.stCommit res = u.fuseNext))))

/-- The rows of the fabric but SINK_ABSORB. -/
def Obligations.FabricCommands : Prop :=
  ∀ (s : State) (src : Src) (n : NodeId) (w : BitVec 32),
    (s.MayAccess src HA_FAB_EPOCH true → ∀ acc mapsBad sinkBad (u v : State), acc = (if src = .tarragon then none else some (true, srcPriv src)) →
      mapsBad = !s.mapsOk → sinkBad = !s.sinkOk (fun i => if s.mapsOk then s.shadowSlot i else s.slotNode i) →
      v = { s with
          epAcc := acc, epAt := s.tmo, epMaps := if mapsBad then none else some (s.shadowHome, s.shadowMps)
          epSink := if sinkBad then none else some (s.raw HA_FAB_SINK) } →
      u = (((State.setFld { v with rout := v.rout.map fun (e : Nat × List RPkt) => (e.1, e.2.map fun (k : RPkt) =>
          { k with old := v.affects (bf (k.flits.headD 0) 14 10) }) } HA_FAB_EPOCH 1 1 1).setFld HA_FAB_EPOCH 5 5 (b2n mapsBad)).setFld
          HA_FAB_EPOCH 6 6 (b2n sinkBad)) →
      (s.bit HA_FAB_EPOCH 1 = true → exec (.epochChange src) s =
        .next ((if src = .tarragon then s else s.accErr 1 HA_FAB_EPOCH true (srcPriv src)).noted src HA_FAB_EPOCH true 0)) ∧
      (s.bit HA_FAB_EPOCH 1 = false → mapsBad = false → sinkBad = false →
        exec (.epochChange src) s = .next (u.noted src HA_FAB_EPOCH true 0)) ∧
      (s.bit HA_FAB_EPOCH 1 = false → mapsBad = true ∨ sinkBad = true → exec (.epochChange src) s = .next ((match acc with
        | some (wr, p) => u.accErr 2 HA_FAB_EPOCH wr p
        | none => u.accErr 2 0 false false).noted src HA_FAB_EPOCH true 0))) ∧
    (s.bit HA_FAB_EPOCH 1 = true → s.drained = true → exec .epochDrainDone s = .next (((s.epSwitch.setFld HA_FAB_EPOCH 4 2
      (s.fld HA_FAB_EPOCH 4 2 + 1)).setFld HA_FAB_EPOCH 1 1 0).goOn) ∧ exec .epochDrainTimeout s = .next s) ∧
    (s.bit HA_FAB_EPOCH 1 = true → s.drained = false → exec .epochDrainDone s = .next s ∧
      exec .epochDrainTimeout s = .next (if s.past s.epAt 800 then s.raise HA_FAB_ERR 6 else s)) ∧
    (s.bit HA_FAB_EPOCH 1 = false → exec .epochDrainDone s = .next s ∧ exec .epochDrainTimeout s = .next s) ∧
    (s.MayAccess src (ndA n ND_FAB_CTRL) true → ∀ u, u = s.setFld (ndA n ND_FAB_CTRL) 0 0 (bf w 0 0) →
      exec (.quench src n w) s = .next ((if u.quenches n then u else (u.quenchSync n).goOn).noted src (ndA n ND_FAB_CTRL) true 0)) ∧
    (s.quenches n = true →
      (∀ p, exec (.quenchAck n (.hp p)) s = .next (s.setHp p { s.hpAt p with quenchAck := setBt (s.hpAt p).quenchAck n.val true })) ∧
      (∀ m, exec (.quenchAck n (.mp m)) s = .next (s.setMp m { s.mpAt m with quenchAck := setBt (s.mpAt m).quenchAck n.val true })) ∧
      (∀ sh i, (sh, i) ∈ [(QShell.bm, 0), (.cfg, 1), (.sys, 2)] → exec (.quenchAck n sh) s =
        .next { s with shellAck := smSet (fun _ => 0) s.shellAck i (setBt (s.shellAcks i) n.val true) })) ∧
    (s.quenches n = false → ∀ sh, exec (.quenchAck n sh) s = .next s) ∧
    (∀ e q k x o, x = s.que q → o = smGet (fun _ => 0) x.owed (epCode e) →
      (q.k ∈ [.req, .snp, .mreq, .breq] → exec (.credit e q k) s = .next (s.setQue q { x with
        used := smSet (fun _ => 0) x.used (epCode e) (smGet (fun _ => 0) x.used (epCode e) - min k o)
        owed := smSet (fun _ => 0) x.owed (epCode e) (o - min k o) }).goOn) ∧
      (q.k ∉ [.req, .snp, .mreq, .breq] → exec (.credit e q k) s = .next s)) ∧
    (∀ t : Thr, (∀ e, (s.thr t).mgtOut = some e → exec (.mgtNak t) s = .next (if ((s.core e.dst).inboxFree (inboxSize e.dst)).isNone
        then s.modSb t e.id fun e => { e with nak := some s.tmo } else s)) ∧ ((s.thr t).mgtOut = none → exec (.mgtNak t) s = .next s) ∧
      (∀ pre e post k, (s.thr t).sb = pre ++ e :: post → (∀ x ∈ pre, x.kind ≠ .mgt ∨ x.nak = none) → e.kind = .mgt → e.nak = some k →
        s.past k 16 = true → exec (.mgtResend t) s = .next (s.modSb t e.id fun e => { e with nak := none })) ∧
      ((∀ x ∈ (s.thr t).sb, x.kind ≠ .mgt ∨ x.nak = none) → exec (.mgtResend t) s = .next s)) ∧
    (∀ (r : NodeId) (inp : RtrPort) (fs : List Flit) (h g : BitVec 88), h = flitHdr (fs.headD 0) → fs.length = 1 ∨ fs.length = 2 →
      g = (flitCheck (fs.headD 0)).2 → s.mode ≠ .off → s.mode ≠ .strap →
      (inp = .loc ∨ inp = .att → s.injectPkt r inp g fs = none → exec (.flitReceive r inp fs) s = .next s.goOn) ∧
      (inp = .loc → s.live r = false ∨ hSrc g ≠ r → exec (.flitReceive r inp fs) s = .next s.goOn) ∧
      (∀ u : State, inp = .loc ∨ inp = .att → s.injectPkt r inp g fs = some u →
        exec (.flitReceive r inp fs) s = .next ((u.cntB 0x10A fs.length).checkHdrs r inp fs).goOn) ∧
      (∀ u : State, inp ≠ .loc → inp ≠ .att → s.roomIn r inp (hClass h) (bf h 3 3) fs.length = true → s.linkTake r inp fs = some u →
        exec (.flitReceive r inp fs) s = .next (u.checkHdrs r inp fs).goOn) ∧
      (inp ≠ .loc → inp ≠ .att → s.linkTake r inp fs = none → exec (.flitReceive r inp fs) s = .next s.goOn) ∧
      (∀ (u : State) o hops v, (∀ f ∈ fs, flitCheck f = (Ecc.good, flitHdr f)) → hops = hHops h + b2n (isRing inp) → hops ≤ 6 →
        kindClass (hKind h) = some (hClass h) → o = routeOut r (hSrc h) (hDst h) (bt h 9) → isRing o = true ∨ u.portSinks r o = false →
        v = (if isRing o then nextVc r inp o (bf h 3 3) else bf h 3 3) →
        u.checkHdrs r inp fs = u.setOut r o (u.outAt r o ++ [{
            inp := inp, vc := bf h 3 3, flits := fs.map fun f => flitSeal f (setBf (setBf (flitHdr f) 20 18 hops) 3 3 v), at_ := u.tmo }]))) ∧
    (∀ (q : QueueId) (fs : List Flit) r o, s.mode ≠ .off → r = epRouter q.ep → o = (match q.ep with | .node _ => RtrPort.loc | _ => .att) →
      (∀ (i : Nat) (k : RPkt) (v u : State) x f, s.arbPick r o (s.portOk q.ep) = (some (i, k), v) → arrives k.flits fs = true →
        queueOf q.ep (hClass k.hdr) = some q → u = v.outTook r o i k → x = u.que q → f = qAdd q x.f (1 + fs.length) →
        (s.portSinks r o = false → exec (.packetPublish q fs) s = .next (State.goOn (u.setQue q { x with
          f := f, w := f, slots := smSet (fun _ => 0) (fs.zipIdx.foldl (fun m a => smSet (fun _ => 0) m (qSlot q (x.f + 1 + a.2)) a.1) x.slots)
            (qSlot q x.f) (BitVec.ofNat 640 (fs.length + hKind (flitHdr (fs.headD 0)) * 2 ^ 8)) }))) ∧
        (s.portSinks r o = true → exec (.packetPublish q fs) s = .next (u.absorb r k.hdr).goOn)) ∧
      ((s.arbPick r o (s.portOk q.ep)).1 = none → exec (.packetPublish q fs) s = .next s.goOn)) ∧
    (∀ (q : QueueId) x, s.mode ≠ .off → x = s.que q → queueExists q = true →
      (x.r = x.w → exec (.queueRead q) s = .next (if s.qFlag q then s.underrun q else s).goOn) ∧
      (∀ a len k fs h u lenBad crcBad, x.r ≠ x.w → a = (fun i => (smGet (fun _ => 0) x.slots (qSlot q i) : Flit)) → len = a x.r →
        k = bf len 1 0 → fs = (List.range k).map (fun i => a (x.r + 1 + i)) → h = flitHdr (a (x.r + 1)) →
        u = (s.setQue q { x with r := qAdd q x.r (1 + k) }).creditBack (some q) h → lenBad = (k != bf h 16 16 + 1 || bf len 15 8 != hKind h) →
        crcBad = fs.any (fun f => !flitCrcOk f) →
        (lenBad = false → crcBad = false → exec (.queueRead q) s = .next (u.setQue q { u.que q with last := fs }).goOn) ∧
        (lenBad = true → crcBad = false → exec (.queueRead q) s = .next (u.packetLoss (epRouter q.ep) 4 h).goOn) ∧
        (lenBad = false → crcBad = true → exec (.queueRead q) s = .next (u.packetLoss (epRouter q.ep) 2 h).goOn) ∧
        (lenBad = true → crcBad = true → exec (.queueRead q) s = .next ((u.raise HA_FAB_ERR 4).packetLoss (epRouter q.ep) 2 h).goOn)))

/-- The rows of Tarragon and of the sensors. What activity spends is open (log entry 4); that an update passes its filter at most every
four ticks is the model's choice (log entry 113). -/
def Obligations.PowerCommands : Prop :=
  ∀ (s : State) (src : Src) (q : QuadId),
    (s.MayAccess src (qdA q QD_GATE) true →
      exec (.quadrantGate src q) s = .next ((s.gateGo q).noted src (qdA q QD_GATE) true 0) ∧
      exec (.quadrantUngate src q) s = .next ((s.ungateGo q).noted src (qdA q QD_GATE) true 0)) ∧
    (∀ u, u = s.setFld (qdA q QD_PWR_STAT) 6 3 0 →
      (s.gateRej q = 0 → ∀ v, v = (nodesOf q).foldl (fun s n => s.modNd n fun x => { x with tarQuench := true }) u →
        s.gateGo q = (v.setQd q { v.qd q with pwr := .gating, quadOn := false, since := v.tmo }).degrade) ∧
      (s.ungateRej q = 0 → s.ungateGo q = u.setQd q { s.qd q with pwr := .ungating, since := s.tmo })) ∧
    (s.gateRej q ≠ 0 → s.gateGo q = (s.setFld (qdA q QD_PWR_STAT) 6 3 (s.gateRej q)).raise (qdA q QD_PWR_ERR) 0) ∧
    (s.ungateRej q ≠ 0 → s.ungateGo q = (s.setFld (qdA q QD_PWR_STAT) 6 3 (s.ungateRej q)).raise (qdA q QD_PWR_ERR) 0) ∧
    ((s.qd q).pwr = .gating → exec (.gatingDone q) s = .next (s.quadOffNow q)) ∧
    ((s.qd q).pwr ≠ .gating → exec (.gatingDone q) s = .next s) ∧
    ((s.qd q).pwr = .ungating → exec (.ungatingFillDone q) s = .next (s.quadUp q).goOn ∧
      exec (.ungateTimeout q) s = .next (if s.past (s.qd q).since 100000 then (s.quadOffNow q).raise (qdA q QD_PWR_ERR) 1 else s)) ∧
    ((s.qd q).pwr ≠ .ungating → exec (.ungatingFillDone q) s = .next s ∧ exec (.ungateTimeout q) s = .next s) ∧
    (∀ (fa fb fc fd st : Bool) (t v : Nat) (a b c d : BitVec 10) (x : Quad) (ma mb mc md : Nat) (u y : State), x = s.qd q →
      s.mode ≠ .off → s.qEnabled q = true → y = u.setRaw (HA_SENSE + 4 * q.val) (BitVec.ofNat 32 (t + v * 2 ^ 10 + b2n fa * 2 ^ 20 +
        b2n fb * 2 ^ 21 + b2n fc * 2 ^ 22 + b2n fd * 2 ^ 23 + b2n st * 2 ^ 24)) →
      (∀ z e, z = y.setQd q { y.qd q with sensSeen := true } → e = (fun (s : State) (f g : Bool) =>
        if f && g then s.raise HA_INPUT_ERR 7 else if f || g then s.raise HA_INPUT_ERR 6 else s) →
        (st = false → u = s.setQd q { x with
            tempA := (a.toNat :: x.tempA).take 3, tempB := (b.toNat :: x.tempB).take 3, vmonA := (c.toNat :: x.vmonA).take 3
            vmonB := (d.toNat :: x.vmonB).take 3, sensAt := s.tmo } →
          (u.qd q).readings = [some ma, some mb, some mc, some md] → fa = decide (ma < 96 ∨ 856 < ma) → fb = decide (mb < 96 ∨ 856 < mb) →
          fc = decide (mc < 400 ∨ 1000 < mc) → fd = decide (md < 400 ∨ 1000 < md) →
          t = (if fa && fb then 676 else if fa then mb else if fb then ma else max ma mb) →
          v = (if fc && fd then 650 else if fc then md else if fd then mc else min mc md) →
          s.past x.sensAt 4 = true → exec (.sensorUpdate q a b c d) s = .next ((e (e z fa fb) fc fd).thermal q)) ∧
        (u = s → fa = true → fb = true → fc = true → fd = true → st = true → t = 676 → v = 650 → s.past x.sensAt 10000 = true →
          s.bit (HA_SENSE + 4 * q.val) 24 = false → exec (.sensorStale q) s = .next ((e (e z fa fb) fc fd).thermal q)))) ∧
    (s.mode = .off ∨ s.qEnabled q = false → exec (.sensorStale q) s = .next s) ∧
    (s.mode = .off ∨ s.qEnabled q = false ∨ s.past (s.qd q).sensAt 4 = false →
      ∀ a b c d, exec (.sensorUpdate q a b c d) s = .next s) ∧
    (s.mode ≠ .off → s.qEnabled q = true → 100 ≤ (s.qd q).vlow → exec .vcoreLow s = .next (s.raise HA_PWR_ERR 3)) ∧
    ((∀ r, s.qEnabled r = false ∨ (s.qd r).vlow < 100) → exec .vcoreLow s = .next s) ∧
    (∀ (act : List Nat) win used cap u, s.mode ≠ .off → win = (Config.energyOf act s.readingsUsed :: s.tar.win).take 100 → used = win.sum →
      cap = (if s.mode = .flush then s.fld HA_PWR_CAP 17 9 else s.fld HA_PWR_CAP 8 0) →
      ∃ k ≤ 8, (k < 8 → used + Config.energyMax k ≤ cap * 101) ∧ (∀ j < k, cap * 101 < used + Config.energyMax j) ∧
        (u = State.setFld { s with tar := { s.tar with win := win, k := k } } HA_PWR_STAT 12 4 (min (used / 100) 511) →
          exec (.throttleUpdate act) s = .next (if s.tar.k = 0 ∧ 0 < k then u.raise HA_PWR_ERR 0 else u))) ∧
    (∀ a c, a = s.fld HA_PWR_VREQ 15 8 → c = s.fld HA_PWR_VREQ 7 0 →
      (s.mode ≠ .off → a ≠ c → (∀ t, s.tar.lastStep = some t → s.past t 2000 = true) → ∀ u, u = s.setFld HA_PWR_VREQ 15 8
        (if a < c then min (a + 25) c else max (a - 25) c) → exec .voltageStep s = .next { u with tar := { s.tar with lastStep := some s.tmo } }) ∧
      (s.mode = .off ∨ a = c ∨ (∃ t, s.tar.lastStep = some t ∧ s.past t 2000 = false) → exec .voltageStep s = .next s))

/-- The rows of conservative tracking, the overflow directory, the scrubbers, HA_XLT_CMD and the DMA channels. -/
def Obligations.TrackingTranslationAndDma : Prop :=
  ∀ (s : State) (src : Src) (n : NodeId) (c : ChanId),
    (∀ (w : BitVec 32) (old m : Nat) (u e : State), s.MayAccess src HA_OVF_CTRL true → old = s.fld HA_OVF_CTRL 5 1 → m = bf w 5 1 →
      22 ≤ m → m ≤ 28 → u = s.setFld HA_OVF_CTRL 5 1 m → e = u.accErr 2 HA_OVF_CTRL true (srcPriv src) →
      (s.bit HA_OVF_CTRL 0 = false → bt w 0 = true → exec (.ovfCtrlWrite src w) s =
        .next ((if u.ovfOk m then u.setFld HA_OVF_CTRL 0 0 1 else e).noted src HA_OVF_CTRL true 0)) ∧
      (s.bit HA_OVF_CTRL 0 = false → bt w 0 = false → exec (.ovfCtrlWrite src w) s = .next (u.noted src HA_OVF_CTRL true 0)) ∧
      (s.bit HA_OVF_CTRL 0 = true → m = old → bt w 0 = true → exec (.ovfCtrlWrite src w) s = .next (s.noted src HA_OVF_CTRL true 0)) ∧
      (s.bit HA_OVF_CTRL 0 = true → m = old → bt w 0 = false → s.fld HA_OVF_COUNT 31 0 = 0 →
        exec (.ovfCtrlWrite src w) s = .next ((s.setFld HA_OVF_CTRL 0 0 0).noted src HA_OVF_CTRL true 0)) ∧
      (s.bit HA_OVF_CTRL 0 = true → (m ≠ old ∧ bt w 0 = true) ∨ (m = old ∧ bt w 0 = false ∧ s.fld HA_OVF_COUNT 31 0 ≠ 0) →
        exec (.ovfCtrlWrite src w) s = .next ((s.accErr 2 HA_OVF_CTRL true (srcPriv src)).noted src HA_OVF_CTRL true 0))) ∧
    (s.MayAccess src (ndA n ND_SF_CTRL) true → exec (.rmapRebuild src n) s = .next (State.noted (if (s.nd n).rebuild then s
      else s.modNd n fun x => { x with rmap := [], rmapFill := 0, rmapSyn := [], rebuild := true }) src (ndA n ND_SF_CTRL) true 0)) ∧
    ((s.nd n).rebuild = false → exec (.rmapRebuildDone n) s = .next s.goOn) ∧
    ((s.nd n).rebuild = true → ∀ r, r = (s.ovfSetsOf n).foldl (fun (a : Bool × State) set => if a.1 then a.2.rebuildSet n set else a) (true, s) →
      exec (.rmapRebuildDone n) s = .next (State.goOn (if r.1 then (r.2.ovfRest n).2.modNd n fun x => { x with rebuild := false } else r.2))) ∧
    (∀ set u r, s.bmIn (s.ovfLine set) = true → u = s.bmFree.2.bmErrs s.bmFree.1 → r = u.ovfCheck n set (memLine s.bmem (s.ovfLine set)) false →
      s.rebuildSet n set = if bmGood s.bmFree.1 then
        (!r.1, (r.2.1.filter fun e => entValid e.2).foldl (fun s e => s.regionSet n (s.ovfSector set (bf e.2 19 0))) r.2.2)
        else (true, u.ovfLost n set)) ∧
    (s.MayAccess src HA_SF_CONS true → exec (.sfConsEnd src) s = .next ((s.consEnd.goOn).noted src HA_SF_CONS true 0)) ∧
    (∀ m, (s.consEnd.nd m).cons = false ∧ { s.consEnd.nd m with cons := (s.nd m).cons } = s.nd m) ∧
    (∀ set u v, s.live n = true → s.bit (ndA n ND_SF_CTRL) 0 = true → (s.nd n).repairs = [] → set = s.fld (ndA n ND_SF_SCRUB) 12 0 →
      u = s.scrubSet n set → v = u.setFld (ndA n ND_SF_SCRUB) 12 0 (set + 1) →
      ((u.nd n).repairs = [] → set ≠ 8191 → exec (.sfScrubTick n) s = .next v.goOn) ∧
      ((u.nd n).repairs = [] → set = 8191 → exec (.sfScrubTick n) s =
        .next (v.setFld (ndA n ND_SF_SCRUB) 31 16 (v.fld (ndA n ND_SF_SCRUB) 31 16 + 1)).goOn) ∧
      ((u.nd n).repairs ≠ [] → exec (.sfScrubTick n) s = .next u.goOn)) ∧
    (s.live n = false ∨ s.bit (ndA n ND_SF_CTRL) 0 = false ∨ (s.nd n).repairs ≠ [] → exec (.sfScrubTick n) s = .next s.goOn) ∧
    (s.mode ≠ .off →
      (∀ on, on = (s.live n && s.bit (ndA n ND_SCRUB_CTRL) 0) →
        exec (.scrubTick (.prog n)) s = .next (State.goOn (if on then s.scrubProg n else s)) ∧
        exec (.scrubTick (.scratch n)) s = .next (State.goOn (if on then s.scrubScr n else s)) ∧
        exec (.scrubTick (.trk n)) s = .next (State.goOn (if on then s.scrubTrk n else s)) ∧
        exec (.scrubTick (.rmap n)) s = .next (State.goOn (if on then s.scrubRmap n else s))) ∧
      (∀ p, exec (.scrubTick (.ledger p)) s = .next (State.goOn (if s.bit HA_SCRUB_CTRL 0 then s.scrubLed p else s))) ∧
      exec (.scrubTick .chvProg) s = .next (State.goOn (if s.bit HA_SCRUB_CTRL 1 then s.scrubChvProg else s)) ∧
      exec (.scrubTick .chvData) s = .next (State.goOn (if s.bit HA_SCRUB_CTRL 1 then s.scrubChvData else s)) ∧
      exec (.scrubTick .surv) s = .next s.scrubSurv.goOn ∧ exec (.scrubTick .rom) s = .next s.scrubRom.goOn) ∧
    (s.MayAccess src HA_XLT_CMD true → ∀ (i : BitVec 6) (p : BitVec 2) (wy : BitVec 5) k o, (k, o) ∈ [
        (Instr.xltPreload src i p, 1 + i.toNat * 2 ^ 4 + p.toNat * 2 ^ 10), (.xltPreloadLock src i p, 2 + i.toNat * 2 ^ 4 + p.toNat * 2 ^ 10),
        (.xltUnlock src i wy, 3 + i.toNat * 2 ^ 4 + wy.toNat * 2 ^ 12), (.xltInvCtx src, 4), (.xltInvPext src, 5), (.xltInvAll src, 6)] →
      (s.xltCmd = none → exec k s = .next (State.noted { s with xltCmd := some (BitVec.ofNat 32 o) } src HA_XLT_CMD true 0)) ∧
      (s.xltCmd.isSome = true → exec k s = .next ((s.accErr 1 HA_XLT_CMD true (srcPriv src)).noted src HA_XLT_CMD true 0))) ∧
    (∀ err, (s.xltCmd = none → exec (.xltCmdDone err) s = .next s) ∧
      (∀ k, s.xltCmd = some k → (bf k 3 0 = 1 ∨ bf k 3 0 = 2 → exec (.xltCmdDone err) s = .next (s.xltPre k err)) ∧
        (bf k 3 0 = 3 → bf k 9 4 < 56 → exec (.xltCmdDone err) s = .next ((s.setMac (bf k 9 4) { s.mac (bf k 9 4) with
          lock := smSet (fun _ => none) (s.mac (bf k 9 4)).lock (bf k 16 12) none }).xltEnd 0)) ∧
        (bf k 3 0 = 3 → 56 ≤ bf k 9 4 → exec (.xltCmdDone err) s = .next (s.xltEnd 1)) ∧
        (∀ ctx lo hi, bf k 3 0 = 4 → ctx = bf (s.raw HA_XLT_ARG0) 15 0 → lo = bf (s.raw HA_XLT_ARG0) 31 16 → hi = s.fld HA_XLT_ARG1 19 0 →
          exec (.xltCmdDone err) s = .next ((((List.range 24).foldl (fun s i => s.xltInv i fun e =>
            e.k1.toNat == ctx && decide (lo ≤ e.k2.toNat) && decide (e.k2.toNat ≤ hi)) s).qecInv fun e =>
            e.ctx.toNat == ctx && decide (lo ≤ e.cidx.toNat) && decide (e.cidx.toNat ≤ hi)).xltEnd 0)) ∧
        (∀ f : Nat → Bool, bf k 3 0 = 5 → (f = fun x => decide (bf (s.raw HA_XLT_ARG0) 19 0 ≤ x) && decide (x ≤ s.fld HA_XLT_ARG1 19 0)) →
          (s.plcUsing f = true → exec (.xltCmdDone err) s = .next s) ∧
          (s.plcUsing f = false → exec (.xltCmdDone err) s = .next ((s.plcInv f).xltEnd 0))) ∧
        (bf k 3 0 = 6 → (s.plcUsing (fun _ => true) = true → exec (.xltCmdDone err) s = .next s) ∧
          (s.plcUsing (fun _ => true) = false → exec (.xltCmdDone err) s = .next
            (((((List.range 24).foldl (fun s i => s.xltInv i fun _ => true) s).plcInv fun _ => true).qecInv fun _ => true).xltEnd 0))))) ∧
    (s.MayAccess src (chA c 1) true → ∀ x, x = s.ch c →
      (∀ err, (x.st ∈ [.idle, .halted, .done] → exec (.channelGo src c err) s = .next ((((s.setCh c { x with
          desc := BitVec.ofNat 29 (s.fld (chA c 0) 28 0) }).dmaBegin c err).goOn).noted src (chA c 1) true 0)) ∧
        (x.st ∈ [.run, .preempted] → exec (.channelGo src c err) s = .next (s.goOn.noted src (chA c 1) true 0))) ∧
      (x.st = .halted → (x.cause ∈ [1, 2, 8] → exec (.channelResume src c) s =
          .next (((s.bmFree.2.dmaBegin c s.bmFree.1).goOn).noted src (chA c 1) true 0)) ∧
        (∀ v, x.cause ∉ [1, 2, 8] → v = s.setCh c { x with st := .run, cause := 0, nextUnit := x.prog, doneL := [] } →
          (x.op = 1 → x.ph = .none → exec (.channelResume src c) s = .next (((v.migBegin c x.prog).goOn).noted src (chA c 1) true 0)) ∧
          (x.op ≠ 1 ∨ x.ph ≠ .none → exec (.channelResume src c) s = .next (v.goOn.noted src (chA c 1) true 0)))) ∧
      (x.st ≠ .halted → exec (.channelResume src c) s = .next (s.goOn.noted src (chA c 1) true 0)) ∧
      (x.st = .run → exec (.channelStop src c) s = .next (State.noted (State.goOn (s.setCh c { x with stop := true })) src (chA c 1) true 0)) ∧
      (x.st = .preempted → exec (.channelStop src c) s = .next (((s.dmaHalt c 10).goOn).noted src (chA c 1) true 0)) ∧
      (x.st ∈ [.idle, .halted, .done] → exec (.channelStop src c) s = .next (s.goOn.noted src (chA c 1) true 0))) ∧
    (∀ msg : Line, bf msg 7 0 ≠ 0xD0 → exec (.dmaReport msg) s = .next s.goOn) ∧
    (∀ (msg : Line) pre o post, bf msg 7 0 = 0xD0 → bf msg 11 8 = c.val → (s.ch c).out = pre ++ o :: post →
      (∀ q ∈ pre, q.1 % 65536 ≠ bf msg 31 16) → o.1 % 65536 = bf msg 31 16 → exec (.dmaReport msg) s = .next (s.dmaResult c o.1 (bf msg 35 32)).goOn) ∧
    (∀ (u : BitVec 32) pre o post, (s.ch c).out = pre ++ o :: post → (∀ q ∈ pre, q.1 ≠ u.toNat) → o.1 = u.toNat →
      exec (.itemTmo c u) s = .next (State.goOn (if s.past o.2 1000000 then s.dmaFault c u.toNat 9 else s))) ∧
    (∀ (u : BitVec 32), (∀ q ∈ (s.ch c).out, q.1 ≠ u.toNat) → exec (.itemTmo c u) s = .next s.goOn) ∧
    (∀ (u : BitVec 32) pre o post v, (s.ch c).busy = pre ++ o :: post → (∀ q ∈ pre, q.1 ≠ u.toNat) → o.1 = u.toNat →
      v = s.setCh c { s.ch c with busy := (s.ch c).busy.filter fun o => o.1 != u.toNat } →
      exec (.busyReissue c u) s = .next (State.goOn (if s.past o.2 1024 then (v.dmaIssue c u.toNat).getD s else s))) ∧
    (∀ (u : BitVec 32), (∀ q ∈ (s.ch c).busy, q.1 ≠ u.toNat) → exec (.busyReissue c u) s = .next s.goOn)

/-- The mailbox up to each command's own rules (R482 to R485); the order of UNKNOWN, PRIV and ARG is the model's reading (log entry 66). -/
def Obligations.MailboxCommandsAreServed : Prop :=
  ∀ (s : State) (src : Src) (err : BmErr),
    (s.MayAccess src HA_MB_DOORBELL true →
      (s.bit HA_MB_STAT 0 = false → exec (.doorbell src) s = .next (((((s.setFld HA_MB_STAT 0 0 1).setFld HA_MB_STAT 1 1 0).setFld HA_MB_STAT 2 2
        (b2n (srcPriv src))).chvEvent 0x50 (b2n (srcPriv src))).noted src HA_MB_DOORBELL true 0)) ∧
      (s.bit HA_MB_STAT 0 = true → exec (.doorbell src) s = .next ((s.accErr 1 HA_MB_DOORBELL true (srcPriv src)).noted src HA_MB_DOORBELL true 0))) ∧
    (s.MayAccess src HA_MB_COMPLETE true →
      (s.bit HA_MB_STAT 0 = true → ∀ u, u = (((s.setFld HA_MB_STAT 15 8 (s.fld (HA_MB_RSP + 8) 7 0)).setFld HA_MB_STAT 3 3
          (b2n (src matches .bootRom))).setFld HA_MB_STAT 0 0 0).setFld HA_MB_STAT 1 1 1 →
        exec (.mbComplete src) s = .next (State.noted { u with mbStage := 0 } src HA_MB_COMPLETE true 0)) ∧
      (s.bit HA_MB_STAT 0 = false →
        exec (.mbComplete src) s = .next ((s.accErr 1 HA_MB_COMPLETE true (srcPriv src)).noted src HA_MB_COMPLETE true 0))) ∧
    (∀ (t : State) (st : Nat) (p : List Byte) (rom : Bool) (u : State), u = t.mbReply st p rom → st < 256 → p.length ≤ 4080 →
      u.bit HA_MB_STAT 0 = false ∧ u.bit HA_MB_STAT 1 = true ∧ u.bit HA_MB_STAT 3 = rom ∧ u.fld HA_MB_STAT 15 8 = st ∧
      u.raw HA_MB_RSP = BitVec.ofNat 32 (bf (t.raw HA_MB_REQ) 15 0 + p.length * 65536) ∧ u.raw (HA_MB_RSP + 4) = t.raw (HA_MB_REQ + 4) ∧
      u.raw (HA_MB_RSP + 8) = BitVec.ofNat 32 st ∧ u.mbStage = 0 ∧ (t.bit HA_MB_CTRL 0 = true → u.cfgIrq = true)) ∧
    (∀ (c : Instr) (code len : Nat) (sup rom : Bool) (body : Bool → State → State) (fin : State → State),
      (∃ on, fin = (if on then State.goOn else id) ∧ (c, code, sup, rom, len, on) ∈ [(Instr.getVersion, 0x0001, false, true, 0, false),
        (.getMeasurements, 0x0002, false, true, 0, false), (.getStatus, 0x0003, false, true, 0, false), (.mbFullReset, 0x0010, true, true, 0, false),
        (.mbShutdown, 0x0011, true, false, 2, true), (.ctxSet err, 0x0020, true, false, 3, false), (.mapRun err, 0x0021, true, false, 12, false),
        (.unmapRun err, 0x0022, true, false, 12, true), (.migStart err, 0x0030, true, false, 8, true), (.migStatus err, 0x0031, false, false, 1, false),
        (.migResume err, 0x0032, true, false, 1, true), (.migStop, 0x0033, true, false, 1, true), (.setPower, 0x0040, true, false, 3, false),
        (.mbGate, 0x0041, true, false, 2, true), (.pmcRead, 0x0050, true, false, 0, false)]) →
      (code, body) ∈ [(0x0001, fun r t => t.mbReply 0 ([1, 0, 0xA0, BitVec.ofNat 8 t.lc] ++ t.regBytes HA_SAGE_VER ++ t.regBytes HA_IMG_HVER ++
          t.regBytes HA_IMG_SVER ++ wordBytes (if r then 0 else t.fwVer) 4 ++ t.regBytes HA_STRAP) r),
        (0x0002, fun r t => t.mbReply 0 t.measBytes r), (0x0003, fun r t => t.mbReply 0 (t.regBytes HA_MODE ++ t.regBytes HA_ERR_SUM ++
          t.regBytes HA_SESS_SUM ++ t.regBytes HA_RST_STAT ++ wordBytes (BitVec.ofNat 64 t.chStates) 8) r),
        (0x0010, fun r t => ((t.mbReply 0 [] r).fullReq 1).goOn), (0x0011, fun _ t => t.shutdown), (0x0020, fun _ t => t.mbCtxSet err),
        (0x0021, fun _ t => t.mbMap err), (0x0022, fun _ t => t.mbUnmap err), (0x0030, fun _ t => t.mbMigStart err),
        (0x0032, fun _ t => t.mbMigResume err), (0x0033, fun _ t => t.mbMigStop), (0x0041, fun _ t => t.mbGate),
        (0x0050, fun r t => t.mbReply 0 (allPmc.flatMap fun i => wordBytes (BitVec.ofNat 64
          ((smGet (fun _ => ({} : Pmc)) t.pmc (pmcIx i)).snap.toNat + b2n (t.pmcOvf i) * 2 ^ 63)) 8) r)] ∨ code = 0x0031 ∨ code = 0x0040 →
      (s.mbServer = none ∨ s.bit HA_MB_STAT 0 = false → exec c s = .next (fin s)) ∧
      (∀ r (t : State), s.mbServer = some r → s.bit HA_MB_STAT 0 = true → t = { s with chv := { s.chv with events := s.chv.events.filter fun e => e.evt != 0x50 } } →
        (s.mbNum 0 2 ∉ [0x0001, 0x0002, 0x0003, 0x0010, 0x0011, 0x0020, 0x0021, 0x0022, 0x0030, 0x0031, 0x0032, 0x0033, 0x0040, 0x0041, 0x0050] →
          exec c s = .next (fin (t.mbReply 1 [] r))) ∧
        (s.mbNum 0 2 = code →
          (r = true → rom = false → exec c s = .next (fin (t.mbReply 1 [] r))) ∧
          (r = false ∨ rom = true →
            (sup = true → s.bit HA_MB_STAT 2 = false → exec c s = .next (fin (t.mbReply 2 [] r))) ∧
            (sup = false ∨ s.bit HA_MB_STAT 2 = true →
              (s.mbNum 2 2 ≠ len ∨ s.mbNum 8 8 ≠ 0 → exec c s = .next (fin (t.mbReply 3 [] r))) ∧
              (s.mbNum 2 2 = len → s.mbNum 8 8 = 0 → code ≠ 0x0031 → code ≠ 0x0040 → exec c s = .next (fin (body r t)))))))) ∧
    (s.mode ∈ [.off, .strap, .fill, .hold] → s.mbServer = none) ∧ (s.mode = .boot → s.mbServer = some true) ∧
    (s.mode ∈ [.standby, .service, .degraded, .flush, .evacuate, .selftest] → s.fwRuns = true → s.mbServer = some false)

/-- The commands' own rules on a request that passed the checks of the mailbox (R488 to R493). -/
def Obligations.MailboxCommandsAct : Prop :=
  ∀ (s t : State) (err : BmErr), s.mbServer = some false → s.bit HA_MB_STAT 0 = true → s.bit HA_MB_STAT 2 = true → s.mbNum 8 8 = 0 →
    t = { s with chv := { s.chv with events := s.chv.events.filter fun e => e.evt != 0x50 } } →
    (s.mbNum 0 2 = 0x0040 → s.mbNum 2 2 = 3 → ∀ l c, l = s.mbNum 16 2 → c = s.mbNum 18 1 →
      (40 ≤ l → l ≤ 192 → c ≤ 200 → exec .setPower s = .next (((t.setFld HA_PWR_CAP 8 0 l).setFld HA_PWR_VREQ 7 0 c).mbReply 0 [] false)) ∧
      (l < 40 ∨ 192 < l ∨ 200 < c → exec .setPower s = .next (t.mbReply 3 [] false))) ∧
    (∀ c : BitVec 16, s.mbNum 16 2 = c.toNat → ∀ u, u = t.bmErrs err →
      (s.mbNum 0 2 = 0x0020 → s.mbNum 2 2 = 3 → ∀ b, b = s.mbNum 18 1 →
        (128 ≤ b → exec (.ctxSet err) s = .next (t.mbReply 3 [] false)) ∧
        (b < 128 → s.mode ∉ [.standby, .service, .degraded, .evacuate] → exec (.ctxSet err) s = .next (t.mbReply 4 [] false)) ∧
        (b < 128 → s.mode ∈ [.standby, .service, .degraded, .evacuate] → t.ctxIn c = true →
          (err ≠ .ok → err ≠ .corrected → exec (.ctxSet err) s = .next (u.mbReply 8 [] false)) ∧
          (err = .ok ∨ err = .corrected →
            (b % 2 = 0 → (u.sess.any fun e => e.2.ctx == c && e.2.st != .closed) = true ∨ u.ctxRuns c ≠ [] →
              exec (.ctxSet err) s = .next (u.mbReply 5 [] false)) ∧
            (b % 2 = 1 ∨ ((u.sess.any fun e => e.2.ctx == c && e.2.st != .closed) = false ∧ u.ctxRuns c = []) →
              exec (.ctxSet err) s = .next ((u.ctxPut c (b + (if bt (t.ctxWord c 0) 0 then bf (t.ctxWord c 0) 24 8 * 2 ^ 8 else 0))).mbReply 0 [] false))))) ∧
      (∀ r rs : _, s.mbNum 0 2 = 0x0021 → s.mbNum 2 2 = 12 → r = (⟨s.mbNum 18 2, s.mbNum 20 4, s.mbNum 24 4⟩ : Run) → rs = u.ctxRuns c →
        (r.ok = false → exec (.mapRun err) s = .next (t.mbReply 3 [] false)) ∧
        (r.ok = true → s.mode ∈ [.standby, .service, .degraded, .evacuate] → t.ctxIn c = true → err = .ok ∨ err = .corrected →
          (bt (u.ctxWord c 0) 0 = false → exec (.mapRun err) s = .next (u.mbReply 5 [] false)) ∧
          (bt (u.ctxWord c 0) 0 = true → r ∈ rs → exec (.mapRun err) s = .next (u.mbReply 0 [] false)) ∧
          (bt (u.ctxWord c 0) 0 = true → r ∉ rs → (∃ o ∈ rs, r.overlaps o = true) → exec (.mapRun err) s = .next (u.mbReply 5 [] false)) ∧
          (bt (u.ctxWord c 0) 0 = true → r ∉ rs → (∀ o ∈ rs, r.overlaps o = false) → rs.length < 65536 →
            exec (.mapRun err) s = .next ((u.runsPut c (runIns r rs)).mbReply 0 [] false)))) ∧
      (∀ (r : Run) (k : ChanId), s.mbNum 0 2 = 0x0022 → s.mbNum 2 2 = 12 → r = (⟨s.mbNum 18 2, s.mbNum 20 4, s.mbNum 24 4⟩ : Run) →
        s.mode ∈ [.standby, .service, .degraded, .evacuate] → r.ok = true → t.ctxIn c = true → r ∈ t.ctxRuns c →
        (s.mbStage = 0 → t.freeCh = none → exec (.unmapRun err) s = .next (t.mbReply 6 [] false).goOn) ∧
        (s.mbStage = 0 → t.freeCh = some k →
          exec (.unmapRun err) s = .next (State.goOn { t.recallGo k c.toNat r true 0 with mbStage := 1 + 4 * k.val })) ∧
        (s.mbStage = 1 + 4 * k.val → (t.ch k).st = .done → r.count ≤ 8192 → t.xltCmd = none →
          exec (.unmapRun err) s = .next (State.goOn { (t.unmapMid c r).recallGo k c.toNat r false 0 with mbStage := 2 + 4 * k.val })) ∧
        (s.mbStage = 2 + 4 * k.val → (t.ch k).st = .done → r.count ≤ 8192 →
          exec (.unmapRun err) s = .next ((u.mbReply (if err = .ok ∨ err = .corrected then 0 else 8) [] false).goOn)))) ∧
    (∀ (c : ChanId) u, u = t.bmErrs err → s.mbNum 16 1 = c.val → s.mbNum 2 2 = 1 → s.mode = .service ∨ s.mode = .degraded →
      (s.mbNum 0 2 = 0x0031 → t.bmIn (t.fld (chA c 0) 28 0) = true → err = .ok ∨ err = .corrected → exec (.migStatus err) s =
        .next (u.mbReply 0 (u.regBytes (chA c 2) ++ u.regBytes (chA c 3) ++
          wordBytes (BitVec.ofNat 32 (memRead u.bmem (64 * t.fld (chA c 0) 28 0 + 56) 4)) 4) false)) ∧
      (s.mbNum 0 2 = 0x0032 →
        ((t.ch c).st = .halted → exec (.migResume err) s = .next ((t.chanResume c).mbReply 0 [] false).goOn) ∧
        ((t.ch c).st ∈ [.run, .preempted] → exec (.migResume err) s = .next (t.mbReply 0 [] false).goOn) ∧
        ((t.ch c).st = .done → exec (.migResume err) s = .next (t.mbReply 5 [] false).goOn) ∧
        (∀ k, (t.ch c).st = .idle → t.migLeft c = some k → err = .ok ∨ err = .corrected →
          exec (.migResume err) s = .next ((u.migAgain c k).mbReply 0 [] false).goOn)) ∧
      (s.mbNum 0 2 = 0x0033 →
        ((t.ch c).st ∈ [.run, .preempted] → exec .migStop s = .next ((t.chanStop c).mbReply 0 [] false).goOn) ∧
        ((t.ch c).st = .halted → exec .migStop s = .next ((t.mbReply (if (t.ch c).cause = 10 then 0 else 5) [] false).goOn)) ∧
        ((t.ch c).st = .idle → exec .migStop s = .next ((t.mbReply (if (t.migLeft c).isSome then 0 else 5) [] false).goOn)) ∧
        ((t.ch c).st = .done → exec .migStop s = .next (t.mbReply 5 [] false).goOn))) ∧
    (∀ ext dst u, s.mbNum 0 2 = 0x0030 → s.mbNum 2 2 = 8 → ext = s.mbNum 16 4 → dst = s.mbNum 20 4 → u = t.bmErrs err →
      (1048576 ≤ ext ∨ 1048576 ≤ dst → exec (.migStart err) s = .next (t.mbReply 3 [] false).goOn) ∧
      (ext < 1048576 → dst < 1048576 → s.mode ≠ .service → s.mode ≠ .degraded → exec (.migStart err) s = .next (t.mbReply 4 [] false).goOn) ∧
      (ext < 1048576 → dst < 1048576 → s.mode = .service ∨ s.mode = .degraded → t.bmIn (t.plcLine ext) = true → err = .ok ∨ err = .corrected →
        ¬(bt (u.plcEnt ext) 0 = true ∧ bt (u.plcEnt ext) 1 = true ∧ bf (u.plcEnt ext) 41 22 = dst) →
        (u.freeCh = none → exec (.migStart err) s = .next (u.mbReply 6 [] false).goOn) ∧
        (∀ c v, u.freeCh = some c → v = u.descGo c 1 (ext + dst * 2 ^ 20) 0 0 1048576 → exec (.migStart err) s = .next (State.goOn
          (if (v.ch c).st = .halted then v.mbReply (if (v.ch c).cause = 8 then 5 else 8) [] false
           else v.mbReply 0 [BitVec.ofNat 8 c.val] false))))) ∧
    (∀ q : QuadId, s.mbNum 0 2 = 0x0041 → s.mbNum 2 2 = 2 → s.mbNum 16 1 = q.val → s.mode = .service ∨ s.mode = .degraded →
      (s.mbStage = 0 → s.mbNum 17 1 = 0 → (t.qd q).pwr = .on → t.qEnabled q = true →
        exec .mbGate s = .next (State.goOn { (t.quenchQuad q 1).quenchQuad (buddy q) 1 with mbStage := 1 })) ∧
      (s.mbStage = 0 → s.mbNum 17 1 = 0 → (t.qd q).pwr ≠ .on → exec .mbGate s = .next ((t.gateGo q).gateSay q 5).goOn) ∧
      (s.mbStage = 0 → s.mbNum 17 1 = 1 → t.ungateRej q = 0 → exec .mbGate s = .next (State.goOn { t.ungateGo q with mbStage := 4 })) ∧
      (s.mbStage = 3 → (t.qd q).pwr = .off → exec .mbGate s = .next (t.gateSay q 0).goOn)) ∧
    (s.mbNum 0 2 = 0x0011 → s.mbNum 2 2 = 2 →
      (s.mbStage = 0 → s.mbNum 16 1 ≤ 3 → s.mbNum 17 1 ≤ 15 → s.mode ∈ [.standby, .service, .degraded] →
        exec .mbShutdown s = .next (State.goOn { t.setMode .evacuate with mbStage := 1 })) ∧
      (s.mbStage = 0 → 3 < s.mbNum 16 1 ∨ 15 < s.mbNum 17 1 → exec .mbShutdown s = .next (t.mbReply 3 [] false).goOn) ∧
      (s.mbStage = 1 → s.mode = .evacuate → t.held ≠ 0 → exec .mbShutdown s = .next t.evacGo.goOn) ∧
      (s.mbStage = 1 → s.mode = .evacuate → t.held = 0 → t.shutTest.mode = .selftest →
        exec .mbShutdown s = .next (State.goOn { t.shutTest with mbStage := 2 })) ∧
      (s.mbStage = 2 → s.mode = .standby → t.fld HA_ST_STAT 2 0 = 5 → exec .mbShutdown s = .next t.shutCommit.goOn))

/-- R24: `mp := active_mp_map[maddr[10:8]]`, the same for every line of a sector. -/
def Obligations.MediaPortOfALine : Prop :=
  ∀ (s : State) (a b : BitVec 46),
    s.mpOf a = smGet (fun i => Fin.ofNat 8 i) s.mpMap (a.toNat / 2 ^ 8 % 2 ^ 3) ∧
    (a.toNat / 256 = b.toNat / 256 → s.mpOf a = s.mpOf b)

/-- The router where a packet from `src` to `dst` is after `k` hops. -/
def hopAfter (src dst : NodeId) (att : Bool) : Nat → NodeId
  | 0 => src
  | k + 1 => linkTo (hopAfter src dst att k) (routeOut (hopAfter src dst att k) src dst att)

/-- R347, with the coordinates x = r mod 8 and y = r / 8 of router r. -/
def Obligations.RouteOfAPacket : Prop :=
  ∀ (src dst : NodeId) (att : Bool) (dx dy hx hy : Nat) (tie : Bool), dx = (dst.val % 8 + 8 - src.val % 8) % 8 →
    dy = (dst.val / 8 + 4 - src.val / 8) % 4 → tie = decide ((src.val % 8 + src.val / 8) % 2 = 0) → hx = min dx (8 - dx) →
    hy = min dy (4 - dy) →
    hopsOf src dst = hx + hy ∧ hx + hy ≤ 6 ∧
    (∀ k < hx, routeOut (hopAfter src dst att k) src dst att = if dx < 4 ∨ dx = 4 ∧ tie = true then .xp else .xm) ∧
    (∀ k < hx + hy, hx ≤ k → routeOut (hopAfter src dst att k) src dst att = if dy < 2 ∨ dy = 2 ∧ tie = true then .yp else .ym) ∧
    hopAfter src dst att (hx + hy) = dst ∧ routeOut dst src dst att = if att then .att else .loc

/-- R138 and R139 are inverse to each other. -/
def Obligations.BankEntryNamesOneSector : Prop :=
  ∀ (s : State) (n : NodeId),
    (∀ (x : Nat) (p : BankPos) (w : Nat), x < 2 ^ 38 → s.bankPos n x = some p → w ∈ p.ways →
      p.set < 8192 ∧ w < 16 ∧ p.tag = x / 2 ^ 18 ∧ s.sectorOf n p.set w p.tag = x) ∧
    (∀ (set w tag : Nat), set < 8192 → w < 16 → tag < 2 ^ 20 →
      4 * (w / (16 / groupCount (s.slotsOf n).length)) + set / 2048 < (s.slotsOf n).length →
      s.sectorOf n set w tag < 2 ^ 38 ∧ s.slotNode (homeSlot (s.sectorOf n set w tag)) = n ∧
      ∃ p, s.bankPos n (s.sectorOf n set w tag) = some p ∧ p.set = set ∧ w ∈ p.ways ∧ p.tag = tag) ∧
    (∀ x, s.slotNode (homeSlot x) ≠ n → s.bankPos n x = none) ∧
    (∀ x, 64 ≤ (s.slotsOf n).idxOf (homeSlot x) → s.bankPos n x = none)

/-- The model's own invariant: the sparse parts of the state are canonical, so that equal machines are equal data. Only a cold
reset or a tick sets the clock, and every command is taken once. -/
def Obligations.CanonicalFormIsKept : Prop :=
  ∀ (s t : State), step s = .next t →
    (s.Canon → t.Canon) ∧
    (s.pending = [] → t.pending = []) ∧
    (∀ c cs, s.pending = c :: cs → t.pending = cs ∧
      (c ≠ .coldResetAssert → c ≠ .coldResetRelease → t.time = s.time ∧ t.tmo = s.tmo ∧ s.free ≤ t.free))

/-- The whole-machine rule of R429, over every command and over the tick. -/
def Obligations.OnlyColdResetLeavesFlush : Prop :=
  ∀ s : State, s.mode = .flush →
    ((∀ cs, s.pending ≠ .coldResetAssert :: cs) → ∃ t, step s = .next t ∧ t.mode = .flush) ∧
    (∀ cs, s.pending = .coldResetAssert :: cs → ∃ t, step s = .next t ∧ t.mode = .off ∧ t.pending = cs)
end

