-- ==== Sys2Proof/Laws/Access.lean ====
section
/-! SUPPORT. Sys2Proof/Laws/Access.lean: what a command that is a register access does when the access is carried out. -/

namespace Sys2Proof.Machine

/-- An access that is carried out has its effect, and the register port keeps the answer. -/
theorem State.regAcc_of {s : State} {src : Src} {a : Nat} {wr : Bool} (h : s.MayAccess src a wr) (f : State → BitVec 32 × State) :
    s.regAcc src a wr f = (f s).2.noted src a wr (match src with | .port _ => (f s).1 | _ => 0) := by
  obtain ⟨h1, h2, h3⟩ := h
  cases src with
  | tarragon =>
    simp at h2
    simp [State.regAcc, State.regAccIf, h1, State.noted, h2]
  | port p =>
    have h3 := h3 p rfl
    simp at h2
    simp [State.regAcc, State.regAccIf, h1, State.noted, h2, Nat.not_le.mpr h3]
  | _ => simp at h2; simp [State.regAcc, State.regAccIf, h1, State.noted, h2]

/-- A write that is carried out. -/
theorem State.regDo_of {s : State} {src : Src} {a : Nat} {wr : Bool} (h : s.MayAccess src a wr) (f : State → State) :
    s.regDo src a wr f = (f s).noted src a wr 0 := by
  unfold State.regDo
  rw [State.regAcc_of h]
  cases src <;> rfl

end Sys2Proof.Machine
end

