-- ==== Sys2Proof/Laws/Maps.lean ====
section
/-! SUPPORT. Sys2Proof/Laws/Maps.lean: what reading and writing sparse maps and memories do, and that every operation keeps
the canonical form. -/

namespace Sys2Proof.Machine

variable {α : Type}

theorem smGet_smDrop_self (d : Nat → α) (m : SMap α) (k : Nat) : smGet d (smDrop m k) k = d k := by
  induction m with
  | nil => rfl
  | cons e m ih =>
    obtain ⟨a, x⟩ := e
    by_cases h : a = k
    · subst h; simpa [smDrop] using ih
    · have : k ≠ a := fun e => h e.symm
      simp [smDrop, h, smGet, this] at ih ⊢
      exact ih

theorem smGet_smDrop_ne (d : Nat → α) (m : SMap α) {k j : Nat} (h : j ≠ k) : smGet d (smDrop m k) j = smGet d m j := by
  induction m with
  | nil => rfl
  | cons e m ih =>
    obtain ⟨a, x⟩ := e
    by_cases ha : a = k
    · subst ha
      have : smGet d ((a, x) :: m) j = smGet d m j := by simp [smGet, h]
      rw [this, ← ih]; simp [smDrop]
    · have : smDrop ((a, x) :: m) k = (a, x) :: smDrop m k := by simp [smDrop, ha]
      rw [this]; simp [smGet, ih]

theorem smGet_smIns_self (d : Nat → α) (m : SMap α) (k : Nat) (v : α) (h : ∀ e ∈ m, e.1 ≠ k) :
    smGet d (smIns k v m) k = v := by
  induction m with
  | nil => simp [smIns, smGet]
  | cons e m ih =>
    obtain ⟨a, x⟩ := e
    have ha : k ≠ a := fun e => h (a, x) (by simp) e.symm
    by_cases hk : k < a
    · simp [smIns, hk, smGet]
    · simp only [smIns, hk, if_false, smGet, ha]
      exact ih fun e he => h e (by simp [he])

theorem smGet_smIns_ne (d : Nat → α) (m : SMap α) {k j : Nat} (v : α) (h : j ≠ k) :
    smGet d (smIns k v m) j = smGet d m j := by
  induction m with
  | nil => simp [smIns, smGet, h]
  | cons e m ih =>
    obtain ⟨a, x⟩ := e
    by_cases hk : k < a
    · simp [smIns, hk, smGet, h]
    · simp [smIns, hk, smGet, ih]

/-- Reading after writing: the key written gives the value, every other key what it gave before. -/
theorem smGet_smSet [DecidableEq α] (d : Nat → α) (m : SMap α) (k j : Nat) (v : α) :
    smGet d (smSet d m k v) j = if j = k then v else smGet d m j := by
  unfold smSet
  by_cases hj : j = k
  · subst hj
    by_cases hv : v = d j
    · simp [hv, smGet_smDrop_self]
    · simp only [hv, if_false, if_true]
      exact smGet_smIns_self d _ _ _ (by intro e he; simpa [smDrop] using (List.mem_filter.mp he).2)
  · by_cases hv : v = d k
    · simp [hv, hj, smGet_smDrop_ne]
    · simp [hv, hj, smGet_smIns_ne, smGet_smDrop_ne]

@[simp] theorem smGet_smSet_self [DecidableEq α] (d : Nat → α) (m : SMap α) (k : Nat) (v : α) :
    smGet d (smSet d m k v) k = v := by simp [smGet_smSet]

theorem smGet_smSet_ne [DecidableEq α] (d : Nat → α) (m : SMap α) {k j : Nat} (v : α) (h : j ≠ k) :
    smGet d (smSet d m k v) j = smGet d m j := by simp [smGet_smSet, h]

/-! ### The canonical form -/

/-- The canonical form as a property of the list: keys rise strictly and no value is the unlisted one. -/
theorem smWf_iff [DecidableEq α] (d : Nat → α) (m : SMap α) :
    smWf d m = true ↔ m.Pairwise (fun a b => a.1 < b.1) ∧ ∀ e ∈ m, e.2 ≠ d e.1 := by
  have key : ∀ (m : SMap α) (lo : Option Nat), smWfFrom d lo m = true ↔
      (∀ l, lo = some l → ∀ e ∈ m, l < e.1) ∧ m.Pairwise (fun a b => a.1 < b.1) ∧ ∀ e ∈ m, e.2 ≠ d e.1 := by
    intro m
    induction m with
    | nil => intro lo; simp [smWfFrom]
    | cons e m ih =>
      obtain ⟨a, x⟩ := e
      intro lo
      simp only [smWfFrom, Bool.and_eq_true, decide_eq_true_eq, ih, List.pairwise_cons, List.mem_cons, forall_eq_or_imp]
      constructor
      · rintro ⟨⟨hlo, hx⟩, hm, hp, hd⟩
        refine ⟨?_, ⟨fun e he => hm a rfl e he, hp⟩, hx, hd⟩
        intro l hl
        subst hl
        simp only [decide_eq_true_eq] at hlo
        exact ⟨hlo, fun e he => lt_trans hlo (hm a rfl e he)⟩
      · rintro ⟨hlo, ⟨hm, hp⟩, hx, hd⟩
        refine ⟨⟨?_, hx⟩, ?_, hp, hd⟩
        · cases lo with
          | none => rfl
          | some l => simpa using (hlo l rfl).1
        · intro l hl e he
          cases hl
          exact hm e he
  simpa [smWf] using key m none

theorem smWf_nil [DecidableEq α] (d : Nat → α) : smWf d [] = true := rfl

/-- Filtering keeps the canonical form. -/
theorem smWf_filter [DecidableEq α] (d : Nat → α) (m : SMap α) (p : Nat × α → Bool) (h : smWf d m = true) :
    smWf d (m.filter p) = true := by
  rw [smWf_iff] at h ⊢
  exact ⟨h.1.filter p, fun e he => h.2 e (List.mem_of_mem_filter he)⟩

theorem smWf_smIns [DecidableEq α] (d : Nat → α) (m : SMap α) (k : Nat) (v : α) (h : smWf d m = true)
    (hk : ∀ e ∈ m, e.1 ≠ k) (hv : v ≠ d k) : smWf d (smIns k v m) = true := by
  rw [smWf_iff] at h ⊢
  have mem : ∀ (m : SMap α) e, e ∈ smIns k v m → e = (k, v) ∨ e ∈ m := by
    intro m
    induction m with
    | nil => intro e he; left; simpa [smIns] using he
    | cons c m ih =>
      intro e he
      by_cases hc : k < c.1
      · simpa [smIns, hc, or_assoc] using he
      · simp only [smIns, hc, if_false, List.mem_cons] at he
        rcases he with he | he
        · right; simp [he]
        · rcases ih e he with h | h
          · exact .inl h
          · right; simp [h]
  refine ⟨?_, ?_⟩
  · have hp := h.1
    clear h
    induction m with
    | nil => simp [smIns]
    | cons c m ih =>
      have hc := List.pairwise_cons.mp hp
      by_cases hlt : k < c.1
      · simp only [smIns, hlt, if_true, List.pairwise_cons]
        refine ⟨?_, List.pairwise_cons.mp hp⟩
        intro e he
        rcases List.mem_cons.mp he with he | he
        · subst he; exact hlt
        · exact lt_trans hlt (hc.1 e he)
      · simp only [smIns, hlt, if_false, List.pairwise_cons]
        refine ⟨?_, ih (fun e he => hk e (by simp [he])) hc.2⟩
        intro e he
        rcases mem m e he with he | he
        · subst he
          have := hk c (by simp)
          show c.1 < k
          omega
        · exact hc.1 e he
  · intro e he
    rcases mem m e he with he | he
    · subst he; exact hv
    · exact h.2 e he

/-- Every write keeps the canonical form. -/
theorem smWf_smSet [DecidableEq α] (d : Nat → α) (m : SMap α) (k : Nat) (v : α) (h : smWf d m = true) :
    smWf d (smSet d m k v) = true := by
  unfold smSet
  split
  · exact smWf_filter d m _ h
  · exact smWf_smIns d _ k v (smWf_filter d m _ h) (by intro e he; simpa [smDrop] using (List.mem_filter.mp he).2) ‹_›

/-- A list in canonical form is fixed by what it reads as. -/
theorem smWf_ext [DecidableEq α] (d : Nat → α) (m m' : SMap α) (h : smWf d m = true) (h' : smWf d m' = true)
    (he : ∀ k, smGet d m k = smGet d m' k) : m = m' := by
  rw [smWf_iff] at h h'
  have nomem : ∀ (m : SMap α) k, (∀ e ∈ m, k < e.1) → smGet d m k = d k := by
    intro m k
    induction m with
    | nil => intro _; rfl
    | cons e m ih =>
      intro hk
      have := hk e (by simp)
      simp only [smGet, show k ≠ e.1 by omega, if_false]
      exact ih fun e he => hk e (by simp [he])
  induction m generalizing m' with
  | nil =>
    cases m' with
    | nil => rfl
    | cons e m' =>
      exfalso
      have := he e.1
      simp only [smGet, if_true] at this
      exact h'.2 e (by simp) this.symm
  | cons e m ih =>
    obtain ⟨hp, hv⟩ := h
    rw [List.pairwise_cons] at hp
    cases m' with
    | nil =>
      exfalso
      have := he e.1
      simp only [smGet, if_true] at this
      exact hv e (by simp) this
    | cons f m' =>
      obtain ⟨hp', hv'⟩ := h'
      rw [List.pairwise_cons] at hp'
      have hk : e.1 = f.1 := by
        rcases lt_trichotomy e.1 f.1 with hl | hl | hl
        · exfalso
          have := he e.1
          rw [nomem (f :: m') e.1 (by intro g hg; rcases List.mem_cons.mp hg with hg | hg; · rw [hg]; exact hl
                                      · exact lt_trans hl (hp'.1 g hg))] at this
          simp only [smGet, if_true] at this
          exact hv e (by simp) this
        · exact hl
        · exfalso
          have := he f.1
          rw [nomem (e :: m) f.1 (by intro g hg; rcases List.mem_cons.mp hg with hg | hg; · rw [hg]; exact hl
                                     · exact lt_trans hl (hp.1 g hg))] at this
          simp only [smGet, if_true] at this
          exact hv' f (by simp) this.symm
      have hx : e.2 = f.2 := by
        have := he e.1
        simpa [smGet, hk] using this
      have : e = f := Prod.ext hk hx
      subst this
      congr 1
      refine ih m' ⟨hp.2, fun g hg => hv g (by simp [hg])⟩ ⟨hp'.2, fun g hg => hv' g (by simp [hg])⟩ ?_
      intro k
      by_cases hke : k = e.1
      · subst hke
        rw [nomem m _ hp.1, nomem m' _ hp'.1]
      · have := he k
        simpa [smGet, hke] using this

/-- Writing what a place holds changes nothing. -/
theorem smSet_smGet [DecidableEq α] (d : Nat → α) (m : SMap α) (k : Nat) (h : smWf d m = true) :
    smSet d m k (smGet d m k) = m := by
  refine smWf_ext d _ _ (smWf_smSet d m k _ h) h fun j => ?_
  rw [smGet_smSet]
  split
  · rename_i hj; rw [hj]
  · rfl

/-- What a map reads as is unlisted or listed. -/
theorem smGet_mem (d : Nat → α) (m : SMap α) (k : Nat) : smGet d m k = d k ∨ (k, smGet d m k) ∈ m := by
  induction m with
  | nil => exact .inl rfl
  | cons e m ih =>
    obtain ⟨a, x⟩ := e
    by_cases hk : k = a
    · subst hk; right; simp [smGet]
    · simp only [smGet, hk, if_false, List.mem_cons]
      rcases ih with h | h
      · exact .inl h
      · exact .inr (.inr h)

theorem smWf_append [DecidableEq α] (d : Nat → α) (a b : SMap α) (ha : smWf d a = true) (hb : smWf d b = true)
    (h : ∀ x ∈ a, ∀ y ∈ b, x.1 < y.1) : smWf d (a ++ b) = true := by
  rw [smWf_iff] at ha hb ⊢
  refine ⟨List.pairwise_append.mpr ⟨ha.1, hb.1, h⟩, ?_⟩
  intro e he
  rcases List.mem_append.mp he with he | he
  · exact ha.2 e he
  · exact hb.2 e he

/-! ### Memories -/

/-- A write keeps the canonical form of a memory. -/
theorem memWrite_wf (m : Memory) (a v n : Nat) (h : Memory.wf m = true) : Memory.wf (memWrite m a v n) = true := by
  induction n with
  | zero => exact h
  | succ n ih => exact smWf_smSet _ _ _ _ ih

/-- A masked line write keeps the canonical form of a memory. -/
theorem memWriteBe_wf (m : Memory) (a : Nat) (v : Line) (be : BitVec 64) (n : Nat) (h : Memory.wf m = true) :
    Memory.wf (memWriteBe m a v be n) = true := by
  induction n with
  | zero => exact h
  | succ n ih =>
    unfold memWriteBe
    split
    · exact smWf_smSet _ _ _ _ ih
    · exact ih

/-- A write of `n` bytes at `a` leaves every other byte as it was. -/
theorem memByte_memWrite_ne (m : Memory) (a v n b : Nat) (h : b < a ∨ a + n ≤ b) :
    memByte (memWrite m a v n) b = memByte m b := by
  induction n with
  | zero => rfl
  | succ n ih =>
    unfold memByte at *
    rw [memWrite, smGet_smSet_ne _ _ _ (by omega)]
    exact ih (by omega)

/-- Each byte of the range written reads as its byte of the value. -/
theorem memByte_memWrite (m : Memory) (a v n i : Nat) (h : i < n) :
    memByte (memWrite m a v n) (a + i) = BitVec.ofNat 8 (v >>> (8 * i)) := by
  induction n with
  | zero => omega
  | succ n ih =>
    unfold memByte at *
    rw [memWrite, smGet_smSet]
    by_cases hi : i = n
    · subst hi; simp
    · have : a + i ≠ a + n := by omega
      simp only [this, if_false]
      exact ih (by omega)

/-- What `firstFrom` finds: the number has the property, none below it has. -/
theorem firstFrom_some {p : Nat → Bool} {n i k : Nat} (h : firstFrom p n i = some k) :
    p k = true ∧ i ≤ k ∧ k < i + n ∧ ∀ j, i ≤ j → j < k → p j = false := by
  induction n generalizing i with
  | zero => cases h
  | succ n ih =>
    unfold firstFrom at h
    split at h
    · cases h; exact ⟨by assumption, le_refl _, by omega, fun j h1 h2 => by omega⟩
    · next hp =>
      obtain ⟨h1, h2, h3, h4⟩ := ih h
      refine ⟨h1, by omega, by omega, fun j h5 h6 => ?_⟩
      by_cases e : j = i
      · subst e; simpa using hp
      · exact h4 j (by omega) h6

/-- It finds nothing where no number has the property. -/
theorem firstFrom_none {p : Nat → Bool} {n i : Nat} : firstFrom p n i = none ↔ ∀ j, i ≤ j → j < i + n → p j = false := by
  induction n generalizing i with
  | zero => simp [firstFrom]; intro j h1 h2; omega
  | succ n ih =>
    unfold firstFrom
    by_cases hp : p i = true
    · simp only [hp, if_true, reduceCtorEq, false_iff]; intro h; have := h i (le_refl _) (by omega); simp [hp] at this
    · simp only [hp, if_false, Bool.false_eq_true]
      rw [ih]
      constructor
      · intro h j h1 h2
        by_cases e : j = i
        · subst e; simpa using hp
        · exact h j (by omega) (by omega)
      · intro h j h1 h2; exact h j (by omega) (by omega)

end Sys2Proof.Machine
end

