-- ==== Sys2Proof/Laws/Copies.lean ====
section
/-! SUPPORT. Sys2Proof/Laws/Copies.lean: copies between memories keep the canonical form. -/

namespace Sys2Proof.Machine

theorem memWf_iff (m : Memory) : Memory.wf m = true ↔ m.Pairwise (fun a b => a.1 < b.1) ∧ ∀ e ∈ m, e.2 ≠ 0 := by
  unfold Memory.wf
  rw [smWf_iff]
  rfl

theorem memWf_filter (m : Memory) (p : Host.Cell → Bool) (h : Memory.wf m = true) : Memory.wf (m.filter p) = true := smWf_filter _ _ _ h

/-- Three parts, each below the next. -/
theorem memWf_three (x y z : Memory) (b n : Nat) (hx : Memory.wf x = true) (hy : Memory.wf y = true) (hz : Memory.wf z = true)
    (h1 : ∀ e ∈ x, e.1 < b) (h2 : ∀ e ∈ y, b ≤ e.1 ∧ e.1 < b + n) (h3 : ∀ e ∈ z, b + n ≤ e.1) : Memory.wf (x ++ y ++ z) = true := by
  refine smWf_append _ _ _ (smWf_append _ _ _ hx hy ?_) hz ?_
  · intro e he f hf; exact lt_of_lt_of_le (h1 e he) (h2 f hf).1
  · intro e he f hf
    rcases List.mem_append.mp he with he | he
    · have := h1 e he; have := h3 f hf; omega
    · exact lt_of_lt_of_le (h2 e he).2 (h3 f hf)

theorem memBlit_wf (m part : Memory) (b n : Nat) (h : Memory.wf m = true) (hp : Memory.wf part = true) :
    Memory.wf (memBlit m part b n) = true := by
  refine memWf_three _ _ _ b n (memWf_filter _ _ h) (memWf_filter _ _ hp) (memWf_filter _ _ h) ?_ ?_ ?_
  · intro e he; simpa using (List.mem_filter.mp he).2
  · intro e he; simpa using (List.mem_filter.mp he).2
  · intro e he; simpa using (List.mem_filter.mp he).2

theorem memSlice_wf (m : Memory) (a n b : Nat) (h : Memory.wf m = true) : Memory.wf (memSlice m a n b) = true := by
  have h1 := (memWf_iff _).mp (memWf_filter m (fun c => decide (a ≤ c.1) && decide (c.1 < a + n)) h)
  rw [memWf_iff]
  unfold memSlice
  constructor
  · rw [List.pairwise_map]
    refine h1.1.imp_of_mem ?_
    intro x y hx hy hxy
    have := (List.mem_filter.mp hx).2
    have := (List.mem_filter.mp hy).2
    simp at *
    omega
  · intro e he
    obtain ⟨c, hc, rfl⟩ := List.mem_map.mp he
    exact h1.2 c hc

theorem memCopy_wf (m src : Memory) (a b n : Nat) (h : Memory.wf m = true) (hs : Memory.wf src = true) :
    Memory.wf (memCopy m src a b n) = true := memBlit_wf _ _ _ _ h (memSlice_wf _ _ _ _ hs)

theorem cellsOf_wf (bs : List Byte) (b : Nat) : Memory.wf (cellsOf bs b) = true := by
  rw [memWf_iff]
  unfold cellsOf
  have key : ∀ (bs : List Byte) (b : Nat),
      ((bs.zipIdx b).filterMap fun p => if p.1 = 0 then none else some (p.2, p.1)).Pairwise (fun x y : Host.Cell => x.1 < y.1) ∧
      ∀ e ∈ (bs.zipIdx b).filterMap (fun p => if p.1 = 0 then none else some ((p.2, p.1) : Host.Cell)), e.2 ≠ 0 ∧ b ≤ e.1 := by
    intro bs
    induction bs with
    | nil => intro b; simp
    | cons x bs ih =>
      intro b
      obtain ⟨h1, h2⟩ := ih (b + 1)
      rw [List.zipIdx_cons, List.filterMap_cons]
      by_cases hx : x = 0
      · simp only [hx, if_true]
        exact ⟨h1, fun e he => ⟨(h2 e he).1, by have := (h2 e he).2; omega⟩⟩
      · simp only [hx, if_false]
        refine ⟨List.pairwise_cons.mpr ⟨fun e he => by have := (h2 e he).2; simp; omega, h1⟩, ?_⟩
        intro e he
        rcases List.mem_cons.mp he with rfl | he
        · exact ⟨hx, le_refl _⟩
        · exact ⟨(h2 e he).1, by have := (h2 e he).2; omega⟩
  exact ⟨(key bs b).1, fun e he => ((key bs b).2 e he).1⟩

theorem memFill_wf (m : Memory) (a n k : Nat) (h : Memory.wf m = true) : Memory.wf (memFill m a n k) = true := by
  refine memWf_three _ _ _ a n (memWf_filter _ _ h) ?_ (memWf_filter _ _ h) ?_ ?_ ?_
  · rw [memWf_iff]
    constructor
    · rw [List.pairwise_map]
      exact List.pairwise_lt_range.imp fun h => by simpa using h
    · intro e he
      obtain ⟨i, _, rfl⟩ := List.mem_map.mp he
      exact (by decide : (0xFF : Byte) ≠ 0)
  · intro e he; simpa using (List.mem_filter.mp he).2
  · intro e he
    obtain ⟨i, hi, rfl⟩ := List.mem_map.mp he
    have := List.mem_range.mp hi
    simp; omega
  · intro e he; simpa using (List.mem_filter.mp he).2

theorem pageWrite_wf (m buf : Memory) (a n : Nat) (h : Memory.wf m = true) : Memory.wf (pageWrite m buf a n) = true := by
  induction n with
  | zero => exact h
  | succ n ih => exact smWf_smSet _ _ _ _ ih

theorem memPut_wf (m : Memory) (b : Nat) (bs : List Byte) (h : Memory.wf m = true) : Memory.wf (memPut m b bs) = true :=
  memBlit_wf _ _ _ _ h (cellsOf_wf _ _)

end Sys2Proof.Machine
end

