-- ==== Sys2Proof/Laws/State.lean ====
section
/-! SUPPORT. Sys2Proof/Laws/State.lean: what each update of a part of the state leaves as it was, one lemma per field and
update, and reading a part after writing it. -/

namespace Sys2Proof.Machine

/-! ### Fields that an update leaves -/

@[simp] theorem State.setHp_pending (s : State) (p : HpId) (x : HpShell) : (s.setHp p x).pending = s.pending := rfl
@[simp] theorem State.setHp_time (s : State) (p : HpId) (x : HpShell) : (s.setHp p x).time = s.time := rfl
@[simp] theorem State.setHp_tmo (s : State) (p : HpId) (x : HpShell) : (s.setHp p x).tmo = s.tmo := rfl
@[simp] theorem State.setHp_reftickOk (s : State) (p : HpId) (x : HpShell) : (s.setHp p x).reftickOk = s.reftickOk := rfl
@[simp] theorem State.setHp_free (s : State) (p : HpId) (x : HpShell) : (s.setHp p x).free = s.free := rfl
@[simp] theorem State.setHp_mode (s : State) (p : HpId) (x : HpShell) : (s.setHp p x).mode = s.mode := rfl
@[simp] theorem State.setHp_regs (s : State) (p : HpId) (x : HpShell) : (s.setHp p x).regs = s.regs := rfl
@[simp] theorem State.setHp_pins (s : State) (p : HpId) (x : HpShell) : (s.setHp p x).pins = s.pins := rfl
@[simp] theorem State.setHp_defaulted (s : State) (p : HpId) (x : HpShell) : (s.setHp p x).defaulted = s.defaulted := rfl
@[simp] theorem State.setHp_defaultedU (s : State) (p : HpId) (x : HpShell) : (s.setHp p x).defaultedU = s.defaultedU := rfl
@[simp] theorem State.setHp_strapNow (s : State) (p : HpId) (x : HpShell) : (s.setHp p x).strapNow = s.strapNow := rfl
@[simp] theorem State.setHp_strapChg (s : State) (p : HpId) (x : HpShell) : (s.setHp p x).strapChg = s.strapChg := rfl
@[simp] theorem State.setHp_fullPinAt (s : State) (p : HpId) (x : HpShell) : (s.setHp p x).fullPinAt = s.fullPinAt := rfl
@[simp] theorem State.setHp_homeMap (s : State) (p : HpId) (x : HpShell) : (s.setHp p x).homeMap = s.homeMap := rfl
@[simp] theorem State.setHp_mpMap (s : State) (p : HpId) (x : HpShell) : (s.setHp p x).mpMap = s.mpMap := rfl
@[simp] theorem State.setHp_mp (s : State) (p : HpId) (x : HpShell) : (s.setHp p x).mp = s.mp := rfl
@[simp] theorem State.setHp_sess (s : State) (p : HpId) (x : HpShell) : (s.setHp p x).sess = s.sess := rfl
@[simp] theorem State.setHp_node (s : State) (p : HpId) (x : HpShell) : (s.setHp p x).node = s.node := rfl
@[simp] theorem State.setHp_quad (s : State) (p : HpId) (x : HpShell) : (s.setHp p x).quad = s.quad := rfl
@[simp] theorem State.setHp_chv (s : State) (p : HpId) (x : HpShell) : (s.setHp p x).chv = s.chv := rfl
@[simp] theorem State.setHp_xlt (s : State) (p : HpId) (x : HpShell) : (s.setHp p x).xlt = s.xlt := rfl
@[simp] theorem State.setHp_chan (s : State) (p : HpId) (x : HpShell) : (s.setHp p x).chan = s.chan := rfl
@[simp] theorem State.setHp_bmem (s : State) (p : HpId) (x : HpShell) : (s.setHp p x).bmem = s.bmem := rfl
@[simp] theorem State.setHp_bm (s : State) (p : HpId) (x : HpShell) : (s.setHp p x).bm = s.bm := rfl
@[simp] theorem State.setHp_store (s : State) (p : HpId) (x : HpShell) : (s.setHp p x).store = s.store := rfl
@[simp] theorem State.setHp_pageBuf (s : State) (p : HpId) (x : HpShell) : (s.setHp p x).pageBuf = s.pageBuf := rfl
@[simp] theorem State.setHp_psCmd (s : State) (p : HpId) (x : HpShell) : (s.setHp p x).psCmd = s.psCmd := rfl
@[simp] theorem State.setHp_storeProt (s : State) (p : HpId) (x : HpShell) : (s.setHp p x).storeProt = s.storeProt := rfl
@[simp] theorem State.setHp_fuse (s : State) (p : HpId) (x : HpShell) : (s.setHp p x).fuse = s.fuse := rfl
@[simp] theorem State.setHp_fusePgm (s : State) (p : HpId) (x : HpShell) : (s.setHp p x).fusePgm = s.fusePgm := rfl
@[simp] theorem State.setHp_fuseRd (s : State) (p : HpId) (x : HpShell) : (s.setHp p x).fuseRd = s.fuseRd := rfl
@[simp] theorem State.setHp_fuseTodo (s : State) (p : HpId) (x : HpShell) : (s.setHp p x).fuseTodo = s.fuseTodo := rfl
@[simp] theorem State.setHp_evq (s : State) (p : HpId) (x : HpShell) : (s.setHp p x).evq = s.evq := rfl
@[simp] theorem State.setHp_evDrops (s : State) (p : HpId) (x : HpShell) : (s.setHp p x).evDrops = s.evDrops := rfl
@[simp] theorem State.setHp_evSeq (s : State) (p : HpId) (x : HpShell) : (s.setHp p x).evSeq = s.evSeq := rfl
@[simp] theorem State.setHp_evSince (s : State) (p : HpId) (x : HpShell) : (s.setHp p x).evSince = s.evSince := rfl
@[simp] theorem State.setHp_evBeats (s : State) (p : HpId) (x : HpShell) : (s.setHp p x).evBeats = s.evBeats := rfl
@[simp] theorem State.setHp_meas (s : State) (p : HpId) (x : HpShell) : (s.setHp p x).meas = s.meas := rfl
@[simp] theorem State.setHp_tar (s : State) (p : HpId) (x : HpShell) : (s.setHp p x).tar = s.tar := rfl
@[simp] theorem State.setHp_pmc (s : State) (p : HpId) (x : HpShell) : (s.setHp p x).pmc = s.pmc := rfl
@[simp] theorem State.setHp_pmcBusyTo (s : State) (p : HpId) (x : HpShell) : (s.setHp p x).pmcBusyTo = s.pmcBusyTo := rfl
@[simp] theorem State.setHp_romRst (s : State) (p : HpId) (x : HpShell) : (s.setHp p x).romRst = s.romRst := rfl
@[simp] theorem State.setHp_bootCopied (s : State) (p : HpId) (x : HpShell) : (s.setHp p x).bootCopied = s.bootCopied := rfl
@[simp] theorem State.setHp_queues (s : State) (p : HpId) (x : HpShell) : (s.setHp p x).queues = s.queues := rfl
@[simp] theorem State.setHp_rout (s : State) (p : HpId) (x : HpShell) : (s.setHp p x).rout = s.rout := rfl
@[simp] theorem State.setHp_rotLast (s : State) (p : HpId) (x : HpShell) : (s.setHp p x).rotLast = s.rotLast := rfl
@[simp] theorem State.setHp_shellAck (s : State) (p : HpId) (x : HpShell) : (s.setHp p x).shellAck = s.shellAck := rfl
@[simp] theorem State.setHp_cfg (s : State) (p : HpId) (x : HpShell) : (s.setHp p x).cfg = s.cfg := rfl
@[simp] theorem State.setHp_epAcc (s : State) (p : HpId) (x : HpShell) : (s.setHp p x).epAcc = s.epAcc := rfl
@[simp] theorem State.setHp_epAt (s : State) (p : HpId) (x : HpShell) : (s.setHp p x).epAt = s.epAt := rfl
@[simp] theorem State.setHp_epMaps (s : State) (p : HpId) (x : HpShell) : (s.setHp p x).epMaps = s.epMaps := rfl
@[simp] theorem State.setHp_epSink (s : State) (p : HpId) (x : HpShell) : (s.setHp p x).epSink = s.epSink := rfl
@[simp] theorem State.setHp_pwrFail (s : State) (p : HpId) (x : HpShell) : (s.setHp p x).pwrFail = s.pwrFail := rfl
@[simp] theorem State.setHp_prior (s : State) (p : HpId) (x : HpShell) : (s.setHp p x).prior = s.prior := rfl
@[simp] theorem State.setHp_holdAt (s : State) (p : HpId) (x : HpShell) : (s.setHp p x).holdAt = s.holdAt := rfl
@[simp] theorem State.setHp_released (s : State) (p : HpId) (x : HpShell) : (s.setHp p x).released = s.released := rfl
@[simp] theorem State.setHp_hourTicks (s : State) (p : HpId) (x : HpShell) : (s.setHp p x).hourTicks = s.hourTicks := rfl
@[simp] theorem State.setHp_wdogAt (s : State) (p : HpId) (x : HpShell) : (s.setHp p x).wdogAt = s.wdogAt := rfl
@[simp] theorem State.setHp_flushAt (s : State) (p : HpId) (x : HpShell) : (s.setHp p x).flushAt = s.flushAt := rfl
@[simp] theorem State.setHp_timerAt (s : State) (p : HpId) (x : HpShell) : (s.setHp p x).timerAt = s.timerAt := rfl
@[simp] theorem State.setHp_flushTags (s : State) (p : HpId) (x : HpShell) : (s.setHp p x).flushTags = s.flushTags := rfl
@[simp] theorem State.setHp_map (s : State) (p : HpId) (x : HpShell) : (s.setHp p x).map = s.map := rfl
@[simp] theorem State.setHp_hard (s : State) (p : HpId) (x : HpShell) : (s.setHp p x).hard = s.hard := rfl
@[simp] theorem State.setHp_st (s : State) (p : HpId) (x : HpShell) : (s.setHp p x).st = s.st := rfl
@[simp] theorem State.setHp_xltCmd (s : State) (p : HpId) (x : HpShell) : (s.setHp p x).xltCmd = s.xltCmd := rfl
@[simp] theorem State.setHp_dbgLatch (s : State) (p : HpId) (x : HpShell) : (s.setHp p x).dbgLatch = s.dbgLatch := rfl
@[simp] theorem State.setHp_dbgHeld (s : State) (p : HpId) (x : HpShell) : (s.setHp p x).dbgHeld = s.dbgHeld := rfl
@[simp] theorem State.setHp_scrubPos (s : State) (p : HpId) (x : HpShell) : (s.setHp p x).scrubPos = s.scrubPos := rfl
@[simp] theorem State.setHp_hwRep (s : State) (p : HpId) (x : HpShell) : (s.setHp p x).hwRep = s.hwRep := rfl
@[simp] theorem State.setHp_late (s : State) (p : HpId) (x : HpShell) : (s.setHp p x).late = s.late := rfl
@[simp] theorem State.setHp_survSyn (s : State) (p : HpId) (x : HpShell) : (s.setHp p x).survSyn = s.survSyn := rfl
@[simp] theorem State.setHp_romSyn (s : State) (p : HpId) (x : HpShell) : (s.setHp p x).romSyn = s.romSyn := rfl
@[simp] theorem State.setHp_mbStage (s : State) (p : HpId) (x : HpShell) : (s.setHp p x).mbStage = s.mbStage := rfl
@[simp] theorem State.setHp_chvTodo (s : State) (p : HpId) (x : HpShell) : (s.setHp p x).chvTodo = s.chvTodo := rfl

@[simp] theorem State.setMp_pending (s : State) (m : MpId) (x : MpShell) : (s.setMp m x).pending = s.pending := rfl
@[simp] theorem State.setMp_time (s : State) (m : MpId) (x : MpShell) : (s.setMp m x).time = s.time := rfl
@[simp] theorem State.setMp_tmo (s : State) (m : MpId) (x : MpShell) : (s.setMp m x).tmo = s.tmo := rfl
@[simp] theorem State.setMp_reftickOk (s : State) (m : MpId) (x : MpShell) : (s.setMp m x).reftickOk = s.reftickOk := rfl
@[simp] theorem State.setMp_free (s : State) (m : MpId) (x : MpShell) : (s.setMp m x).free = s.free := rfl
@[simp] theorem State.setMp_mode (s : State) (m : MpId) (x : MpShell) : (s.setMp m x).mode = s.mode := rfl
@[simp] theorem State.setMp_regs (s : State) (m : MpId) (x : MpShell) : (s.setMp m x).regs = s.regs := rfl
@[simp] theorem State.setMp_pins (s : State) (m : MpId) (x : MpShell) : (s.setMp m x).pins = s.pins := rfl
@[simp] theorem State.setMp_defaulted (s : State) (m : MpId) (x : MpShell) : (s.setMp m x).defaulted = s.defaulted := rfl
@[simp] theorem State.setMp_defaultedU (s : State) (m : MpId) (x : MpShell) : (s.setMp m x).defaultedU = s.defaultedU := rfl
@[simp] theorem State.setMp_strapNow (s : State) (m : MpId) (x : MpShell) : (s.setMp m x).strapNow = s.strapNow := rfl
@[simp] theorem State.setMp_strapChg (s : State) (m : MpId) (x : MpShell) : (s.setMp m x).strapChg = s.strapChg := rfl
@[simp] theorem State.setMp_fullPinAt (s : State) (m : MpId) (x : MpShell) : (s.setMp m x).fullPinAt = s.fullPinAt := rfl
@[simp] theorem State.setMp_homeMap (s : State) (m : MpId) (x : MpShell) : (s.setMp m x).homeMap = s.homeMap := rfl
@[simp] theorem State.setMp_mpMap (s : State) (m : MpId) (x : MpShell) : (s.setMp m x).mpMap = s.mpMap := rfl
@[simp] theorem State.setMp_hp (s : State) (m : MpId) (x : MpShell) : (s.setMp m x).hp = s.hp := rfl
@[simp] theorem State.setMp_sess (s : State) (m : MpId) (x : MpShell) : (s.setMp m x).sess = s.sess := rfl
@[simp] theorem State.setMp_node (s : State) (m : MpId) (x : MpShell) : (s.setMp m x).node = s.node := rfl
@[simp] theorem State.setMp_quad (s : State) (m : MpId) (x : MpShell) : (s.setMp m x).quad = s.quad := rfl
@[simp] theorem State.setMp_chv (s : State) (m : MpId) (x : MpShell) : (s.setMp m x).chv = s.chv := rfl
@[simp] theorem State.setMp_xlt (s : State) (m : MpId) (x : MpShell) : (s.setMp m x).xlt = s.xlt := rfl
@[simp] theorem State.setMp_chan (s : State) (m : MpId) (x : MpShell) : (s.setMp m x).chan = s.chan := rfl
@[simp] theorem State.setMp_bmem (s : State) (m : MpId) (x : MpShell) : (s.setMp m x).bmem = s.bmem := rfl
@[simp] theorem State.setMp_bm (s : State) (m : MpId) (x : MpShell) : (s.setMp m x).bm = s.bm := rfl
@[simp] theorem State.setMp_store (s : State) (m : MpId) (x : MpShell) : (s.setMp m x).store = s.store := rfl
@[simp] theorem State.setMp_pageBuf (s : State) (m : MpId) (x : MpShell) : (s.setMp m x).pageBuf = s.pageBuf := rfl
@[simp] theorem State.setMp_psCmd (s : State) (m : MpId) (x : MpShell) : (s.setMp m x).psCmd = s.psCmd := rfl
@[simp] theorem State.setMp_storeProt (s : State) (m : MpId) (x : MpShell) : (s.setMp m x).storeProt = s.storeProt := rfl
@[simp] theorem State.setMp_fuse (s : State) (m : MpId) (x : MpShell) : (s.setMp m x).fuse = s.fuse := rfl
@[simp] theorem State.setMp_fusePgm (s : State) (m : MpId) (x : MpShell) : (s.setMp m x).fusePgm = s.fusePgm := rfl
@[simp] theorem State.setMp_fuseRd (s : State) (m : MpId) (x : MpShell) : (s.setMp m x).fuseRd = s.fuseRd := rfl
@[simp] theorem State.setMp_fuseTodo (s : State) (m : MpId) (x : MpShell) : (s.setMp m x).fuseTodo = s.fuseTodo := rfl
@[simp] theorem State.setMp_evq (s : State) (m : MpId) (x : MpShell) : (s.setMp m x).evq = s.evq := rfl
@[simp] theorem State.setMp_evDrops (s : State) (m : MpId) (x : MpShell) : (s.setMp m x).evDrops = s.evDrops := rfl
@[simp] theorem State.setMp_evSeq (s : State) (m : MpId) (x : MpShell) : (s.setMp m x).evSeq = s.evSeq := rfl
@[simp] theorem State.setMp_evSince (s : State) (m : MpId) (x : MpShell) : (s.setMp m x).evSince = s.evSince := rfl
@[simp] theorem State.setMp_evBeats (s : State) (m : MpId) (x : MpShell) : (s.setMp m x).evBeats = s.evBeats := rfl
@[simp] theorem State.setMp_meas (s : State) (m : MpId) (x : MpShell) : (s.setMp m x).meas = s.meas := rfl
@[simp] theorem State.setMp_tar (s : State) (m : MpId) (x : MpShell) : (s.setMp m x).tar = s.tar := rfl
@[simp] theorem State.setMp_pmc (s : State) (m : MpId) (x : MpShell) : (s.setMp m x).pmc = s.pmc := rfl
@[simp] theorem State.setMp_pmcBusyTo (s : State) (m : MpId) (x : MpShell) : (s.setMp m x).pmcBusyTo = s.pmcBusyTo := rfl
@[simp] theorem State.setMp_romRst (s : State) (m : MpId) (x : MpShell) : (s.setMp m x).romRst = s.romRst := rfl
@[simp] theorem State.setMp_bootCopied (s : State) (m : MpId) (x : MpShell) : (s.setMp m x).bootCopied = s.bootCopied := rfl
@[simp] theorem State.setMp_queues (s : State) (m : MpId) (x : MpShell) : (s.setMp m x).queues = s.queues := rfl
@[simp] theorem State.setMp_rout (s : State) (m : MpId) (x : MpShell) : (s.setMp m x).rout = s.rout := rfl
@[simp] theorem State.setMp_rotLast (s : State) (m : MpId) (x : MpShell) : (s.setMp m x).rotLast = s.rotLast := rfl
@[simp] theorem State.setMp_shellAck (s : State) (m : MpId) (x : MpShell) : (s.setMp m x).shellAck = s.shellAck := rfl
@[simp] theorem State.setMp_cfg (s : State) (m : MpId) (x : MpShell) : (s.setMp m x).cfg = s.cfg := rfl
@[simp] theorem State.setMp_epAcc (s : State) (m : MpId) (x : MpShell) : (s.setMp m x).epAcc = s.epAcc := rfl
@[simp] theorem State.setMp_epAt (s : State) (m : MpId) (x : MpShell) : (s.setMp m x).epAt = s.epAt := rfl
@[simp] theorem State.setMp_epMaps (s : State) (m : MpId) (x : MpShell) : (s.setMp m x).epMaps = s.epMaps := rfl
@[simp] theorem State.setMp_epSink (s : State) (m : MpId) (x : MpShell) : (s.setMp m x).epSink = s.epSink := rfl
@[simp] theorem State.setMp_pwrFail (s : State) (m : MpId) (x : MpShell) : (s.setMp m x).pwrFail = s.pwrFail := rfl
@[simp] theorem State.setMp_prior (s : State) (m : MpId) (x : MpShell) : (s.setMp m x).prior = s.prior := rfl
@[simp] theorem State.setMp_holdAt (s : State) (m : MpId) (x : MpShell) : (s.setMp m x).holdAt = s.holdAt := rfl
@[simp] theorem State.setMp_released (s : State) (m : MpId) (x : MpShell) : (s.setMp m x).released = s.released := rfl
@[simp] theorem State.setMp_hourTicks (s : State) (m : MpId) (x : MpShell) : (s.setMp m x).hourTicks = s.hourTicks := rfl
@[simp] theorem State.setMp_wdogAt (s : State) (m : MpId) (x : MpShell) : (s.setMp m x).wdogAt = s.wdogAt := rfl
@[simp] theorem State.setMp_flushAt (s : State) (m : MpId) (x : MpShell) : (s.setMp m x).flushAt = s.flushAt := rfl
@[simp] theorem State.setMp_timerAt (s : State) (m : MpId) (x : MpShell) : (s.setMp m x).timerAt = s.timerAt := rfl
@[simp] theorem State.setMp_flushTags (s : State) (m : MpId) (x : MpShell) : (s.setMp m x).flushTags = s.flushTags := rfl
@[simp] theorem State.setMp_map (s : State) (m : MpId) (x : MpShell) : (s.setMp m x).map = s.map := rfl
@[simp] theorem State.setMp_hard (s : State) (m : MpId) (x : MpShell) : (s.setMp m x).hard = s.hard := rfl
@[simp] theorem State.setMp_st (s : State) (m : MpId) (x : MpShell) : (s.setMp m x).st = s.st := rfl
@[simp] theorem State.setMp_xltCmd (s : State) (m : MpId) (x : MpShell) : (s.setMp m x).xltCmd = s.xltCmd := rfl
@[simp] theorem State.setMp_dbgLatch (s : State) (m : MpId) (x : MpShell) : (s.setMp m x).dbgLatch = s.dbgLatch := rfl
@[simp] theorem State.setMp_dbgHeld (s : State) (m : MpId) (x : MpShell) : (s.setMp m x).dbgHeld = s.dbgHeld := rfl
@[simp] theorem State.setMp_scrubPos (s : State) (m : MpId) (x : MpShell) : (s.setMp m x).scrubPos = s.scrubPos := rfl
@[simp] theorem State.setMp_hwRep (s : State) (m : MpId) (x : MpShell) : (s.setMp m x).hwRep = s.hwRep := rfl
@[simp] theorem State.setMp_late (s : State) (m : MpId) (x : MpShell) : (s.setMp m x).late = s.late := rfl
@[simp] theorem State.setMp_survSyn (s : State) (m : MpId) (x : MpShell) : (s.setMp m x).survSyn = s.survSyn := rfl
@[simp] theorem State.setMp_romSyn (s : State) (m : MpId) (x : MpShell) : (s.setMp m x).romSyn = s.romSyn := rfl
@[simp] theorem State.setMp_mbStage (s : State) (m : MpId) (x : MpShell) : (s.setMp m x).mbStage = s.mbStage := rfl
@[simp] theorem State.setMp_chvTodo (s : State) (m : MpId) (x : MpShell) : (s.setMp m x).chvTodo = s.chvTodo := rfl

@[simp] theorem State.setNd_pending (s : State) (n : NodeId) (x : Node) : (s.setNd n x).pending = s.pending := rfl
@[simp] theorem State.setNd_time (s : State) (n : NodeId) (x : Node) : (s.setNd n x).time = s.time := rfl
@[simp] theorem State.setNd_tmo (s : State) (n : NodeId) (x : Node) : (s.setNd n x).tmo = s.tmo := rfl
@[simp] theorem State.setNd_reftickOk (s : State) (n : NodeId) (x : Node) : (s.setNd n x).reftickOk = s.reftickOk := rfl
@[simp] theorem State.setNd_free (s : State) (n : NodeId) (x : Node) : (s.setNd n x).free = s.free := rfl
@[simp] theorem State.setNd_mode (s : State) (n : NodeId) (x : Node) : (s.setNd n x).mode = s.mode := rfl
@[simp] theorem State.setNd_regs (s : State) (n : NodeId) (x : Node) : (s.setNd n x).regs = s.regs := rfl
@[simp] theorem State.setNd_pins (s : State) (n : NodeId) (x : Node) : (s.setNd n x).pins = s.pins := rfl
@[simp] theorem State.setNd_defaulted (s : State) (n : NodeId) (x : Node) : (s.setNd n x).defaulted = s.defaulted := rfl
@[simp] theorem State.setNd_defaultedU (s : State) (n : NodeId) (x : Node) : (s.setNd n x).defaultedU = s.defaultedU := rfl
@[simp] theorem State.setNd_strapNow (s : State) (n : NodeId) (x : Node) : (s.setNd n x).strapNow = s.strapNow := rfl
@[simp] theorem State.setNd_strapChg (s : State) (n : NodeId) (x : Node) : (s.setNd n x).strapChg = s.strapChg := rfl
@[simp] theorem State.setNd_fullPinAt (s : State) (n : NodeId) (x : Node) : (s.setNd n x).fullPinAt = s.fullPinAt := rfl
@[simp] theorem State.setNd_homeMap (s : State) (n : NodeId) (x : Node) : (s.setNd n x).homeMap = s.homeMap := rfl
@[simp] theorem State.setNd_mpMap (s : State) (n : NodeId) (x : Node) : (s.setNd n x).mpMap = s.mpMap := rfl
@[simp] theorem State.setNd_hp (s : State) (n : NodeId) (x : Node) : (s.setNd n x).hp = s.hp := rfl
@[simp] theorem State.setNd_mp (s : State) (n : NodeId) (x : Node) : (s.setNd n x).mp = s.mp := rfl
@[simp] theorem State.setNd_sess (s : State) (n : NodeId) (x : Node) : (s.setNd n x).sess = s.sess := rfl
@[simp] theorem State.setNd_quad (s : State) (n : NodeId) (x : Node) : (s.setNd n x).quad = s.quad := rfl
@[simp] theorem State.setNd_chv (s : State) (n : NodeId) (x : Node) : (s.setNd n x).chv = s.chv := rfl
@[simp] theorem State.setNd_xlt (s : State) (n : NodeId) (x : Node) : (s.setNd n x).xlt = s.xlt := rfl
@[simp] theorem State.setNd_chan (s : State) (n : NodeId) (x : Node) : (s.setNd n x).chan = s.chan := rfl
@[simp] theorem State.setNd_bmem (s : State) (n : NodeId) (x : Node) : (s.setNd n x).bmem = s.bmem := rfl
@[simp] theorem State.setNd_bm (s : State) (n : NodeId) (x : Node) : (s.setNd n x).bm = s.bm := rfl
@[simp] theorem State.setNd_store (s : State) (n : NodeId) (x : Node) : (s.setNd n x).store = s.store := rfl
@[simp] theorem State.setNd_pageBuf (s : State) (n : NodeId) (x : Node) : (s.setNd n x).pageBuf = s.pageBuf := rfl
@[simp] theorem State.setNd_psCmd (s : State) (n : NodeId) (x : Node) : (s.setNd n x).psCmd = s.psCmd := rfl
@[simp] theorem State.setNd_storeProt (s : State) (n : NodeId) (x : Node) : (s.setNd n x).storeProt = s.storeProt := rfl
@[simp] theorem State.setNd_fuse (s : State) (n : NodeId) (x : Node) : (s.setNd n x).fuse = s.fuse := rfl
@[simp] theorem State.setNd_fusePgm (s : State) (n : NodeId) (x : Node) : (s.setNd n x).fusePgm = s.fusePgm := rfl
@[simp] theorem State.setNd_fuseRd (s : State) (n : NodeId) (x : Node) : (s.setNd n x).fuseRd = s.fuseRd := rfl
@[simp] theorem State.setNd_fuseTodo (s : State) (n : NodeId) (x : Node) : (s.setNd n x).fuseTodo = s.fuseTodo := rfl
@[simp] theorem State.setNd_evq (s : State) (n : NodeId) (x : Node) : (s.setNd n x).evq = s.evq := rfl
@[simp] theorem State.setNd_evDrops (s : State) (n : NodeId) (x : Node) : (s.setNd n x).evDrops = s.evDrops := rfl
@[simp] theorem State.setNd_evSeq (s : State) (n : NodeId) (x : Node) : (s.setNd n x).evSeq = s.evSeq := rfl
@[simp] theorem State.setNd_evSince (s : State) (n : NodeId) (x : Node) : (s.setNd n x).evSince = s.evSince := rfl
@[simp] theorem State.setNd_evBeats (s : State) (n : NodeId) (x : Node) : (s.setNd n x).evBeats = s.evBeats := rfl
@[simp] theorem State.setNd_meas (s : State) (n : NodeId) (x : Node) : (s.setNd n x).meas = s.meas := rfl
@[simp] theorem State.setNd_tar (s : State) (n : NodeId) (x : Node) : (s.setNd n x).tar = s.tar := rfl
@[simp] theorem State.setNd_pmc (s : State) (n : NodeId) (x : Node) : (s.setNd n x).pmc = s.pmc := rfl
@[simp] theorem State.setNd_pmcBusyTo (s : State) (n : NodeId) (x : Node) : (s.setNd n x).pmcBusyTo = s.pmcBusyTo := rfl
@[simp] theorem State.setNd_romRst (s : State) (n : NodeId) (x : Node) : (s.setNd n x).romRst = s.romRst := rfl
@[simp] theorem State.setNd_bootCopied (s : State) (n : NodeId) (x : Node) : (s.setNd n x).bootCopied = s.bootCopied := rfl
@[simp] theorem State.setNd_queues (s : State) (n : NodeId) (x : Node) : (s.setNd n x).queues = s.queues := rfl
@[simp] theorem State.setNd_rout (s : State) (n : NodeId) (x : Node) : (s.setNd n x).rout = s.rout := rfl
@[simp] theorem State.setNd_rotLast (s : State) (n : NodeId) (x : Node) : (s.setNd n x).rotLast = s.rotLast := rfl
@[simp] theorem State.setNd_shellAck (s : State) (n : NodeId) (x : Node) : (s.setNd n x).shellAck = s.shellAck := rfl
@[simp] theorem State.setNd_cfg (s : State) (n : NodeId) (x : Node) : (s.setNd n x).cfg = s.cfg := rfl
@[simp] theorem State.setNd_epAcc (s : State) (n : NodeId) (x : Node) : (s.setNd n x).epAcc = s.epAcc := rfl
@[simp] theorem State.setNd_epAt (s : State) (n : NodeId) (x : Node) : (s.setNd n x).epAt = s.epAt := rfl
@[simp] theorem State.setNd_epMaps (s : State) (n : NodeId) (x : Node) : (s.setNd n x).epMaps = s.epMaps := rfl
@[simp] theorem State.setNd_epSink (s : State) (n : NodeId) (x : Node) : (s.setNd n x).epSink = s.epSink := rfl
@[simp] theorem State.setNd_pwrFail (s : State) (n : NodeId) (x : Node) : (s.setNd n x).pwrFail = s.pwrFail := rfl
@[simp] theorem State.setNd_prior (s : State) (n : NodeId) (x : Node) : (s.setNd n x).prior = s.prior := rfl
@[simp] theorem State.setNd_holdAt (s : State) (n : NodeId) (x : Node) : (s.setNd n x).holdAt = s.holdAt := rfl
@[simp] theorem State.setNd_released (s : State) (n : NodeId) (x : Node) : (s.setNd n x).released = s.released := rfl
@[simp] theorem State.setNd_hourTicks (s : State) (n : NodeId) (x : Node) : (s.setNd n x).hourTicks = s.hourTicks := rfl
@[simp] theorem State.setNd_wdogAt (s : State) (n : NodeId) (x : Node) : (s.setNd n x).wdogAt = s.wdogAt := rfl
@[simp] theorem State.setNd_flushAt (s : State) (n : NodeId) (x : Node) : (s.setNd n x).flushAt = s.flushAt := rfl
@[simp] theorem State.setNd_timerAt (s : State) (n : NodeId) (x : Node) : (s.setNd n x).timerAt = s.timerAt := rfl
@[simp] theorem State.setNd_flushTags (s : State) (n : NodeId) (x : Node) : (s.setNd n x).flushTags = s.flushTags := rfl
@[simp] theorem State.setNd_map (s : State) (n : NodeId) (x : Node) : (s.setNd n x).map = s.map := rfl
@[simp] theorem State.setNd_hard (s : State) (n : NodeId) (x : Node) : (s.setNd n x).hard = s.hard := rfl
@[simp] theorem State.setNd_st (s : State) (n : NodeId) (x : Node) : (s.setNd n x).st = s.st := rfl
@[simp] theorem State.setNd_xltCmd (s : State) (n : NodeId) (x : Node) : (s.setNd n x).xltCmd = s.xltCmd := rfl
@[simp] theorem State.setNd_dbgLatch (s : State) (n : NodeId) (x : Node) : (s.setNd n x).dbgLatch = s.dbgLatch := rfl
@[simp] theorem State.setNd_dbgHeld (s : State) (n : NodeId) (x : Node) : (s.setNd n x).dbgHeld = s.dbgHeld := rfl
@[simp] theorem State.setNd_scrubPos (s : State) (n : NodeId) (x : Node) : (s.setNd n x).scrubPos = s.scrubPos := rfl
@[simp] theorem State.setNd_hwRep (s : State) (n : NodeId) (x : Node) : (s.setNd n x).hwRep = s.hwRep := rfl
@[simp] theorem State.setNd_late (s : State) (n : NodeId) (x : Node) : (s.setNd n x).late = s.late := rfl
@[simp] theorem State.setNd_survSyn (s : State) (n : NodeId) (x : Node) : (s.setNd n x).survSyn = s.survSyn := rfl
@[simp] theorem State.setNd_romSyn (s : State) (n : NodeId) (x : Node) : (s.setNd n x).romSyn = s.romSyn := rfl
@[simp] theorem State.setNd_mbStage (s : State) (n : NodeId) (x : Node) : (s.setNd n x).mbStage = s.mbStage := rfl
@[simp] theorem State.setNd_chvTodo (s : State) (n : NodeId) (x : Node) : (s.setNd n x).chvTodo = s.chvTodo := rfl

@[simp] theorem State.setQd_pending (s : State) (k : QuadId) (x : Quad) : (s.setQd k x).pending = s.pending := rfl
@[simp] theorem State.setQd_time (s : State) (k : QuadId) (x : Quad) : (s.setQd k x).time = s.time := rfl
@[simp] theorem State.setQd_tmo (s : State) (k : QuadId) (x : Quad) : (s.setQd k x).tmo = s.tmo := rfl
@[simp] theorem State.setQd_reftickOk (s : State) (k : QuadId) (x : Quad) : (s.setQd k x).reftickOk = s.reftickOk := rfl
@[simp] theorem State.setQd_free (s : State) (k : QuadId) (x : Quad) : (s.setQd k x).free = s.free := rfl
@[simp] theorem State.setQd_mode (s : State) (k : QuadId) (x : Quad) : (s.setQd k x).mode = s.mode := rfl
@[simp] theorem State.setQd_regs (s : State) (k : QuadId) (x : Quad) : (s.setQd k x).regs = s.regs := rfl
@[simp] theorem State.setQd_pins (s : State) (k : QuadId) (x : Quad) : (s.setQd k x).pins = s.pins := rfl
@[simp] theorem State.setQd_defaulted (s : State) (k : QuadId) (x : Quad) : (s.setQd k x).defaulted = s.defaulted := rfl
@[simp] theorem State.setQd_defaultedU (s : State) (k : QuadId) (x : Quad) : (s.setQd k x).defaultedU = s.defaultedU := rfl
@[simp] theorem State.setQd_strapNow (s : State) (k : QuadId) (x : Quad) : (s.setQd k x).strapNow = s.strapNow := rfl
@[simp] theorem State.setQd_strapChg (s : State) (k : QuadId) (x : Quad) : (s.setQd k x).strapChg = s.strapChg := rfl
@[simp] theorem State.setQd_fullPinAt (s : State) (k : QuadId) (x : Quad) : (s.setQd k x).fullPinAt = s.fullPinAt := rfl
@[simp] theorem State.setQd_homeMap (s : State) (k : QuadId) (x : Quad) : (s.setQd k x).homeMap = s.homeMap := rfl
@[simp] theorem State.setQd_mpMap (s : State) (k : QuadId) (x : Quad) : (s.setQd k x).mpMap = s.mpMap := rfl
@[simp] theorem State.setQd_hp (s : State) (k : QuadId) (x : Quad) : (s.setQd k x).hp = s.hp := rfl
@[simp] theorem State.setQd_mp (s : State) (k : QuadId) (x : Quad) : (s.setQd k x).mp = s.mp := rfl
@[simp] theorem State.setQd_sess (s : State) (k : QuadId) (x : Quad) : (s.setQd k x).sess = s.sess := rfl
@[simp] theorem State.setQd_node (s : State) (k : QuadId) (x : Quad) : (s.setQd k x).node = s.node := rfl
@[simp] theorem State.setQd_chv (s : State) (k : QuadId) (x : Quad) : (s.setQd k x).chv = s.chv := rfl
@[simp] theorem State.setQd_xlt (s : State) (k : QuadId) (x : Quad) : (s.setQd k x).xlt = s.xlt := rfl
@[simp] theorem State.setQd_chan (s : State) (k : QuadId) (x : Quad) : (s.setQd k x).chan = s.chan := rfl
@[simp] theorem State.setQd_bmem (s : State) (k : QuadId) (x : Quad) : (s.setQd k x).bmem = s.bmem := rfl
@[simp] theorem State.setQd_bm (s : State) (k : QuadId) (x : Quad) : (s.setQd k x).bm = s.bm := rfl
@[simp] theorem State.setQd_store (s : State) (k : QuadId) (x : Quad) : (s.setQd k x).store = s.store := rfl
@[simp] theorem State.setQd_pageBuf (s : State) (k : QuadId) (x : Quad) : (s.setQd k x).pageBuf = s.pageBuf := rfl
@[simp] theorem State.setQd_psCmd (s : State) (k : QuadId) (x : Quad) : (s.setQd k x).psCmd = s.psCmd := rfl
@[simp] theorem State.setQd_storeProt (s : State) (k : QuadId) (x : Quad) : (s.setQd k x).storeProt = s.storeProt := rfl
@[simp] theorem State.setQd_fuse (s : State) (k : QuadId) (x : Quad) : (s.setQd k x).fuse = s.fuse := rfl
@[simp] theorem State.setQd_fusePgm (s : State) (k : QuadId) (x : Quad) : (s.setQd k x).fusePgm = s.fusePgm := rfl
@[simp] theorem State.setQd_fuseRd (s : State) (k : QuadId) (x : Quad) : (s.setQd k x).fuseRd = s.fuseRd := rfl
@[simp] theorem State.setQd_fuseTodo (s : State) (k : QuadId) (x : Quad) : (s.setQd k x).fuseTodo = s.fuseTodo := rfl
@[simp] theorem State.setQd_evq (s : State) (k : QuadId) (x : Quad) : (s.setQd k x).evq = s.evq := rfl
@[simp] theorem State.setQd_evDrops (s : State) (k : QuadId) (x : Quad) : (s.setQd k x).evDrops = s.evDrops := rfl
@[simp] theorem State.setQd_evSeq (s : State) (k : QuadId) (x : Quad) : (s.setQd k x).evSeq = s.evSeq := rfl
@[simp] theorem State.setQd_evSince (s : State) (k : QuadId) (x : Quad) : (s.setQd k x).evSince = s.evSince := rfl
@[simp] theorem State.setQd_evBeats (s : State) (k : QuadId) (x : Quad) : (s.setQd k x).evBeats = s.evBeats := rfl
@[simp] theorem State.setQd_meas (s : State) (k : QuadId) (x : Quad) : (s.setQd k x).meas = s.meas := rfl
@[simp] theorem State.setQd_tar (s : State) (k : QuadId) (x : Quad) : (s.setQd k x).tar = s.tar := rfl
@[simp] theorem State.setQd_pmc (s : State) (k : QuadId) (x : Quad) : (s.setQd k x).pmc = s.pmc := rfl
@[simp] theorem State.setQd_pmcBusyTo (s : State) (k : QuadId) (x : Quad) : (s.setQd k x).pmcBusyTo = s.pmcBusyTo := rfl
@[simp] theorem State.setQd_romRst (s : State) (k : QuadId) (x : Quad) : (s.setQd k x).romRst = s.romRst := rfl
@[simp] theorem State.setQd_bootCopied (s : State) (k : QuadId) (x : Quad) : (s.setQd k x).bootCopied = s.bootCopied := rfl
@[simp] theorem State.setQd_queues (s : State) (k : QuadId) (x : Quad) : (s.setQd k x).queues = s.queues := rfl
@[simp] theorem State.setQd_rout (s : State) (k : QuadId) (x : Quad) : (s.setQd k x).rout = s.rout := rfl
@[simp] theorem State.setQd_rotLast (s : State) (k : QuadId) (x : Quad) : (s.setQd k x).rotLast = s.rotLast := rfl
@[simp] theorem State.setQd_shellAck (s : State) (k : QuadId) (x : Quad) : (s.setQd k x).shellAck = s.shellAck := rfl
@[simp] theorem State.setQd_cfg (s : State) (k : QuadId) (x : Quad) : (s.setQd k x).cfg = s.cfg := rfl
@[simp] theorem State.setQd_epAcc (s : State) (k : QuadId) (x : Quad) : (s.setQd k x).epAcc = s.epAcc := rfl
@[simp] theorem State.setQd_epAt (s : State) (k : QuadId) (x : Quad) : (s.setQd k x).epAt = s.epAt := rfl
@[simp] theorem State.setQd_epMaps (s : State) (k : QuadId) (x : Quad) : (s.setQd k x).epMaps = s.epMaps := rfl
@[simp] theorem State.setQd_epSink (s : State) (k : QuadId) (x : Quad) : (s.setQd k x).epSink = s.epSink := rfl
@[simp] theorem State.setQd_pwrFail (s : State) (k : QuadId) (x : Quad) : (s.setQd k x).pwrFail = s.pwrFail := rfl
@[simp] theorem State.setQd_prior (s : State) (k : QuadId) (x : Quad) : (s.setQd k x).prior = s.prior := rfl
@[simp] theorem State.setQd_holdAt (s : State) (k : QuadId) (x : Quad) : (s.setQd k x).holdAt = s.holdAt := rfl
@[simp] theorem State.setQd_released (s : State) (k : QuadId) (x : Quad) : (s.setQd k x).released = s.released := rfl
@[simp] theorem State.setQd_hourTicks (s : State) (k : QuadId) (x : Quad) : (s.setQd k x).hourTicks = s.hourTicks := rfl
@[simp] theorem State.setQd_wdogAt (s : State) (k : QuadId) (x : Quad) : (s.setQd k x).wdogAt = s.wdogAt := rfl
@[simp] theorem State.setQd_flushAt (s : State) (k : QuadId) (x : Quad) : (s.setQd k x).flushAt = s.flushAt := rfl
@[simp] theorem State.setQd_timerAt (s : State) (k : QuadId) (x : Quad) : (s.setQd k x).timerAt = s.timerAt := rfl
@[simp] theorem State.setQd_flushTags (s : State) (k : QuadId) (x : Quad) : (s.setQd k x).flushTags = s.flushTags := rfl
@[simp] theorem State.setQd_map (s : State) (k : QuadId) (x : Quad) : (s.setQd k x).map = s.map := rfl
@[simp] theorem State.setQd_hard (s : State) (k : QuadId) (x : Quad) : (s.setQd k x).hard = s.hard := rfl
@[simp] theorem State.setQd_st (s : State) (k : QuadId) (x : Quad) : (s.setQd k x).st = s.st := rfl
@[simp] theorem State.setQd_xltCmd (s : State) (k : QuadId) (x : Quad) : (s.setQd k x).xltCmd = s.xltCmd := rfl
@[simp] theorem State.setQd_dbgLatch (s : State) (k : QuadId) (x : Quad) : (s.setQd k x).dbgLatch = s.dbgLatch := rfl
@[simp] theorem State.setQd_dbgHeld (s : State) (k : QuadId) (x : Quad) : (s.setQd k x).dbgHeld = s.dbgHeld := rfl
@[simp] theorem State.setQd_scrubPos (s : State) (k : QuadId) (x : Quad) : (s.setQd k x).scrubPos = s.scrubPos := rfl
@[simp] theorem State.setQd_hwRep (s : State) (k : QuadId) (x : Quad) : (s.setQd k x).hwRep = s.hwRep := rfl
@[simp] theorem State.setQd_late (s : State) (k : QuadId) (x : Quad) : (s.setQd k x).late = s.late := rfl
@[simp] theorem State.setQd_survSyn (s : State) (k : QuadId) (x : Quad) : (s.setQd k x).survSyn = s.survSyn := rfl
@[simp] theorem State.setQd_romSyn (s : State) (k : QuadId) (x : Quad) : (s.setQd k x).romSyn = s.romSyn := rfl
@[simp] theorem State.setQd_mbStage (s : State) (k : QuadId) (x : Quad) : (s.setQd k x).mbStage = s.mbStage := rfl
@[simp] theorem State.setQd_chvTodo (s : State) (k : QuadId) (x : Quad) : (s.setQd k x).chvTodo = s.chvTodo := rfl

@[simp] theorem State.setSes_pending (s : State) (h : Nat) (x : Session) : (s.setSes h x).pending = s.pending := rfl
@[simp] theorem State.setSes_time (s : State) (h : Nat) (x : Session) : (s.setSes h x).time = s.time := rfl
@[simp] theorem State.setSes_tmo (s : State) (h : Nat) (x : Session) : (s.setSes h x).tmo = s.tmo := rfl
@[simp] theorem State.setSes_reftickOk (s : State) (h : Nat) (x : Session) : (s.setSes h x).reftickOk = s.reftickOk := rfl
@[simp] theorem State.setSes_free (s : State) (h : Nat) (x : Session) : (s.setSes h x).free = s.free := rfl
@[simp] theorem State.setSes_mode (s : State) (h : Nat) (x : Session) : (s.setSes h x).mode = s.mode := rfl
@[simp] theorem State.setSes_regs (s : State) (h : Nat) (x : Session) : (s.setSes h x).regs = s.regs := rfl
@[simp] theorem State.setSes_pins (s : State) (h : Nat) (x : Session) : (s.setSes h x).pins = s.pins := rfl
@[simp] theorem State.setSes_defaulted (s : State) (h : Nat) (x : Session) : (s.setSes h x).defaulted = s.defaulted := rfl
@[simp] theorem State.setSes_defaultedU (s : State) (h : Nat) (x : Session) : (s.setSes h x).defaultedU = s.defaultedU := rfl
@[simp] theorem State.setSes_strapNow (s : State) (h : Nat) (x : Session) : (s.setSes h x).strapNow = s.strapNow := rfl
@[simp] theorem State.setSes_strapChg (s : State) (h : Nat) (x : Session) : (s.setSes h x).strapChg = s.strapChg := rfl
@[simp] theorem State.setSes_fullPinAt (s : State) (h : Nat) (x : Session) : (s.setSes h x).fullPinAt = s.fullPinAt := rfl
@[simp] theorem State.setSes_homeMap (s : State) (h : Nat) (x : Session) : (s.setSes h x).homeMap = s.homeMap := rfl
@[simp] theorem State.setSes_mpMap (s : State) (h : Nat) (x : Session) : (s.setSes h x).mpMap = s.mpMap := rfl
@[simp] theorem State.setSes_hp (s : State) (h : Nat) (x : Session) : (s.setSes h x).hp = s.hp := rfl
@[simp] theorem State.setSes_mp (s : State) (h : Nat) (x : Session) : (s.setSes h x).mp = s.mp := rfl
@[simp] theorem State.setSes_node (s : State) (h : Nat) (x : Session) : (s.setSes h x).node = s.node := rfl
@[simp] theorem State.setSes_quad (s : State) (h : Nat) (x : Session) : (s.setSes h x).quad = s.quad := rfl
@[simp] theorem State.setSes_chv (s : State) (h : Nat) (x : Session) : (s.setSes h x).chv = s.chv := rfl
@[simp] theorem State.setSes_xlt (s : State) (h : Nat) (x : Session) : (s.setSes h x).xlt = s.xlt := rfl
@[simp] theorem State.setSes_chan (s : State) (h : Nat) (x : Session) : (s.setSes h x).chan = s.chan := rfl
@[simp] theorem State.setSes_bmem (s : State) (h : Nat) (x : Session) : (s.setSes h x).bmem = s.bmem := rfl
@[simp] theorem State.setSes_bm (s : State) (h : Nat) (x : Session) : (s.setSes h x).bm = s.bm := rfl
@[simp] theorem State.setSes_store (s : State) (h : Nat) (x : Session) : (s.setSes h x).store = s.store := rfl
@[simp] theorem State.setSes_pageBuf (s : State) (h : Nat) (x : Session) : (s.setSes h x).pageBuf = s.pageBuf := rfl
@[simp] theorem State.setSes_psCmd (s : State) (h : Nat) (x : Session) : (s.setSes h x).psCmd = s.psCmd := rfl
@[simp] theorem State.setSes_storeProt (s : State) (h : Nat) (x : Session) : (s.setSes h x).storeProt = s.storeProt := rfl
@[simp] theorem State.setSes_fuse (s : State) (h : Nat) (x : Session) : (s.setSes h x).fuse = s.fuse := rfl
@[simp] theorem State.setSes_fusePgm (s : State) (h : Nat) (x : Session) : (s.setSes h x).fusePgm = s.fusePgm := rfl
@[simp] theorem State.setSes_fuseRd (s : State) (h : Nat) (x : Session) : (s.setSes h x).fuseRd = s.fuseRd := rfl
@[simp] theorem State.setSes_fuseTodo (s : State) (h : Nat) (x : Session) : (s.setSes h x).fuseTodo = s.fuseTodo := rfl
@[simp] theorem State.setSes_evq (s : State) (h : Nat) (x : Session) : (s.setSes h x).evq = s.evq := rfl
@[simp] theorem State.setSes_evDrops (s : State) (h : Nat) (x : Session) : (s.setSes h x).evDrops = s.evDrops := rfl
@[simp] theorem State.setSes_evSeq (s : State) (h : Nat) (x : Session) : (s.setSes h x).evSeq = s.evSeq := rfl
@[simp] theorem State.setSes_evSince (s : State) (h : Nat) (x : Session) : (s.setSes h x).evSince = s.evSince := rfl
@[simp] theorem State.setSes_evBeats (s : State) (h : Nat) (x : Session) : (s.setSes h x).evBeats = s.evBeats := rfl
@[simp] theorem State.setSes_meas (s : State) (h : Nat) (x : Session) : (s.setSes h x).meas = s.meas := rfl
@[simp] theorem State.setSes_tar (s : State) (h : Nat) (x : Session) : (s.setSes h x).tar = s.tar := rfl
@[simp] theorem State.setSes_pmc (s : State) (h : Nat) (x : Session) : (s.setSes h x).pmc = s.pmc := rfl
@[simp] theorem State.setSes_pmcBusyTo (s : State) (h : Nat) (x : Session) : (s.setSes h x).pmcBusyTo = s.pmcBusyTo := rfl
@[simp] theorem State.setSes_romRst (s : State) (h : Nat) (x : Session) : (s.setSes h x).romRst = s.romRst := rfl
@[simp] theorem State.setSes_bootCopied (s : State) (h : Nat) (x : Session) : (s.setSes h x).bootCopied = s.bootCopied := rfl
@[simp] theorem State.setSes_queues (s : State) (h : Nat) (x : Session) : (s.setSes h x).queues = s.queues := rfl
@[simp] theorem State.setSes_rout (s : State) (h : Nat) (x : Session) : (s.setSes h x).rout = s.rout := rfl
@[simp] theorem State.setSes_rotLast (s : State) (h : Nat) (x : Session) : (s.setSes h x).rotLast = s.rotLast := rfl
@[simp] theorem State.setSes_shellAck (s : State) (h : Nat) (x : Session) : (s.setSes h x).shellAck = s.shellAck := rfl
@[simp] theorem State.setSes_cfg (s : State) (h : Nat) (x : Session) : (s.setSes h x).cfg = s.cfg := rfl
@[simp] theorem State.setSes_epAcc (s : State) (h : Nat) (x : Session) : (s.setSes h x).epAcc = s.epAcc := rfl
@[simp] theorem State.setSes_epAt (s : State) (h : Nat) (x : Session) : (s.setSes h x).epAt = s.epAt := rfl
@[simp] theorem State.setSes_epMaps (s : State) (h : Nat) (x : Session) : (s.setSes h x).epMaps = s.epMaps := rfl
@[simp] theorem State.setSes_epSink (s : State) (h : Nat) (x : Session) : (s.setSes h x).epSink = s.epSink := rfl
@[simp] theorem State.setSes_pwrFail (s : State) (h : Nat) (x : Session) : (s.setSes h x).pwrFail = s.pwrFail := rfl
@[simp] theorem State.setSes_prior (s : State) (h : Nat) (x : Session) : (s.setSes h x).prior = s.prior := rfl
@[simp] theorem State.setSes_holdAt (s : State) (h : Nat) (x : Session) : (s.setSes h x).holdAt = s.holdAt := rfl
@[simp] theorem State.setSes_released (s : State) (h : Nat) (x : Session) : (s.setSes h x).released = s.released := rfl
@[simp] theorem State.setSes_hourTicks (s : State) (h : Nat) (x : Session) : (s.setSes h x).hourTicks = s.hourTicks := rfl
@[simp] theorem State.setSes_wdogAt (s : State) (h : Nat) (x : Session) : (s.setSes h x).wdogAt = s.wdogAt := rfl
@[simp] theorem State.setSes_flushAt (s : State) (h : Nat) (x : Session) : (s.setSes h x).flushAt = s.flushAt := rfl
@[simp] theorem State.setSes_timerAt (s : State) (h : Nat) (x : Session) : (s.setSes h x).timerAt = s.timerAt := rfl
@[simp] theorem State.setSes_flushTags (s : State) (h : Nat) (x : Session) : (s.setSes h x).flushTags = s.flushTags := rfl
@[simp] theorem State.setSes_map (s : State) (h : Nat) (x : Session) : (s.setSes h x).map = s.map := rfl
@[simp] theorem State.setSes_hard (s : State) (h : Nat) (x : Session) : (s.setSes h x).hard = s.hard := rfl
@[simp] theorem State.setSes_st (s : State) (h : Nat) (x : Session) : (s.setSes h x).st = s.st := rfl
@[simp] theorem State.setSes_xltCmd (s : State) (h : Nat) (x : Session) : (s.setSes h x).xltCmd = s.xltCmd := rfl
@[simp] theorem State.setSes_dbgLatch (s : State) (h : Nat) (x : Session) : (s.setSes h x).dbgLatch = s.dbgLatch := rfl
@[simp] theorem State.setSes_dbgHeld (s : State) (h : Nat) (x : Session) : (s.setSes h x).dbgHeld = s.dbgHeld := rfl
@[simp] theorem State.setSes_scrubPos (s : State) (h : Nat) (x : Session) : (s.setSes h x).scrubPos = s.scrubPos := rfl
@[simp] theorem State.setSes_hwRep (s : State) (h : Nat) (x : Session) : (s.setSes h x).hwRep = s.hwRep := rfl
@[simp] theorem State.setSes_late (s : State) (h : Nat) (x : Session) : (s.setSes h x).late = s.late := rfl
@[simp] theorem State.setSes_survSyn (s : State) (h : Nat) (x : Session) : (s.setSes h x).survSyn = s.survSyn := rfl
@[simp] theorem State.setSes_romSyn (s : State) (h : Nat) (x : Session) : (s.setSes h x).romSyn = s.romSyn := rfl
@[simp] theorem State.setSes_mbStage (s : State) (h : Nat) (x : Session) : (s.setSes h x).mbStage = s.mbStage := rfl
@[simp] theorem State.setSes_chvTodo (s : State) (h : Nat) (x : Session) : (s.setSes h x).chvTodo = s.chvTodo := rfl

@[simp] theorem State.setCh_pending (s : State) (c : ChanId) (x : Chan) : (s.setCh c x).pending = s.pending := rfl
@[simp] theorem State.setCh_time (s : State) (c : ChanId) (x : Chan) : (s.setCh c x).time = s.time := rfl
@[simp] theorem State.setCh_tmo (s : State) (c : ChanId) (x : Chan) : (s.setCh c x).tmo = s.tmo := rfl
@[simp] theorem State.setCh_reftickOk (s : State) (c : ChanId) (x : Chan) : (s.setCh c x).reftickOk = s.reftickOk := rfl
@[simp] theorem State.setCh_free (s : State) (c : ChanId) (x : Chan) : (s.setCh c x).free = s.free := rfl
@[simp] theorem State.setCh_mode (s : State) (c : ChanId) (x : Chan) : (s.setCh c x).mode = s.mode := rfl
@[simp] theorem State.setCh_regs (s : State) (c : ChanId) (x : Chan) : (s.setCh c x).regs = s.regs := rfl
@[simp] theorem State.setCh_pins (s : State) (c : ChanId) (x : Chan) : (s.setCh c x).pins = s.pins := rfl
@[simp] theorem State.setCh_defaulted (s : State) (c : ChanId) (x : Chan) : (s.setCh c x).defaulted = s.defaulted := rfl
@[simp] theorem State.setCh_defaultedU (s : State) (c : ChanId) (x : Chan) : (s.setCh c x).defaultedU = s.defaultedU := rfl
@[simp] theorem State.setCh_strapNow (s : State) (c : ChanId) (x : Chan) : (s.setCh c x).strapNow = s.strapNow := rfl
@[simp] theorem State.setCh_strapChg (s : State) (c : ChanId) (x : Chan) : (s.setCh c x).strapChg = s.strapChg := rfl
@[simp] theorem State.setCh_fullPinAt (s : State) (c : ChanId) (x : Chan) : (s.setCh c x).fullPinAt = s.fullPinAt := rfl
@[simp] theorem State.setCh_homeMap (s : State) (c : ChanId) (x : Chan) : (s.setCh c x).homeMap = s.homeMap := rfl
@[simp] theorem State.setCh_mpMap (s : State) (c : ChanId) (x : Chan) : (s.setCh c x).mpMap = s.mpMap := rfl
@[simp] theorem State.setCh_hp (s : State) (c : ChanId) (x : Chan) : (s.setCh c x).hp = s.hp := rfl
@[simp] theorem State.setCh_mp (s : State) (c : ChanId) (x : Chan) : (s.setCh c x).mp = s.mp := rfl
@[simp] theorem State.setCh_sess (s : State) (c : ChanId) (x : Chan) : (s.setCh c x).sess = s.sess := rfl
@[simp] theorem State.setCh_node (s : State) (c : ChanId) (x : Chan) : (s.setCh c x).node = s.node := rfl
@[simp] theorem State.setCh_quad (s : State) (c : ChanId) (x : Chan) : (s.setCh c x).quad = s.quad := rfl
@[simp] theorem State.setCh_chv (s : State) (c : ChanId) (x : Chan) : (s.setCh c x).chv = s.chv := rfl
@[simp] theorem State.setCh_xlt (s : State) (c : ChanId) (x : Chan) : (s.setCh c x).xlt = s.xlt := rfl
@[simp] theorem State.setCh_bmem (s : State) (c : ChanId) (x : Chan) : (s.setCh c x).bmem = s.bmem := rfl
@[simp] theorem State.setCh_bm (s : State) (c : ChanId) (x : Chan) : (s.setCh c x).bm = s.bm := rfl
@[simp] theorem State.setCh_store (s : State) (c : ChanId) (x : Chan) : (s.setCh c x).store = s.store := rfl
@[simp] theorem State.setCh_pageBuf (s : State) (c : ChanId) (x : Chan) : (s.setCh c x).pageBuf = s.pageBuf := rfl
@[simp] theorem State.setCh_psCmd (s : State) (c : ChanId) (x : Chan) : (s.setCh c x).psCmd = s.psCmd := rfl
@[simp] theorem State.setCh_storeProt (s : State) (c : ChanId) (x : Chan) : (s.setCh c x).storeProt = s.storeProt := rfl
@[simp] theorem State.setCh_fuse (s : State) (c : ChanId) (x : Chan) : (s.setCh c x).fuse = s.fuse := rfl
@[simp] theorem State.setCh_fusePgm (s : State) (c : ChanId) (x : Chan) : (s.setCh c x).fusePgm = s.fusePgm := rfl
@[simp] theorem State.setCh_fuseRd (s : State) (c : ChanId) (x : Chan) : (s.setCh c x).fuseRd = s.fuseRd := rfl
@[simp] theorem State.setCh_fuseTodo (s : State) (c : ChanId) (x : Chan) : (s.setCh c x).fuseTodo = s.fuseTodo := rfl
@[simp] theorem State.setCh_evq (s : State) (c : ChanId) (x : Chan) : (s.setCh c x).evq = s.evq := rfl
@[simp] theorem State.setCh_evDrops (s : State) (c : ChanId) (x : Chan) : (s.setCh c x).evDrops = s.evDrops := rfl
@[simp] theorem State.setCh_evSeq (s : State) (c : ChanId) (x : Chan) : (s.setCh c x).evSeq = s.evSeq := rfl
@[simp] theorem State.setCh_evSince (s : State) (c : ChanId) (x : Chan) : (s.setCh c x).evSince = s.evSince := rfl
@[simp] theorem State.setCh_evBeats (s : State) (c : ChanId) (x : Chan) : (s.setCh c x).evBeats = s.evBeats := rfl
@[simp] theorem State.setCh_meas (s : State) (c : ChanId) (x : Chan) : (s.setCh c x).meas = s.meas := rfl
@[simp] theorem State.setCh_tar (s : State) (c : ChanId) (x : Chan) : (s.setCh c x).tar = s.tar := rfl
@[simp] theorem State.setCh_pmc (s : State) (c : ChanId) (x : Chan) : (s.setCh c x).pmc = s.pmc := rfl
@[simp] theorem State.setCh_pmcBusyTo (s : State) (c : ChanId) (x : Chan) : (s.setCh c x).pmcBusyTo = s.pmcBusyTo := rfl
@[simp] theorem State.setCh_romRst (s : State) (c : ChanId) (x : Chan) : (s.setCh c x).romRst = s.romRst := rfl
@[simp] theorem State.setCh_bootCopied (s : State) (c : ChanId) (x : Chan) : (s.setCh c x).bootCopied = s.bootCopied := rfl
@[simp] theorem State.setCh_queues (s : State) (c : ChanId) (x : Chan) : (s.setCh c x).queues = s.queues := rfl
@[simp] theorem State.setCh_rout (s : State) (c : ChanId) (x : Chan) : (s.setCh c x).rout = s.rout := rfl
@[simp] theorem State.setCh_rotLast (s : State) (c : ChanId) (x : Chan) : (s.setCh c x).rotLast = s.rotLast := rfl
@[simp] theorem State.setCh_shellAck (s : State) (c : ChanId) (x : Chan) : (s.setCh c x).shellAck = s.shellAck := rfl
@[simp] theorem State.setCh_cfg (s : State) (c : ChanId) (x : Chan) : (s.setCh c x).cfg = s.cfg := rfl
@[simp] theorem State.setCh_epAcc (s : State) (c : ChanId) (x : Chan) : (s.setCh c x).epAcc = s.epAcc := rfl
@[simp] theorem State.setCh_epAt (s : State) (c : ChanId) (x : Chan) : (s.setCh c x).epAt = s.epAt := rfl
@[simp] theorem State.setCh_epMaps (s : State) (c : ChanId) (x : Chan) : (s.setCh c x).epMaps = s.epMaps := rfl
@[simp] theorem State.setCh_epSink (s : State) (c : ChanId) (x : Chan) : (s.setCh c x).epSink = s.epSink := rfl
@[simp] theorem State.setCh_pwrFail (s : State) (c : ChanId) (x : Chan) : (s.setCh c x).pwrFail = s.pwrFail := rfl
@[simp] theorem State.setCh_prior (s : State) (c : ChanId) (x : Chan) : (s.setCh c x).prior = s.prior := rfl
@[simp] theorem State.setCh_holdAt (s : State) (c : ChanId) (x : Chan) : (s.setCh c x).holdAt = s.holdAt := rfl
@[simp] theorem State.setCh_released (s : State) (c : ChanId) (x : Chan) : (s.setCh c x).released = s.released := rfl
@[simp] theorem State.setCh_hourTicks (s : State) (c : ChanId) (x : Chan) : (s.setCh c x).hourTicks = s.hourTicks := rfl
@[simp] theorem State.setCh_wdogAt (s : State) (c : ChanId) (x : Chan) : (s.setCh c x).wdogAt = s.wdogAt := rfl
@[simp] theorem State.setCh_flushAt (s : State) (c : ChanId) (x : Chan) : (s.setCh c x).flushAt = s.flushAt := rfl
@[simp] theorem State.setCh_timerAt (s : State) (c : ChanId) (x : Chan) : (s.setCh c x).timerAt = s.timerAt := rfl
@[simp] theorem State.setCh_flushTags (s : State) (c : ChanId) (x : Chan) : (s.setCh c x).flushTags = s.flushTags := rfl
@[simp] theorem State.setCh_map (s : State) (c : ChanId) (x : Chan) : (s.setCh c x).map = s.map := rfl
@[simp] theorem State.setCh_hard (s : State) (c : ChanId) (x : Chan) : (s.setCh c x).hard = s.hard := rfl
@[simp] theorem State.setCh_st (s : State) (c : ChanId) (x : Chan) : (s.setCh c x).st = s.st := rfl
@[simp] theorem State.setCh_xltCmd (s : State) (c : ChanId) (x : Chan) : (s.setCh c x).xltCmd = s.xltCmd := rfl
@[simp] theorem State.setCh_dbgLatch (s : State) (c : ChanId) (x : Chan) : (s.setCh c x).dbgLatch = s.dbgLatch := rfl
@[simp] theorem State.setCh_dbgHeld (s : State) (c : ChanId) (x : Chan) : (s.setCh c x).dbgHeld = s.dbgHeld := rfl
@[simp] theorem State.setCh_scrubPos (s : State) (c : ChanId) (x : Chan) : (s.setCh c x).scrubPos = s.scrubPos := rfl
@[simp] theorem State.setCh_hwRep (s : State) (c : ChanId) (x : Chan) : (s.setCh c x).hwRep = s.hwRep := rfl
@[simp] theorem State.setCh_late (s : State) (c : ChanId) (x : Chan) : (s.setCh c x).late = s.late := rfl
@[simp] theorem State.setCh_survSyn (s : State) (c : ChanId) (x : Chan) : (s.setCh c x).survSyn = s.survSyn := rfl
@[simp] theorem State.setCh_romSyn (s : State) (c : ChanId) (x : Chan) : (s.setCh c x).romSyn = s.romSyn := rfl
@[simp] theorem State.setCh_mbStage (s : State) (c : ChanId) (x : Chan) : (s.setCh c x).mbStage = s.mbStage := rfl
@[simp] theorem State.setCh_chvTodo (s : State) (c : ChanId) (x : Chan) : (s.setCh c x).chvTodo = s.chvTodo := rfl

@[simp] theorem State.setMac_pending (s : State) (i : Nat) (x : Macro) : (s.setMac i x).pending = s.pending := rfl
@[simp] theorem State.setMac_time (s : State) (i : Nat) (x : Macro) : (s.setMac i x).time = s.time := rfl
@[simp] theorem State.setMac_tmo (s : State) (i : Nat) (x : Macro) : (s.setMac i x).tmo = s.tmo := rfl
@[simp] theorem State.setMac_reftickOk (s : State) (i : Nat) (x : Macro) : (s.setMac i x).reftickOk = s.reftickOk := rfl
@[simp] theorem State.setMac_free (s : State) (i : Nat) (x : Macro) : (s.setMac i x).free = s.free := rfl
@[simp] theorem State.setMac_mode (s : State) (i : Nat) (x : Macro) : (s.setMac i x).mode = s.mode := rfl
@[simp] theorem State.setMac_regs (s : State) (i : Nat) (x : Macro) : (s.setMac i x).regs = s.regs := rfl
@[simp] theorem State.setMac_pins (s : State) (i : Nat) (x : Macro) : (s.setMac i x).pins = s.pins := rfl
@[simp] theorem State.setMac_defaulted (s : State) (i : Nat) (x : Macro) : (s.setMac i x).defaulted = s.defaulted := rfl
@[simp] theorem State.setMac_defaultedU (s : State) (i : Nat) (x : Macro) : (s.setMac i x).defaultedU = s.defaultedU := rfl
@[simp] theorem State.setMac_strapNow (s : State) (i : Nat) (x : Macro) : (s.setMac i x).strapNow = s.strapNow := rfl
@[simp] theorem State.setMac_strapChg (s : State) (i : Nat) (x : Macro) : (s.setMac i x).strapChg = s.strapChg := rfl
@[simp] theorem State.setMac_fullPinAt (s : State) (i : Nat) (x : Macro) : (s.setMac i x).fullPinAt = s.fullPinAt := rfl
@[simp] theorem State.setMac_homeMap (s : State) (i : Nat) (x : Macro) : (s.setMac i x).homeMap = s.homeMap := rfl
@[simp] theorem State.setMac_mpMap (s : State) (i : Nat) (x : Macro) : (s.setMac i x).mpMap = s.mpMap := rfl
@[simp] theorem State.setMac_hp (s : State) (i : Nat) (x : Macro) : (s.setMac i x).hp = s.hp := rfl
@[simp] theorem State.setMac_mp (s : State) (i : Nat) (x : Macro) : (s.setMac i x).mp = s.mp := rfl
@[simp] theorem State.setMac_sess (s : State) (i : Nat) (x : Macro) : (s.setMac i x).sess = s.sess := rfl
@[simp] theorem State.setMac_node (s : State) (i : Nat) (x : Macro) : (s.setMac i x).node = s.node := rfl
@[simp] theorem State.setMac_quad (s : State) (i : Nat) (x : Macro) : (s.setMac i x).quad = s.quad := rfl
@[simp] theorem State.setMac_chv (s : State) (i : Nat) (x : Macro) : (s.setMac i x).chv = s.chv := rfl
@[simp] theorem State.setMac_chan (s : State) (i : Nat) (x : Macro) : (s.setMac i x).chan = s.chan := rfl
@[simp] theorem State.setMac_bmem (s : State) (i : Nat) (x : Macro) : (s.setMac i x).bmem = s.bmem := rfl
@[simp] theorem State.setMac_bm (s : State) (i : Nat) (x : Macro) : (s.setMac i x).bm = s.bm := rfl
@[simp] theorem State.setMac_store (s : State) (i : Nat) (x : Macro) : (s.setMac i x).store = s.store := rfl
@[simp] theorem State.setMac_pageBuf (s : State) (i : Nat) (x : Macro) : (s.setMac i x).pageBuf = s.pageBuf := rfl
@[simp] theorem State.setMac_psCmd (s : State) (i : Nat) (x : Macro) : (s.setMac i x).psCmd = s.psCmd := rfl
@[simp] theorem State.setMac_storeProt (s : State) (i : Nat) (x : Macro) : (s.setMac i x).storeProt = s.storeProt := rfl
@[simp] theorem State.setMac_fuse (s : State) (i : Nat) (x : Macro) : (s.setMac i x).fuse = s.fuse := rfl
@[simp] theorem State.setMac_fusePgm (s : State) (i : Nat) (x : Macro) : (s.setMac i x).fusePgm = s.fusePgm := rfl
@[simp] theorem State.setMac_fuseRd (s : State) (i : Nat) (x : Macro) : (s.setMac i x).fuseRd = s.fuseRd := rfl
@[simp] theorem State.setMac_fuseTodo (s : State) (i : Nat) (x : Macro) : (s.setMac i x).fuseTodo = s.fuseTodo := rfl
@[simp] theorem State.setMac_evq (s : State) (i : Nat) (x : Macro) : (s.setMac i x).evq = s.evq := rfl
@[simp] theorem State.setMac_evDrops (s : State) (i : Nat) (x : Macro) : (s.setMac i x).evDrops = s.evDrops := rfl
@[simp] theorem State.setMac_evSeq (s : State) (i : Nat) (x : Macro) : (s.setMac i x).evSeq = s.evSeq := rfl
@[simp] theorem State.setMac_evSince (s : State) (i : Nat) (x : Macro) : (s.setMac i x).evSince = s.evSince := rfl
@[simp] theorem State.setMac_evBeats (s : State) (i : Nat) (x : Macro) : (s.setMac i x).evBeats = s.evBeats := rfl
@[simp] theorem State.setMac_meas (s : State) (i : Nat) (x : Macro) : (s.setMac i x).meas = s.meas := rfl
@[simp] theorem State.setMac_tar (s : State) (i : Nat) (x : Macro) : (s.setMac i x).tar = s.tar := rfl
@[simp] theorem State.setMac_pmc (s : State) (i : Nat) (x : Macro) : (s.setMac i x).pmc = s.pmc := rfl
@[simp] theorem State.setMac_pmcBusyTo (s : State) (i : Nat) (x : Macro) : (s.setMac i x).pmcBusyTo = s.pmcBusyTo := rfl
@[simp] theorem State.setMac_romRst (s : State) (i : Nat) (x : Macro) : (s.setMac i x).romRst = s.romRst := rfl
@[simp] theorem State.setMac_bootCopied (s : State) (i : Nat) (x : Macro) : (s.setMac i x).bootCopied = s.bootCopied := rfl
@[simp] theorem State.setMac_queues (s : State) (i : Nat) (x : Macro) : (s.setMac i x).queues = s.queues := rfl
@[simp] theorem State.setMac_rout (s : State) (i : Nat) (x : Macro) : (s.setMac i x).rout = s.rout := rfl
@[simp] theorem State.setMac_rotLast (s : State) (i : Nat) (x : Macro) : (s.setMac i x).rotLast = s.rotLast := rfl
@[simp] theorem State.setMac_shellAck (s : State) (i : Nat) (x : Macro) : (s.setMac i x).shellAck = s.shellAck := rfl
@[simp] theorem State.setMac_cfg (s : State) (i : Nat) (x : Macro) : (s.setMac i x).cfg = s.cfg := rfl
@[simp] theorem State.setMac_epAcc (s : State) (i : Nat) (x : Macro) : (s.setMac i x).epAcc = s.epAcc := rfl
@[simp] theorem State.setMac_epAt (s : State) (i : Nat) (x : Macro) : (s.setMac i x).epAt = s.epAt := rfl
@[simp] theorem State.setMac_epMaps (s : State) (i : Nat) (x : Macro) : (s.setMac i x).epMaps = s.epMaps := rfl
@[simp] theorem State.setMac_epSink (s : State) (i : Nat) (x : Macro) : (s.setMac i x).epSink = s.epSink := rfl
@[simp] theorem State.setMac_pwrFail (s : State) (i : Nat) (x : Macro) : (s.setMac i x).pwrFail = s.pwrFail := rfl
@[simp] theorem State.setMac_prior (s : State) (i : Nat) (x : Macro) : (s.setMac i x).prior = s.prior := rfl
@[simp] theorem State.setMac_holdAt (s : State) (i : Nat) (x : Macro) : (s.setMac i x).holdAt = s.holdAt := rfl
@[simp] theorem State.setMac_released (s : State) (i : Nat) (x : Macro) : (s.setMac i x).released = s.released := rfl
@[simp] theorem State.setMac_hourTicks (s : State) (i : Nat) (x : Macro) : (s.setMac i x).hourTicks = s.hourTicks := rfl
@[simp] theorem State.setMac_wdogAt (s : State) (i : Nat) (x : Macro) : (s.setMac i x).wdogAt = s.wdogAt := rfl
@[simp] theorem State.setMac_flushAt (s : State) (i : Nat) (x : Macro) : (s.setMac i x).flushAt = s.flushAt := rfl
@[simp] theorem State.setMac_timerAt (s : State) (i : Nat) (x : Macro) : (s.setMac i x).timerAt = s.timerAt := rfl
@[simp] theorem State.setMac_flushTags (s : State) (i : Nat) (x : Macro) : (s.setMac i x).flushTags = s.flushTags := rfl
@[simp] theorem State.setMac_map (s : State) (i : Nat) (x : Macro) : (s.setMac i x).map = s.map := rfl
@[simp] theorem State.setMac_hard (s : State) (i : Nat) (x : Macro) : (s.setMac i x).hard = s.hard := rfl
@[simp] theorem State.setMac_st (s : State) (i : Nat) (x : Macro) : (s.setMac i x).st = s.st := rfl
@[simp] theorem State.setMac_xltCmd (s : State) (i : Nat) (x : Macro) : (s.setMac i x).xltCmd = s.xltCmd := rfl
@[simp] theorem State.setMac_dbgLatch (s : State) (i : Nat) (x : Macro) : (s.setMac i x).dbgLatch = s.dbgLatch := rfl
@[simp] theorem State.setMac_dbgHeld (s : State) (i : Nat) (x : Macro) : (s.setMac i x).dbgHeld = s.dbgHeld := rfl
@[simp] theorem State.setMac_scrubPos (s : State) (i : Nat) (x : Macro) : (s.setMac i x).scrubPos = s.scrubPos := rfl
@[simp] theorem State.setMac_hwRep (s : State) (i : Nat) (x : Macro) : (s.setMac i x).hwRep = s.hwRep := rfl
@[simp] theorem State.setMac_late (s : State) (i : Nat) (x : Macro) : (s.setMac i x).late = s.late := rfl
@[simp] theorem State.setMac_survSyn (s : State) (i : Nat) (x : Macro) : (s.setMac i x).survSyn = s.survSyn := rfl
@[simp] theorem State.setMac_romSyn (s : State) (i : Nat) (x : Macro) : (s.setMac i x).romSyn = s.romSyn := rfl
@[simp] theorem State.setMac_mbStage (s : State) (i : Nat) (x : Macro) : (s.setMac i x).mbStage = s.mbStage := rfl
@[simp] theorem State.setMac_chvTodo (s : State) (i : Nat) (x : Macro) : (s.setMac i x).chvTodo = s.chvTodo := rfl

@[simp] theorem State.setRaw_pending (s : State) (a : Nat) (v : BitVec 32) : (s.setRaw a v).pending = s.pending := rfl
@[simp] theorem State.setRaw_time (s : State) (a : Nat) (v : BitVec 32) : (s.setRaw a v).time = s.time := rfl
@[simp] theorem State.setRaw_tmo (s : State) (a : Nat) (v : BitVec 32) : (s.setRaw a v).tmo = s.tmo := rfl
@[simp] theorem State.setRaw_reftickOk (s : State) (a : Nat) (v : BitVec 32) : (s.setRaw a v).reftickOk = s.reftickOk := rfl
@[simp] theorem State.setRaw_free (s : State) (a : Nat) (v : BitVec 32) : (s.setRaw a v).free = s.free := rfl
@[simp] theorem State.setRaw_mode (s : State) (a : Nat) (v : BitVec 32) : (s.setRaw a v).mode = s.mode := rfl
@[simp] theorem State.setRaw_pins (s : State) (a : Nat) (v : BitVec 32) : (s.setRaw a v).pins = s.pins := rfl
@[simp] theorem State.setRaw_defaulted (s : State) (a : Nat) (v : BitVec 32) : (s.setRaw a v).defaulted = s.defaulted := rfl
@[simp] theorem State.setRaw_defaultedU (s : State) (a : Nat) (v : BitVec 32) : (s.setRaw a v).defaultedU = s.defaultedU := rfl
@[simp] theorem State.setRaw_strapNow (s : State) (a : Nat) (v : BitVec 32) : (s.setRaw a v).strapNow = s.strapNow := rfl
@[simp] theorem State.setRaw_strapChg (s : State) (a : Nat) (v : BitVec 32) : (s.setRaw a v).strapChg = s.strapChg := rfl
@[simp] theorem State.setRaw_fullPinAt (s : State) (a : Nat) (v : BitVec 32) : (s.setRaw a v).fullPinAt = s.fullPinAt := rfl
@[simp] theorem State.setRaw_homeMap (s : State) (a : Nat) (v : BitVec 32) : (s.setRaw a v).homeMap = s.homeMap := rfl
@[simp] theorem State.setRaw_mpMap (s : State) (a : Nat) (v : BitVec 32) : (s.setRaw a v).mpMap = s.mpMap := rfl
@[simp] theorem State.setRaw_hp (s : State) (a : Nat) (v : BitVec 32) : (s.setRaw a v).hp = s.hp := rfl
@[simp] theorem State.setRaw_mp (s : State) (a : Nat) (v : BitVec 32) : (s.setRaw a v).mp = s.mp := rfl
@[simp] theorem State.setRaw_sess (s : State) (a : Nat) (v : BitVec 32) : (s.setRaw a v).sess = s.sess := rfl
@[simp] theorem State.setRaw_node (s : State) (a : Nat) (v : BitVec 32) : (s.setRaw a v).node = s.node := rfl
@[simp] theorem State.setRaw_quad (s : State) (a : Nat) (v : BitVec 32) : (s.setRaw a v).quad = s.quad := rfl
@[simp] theorem State.setRaw_chv (s : State) (a : Nat) (v : BitVec 32) : (s.setRaw a v).chv = s.chv := rfl
@[simp] theorem State.setRaw_xlt (s : State) (a : Nat) (v : BitVec 32) : (s.setRaw a v).xlt = s.xlt := rfl
@[simp] theorem State.setRaw_chan (s : State) (a : Nat) (v : BitVec 32) : (s.setRaw a v).chan = s.chan := rfl
@[simp] theorem State.setRaw_bmem (s : State) (a : Nat) (v : BitVec 32) : (s.setRaw a v).bmem = s.bmem := rfl
@[simp] theorem State.setRaw_bm (s : State) (a : Nat) (v : BitVec 32) : (s.setRaw a v).bm = s.bm := rfl
@[simp] theorem State.setRaw_store (s : State) (a : Nat) (v : BitVec 32) : (s.setRaw a v).store = s.store := rfl
@[simp] theorem State.setRaw_pageBuf (s : State) (a : Nat) (v : BitVec 32) : (s.setRaw a v).pageBuf = s.pageBuf := rfl
@[simp] theorem State.setRaw_psCmd (s : State) (a : Nat) (v : BitVec 32) : (s.setRaw a v).psCmd = s.psCmd := rfl
@[simp] theorem State.setRaw_storeProt (s : State) (a : Nat) (v : BitVec 32) : (s.setRaw a v).storeProt = s.storeProt := rfl
@[simp] theorem State.setRaw_fuse (s : State) (a : Nat) (v : BitVec 32) : (s.setRaw a v).fuse = s.fuse := rfl
@[simp] theorem State.setRaw_fusePgm (s : State) (a : Nat) (v : BitVec 32) : (s.setRaw a v).fusePgm = s.fusePgm := rfl
@[simp] theorem State.setRaw_fuseRd (s : State) (a : Nat) (v : BitVec 32) : (s.setRaw a v).fuseRd = s.fuseRd := rfl
@[simp] theorem State.setRaw_fuseTodo (s : State) (a : Nat) (v : BitVec 32) : (s.setRaw a v).fuseTodo = s.fuseTodo := rfl
@[simp] theorem State.setRaw_evq (s : State) (a : Nat) (v : BitVec 32) : (s.setRaw a v).evq = s.evq := rfl
@[simp] theorem State.setRaw_evDrops (s : State) (a : Nat) (v : BitVec 32) : (s.setRaw a v).evDrops = s.evDrops := rfl
@[simp] theorem State.setRaw_evSeq (s : State) (a : Nat) (v : BitVec 32) : (s.setRaw a v).evSeq = s.evSeq := rfl
@[simp] theorem State.setRaw_evSince (s : State) (a : Nat) (v : BitVec 32) : (s.setRaw a v).evSince = s.evSince := rfl
@[simp] theorem State.setRaw_evBeats (s : State) (a : Nat) (v : BitVec 32) : (s.setRaw a v).evBeats = s.evBeats := rfl
@[simp] theorem State.setRaw_meas (s : State) (a : Nat) (v : BitVec 32) : (s.setRaw a v).meas = s.meas := rfl
@[simp] theorem State.setRaw_tar (s : State) (a : Nat) (v : BitVec 32) : (s.setRaw a v).tar = s.tar := rfl
@[simp] theorem State.setRaw_pmc (s : State) (a : Nat) (v : BitVec 32) : (s.setRaw a v).pmc = s.pmc := rfl
@[simp] theorem State.setRaw_pmcBusyTo (s : State) (a : Nat) (v : BitVec 32) : (s.setRaw a v).pmcBusyTo = s.pmcBusyTo := rfl
@[simp] theorem State.setRaw_romRst (s : State) (a : Nat) (v : BitVec 32) : (s.setRaw a v).romRst = s.romRst := rfl
@[simp] theorem State.setRaw_bootCopied (s : State) (a : Nat) (v : BitVec 32) : (s.setRaw a v).bootCopied = s.bootCopied := rfl
@[simp] theorem State.setRaw_queues (s : State) (a : Nat) (v : BitVec 32) : (s.setRaw a v).queues = s.queues := rfl
@[simp] theorem State.setRaw_rout (s : State) (a : Nat) (v : BitVec 32) : (s.setRaw a v).rout = s.rout := rfl
@[simp] theorem State.setRaw_rotLast (s : State) (a : Nat) (v : BitVec 32) : (s.setRaw a v).rotLast = s.rotLast := rfl
@[simp] theorem State.setRaw_shellAck (s : State) (a : Nat) (v : BitVec 32) : (s.setRaw a v).shellAck = s.shellAck := rfl
@[simp] theorem State.setRaw_cfg (s : State) (a : Nat) (v : BitVec 32) : (s.setRaw a v).cfg = s.cfg := rfl
@[simp] theorem State.setRaw_epAcc (s : State) (a : Nat) (v : BitVec 32) : (s.setRaw a v).epAcc = s.epAcc := rfl
@[simp] theorem State.setRaw_epAt (s : State) (a : Nat) (v : BitVec 32) : (s.setRaw a v).epAt = s.epAt := rfl
@[simp] theorem State.setRaw_epMaps (s : State) (a : Nat) (v : BitVec 32) : (s.setRaw a v).epMaps = s.epMaps := rfl
@[simp] theorem State.setRaw_epSink (s : State) (a : Nat) (v : BitVec 32) : (s.setRaw a v).epSink = s.epSink := rfl
@[simp] theorem State.setRaw_pwrFail (s : State) (a : Nat) (v : BitVec 32) : (s.setRaw a v).pwrFail = s.pwrFail := rfl
@[simp] theorem State.setRaw_prior (s : State) (a : Nat) (v : BitVec 32) : (s.setRaw a v).prior = s.prior := rfl
@[simp] theorem State.setRaw_holdAt (s : State) (a : Nat) (v : BitVec 32) : (s.setRaw a v).holdAt = s.holdAt := rfl
@[simp] theorem State.setRaw_released (s : State) (a : Nat) (v : BitVec 32) : (s.setRaw a v).released = s.released := rfl
@[simp] theorem State.setRaw_hourTicks (s : State) (a : Nat) (v : BitVec 32) : (s.setRaw a v).hourTicks = s.hourTicks := rfl
@[simp] theorem State.setRaw_wdogAt (s : State) (a : Nat) (v : BitVec 32) : (s.setRaw a v).wdogAt = s.wdogAt := rfl
@[simp] theorem State.setRaw_flushAt (s : State) (a : Nat) (v : BitVec 32) : (s.setRaw a v).flushAt = s.flushAt := rfl
@[simp] theorem State.setRaw_timerAt (s : State) (a : Nat) (v : BitVec 32) : (s.setRaw a v).timerAt = s.timerAt := rfl
@[simp] theorem State.setRaw_flushTags (s : State) (a : Nat) (v : BitVec 32) : (s.setRaw a v).flushTags = s.flushTags := rfl
@[simp] theorem State.setRaw_map (s : State) (a : Nat) (v : BitVec 32) : (s.setRaw a v).map = s.map := rfl
@[simp] theorem State.setRaw_hard (s : State) (a : Nat) (v : BitVec 32) : (s.setRaw a v).hard = s.hard := rfl
@[simp] theorem State.setRaw_st (s : State) (a : Nat) (v : BitVec 32) : (s.setRaw a v).st = s.st := rfl
@[simp] theorem State.setRaw_xltCmd (s : State) (a : Nat) (v : BitVec 32) : (s.setRaw a v).xltCmd = s.xltCmd := rfl
@[simp] theorem State.setRaw_dbgLatch (s : State) (a : Nat) (v : BitVec 32) : (s.setRaw a v).dbgLatch = s.dbgLatch := rfl
@[simp] theorem State.setRaw_dbgHeld (s : State) (a : Nat) (v : BitVec 32) : (s.setRaw a v).dbgHeld = s.dbgHeld := rfl
@[simp] theorem State.setRaw_scrubPos (s : State) (a : Nat) (v : BitVec 32) : (s.setRaw a v).scrubPos = s.scrubPos := rfl
@[simp] theorem State.setRaw_hwRep (s : State) (a : Nat) (v : BitVec 32) : (s.setRaw a v).hwRep = s.hwRep := rfl
@[simp] theorem State.setRaw_late (s : State) (a : Nat) (v : BitVec 32) : (s.setRaw a v).late = s.late := rfl
@[simp] theorem State.setRaw_survSyn (s : State) (a : Nat) (v : BitVec 32) : (s.setRaw a v).survSyn = s.survSyn := rfl
@[simp] theorem State.setRaw_romSyn (s : State) (a : Nat) (v : BitVec 32) : (s.setRaw a v).romSyn = s.romSyn := rfl
@[simp] theorem State.setRaw_mbStage (s : State) (a : Nat) (v : BitVec 32) : (s.setRaw a v).mbStage = s.mbStage := rfl
@[simp] theorem State.setRaw_chvTodo (s : State) (a : Nat) (v : BitVec 32) : (s.setRaw a v).chvTodo = s.chvTodo := rfl

@[simp] theorem State.setFld_pending (s : State) (a hi lo x : Nat) : (s.setFld a hi lo x).pending = s.pending := rfl
@[simp] theorem State.setFld_time (s : State) (a hi lo x : Nat) : (s.setFld a hi lo x).time = s.time := rfl
@[simp] theorem State.setFld_tmo (s : State) (a hi lo x : Nat) : (s.setFld a hi lo x).tmo = s.tmo := rfl
@[simp] theorem State.setFld_reftickOk (s : State) (a hi lo x : Nat) : (s.setFld a hi lo x).reftickOk = s.reftickOk := rfl
@[simp] theorem State.setFld_free (s : State) (a hi lo x : Nat) : (s.setFld a hi lo x).free = s.free := rfl
@[simp] theorem State.setFld_mode (s : State) (a hi lo x : Nat) : (s.setFld a hi lo x).mode = s.mode := rfl
@[simp] theorem State.setFld_pins (s : State) (a hi lo x : Nat) : (s.setFld a hi lo x).pins = s.pins := rfl
@[simp] theorem State.setFld_defaulted (s : State) (a hi lo x : Nat) : (s.setFld a hi lo x).defaulted = s.defaulted := rfl
@[simp] theorem State.setFld_defaultedU (s : State) (a hi lo x : Nat) : (s.setFld a hi lo x).defaultedU = s.defaultedU := rfl
@[simp] theorem State.setFld_strapNow (s : State) (a hi lo x : Nat) : (s.setFld a hi lo x).strapNow = s.strapNow := rfl
@[simp] theorem State.setFld_strapChg (s : State) (a hi lo x : Nat) : (s.setFld a hi lo x).strapChg = s.strapChg := rfl
@[simp] theorem State.setFld_fullPinAt (s : State) (a hi lo x : Nat) : (s.setFld a hi lo x).fullPinAt = s.fullPinAt := rfl
@[simp] theorem State.setFld_homeMap (s : State) (a hi lo x : Nat) : (s.setFld a hi lo x).homeMap = s.homeMap := rfl
@[simp] theorem State.setFld_mpMap (s : State) (a hi lo x : Nat) : (s.setFld a hi lo x).mpMap = s.mpMap := rfl
@[simp] theorem State.setFld_hp (s : State) (a hi lo x : Nat) : (s.setFld a hi lo x).hp = s.hp := rfl
@[simp] theorem State.setFld_mp (s : State) (a hi lo x : Nat) : (s.setFld a hi lo x).mp = s.mp := rfl
@[simp] theorem State.setFld_sess (s : State) (a hi lo x : Nat) : (s.setFld a hi lo x).sess = s.sess := rfl
@[simp] theorem State.setFld_node (s : State) (a hi lo x : Nat) : (s.setFld a hi lo x).node = s.node := rfl
@[simp] theorem State.setFld_quad (s : State) (a hi lo x : Nat) : (s.setFld a hi lo x).quad = s.quad := rfl
@[simp] theorem State.setFld_chv (s : State) (a hi lo x : Nat) : (s.setFld a hi lo x).chv = s.chv := rfl
@[simp] theorem State.setFld_xlt (s : State) (a hi lo x : Nat) : (s.setFld a hi lo x).xlt = s.xlt := rfl
@[simp] theorem State.setFld_chan (s : State) (a hi lo x : Nat) : (s.setFld a hi lo x).chan = s.chan := rfl
@[simp] theorem State.setFld_bmem (s : State) (a hi lo x : Nat) : (s.setFld a hi lo x).bmem = s.bmem := rfl
@[simp] theorem State.setFld_bm (s : State) (a hi lo x : Nat) : (s.setFld a hi lo x).bm = s.bm := rfl
@[simp] theorem State.setFld_store (s : State) (a hi lo x : Nat) : (s.setFld a hi lo x).store = s.store := rfl
@[simp] theorem State.setFld_pageBuf (s : State) (a hi lo x : Nat) : (s.setFld a hi lo x).pageBuf = s.pageBuf := rfl
@[simp] theorem State.setFld_psCmd (s : State) (a hi lo x : Nat) : (s.setFld a hi lo x).psCmd = s.psCmd := rfl
@[simp] theorem State.setFld_storeProt (s : State) (a hi lo x : Nat) : (s.setFld a hi lo x).storeProt = s.storeProt := rfl
@[simp] theorem State.setFld_fuse (s : State) (a hi lo x : Nat) : (s.setFld a hi lo x).fuse = s.fuse := rfl
@[simp] theorem State.setFld_fusePgm (s : State) (a hi lo x : Nat) : (s.setFld a hi lo x).fusePgm = s.fusePgm := rfl
@[simp] theorem State.setFld_fuseRd (s : State) (a hi lo x : Nat) : (s.setFld a hi lo x).fuseRd = s.fuseRd := rfl
@[simp] theorem State.setFld_fuseTodo (s : State) (a hi lo x : Nat) : (s.setFld a hi lo x).fuseTodo = s.fuseTodo := rfl
@[simp] theorem State.setFld_evq (s : State) (a hi lo x : Nat) : (s.setFld a hi lo x).evq = s.evq := rfl
@[simp] theorem State.setFld_evDrops (s : State) (a hi lo x : Nat) : (s.setFld a hi lo x).evDrops = s.evDrops := rfl
@[simp] theorem State.setFld_evSeq (s : State) (a hi lo x : Nat) : (s.setFld a hi lo x).evSeq = s.evSeq := rfl
@[simp] theorem State.setFld_evSince (s : State) (a hi lo x : Nat) : (s.setFld a hi lo x).evSince = s.evSince := rfl
@[simp] theorem State.setFld_evBeats (s : State) (a hi lo x : Nat) : (s.setFld a hi lo x).evBeats = s.evBeats := rfl
@[simp] theorem State.setFld_meas (s : State) (a hi lo x : Nat) : (s.setFld a hi lo x).meas = s.meas := rfl
@[simp] theorem State.setFld_tar (s : State) (a hi lo x : Nat) : (s.setFld a hi lo x).tar = s.tar := rfl
@[simp] theorem State.setFld_pmc (s : State) (a hi lo x : Nat) : (s.setFld a hi lo x).pmc = s.pmc := rfl
@[simp] theorem State.setFld_pmcBusyTo (s : State) (a hi lo x : Nat) : (s.setFld a hi lo x).pmcBusyTo = s.pmcBusyTo := rfl
@[simp] theorem State.setFld_romRst (s : State) (a hi lo x : Nat) : (s.setFld a hi lo x).romRst = s.romRst := rfl
@[simp] theorem State.setFld_bootCopied (s : State) (a hi lo x : Nat) : (s.setFld a hi lo x).bootCopied = s.bootCopied := rfl
@[simp] theorem State.setFld_queues (s : State) (a hi lo x : Nat) : (s.setFld a hi lo x).queues = s.queues := rfl
@[simp] theorem State.setFld_rout (s : State) (a hi lo x : Nat) : (s.setFld a hi lo x).rout = s.rout := rfl
@[simp] theorem State.setFld_rotLast (s : State) (a hi lo x : Nat) : (s.setFld a hi lo x).rotLast = s.rotLast := rfl
@[simp] theorem State.setFld_shellAck (s : State) (a hi lo x : Nat) : (s.setFld a hi lo x).shellAck = s.shellAck := rfl
@[simp] theorem State.setFld_cfg (s : State) (a hi lo x : Nat) : (s.setFld a hi lo x).cfg = s.cfg := rfl
@[simp] theorem State.setFld_epAcc (s : State) (a hi lo x : Nat) : (s.setFld a hi lo x).epAcc = s.epAcc := rfl
@[simp] theorem State.setFld_epAt (s : State) (a hi lo x : Nat) : (s.setFld a hi lo x).epAt = s.epAt := rfl
@[simp] theorem State.setFld_epMaps (s : State) (a hi lo x : Nat) : (s.setFld a hi lo x).epMaps = s.epMaps := rfl
@[simp] theorem State.setFld_epSink (s : State) (a hi lo x : Nat) : (s.setFld a hi lo x).epSink = s.epSink := rfl
@[simp] theorem State.setFld_pwrFail (s : State) (a hi lo x : Nat) : (s.setFld a hi lo x).pwrFail = s.pwrFail := rfl
@[simp] theorem State.setFld_prior (s : State) (a hi lo x : Nat) : (s.setFld a hi lo x).prior = s.prior := rfl
@[simp] theorem State.setFld_holdAt (s : State) (a hi lo x : Nat) : (s.setFld a hi lo x).holdAt = s.holdAt := rfl
@[simp] theorem State.setFld_released (s : State) (a hi lo x : Nat) : (s.setFld a hi lo x).released = s.released := rfl
@[simp] theorem State.setFld_hourTicks (s : State) (a hi lo x : Nat) : (s.setFld a hi lo x).hourTicks = s.hourTicks := rfl
@[simp] theorem State.setFld_wdogAt (s : State) (a hi lo x : Nat) : (s.setFld a hi lo x).wdogAt = s.wdogAt := rfl
@[simp] theorem State.setFld_flushAt (s : State) (a hi lo x : Nat) : (s.setFld a hi lo x).flushAt = s.flushAt := rfl
@[simp] theorem State.setFld_timerAt (s : State) (a hi lo x : Nat) : (s.setFld a hi lo x).timerAt = s.timerAt := rfl
@[simp] theorem State.setFld_flushTags (s : State) (a hi lo x : Nat) : (s.setFld a hi lo x).flushTags = s.flushTags := rfl
@[simp] theorem State.setFld_map (s : State) (a hi lo x : Nat) : (s.setFld a hi lo x).map = s.map := rfl
@[simp] theorem State.setFld_hard (s : State) (a hi lo x : Nat) : (s.setFld a hi lo x).hard = s.hard := rfl
@[simp] theorem State.setFld_st (s : State) (a hi lo x : Nat) : (s.setFld a hi lo x).st = s.st := rfl
@[simp] theorem State.setFld_xltCmd (s : State) (a hi lo x : Nat) : (s.setFld a hi lo x).xltCmd = s.xltCmd := rfl
@[simp] theorem State.setFld_dbgLatch (s : State) (a hi lo x : Nat) : (s.setFld a hi lo x).dbgLatch = s.dbgLatch := rfl
@[simp] theorem State.setFld_dbgHeld (s : State) (a hi lo x : Nat) : (s.setFld a hi lo x).dbgHeld = s.dbgHeld := rfl
@[simp] theorem State.setFld_scrubPos (s : State) (a hi lo x : Nat) : (s.setFld a hi lo x).scrubPos = s.scrubPos := rfl
@[simp] theorem State.setFld_hwRep (s : State) (a hi lo x : Nat) : (s.setFld a hi lo x).hwRep = s.hwRep := rfl
@[simp] theorem State.setFld_late (s : State) (a hi lo x : Nat) : (s.setFld a hi lo x).late = s.late := rfl
@[simp] theorem State.setFld_survSyn (s : State) (a hi lo x : Nat) : (s.setFld a hi lo x).survSyn = s.survSyn := rfl
@[simp] theorem State.setFld_romSyn (s : State) (a hi lo x : Nat) : (s.setFld a hi lo x).romSyn = s.romSyn := rfl
@[simp] theorem State.setFld_mbStage (s : State) (a hi lo x : Nat) : (s.setFld a hi lo x).mbStage = s.mbStage := rfl
@[simp] theorem State.setFld_chvTodo (s : State) (a hi lo x : Nat) : (s.setFld a hi lo x).chvTodo = s.chvTodo := rfl

@[simp] theorem State.setCore_pending (s : State) (c : CoreId) (x : Core) : (s.setCore c x).pending = s.pending := by cases c <;> rfl
@[simp] theorem State.setCore_time (s : State) (c : CoreId) (x : Core) : (s.setCore c x).time = s.time := by cases c <;> rfl
@[simp] theorem State.setCore_tmo (s : State) (c : CoreId) (x : Core) : (s.setCore c x).tmo = s.tmo := by cases c <;> rfl
@[simp] theorem State.setCore_reftickOk (s : State) (c : CoreId) (x : Core) : (s.setCore c x).reftickOk = s.reftickOk := by cases c <;> rfl
@[simp] theorem State.setCore_free (s : State) (c : CoreId) (x : Core) : (s.setCore c x).free = s.free := by cases c <;> rfl
@[simp] theorem State.setCore_mode (s : State) (c : CoreId) (x : Core) : (s.setCore c x).mode = s.mode := by cases c <;> rfl
@[simp] theorem State.setCore_regs (s : State) (c : CoreId) (x : Core) : (s.setCore c x).regs = s.regs := by cases c <;> rfl
@[simp] theorem State.setCore_pins (s : State) (c : CoreId) (x : Core) : (s.setCore c x).pins = s.pins := by cases c <;> rfl
@[simp] theorem State.setCore_defaulted (s : State) (c : CoreId) (x : Core) : (s.setCore c x).defaulted = s.defaulted := by cases c <;> rfl
@[simp] theorem State.setCore_defaultedU (s : State) (c : CoreId) (x : Core) : (s.setCore c x).defaultedU = s.defaultedU := by cases c <;> rfl
@[simp] theorem State.setCore_strapNow (s : State) (c : CoreId) (x : Core) : (s.setCore c x).strapNow = s.strapNow := by cases c <;> rfl
@[simp] theorem State.setCore_strapChg (s : State) (c : CoreId) (x : Core) : (s.setCore c x).strapChg = s.strapChg := by cases c <;> rfl
@[simp] theorem State.setCore_fullPinAt (s : State) (c : CoreId) (x : Core) : (s.setCore c x).fullPinAt = s.fullPinAt := by cases c <;> rfl
@[simp] theorem State.setCore_homeMap (s : State) (c : CoreId) (x : Core) : (s.setCore c x).homeMap = s.homeMap := by cases c <;> rfl
@[simp] theorem State.setCore_mpMap (s : State) (c : CoreId) (x : Core) : (s.setCore c x).mpMap = s.mpMap := by cases c <;> rfl
@[simp] theorem State.setCore_hp (s : State) (c : CoreId) (x : Core) : (s.setCore c x).hp = s.hp := by cases c <;> rfl
@[simp] theorem State.setCore_mp (s : State) (c : CoreId) (x : Core) : (s.setCore c x).mp = s.mp := by cases c <;> rfl
@[simp] theorem State.setCore_sess (s : State) (c : CoreId) (x : Core) : (s.setCore c x).sess = s.sess := by cases c <;> rfl
@[simp] theorem State.setCore_quad (s : State) (c : CoreId) (x : Core) : (s.setCore c x).quad = s.quad := by cases c <;> rfl
@[simp] theorem State.setCore_xlt (s : State) (c : CoreId) (x : Core) : (s.setCore c x).xlt = s.xlt := by cases c <;> rfl
@[simp] theorem State.setCore_chan (s : State) (c : CoreId) (x : Core) : (s.setCore c x).chan = s.chan := by cases c <;> rfl
@[simp] theorem State.setCore_bmem (s : State) (c : CoreId) (x : Core) : (s.setCore c x).bmem = s.bmem := by cases c <;> rfl
@[simp] theorem State.setCore_bm (s : State) (c : CoreId) (x : Core) : (s.setCore c x).bm = s.bm := by cases c <;> rfl
@[simp] theorem State.setCore_store (s : State) (c : CoreId) (x : Core) : (s.setCore c x).store = s.store := by cases c <;> rfl
@[simp] theorem State.setCore_pageBuf (s : State) (c : CoreId) (x : Core) : (s.setCore c x).pageBuf = s.pageBuf := by cases c <;> rfl
@[simp] theorem State.setCore_psCmd (s : State) (c : CoreId) (x : Core) : (s.setCore c x).psCmd = s.psCmd := by cases c <;> rfl
@[simp] theorem State.setCore_storeProt (s : State) (c : CoreId) (x : Core) : (s.setCore c x).storeProt = s.storeProt := by cases c <;> rfl
@[simp] theorem State.setCore_fuse (s : State) (c : CoreId) (x : Core) : (s.setCore c x).fuse = s.fuse := by cases c <;> rfl
@[simp] theorem State.setCore_fusePgm (s : State) (c : CoreId) (x : Core) : (s.setCore c x).fusePgm = s.fusePgm := by cases c <;> rfl
@[simp] theorem State.setCore_fuseRd (s : State) (c : CoreId) (x : Core) : (s.setCore c x).fuseRd = s.fuseRd := by cases c <;> rfl
@[simp] theorem State.setCore_fuseTodo (s : State) (c : CoreId) (x : Core) : (s.setCore c x).fuseTodo = s.fuseTodo := by cases c <;> rfl
@[simp] theorem State.setCore_evq (s : State) (c : CoreId) (x : Core) : (s.setCore c x).evq = s.evq := by cases c <;> rfl
@[simp] theorem State.setCore_evDrops (s : State) (c : CoreId) (x : Core) : (s.setCore c x).evDrops = s.evDrops := by cases c <;> rfl
@[simp] theorem State.setCore_evSeq (s : State) (c : CoreId) (x : Core) : (s.setCore c x).evSeq = s.evSeq := by cases c <;> rfl
@[simp] theorem State.setCore_evSince (s : State) (c : CoreId) (x : Core) : (s.setCore c x).evSince = s.evSince := by cases c <;> rfl
@[simp] theorem State.setCore_evBeats (s : State) (c : CoreId) (x : Core) : (s.setCore c x).evBeats = s.evBeats := by cases c <;> rfl
@[simp] theorem State.setCore_meas (s : State) (c : CoreId) (x : Core) : (s.setCore c x).meas = s.meas := by cases c <;> rfl
@[simp] theorem State.setCore_tar (s : State) (c : CoreId) (x : Core) : (s.setCore c x).tar = s.tar := by cases c <;> rfl
@[simp] theorem State.setCore_pmc (s : State) (c : CoreId) (x : Core) : (s.setCore c x).pmc = s.pmc := by cases c <;> rfl
@[simp] theorem State.setCore_pmcBusyTo (s : State) (c : CoreId) (x : Core) : (s.setCore c x).pmcBusyTo = s.pmcBusyTo := by cases c <;> rfl
@[simp] theorem State.setCore_romRst (s : State) (c : CoreId) (x : Core) : (s.setCore c x).romRst = s.romRst := by cases c <;> rfl
@[simp] theorem State.setCore_bootCopied (s : State) (c : CoreId) (x : Core) : (s.setCore c x).bootCopied = s.bootCopied := by cases c <;> rfl
@[simp] theorem State.setCore_queues (s : State) (c : CoreId) (x : Core) : (s.setCore c x).queues = s.queues := by cases c <;> rfl
@[simp] theorem State.setCore_rout (s : State) (c : CoreId) (x : Core) : (s.setCore c x).rout = s.rout := by cases c <;> rfl
@[simp] theorem State.setCore_rotLast (s : State) (c : CoreId) (x : Core) : (s.setCore c x).rotLast = s.rotLast := by cases c <;> rfl
@[simp] theorem State.setCore_shellAck (s : State) (c : CoreId) (x : Core) : (s.setCore c x).shellAck = s.shellAck := by cases c <;> rfl
@[simp] theorem State.setCore_cfg (s : State) (c : CoreId) (x : Core) : (s.setCore c x).cfg = s.cfg := by cases c <;> rfl
@[simp] theorem State.setCore_epAcc (s : State) (c : CoreId) (x : Core) : (s.setCore c x).epAcc = s.epAcc := by cases c <;> rfl
@[simp] theorem State.setCore_epAt (s : State) (c : CoreId) (x : Core) : (s.setCore c x).epAt = s.epAt := by cases c <;> rfl
@[simp] theorem State.setCore_epMaps (s : State) (c : CoreId) (x : Core) : (s.setCore c x).epMaps = s.epMaps := by cases c <;> rfl
@[simp] theorem State.setCore_epSink (s : State) (c : CoreId) (x : Core) : (s.setCore c x).epSink = s.epSink := by cases c <;> rfl
@[simp] theorem State.setCore_pwrFail (s : State) (c : CoreId) (x : Core) : (s.setCore c x).pwrFail = s.pwrFail := by cases c <;> rfl
@[simp] theorem State.setCore_prior (s : State) (c : CoreId) (x : Core) : (s.setCore c x).prior = s.prior := by cases c <;> rfl
@[simp] theorem State.setCore_holdAt (s : State) (c : CoreId) (x : Core) : (s.setCore c x).holdAt = s.holdAt := by cases c <;> rfl
@[simp] theorem State.setCore_released (s : State) (c : CoreId) (x : Core) : (s.setCore c x).released = s.released := by cases c <;> rfl
@[simp] theorem State.setCore_hourTicks (s : State) (c : CoreId) (x : Core) : (s.setCore c x).hourTicks = s.hourTicks := by cases c <;> rfl
@[simp] theorem State.setCore_wdogAt (s : State) (c : CoreId) (x : Core) : (s.setCore c x).wdogAt = s.wdogAt := by cases c <;> rfl
@[simp] theorem State.setCore_flushAt (s : State) (c : CoreId) (x : Core) : (s.setCore c x).flushAt = s.flushAt := by cases c <;> rfl
@[simp] theorem State.setCore_timerAt (s : State) (c : CoreId) (x : Core) : (s.setCore c x).timerAt = s.timerAt := by cases c <;> rfl
@[simp] theorem State.setCore_flushTags (s : State) (c : CoreId) (x : Core) : (s.setCore c x).flushTags = s.flushTags := by cases c <;> rfl
@[simp] theorem State.setCore_map (s : State) (c : CoreId) (x : Core) : (s.setCore c x).map = s.map := by cases c <;> rfl
@[simp] theorem State.setCore_hard (s : State) (c : CoreId) (x : Core) : (s.setCore c x).hard = s.hard := by cases c <;> rfl
@[simp] theorem State.setCore_st (s : State) (c : CoreId) (x : Core) : (s.setCore c x).st = s.st := by cases c <;> rfl
@[simp] theorem State.setCore_xltCmd (s : State) (c : CoreId) (x : Core) : (s.setCore c x).xltCmd = s.xltCmd := by cases c <;> rfl
@[simp] theorem State.setCore_dbgLatch (s : State) (c : CoreId) (x : Core) : (s.setCore c x).dbgLatch = s.dbgLatch := by cases c <;> rfl
@[simp] theorem State.setCore_dbgHeld (s : State) (c : CoreId) (x : Core) : (s.setCore c x).dbgHeld = s.dbgHeld := by cases c <;> rfl
@[simp] theorem State.setCore_scrubPos (s : State) (c : CoreId) (x : Core) : (s.setCore c x).scrubPos = s.scrubPos := by cases c <;> rfl
@[simp] theorem State.setCore_hwRep (s : State) (c : CoreId) (x : Core) : (s.setCore c x).hwRep = s.hwRep := by cases c <;> rfl
@[simp] theorem State.setCore_late (s : State) (c : CoreId) (x : Core) : (s.setCore c x).late = s.late := by cases c <;> rfl
@[simp] theorem State.setCore_survSyn (s : State) (c : CoreId) (x : Core) : (s.setCore c x).survSyn = s.survSyn := by cases c <;> rfl
@[simp] theorem State.setCore_romSyn (s : State) (c : CoreId) (x : Core) : (s.setCore c x).romSyn = s.romSyn := by cases c <;> rfl
@[simp] theorem State.setCore_mbStage (s : State) (c : CoreId) (x : Core) : (s.setCore c x).mbStage = s.mbStage := by cases c <;> rfl
@[simp] theorem State.setCore_chvTodo (s : State) (c : CoreId) (x : Core) : (s.setCore c x).chvTodo = s.chvTodo := by cases c <;> rfl

@[simp] theorem State.setThr_pending (s : State) (t : Thr) (x : Thread) : (s.setThr t x).pending = s.pending := by simp [State.setThr]
@[simp] theorem State.setThr_time (s : State) (t : Thr) (x : Thread) : (s.setThr t x).time = s.time := by simp [State.setThr]
@[simp] theorem State.setThr_tmo (s : State) (t : Thr) (x : Thread) : (s.setThr t x).tmo = s.tmo := by simp [State.setThr]
@[simp] theorem State.setThr_reftickOk (s : State) (t : Thr) (x : Thread) : (s.setThr t x).reftickOk = s.reftickOk := by simp [State.setThr]
@[simp] theorem State.setThr_free (s : State) (t : Thr) (x : Thread) : (s.setThr t x).free = s.free := by simp [State.setThr]
@[simp] theorem State.setThr_mode (s : State) (t : Thr) (x : Thread) : (s.setThr t x).mode = s.mode := by simp [State.setThr]
@[simp] theorem State.setThr_regs (s : State) (t : Thr) (x : Thread) : (s.setThr t x).regs = s.regs := by simp [State.setThr]
@[simp] theorem State.setThr_pins (s : State) (t : Thr) (x : Thread) : (s.setThr t x).pins = s.pins := by simp [State.setThr]
@[simp] theorem State.setThr_defaulted (s : State) (t : Thr) (x : Thread) : (s.setThr t x).defaulted = s.defaulted := by simp [State.setThr]
@[simp] theorem State.setThr_defaultedU (s : State) (t : Thr) (x : Thread) : (s.setThr t x).defaultedU = s.defaultedU := by simp [State.setThr]
@[simp] theorem State.setThr_strapNow (s : State) (t : Thr) (x : Thread) : (s.setThr t x).strapNow = s.strapNow := by simp [State.setThr]
@[simp] theorem State.setThr_strapChg (s : State) (t : Thr) (x : Thread) : (s.setThr t x).strapChg = s.strapChg := by simp [State.setThr]
@[simp] theorem State.setThr_fullPinAt (s : State) (t : Thr) (x : Thread) : (s.setThr t x).fullPinAt = s.fullPinAt := by simp [State.setThr]
@[simp] theorem State.setThr_homeMap (s : State) (t : Thr) (x : Thread) : (s.setThr t x).homeMap = s.homeMap := by simp [State.setThr]
@[simp] theorem State.setThr_mpMap (s : State) (t : Thr) (x : Thread) : (s.setThr t x).mpMap = s.mpMap := by simp [State.setThr]
@[simp] theorem State.setThr_hp (s : State) (t : Thr) (x : Thread) : (s.setThr t x).hp = s.hp := by simp [State.setThr]
@[simp] theorem State.setThr_mp (s : State) (t : Thr) (x : Thread) : (s.setThr t x).mp = s.mp := by simp [State.setThr]
@[simp] theorem State.setThr_sess (s : State) (t : Thr) (x : Thread) : (s.setThr t x).sess = s.sess := by simp [State.setThr]
@[simp] theorem State.setThr_quad (s : State) (t : Thr) (x : Thread) : (s.setThr t x).quad = s.quad := by simp [State.setThr]
@[simp] theorem State.setThr_xlt (s : State) (t : Thr) (x : Thread) : (s.setThr t x).xlt = s.xlt := by simp [State.setThr]
@[simp] theorem State.setThr_chan (s : State) (t : Thr) (x : Thread) : (s.setThr t x).chan = s.chan := by simp [State.setThr]
@[simp] theorem State.setThr_bmem (s : State) (t : Thr) (x : Thread) : (s.setThr t x).bmem = s.bmem := by simp [State.setThr]
@[simp] theorem State.setThr_bm (s : State) (t : Thr) (x : Thread) : (s.setThr t x).bm = s.bm := by simp [State.setThr]
@[simp] theorem State.setThr_store (s : State) (t : Thr) (x : Thread) : (s.setThr t x).store = s.store := by simp [State.setThr]
@[simp] theorem State.setThr_pageBuf (s : State) (t : Thr) (x : Thread) : (s.setThr t x).pageBuf = s.pageBuf := by simp [State.setThr]
@[simp] theorem State.setThr_psCmd (s : State) (t : Thr) (x : Thread) : (s.setThr t x).psCmd = s.psCmd := by simp [State.setThr]
@[simp] theorem State.setThr_storeProt (s : State) (t : Thr) (x : Thread) : (s.setThr t x).storeProt = s.storeProt := by simp [State.setThr]
@[simp] theorem State.setThr_fuse (s : State) (t : Thr) (x : Thread) : (s.setThr t x).fuse = s.fuse := by simp [State.setThr]
@[simp] theorem State.setThr_fusePgm (s : State) (t : Thr) (x : Thread) : (s.setThr t x).fusePgm = s.fusePgm := by simp [State.setThr]
@[simp] theorem State.setThr_fuseRd (s : State) (t : Thr) (x : Thread) : (s.setThr t x).fuseRd = s.fuseRd := by simp [State.setThr]
@[simp] theorem State.setThr_fuseTodo (s : State) (t : Thr) (x : Thread) : (s.setThr t x).fuseTodo = s.fuseTodo := by simp [State.setThr]
@[simp] theorem State.setThr_evq (s : State) (t : Thr) (x : Thread) : (s.setThr t x).evq = s.evq := by simp [State.setThr]
@[simp] theorem State.setThr_evDrops (s : State) (t : Thr) (x : Thread) : (s.setThr t x).evDrops = s.evDrops := by simp [State.setThr]
@[simp] theorem State.setThr_evSeq (s : State) (t : Thr) (x : Thread) : (s.setThr t x).evSeq = s.evSeq := by simp [State.setThr]
@[simp] theorem State.setThr_evSince (s : State) (t : Thr) (x : Thread) : (s.setThr t x).evSince = s.evSince := by simp [State.setThr]
@[simp] theorem State.setThr_evBeats (s : State) (t : Thr) (x : Thread) : (s.setThr t x).evBeats = s.evBeats := by simp [State.setThr]
@[simp] theorem State.setThr_meas (s : State) (t : Thr) (x : Thread) : (s.setThr t x).meas = s.meas := by simp [State.setThr]
@[simp] theorem State.setThr_tar (s : State) (t : Thr) (x : Thread) : (s.setThr t x).tar = s.tar := by simp [State.setThr]
@[simp] theorem State.setThr_pmc (s : State) (t : Thr) (x : Thread) : (s.setThr t x).pmc = s.pmc := by simp [State.setThr]
@[simp] theorem State.setThr_pmcBusyTo (s : State) (t : Thr) (x : Thread) : (s.setThr t x).pmcBusyTo = s.pmcBusyTo := by simp [State.setThr]
@[simp] theorem State.setThr_romRst (s : State) (t : Thr) (x : Thread) : (s.setThr t x).romRst = s.romRst := by simp [State.setThr]
@[simp] theorem State.setThr_bootCopied (s : State) (t : Thr) (x : Thread) : (s.setThr t x).bootCopied = s.bootCopied := by simp [State.setThr]
@[simp] theorem State.setThr_queues (s : State) (t : Thr) (x : Thread) : (s.setThr t x).queues = s.queues := by simp [State.setThr]
@[simp] theorem State.setThr_rout (s : State) (t : Thr) (x : Thread) : (s.setThr t x).rout = s.rout := by simp [State.setThr]
@[simp] theorem State.setThr_rotLast (s : State) (t : Thr) (x : Thread) : (s.setThr t x).rotLast = s.rotLast := by simp [State.setThr]
@[simp] theorem State.setThr_shellAck (s : State) (t : Thr) (x : Thread) : (s.setThr t x).shellAck = s.shellAck := by simp [State.setThr]
@[simp] theorem State.setThr_cfg (s : State) (t : Thr) (x : Thread) : (s.setThr t x).cfg = s.cfg := by simp [State.setThr]
@[simp] theorem State.setThr_epAcc (s : State) (t : Thr) (x : Thread) : (s.setThr t x).epAcc = s.epAcc := by simp [State.setThr]
@[simp] theorem State.setThr_epAt (s : State) (t : Thr) (x : Thread) : (s.setThr t x).epAt = s.epAt := by simp [State.setThr]
@[simp] theorem State.setThr_epMaps (s : State) (t : Thr) (x : Thread) : (s.setThr t x).epMaps = s.epMaps := by simp [State.setThr]
@[simp] theorem State.setThr_epSink (s : State) (t : Thr) (x : Thread) : (s.setThr t x).epSink = s.epSink := by simp [State.setThr]
@[simp] theorem State.setThr_pwrFail (s : State) (t : Thr) (x : Thread) : (s.setThr t x).pwrFail = s.pwrFail := by simp [State.setThr]
@[simp] theorem State.setThr_prior (s : State) (t : Thr) (x : Thread) : (s.setThr t x).prior = s.prior := by simp [State.setThr]
@[simp] theorem State.setThr_holdAt (s : State) (t : Thr) (x : Thread) : (s.setThr t x).holdAt = s.holdAt := by simp [State.setThr]
@[simp] theorem State.setThr_released (s : State) (t : Thr) (x : Thread) : (s.setThr t x).released = s.released := by simp [State.setThr]
@[simp] theorem State.setThr_hourTicks (s : State) (t : Thr) (x : Thread) : (s.setThr t x).hourTicks = s.hourTicks := by simp [State.setThr]
@[simp] theorem State.setThr_wdogAt (s : State) (t : Thr) (x : Thread) : (s.setThr t x).wdogAt = s.wdogAt := by simp [State.setThr]
@[simp] theorem State.setThr_flushAt (s : State) (t : Thr) (x : Thread) : (s.setThr t x).flushAt = s.flushAt := by simp [State.setThr]
@[simp] theorem State.setThr_timerAt (s : State) (t : Thr) (x : Thread) : (s.setThr t x).timerAt = s.timerAt := by simp [State.setThr]
@[simp] theorem State.setThr_flushTags (s : State) (t : Thr) (x : Thread) : (s.setThr t x).flushTags = s.flushTags := by simp [State.setThr]
@[simp] theorem State.setThr_map (s : State) (t : Thr) (x : Thread) : (s.setThr t x).map = s.map := by simp [State.setThr]
@[simp] theorem State.setThr_hard (s : State) (t : Thr) (x : Thread) : (s.setThr t x).hard = s.hard := by simp [State.setThr]
@[simp] theorem State.setThr_st (s : State) (t : Thr) (x : Thread) : (s.setThr t x).st = s.st := by simp [State.setThr]
@[simp] theorem State.setThr_xltCmd (s : State) (t : Thr) (x : Thread) : (s.setThr t x).xltCmd = s.xltCmd := by simp [State.setThr]
@[simp] theorem State.setThr_dbgLatch (s : State) (t : Thr) (x : Thread) : (s.setThr t x).dbgLatch = s.dbgLatch := by simp [State.setThr]
@[simp] theorem State.setThr_dbgHeld (s : State) (t : Thr) (x : Thread) : (s.setThr t x).dbgHeld = s.dbgHeld := by simp [State.setThr]
@[simp] theorem State.setThr_scrubPos (s : State) (t : Thr) (x : Thread) : (s.setThr t x).scrubPos = s.scrubPos := by simp [State.setThr]
@[simp] theorem State.setThr_hwRep (s : State) (t : Thr) (x : Thread) : (s.setThr t x).hwRep = s.hwRep := by simp [State.setThr]
@[simp] theorem State.setThr_late (s : State) (t : Thr) (x : Thread) : (s.setThr t x).late = s.late := by simp [State.setThr]
@[simp] theorem State.setThr_survSyn (s : State) (t : Thr) (x : Thread) : (s.setThr t x).survSyn = s.survSyn := by simp [State.setThr]
@[simp] theorem State.setThr_romSyn (s : State) (t : Thr) (x : Thread) : (s.setThr t x).romSyn = s.romSyn := by simp [State.setThr]
@[simp] theorem State.setThr_mbStage (s : State) (t : Thr) (x : Thread) : (s.setThr t x).mbStage = s.mbStage := by simp [State.setThr]
@[simp] theorem State.setThr_chvTodo (s : State) (t : Thr) (x : Thread) : (s.setThr t x).chvTodo = s.chvTodo := by simp [State.setThr]

/-! ### A part read after a part is written -/

theorem State.hpAt_setHp (s : State) (p q : HpId) (x : HpShell) : (s.setHp p x).hpAt q = if q = p then x else s.hpAt q := by
  simp [State.hpAt, State.setHp, smGet_smSet, Fin.ext_iff]
theorem State.mpAt_setMp (s : State) (p q : MpId) (x : MpShell) : (s.setMp p x).mpAt q = if q = p then x else s.mpAt q := by
  simp [State.mpAt, State.setMp, smGet_smSet, Fin.ext_iff]
theorem State.nd_setNd (s : State) (p q : NodeId) (x : Node) : (s.setNd p x).nd q = if q = p then x else s.nd q := by
  simp [State.nd, State.setNd, smGet_smSet, Fin.ext_iff]
theorem State.qd_setQd (s : State) (p q : QuadId) (x : Quad) : (s.setQd p x).qd q = if q = p then x else s.qd q := by
  simp [State.qd, State.setQd, smGet_smSet, Fin.ext_iff]
theorem State.ses_setSes (s : State) (p q : Nat) (x : Session) : (s.setSes p x).ses q = if q = p then x else s.ses q := by
  simp [State.ses, State.setSes, smGet_smSet]
theorem State.ch_setCh (s : State) (p q : ChanId) (x : Chan) : (s.setCh p x).ch q = if q = p then x else s.ch q := by
  simp [State.ch, State.setCh, smGet_smSet, Fin.ext_iff]
theorem State.mac_setMac (s : State) (p q : Nat) (x : Macro) : (s.setMac p x).mac q = if q = p then x else s.mac q := by
  simp [State.mac, State.setMac, smGet_smSet]
theorem State.raw_setRaw (s : State) (a b : Nat) (v : BitVec 32) : (s.setRaw a v).raw b = if b = a then v else s.raw b := by
  simp [State.raw, State.setRaw, smGet_smSet]
theorem State.raw_setFld (s : State) (a b hi lo v : Nat) :
    (s.setFld a hi lo v).raw b = if b = a then setBf (s.raw a) hi lo v else s.raw b := by
  simp [State.setFld, State.raw_setRaw]
theorem State.core_setCore (s : State) (c d : CoreId) (x : Core) : (s.setCore c x).core d = if d = c then x else s.core d := by
  cases c with
  | chervil => cases d <;> rfl
  | node n =>
    cases d with
    | chervil => rfl
    | node m =>
      by_cases h : m = n
      · subst h; simp [State.core, State.setCore, State.nd_setNd]
      · simp [State.core, State.setCore, State.nd_setNd, h]
theorem Core.thr_setThr (c : Core) (t u : Nat) (x : Thread) : (c.setThr t x).thr u = if u = t then x else c.thr u := by
  simp [Core.thr, Core.setThr, smGet_smSet]
theorem State.thr_setThr (s : State) (t u : Thr) (x : Thread) : (s.setThr t x).thr u = if u = t then x else s.thr u := by
  obtain ⟨c, i⟩ := t
  obtain ⟨d, j⟩ := u
  simp only [State.thr, State.setThr, State.core_setCore, Thr.mk.injEq]
  by_cases h : d = c
  · subst h; simp [Core.thr_setThr, Fin.ext_iff]
  · simp [h]
theorem Node.trkAt_setTrk (x : Node) (i j : Nat) (r : Trk) : (x.setTrk i r).trkAt j = if j = i then r else x.trkAt j := by
  simp [Node.trkAt, Node.setTrk, smGet_smSet]
theorem Node.lbAt_setLb (x : Node) (i j : Nat) (r : Lbe) : (x.setLb i r).lbAt j = if j = i then r else x.lbAt j := by
  simp [Node.lbAt, Node.setLb, smGet_smSet]

@[simp] theorem State.hpAt_setHp_self (s : State) (p : HpId) (x : HpShell) : (s.setHp p x).hpAt p = x := by simp [State.hpAt_setHp]
@[simp] theorem State.mpAt_setMp_self (s : State) (p : MpId) (x : MpShell) : (s.setMp p x).mpAt p = x := by simp [State.mpAt_setMp]
@[simp] theorem State.nd_setNd_self (s : State) (p : NodeId) (x : Node) : (s.setNd p x).nd p = x := by simp [State.nd_setNd]
@[simp] theorem State.qd_setQd_self (s : State) (p : QuadId) (x : Quad) : (s.setQd p x).qd p = x := by simp [State.qd_setQd]
@[simp] theorem State.ses_setSes_self (s : State) (p : Nat) (x : Session) : (s.setSes p x).ses p = x := by simp [State.ses_setSes]
@[simp] theorem State.ch_setCh_self (s : State) (p : ChanId) (x : Chan) : (s.setCh p x).ch p = x := by simp [State.ch_setCh]
@[simp] theorem State.raw_setRaw_self (s : State) (a : Nat) (v : BitVec 32) : (s.setRaw a v).raw a = v := by simp [State.raw_setRaw]
@[simp] theorem State.core_setCore_self (s : State) (c : CoreId) (x : Core) : (s.setCore c x).core c = x := by simp [State.core_setCore]
@[simp] theorem State.thr_setThr_self (s : State) (t : Thr) (x : Thread) : (s.setThr t x).thr t = x := by simp [State.thr_setThr]

/-! ### A part whose map an update leaves -/

@[simp] theorem State.mpAt_setHp (s : State) (p : HpId) (x : HpShell) (q : MpId) : (s.setHp p x).mpAt q = s.mpAt q := rfl
@[simp] theorem State.nd_setHp (s : State) (p : HpId) (x : HpShell) (q : NodeId) : (s.setHp p x).nd q = s.nd q := rfl
@[simp] theorem State.qd_setHp (s : State) (p : HpId) (x : HpShell) (q : QuadId) : (s.setHp p x).qd q = s.qd q := rfl
@[simp] theorem State.ses_setHp (s : State) (p : HpId) (x : HpShell) (q : Nat) : (s.setHp p x).ses q = s.ses q := rfl
@[simp] theorem State.ch_setHp (s : State) (p : HpId) (x : HpShell) (q : ChanId) : (s.setHp p x).ch q = s.ch q := rfl
@[simp] theorem State.mac_setHp (s : State) (p : HpId) (x : HpShell) (q : Nat) : (s.setHp p x).mac q = s.mac q := rfl
@[simp] theorem State.raw_setHp (s : State) (p : HpId) (x : HpShell) (b : Nat) : (s.setHp p x).raw b = s.raw b := rfl
@[simp] theorem State.core_setHp (s : State) (p : HpId) (x : HpShell) (d : CoreId) : (s.setHp p x).core d = s.core d := by cases d <;> rfl
@[simp] theorem State.thr_setHp (s : State) (p : HpId) (x : HpShell) (u : Thr) : (s.setHp p x).thr u = s.thr u := by simp [State.thr]
@[simp] theorem State.hpAt_setMp (s : State) (m : MpId) (x : MpShell) (q : HpId) : (s.setMp m x).hpAt q = s.hpAt q := rfl
@[simp] theorem State.nd_setMp (s : State) (m : MpId) (x : MpShell) (q : NodeId) : (s.setMp m x).nd q = s.nd q := rfl
@[simp] theorem State.qd_setMp (s : State) (m : MpId) (x : MpShell) (q : QuadId) : (s.setMp m x).qd q = s.qd q := rfl
@[simp] theorem State.ses_setMp (s : State) (m : MpId) (x : MpShell) (q : Nat) : (s.setMp m x).ses q = s.ses q := rfl
@[simp] theorem State.ch_setMp (s : State) (m : MpId) (x : MpShell) (q : ChanId) : (s.setMp m x).ch q = s.ch q := rfl
@[simp] theorem State.mac_setMp (s : State) (m : MpId) (x : MpShell) (q : Nat) : (s.setMp m x).mac q = s.mac q := rfl
@[simp] theorem State.raw_setMp (s : State) (m : MpId) (x : MpShell) (b : Nat) : (s.setMp m x).raw b = s.raw b := rfl
@[simp] theorem State.core_setMp (s : State) (m : MpId) (x : MpShell) (d : CoreId) : (s.setMp m x).core d = s.core d := by cases d <;> rfl
@[simp] theorem State.thr_setMp (s : State) (m : MpId) (x : MpShell) (u : Thr) : (s.setMp m x).thr u = s.thr u := by simp [State.thr]
@[simp] theorem State.hpAt_setNd (s : State) (n : NodeId) (x : Node) (q : HpId) : (s.setNd n x).hpAt q = s.hpAt q := rfl
@[simp] theorem State.mpAt_setNd (s : State) (n : NodeId) (x : Node) (q : MpId) : (s.setNd n x).mpAt q = s.mpAt q := rfl
@[simp] theorem State.qd_setNd (s : State) (n : NodeId) (x : Node) (q : QuadId) : (s.setNd n x).qd q = s.qd q := rfl
@[simp] theorem State.ses_setNd (s : State) (n : NodeId) (x : Node) (q : Nat) : (s.setNd n x).ses q = s.ses q := rfl
@[simp] theorem State.ch_setNd (s : State) (n : NodeId) (x : Node) (q : ChanId) : (s.setNd n x).ch q = s.ch q := rfl
@[simp] theorem State.mac_setNd (s : State) (n : NodeId) (x : Node) (q : Nat) : (s.setNd n x).mac q = s.mac q := rfl
@[simp] theorem State.raw_setNd (s : State) (n : NodeId) (x : Node) (b : Nat) : (s.setNd n x).raw b = s.raw b := rfl
@[simp] theorem State.hpAt_setQd (s : State) (k : QuadId) (x : Quad) (q : HpId) : (s.setQd k x).hpAt q = s.hpAt q := rfl
@[simp] theorem State.mpAt_setQd (s : State) (k : QuadId) (x : Quad) (q : MpId) : (s.setQd k x).mpAt q = s.mpAt q := rfl
@[simp] theorem State.nd_setQd (s : State) (k : QuadId) (x : Quad) (q : NodeId) : (s.setQd k x).nd q = s.nd q := rfl
@[simp] theorem State.ses_setQd (s : State) (k : QuadId) (x : Quad) (q : Nat) : (s.setQd k x).ses q = s.ses q := rfl
@[simp] theorem State.ch_setQd (s : State) (k : QuadId) (x : Quad) (q : ChanId) : (s.setQd k x).ch q = s.ch q := rfl
@[simp] theorem State.mac_setQd (s : State) (k : QuadId) (x : Quad) (q : Nat) : (s.setQd k x).mac q = s.mac q := rfl
@[simp] theorem State.raw_setQd (s : State) (k : QuadId) (x : Quad) (b : Nat) : (s.setQd k x).raw b = s.raw b := rfl
@[simp] theorem State.core_setQd (s : State) (k : QuadId) (x : Quad) (d : CoreId) : (s.setQd k x).core d = s.core d := by cases d <;> rfl
@[simp] theorem State.thr_setQd (s : State) (k : QuadId) (x : Quad) (u : Thr) : (s.setQd k x).thr u = s.thr u := by simp [State.thr]
@[simp] theorem State.hpAt_setSes (s : State) (h : Nat) (x : Session) (q : HpId) : (s.setSes h x).hpAt q = s.hpAt q := rfl
@[simp] theorem State.mpAt_setSes (s : State) (h : Nat) (x : Session) (q : MpId) : (s.setSes h x).mpAt q = s.mpAt q := rfl
@[simp] theorem State.nd_setSes (s : State) (h : Nat) (x : Session) (q : NodeId) : (s.setSes h x).nd q = s.nd q := rfl
@[simp] theorem State.qd_setSes (s : State) (h : Nat) (x : Session) (q : QuadId) : (s.setSes h x).qd q = s.qd q := rfl
@[simp] theorem State.ch_setSes (s : State) (h : Nat) (x : Session) (q : ChanId) : (s.setSes h x).ch q = s.ch q := rfl
@[simp] theorem State.mac_setSes (s : State) (h : Nat) (x : Session) (q : Nat) : (s.setSes h x).mac q = s.mac q := rfl
@[simp] theorem State.raw_setSes (s : State) (h : Nat) (x : Session) (b : Nat) : (s.setSes h x).raw b = s.raw b := rfl
@[simp] theorem State.core_setSes (s : State) (h : Nat) (x : Session) (d : CoreId) : (s.setSes h x).core d = s.core d := by cases d <;> rfl
@[simp] theorem State.thr_setSes (s : State) (h : Nat) (x : Session) (u : Thr) : (s.setSes h x).thr u = s.thr u := by simp [State.thr]
@[simp] theorem State.hpAt_setCh (s : State) (c : ChanId) (x : Chan) (q : HpId) : (s.setCh c x).hpAt q = s.hpAt q := rfl
@[simp] theorem State.mpAt_setCh (s : State) (c : ChanId) (x : Chan) (q : MpId) : (s.setCh c x).mpAt q = s.mpAt q := rfl
@[simp] theorem State.nd_setCh (s : State) (c : ChanId) (x : Chan) (q : NodeId) : (s.setCh c x).nd q = s.nd q := rfl
@[simp] theorem State.qd_setCh (s : State) (c : ChanId) (x : Chan) (q : QuadId) : (s.setCh c x).qd q = s.qd q := rfl
@[simp] theorem State.ses_setCh (s : State) (c : ChanId) (x : Chan) (q : Nat) : (s.setCh c x).ses q = s.ses q := rfl
@[simp] theorem State.mac_setCh (s : State) (c : ChanId) (x : Chan) (q : Nat) : (s.setCh c x).mac q = s.mac q := rfl
@[simp] theorem State.raw_setCh (s : State) (c : ChanId) (x : Chan) (b : Nat) : (s.setCh c x).raw b = s.raw b := rfl
@[simp] theorem State.core_setCh (s : State) (c : ChanId) (x : Chan) (d : CoreId) : (s.setCh c x).core d = s.core d := by cases d <;> rfl
@[simp] theorem State.thr_setCh (s : State) (c : ChanId) (x : Chan) (u : Thr) : (s.setCh c x).thr u = s.thr u := by simp [State.thr]
@[simp] theorem State.hpAt_setMac (s : State) (i : Nat) (x : Macro) (q : HpId) : (s.setMac i x).hpAt q = s.hpAt q := rfl
@[simp] theorem State.mpAt_setMac (s : State) (i : Nat) (x : Macro) (q : MpId) : (s.setMac i x).mpAt q = s.mpAt q := rfl
@[simp] theorem State.nd_setMac (s : State) (i : Nat) (x : Macro) (q : NodeId) : (s.setMac i x).nd q = s.nd q := rfl
@[simp] theorem State.qd_setMac (s : State) (i : Nat) (x : Macro) (q : QuadId) : (s.setMac i x).qd q = s.qd q := rfl
@[simp] theorem State.ses_setMac (s : State) (i : Nat) (x : Macro) (q : Nat) : (s.setMac i x).ses q = s.ses q := rfl
@[simp] theorem State.ch_setMac (s : State) (i : Nat) (x : Macro) (q : ChanId) : (s.setMac i x).ch q = s.ch q := rfl
@[simp] theorem State.raw_setMac (s : State) (i : Nat) (x : Macro) (b : Nat) : (s.setMac i x).raw b = s.raw b := rfl
@[simp] theorem State.core_setMac (s : State) (i : Nat) (x : Macro) (d : CoreId) : (s.setMac i x).core d = s.core d := by cases d <;> rfl
@[simp] theorem State.thr_setMac (s : State) (i : Nat) (x : Macro) (u : Thr) : (s.setMac i x).thr u = s.thr u := by simp [State.thr]
@[simp] theorem State.hpAt_setRaw (s : State) (a : Nat) (v : BitVec 32) (q : HpId) : (s.setRaw a v).hpAt q = s.hpAt q := rfl
@[simp] theorem State.mpAt_setRaw (s : State) (a : Nat) (v : BitVec 32) (q : MpId) : (s.setRaw a v).mpAt q = s.mpAt q := rfl
@[simp] theorem State.nd_setRaw (s : State) (a : Nat) (v : BitVec 32) (q : NodeId) : (s.setRaw a v).nd q = s.nd q := rfl
@[simp] theorem State.qd_setRaw (s : State) (a : Nat) (v : BitVec 32) (q : QuadId) : (s.setRaw a v).qd q = s.qd q := rfl
@[simp] theorem State.ses_setRaw (s : State) (a : Nat) (v : BitVec 32) (q : Nat) : (s.setRaw a v).ses q = s.ses q := rfl
@[simp] theorem State.ch_setRaw (s : State) (a : Nat) (v : BitVec 32) (q : ChanId) : (s.setRaw a v).ch q = s.ch q := rfl
@[simp] theorem State.mac_setRaw (s : State) (a : Nat) (v : BitVec 32) (q : Nat) : (s.setRaw a v).mac q = s.mac q := rfl
@[simp] theorem State.core_setRaw (s : State) (a : Nat) (v : BitVec 32) (d : CoreId) : (s.setRaw a v).core d = s.core d := by cases d <;> rfl
@[simp] theorem State.thr_setRaw (s : State) (a : Nat) (v : BitVec 32) (u : Thr) : (s.setRaw a v).thr u = s.thr u := by simp [State.thr]
@[simp] theorem State.hpAt_setFld (s : State) (a hi lo x : Nat) (q : HpId) : (s.setFld a hi lo x).hpAt q = s.hpAt q := rfl
@[simp] theorem State.mpAt_setFld (s : State) (a hi lo x : Nat) (q : MpId) : (s.setFld a hi lo x).mpAt q = s.mpAt q := rfl
@[simp] theorem State.nd_setFld (s : State) (a hi lo x : Nat) (q : NodeId) : (s.setFld a hi lo x).nd q = s.nd q := rfl
@[simp] theorem State.qd_setFld (s : State) (a hi lo x : Nat) (q : QuadId) : (s.setFld a hi lo x).qd q = s.qd q := rfl
@[simp] theorem State.ses_setFld (s : State) (a hi lo x : Nat) (q : Nat) : (s.setFld a hi lo x).ses q = s.ses q := rfl
@[simp] theorem State.ch_setFld (s : State) (a hi lo x : Nat) (q : ChanId) : (s.setFld a hi lo x).ch q = s.ch q := rfl
@[simp] theorem State.mac_setFld (s : State) (a hi lo x : Nat) (q : Nat) : (s.setFld a hi lo x).mac q = s.mac q := rfl
@[simp] theorem State.core_setFld (s : State) (a hi lo x : Nat) (d : CoreId) : (s.setFld a hi lo x).core d = s.core d := by cases d <;> rfl
@[simp] theorem State.thr_setFld (s : State) (a hi lo x : Nat) (u : Thr) : (s.setFld a hi lo x).thr u = s.thr u := by simp [State.thr]
@[simp] theorem State.hpAt_setCore (s : State) (c : CoreId) (x : Core) (q : HpId) : (s.setCore c x).hpAt q = s.hpAt q := by simp [State.hpAt]
@[simp] theorem State.mpAt_setCore (s : State) (c : CoreId) (x : Core) (q : MpId) : (s.setCore c x).mpAt q = s.mpAt q := by simp [State.mpAt]
@[simp] theorem State.qd_setCore (s : State) (c : CoreId) (x : Core) (q : QuadId) : (s.setCore c x).qd q = s.qd q := by simp [State.qd]
@[simp] theorem State.ses_setCore (s : State) (c : CoreId) (x : Core) (q : Nat) : (s.setCore c x).ses q = s.ses q := by simp [State.ses]
@[simp] theorem State.ch_setCore (s : State) (c : CoreId) (x : Core) (q : ChanId) : (s.setCore c x).ch q = s.ch q := by simp [State.ch]
@[simp] theorem State.mac_setCore (s : State) (c : CoreId) (x : Core) (q : Nat) : (s.setCore c x).mac q = s.mac q := by simp [State.mac]
@[simp] theorem State.raw_setCore (s : State) (c : CoreId) (x : Core) (b : Nat) : (s.setCore c x).raw b = s.raw b := by simp [State.raw]
@[simp] theorem State.hpAt_setThr (s : State) (t : Thr) (x : Thread) (q : HpId) : (s.setThr t x).hpAt q = s.hpAt q := by simp [State.hpAt]
@[simp] theorem State.mpAt_setThr (s : State) (t : Thr) (x : Thread) (q : MpId) : (s.setThr t x).mpAt q = s.mpAt q := by simp [State.mpAt]
@[simp] theorem State.qd_setThr (s : State) (t : Thr) (x : Thread) (q : QuadId) : (s.setThr t x).qd q = s.qd q := by simp [State.qd]
@[simp] theorem State.ses_setThr (s : State) (t : Thr) (x : Thread) (q : Nat) : (s.setThr t x).ses q = s.ses q := by simp [State.ses]
@[simp] theorem State.ch_setThr (s : State) (t : Thr) (x : Thread) (q : ChanId) : (s.setThr t x).ch q = s.ch q := by simp [State.ch]
@[simp] theorem State.mac_setThr (s : State) (t : Thr) (x : Thread) (q : Nat) : (s.setThr t x).mac q = s.mac q := by simp [State.mac]
@[simp] theorem State.raw_setThr (s : State) (t : Thr) (x : Thread) (b : Nat) : (s.setThr t x).raw b = s.raw b := by simp [State.raw]

end Sys2Proof.Machine
end

