-- ==== Sys2Proof/Laws/Keeps/Base.lean ====
section
/-! SUPPORT. Sys2Proof/Laws/Keeps/Base.lean: what every operation keeps: the queue, the clock, the canonical form, and the FLUSH
mode. -/

namespace Sys2Proof.Machine

/-- From `s` to `t` the queue and the clock are as they were, free values are not used twice, the canonical form is kept and
FLUSH is not left. -/
structure Keeps (s t : State) : Prop where
  pending : t.pending = s.pending
  time : t.time = s.time
  tmo : t.tmo = s.tmo
  free : s.free ≤ t.free
  canon : s.Canon → t.Canon
  flush : s.mode = .flush → t.mode = .flush

theorem Keeps.refl (s : State) : Keeps s s := ⟨rfl, rfl, rfl, le_refl _, id, id⟩

theorem Keeps.trans {s t u : State} (h : Keeps s t) (k : Keeps t u) : Keeps s u :=
  ⟨k.pending.trans h.pending, k.time.trans h.time, k.tmo.trans h.tmo, le_trans h.free k.free, fun c => k.canon (h.canon c),
    fun c => k.flush (h.flush c)⟩

/-- An update of fields that none of this concerns. -/
theorem Keeps.upd {s0 s t : State} (h : Keeps s0 s) (h1 : t.pending = s.pending) (h2 : t.time = s.time) (h3 : t.tmo = s.tmo)
    (h4 : s.free ≤ t.free) (h5 : t.mode = s.mode) (c1 : t.bmem = s.bmem) (c2 : t.store = s.store) (c3 : t.pageBuf = s.pageBuf)
    (c4 : t.regs = s.regs) (c5 : t.fuse = s.fuse) (c6 : t.hp = s.hp) (c7 : t.mp = s.mp) (c8 : t.node = s.node)
    (c9 : t.quad = s.quad) (c10 : t.chan = s.chan) : Keeps s0 t := by
  refine h.trans ⟨h1, h2, h3, h4, fun c => ?_, fun m => h5.trans m⟩
  exact ⟨c1 ▸ c.bmem, c2 ▸ c.store, c3 ▸ c.pageBuf, c4 ▸ c.regs, c5 ▸ c.fuse, c6 ▸ c.hp, c7 ▸ c.mp, c8 ▸ c.node, c9 ▸ c.quad,
    c10 ▸ c.chan⟩

/-- A step keeps the rest when its canonical form is shown apart. -/
theorem Keeps.of {s0 s t : State} (h : Keeps s0 s) (h1 : t.pending = s.pending) (h2 : t.time = s.time) (h3 : t.tmo = s.tmo)
    (h4 : s.free ≤ t.free) (h5 : t.mode = s.mode) (hc : s.Canon → t.Canon) : Keeps s0 t :=
  h.trans ⟨h1, h2, h3, h4, hc, fun m => h5.trans m⟩

theorem foldl_keeps {s0 : State} {α β : Type} (p : β → State) (f : β → α → β) (l : List α) (b : β) (hb : Keeps s0 (p b))
    (hf : ∀ b a, Keeps s0 (p b) → Keeps s0 (p (f b a))) : Keeps s0 (p (l.foldl f b)) := by
  induction l generalizing b with
  | nil => exact hb
  | cons a l ih => exact ih _ (hf _ _ hb)

theorem foldl_keeps_id {s0 : State} {α : Type} (f : State → α → State) (l : List α) (b : State) (hb : Keeps s0 b)
    (hf : ∀ b a, Keeps s0 b → Keeps s0 (f b a)) : Keeps s0 (l.foldl f b) := foldl_keeps id f l b hb hf
theorem foldl_keeps_fst {s0 : State} {α γ : Type} (f : State × γ → α → State × γ) (l : List α) (b : State × γ) (hb : Keeps s0 b.1)
    (hf : ∀ b a, Keeps s0 b.1 → Keeps s0 (f b a).1) : Keeps s0 (l.foldl f b).1 := foldl_keeps Prod.fst f l b hb hf
theorem foldl_keeps_snd {s0 : State} {α γ : Type} (f : γ × State → α → γ × State) (l : List α) (b : γ × State) (hb : Keeps s0 b.2)
    (hf : ∀ b a, Keeps s0 b.2 → Keeps s0 (f b a).2) : Keeps s0 (l.foldl f b).2 := foldl_keeps Prod.snd f l b hb hf

theorem State.setHp_keeps {s0 s : State} (h : Keeps s0 s) (p : HpId) (x : HpShell) : Keeps s0 (s.setHp p x) :=
  h.of rfl rfl rfl (le_refl _) rfl fun c => { c with hp := smWf_smSet _ _ _ _ c.hp }
theorem State.setMp_keeps {s0 s : State} (h : Keeps s0 s) (p : MpId) (x : MpShell) : Keeps s0 (s.setMp p x) :=
  h.of rfl rfl rfl (le_refl _) rfl fun c => { c with mp := smWf_smSet _ _ _ _ c.mp }
theorem State.setNd_keeps {s0 s : State} (h : Keeps s0 s) (p : NodeId) (x : Node) : Keeps s0 (s.setNd p x) :=
  h.of rfl rfl rfl (le_refl _) rfl fun c => { c with node := smWf_smSet _ _ _ _ c.node }
theorem State.setQd_keeps {s0 s : State} (h : Keeps s0 s) (p : QuadId) (x : Quad) : Keeps s0 (s.setQd p x) :=
  h.of rfl rfl rfl (le_refl _) rfl fun c => { c with quad := smWf_smSet _ _ _ _ c.quad }
theorem State.setCh_keeps {s0 s : State} (h : Keeps s0 s) (p : ChanId) (x : Chan) : Keeps s0 (s.setCh p x) :=
  h.of rfl rfl rfl (le_refl _) rfl fun c => { c with chan := smWf_smSet _ _ _ _ c.chan }
theorem State.setRaw_keeps {s0 s : State} (h : Keeps s0 s) (a : Nat) (v : BitVec 32) : Keeps s0 (s.setRaw a v) :=
  h.of rfl rfl rfl (le_refl _) rfl fun c => { c with regs := smWf_smSet _ _ _ _ c.regs }
theorem Keeps.bmem {s0 s : State} (h : Keeps s0 s) (m : Memory) (hm : Memory.wf s.bmem = true → Memory.wf m = true) :
    Keeps s0 { s with bmem := m } :=
  h.of rfl rfl rfl (le_refl _) rfl fun c => { c with bmem := hm c.bmem }


/-- The same of a state that may be absent. -/
inductive OptKeeps (s0 : State) : Option State → Prop where
  | none : OptKeeps s0 none
  | some {t : State} (h : Keeps s0 t) : OptKeeps s0 (some t)
theorem OptKeeps.elim {s0 t : State} {o : Option State} (h : OptKeeps s0 o) (e : o = .some t) : Keeps s0 t := by
  subst e; cases h; assumption

/-- The same of a state with a value, which may be absent. -/
inductive OptKeeps2 {α : Type} (s0 : State) : Option (α × State) → Prop where
  | none : OptKeeps2 s0 none
  | some {i : α} {t : State} (h : Keeps s0 t) : OptKeeps2 s0 (some (i, t))
theorem OptKeeps2.elim {α : Type} {s0 t : State} {o : Option (α × State)} {i : α} (h : OptKeeps2 s0 o) (e : o = .some (i, t)) :
    Keeps s0 t := by
  subst e; cases h; assumption

theorem OptKeeps.map {s0 : State} {o : Option State} (h : OptKeeps s0 o) (f : State → State)
    (hf : ∀ s, Keeps s0 s → Keeps s0 (f s)) : OptKeeps s0 (o.map f) := by
  cases h with
  | none => exact .none
  | some h => exact .some (hf _ h)
theorem OptKeeps.getD {s0 s : State} {o : Option State} (h : OptKeeps s0 o) (hs : Keeps s0 s) : Keeps s0 (o.getD s) := by
  cases h with
  | none => exact hs
  | some h => exact h
theorem OptKeeps.mapSnd {α : Type} {s0 : State} {o : Option (α × State)} (h : OptKeeps2 s0 o) (f : α × State → State)
    (hf : ∀ a s, Keeps s0 s → Keeps s0 (f (a, s))) : OptKeeps s0 (o.map f) := by
  cases h with
  | none => exact .none
  | some h => exact .some (hf _ _ h)

theorem keeps_fst {α : Type} {s0 t : State} {x : State × α} {a : α} (h : Keeps s0 x.1) (e : x = (t, a)) : Keeps s0 t := by
  subst e; exact h
/-- A result that is known as a pair keeps what its state keeps. -/
theorem keeps_of_snd {s0 t : State} {α : Type} {p : α × State} {a : α} (h : Keeps s0 t) (e : p = (a, t)) : Keeps s0 p.2 := e ▸ h
theorem keeps_of_snd2 {s0 t : State} {α β : Type} {p : α × β × State} {a : α} {b : β} (h : Keeps s0 t) (e : p = (a, b, t)) :
    Keeps s0 p.2.2 := e ▸ h
theorem keeps_snd {α : Type} {s0 t : State} {x : α × State} {a : α} (h : Keeps s0 x.2) (e : x = (a, t)) : Keeps s0 t := by
  subst e; exact h
theorem keeps_snd2 {α β : Type} {s0 t : State} {x : α × β × State} {a : α} {b : β} (h : Keeps s0 x.2.2) (e : x = (a, b, t)) :
    Keeps s0 t := by
  subst e; exact h

theorem keeps_ite {s0 a b : State} {c : Prop} [Decidable c] (ha : c → Keeps s0 a) (hb : ¬c → Keeps s0 b) :
    Keeps s0 (if c then a else b) := by
  split
  · exact ha ‹_›
  · exact hb ‹_›
theorem Keeps.bmemC {s0 s : State} (h : Keeps s0 s) (m : Memory) (hm : s.Canon → Memory.wf m = true) :
    Keeps s0 { s with bmem := m } := h.of rfl rfl rfl (le_refl _) rfl fun c => { c with bmem := hm c }
theorem Keeps.storeC {s0 s : State} (h : Keeps s0 s) (m : Memory) (hm : s.Canon → Memory.wf m = true) :
    Keeps s0 { s with store := m } := h.of rfl rfl rfl (le_refl _) rfl fun c => { c with store := hm c }
theorem Keeps.pageBufC {s0 s : State} (h : Keeps s0 s) (m : Memory) (hm : s.Canon → Memory.wf m = true) :
    Keeps s0 { s with pageBuf := m } := h.of rfl rfl rfl (le_refl _) rfl fun c => { c with pageBuf := hm c }
theorem Keeps.freeUp {s0 s : State} (h : Keeps s0 s) (k : Nat) : Keeps s0 { s with free := s.free + k } :=
  h.upd rfl rfl rfl (Nat.le_add_right _ _) rfl rfl rfl rfl rfl rfl rfl rfl rfl rfl rfl
theorem Keeps.fuseW {s0 s : State} (h : Keeps s0 s) (a : Nat) (w : BitVec 32) :
    Keeps s0 { s with fuse := smSet (fun _ => (0 : BitVec 32)) s.fuse a w } :=
  h.of rfl rfl rfl (le_refl _) rfl fun c => { c with fuse := smWf_smSet _ _ _ _ c.fuse }
theorem foldl_optKeeps2 {s0 : State} {α γ : Type} (f : Option (γ × State) → α → Option (γ × State)) (l : List α)
    (b : Option (γ × State)) (hb : OptKeeps2 s0 b) (hf : ∀ b a, OptKeeps2 s0 b → OptKeeps2 s0 (f b a)) :
    OptKeeps2 s0 (l.foldl f b) := by
  induction l generalizing b with
  | nil => exact hb
  | cons a l ih => exact ih _ (hf _ _ hb)
theorem OptKeeps2.get {α : Type} {s0 : State} {i : α} {t : State} (h : OptKeeps2 s0 (Option.some (i, t))) : Keeps s0 t := by
  cases h; assumption
/-- What a command's outcome keeps: it is a next state that keeps what it should. -/
def Out.Keeps (o : Out) (s0 : State) : Prop := ∃ t, o = .next t ∧ Sys2Proof.Machine.Keeps s0 t
theorem Out.keeps_next {s0 s : State} (h : Sys2Proof.Machine.Keeps s0 s) : Out.Keeps (.next s) s0 := ⟨s, rfl, h⟩

/-- A state written out from `s` with only fields of no concern replaced. -/
theorem Keeps.lit {s0 s : State} (h : Keeps s0 s) (reftickOk : Bool) (pins : Option StrapPins) (defaulted : BitVec 9) (defaultedU : BitVec 9) (strapNow : Option StrapPins) (strapChg : SMap Nat) (fullPinAt : Nat) (homeMap : SMap NodeId) (mpMap : SMap MpId) (sess : SMap Session) (chv : Core) (xlt : SMap Macro) (bm : SMap (Option BmReq)) (psCmd : Option (BitVec 3 × BitVec 20 × BitVec 32 × BitVec 2 × Nat)) (storeProt : BitVec 2) (fusePgm : Option (BitVec 10 × BitVec 32 × Nat)) (fuseRd : Option Nat) (fuseTodo : List (BitVec 10 × BitVec 32)) (evq : List (BitVec 256)) (evDrops : BitVec 32) (evSeq : BitVec 16) (evSince : Nat) (evBeats : List (BitVec 64 × Bool)) (meas : Meas) (tar : Tarragon) (pmc : SMap Pmc) (pmcBusyTo : Nat) (romRst : Bool) (bootCopied : Bool) (queues : SMap Queue) (rout : SMap (List RPkt)) (rotLast : SMap Nat) (shellAck : SMap (BitVec 32)) (cfg : List CfgReq) (epAcc : Option (Bool × Bool)) (epAt : Nat) (epMaps : Option (SMap NodeId × SMap MpId)) (epSink : Option (BitVec 32)) (pwrFail : Bool) (prior : Mode) (holdAt : Nat) (released : Bool) (hourTicks : Nat) (wdogAt : Nat) (flushAt : Nat) (timerAt : Nat) (flushTags : List (Nat × Nat)) (map : RepairMap) (hard : RepairMap) (st : StRun) (xltCmd : Option (BitVec 32)) (dbgLatch : Option (Nat × Word)) (dbgHeld : Option (Nat × BitVec 32)) (scrubPos : SMap Nat) (hwRep : List (BitVec 40 × BitVec 4)) (late : List (Thr × SbEnt)) (survSyn : SMap (BitVec 8)) (romSyn : SMap (BitVec 8)) (mbStage : Nat) (chvTodo : List (Nat × Nat × BmErr))
    (free : Nat) (hf : s.free ≤ free) :
    Keeps s0 { pending := s.pending, time := s.time, tmo := s.tmo, reftickOk := reftickOk, free := free, mode := s.mode, regs := s.regs, pins := pins, defaulted := defaulted, defaultedU := defaultedU, strapNow := strapNow, strapChg := strapChg, fullPinAt := fullPinAt, homeMap := homeMap, mpMap := mpMap, hp := s.hp, mp := s.mp, sess := sess, node := s.node, quad := s.quad, chv := chv, xlt := xlt, chan := s.chan, bmem := s.bmem, bm := bm, store := s.store, pageBuf := s.pageBuf, psCmd := psCmd, storeProt := storeProt, fuse := s.fuse, fusePgm := fusePgm, fuseRd := fuseRd, fuseTodo := fuseTodo, evq := evq, evDrops := evDrops, evSeq := evSeq, evSince := evSince, evBeats := evBeats, meas := meas, tar := tar, pmc := pmc, pmcBusyTo := pmcBusyTo, romRst := romRst, bootCopied := bootCopied, queues := queues, rout := rout, rotLast := rotLast, shellAck := shellAck, cfg := cfg, epAcc := epAcc, epAt := epAt, epMaps := epMaps, epSink := epSink, pwrFail := pwrFail, prior := prior, holdAt := holdAt, released := released, hourTicks := hourTicks, wdogAt := wdogAt, flushAt := flushAt, timerAt := timerAt, flushTags := flushTags, map := map, hard := hard, st := st, xltCmd := xltCmd, dbgLatch := dbgLatch, dbgHeld := dbgHeld, scrubPos := scrubPos, hwRep := hwRep, late := late, survSyn := survSyn, romSyn := romSyn, mbStage := mbStage, chvTodo := chvTodo } :=
  h.upd rfl rfl rfl hf rfl rfl rfl rfl rfl rfl rfl rfl rfl rfl rfl
/-- The same with block memory rewritten in canonical form. -/
theorem Keeps.litBmem {s0 s : State} (h : Keeps s0 s) (reftickOk : Bool) (pins : Option StrapPins) (defaulted : BitVec 9) (defaultedU : BitVec 9) (strapNow : Option StrapPins) (strapChg : SMap Nat) (fullPinAt : Nat) (homeMap : SMap NodeId) (mpMap : SMap MpId) (sess : SMap Session) (chv : Core) (xlt : SMap Macro) (bmem : Memory) (bm : SMap (Option BmReq)) (psCmd : Option (BitVec 3 × BitVec 20 × BitVec 32 × BitVec 2 × Nat)) (storeProt : BitVec 2) (fusePgm : Option (BitVec 10 × BitVec 32 × Nat)) (fuseRd : Option Nat) (fuseTodo : List (BitVec 10 × BitVec 32)) (evq : List (BitVec 256)) (evDrops : BitVec 32) (evSeq : BitVec 16) (evSince : Nat) (evBeats : List (BitVec 64 × Bool)) (meas : Meas) (tar : Tarragon) (pmc : SMap Pmc) (pmcBusyTo : Nat) (romRst : Bool) (bootCopied : Bool) (queues : SMap Queue) (rout : SMap (List RPkt)) (rotLast : SMap Nat) (shellAck : SMap (BitVec 32)) (cfg : List CfgReq) (epAcc : Option (Bool × Bool)) (epAt : Nat) (epMaps : Option (SMap NodeId × SMap MpId)) (epSink : Option (BitVec 32)) (pwrFail : Bool) (prior : Mode) (holdAt : Nat) (released : Bool) (hourTicks : Nat) (wdogAt : Nat) (flushAt : Nat) (timerAt : Nat) (flushTags : List (Nat × Nat)) (map : RepairMap) (hard : RepairMap) (st : StRun) (xltCmd : Option (BitVec 32)) (dbgLatch : Option (Nat × Word)) (dbgHeld : Option (Nat × BitVec 32)) (scrubPos : SMap Nat) (hwRep : List (BitVec 40 × BitVec 4)) (late : List (Thr × SbEnt)) (survSyn : SMap (BitVec 8)) (romSyn : SMap (BitVec 8)) (mbStage : Nat) (chvTodo : List (Nat × Nat × BmErr))
    (free : Nat) (hf : s.free ≤ free) (hm : Memory.wf s.bmem = true → Memory.wf bmem = true) :
    Keeps s0 { pending := s.pending, time := s.time, tmo := s.tmo, reftickOk := reftickOk, free := free, mode := s.mode, regs := s.regs, pins := pins, defaulted := defaulted, defaultedU := defaultedU, strapNow := strapNow, strapChg := strapChg, fullPinAt := fullPinAt, homeMap := homeMap, mpMap := mpMap, hp := s.hp, mp := s.mp, sess := sess, node := s.node, quad := s.quad, chv := chv, xlt := xlt, chan := s.chan, bmem := bmem, bm := bm, store := s.store, pageBuf := s.pageBuf, psCmd := psCmd, storeProt := storeProt, fuse := s.fuse, fusePgm := fusePgm, fuseRd := fuseRd, fuseTodo := fuseTodo, evq := evq, evDrops := evDrops, evSeq := evSeq, evSince := evSince, evBeats := evBeats, meas := meas, tar := tar, pmc := pmc, pmcBusyTo := pmcBusyTo, romRst := romRst, bootCopied := bootCopied, queues := queues, rout := rout, rotLast := rotLast, shellAck := shellAck, cfg := cfg, epAcc := epAcc, epAt := epAt, epMaps := epMaps, epSink := epSink, pwrFail := pwrFail, prior := prior, holdAt := holdAt, released := released, hourTicks := hourTicks, wdogAt := wdogAt, flushAt := flushAt, timerAt := timerAt, flushTags := flushTags, map := map, hard := hard, st := st, xltCmd := xltCmd, dbgLatch := dbgLatch, dbgHeld := dbgHeld, scrubPos := scrubPos, hwRep := hwRep, late := late, survSyn := survSyn, romSyn := romSyn, mbStage := mbStage, chvTodo := chvTodo } :=
  h.of rfl rfl rfl hf rfl fun c => ⟨hm c.bmem, c.store, c.pageBuf, c.regs, c.fuse, c.hp, c.mp, c.node, c.quad, c.chan⟩

end Sys2Proof.Machine
end

