-- ==== Sys2Proof/Laws/Keeps/Flags.lean ====
section
/-! SUPPORT. Sys2Proof/Laws/Keeps/Flags.lean: what the operations of Machine/Flags.lean keep. -/

namespace Sys2Proof.Machine

theorem State.setFld_keeps {s0 s : State} (h : Keeps s0 s) (a1 : ℕ) (a2 : ℕ) (a3 : ℕ) (a4 : ℕ) : Keeps s0 (State.setFld s a1 a2 a3 a4) := by
  unfold State.setFld
  try dsimp only
  repeat' (first | with_reducible assumption | with_reducible apply State.setRaw_keeps)

end Sys2Proof.Machine
end

