-- ==== Sys2Proof/Laws/Keeps/Ops.lean ====
section
/-! SUPPORT. Sys2Proof/Laws/Keeps/Ops.lean: what the operations of Machine/Ops.lean keep. -/

namespace Sys2Proof.Machine

theorem State.setSes_keeps {s0 s : State} (h : Keeps s0 s) (a1 : ℕ) (a2 : Session) : Keeps s0 (State.setSes s a1 a2) := by
  unfold State.setSes
  try dsimp only
  repeat' (first | with_reducible assumption | split | (intro) | fail_if_no_progress with_reducible apply Keeps.lit | with_reducible exact Nat.le_refl _)
theorem State.setMac_keeps {s0 s : State} (h : Keeps s0 s) (a1 : ℕ) (a2 : Macro) : Keeps s0 (State.setMac s a1 a2) := by
  unfold State.setMac
  try dsimp only
  repeat' (first | with_reducible assumption | split | (intro) | fail_if_no_progress with_reducible apply Keeps.lit | with_reducible exact Nat.le_refl _)
theorem State.setCore_keeps {s0 s : State} (h : Keeps s0 s) (a1 : CoreId) (a2 : Core) : Keeps s0 (State.setCore s a1 a2) := by
  cases a1
  · exact State.setNd_keeps h _ _
  · exact h.upd rfl rfl rfl (le_refl _) rfl rfl rfl rfl rfl rfl rfl rfl rfl rfl rfl
theorem State.setThr_keeps {s0 s : State} (h : Keeps s0 s) (a1 : Thr) (a2 : Thread) : Keeps s0 (State.setThr s a1 a2) := by
  unfold State.setThr
  try dsimp only
  repeat' (first | with_reducible assumption | with_reducible apply State.setCore_keeps)
theorem State.modNd_keeps {s0 s : State} (h : Keeps s0 s) (a1 : NodeId) (a2 : Node → Node) : Keeps s0 (State.modNd s a1 a2) := by
  unfold State.modNd
  try dsimp only
  repeat' (first | with_reducible assumption | with_reducible apply State.setNd_keeps)
theorem State.modTrk_keeps {s0 s : State} (h : Keeps s0 s) (a1 : NodeId) (a2 : ℕ) (a3 : Trk → Trk) : Keeps s0 (State.modTrk s a1 a2 a3) := by
  unfold State.modTrk
  try dsimp only
  repeat' (first | with_reducible assumption | with_reducible apply State.modNd_keeps)
theorem State.choose_keeps {s0 s : State} (h : Keeps s0 s)  : Keeps s0 (State.choose s).2 := h.upd rfl rfl rfl (Nat.le_succ _) rfl rfl rfl rfl rfl rfl rfl rfl rfl rfl rfl
theorem State.chvEvent_keeps {s0 s : State} (h : Keeps s0 s) (a1 : ℕ) (a2 : ℕ) : Keeps s0 (State.chvEvent s a1 a2) := by
  unfold State.chvEvent
  try dsimp only
  repeat' (first | with_reducible assumption | with_reducible apply State.choose_keeps | with_reducible apply OptKeeps.map | with_reducible apply OptKeeps.mapSnd | split | (intro) | (refine keeps_snd (State.choose_keeps ?_ ) (by with_reducible assumption)) | (refine keeps_snd ?_ (by with_reducible assumption)) | (refine keeps_fst ?_ (by with_reducible assumption)) | fail_if_no_progress with_reducible apply Keeps.lit | with_reducible exact Nat.le_refl _)
theorem State.bump_keeps {s0 s : State} (h : Keeps s0 s) (a1 : PmcId) (a2 : ℕ) : Keeps s0 (State.bump s a1 a2) := by
  unfold State.bump
  try dsimp only
  repeat' (first | with_reducible assumption | with_reducible apply State.setFld_keeps | with_reducible apply State.chvEvent_keeps | split | (intro) | fail_if_no_progress with_reducible apply Keeps.lit | with_reducible exact Nat.le_refl _)
theorem State.cntN_keeps {s0 s : State} (h : Keeps s0 s) (a1 : NodeId) (a2 : ℕ) (a3 : ℕ) : Keeps s0 (State.cntN s a1 a2 a3) := by
  unfold State.cntN
  try dsimp only
  repeat' (first | with_reducible assumption | with_reducible apply State.bump_keeps | with_reducible apply foldl_keeps_id | with_reducible apply foldl_keeps_fst | with_reducible apply foldl_keeps_snd | split | (intro))
theorem State.cntOpen_keeps {s0 s : State} (h : Keeps s0 s) (a1 : NodeId) (a2 : ℕ) : Keeps s0 (State.cntOpen s a1 a2) := by
  unfold State.cntOpen
  try dsimp only
  repeat' (first | with_reducible assumption | with_reducible apply State.cntN_keeps | split | (intro) | fail_if_no_progress with_reducible apply Keeps.lit | with_reducible exact Nat.le_refl _ | exact Nat.le_succ _ | (fail_if_no_progress dsimp only))
theorem State.cntB_keeps {s0 s : State} (h : Keeps s0 s) (a1 : ℕ) (a2 : ℕ) : Keeps s0 (State.cntB s a1 a2) := by
  unfold State.cntB
  try dsimp only
  repeat' (first | with_reducible assumption | with_reducible apply State.bump_keeps | with_reducible apply foldl_keeps_id | with_reducible apply foldl_keeps_fst | with_reducible apply foldl_keeps_snd | split | (intro))
theorem State.pushRec_keeps {s0 s : State} (h : Keeps s0 s) (a1 : ℕ) (a2 : ℕ) (a3 : ℕ) : Keeps s0 (State.pushRec s a1 a2 a3) := by
  unfold State.pushRec
  try dsimp only
  repeat' (first | with_reducible assumption | split | (intro) | fail_if_no_progress with_reducible apply Keeps.lit | with_reducible exact Nat.le_refl _)
theorem State.dropRec_keeps {s0 s : State} (h : Keeps s0 s)  : Keeps s0 (State.dropRec s) := by
  unfold State.dropRec
  try dsimp only
  repeat' (first | with_reducible assumption | with_reducible apply State.setFld_keeps | split | (intro) | fail_if_no_progress with_reducible apply Keeps.lit | with_reducible exact Nat.le_refl _)
theorem State.dropped_keeps {s0 s : State} (h : Keeps s0 s)  : Keeps s0 (State.dropped s) := by
  unfold State.dropped
  try dsimp only
  repeat' (first | with_reducible assumption | with_reducible apply State.pushRec_keeps | split | (intro) | fail_if_no_progress with_reducible apply Keeps.lit | with_reducible exact Nat.le_refl _)
theorem State.record_keeps {s0 s : State} (h : Keeps s0 s) (a1 : ℕ) (a2 : ℕ) (a3 : ℕ) : Keeps s0 (State.record s a1 a2 a3) := by
  unfold State.record
  try dsimp only
  repeat' (first | with_reducible assumption | with_reducible apply State.dropRec_keeps | with_reducible apply State.dropped_keeps | with_reducible apply State.pushRec_keeps | split)
theorem Keeps.mode {s0 s : State} (h : Keeps s0 s) (m : Mode) (w : Nat) (hm : s0.mode = .flush → m = .flush) :
    Keeps s0 { s with mode := m, wdogAt := w } :=
  ⟨h.pending, h.time, h.tmo, h.free, fun c => have z := h.canon c
    ⟨z.bmem, z.store, z.pageBuf, z.regs, z.fuse, z.hp, z.mp, z.node, z.quad, z.chan⟩, hm⟩
theorem State.setMode_keeps {s0 s : State} (h : Keeps s0 s) (m : Mode) (hm : s0.mode = .flush → m = .flush) :
    Keeps s0 (s.setMode m) := by
  unfold State.setMode
  split
  · exact h
  · have k := fun w => Keeps.mode (State.setFld_keeps (State.setFld_keeps h HA_MODE 7 4 s.mode.code) HA_MODE 16 16
      (b2n (s.bit HA_MODE 16 || m == .service || m == .degraded))) m w hm
    split
    · exact k _
    · with_reducible apply State.chvEvent_keeps
      with_reducible apply State.record_keeps
      exact k _
theorem State.degrade_keeps {s0 s : State} (h : Keeps s0 s)  : Keeps s0 (State.degrade s) := by
  unfold State.degrade
  split
  · split
    · exact State.setMode_keeps h _ fun e => absurd (h.flush e) (by simp [*])
    · exact h
  · split
    · exact h
    · exact State.setMode_keeps h _ fun e => absurd (h.flush e) (by simp [*])
  · exact h
theorem State.raiseNote_keeps {s0 s : State} (h : Keeps s0 s) (a1 : ℕ) (a2 : ℕ) (a3 : Bool) : Keeps s0 (State.raiseNote s a1 a2 a3) := by
  unfold State.raiseNote
  try dsimp only
  repeat' (first | with_reducible assumption | with_reducible apply State.setFld_keeps | with_reducible apply State.record_keeps | with_reducible apply State.chvEvent_keeps | split)
theorem State.note_keeps {s0 s : State} (h : Keeps s0 s) (a1 : ℕ) (a2 : ℕ) : Keeps s0 (State.note s a1 a2) := by
  unfold State.note
  try dsimp only
  repeat' (first | with_reducible assumption | with_reducible apply State.degrade_keeps | with_reducible apply State.raiseNote_keeps | split)
theorem State.ledCorrect_keeps {s0 s : State} (h : Keeps s0 s) (a1 : HpId) (a2 : ℕ) (a3 : ℕ) : Keeps s0 (State.ledCorrect s a1 a2 a3) := by
  unfold State.ledCorrect
  try dsimp only
  repeat' (first | with_reducible assumption | with_reducible apply State.note_keeps | with_reducible apply State.setHp_keeps | split)
theorem State.ledRead_keeps {s0 s : State} (h : Keeps s0 s) (a1 : HpId) (a2 : ℕ) : Keeps s0 (State.ledRead s a1 a2).2 := by
  unfold State.ledRead
  try dsimp only
  repeat' (first | with_reducible assumption | with_reducible apply State.ledCorrect_keeps | with_reducible apply State.note_keeps | with_reducible apply foldl_keeps_id | with_reducible apply foldl_keeps_fst | with_reducible apply foldl_keeps_snd | split | (intro))
theorem State.putNdr_keeps {s0 s : State} (h : Keeps s0 s) (a1 : HpId) (a2 : ℕ) (a3 : BitVec 64) : Keeps s0 (State.putNdr s a1 a2 a3) := by
  unfold State.putNdr
  try dsimp only
  repeat' (first | with_reducible assumption | with_reducible apply State.setHp_keeps | split)
theorem State.putDrs_keeps {s0 s : State} (h : Keeps s0 s) (a1 : HpId) (a2 : ℕ) (a3 : BitVec 64) (a4 : Line) (a5 : Bool) : Keeps s0 (State.putDrs s a1 a2 a3 a4 a5) := by
  unfold State.putDrs
  try dsimp only
  repeat' (first | with_reducible assumption | with_reducible apply State.setHp_keeps | split)
theorem State.putErr_keeps {s0 s : State} (h : Keeps s0 s) (a1 : HpId) (a2 : ℕ) (a3 : ℕ) (a4 : ℕ) : Keeps s0 (State.putErr s a1 a2 a3 a4) := by
  unfold State.putErr
  try dsimp only
  repeat' (first | with_reducible assumption | with_reducible apply State.putDrs_keeps | with_reducible apply State.putNdr_keeps | split)
theorem State.answer_keeps {s0 s : State} (h : Keeps s0 s) (a1 : HpId) (a2 : ℕ) (a3 : State → State) (h3 : ∀ s, Keeps s0 s → Keeps s0 (a3 s)) : Keeps s0 (State.answer s a1 a2 a3) := by
  unfold State.answer
  try dsimp only
  repeat' (first | with_reducible assumption | with_reducible apply h3 | with_reducible apply State.ledRead_keeps | with_reducible apply State.setHp_keeps | with_reducible apply State.putErr_keeps | split)
theorem State.answerNdr_keeps {s0 s : State} (h : Keeps s0 s) (a1 : HpId) (a2 : ℕ) (a3 : BitVec 64) : Keeps s0 (State.answerNdr s a1 a2 a3) := by
  unfold State.answerNdr
  try dsimp only
  repeat' (first | with_reducible assumption | with_reducible apply State.answer_keeps | with_reducible apply State.putNdr_keeps | split | (intro))
theorem State.answerDrs_keeps {s0 s : State} (h : Keeps s0 s) (a1 : HpId) (a2 : ℕ) (a3 : BitVec 64) (a4 : Line) (a5 : Bool) : Keeps s0 (State.answerDrs s a1 a2 a3 a4 a5) := by
  unfold State.answerDrs
  try dsimp only
  repeat' (first | with_reducible assumption | with_reducible apply State.answer_keeps | with_reducible apply State.putDrs_keeps | split | (intro))
theorem State.answerErr_keeps {s0 s : State} (h : Keeps s0 s) (a1 : HpId) (a2 : ℕ) (a3 : ℕ) (a4 : ℕ) : Keeps s0 (State.answerErr s a1 a2 a3 a4) := by
  unfold State.answerErr
  try dsimp only
  repeat' (first | with_reducible assumption | with_reducible apply State.answer_keeps | with_reducible apply State.putErr_keeps | split | (intro))
theorem State.ledScan_keeps {s0 s : State} (h : Keeps s0 s) (a1 : HpId) : Keeps s0 (State.ledScan s a1) := by
  unfold State.ledScan
  try dsimp only
  repeat' (first | with_reducible assumption | with_reducible apply State.answer_keeps | with_reducible apply foldl_keeps_id | with_reducible apply foldl_keeps_fst | with_reducible apply foldl_keeps_snd | split | (intro))
theorem State.safeEntry_keeps {s0 s : State} (h : Keeps s0 s) (cause : Nat) (hm : s0.mode ≠ .flush) :
    Keeps s0 (s.safeEntry cause) := by
  unfold State.safeEntry
  dsimp only
  refine State.setMode_keeps ?_ _ fun e => absurd e hm
  repeat' (first | with_reducible assumption | with_reducible apply State.setHp_keeps | with_reducible apply State.answerErr_keeps | with_reducible apply State.setCh_keeps | with_reducible apply State.modNd_keeps | with_reducible apply State.setFld_keeps | with_reducible apply foldl_keeps_id | (intro))
theorem State.stAbandon_keeps {s0 s : State} (h : Keeps s0 s)  : Keeps s0 (State.stAbandon s) := by
  unfold State.stAbandon
  try dsimp only
  repeat' (first | with_reducible assumption | with_reducible apply State.setFld_keeps | with_reducible apply State.raiseNote_keeps | split | (intro) | fail_if_no_progress with_reducible apply Keeps.lit | with_reducible exact Nat.le_refl _)
theorem State.raiseK_keeps {s0 s : State} (h : Keeps s0 s) (a1 : ℕ) (a2 : ℕ) (a3 : Bool) : Keeps s0 (State.raiseK s a1 a2 a3) := by
  unfold State.raiseK
  split
  · exact h
  · have k := State.raiseNote_keeps h a1 a2 a3
    dsimp only
    split
    · next c =>
      refine State.safeEntry_keeps ?_ _ ?_
      · split
        · exact State.stAbandon_keeps k
        · exact k
      · intro e
        have z := k.flush e
        rw [z] at c
        simp [Mode.fatalStops] at c
    · exact State.degrade_keeps k
theorem State.raise_keeps {s0 s : State} (h : Keeps s0 s) (a1 : ℕ) (a2 : ℕ) : Keeps s0 (State.raise s a1 a2) := by
  unfold State.raise
  try dsimp only
  repeat' (first | with_reducible assumption | with_reducible apply State.raiseK_keeps)
theorem State.capture_keeps {s0 s : State} (h : Keeps s0 s) (a1 : ℕ) (a2 : ℕ) (a3 : ℕ) (a4 : ℕ) : Keeps s0 (State.capture s a1 a2 a3 a4) := by
  unfold State.capture
  try dsimp only
  repeat' (first | with_reducible assumption | with_reducible apply State.setRaw_keeps | split)
theorem State.captureV_keeps {s0 s : State} (h : Keeps s0 s) (a1 : ℕ) (a2 : ℕ) (a3 : ℕ) : Keeps s0 (State.captureV s a1 a2 a3) := by
  unfold State.captureV
  try dsimp only
  repeat' (first | with_reducible assumption | with_reducible apply State.setRaw_keeps | split)
theorem State.accErr_keeps {s0 s : State} (h : Keeps s0 s) (a1 : ℕ) (a2 : ℕ) (a3 : Bool) (a4 : Bool) : Keeps s0 (State.accErr s a1 a2 a3 a4) := by
  unfold State.accErr
  try dsimp only
  repeat' (first | with_reducible assumption | with_reducible apply State.raise_keeps | with_reducible apply State.capture_keeps)
theorem State.survFresh_keeps {s0 s : State} (h : Keeps s0 s) (a1 : ℕ) (a2 : ℕ) (a3 : ℕ) : Keeps s0 (State.survFresh s a1 a2 a3) := by
  unfold State.survFresh
  try dsimp only
  repeat' (first | with_reducible assumption | split | (intro) | fail_if_no_progress with_reducible apply Keeps.lit | with_reducible exact Nat.le_refl _)

end Sys2Proof.Machine
end

