-- ==== Sys2Proof/Laws/Keeps/Attach.lean ====
section
/-! SUPPORT. Sys2Proof/Laws/Keeps/Attach.lean: what the operations of Machine/Attach.lean keep. -/

namespace Sys2Proof.Machine

theorem State.setAtt_keeps {s0 s : State} (h : Keeps s0 s) (a1 : AttPort) (a2 : Att) : Keeps s0 (State.setAtt s a1 a2) := by
  unfold State.setAtt
  try dsimp only
  repeat' (first | with_reducible assumption | with_reducible apply State.setHp_keeps | with_reducible apply State.setMp_keeps | split)
theorem State.attAnswer_keeps {s0 s : State} (h : Keeps s0 s) (a1 : AttPort) (a2 : BitVec 48) : Keeps s0 (State.attAnswer s a1 a2) := by
  unfold State.attAnswer
  try dsimp only
  repeat' (first | with_reducible assumption | with_reducible apply State.setAtt_keeps | with_reducible apply State.raise_keeps | split | (intro) | fail_if_no_progress with_reducible apply Keeps.lit | with_reducible exact Nat.le_refl _ | exact Nat.le_succ _ | (fail_if_no_progress dsimp only))
theorem State.attReq_keeps {s0 s : State} (h : Keeps s0 s) (a1 : AttPort) (a2 : BitVec 48) : Keeps s0 (State.attReq s a1 a2) := by
  unfold State.attReq
  try dsimp only
  repeat' (first | with_reducible assumption | with_reducible apply State.attAnswer_keeps | with_reducible apply State.setAtt_keeps | split | (intro) | fail_if_no_progress with_reducible apply Keeps.lit | with_reducible exact Nat.le_refl _ | exact Nat.le_succ _ | (fail_if_no_progress dsimp only))
theorem State.attPoll_keeps {s0 s : State} (h : Keeps s0 s) (a1 : AttPort) : Keeps s0 (State.attPoll s a1) := by
  unfold State.attPoll
  try dsimp only
  repeat' (first | with_reducible assumption | with_reducible apply State.attAnswer_keeps | split | (intro) | (refine keeps_snd ?_ (by with_reducible assumption)) | (refine keeps_fst ?_ (by with_reducible assumption)) | fail_if_no_progress with_reducible apply Keeps.lit | with_reducible exact Nat.le_refl _ | exact Nat.le_succ _ | (fail_if_no_progress dsimp only))
theorem State.attAll_keeps {s0 s : State} (h : Keeps s0 s)  : Keeps s0 (State.attAll s) := by
  unfold State.attAll
  try dsimp only
  repeat' (first | with_reducible assumption | with_reducible apply State.attPoll_keeps | with_reducible apply foldl_keeps_id | with_reducible apply foldl_keeps_fst | with_reducible apply foldl_keeps_snd | split | (intro) | fail_if_no_progress with_reducible apply Keeps.lit | with_reducible exact Nat.le_refl _ | exact Nat.le_succ _ | (fail_if_no_progress dsimp only))
theorem State.attTick_keeps {s0 s : State} (h : Keeps s0 s)  : Keeps s0 (State.attTick s) := by
  unfold State.attTick
  try dsimp only
  repeat' (first | with_reducible assumption | with_reducible apply State.setHp_keeps | with_reducible apply State.setMp_keeps | with_reducible apply foldl_keeps_id | with_reducible apply foldl_keeps_fst | with_reducible apply foldl_keeps_snd | split | (intro) | fail_if_no_progress with_reducible apply Keeps.lit | with_reducible exact Nat.le_refl _ | exact Nat.le_succ _ | (fail_if_no_progress dsimp only))

end Sys2Proof.Machine
end

