-- ==== Sys2Proof/Laws/Keeps/RegView.lean ====
section
/-! SUPPORT. Sys2Proof/Laws/Keeps/RegView.lean: what the operations of Machine/RegView.lean keep. -/

namespace Sys2Proof.Machine

theorem State.setQue_keeps {s0 s : State} (h : Keeps s0 s) (a1 : QueueId) (a2 : Queue) : Keeps s0 (State.setQue s a1 a2) := by
  unfold State.setQue
  try dsimp only
  repeat' (first | with_reducible assumption | split | (intro) | fail_if_no_progress with_reducible apply Keeps.lit | with_reducible exact Nat.le_refl _)
theorem State.oweCredit_keeps {s0 s : State} (h : Keeps s0 s) (a1 : QueueId) (a2 : Endpoint) : Keeps s0 (State.oweCredit s a1 a2) := by
  unfold State.oweCredit
  try dsimp only
  repeat' (first | with_reducible assumption | with_reducible apply State.setQue_keeps | split | (intro) | fail_if_no_progress with_reducible apply Keeps.lit | with_reducible exact Nat.le_refl _ | exact Nat.le_succ _ | (fail_if_no_progress dsimp only))
theorem State.spendCredit_keeps {s0 s : State} (h : Keeps s0 s) (a1 : QueueId) (a2 : Endpoint) : Keeps s0 (State.spendCredit s a1 a2) := by
  unfold State.spendCredit
  try dsimp only
  repeat' (first | with_reducible assumption | with_reducible apply State.setQue_keeps | split | (intro) | fail_if_no_progress with_reducible apply Keeps.lit | with_reducible exact Nat.le_refl _ | exact Nat.le_succ _ | (fail_if_no_progress dsimp only))

end Sys2Proof.Machine
end

