-- ==== Sys2Proof/Laws/Keeps/Survivor.lean ====
section
/-! SUPPORT. Sys2Proof/Laws/Keeps/Survivor.lean: what the operations of Machine/Survivor.lean keep. -/

namespace Sys2Proof.Machine

theorem State.survSet_keeps {s0 s : State} (h : Keeps s0 s) (a1 : ℕ) (a2 : ℕ) (a3 : Word) : Keeps s0 (State.survSet s a1 a2 a3) := by
  unfold State.survSet
  try dsimp only
  repeat' (first | with_reducible assumption | with_reducible apply State.setHp_keeps | with_reducible apply State.setMp_keeps | with_reducible apply State.setSes_keeps | split | (intro) | fail_if_no_progress with_reducible apply Keeps.lit | with_reducible exact Nat.le_refl _ | exact Nat.le_succ _ | (fail_if_no_progress dsimp only))
theorem State.survGran_keeps {s0 s : State} (h : Keeps s0 s) (a1 : ℕ) (a2 : ℕ) : Keeps s0 (State.survGran s a1 a2) := by
  unfold State.survGran
  try dsimp only
  repeat' (first | with_reducible assumption | with_reducible apply State.raise_keeps | with_reducible apply State.survSet_keeps | split | (intro) | (refine keeps_snd ?_ (by with_reducible assumption)) | (refine keeps_fst ?_ (by with_reducible assumption)) | fail_if_no_progress with_reducible apply Keeps.lit | with_reducible exact Nat.le_refl _ | exact Nat.le_succ _ | (fail_if_no_progress dsimp only))
theorem State.survRead_keeps {s0 s : State} (h : Keeps s0 s) (a1 : ℕ) (a2 : ℕ) (a3 : ℕ) : Keeps s0 (State.survRead s a1 a2 a3) := by
  unfold State.survRead
  try dsimp only
  repeat' (first | with_reducible assumption | with_reducible apply State.survGran_keeps | with_reducible apply foldl_keeps_id | with_reducible apply foldl_keeps_fst | with_reducible apply foldl_keeps_snd | split | (intro) | fail_if_no_progress with_reducible apply Keeps.lit | with_reducible exact Nat.le_refl _ | exact Nat.le_succ _ | (fail_if_no_progress dsimp only))
theorem State.survThen_keeps {s0 s : State} (h : Keeps s0 s) (a1 : State → State) (a2 : State → State) (h1 : ∀ s, Keeps s0 s → Keeps s0 (a1 s)) (h2 : ∀ s, Keeps s0 s → Keeps s0 (a2 s)) : Keeps s0 (State.survThen s a1 a2) := by
  unfold State.survThen
  try dsimp only
  repeat' (first | with_reducible assumption | with_reducible apply h1 | with_reducible apply h2 | split | (intro) | fail_if_no_progress with_reducible apply Keeps.lit | with_reducible exact Nat.le_refl _ | exact Nat.le_succ _ | (fail_if_no_progress dsimp only))
theorem State.slotRead_keeps {s0 s : State} (h : Keeps s0 s) (a1 : HpId) (a2 : ℕ) : Keeps s0 (State.slotRead s a1 a2) := by
  unfold State.slotRead
  try dsimp only
  repeat' (first | with_reducible assumption | with_reducible apply State.survRead_keeps | (intro) | fail_if_no_progress with_reducible apply Keeps.lit | with_reducible exact Nat.le_refl _ | exact Nat.le_succ _ | (fail_if_no_progress dsimp only))
theorem State.tagRead_keeps {s0 s : State} (h : Keeps s0 s) (a1 : MpId) (a2 : ℕ) : Keeps s0 (State.tagRead s a1 a2) := by
  unfold State.tagRead
  try dsimp only
  repeat' (first | with_reducible assumption | with_reducible apply State.survRead_keeps | (intro) | fail_if_no_progress with_reducible apply Keeps.lit | with_reducible exact Nat.le_refl _ | exact Nat.le_succ _ | (fail_if_no_progress dsimp only))
theorem State.mirrorRead_keeps {s0 s : State} (h : Keeps s0 s) (a1 : MpId) : Keeps s0 (State.mirrorRead s a1) := by
  unfold State.mirrorRead
  try dsimp only
  repeat' (first | with_reducible assumption | with_reducible apply State.survRead_keeps | (intro) | fail_if_no_progress with_reducible apply Keeps.lit | with_reducible exact Nat.le_refl _ | exact Nat.le_succ _ | (fail_if_no_progress dsimp only))
theorem State.sesRead_keeps {s0 s : State} (h : Keeps s0 s) (a1 : ℕ) : Keeps s0 (State.sesRead s a1) := by
  unfold State.sesRead
  try dsimp only
  repeat' (first | with_reducible assumption | with_reducible apply State.survRead_keeps | (intro) | fail_if_no_progress with_reducible apply Keeps.lit | with_reducible exact Nat.le_refl _ | exact Nat.le_succ _ | (fail_if_no_progress dsimp only))
theorem State.heldRead_keeps {s0 s : State} (h : Keeps s0 s) (a1 : HpId) (a2 : ℕ) : Keeps s0 (State.heldRead s a1 a2) := by
  unfold State.heldRead
  try dsimp only
  repeat' (first | with_reducible assumption | with_reducible apply State.survRead_keeps | (intro) | fail_if_no_progress with_reducible apply Keeps.lit | with_reducible exact Nat.le_refl _ | exact Nat.le_succ _ | (fail_if_no_progress dsimp only))

end Sys2Proof.Machine
end

