-- ==== Sys2Proof/Laws/Keeps/Flow.lean ====
section
/-! SUPPORT. Sys2Proof/Laws/Keeps/Flow.lean: what the operations of Machine/Flow.lean keep. -/

namespace Sys2Proof.Machine

theorem State.trkCheck_keeps {s0 s : State} (h : Keeps s0 s) (a1 : NodeId) (a2 : ℕ) (a3 : List ℕ) : Keeps s0 (State.trkCheck s a1 a2 a3).2 := by
  unfold State.trkCheck
  try dsimp only
  repeat' (first | with_reducible assumption | with_reducible apply State.raise_keeps | with_reducible apply State.captureV_keeps | with_reducible apply State.modTrk_keeps | with_reducible apply foldl_keeps_id | with_reducible apply foldl_keeps_fst | with_reducible apply foldl_keeps_snd | split | (intro))
theorem State.updTrk_keeps {s0 s : State} (h : Keeps s0 s) (a1 : NodeId) (a2 : ℕ) (a3 : ℕ) (a4 : Trk → Trk) : Keeps s0 (State.updTrk s a1 a2 a3 a4) := by
  unfold State.updTrk
  try dsimp only
  repeat' (first | with_reducible assumption | with_reducible apply State.trkCheck_keeps | with_reducible apply State.modTrk_keeps | split | (intro) | (refine keeps_snd (State.trkCheck_keeps ?_ _ _ _ ) (by with_reducible assumption)) | fail_if_no_progress with_reducible apply Keeps.lit | with_reducible exact Nat.le_refl _ | exact Nat.le_succ _ | (fail_if_no_progress dsimp only))
theorem State.takeTrk_keeps {s0 s : State} (h : Keeps s0 s) (a1 : NodeId) (a2 : ℕ) (a3 : Trk) : OptKeeps2 s0 (State.takeTrk s a1 a2 a3) := by
  unfold State.takeTrk
  try dsimp only
  repeat' (first | with_reducible assumption | with_reducible exact OptKeeps2.none | with_reducible apply OptKeeps2.some | with_reducible apply State.cntN_keeps | with_reducible apply State.modNd_keeps | with_reducible apply foldl_optKeeps2 | split)
theorem State.wake_keeps {s0 s : State} (h : Keeps s0 s) (a1 : NodeId) (a2 : ℕ) : Keeps s0 (State.wake s a1 a2) := by
  unfold State.wake
  try dsimp only
  repeat' (first | with_reducible assumption | with_reducible apply State.setNd_keeps | split)
theorem State.wakeAll_keeps {s0 s : State} (h : Keeps s0 s) (a1 : NodeId) : Keeps s0 (State.wakeAll s a1) := by
  unfold State.wakeAll
  try dsimp only
  repeat' (first | with_reducible assumption | with_reducible apply State.wake_keeps | with_reducible apply OptKeeps.map | with_reducible apply OptKeeps.mapSnd | with_reducible apply foldl_keeps_id | with_reducible apply foldl_keeps_fst | with_reducible apply foldl_keeps_snd | split | (intro))
theorem State.raiseEvt_keeps {s0 s : State} (h : Keeps s0 s) (a1 : NodeId) (a2 : ℕ) (a3 : ℕ) (a4 : Option ℕ) (a5 : Word) : Keeps s0 (State.raiseEvt s a1 a2 a3 a4 a5) := by
  unfold State.raiseEvt
  try dsimp only
  repeat' (first | with_reducible assumption | with_reducible apply State.modNd_keeps)
theorem State.bmCover_keeps {s0 s : State} (h : Keeps s0 s) (a1 : ℕ) (a2 : ℕ) (a3 : BitVec 64) : Keeps s0 (State.bmCover s a1 a2 a3) := by
  unfold State.bmCover
  try dsimp only
  repeat' (first | with_reducible assumption | with_reducible apply OptKeeps.map | with_reducible apply OptKeeps.mapSnd | split | (intro) | (refine keeps_snd ?_ (by with_reducible assumption)) | (refine keeps_fst ?_ (by with_reducible assumption)) | fail_if_no_progress with_reducible apply Keeps.lit | with_reducible exact Nat.le_refl _ | exact Nat.le_succ _ | (fail_if_no_progress dsimp only))
theorem State.bmIssue_keeps {s0 s : State} (h : Keeps s0 s) (a1 : BmWhy) (a2 : Bool) (a3 : ℕ) (a4 : BitVec 64) (a5 : Line) : OptKeeps2 s0 (State.bmIssue s a1 a2 a3 a4 a5) := by
  unfold State.bmIssue
  try dsimp only
  repeat' (first | with_reducible assumption | with_reducible exact OptKeeps2.none | with_reducible apply OptKeeps2.some | with_reducible apply State.cntB_keeps | with_reducible apply foldl_optKeeps2 | split | (intro) | (refine keeps_snd ?_ (by with_reducible assumption)) | (refine keeps_fst ?_ (by with_reducible assumption)) | fail_if_no_progress with_reducible apply Keeps.lit | with_reducible exact Nat.le_refl _)
theorem State.bmErrs_keeps {s0 s : State} (h : Keeps s0 s) (a1 : BmErr) : Keeps s0 (State.bmErrs s a1) := by
  unfold State.bmErrs
  try dsimp only
  repeat' (first | with_reducible assumption | with_reducible apply State.setFld_keeps | with_reducible apply State.raise_keeps | split)
theorem State.bmFree_keeps {s0 s : State} (h : Keeps s0 s)  : Keeps s0 (State.bmFree s).2 := by
  unfold State.bmFree
  try dsimp only
  repeat' (first | with_reducible assumption | (intro) | fail_if_no_progress with_reducible apply Keeps.lit | with_reducible exact Nat.le_refl _ | exact Nat.le_succ _ | (fail_if_no_progress dsimp only))
theorem State.bmLook_keeps {s0 s : State} (h : Keeps s0 s) (a1 : ℕ) : Keeps s0 (State.bmLook s a1).2 := by
  unfold State.bmLook
  try dsimp only
  repeat' (first | with_reducible assumption | with_reducible apply State.bmErrs_keeps | with_reducible apply State.bmFree_keeps | split | (intro) | (refine keeps_snd (State.bmFree_keeps ?_ ) (by with_reducible assumption)) | fail_if_no_progress with_reducible apply Keeps.lit | with_reducible exact Nat.le_refl _ | exact Nat.le_succ _ | (fail_if_no_progress dsimp only))
theorem State.bmKeep_keeps {s0 s : State} (h : Keeps s0 s) (a1 : ℕ) (a2 : Line) : Keeps s0 (State.bmKeep s a1 a2) := by
  unfold State.bmKeep
  try dsimp only
  repeat' (first | with_reducible assumption | split | (intro) | (refine keeps_snd ?_ (by with_reducible assumption)) | (refine keeps_fst ?_ (by with_reducible assumption)) | fail_if_no_progress with_reducible apply Keeps.lit | with_reducible exact Nat.le_refl _ | exact Nat.le_succ _ | (fail_if_no_progress dsimp only))
theorem State.bmFresh_keeps {s0 s : State} (h : Keeps s0 s) (a1 : ℕ) (a2 : Bool) : Keeps s0 (State.bmFresh s a1 a2) := by
  unfold State.bmFresh
  try dsimp only
  repeat' (first | with_reducible assumption | split | (intro) | (refine keeps_snd ?_ (by with_reducible assumption)) | (refine keeps_fst ?_ (by with_reducible assumption)) | fail_if_no_progress with_reducible apply Keeps.lit | with_reducible exact Nat.le_refl _ | exact Nat.le_succ _ | (fail_if_no_progress dsimp only))
theorem State.mpIssue_keeps {s0 s : State} (h : Keeps s0 s) (a1 : MpId) (a2 : Mtag) : OptKeeps2 s0 (State.mpIssue s a1 a2) := by
  unfold State.mpIssue
  try dsimp only
  repeat' (first | with_reducible assumption | with_reducible exact OptKeeps2.none | with_reducible apply OptKeeps2.some | with_reducible apply State.setMp_keeps | with_reducible apply State.survFresh_keeps | with_reducible apply foldl_optKeeps2 | split)

end Sys2Proof.Machine
end

