-- ==== Sys2Proof/Laws/Keeps/Xlate.lean ====
section
/-! SUPPORT. Sys2Proof/Laws/Keeps/Xlate.lean: what the operations of Machine/Xlate.lean keep. -/

namespace Sys2Proof.Machine

theorem State.fill_keeps {s0 s : State} (h : Keeps s0 s) (a1 : ℕ) (a2 : BitVec 2) (a3 : MacEnt) : Keeps s0 (State.fill s a1 a2 a3) := by
  unfold State.fill
  try dsimp only
  repeat' (first | with_reducible assumption | with_reducible apply State.setMac_keeps | split)
theorem State.wayError_keeps {s0 s : State} (h : Keeps s0 s) (a1 : ℕ) (a2 : ℕ) : Keeps s0 (State.wayError s a1 a2) := by
  unfold State.wayError
  try dsimp only
  repeat' (first | with_reducible assumption | with_reducible apply State.raise_keeps | with_reducible apply State.setMac_keeps | with_reducible apply State.record_keeps | with_reducible apply State.raiseK_keeps | with_reducible apply State.setFld_keeps | split | (intro) | fail_if_no_progress with_reducible apply Keeps.lit | with_reducible exact Nat.le_refl _ | exact Nat.le_succ _ | (fail_if_no_progress dsimp only))
theorem State.macLook_keeps {s0 s : State} (h : Keeps s0 s) (a1 : ℕ) (a2 : MacEnt → Bool) : Keeps s0 (State.macLook s a1 a2).2 := by
  unfold State.macLook
  try dsimp only
  repeat' (first | with_reducible assumption | with_reducible apply State.wayError_keeps | with_reducible apply State.setMac_keeps | split | (intro) | (refine keeps_snd ?_ (by with_reducible assumption)) | (refine keeps_fst ?_ (by with_reducible assumption)) | fail_if_no_progress with_reducible apply Keeps.lit | with_reducible exact Nat.le_refl _ | exact Nat.le_succ _ | (fail_if_no_progress dsimp only))
theorem State.qecLook_keeps {s0 s : State} (h : Keeps s0 s) (a1 : QuadId) (a2 : BitVec 16) (a3 : BitVec 16) : Keeps s0 (State.qecLook s a1 a2 a3).2 := by
  unfold State.qecLook
  try dsimp only
  repeat' (first | with_reducible assumption | with_reducible apply State.raise_keeps | with_reducible apply State.setQd_keeps | with_reducible apply OptKeeps.map | with_reducible apply OptKeeps.mapSnd | split)
theorem State.qecFill_keeps {s0 s : State} (h : Keeps s0 s) (a1 : QuadId) (a2 : BitVec 16) (a3 : BitVec 16) (a4 : Xlat) : Keeps s0 (State.qecFill s a1 a2 a3 a4) := by
  unfold State.qecFill
  try dsimp only
  repeat' (first | with_reducible assumption | with_reducible apply State.setQd_keeps | with_reducible apply OptKeeps.getD | with_reducible apply OptKeeps.map | with_reducible apply OptKeeps.mapSnd | split)
theorem State.xlateLook_keeps {s0 s : State} (h : Keeps s0 s) (a1 : HpId) (a2 : BitVec 16) (a3 : BitVec 16) : Keeps s0 (State.xlateLook s a1 a2 a3).2 := by
  unfold State.xlateLook
  try dsimp only
  repeat' (first | with_reducible assumption | with_reducible apply State.macLook_keeps | with_reducible apply State.cntB_keeps | with_reducible apply State.qecLook_keeps | with_reducible apply State.fill_keeps | split | (intro) | (refine keeps_snd (State.qecLook_keeps ?_ _ _ _ ) (by with_reducible assumption)) | (refine keeps_snd ?_ (by with_reducible assumption)) | (refine keeps_fst ?_ (by with_reducible assumption)) | fail_if_no_progress with_reducible apply Keeps.lit | with_reducible exact Nat.le_refl _ | exact Nat.le_succ _ | (fail_if_no_progress dsimp only))
theorem State.xlateFill_keeps {s0 s : State} (h : Keeps s0 s) (a1 : HpId) (a2 : BitVec 16) (a3 : BitVec 16) (a4 : Xlat) : Keeps s0 (State.xlateFill s a1 a2 a3 a4) := by
  unfold State.xlateFill
  try dsimp only
  repeat' (first | with_reducible assumption | with_reducible apply State.fill_keeps | with_reducible apply State.qecFill_keeps | split)
theorem State.walkErrs_keeps {s0 s : State} (h : Keeps s0 s) (a1 : Walk) : Keeps s0 (State.walkErrs s a1) := by
  unfold State.walkErrs
  try dsimp only
  repeat' (first | with_reducible assumption | with_reducible apply State.raise_keeps | with_reducible apply State.bmErrs_keeps | split)
theorem State.reverse_keeps {s0 s : State} (h : Keeps s0 s) (a1 : HpId) (a2 : BitVec 16) (a3 : ℕ) : Keeps s0 (State.reverse s a1 a2 a3).2 := by
  unfold State.reverse
  try dsimp only
  repeat' (first | with_reducible assumption | with_reducible apply State.macLook_keeps | with_reducible apply State.bmErrs_keeps | split | (intro) | (refine keeps_snd ?_ (by with_reducible assumption)) | (refine keeps_fst ?_ (by with_reducible assumption)) | fail_if_no_progress with_reducible apply Keeps.lit | with_reducible exact Nat.le_refl _ | exact Nat.le_succ _ | (fail_if_no_progress dsimp only))
theorem State.plcHit_keeps {s0 s : State} (h : Keeps s0 s) (a1 : NodeId) (a2 : ℕ) : Keeps s0 (State.plcHit s a1 a2).2 := by
  unfold State.plcHit
  try dsimp only
  repeat' (first | with_reducible assumption | with_reducible apply State.macLook_keeps | split | (intro) | (refine keeps_snd ?_ (by with_reducible assumption)) | (refine keeps_fst ?_ (by with_reducible assumption)) | fail_if_no_progress with_reducible apply Keeps.lit | with_reducible exact Nat.le_refl _ | exact Nat.le_succ _ | (fail_if_no_progress dsimp only))
theorem State.plcFill_keeps {s0 s : State} (h : Keeps s0 s) (a1 : NodeId) (a2 : ℕ) (a3 : BitVec 2) (a4 : Word) : Keeps s0 (State.plcFill s a1 a2 a3 a4) := by
  unfold State.plcFill
  try dsimp only
  repeat' (first | with_reducible assumption | with_reducible apply State.fill_keeps)
theorem State.xltEnd_keeps {s0 s : State} (h : Keeps s0 s) (a1 : ℕ) : Keeps s0 (State.xltEnd s a1) := by
  unfold State.xltEnd
  try dsimp only
  repeat' (first | with_reducible assumption | with_reducible apply State.setFld_keeps | (intro) | fail_if_no_progress with_reducible apply Keeps.lit | with_reducible exact Nat.le_refl _)
theorem State.xltInv_keeps {s0 s : State} (h : Keeps s0 s) (a1 : ℕ) (a2 : MacEnt → Bool) : Keeps s0 (State.xltInv s a1 a2) := by
  unfold State.xltInv
  try dsimp only
  repeat' (first | with_reducible assumption | with_reducible apply State.setMac_keeps | with_reducible apply State.raise_keeps | with_reducible apply foldl_keeps_id | with_reducible apply foldl_keeps_fst | with_reducible apply foldl_keeps_snd | split | (intro))
theorem State.plcInv_keeps {s0 s : State} (h : Keeps s0 s) (a1 : ℕ → Bool) : Keeps s0 (State.plcInv s a1) := by
  unfold State.plcInv
  try dsimp only
  repeat' (first | with_reducible assumption | with_reducible apply State.xltInv_keeps | with_reducible apply OptKeeps.map | with_reducible apply OptKeeps.mapSnd | with_reducible apply foldl_keeps_id | with_reducible apply foldl_keeps_fst | with_reducible apply foldl_keeps_snd | split | (intro) | (refine keeps_snd ?_ (by with_reducible assumption)) | (refine keeps_fst ?_ (by with_reducible assumption)) | fail_if_no_progress with_reducible apply Keeps.lit | with_reducible exact Nat.le_refl _ | exact Nat.le_succ _ | (fail_if_no_progress dsimp only))
theorem State.qecInv_keeps {s0 s : State} (h : Keeps s0 s) (a1 : QecEnt → Bool) : Keeps s0 (State.qecInv s a1) := by
  unfold State.qecInv
  try dsimp only
  repeat' (first | with_reducible assumption | with_reducible apply State.setQd_keeps | with_reducible apply foldl_keeps_id | with_reducible apply foldl_keeps_fst | with_reducible apply foldl_keeps_snd | split | (intro))
theorem State.xltLoad_keeps {s0 s : State} (h : Keeps s0 s) (a1 : ℕ) (a2 : BitVec 2) (a3 : Bool) (a4 : MacEnt) : Keeps s0 (State.xltLoad s a1 a2 a3 a4) := by
  unfold State.xltLoad
  try dsimp only
  repeat' (first | with_reducible assumption | with_reducible apply State.xltEnd_keeps | with_reducible apply State.setMac_keeps | split)
theorem State.xltPre_keeps {s0 s : State} (h : Keeps s0 s) (a1 : BitVec 32) (a2 : BmErr) : Keeps s0 (State.xltPre s a1 a2) := by
  unfold State.xltPre
  try dsimp only
  repeat' (first | with_reducible assumption | with_reducible apply State.xltEnd_keeps | with_reducible apply State.xltLoad_keeps | with_reducible apply State.bmErrs_keeps | with_reducible apply State.walkErrs_keeps | with_reducible apply State.plcHit_keeps | with_reducible apply State.raise_keeps | split | (intro) | (refine keeps_snd (State.plcHit_keeps ?_ _ _ ) (by with_reducible assumption)) | (refine keeps_snd ?_ (by with_reducible assumption)) | (refine keeps_fst ?_ (by with_reducible assumption)) | fail_if_no_progress with_reducible apply Keeps.lit | with_reducible exact Nat.le_refl _ | exact Nat.le_succ _ | (fail_if_no_progress dsimp only))
theorem State.xltRun_keeps {s0 s : State} (h : Keeps s0 s) (a1 : BmErr) : Keeps s0 (State.xltRun s a1) := by
  unfold State.xltRun
  try dsimp only
  repeat' (first | with_reducible assumption | with_reducible apply State.xltPre_keeps | with_reducible apply State.xltEnd_keeps | with_reducible apply State.setMac_keeps | with_reducible apply State.xltInv_keeps | with_reducible apply State.qecInv_keeps | with_reducible apply State.plcInv_keeps | with_reducible apply foldl_keeps_id | with_reducible apply foldl_keeps_fst | with_reducible apply foldl_keeps_snd | split | (intro) | (refine keeps_snd ?_ (by with_reducible assumption)) | (refine keeps_fst ?_ (by with_reducible assumption)) | fail_if_no_progress with_reducible apply Keeps.lit | with_reducible exact Nat.le_refl _ | exact Nat.le_succ _ | (fail_if_no_progress dsimp only))
theorem State.xltWrite_keeps {s0 s : State} (h : Keeps s0 s) (a1 : BitVec 32) (a2 : Bool) (a3 : Bool) : Keeps s0 (State.xltWrite s a1 a2 a3) := by
  unfold State.xltWrite
  try dsimp only
  repeat' (first | with_reducible assumption | with_reducible apply State.accErr_keeps | split | (intro) | fail_if_no_progress with_reducible apply Keeps.lit | with_reducible exact Nat.le_refl _)
theorem execXltCmdDone_keeps {s0 s : State} (h : Keeps s0 s) (a0 : BmErr) : Out.Keeps (execXltCmdDone a0 s) s0 := by
  unfold execXltCmdDone
  refine Out.keeps_next ?_
  try dsimp only
  repeat' (first | with_reducible assumption | with_reducible apply State.xltRun_keeps)

end Sys2Proof.Machine
end

