-- ==== Sys2Proof/Laws/Keeps/Home.lean ====
section
/-! SUPPORT. Sys2Proof/Laws/Keeps/Home.lean: what the operations of Machine/Home.lean keep. -/

namespace Sys2Proof.Machine

theorem State.fillFirst_keeps {s0 s : State} (h : Keeps s0 s) (a1 : NodeId) (a2 : ℕ) : Keeps s0 (State.fillFirst s a1 a2) := by
  unfold State.fillFirst
  try dsimp only
  repeat' (first | with_reducible assumption | with_reducible apply State.modNd_keeps | split)
theorem State.pushReq_keeps {s0 s : State} (h : Keeps s0 s) (a1 : NodeId) (a2 : ℕ) : Keeps s0 (State.pushReq s a1 a2) := by
  unfold State.pushReq
  try dsimp only
  repeat' (first | with_reducible assumption | with_reducible apply State.modTrk_keeps | with_reducible apply State.raiseEvt_keeps)
theorem State.waitLb_keeps {s0 s : State} (h : Keeps s0 s) (a1 : NodeId) (a2 : ℕ) : Keeps s0 (State.waitLb s a1 a2) := by
  unfold State.waitLb
  try dsimp only
  repeat' (first | with_reducible assumption | with_reducible apply State.modNd_keeps)
theorem State.waitEntry_keeps {s0 s : State} (h : Keeps s0 s) (a1 : NodeId) (a2 : ℕ) : Keeps s0 (State.waitEntry s a1 a2) := by
  unfold State.waitEntry
  try dsimp only
  repeat' (first | with_reducible assumption | with_reducible apply State.cntN_keeps | with_reducible apply State.waitLb_keeps)
theorem State.startEnd_keeps {s0 s : State} (h : Keeps s0 s) (a1 : NodeId) (a2 : ℕ) (a3 : Reg32) : Keeps s0 (State.startEnd s a1 a2 a3) := by
  unfold State.startEnd
  try dsimp only
  repeat' (first | with_reducible assumption | with_reducible apply State.modTrk_keeps | with_reducible apply State.pushReq_keeps | split)
theorem State.startArd_keeps {s0 s : State} (h : Keeps s0 s) (a1 : NodeId) (a2 : ℕ) (a3 : Reg32) : Keeps s0 (State.startArd s a1 a2 a3) := by
  unfold State.startArd
  try dsimp only
  repeat' (first | with_reducible assumption | with_reducible apply State.mpIssue_keeps | with_reducible apply State.waitLb_keeps | with_reducible apply State.startEnd_keeps | with_reducible apply State.cntN_keeps | with_reducible apply State.updTrk_keeps | split | (intro) | (refine OptKeeps2.elim (State.mpIssue_keeps ?_ _ _ ) (by with_reducible assumption)) | (refine keeps_snd ?_ (by with_reducible assumption)) | (refine keeps_fst ?_ (by with_reducible assumption)) | fail_if_no_progress with_reducible apply Keeps.lit | with_reducible exact Nat.le_refl _ | exact Nat.le_succ _ | (fail_if_no_progress dsimp only))
theorem State.aplFault_keeps {s0 s : State} (h : Keeps s0 s) (a1 : NodeId) (a2 : ℕ) (a3 : ℕ) : Keeps s0 (State.aplFault s a1 a2 a3) := by
  unfold State.aplFault
  try dsimp only
  repeat' (first | with_reducible assumption | with_reducible apply State.raise_keeps | with_reducible apply State.modTrk_keeps | with_reducible apply State.raiseEvt_keeps)
theorem State.aplDone_keeps {s0 s : State} (h : Keeps s0 s) (a1 : NodeId) (a2 : ℕ) (a3 : Word) (a4 : Bool) : Keeps s0 (State.aplDone s a1 a2 a3 a4) := by
  unfold State.aplDone
  try dsimp only
  repeat' (first | with_reducible assumption | with_reducible apply State.startArd_keeps | with_reducible apply State.updTrk_keeps | split | (intro) | fail_if_no_progress with_reducible apply Keeps.lit | with_reducible exact Nat.le_refl _ | exact Nat.le_succ _ | (fail_if_no_progress dsimp only))
theorem State.aplEnt_keeps {s0 s : State} (h : Keeps s0 s) (a1 : NodeId) (a2 : ℕ) (a3 : Word) (a4 : Bool) : Keeps s0 (State.aplEnt s a1 a2 a3 a4) := by
  unfold State.aplEnt
  try dsimp only
  repeat' (first | with_reducible assumption | with_reducible apply State.aplFault_keeps | with_reducible apply State.bmErrs_keeps | with_reducible apply State.bmIssue_keeps | with_reducible apply State.waitLb_keeps | with_reducible apply State.bmFresh_keeps | with_reducible apply State.aplDone_keeps | with_reducible apply State.plcFill_keeps | split | (intro) | (refine OptKeeps2.elim (State.bmIssue_keeps ?_ _ _ _ _ _ ) (by with_reducible assumption)) | (refine keeps_snd ?_ (by with_reducible assumption)) | (refine keeps_fst ?_ (by with_reducible assumption)) | fail_if_no_progress with_reducible apply Keeps.lit | with_reducible exact Nat.le_refl _ | exact Nat.le_succ _ | (fail_if_no_progress dsimp only))
theorem State.aplRead_keeps {s0 s : State} (h : Keeps s0 s) (a1 : NodeId) (a2 : ℕ) : Keeps s0 (State.aplRead s a1 a2) := by
  unfold State.aplRead
  try dsimp only
  repeat' (first | with_reducible assumption | with_reducible apply State.aplFault_keeps | with_reducible apply State.bmErrs_keeps | with_reducible apply State.bmIssue_keeps | with_reducible apply State.waitLb_keeps | split | (intro) | (refine OptKeeps2.elim (State.bmIssue_keeps ?_ _ _ _ _ _ ) (by with_reducible assumption)) | (refine keeps_snd ?_ (by with_reducible assumption)) | (refine keeps_fst ?_ (by with_reducible assumption)) | fail_if_no_progress with_reducible apply Keeps.lit | with_reducible exact Nat.le_refl _ | exact Nat.le_succ _ | (fail_if_no_progress dsimp only))
theorem State.startReq_keeps {s0 s : State} (h : Keeps s0 s) (a1 : NodeId) (a2 : ℕ) : Keeps s0 (State.startReq s a1 a2) := by
  unfold State.startReq
  dsimp only
  split
  · exact State.waitEntry_keeps h _ _
  · next s1 e =>
    have k : Keeps s0 s1 := by
      split at e
      · split at e
        · cases e
          repeat' (first | with_reducible assumption | with_reducible apply State.fillFirst_keeps | with_reducible apply State.modNd_keeps | split)
        · cases e
      · cases e
        exact h
    clear e
    repeat' (first | with_reducible assumption | with_reducible apply State.modNd_keeps | with_reducible apply State.waitEntry_keeps | with_reducible apply State.aplEnt_keeps | with_reducible apply State.cntN_keeps | with_reducible apply State.aplFault_keeps | with_reducible apply State.bmErrs_keeps | with_reducible apply State.waitLb_keeps | with_reducible apply State.startArd_keeps | split | with_reducible apply State.aplRead_keeps | (refine keeps_snd (State.plcHit_keeps ?_ _ _ ) (by with_reducible assumption)) | (refine OptKeeps2.elim (State.bmIssue_keeps ?_ _ _ _ _ _ ) (by with_reducible assumption)))
theorem State.nowActive_keeps {s0 s : State} (h : Keeps s0 s) (a1 : NodeId) (a2 : ℕ) : Keeps s0 (State.nowActive s a1 a2) := by
  unfold State.nowActive
  try dsimp only
  repeat' (first | with_reducible assumption | with_reducible apply State.startReq_keeps | with_reducible apply State.modTrk_keeps | split)
theorem State.release_keeps {s0 s : State} (h : Keeps s0 s) (a1 : NodeId) (a2 : ℕ) : Keeps s0 (State.release s a1 a2) := by
  unfold State.release
  try dsimp only
  repeat' (first | with_reducible assumption | with_reducible apply State.modNd_keeps | with_reducible apply State.nowActive_keeps | with_reducible apply foldl_keeps_id | with_reducible apply foldl_keeps_fst | with_reducible apply foldl_keeps_snd | split | (intro))
theorem State.offer_keeps {s0 s : State} (h : Keeps s0 s) (a1 : NodeId) (a2 : ℕ) (a3 : Pool) : Keeps s0 (State.offer s a1 a2 a3) := by
  unfold State.offer
  try dsimp only
  repeat' (first | with_reducible assumption | with_reducible apply State.cntN_keeps | with_reducible apply State.modNd_keeps | with_reducible apply OptKeeps.map | with_reducible apply OptKeeps.mapSnd | split)
theorem State.freeTrk_keeps {s0 s : State} (h : Keeps s0 s) (a1 : NodeId) (a2 : ℕ) : Keeps s0 (State.freeTrk s a1 a2) := by
  unfold State.freeTrk
  try dsimp only
  repeat' (first | with_reducible assumption | with_reducible apply State.release_keeps | with_reducible apply State.modNd_keeps | with_reducible apply State.offer_keeps)
theorem State.seeWb_keeps {s0 s : State} (h : Keeps s0 s) (a1 : NodeId) (a2 : BitVec 40) : Keeps s0 (State.seeWb s a1 a2) := by
  unfold State.seeWb
  try dsimp only
  repeat' (first | with_reducible assumption | with_reducible apply State.updTrk_keeps | split | (intro) | (refine keeps_snd ?_ (by with_reducible assumption)) | (refine keeps_fst ?_ (by with_reducible assumption)) | fail_if_no_progress with_reducible apply Keeps.lit | with_reducible exact Nat.le_refl _ | exact Nat.le_succ _ | (fail_if_no_progress dsimp only))

end Sys2Proof.Machine
end

