-- ==== Sys2Proof/Laws/Keeps/Snoops.lean ====
section
/-! SUPPORT. Sys2Proof/Laws/Keeps/Snoops.lean: what the operations of Machine/Snoops.lean keep. -/

namespace Sys2Proof.Machine

theorem State.deliver_keeps {s0 s : State} (h : Keeps s0 s) (a1 : Snoop) (a2 : ℕ) (a3 : Bool) : Keeps s0 (State.deliver s a1 a2 a3) := by
  unfold State.deliver
  try dsimp only
  repeat' (first | with_reducible assumption | with_reducible apply State.updTrk_keeps | with_reducible apply State.modNd_keeps | with_reducible apply State.wake_keeps | with_reducible apply OptKeeps.map | with_reducible apply OptKeeps.mapSnd | split | (intro) | (refine keeps_snd ?_ (by with_reducible assumption)) | (refine keeps_fst ?_ (by with_reducible assumption)) | fail_if_no_progress with_reducible apply Keeps.lit | with_reducible exact Nat.le_refl _ | exact Nat.le_succ _ | (fail_if_no_progress dsimp only))
theorem State.slotDone_keeps {s0 s : State} (h : Keeps s0 s) (a1 : HpId) (a2 : ℕ) (a3 : ℕ) (a4 : Bool) : Keeps s0 (State.slotDone s a1 a2 a3 a4) := by
  unfold State.slotDone
  try dsimp only
  repeat' (first | with_reducible assumption | with_reducible apply State.setHp_keeps | with_reducible apply State.modTrk_keeps | with_reducible apply State.deliver_keeps | with_reducible apply OptKeeps.map | with_reducible apply OptKeeps.mapSnd | split)
theorem State.depart_keeps {s0 s : State} (h : Keeps s0 s) (a1 : ℕ) (a2 : ℕ) : Keeps s0 (State.depart s a1 a2) := by
  unfold State.depart
  try dsimp only
  repeat' (first | with_reducible assumption | with_reducible apply State.setSes_keeps | with_reducible apply State.setHp_keeps | with_reducible apply State.raiseK_keeps | with_reducible apply State.chvEvent_keeps | with_reducible apply OptKeeps.map | with_reducible apply OptKeeps.mapSnd | split)
theorem State.goneSlots_keeps {s0 s : State} (h : Keeps s0 s) (a1 : HpId) : Keeps s0 (State.goneSlots s a1) := by
  unfold State.goneSlots
  try dsimp only
  repeat' (first | with_reducible assumption | with_reducible apply State.ledScan_keeps | with_reducible apply State.slotDone_keeps | with_reducible apply OptKeeps.map | with_reducible apply OptKeeps.mapSnd | with_reducible apply foldl_keeps_id | with_reducible apply foldl_keeps_fst | with_reducible apply foldl_keeps_snd | split | (intro))
theorem State.slotSnoop_keeps {s0 s : State} (h : Keeps s0 s) (a1 : HpId) (a2 : Snoop) (a3 : ℕ) (a4 : Bool) : Keeps s0 (State.slotSnoop s a1 a2 a3 a4) := by
  unfold State.slotSnoop
  try dsimp only
  repeat' (first | with_reducible assumption | with_reducible apply State.setHp_keeps | with_reducible apply State.survFresh_keeps | with_reducible apply OptKeeps.map | with_reducible apply OptKeeps.mapSnd | with_reducible apply foldl_keeps_id | with_reducible apply foldl_keeps_fst | with_reducible apply foldl_keeps_snd | split | (intro))
theorem State.placeSnoop_keeps {s0 s : State} (h : Keeps s0 s) (a1 : Snoop) : Keeps s0 (State.placeSnoop s a1) := by
  unfold State.placeSnoop
  try dsimp only
  repeat' (first | with_reducible assumption | with_reducible apply State.survThen_keeps | with_reducible apply State.sesRead_keeps | with_reducible apply State.setHp_keeps | with_reducible apply State.reverse_keeps | with_reducible apply State.slotSnoop_keeps | with_reducible apply State.depart_keeps | with_reducible apply State.raise_keeps | split | (intro) | (refine keeps_snd (State.reverse_keeps ?_ _ _ _ ) (by with_reducible assumption)) | (refine keeps_snd ?_ (by with_reducible assumption)) | (refine keeps_fst ?_ (by with_reducible assumption)) | fail_if_no_progress with_reducible apply Keeps.lit | with_reducible exact Nat.le_refl _ | exact Nat.le_succ _ | (fail_if_no_progress dsimp only))
theorem State.waitedSnoops_keeps {s0 s : State} (h : Keeps s0 s) (a1 : HpId) : Keeps s0 (State.waitedSnoops s a1) := by
  unfold State.waitedSnoops
  try dsimp only
  repeat' (first | with_reducible assumption | with_reducible apply State.placeSnoop_keeps | with_reducible apply State.setHp_keeps | with_reducible apply foldl_keeps_id | with_reducible apply foldl_keeps_fst | with_reducible apply foldl_keeps_snd | split | (intro))
theorem State.chainWb_keeps {s0 s : State} (h : Keeps s0 s) (a1 : NodeId) (a2 : Snoop) : Keeps s0 (State.chainWb s a1 a2) := by
  unfold State.chainWb
  try dsimp only
  repeat' (first | with_reducible assumption | with_reducible apply State.seeWb_keeps | with_reducible apply State.modNd_keeps | with_reducible apply State.startReq_keeps | with_reducible apply foldl_keeps_id | with_reducible apply foldl_keeps_fst | with_reducible apply foldl_keeps_snd | split | (intro))
theorem State.sendSnoops_keeps {s0 s : State} (h : Keeps s0 s) (a1 : NodeId) (a2 : Snoop) (a3 : List ℕ) : Keeps s0 (State.sendSnoops s a1 a2 a3) := by
  unfold State.sendSnoops
  try dsimp only
  repeat' (first | with_reducible assumption | with_reducible apply State.placeSnoop_keeps | with_reducible apply State.chainWb_keeps | with_reducible apply foldl_keeps_id | with_reducible apply foldl_keeps_fst | with_reducible apply foldl_keeps_snd | split | (intro) | fail_if_no_progress with_reducible apply Keeps.lit | with_reducible exact Nat.le_refl _ | exact Nat.le_succ _ | (fail_if_no_progress dsimp only))

end Sys2Proof.Machine
end

