-- ==== Sys2Proof/Laws/Keeps/SnoopFilter.lean ====
section
/-! SUPPORT. Sys2Proof/Laws/Keeps/SnoopFilter.lean: what the operations of Machine/SnoopFilter.lean keep. -/

namespace Sys2Proof.Machine

theorem State.entCe_keeps {s0 s : State} (h : Keeps s0 s) (a1 : NodeId) : Keeps s0 (State.entCe s a1) := by
  unfold State.entCe
  try dsimp only
  repeat' (first | with_reducible assumption | with_reducible apply State.raise_keeps | with_reducible apply State.setFld_keeps)
theorem State.consEnd_keeps {s0 s : State} (h : Keeps s0 s)  : Keeps s0 (State.consEnd s) := by
  unfold State.consEnd
  try dsimp only
  repeat' (first | with_reducible assumption | with_reducible apply State.modNd_keeps | with_reducible apply foldl_keeps_id | with_reducible apply foldl_keeps_fst | with_reducible apply foldl_keeps_snd | split | (intro))
theorem State.consCheck_keeps {s0 s : State} (h : Keeps s0 s)  : Keeps s0 (State.consCheck s) := by
  unfold State.consCheck
  try dsimp only
  repeat' (first | with_reducible assumption | with_reducible apply State.consEnd_keeps | split)
theorem State.consStart_keeps {s0 s : State} (h : Keeps s0 s) (a1 : NodeId) : Keeps s0 (State.consStart s a1) := by
  unfold State.consStart
  try dsimp only
  repeat' (first | with_reducible assumption | with_reducible apply State.modNd_keeps | with_reducible apply State.consCheck_keeps | with_reducible apply OptKeeps.map | with_reducible apply OptKeeps.mapSnd | split | (intro) | fail_if_no_progress with_reducible apply Keeps.lit | with_reducible exact Nat.le_refl _)
theorem State.ovfPut_keeps {s0 s : State} (h : Keeps s0 s) (a1 : ℕ) (a2 : Word) : Keeps s0 (State.ovfPut s a1 a2) := by
  unfold State.ovfPut
  try dsimp only
  repeat' (first | with_reducible assumption | with_reducible apply State.bmCover_keeps | (intro) | fail_if_no_progress with_reducible apply Keeps.lit | with_reducible exact Nat.le_refl _ | exact Nat.le_succ _ | fail_if_no_progress with_reducible apply Keeps.litBmem | with_reducible apply memWrite_wf | with_reducible apply memWriteBe_wf | with_reducible apply memBlit_wf | with_reducible apply memCopy_wf | with_reducible apply memFill_wf | with_reducible apply cellsOf_wf | (fail_if_no_progress dsimp only))
theorem State.ovfCount_keeps {s0 s : State} (h : Keeps s0 s) (a1 : Word) (a2 : Word) : Keeps s0 (State.ovfCount s a1 a2) := by
  unfold State.ovfCount
  try dsimp only
  repeat' (first | with_reducible assumption | with_reducible apply State.setFld_keeps | split)
theorem State.rmapCheck_keeps {s0 s : State} (h : Keeps s0 s) (a1 : NodeId) (a2 : ℕ) : Keeps s0 (State.rmapCheck s a1 a2) := by
  unfold State.rmapCheck
  try dsimp only
  repeat' (first | with_reducible assumption | with_reducible apply State.raise_keeps | with_reducible apply State.modNd_keeps | split | (intro) | fail_if_no_progress with_reducible apply Keeps.lit | with_reducible exact Nat.le_refl _ | exact Nat.le_succ _ | (fail_if_no_progress dsimp only))
theorem State.regionSet_keeps {s0 s : State} (h : Keeps s0 s) (a1 : NodeId) (a2 : ℕ) : Keeps s0 (State.regionSet s a1 a2) := by
  unfold State.regionSet
  try dsimp only
  repeat' (first | with_reducible assumption | with_reducible apply State.modNd_keeps | with_reducible apply State.rmapCheck_keeps | split | (intro) | fail_if_no_progress with_reducible apply Keeps.lit | with_reducible exact Nat.le_refl _ | exact Nat.le_succ _ | (fail_if_no_progress dsimp only))
theorem State.ovfGone_keeps {s0 s : State} (h : Keeps s0 s) (a1 : NodeId) : Keeps s0 (State.ovfGone s a1) := by
  unfold State.ovfGone
  try dsimp only
  repeat' (first | with_reducible assumption | with_reducible apply State.consStart_keeps | with_reducible apply State.raise_keeps | (intro) | fail_if_no_progress with_reducible apply Keeps.lit | with_reducible exact Nat.le_refl _ | exact Nat.le_succ _ | (fail_if_no_progress dsimp only))
theorem State.ovfLost_keeps {s0 s : State} (h : Keeps s0 s) (a1 : NodeId) (a2 : ℕ) : Keeps s0 (State.ovfLost s a1 a2) := by
  unfold State.ovfLost
  try dsimp only
  repeat' (first | with_reducible assumption | with_reducible apply State.ovfPut_keeps | with_reducible apply State.modNd_keeps | with_reducible apply State.ovfGone_keeps | with_reducible apply State.setFld_keeps | with_reducible apply foldl_keeps_id | with_reducible apply foldl_keeps_fst | with_reducible apply foldl_keeps_snd | split | (intro) | (refine keeps_snd ?_ (by with_reducible assumption)) | (refine keeps_fst ?_ (by with_reducible assumption)) | fail_if_no_progress with_reducible apply Keeps.lit | with_reducible exact Nat.le_refl _ | exact Nat.le_succ _ | (fail_if_no_progress dsimp only))
theorem State.sfCapture_keeps {s0 s : State} (h : Keeps s0 s) (a1 : NodeId) (a2 : Bool) (a3 : ℕ) (a4 : ℕ) : Keeps s0 (State.sfCapture s a1 a2 a3 a4) := by
  unfold State.sfCapture
  try dsimp only
  repeat' (first | with_reducible assumption | with_reducible apply State.capture_keeps)
theorem State.zeroWay_keeps {s0 s : State} (h : Keeps s0 s) (a1 : NodeId) (a2 : Bool) (a3 : ℕ) : Keeps s0 (State.zeroWay s a1 a2 a3) := by
  unfold State.zeroWay
  try dsimp only
  repeat' (first | with_reducible assumption | with_reducible apply State.ovfPut_keeps | with_reducible apply State.ovfCount_keeps | with_reducible apply State.modNd_keeps | split)
theorem State.repairStart_keeps {s0 s : State} (h : Keeps s0 s) (a1 : NodeId) (a2 : Bool) (a3 : ℕ) (a4 : Word) (a5 : ℕ) (a6 : ℕ) : Keeps s0 (State.repairStart s a1 a2 a3 a4 a5 a6) := by
  unfold State.repairStart
  try dsimp only
  repeat' (first | with_reducible assumption | with_reducible apply State.modNd_keeps | with_reducible apply State.sfCapture_keeps | with_reducible apply State.consStart_keeps | with_reducible apply State.raise_keeps | with_reducible apply State.zeroWay_keeps | split)
theorem State.repairGo_keeps {s0 s : State} (h : Keeps s0 s) (a1 : NodeId) (a2 : ℕ) (a3 : ℕ) : Keeps s0 (State.repairGo s a1 a2 a3) := by
  unfold State.repairGo
  try dsimp only
  repeat' (first | with_reducible assumption | with_reducible apply State.updTrk_keeps | with_reducible apply State.modNd_keeps | with_reducible apply State.sendSnoops_keeps | with_reducible apply OptKeeps.map | with_reducible apply OptKeeps.mapSnd | with_reducible apply foldl_keeps_id | with_reducible apply foldl_keeps_fst | with_reducible apply foldl_keeps_snd | split | (intro) | (refine keeps_snd ?_ (by with_reducible assumption)) | (refine keeps_fst ?_ (by with_reducible assumption)) | fail_if_no_progress with_reducible apply Keeps.lit | with_reducible exact Nat.le_refl _ | exact Nat.le_succ _ | (fail_if_no_progress dsimp only))
theorem State.repairPoll_keeps {s0 s : State} (h : Keeps s0 s) (a1 : NodeId) : Keeps s0 (State.repairPoll s a1) := by
  unfold State.repairPoll
  try dsimp only
  repeat' (first | with_reducible assumption | with_reducible apply State.zeroWay_keeps | with_reducible apply State.modNd_keeps | with_reducible apply State.raise_keeps | with_reducible apply State.freeTrk_keeps | with_reducible apply foldl_keeps_id | with_reducible apply foldl_keeps_fst | with_reducible apply foldl_keeps_snd | split | (intro))
theorem State.readWay_keeps {s0 s : State} (h : Keeps s0 s) (a1 : NodeId) (a2 : ℕ) : Keeps s0 (State.readWay s a1 a2).2.2 := by
  unfold State.readWay
  try dsimp only
  repeat' (first | with_reducible assumption | with_reducible apply State.entCe_keeps | with_reducible apply State.modNd_keeps | split)
theorem State.wayRead_keeps {s0 s : State} (h : Keeps s0 s) (a1 : NodeId) (a2 : ℕ) (a3 : ℕ) : Keeps s0 (State.wayRead s a1 a2 a3).2 := by
  unfold State.wayRead
  try dsimp only
  repeat' (first | with_reducible assumption | with_reducible apply State.readWay_keeps | with_reducible apply State.repairStart_keeps | split | (intro) | (refine keeps_snd2 (State.readWay_keeps ?_ _ _ ) (by with_reducible assumption)) | fail_if_no_progress with_reducible apply Keeps.lit | with_reducible exact Nat.le_refl _ | exact Nat.le_succ _ | (fail_if_no_progress dsimp only))
theorem State.ovfWay_keeps {s0 : State} (a : Bool × List (Nat × Word) × State) (h : Keeps s0 a.2.2) (n : NodeId) (set w : Nat) (e : Word)
    (lookup : Bool) : Keeps s0 (State.ovfWay a n set w e lookup).2.2 := by
  unfold State.ovfWay
  dsimp only
  repeat' (first | with_reducible assumption | with_reducible apply State.repairStart_keeps | with_reducible apply State.ovfPut_keeps | with_reducible apply State.ovfCount_keeps | with_reducible apply State.entCe_keeps | split)
theorem State.ovfWays_keeps {s0 s : State} (h : Keeps s0 s) (n : NodeId) (set : Nat) (l : Line) (k : Bool) :
    Keeps s0 (s.ovfWays n set l k).2.2 := by
  unfold State.ovfWays
  refine foldl_keeps (fun (r : Bool × List (Nat × Word) × State) => r.2.2) _ _ _ ?_ ?_
  · exact h
  · intro a w ha
    exact State.ovfWay_keeps a ha _ _ _ _ _
theorem State.ovfCheck_keeps {s0 s : State} (h : Keeps s0 s) (a1 : NodeId) (a2 : ℕ) (a3 : Line) (a4 : Bool) : Keeps s0 (State.ovfCheck s a1 a2 a3 a4).2.2 := by
  unfold State.ovfCheck
  have hr := State.ovfWays_keeps h a1 a2 a3 a4
  generalize s.ovfWays a1 a2 a3 a4 = r at hr ⊢
  exact keeps_of_snd2 (State.modNd_keeps hr _ _) rfl
theorem State.evictOut_keeps {s0 s : State} (h : Keeps s0 s) (a1 : NodeId) (a2 : Evict) : Keeps s0 (State.evictOut s a1 a2) := by
  unfold State.evictOut
  try dsimp only
  repeat' (first | with_reducible assumption | with_reducible apply State.modNd_keeps | with_reducible apply State.freeTrk_keeps | split | (intro) | (refine keeps_snd ?_ (by with_reducible assumption)) | (refine keeps_fst ?_ (by with_reducible assumption)) | fail_if_no_progress with_reducible apply Keeps.lit | with_reducible exact Nat.le_refl _ | exact Nat.le_succ _ | (fail_if_no_progress dsimp only))
theorem State.evictEnd_keeps {s0 s : State} (h : Keeps s0 s) (a1 : NodeId) (a2 : Evict) : Keeps s0 (State.evictEnd s a1 a2) := by
  unfold State.evictEnd
  try dsimp only
  repeat' (first | with_reducible assumption | with_reducible apply State.evictOut_keeps | with_reducible apply State.wake_keeps | with_reducible apply State.modNd_keeps | split | (intro) | (refine keeps_snd ?_ (by with_reducible assumption)) | (refine keeps_fst ?_ (by with_reducible assumption)) | fail_if_no_progress with_reducible apply Keeps.lit | with_reducible exact Nat.le_refl _ | exact Nat.le_succ _ | (fail_if_no_progress dsimp only))
theorem State.evictDrop_keeps {s0 s : State} (h : Keeps s0 s) (a1 : NodeId) (a2 : Evict) : Keeps s0 (State.evictDrop s a1 a2) := by
  unfold State.evictDrop
  try dsimp only
  repeat' (first | with_reducible assumption | with_reducible apply State.evictOut_keeps | with_reducible apply State.modNd_keeps | split | (intro) | (refine keeps_snd ?_ (by with_reducible assumption)) | (refine keeps_fst ?_ (by with_reducible assumption)) | fail_if_no_progress with_reducible apply Keeps.lit | with_reducible exact Nat.le_refl _ | exact Nat.le_succ _ | (fail_if_no_progress dsimp only))
theorem State.recallSend_keeps {s0 s : State} (h : Keeps s0 s) (a1 : NodeId) (a2 : Evict) (a3 : Word) : Keeps s0 (State.recallSend s a1 a2 a3) := by
  unfold State.recallSend
  try dsimp only
  repeat' (first | with_reducible assumption | with_reducible apply State.modNd_keeps | with_reducible apply State.cntN_keeps | with_reducible apply State.updTrk_keeps | with_reducible apply State.sendSnoops_keeps | split | (intro) | (refine keeps_snd ?_ (by with_reducible assumption)) | (refine keeps_fst ?_ (by with_reducible assumption)) | fail_if_no_progress with_reducible apply Keeps.lit | with_reducible exact Nat.le_refl _ | exact Nat.le_succ _ | (fail_if_no_progress dsimp only))
theorem State.recall_keeps {s0 s : State} (h : Keeps s0 s) (a1 : NodeId) (a2 : Evict) : Keeps s0 (State.recall s a1 a2) := by
  unfold State.recall
  try dsimp only
  repeat' (first | with_reducible assumption | with_reducible apply State.wayRead_keeps | with_reducible apply State.recallSend_keeps | with_reducible apply State.evictDrop_keeps | with_reducible apply State.modNd_keeps | split | (intro) | (refine keeps_snd (State.wayRead_keeps ?_ _ _ _ ) (by with_reducible assumption)) | (refine keeps_snd ?_ (by with_reducible assumption)) | (refine keeps_fst ?_ (by with_reducible assumption)) | fail_if_no_progress with_reducible apply Keeps.lit | with_reducible exact Nat.le_refl _ | exact Nat.le_succ _ | (fail_if_no_progress dsimp only))
theorem State.evictGo_keeps {s0 s : State} (h : Keeps s0 s) (a1 : NodeId) (a2 : Evict) : Keeps s0 (State.evictGo s a1 a2) := by
  unfold State.evictGo
  try dsimp only
  repeat' (first | with_reducible assumption | with_reducible apply State.recall_keeps | with_reducible apply State.modNd_keeps | with_reducible apply State.bmIssue_keeps | split | (intro) | (refine OptKeeps2.elim (State.bmIssue_keeps ?_ _ _ _ _ _ ) (by with_reducible assumption)))
theorem State.spillRead_keeps {s0 s : State} (h : Keeps s0 s) (a1 : NodeId) (a2 : Evict) (a3 : Line) (a4 : BmErr) : Keeps s0 (State.spillRead s a1 a2 a3 a4) := by
  unfold State.spillRead
  try dsimp only
  repeat' (first | with_reducible assumption | with_reducible apply State.recall_keeps | with_reducible apply State.ovfLost_keeps | with_reducible apply State.ovfCheck_keeps | with_reducible apply State.modNd_keeps | with_reducible apply State.wayRead_keeps | with_reducible apply State.evictDrop_keeps | with_reducible apply State.regionSet_keeps | with_reducible apply State.bmIssue_keeps | with_reducible apply State.cntN_keeps | with_reducible apply OptKeeps.map | with_reducible apply OptKeeps.mapSnd | split | (intro) | (refine keeps_snd2 (State.ovfCheck_keeps ?_ _ _ _ _ ) (by with_reducible assumption)) | (refine keeps_snd (State.wayRead_keeps ?_ _ _ _ ) (by with_reducible assumption)) | (refine OptKeeps2.elim (State.bmIssue_keeps ?_ _ _ _ _ _ ) (by with_reducible assumption)) | (refine keeps_snd ?_ (by with_reducible assumption)) | (refine keeps_fst ?_ (by with_reducible assumption)) | fail_if_no_progress with_reducible apply Keeps.lit | with_reducible exact Nat.le_refl _ | exact Nat.le_succ _ | (fail_if_no_progress dsimp only))
theorem State.spillWritten_keeps {s0 s : State} (h : Keeps s0 s) (a1 : NodeId) (a2 : Evict) (a3 : ℕ) (a4 : BmErr) : Keeps s0 (State.spillWritten s a1 a2 a3 a4) := by
  unfold State.spillWritten
  try dsimp only
  repeat' (first | with_reducible assumption | with_reducible apply State.recall_keeps | with_reducible apply State.ovfPut_keeps | with_reducible apply State.ovfCount_keeps | with_reducible apply State.evictEnd_keeps | with_reducible apply State.modNd_keeps | split)
theorem State.lostEnt_keeps {s0 s : State} (h : Keeps s0 s) (a1 : NodeId) (a2 : BitVec 40) : Keeps s0 (State.lostEnt s a1 a2).2 := by
  unfold State.lostEnt
  have hp := State.plcHit_keeps h a1 (plaExt a2)
  generalize s.plcHit a1 (plaExt a2) = r at hp ⊢
  rcases r with ⟨_ | e, t⟩
  · exact keeps_of_snd (State.bmLook_keeps hp _) rfl
  · exact keeps_of_snd hp rfl
theorem State.lostAddr_keeps {s0 s : State} (h : Keeps s0 s) (a1 : NodeId) (a2 : BitVec 40) : Keeps s0 (State.lostAddr s a1 a2).2 := by
  unfold State.lostAddr
  have hp := State.lostEnt_keeps h a1 a2
  generalize s.lostEnt a1 a2 = r at hp ⊢
  rcases r with ⟨_ | e, t⟩
  · exact keeps_of_snd (State.raise_keeps hp _ _) rfl
  · dsimp only at hp ⊢
    split
    · exact keeps_of_snd (State.raise_keeps hp _ _) rfl
    · split
      · exact keeps_of_snd hp rfl
      · have hq := State.bmLook_keeps hp (t.movLine (bf e 45 42) a2)
        generalize t.bmLook (t.movLine (bf e 45 42) a2) = q at hq ⊢
        rcases q with ⟨_ | l, u⟩
        · exact keeps_of_snd (State.raise_keeps hq _ _) rfl
        · exact keeps_of_snd hq rfl
theorem State.lostWrite_keeps {s0 s : State} (h : Keeps s0 s) (a1 : NodeId) (a2 : ℕ) (a3 : BitVec 40) : OptKeeps s0 (State.lostWrite s a1 a2 a3) := by
  unfold State.lostWrite
  try dsimp only
  repeat' (first | with_reducible assumption | with_reducible exact OptKeeps.none | with_reducible apply OptKeeps.some | with_reducible apply State.lostAddr_keeps | with_reducible apply State.mpIssue_keeps | with_reducible apply State.setMp_keeps | with_reducible apply OptKeeps.map | with_reducible apply OptKeeps.mapSnd | split | (intro) | (refine keeps_snd (State.lostAddr_keeps ?_ _ _ ) (by with_reducible assumption)) | (refine OptKeeps2.elim (State.mpIssue_keeps ?_ _ _ ) (by with_reducible assumption)) | (refine keeps_snd ?_ (by with_reducible assumption)) | (refine keeps_fst ?_ (by with_reducible assumption)) | fail_if_no_progress with_reducible apply Keeps.lit | with_reducible exact Nat.le_refl _ | exact Nat.le_succ _ | (fail_if_no_progress dsimp only))
theorem State.evictZero_keeps {s0 s : State} (h : Keeps s0 s) (a1 : NodeId) (a2 : Evict) (a3 : ℕ) (a4 : ℕ) : Keeps s0 (State.evictZero s a1 a2 a3 a4) := by
  unfold State.evictZero
  try dsimp only
  repeat' (first | with_reducible assumption | with_reducible apply State.setSes_keeps | with_reducible apply State.evictEnd_keeps | with_reducible apply State.modNd_keeps | split | (intro) | fail_if_no_progress with_reducible apply Keeps.lit | with_reducible exact Nat.le_refl _ | exact Nat.le_succ _ | (fail_if_no_progress dsimp only))
theorem State.recallDone_keeps {s0 s : State} (h : Keeps s0 s) (a1 : NodeId) (a2 : Evict) (a3 : ℕ) (a4 : Option (List ℕ)) : Keeps s0 (State.recallDone s a1 a2 a3 a4) := by
  unfold State.recallDone
  try dsimp only
  repeat' (first | with_reducible assumption | with_reducible apply State.wayRead_keeps | with_reducible apply State.evictDrop_keeps | with_reducible apply State.evictZero_keeps | with_reducible apply State.updTrk_keeps | with_reducible apply State.modNd_keeps | with_reducible apply State.lostWrite_keeps | with_reducible apply OptKeeps.getD | with_reducible apply foldl_keeps_id | with_reducible apply foldl_keeps_fst | with_reducible apply foldl_keeps_snd | split | (intro) | (refine keeps_snd (State.wayRead_keeps ?_ _ _ _ ) (by with_reducible assumption)) | (refine OptKeeps.elim (State.lostWrite_keeps ?_ _ _ _ ) (by with_reducible assumption)) | (refine keeps_snd ?_ (by with_reducible assumption)) | (refine keeps_fst ?_ (by with_reducible assumption)) | fail_if_no_progress with_reducible apply Keeps.lit | with_reducible exact Nat.le_refl _ | exact Nat.le_succ _ | (fail_if_no_progress dsimp only))
theorem State.intTake_keeps {s0 s : State} (h : Keeps s0 s) (a1 : NodeId) : Keeps s0 (State.intTake s a1) := by
  unfold State.intTake
  try dsimp only
  repeat' (first | with_reducible assumption | with_reducible apply State.takeTrk_keeps | with_reducible apply State.modNd_keeps | with_reducible apply State.modTrk_keeps | with_reducible apply State.raiseEvt_keeps | with_reducible apply State.repairGo_keeps | with_reducible apply foldl_keeps_id | with_reducible apply foldl_keeps_fst | with_reducible apply foldl_keeps_snd | split | (intro) | (refine OptKeeps2.elim (State.takeTrk_keeps ?_ _ _ _ ) (by with_reducible assumption)))
theorem State.evictPoll_keeps {s0 s : State} (h : Keeps s0 s) (a1 : NodeId) : Keeps s0 (State.evictPoll s a1) := by
  unfold State.evictPoll
  try dsimp only
  repeat' (first | with_reducible assumption | with_reducible apply State.evictGo_keeps | with_reducible apply State.recallDone_keeps | with_reducible apply foldl_keeps_id | with_reducible apply foldl_keeps_fst | with_reducible apply foldl_keeps_snd | split | (intro) | (refine keeps_snd ?_ (by with_reducible assumption)) | (refine keeps_fst ?_ (by with_reducible assumption)) | fail_if_no_progress with_reducible apply Keeps.lit | with_reducible exact Nat.le_refl _ | exact Nat.le_succ _ | (fail_if_no_progress dsimp only))
theorem State.lbPoll_keeps {s0 s : State} (h : Keeps s0 s) (a1 : NodeId) : Keeps s0 (State.lbPoll s a1) := by
  unfold State.lbPoll
  try dsimp only
  repeat' (first | with_reducible assumption | with_reducible apply State.modNd_keeps | with_reducible apply State.startReq_keeps | with_reducible apply State.wake_keeps | split | (intro) | (refine keeps_snd ?_ (by with_reducible assumption)) | (refine keeps_fst ?_ (by with_reducible assumption)) | fail_if_no_progress with_reducible apply Keeps.lit | with_reducible exact Nat.le_refl _ | exact Nat.le_succ _ | (fail_if_no_progress dsimp only))
theorem State.wayFor_keeps {s0 s : State} (h : Keeps s0 s) (a1 : NodeId) (a2 : ℕ) (a3 : ℕ) : Keeps s0 (State.wayFor s a1 a2 a3).2 := by
  unfold State.wayFor
  try dsimp only
  repeat' (first | with_reducible assumption | with_reducible apply State.modNd_keeps | with_reducible apply State.cntN_keeps | with_reducible apply State.setNd_keeps | split)
theorem State.groupRead_keeps {s0 s : State} (h : Keeps s0 s) (a1 : NodeId) (a2 : BankPos) : Keeps s0 (State.groupRead s a1 a2) := by
  unfold State.groupRead
  try dsimp only
  repeat' (first | with_reducible assumption | with_reducible apply State.wayRead_keeps | with_reducible apply foldl_keeps_id | with_reducible apply foldl_keeps_fst | with_reducible apply foldl_keeps_snd | split | (intro) | (refine keeps_snd (State.wayRead_keeps ?_ _ _ _ ) (by with_reducible assumption)) | fail_if_no_progress with_reducible apply Keeps.lit | with_reducible exact Nat.le_refl _ | exact Nat.le_succ _ | (fail_if_no_progress dsimp only))
theorem State.wayPoll_keeps {s0 s : State} (h : Keeps s0 s) (a1 : NodeId) : Keeps s0 (State.wayPoll s a1) := by
  unfold State.wayPoll
  try dsimp only
  repeat' (first | with_reducible assumption | with_reducible apply State.groupRead_keeps | with_reducible apply State.modNd_keeps | with_reducible apply State.wayFor_keeps | with_reducible apply OptKeeps.map | with_reducible apply OptKeeps.mapSnd | with_reducible apply foldl_keeps_id | with_reducible apply foldl_keeps_fst | with_reducible apply foldl_keeps_snd | split | (intro) | (refine keeps_snd (State.wayFor_keeps ?_ _ _ _ ) (by with_reducible assumption)) | (refine keeps_snd ?_ (by with_reducible assumption)) | (refine keeps_fst ?_ (by with_reducible assumption)) | fail_if_no_progress with_reducible apply Keeps.lit | with_reducible exact Nat.le_refl _ | exact Nat.le_succ _ | (fail_if_no_progress dsimp only))
theorem State.readyAll_keeps {s0 s : State} (h : Keeps s0 s) (a1 : CoreId) : Keeps s0 (State.readyAll s a1) := by
  unfold State.readyAll
  try dsimp only
  repeat' (first | with_reducible assumption | with_reducible apply State.setCore_keeps)
theorem State.tallocGo_keeps {s0 s : State} (h : Keeps s0 s) (a1 : NodeId) (a2 : Word) (a3 : BitVec 40) : Keeps s0 (State.tallocGo s a1 a2 a3).2 := by
  unfold State.tallocGo
  try dsimp only
  repeat' (first | with_reducible assumption | with_reducible apply State.modNd_keeps | with_reducible apply State.intTake_keeps | split)
theorem State.visitEntry_keeps {s0 s : State} (h : Keeps s0 s) (a1 : NodeId) (a2 : ℕ) (a3 : ℕ) (a4 : Word) : Keeps s0 (State.visitEntry s a1 a2 a3 a4).2 := by
  unfold State.visitEntry
  try dsimp only
  repeat' (first | with_reducible assumption | with_reducible apply State.tallocGo_keeps | split | (intro) | (refine keeps_snd (State.tallocGo_keeps ?_ _ _ _ ) (by with_reducible assumption)) | fail_if_no_progress with_reducible apply Keeps.lit | with_reducible exact Nat.le_refl _ | exact Nat.le_succ _ | (fail_if_no_progress dsimp only))
theorem State.visitWay_keeps {s0 s : State} (h : Keeps s0 s) (a1 : NodeId) (a2 : ℕ) (a3 : ℕ) : Keeps s0 (State.visitWay s a1 a2 a3).2 := by
  unfold State.visitWay
  try dsimp only
  repeat' (first | with_reducible assumption | with_reducible apply State.wayRead_keeps | with_reducible apply State.visitEntry_keeps | split | (intro) | (refine keeps_snd (State.wayRead_keeps ?_ _ _ _ ) (by with_reducible assumption)) | (refine keeps_snd (State.visitEntry_keeps ?_ _ _ _ _ ) (by with_reducible assumption)) | (refine keeps_snd ?_ (by with_reducible assumption)) | (refine keeps_fst ?_ (by with_reducible assumption)) | fail_if_no_progress with_reducible apply Keeps.lit | with_reducible exact Nat.le_refl _ | exact Nat.le_succ _ | (fail_if_no_progress dsimp only))
theorem State.visitSet_keeps {s0 s : State} (h : Keeps s0 s) (a1 : NodeId) (a2 : ℕ) (a3 : ℕ) : Keeps s0 (State.visitSet s a1 a2 a3).2.2 := by
  unfold State.visitSet
  have hp := State.bmLook_keeps h (s.ovfLine a3)
  generalize s.bmLook (s.ovfLine a3) = r at hp ⊢
  rcases r with ⟨_ | l, t⟩
  · exact keeps_of_snd2 (State.ovfLost_keeps hp _ _) rfl
  · dsimp only at hp ⊢
    have hq := State.ovfCheck_keeps hp a1 a3 l false
    generalize t.ovfCheck a1 a3 l false = q at hq ⊢
    split
    · exact keeps_of_snd2 hq rfl
    · refine keeps_of_snd2 (foldl_keeps (fun r => r.2) _ _ (true, q.2.2) hq fun b e hb => ?_) rfl
      split
      · exact State.visitEntry_keeps hb _ _ _ _
      · exact hb
theorem State.ovfRest_keeps {s0 s : State} (h : Keeps s0 s) (a1 : NodeId) : Keeps s0 (State.ovfRest s a1).2 := by
  unfold State.ovfRest
  have hp := State.bmLook_keeps h (s.ovfLine 0)
  generalize s.bmLook (s.ovfLine 0) = r at hp ⊢
  rcases r with ⟨_ | l, t⟩
  · exact keeps_of_snd (State.ovfGone_keeps hp _) rfl
  · exact keeps_of_snd hp rfl
theorem State.visitBanks_keeps {s0 s : State} (h : Keeps s0 s) (a1 : NodeId) (a2 : Visit) : Keeps s0 (State.visitBanks s a1 a2).2.2 := by
  refine foldl_keeps (fun r => r.2.2) _ _ (true, a2, s) h fun b e hb => ?_
  dsimp only
  split
  · exact hb
  · exact keeps_of_snd2 (State.visitWay_keeps hb _ _ _) rfl
theorem State.visitSets_keeps {s0 s : State} (h : Keeps s0 s) (a1 : NodeId) (a2 : Visit) : Keeps s0 (State.visitSets s a1 a2).2.2 := by
  refine foldl_keeps (fun r => r.2.2) _ _ (true, a2, s) h fun b e hb => ?_
  dsimp only
  split
  · exact hb
  · exact keeps_of_snd2 (State.visitSet_keeps hb _ _ _) rfl
theorem State.visitGo_keeps {s0 s : State} (h : Keeps s0 s) (a1 : NodeId) (a2 : Visit) : Keeps s0 (State.visitGo s a1 a2) := by
  unfold State.visitGo
  have hb := State.visitBanks_keeps h a1 a2
  generalize s.visitBanks a1 a2 = b at hb ⊢
  dsimp only
  split
  · exact State.modNd_keeps hb _ _
  · split
    · exact State.modNd_keeps hb _ _
    · generalize ({ b.2.1 with pos := max b.2.1.pos visitBankEnd } : Visit) = j
      have ho := State.visitSets_keeps hb a1 j
      generalize b.2.2.visitSets a1 j = o at ho ⊢
      split
      · exact State.modNd_keeps ho _ _
      · exact State.modNd_keeps (State.ovfRest_keeps ho a1) _ _
theorem State.visitPoll_keeps {s0 s : State} (h : Keeps s0 s) (a1 : NodeId) : Keeps s0 (State.visitPoll s a1) := by
  unfold State.visitPoll
  try dsimp only
  repeat' (first | with_reducible assumption | with_reducible apply State.visitGo_keeps | with_reducible apply foldl_keeps_id | with_reducible apply foldl_keeps_fst | with_reducible apply foldl_keeps_snd | split | (intro) | fail_if_no_progress with_reducible apply Keeps.lit | with_reducible exact Nat.le_refl _ | exact Nat.le_succ _ | (fail_if_no_progress dsimp only))
theorem State.settleRound_keeps {s0 s : State} (h : Keeps s0 s) (a1 : NodeId) : Keeps s0 (State.settleRound s a1) := by
  unfold State.settleRound
  try dsimp only
  repeat' (first | with_reducible assumption | with_reducible apply State.wakeAll_keeps | with_reducible apply State.visitPoll_keeps | with_reducible apply State.lbPoll_keeps | with_reducible apply State.wayPoll_keeps | with_reducible apply State.repairPoll_keeps | with_reducible apply State.evictPoll_keeps | with_reducible apply State.intTake_keeps | (intro) | fail_if_no_progress with_reducible apply Keeps.lit | with_reducible exact Nat.le_refl _ | exact Nat.le_succ _ | (fail_if_no_progress dsimp only))
theorem State.settleN_keeps {s0 s : State} (h : Keeps s0 s) (a1 : NodeId) (a2 : ℕ) : Keeps s0 (State.settleN s a1 a2) := by
  induction a2 generalizing s with
  | zero => exact h
  | succ k ih =>
    unfold State.settleN
    repeat' (first | with_reducible assumption | with_reducible apply ih | with_reducible apply State.settleRound_keeps | split)
theorem State.settle_keeps {s0 s : State} (h : Keeps s0 s) (a1 : NodeId) : Keeps s0 (State.settle s a1) := by
  unfold State.settle
  try dsimp only
  repeat' (first | with_reducible assumption | with_reducible apply State.readyAll_keeps | with_reducible apply State.wakeAll_keeps | with_reducible apply State.settleN_keeps | split)
theorem State.settleAll_keeps {s0 s : State} (h : Keeps s0 s)  : Keeps s0 (State.settleAll s) := by
  unfold State.settleAll
  try dsimp only
  repeat' (first | with_reducible assumption | with_reducible apply State.goneSlots_keeps | with_reducible apply State.waitedSnoops_keeps | with_reducible apply State.settle_keeps | with_reducible apply OptKeeps.map | with_reducible apply OptKeeps.mapSnd | with_reducible apply foldl_keeps_id | with_reducible apply foldl_keeps_fst | with_reducible apply foldl_keeps_snd | split | (intro))

end Sys2Proof.Machine
end

