-- ==== Sys2Proof/Laws/Keeps/Media.lean ====
section
/-! SUPPORT. Sys2Proof/Laws/Keeps/Media.lean: what the operations of Machine/Media.lean keep. -/

namespace Sys2Proof.Machine

theorem State.lossPend_keeps {s0 s : State} (h : Keeps s0 s)  : Keeps s0 (State.lossPend s) := by
  unfold State.lossPend
  try dsimp only
  repeat' (first | with_reducible assumption | with_reducible apply State.setRaw_keeps)
theorem State.complete_keeps {s0 s : State} (h : Keeps s0 s) (a1 : HpId × ℕ × BitVec 64) (a2 : Bool) : Keeps s0 (State.complete s a1 a2) := by
  unfold State.complete
  try dsimp only
  repeat' (first | with_reducible assumption | with_reducible apply State.answerNdr_keeps)
theorem State.completeErr_keeps {s0 s : State} (h : Keeps s0 s) (a1 : HpId × ℕ × BitVec 64) : Keeps s0 (State.completeErr s a1) := by
  unfold State.completeErr
  try dsimp only
  repeat' (first | with_reducible assumption | with_reducible apply State.answerNdr_keeps)
theorem State.flushHit_keeps {s0 s : State} (h : Keeps s0 s) (a1 : MpId) (a2 : ℕ) (a3 : Bool) : Keeps s0 (State.flushHit s a1 a2 a3) := by
  unfold State.flushHit
  try dsimp only
  repeat' (first | with_reducible assumption | with_reducible apply State.setHp_keeps | with_reducible apply OptKeeps.map | with_reducible apply OptKeeps.mapSnd | with_reducible apply foldl_keeps_id | with_reducible apply foldl_keeps_fst | with_reducible apply foldl_keeps_snd | split | (intro) | fail_if_no_progress with_reducible apply Keeps.lit | with_reducible exact Nat.le_refl _)
theorem State.flushSync_keeps {s0 s : State} (h : Keeps s0 s) (a1 : HpId) (a2 : FlushSt) : Keeps s0 (State.flushSync s a1 a2).1 := by
  unfold State.flushSync
  try dsimp only
  repeat' (first | with_reducible assumption | with_reducible apply State.mpIssue_keeps | with_reducible apply foldl_keeps_id | with_reducible apply foldl_keeps_fst | with_reducible apply foldl_keeps_snd | split | (intro) | (refine OptKeeps2.elim (State.mpIssue_keeps ?_ _ _ ) (by with_reducible assumption)))
theorem State.flushMore_keeps {s0 s : State} (h : Keeps s0 s) (a1 : HpId) (a2 : FlushSt) : Keeps s0 (State.flushMore s a1 a2).1 := by
  unfold State.flushMore
  try dsimp only
  repeat' (first | with_reducible assumption | with_reducible apply State.mpIssue_keeps | with_reducible apply foldl_keeps_id | with_reducible apply foldl_keeps_fst | with_reducible apply foldl_keeps_snd | split | (intro) | (refine OptKeeps2.elim (State.mpIssue_keeps ?_ _ _ ) (by with_reducible assumption)))
theorem State.flushAnswer_keeps {s0 s : State} (h : Keeps s0 s) (a1 : HpId) (a2 : FlushSt) : Keeps s0 (State.flushAnswer s a1 a2) := by
  unfold State.flushAnswer
  try dsimp only
  repeat' (first | with_reducible assumption | with_reducible apply State.setFld_keeps | with_reducible apply State.setHp_keeps | with_reducible apply State.answerNdr_keeps | split)
theorem State.flushPoll_keeps {s0 s : State} (h : Keeps s0 s) (a1 : HpId) : Keeps s0 (State.flushPoll s a1) := by
  unfold State.flushPoll
  try dsimp only
  repeat' (first | with_reducible assumption | with_reducible apply State.setHp_keeps | with_reducible apply State.flushMore_keeps | with_reducible apply State.flushSync_keeps | with_reducible apply State.flushAnswer_keeps | with_reducible apply OptKeeps.map | with_reducible apply OptKeeps.mapSnd | with_reducible apply foldl_keeps_id | with_reducible apply foldl_keeps_fst | with_reducible apply foldl_keeps_snd | split | (intro))
theorem State.flushAll_keeps {s0 s : State} (h : Keeps s0 s)  : Keeps s0 (State.flushAll s) := by
  unfold State.flushAll
  try dsimp only
  repeat' (first | with_reducible assumption | with_reducible apply State.flushPoll_keeps | with_reducible apply foldl_keeps_id | with_reducible apply foldl_keeps_fst | with_reducible apply foldl_keeps_snd | split | (intro))
theorem State.freeSb_keeps {s0 s : State} (h : Keeps s0 s) (a1 : NodeId) (a2 : Fin 8 × ℕ) : Keeps s0 (State.freeSb s a1 a2) := by
  unfold State.freeSb
  try dsimp only
  repeat' (first | with_reducible assumption | with_reducible apply State.modNd_keeps)
theorem State.handOff_keeps {s0 s : State} (h : Keeps s0 s) (a1 : MpId) : Keeps s0 (State.handOff s a1) := by
  unfold State.handOff
  try dsimp only
  repeat' (first | with_reducible assumption | with_reducible apply State.setMp_keeps | with_reducible apply State.cntB_keeps | with_reducible apply State.freeSb_keeps | with_reducible apply State.setHp_keeps | with_reducible apply State.complete_keeps | with_reducible apply State.settle_keeps | with_reducible apply State.modTrk_keeps | split | (intro) | (refine keeps_snd ?_ (by with_reducible assumption)) | (refine keeps_fst ?_ (by with_reducible assumption)) | fail_if_no_progress with_reducible apply Keeps.lit | with_reducible exact Nat.le_refl _ | exact Nat.le_succ _ | (fail_if_no_progress dsimp only))
theorem State.writeLoss_keeps {s0 s : State} (h : Keeps s0 s) (a1 : Mtag) (a2 : Bool) : Keeps s0 (State.writeLoss s a1 a2) := by
  unfold State.writeLoss
  try dsimp only
  repeat' (first | with_reducible assumption | with_reducible apply State.setHp_keeps | with_reducible apply State.lossPend_keeps | split | (intro) | (refine keeps_snd ?_ (by with_reducible assumption)) | (refine keeps_fst ?_ (by with_reducible assumption)) | fail_if_no_progress with_reducible apply Keeps.lit | with_reducible exact Nat.le_refl _ | exact Nat.le_succ _ | (fail_if_no_progress dsimp only))
theorem State.writeComp_keeps {s0 s : State} (h : Keeps s0 s) (a1 : Mtag) (a2 : Bool) : Keeps s0 (State.writeComp s a1 a2) := by
  unfold State.writeComp
  try dsimp only
  repeat' (first | with_reducible assumption | with_reducible apply State.completeErr_keeps | split)
theorem State.writeAck_keeps {s0 s : State} (h : Keeps s0 s) (a1 : Mtag) (a2 : Bool) : Keeps s0 (State.writeAck s a1 a2) := by
  unfold State.writeAck
  try dsimp only
  repeat' (first | with_reducible assumption | with_reducible apply State.complete_keeps | with_reducible apply State.completeErr_keeps | with_reducible apply State.setHp_keeps | split)
theorem State.writeFree_keeps {s0 s : State} (h : Keeps s0 s) (a1 : NodeId) (a2 : Mtag) : Keeps s0 (State.writeFree s a1 a2) := by
  unfold State.writeFree
  try dsimp only
  repeat' (first | with_reducible assumption | with_reducible apply State.freeSb_keeps | split)
theorem State.copyEnd_keeps {s0 s : State} (h : Keeps s0 s) (a1 : NodeId) (a2 : ℕ) (a3 : BitVec 4) : Keeps s0 (State.copyEnd s a1 a2 a3) := by
  unfold State.copyEnd
  try dsimp only
  repeat' (first | with_reducible assumption | with_reducible apply State.freeTrk_keeps | with_reducible apply State.settle_keeps | (intro) | fail_if_no_progress with_reducible apply Keeps.lit | with_reducible exact Nat.le_refl _ | exact Nat.le_succ _ | (fail_if_no_progress dsimp only))
theorem State.writeFlow_keeps {s0 s : State} (h : Keeps s0 s) (a1 : NodeId) (a2 : ℕ) (a3 : ℕ) : Keeps s0 (State.writeFlow s a1 a2 a3) := by
  unfold State.writeFlow
  try dsimp only
  repeat' (first | with_reducible assumption | with_reducible apply State.raise_keeps | with_reducible apply State.updTrk_keeps | with_reducible apply State.copyEnd_keeps | with_reducible apply State.settle_keeps | with_reducible apply State.wake_keeps | split | (intro) | fail_if_no_progress with_reducible apply Keeps.lit | with_reducible exact Nat.le_refl _ | exact Nat.le_succ _ | (fail_if_no_progress dsimp only))
theorem State.writeDone_keeps {s0 s : State} (h : Keeps s0 s) (a1 : MpId) (a2 : ℕ) (a3 : ℕ) : Keeps s0 (State.writeDone s a1 a2 a3).1 := by
  unfold State.writeDone
  try dsimp only
  repeat' (first | with_reducible assumption | with_reducible apply State.flushHit_keeps | with_reducible apply State.setMp_keeps | with_reducible apply State.lossPend_keeps | with_reducible apply State.writeLoss_keeps | with_reducible apply State.writeAck_keeps | with_reducible apply State.writeComp_keeps | with_reducible apply State.writeFlow_keeps | with_reducible apply State.writeFree_keeps | with_reducible apply OptKeeps.map | with_reducible apply OptKeeps.mapSnd | split | (intro) | (refine keeps_snd ?_ (by with_reducible assumption)) | (refine keeps_fst ?_ (by with_reducible assumption)) | fail_if_no_progress with_reducible apply Keeps.lit | with_reducible exact Nat.le_refl _ | exact Nat.le_succ _ | (fail_if_no_progress dsimp only))
theorem State.readLand_keeps {s0 s : State} (h : Keeps s0 s) (a1 : MpId) (a2 : ℕ) (a3 : ℕ) (a4 : Line) (a5 : Bool) : Keeps s0 (State.readLand s a1 a2 a3 a4 a5).1 := by
  unfold State.readLand
  try dsimp only
  repeat' (first | with_reducible assumption | with_reducible apply State.setMp_keeps | with_reducible apply State.raise_keeps | with_reducible apply State.modNd_keeps | with_reducible apply State.updTrk_keeps | with_reducible apply State.settle_keeps | with_reducible apply State.wake_keeps | with_reducible apply OptKeeps.getD | split | (intro) | (refine keeps_snd ?_ (by with_reducible assumption)) | (refine keeps_fst ?_ (by with_reducible assumption)) | fail_if_no_progress with_reducible apply Keeps.lit | with_reducible exact Nat.le_refl _ | exact Nat.le_succ _ | (fail_if_no_progress dsimp only))
theorem State.poisonReads_keeps {s0 s : State} (h : Keeps s0 s) (a1 : MpId) (a2 : Mtag → Bool) : Keeps s0 (State.poisonReads s a1 a2).1 := by
  unfold State.poisonReads
  try dsimp only
  repeat' (first | with_reducible assumption | with_reducible apply State.readLand_keeps | with_reducible apply foldl_keeps_id | with_reducible apply foldl_keeps_fst | with_reducible apply foldl_keeps_snd | split | (intro))
theorem State.copyDead_keeps {s0 s : State} (h : Keeps s0 s) (a1 : List MOwner) : Keeps s0 (State.copyDead s a1) := by
  unfold State.copyDead
  try dsimp only
  repeat' (first | with_reducible assumption | with_reducible apply State.copyEnd_keeps | with_reducible apply foldl_keeps_id | with_reducible apply foldl_keeps_fst | with_reducible apply foldl_keeps_snd | split | (intro) | (refine keeps_snd ?_ (by with_reducible assumption)) | (refine keeps_fst ?_ (by with_reducible assumption)) | fail_if_no_progress with_reducible apply Keeps.lit | with_reducible exact Nat.le_refl _ | exact Nat.le_succ _ | (fail_if_no_progress dsimp only))
theorem State.mpFailAll_keeps {s0 s : State} (h : Keeps s0 s) (a1 : MpId) : Keeps s0 (State.mpFailAll s a1).1 := by
  unfold State.mpFailAll
  try dsimp only
  repeat' (first | with_reducible assumption | with_reducible apply State.setMp_keeps | with_reducible apply State.poisonReads_keeps | with_reducible apply State.copyDead_keeps | with_reducible apply State.writeDone_keeps | with_reducible apply foldl_keeps_id | with_reducible apply foldl_keeps_fst | with_reducible apply foldl_keeps_snd | split | (intro) | (refine keeps_fst (State.writeDone_keeps ?_ _ _ _ ) (by with_reducible assumption)) | (refine keeps_snd ?_ (by with_reducible assumption)) | (refine keeps_fst ?_ (by with_reducible assumption)) | fail_if_no_progress with_reducible apply Keeps.lit | with_reducible exact Nat.le_refl _ | exact Nat.le_succ _ | (fail_if_no_progress dsimp only))

end Sys2Proof.Machine
end

