-- ==== Sys2Proof/Laws/Keeps/Requests.lean ====
section
/-! SUPPORT. Sys2Proof/Laws/Keeps/Requests.lean: what the operations of Machine/Requests.lean keep. -/

namespace Sys2Proof.Machine

theorem State.fieldAnswer_keeps {s0 s : State} (h : Keeps s0 s) (a1 : HpId) (a2 : BitVec 128) : Keeps s0 (State.fieldAnswer s a1 a2) := by
  unfold State.fieldAnswer
  try dsimp only
  repeat' (first | with_reducible assumption | with_reducible apply State.setHp_keeps | split)
theorem State.setLedSt_keeps {s0 s : State} (h : Keeps s0 s) (a1 : HpId) (a2 : ℕ) (a3 : LedEnt → LedEnt) : Keeps s0 (State.setLedSt s a1 a2 a3) := by
  unfold State.setLedSt
  try dsimp only
  repeat' (first | with_reducible assumption | with_reducible apply State.setHp_keeps | split)
theorem State.testRead_keeps {s0 s : State} (h : Keeps s0 s) (a1 : HpId) (a2 : ℕ) : Keeps s0 (State.testRead s a1 a2) := by
  unfold State.testRead
  try dsimp only
  repeat' (first | with_reducible assumption | with_reducible apply State.answer_keeps | split | (intro) | (refine keeps_snd ?_ (by with_reducible assumption)) | (refine keeps_fst ?_ (by with_reducible assumption)) | fail_if_no_progress with_reducible apply Keeps.lit | with_reducible exact Nat.le_refl _ | exact Nat.le_succ _ | (fail_if_no_progress dsimp only))
theorem State.inject_keeps {s0 s : State} (h : Keeps s0 s) (a1 : HpId) (a2 : ℕ) : Keeps s0 (State.inject s a1 a2) := by
  unfold State.inject
  try dsimp only
  repeat' (first | with_reducible assumption | with_reducible apply State.testRead_keeps | with_reducible apply State.setLedSt_keeps | with_reducible apply State.setHp_keeps | split | (intro) | (refine keeps_snd ?_ (by with_reducible assumption)) | (refine keeps_fst ?_ (by with_reducible assumption)) | fail_if_no_progress with_reducible apply Keeps.lit | with_reducible exact Nat.le_refl _ | exact Nat.le_succ _ | (fail_if_no_progress dsimp only))
theorem State.injectAll_keeps {s0 s : State} (h : Keeps s0 s)  : Keeps s0 (State.injectAll s) := by
  unfold State.injectAll
  try dsimp only
  repeat' (first | with_reducible assumption | with_reducible apply State.inject_keeps | with_reducible apply foldl_keeps_id | with_reducible apply foldl_keeps_fst | with_reducible apply foldl_keeps_snd | split | (intro))
theorem State.xlated_keeps {s0 s : State} (h : Keeps s0 s) (a1 : HpId) (a2 : ℕ) (a3 : Xlat) : Keeps s0 (State.xlated s a1 a2 a3) := by
  unfold State.xlated
  try dsimp only
  repeat' (first | with_reducible assumption | with_reducible apply State.inject_keeps | with_reducible apply State.setLedSt_keeps)
theorem State.translate_keeps {s0 s : State} (h : Keeps s0 s) (a1 : HpId) (a2 : ℕ) : Keeps s0 (State.translate s a1 a2) := by
  unfold State.translate
  try dsimp only
  repeat' (first | with_reducible assumption | with_reducible apply State.setLedSt_keeps | with_reducible apply State.xlateLook_keeps | with_reducible apply State.xlated_keeps | split | (intro) | (refine keeps_snd (State.xlateLook_keeps ?_ _ _ _ ) (by with_reducible assumption)))
theorem State.unblock_keeps {s0 s : State} (h : Keeps s0 s) (a1 : HpId) : Keeps s0 (State.unblock s a1) := by
  unfold State.unblock
  try dsimp only
  repeat' (first | with_reducible assumption | with_reducible apply State.translate_keeps | with_reducible apply foldl_keeps_id | with_reducible apply foldl_keeps_fst | with_reducible apply foldl_keeps_snd | split | (intro))
theorem State.ledPut_keeps {s0 s : State} (h : Keeps s0 s) (a1 : HpId) (a2 : BitVec 128) (a3 : Line) (a4 : BitVec 64) (a5 : Bool) (a6 : LedSt) : Keeps s0 (State.ledPut s a1 a2 a3 a4 a5 a6).2 := by
  unfold State.ledPut
  try dsimp only
  repeat' (first | with_reducible assumption | with_reducible apply State.setHp_keeps)
theorem State.begin__keeps {s0 s : State} (h : Keeps s0 s) (a1 : HpId) (a2 : BitVec 128) (a3 : Line) (a4 : BitVec 64) (a5 : Bool) : Keeps s0 (State.begin_ s a1 a2 a3 a4 a5) := by
  unfold State.begin_
  try dsimp only
  repeat' (first | with_reducible assumption | with_reducible apply State.ledPut_keeps | with_reducible apply State.chvEvent_keeps | with_reducible apply State.flushPoll_keeps | with_reducible apply State.setHp_keeps | with_reducible apply State.translate_keeps | split)
theorem State.accept_keeps {s0 s : State} (h : Keeps s0 s) (a1 : HpId) (a2 : ℕ) (a3 : BitVec 128) (a4 : Line) (a5 : BitVec 64) (a6 : Bool) : Keeps s0 (State.accept s a1 a2 a3 a4 a5 a6) := by
  unfold State.accept
  try dsimp only
  repeat' (first | with_reducible assumption | with_reducible apply State.survThen_keeps | with_reducible apply State.sesRead_keeps | with_reducible apply State.cntB_keeps | with_reducible apply State.raise_keeps | with_reducible apply State.fieldAnswer_keeps | with_reducible apply State.begin__keeps | split | (intro) | fail_if_no_progress with_reducible apply Keeps.lit | with_reducible exact Nat.le_refl _ | exact Nat.le_succ _ | (fail_if_no_progress dsimp only))
theorem execMemRd_keeps {s0 s : State} (h : Keeps s0 s) (a0 : HpId) (a1 : BitVec 128) : Out.Keeps (execMemRd a0 a1 s) s0 := by
  unfold execMemRd
  refine Out.keeps_next ?_
  try dsimp only
  repeat' (first | with_reducible assumption | with_reducible apply State.accept_keeps)
theorem execMemRdData_keeps {s0 s : State} (h : Keeps s0 s) (a0 : HpId) (a1 : BitVec 128) : Out.Keeps (execMemRdData a0 a1 s) s0 := by
  unfold execMemRdData
  refine Out.keeps_next ?_
  try dsimp only
  repeat' (first | with_reducible assumption | with_reducible apply State.accept_keeps)
theorem execMemInv_keeps {s0 s : State} (h : Keeps s0 s) (a0 : HpId) (a1 : BitVec 128) : Out.Keeps (execMemInv a0 a1 s) s0 := by
  unfold execMemInv
  refine Out.keeps_next ?_
  try dsimp only
  repeat' (first | with_reducible assumption | with_reducible apply State.accept_keeps)
theorem execMemInvNt_keeps {s0 s : State} (h : Keeps s0 s) (a0 : HpId) (a1 : BitVec 128) : Out.Keeps (execMemInvNt a0 a1 s) s0 := by
  unfold execMemInvNt
  refine Out.keeps_next ?_
  try dsimp only
  repeat' (first | with_reducible assumption | with_reducible apply State.accept_keeps)
theorem execMemClnEvct_keeps {s0 s : State} (h : Keeps s0 s) (a0 : HpId) (a1 : BitVec 128) : Out.Keeps (execMemClnEvct a0 a1 s) s0 := by
  unfold execMemClnEvct
  refine Out.keeps_next ?_
  try dsimp only
  repeat' (first | with_reducible assumption | with_reducible apply State.accept_keeps)
theorem execMemWr_keeps {s0 s : State} (h : Keeps s0 s) (a0 : HpId) (a1 : BitVec 128) (a2 : Line) (a3 : BitVec 64) (a4 : Bool) : Out.Keeps (execMemWr a0 a1 a2 a3 a4 s) s0 := by
  unfold execMemWr
  refine Out.keeps_next ?_
  try dsimp only
  repeat' (first | with_reducible assumption | with_reducible apply State.accept_keeps)
theorem execMemWrPtl_keeps {s0 s : State} (h : Keeps s0 s) (a0 : HpId) (a1 : BitVec 128) (a2 : Line) (a3 : BitVec 64) (a4 : Bool) : Out.Keeps (execMemWrPtl a0 a1 a2 a3 a4 s) s0 := by
  unfold execMemWrPtl
  refine Out.keeps_next ?_
  try dsimp only
  repeat' (first | with_reducible assumption | with_reducible apply State.accept_keeps)
theorem execBiConflict_keeps {s0 s : State} (h : Keeps s0 s) (a0 : HpId) (a1 : BitVec 128) : Out.Keeps (execBiConflict a0 a1 s) s0 := by
  unfold execBiConflict
  refine Out.keeps_next ?_
  try dsimp only
  repeat' (first | with_reducible assumption | with_reducible apply State.accept_keeps)
theorem execHostFlush_keeps {s0 s : State} (h : Keeps s0 s) (a0 : HpId) (a1 : BitVec 128) : Out.Keeps (execHostFlush a0 a1 s) s0 := by
  unfold execHostFlush
  refine Out.keeps_next ?_
  try dsimp only
  repeat' (first | with_reducible assumption | with_reducible apply State.accept_keeps)
theorem execSessOpen_keeps {s0 s : State} (h : Keeps s0 s) (a0 : HpId) (a1 : BitVec 128) : Out.Keeps (execSessOpen a0 a1 s) s0 := by
  unfold execSessOpen
  refine Out.keeps_next ?_
  try dsimp only
  repeat' (first | with_reducible assumption | with_reducible apply State.accept_keeps)
theorem execSessClose_keeps {s0 s : State} (h : Keeps s0 s) (a0 : HpId) (a1 : BitVec 128) : Out.Keeps (execSessClose a0 a1 s) s0 := by
  unfold execSessClose
  refine Out.keeps_next ?_
  try dsimp only
  repeat' (first | with_reducible assumption | with_reducible apply State.accept_keeps)
theorem State.walkDone_keeps {s0 s : State} (h : Keeps s0 s) (a1 : HpId) (a2 : ℕ) (a3 : BmErr) : Keeps s0 (State.walkDone s a1 a2 a3) := by
  unfold State.walkDone
  try dsimp only
  repeat' (first | with_reducible assumption | with_reducible apply State.unblock_keeps | with_reducible apply State.xlated_keeps | with_reducible apply State.xlateFill_keeps | with_reducible apply State.cntB_keeps | with_reducible apply State.bmErrs_keeps | with_reducible apply State.answerErr_keeps | with_reducible apply State.walkErrs_keeps | split)
theorem execTranslationWalkDone_keeps {s0 s : State} (h : Keeps s0 s) (a0 : HpId) (a1 : Fin 2048) (a2 : BmErr) : Out.Keeps (execTranslationWalkDone a0 a1 a2 s) s0 := by
  unfold execTranslationWalkDone
  refine Out.keeps_next ?_
  try dsimp only
  repeat' (first | with_reducible assumption | with_reducible apply State.walkDone_keeps)

end Sys2Proof.Machine
end

