-- ==== Sys2Proof/Laws/Keeps/Sessions.lean ====
section
/-! SUPPORT. Sys2Proof/Laws/Keeps/Sessions.lean: what the operations of Machine/Sessions.lean keep. -/

namespace Sys2Proof.Machine

theorem State.inboxPut_keeps {s0 s : State} (h : Keeps s0 s) (a1 : CoreId) (a2 : ℕ) (a3 : Line) : OptKeeps s0 (State.inboxPut s a1 a2 a3) := by
  unfold State.inboxPut
  try dsimp only
  repeat' (first | with_reducible assumption | with_reducible exact OptKeeps.none | with_reducible apply OptKeeps.some | with_reducible apply State.setCore_keeps | split)
theorem State.modSes_keeps {s0 s : State} (h : Keeps s0 s) (a1 : ℕ) (a2 : Session → Session) : Keeps s0 (State.modSes s a1 a2) := by
  unfold State.modSes
  try dsimp only
  repeat' (first | with_reducible assumption | with_reducible apply State.setSes_keeps)
theorem State.leaveAtt_keeps {s0 s : State} (h : Keeps s0 s) (a1 : HpId) : Keeps s0 (State.leaveAtt s a1) := by
  unfold State.leaveAtt
  try dsimp only
  repeat' (first | with_reducible assumption | with_reducible apply State.setFld_keeps | with_reducible apply State.setHp_keeps | with_reducible apply State.consCheck_keeps | split | (intro) | fail_if_no_progress with_reducible apply Keeps.lit | with_reducible exact Nat.le_refl _ | exact Nat.le_succ _ | (fail_if_no_progress dsimp only))
theorem State.detachPoll_keeps {s0 s : State} (h : Keeps s0 s) (a1 : HpId) : Keeps s0 (State.detachPoll s a1) := by
  unfold State.detachPoll
  try dsimp only
  repeat' (first | with_reducible assumption | with_reducible apply State.leaveAtt_keeps | with_reducible apply State.modSes_keeps | with_reducible apply foldl_keeps_id | with_reducible apply foldl_keeps_fst | with_reducible apply foldl_keeps_snd | split | (intro))
theorem State.sessEnd_keeps {s0 s : State} (h : Keeps s0 s) (a1 : ℕ) : Keeps s0 (State.sessEnd s a1) := by
  unfold State.sessEnd
  try dsimp only
  repeat' (first | with_reducible assumption | with_reducible apply State.modSes_keeps | with_reducible apply State.setHp_keeps | with_reducible apply State.record_keeps | with_reducible apply State.answerNdr_keeps | with_reducible apply State.detachPoll_keeps | with_reducible apply State.consCheck_keeps | split)
theorem State.visitSend_keeps {s0 s : State} (h : Keeps s0 s) (a1 : ℕ) : Keeps s0 (State.visitSend s a1) := by
  unfold State.visitSend
  try dsimp only
  repeat' (first | with_reducible assumption | with_reducible apply State.inboxPut_keeps | with_reducible apply State.modSes_keeps | with_reducible apply foldl_keeps_id | with_reducible apply foldl_keeps_fst | with_reducible apply foldl_keeps_snd | split | (intro) | (refine OptKeeps.elim (State.inboxPut_keeps ?_ _ _ _ ) (by with_reducible assumption)))
theorem State.sessPoll_keeps {s0 s : State} (h : Keeps s0 s) (a1 : ℕ) : Keeps s0 (State.sessPoll s a1) := by
  unfold State.sessPoll
  try dsimp only
  repeat' (first | with_reducible assumption | with_reducible apply State.sessEnd_keeps | with_reducible apply State.visitSend_keeps | with_reducible apply State.modSes_keeps | with_reducible apply foldl_keeps_id | with_reducible apply foldl_keeps_fst | with_reducible apply foldl_keeps_snd | split)
theorem State.sessTake_keeps {s0 s : State} (h : Keeps s0 s) (a1 : HpId) (a2 : ℕ) (a3 : LedEnt) : Keeps s0 (State.sessTake s a1 a2 a3) := by
  unfold State.sessTake
  try dsimp only
  repeat' (first | with_reducible assumption | with_reducible apply State.setHp_keeps | (intro) | fail_if_no_progress with_reducible apply Keeps.lit | with_reducible exact Nat.le_refl _ | exact Nat.le_succ _ | (fail_if_no_progress dsimp only))
theorem State.sessOpen_keeps {s0 s : State} (h : Keeps s0 s) (a1 : HpId) (a2 : ℕ) (a3 : LedEnt) (a4 : BmErr) : Keeps s0 (State.sessOpen s a1 a2 a3 a4) := by
  unfold State.sessOpen
  try dsimp only
  repeat' (first | with_reducible assumption | with_reducible apply State.answerErr_keeps | with_reducible apply State.raise_keeps | with_reducible apply State.bmErrs_keeps | with_reducible apply State.answerNdr_keeps | with_reducible apply State.setSes_keeps | split)
theorem State.sessClose_keeps {s0 s : State} (h : Keeps s0 s) (a1 : HpId) (a2 : ℕ) (a3 : LedEnt) : Keeps s0 (State.sessClose s a1 a2 a3) := by
  unfold State.sessClose
  try dsimp only
  repeat' (first | with_reducible assumption | with_reducible apply State.answerNdr_keeps | with_reducible apply State.answerErr_keeps | with_reducible apply State.modSes_keeps | split | (intro) | fail_if_no_progress with_reducible apply Keeps.lit | with_reducible exact Nat.le_refl _ | exact Nat.le_succ _ | (fail_if_no_progress dsimp only))
theorem State.sessServe_keeps {s0 s : State} (h : Keeps s0 s) (a1 : ℕ) (a2 : BmErr) : Keeps s0 (State.sessServe s a1 a2) := by
  unfold State.sessServe
  try dsimp only
  repeat' (first | with_reducible assumption | with_reducible apply State.setHp_keeps | with_reducible apply State.survThen_keeps | with_reducible apply State.sessTake_keeps | with_reducible apply State.sesRead_keeps | with_reducible apply State.sessOpen_keeps | with_reducible apply State.sessClose_keeps | split | (intro) | (refine keeps_snd ?_ (by with_reducible assumption)) | (refine keeps_fst ?_ (by with_reducible assumption)) | fail_if_no_progress with_reducible apply Keeps.lit | with_reducible exact Nat.le_refl _ | exact Nat.le_succ _ | (fail_if_no_progress dsimp only))
theorem State.departServe_keeps {s0 s : State} (h : Keeps s0 s) (a1 : ℕ) (a2 : BmErr) : Keeps s0 (State.departServe s a1 a2) := by
  unfold State.departServe
  try dsimp only
  repeat' (first | with_reducible assumption | with_reducible apply State.modSes_keeps | with_reducible apply State.raise_keeps | with_reducible apply State.bmErrs_keeps | split)
theorem State.chvServe_keeps {s0 s : State} (h : Keeps s0 s) (a1 : ℕ × ℕ × BmErr) : Keeps s0 (State.chvServe s a1) := by
  unfold State.chvServe
  try dsimp only
  repeat' (first | with_reducible assumption | with_reducible apply State.sessServe_keeps | with_reducible apply State.survThen_keeps | with_reducible apply State.sesRead_keeps | with_reducible apply State.departServe_keeps | split | (intro) | fail_if_no_progress with_reducible apply Keeps.lit | with_reducible exact Nat.le_refl _ | exact Nat.le_succ _ | (fail_if_no_progress dsimp only))
theorem State.chvPoll_keeps {s0 s : State} (h : Keeps s0 s)  : Keeps s0 (State.chvPoll s) := by
  unfold State.chvPoll
  try dsimp only
  repeat' (first | with_reducible assumption | with_reducible apply State.chvServe_keeps | with_reducible apply foldl_keeps_id | with_reducible apply foldl_keeps_fst | with_reducible apply foldl_keeps_snd | split | (intro) | fail_if_no_progress with_reducible apply Keeps.lit | with_reducible exact Nat.le_refl _ | exact Nat.le_succ _ | (fail_if_no_progress dsimp only))
theorem State.sessAll_keeps {s0 s : State} (h : Keeps s0 s)  : Keeps s0 (State.sessAll s) := by
  unfold State.sessAll
  try dsimp only
  repeat' (first | with_reducible assumption | with_reducible apply State.chvPoll_keeps | with_reducible apply State.sessPoll_keeps | with_reducible apply State.detachPoll_keeps | with_reducible apply foldl_keeps_id | with_reducible apply foldl_keeps_fst | with_reducible apply foldl_keeps_snd | split | (intro) | fail_if_no_progress with_reducible apply Keeps.lit | with_reducible exact Nat.le_refl _ | exact Nat.le_succ _ | (fail_if_no_progress dsimp only))
theorem State.visitEnd_keeps {s0 s : State} (h : Keeps s0 s) (a1 : NodeId) (a2 : ℕ) (a3 : Bool) : Keeps s0 (State.visitEnd s a1 a2 a3) := by
  unfold State.visitEnd
  try dsimp only
  repeat' (first | with_reducible assumption | with_reducible apply State.modNd_keeps | with_reducible apply State.modSes_keeps | split | (intro) | (refine keeps_snd ?_ (by with_reducible assumption)) | (refine keeps_fst ?_ (by with_reducible assumption)) | fail_if_no_progress with_reducible apply Keeps.lit | with_reducible exact Nat.le_refl _ | exact Nat.le_succ _ | (fail_if_no_progress dsimp only))

end Sys2Proof.Machine
end

