-- ==== Sys2Proof/Laws/Keeps/Dma.lean ====
section
/-! SUPPORT. Sys2Proof/Laws/Keeps/Dma.lean: what the operations of Machine/Dma.lean keep. -/

namespace Sys2Proof.Machine

theorem State.modCh_keeps {s0 s : State} (h : Keeps s0 s) (a1 : ChanId) (a2 : Chan → Chan) : Keeps s0 (State.modCh s a1 a2) := by
  unfold State.modCh
  try dsimp only
  repeat' (first | with_reducible assumption | with_reducible apply State.setCh_keeps)
theorem State.dmaSave_keeps {s0 s : State} (h : Keeps s0 s) (a1 : ChanId) : Keeps s0 (State.dmaSave s a1) := by
  unfold State.dmaSave
  try dsimp only
  repeat' (first | with_reducible assumption | split | (intro) | fail_if_no_progress with_reducible apply Keeps.lit | with_reducible exact Nat.le_refl _ | exact Nat.le_succ _ | fail_if_no_progress with_reducible apply Keeps.litBmem | with_reducible apply memWrite_wf)
theorem State.dmaHalt_keeps {s0 s : State} (h : Keeps s0 s) (a1 : ChanId) (a2 : ℕ) : Keeps s0 (State.dmaHalt s a1 a2) := by
  unfold State.dmaHalt
  try dsimp only
  repeat' (first | with_reducible assumption | with_reducible apply State.modCh_keeps | with_reducible apply State.dmaSave_keeps | with_reducible apply State.record_keeps | with_reducible apply State.raiseK_keeps | with_reducible apply State.chvEvent_keeps | split)
theorem State.dmaFault_keeps {s0 s : State} (h : Keeps s0 s) (a1 : ChanId) (a2 : ℕ) (a3 : ℕ) : Keeps s0 (State.dmaFault s a1 a2 a3) := by
  unfold State.dmaFault
  try dsimp only
  repeat' (first | with_reducible assumption | with_reducible apply State.modCh_keeps)
theorem State.dmaUnit_keeps {s0 s : State} (h : Keeps s0 s) (a1 : ChanId) (a2 : ℕ) : Keeps s0 (State.dmaUnit s a1 a2) := by
  unfold State.dmaUnit
  try dsimp only
  repeat' (first | with_reducible assumption | with_reducible apply State.cntB_keeps | with_reducible apply State.modCh_keeps | with_reducible apply State.dmaSave_keeps | split)
theorem State.plcPut_keeps {s0 s : State} (h : Keeps s0 s) (a1 : ℕ) (a2 : Word) : Keeps s0 (State.plcPut s a1 a2) := by
  unfold State.plcPut
  try dsimp only
  repeat' (first | with_reducible assumption | (intro) | fail_if_no_progress with_reducible apply Keeps.lit | with_reducible exact Nat.le_refl _ | exact Nat.le_succ _ | fail_if_no_progress with_reducible apply Keeps.litBmem | with_reducible apply memWrite_wf)
theorem State.setMirror_keeps {s0 s : State} (h : Keeps s0 s) (a1 : ChanId) (a2 : Option Mirror) : Keeps s0 (State.setMirror s a1 a2) := by
  unfold State.setMirror
  try dsimp only
  repeat' (first | with_reducible assumption | with_reducible apply State.setMp_keeps | with_reducible apply State.survFresh_keeps | with_reducible apply foldl_keeps_id | with_reducible apply foldl_keeps_fst | with_reducible apply foldl_keeps_snd | split | (intro))
theorem State.setBound_keeps {s0 s : State} (h : Keeps s0 s) (a1 : ChanId) (a2 : ℕ) : Keeps s0 (State.setBound s a1 a2) := by
  unfold State.setBound
  try dsimp only
  repeat' (first | with_reducible assumption | with_reducible apply State.setMp_keeps | with_reducible apply foldl_keeps_id | with_reducible apply foldl_keeps_fst | with_reducible apply foldl_keeps_snd | split | (intro))
theorem State.migLoad_keeps {s0 s : State} (h : Keeps s0 s) (a1 : ChanId) (a2 : ℕ) : Keeps s0 (State.migLoad s a1 a2) := by
  unfold State.migLoad
  try dsimp only
  repeat' (first | with_reducible assumption | with_reducible apply State.setMirror_keeps | with_reducible apply State.modCh_keeps | with_reducible apply State.xltInv_keeps | with_reducible apply foldl_keeps_id | with_reducible apply foldl_keeps_fst | with_reducible apply foldl_keeps_snd | split | (intro) | fail_if_no_progress with_reducible apply Keeps.lit | with_reducible exact Nat.le_refl _ | exact Nat.le_succ _ | fail_if_no_progress with_reducible apply Keeps.litBmem | with_reducible apply memWrite_wf | with_reducible apply memWriteBe_wf | with_reducible apply memBlit_wf | with_reducible apply memCopy_wf | with_reducible apply memFill_wf)
theorem State.migSkip_keeps {s0 s : State} (h : Keeps s0 s) (a1 : ChanId) (a2 : ℕ) : Keeps s0 (State.migSkip s a1 a2) := by
  unfold State.migSkip
  try dsimp only
  repeat' (first | with_reducible assumption | with_reducible apply State.dmaHalt_keeps | with_reducible apply State.bmErrs_keeps | with_reducible apply State.migLoad_keeps | with_reducible apply State.bmFree_keeps | with_reducible apply State.modCh_keeps | split | (intro) | (refine keeps_snd (State.bmFree_keeps ?_ ) (by with_reducible assumption)) | fail_if_no_progress with_reducible apply Keeps.lit | with_reducible exact Nat.le_refl _ | exact Nat.le_succ _ | (fail_if_no_progress dsimp only))
theorem State.migBegin_keeps {s0 s : State} (h : Keeps s0 s) (a1 : ChanId) (a2 : ℕ) : Keeps s0 (State.migBegin s a1 a2) := by
  unfold State.migBegin
  try dsimp only
  repeat' (first | with_reducible assumption | with_reducible apply State.dmaHalt_keeps | with_reducible apply State.bmErrs_keeps | with_reducible apply State.bmFree_keeps | with_reducible apply State.migSkip_keeps | with_reducible apply State.modCh_keeps | split | (intro) | (refine keeps_snd (State.bmFree_keeps ?_ ) (by with_reducible assumption)) | fail_if_no_progress with_reducible apply Keeps.lit | with_reducible exact Nat.le_refl _ | exact Nat.le_succ _ | (fail_if_no_progress dsimp only))
theorem State.dmaBegin_keeps {s0 s : State} (h : Keeps s0 s) (a1 : ChanId) (a2 : BmErr) : Keeps s0 (State.dmaBegin s a1 a2) := by
  unfold State.dmaBegin
  try dsimp only
  repeat' (first | with_reducible assumption | with_reducible apply State.modCh_keeps | with_reducible apply State.dmaHalt_keeps | with_reducible apply State.bmErrs_keeps | with_reducible apply State.migBegin_keeps | split | (intro) | fail_if_no_progress with_reducible apply Keeps.lit | with_reducible exact Nat.le_refl _ | exact Nat.le_succ _ | (fail_if_no_progress dsimp only))
theorem State.dmaComplete_keeps {s0 s : State} (h : Keeps s0 s) (a1 : ChanId) : Keeps s0 (State.dmaComplete s a1) := by
  unfold State.dmaComplete
  try dsimp only
  repeat' (first | with_reducible assumption | with_reducible apply State.dmaSave_keeps | with_reducible apply State.bmFree_keeps | with_reducible apply State.dmaBegin_keeps | with_reducible apply State.modCh_keeps | with_reducible apply State.chvEvent_keeps | split | (intro) | (refine keeps_snd (State.bmFree_keeps ?_ ) (by with_reducible assumption)) | fail_if_no_progress with_reducible apply Keeps.lit | with_reducible exact Nat.le_refl _ | exact Nat.le_succ _ | (fail_if_no_progress dsimp only))
theorem State.workTo_keeps {s0 s : State} (h : Keeps s0 s) (a1 : ChanId) (a2 : ℕ) (a3 : NodeId) (a4 : Line) (a5 : ℕ) : Keeps s0 (State.workTo s a1 a2 a3 a4 a5) := by
  unfold State.workTo
  try dsimp only
  repeat' (first | with_reducible assumption | with_reducible apply State.raise_keeps | with_reducible apply State.inboxPut_keeps | with_reducible apply State.modCh_keeps | split | (intro) | (refine OptKeeps.elim (State.inboxPut_keeps ?_ _ _ _ ) (by with_reducible assumption)) | (refine keeps_snd ?_ (by with_reducible assumption)) | (refine keeps_fst ?_ (by with_reducible assumption)) | fail_if_no_progress with_reducible apply Keeps.lit | with_reducible exact Nat.le_refl _ | exact Nat.le_succ _ | (fail_if_no_progress dsimp only))
theorem State.workAgain_keeps {s0 s : State} (h : Keeps s0 s) (a1 : ChanId) : Keeps s0 (State.workAgain s a1) := by
  unfold State.workAgain
  try dsimp only
  repeat' (first | with_reducible assumption | with_reducible apply State.modCh_keeps | with_reducible apply State.workTo_keeps | with_reducible apply foldl_keeps_id | with_reducible apply foldl_keeps_fst | with_reducible apply foldl_keeps_snd | split | (intro) | fail_if_no_progress with_reducible apply Keeps.lit | with_reducible exact Nat.le_refl _ | exact Nat.le_succ _ | (fail_if_no_progress dsimp only))
theorem State.dmaQec_keeps {s0 s : State} (h : Keeps s0 s) (a1 : BitVec 16) (a2 : BitVec 16) : Keeps s0 (State.dmaQec s a1 a2).2 := by
  unfold State.dmaQec
  try dsimp only
  repeat' (first | with_reducible assumption | with_reducible apply State.qecLook_keeps | split)
theorem State.dmaFill_keeps {s0 s : State} (h : Keeps s0 s) (a1 : ChanId) (a2 : BitVec 16) (a3 : BitVec 16) (a4 : Xlat) : Keeps s0 (State.dmaFill s a1 a2 a3 a4) := by
  unfold State.dmaFill
  try dsimp only
  repeat' (first | with_reducible assumption | with_reducible apply State.fill_keeps)
theorem State.dmaWalked_keeps {s0 s : State} (h : Keeps s0 s) (a1 : ChanId) (a2 : BitVec 16) (a3 : BitVec 16) (a4 : Walk) : Keeps s0 (State.dmaWalked s a1 a2 a3 a4).2 := by
  unfold State.dmaWalked
  try dsimp only
  repeat' (first | with_reducible assumption | with_reducible apply State.dmaFill_keeps | with_reducible apply State.qecFill_keeps | split)
theorem State.dmaXlate_keeps {s0 s : State} (h : Keeps s0 s) (a1 : ChanId) (a2 : BitVec 16) (a3 : BitVec 16) : Keeps s0 (State.dmaXlate s a1 a2 a3).2 := by
  unfold State.dmaXlate
  try dsimp only
  repeat' (first | with_reducible assumption | with_reducible apply State.macLook_keeps | with_reducible apply State.dmaQec_keeps | with_reducible apply State.dmaFill_keeps | with_reducible apply State.bmFree_keeps | with_reducible apply State.bmErrs_keeps | with_reducible apply State.dmaWalked_keeps | split | (intro) | (refine keeps_snd (State.dmaQec_keeps ?_ _ _ ) (by with_reducible assumption)) | (refine keeps_snd (State.bmFree_keeps ?_ ) (by with_reducible assumption)) | (refine keeps_snd (State.dmaWalked_keeps ?_ _ _ _ _ ) (by with_reducible assumption)) | (refine keeps_snd ?_ (by with_reducible assumption)) | (refine keeps_fst ?_ (by with_reducible assumption)) | fail_if_no_progress with_reducible apply Keeps.lit | with_reducible exact Nat.le_refl _ | exact Nat.le_succ _ | (fail_if_no_progress dsimp only))
theorem State.bulkGo_keeps {s0 s : State} (h : Keeps s0 s) (a1 : NodeId) (a2 : ℕ) (a3 : Bool) : Keeps s0 (State.bulkGo s a1 a2 a3) := by
  unfold State.bulkGo
  try dsimp only
  repeat' (first | with_reducible assumption | with_reducible apply State.wayRead_keeps | with_reducible apply State.modNd_keeps | with_reducible apply State.cntN_keeps | with_reducible apply foldl_keeps_id | with_reducible apply foldl_keeps_fst | with_reducible apply foldl_keeps_snd | split | (intro) | (refine keeps_snd (State.wayRead_keeps ?_ _ _ _ ) (by with_reducible assumption)) | (refine keeps_snd ?_ (by with_reducible assumption)) | (refine keeps_fst ?_ (by with_reducible assumption)) | fail_if_no_progress with_reducible apply Keeps.lit | with_reducible exact Nat.le_refl _ | exact Nat.le_succ _ | (fail_if_no_progress dsimp only))
theorem State.bulkBank_keeps {s0 s : State} (h : Keeps s0 s) (a1 : NodeId) (a2 : Bool) : Keeps s0 (State.bulkBank s a1 a2) := by
  unfold State.bulkBank
  try dsimp only
  repeat' (first | with_reducible assumption | with_reducible apply State.bulkGo_keeps | with_reducible apply OptKeeps.map | with_reducible apply OptKeeps.mapSnd | with_reducible apply foldl_keeps_id | with_reducible apply foldl_keeps_fst | with_reducible apply foldl_keeps_snd | split | (intro) | fail_if_no_progress with_reducible apply Keeps.lit | with_reducible exact Nat.le_refl _ | exact Nat.le_succ _ | (fail_if_no_progress dsimp only))
theorem State.dmaNote_keeps {s0 s : State} (h : Keeps s0 s) (a1 : ChanId) (a2 : ℕ) : Keeps s0 (State.dmaNote s a1 a2) := by
  unfold State.dmaNote
  try dsimp only
  repeat' (first | with_reducible assumption | with_reducible apply State.modCh_keeps)
theorem State.dmaWrite_keeps {s0 s : State} (h : Keeps s0 s) (a1 : ChanId) (a2 : ℕ) (a3 : ℕ) (a4 : Line) : OptKeeps s0 (State.dmaWrite s a1 a2 a3 a4) := by
  unfold State.dmaWrite
  try dsimp only
  repeat' (first | with_reducible assumption | with_reducible exact OptKeeps.none | with_reducible apply OptKeeps.some | with_reducible apply State.mpIssue_keeps | split | (intro) | (refine OptKeeps2.elim (State.mpIssue_keeps ?_ _ _ ) (by with_reducible assumption)))
theorem State.dmaIssue_keeps {s0 s : State} (h : Keeps s0 s) (a1 : ChanId) (a2 : ℕ) : OptKeeps s0 (State.dmaIssue s a1 a2) := by
  unfold State.dmaIssue
  try dsimp only
  repeat' (first | with_reducible assumption | with_reducible exact OptKeeps.none | with_reducible apply OptKeeps.some | with_reducible apply State.workTo_keeps | with_reducible apply State.dmaNote_keeps | with_reducible apply State.dmaXlate_keeps | with_reducible apply State.dmaUnit_keeps | with_reducible apply State.dmaFault_keeps | with_reducible apply State.walkErrs_keeps | with_reducible apply State.modCh_keeps | with_reducible apply State.raise_keeps | with_reducible apply State.bulkGo_keeps | with_reducible apply State.bmErrs_keeps | with_reducible apply State.bmIssue_keeps | with_reducible apply State.mpIssue_keeps | with_reducible apply OptKeeps.map | with_reducible apply OptKeeps.mapSnd | split | (intro) | (refine keeps_snd (State.dmaXlate_keeps ?_ _ _ _ ) (by with_reducible assumption)) | (refine OptKeeps2.elim (State.bmIssue_keeps ?_ _ _ _ _ _ ) (by with_reducible assumption)) | (refine OptKeeps2.elim (State.mpIssue_keeps ?_ _ _ ) (by with_reducible assumption)) | (refine keeps_snd ?_ (by with_reducible assumption)) | (refine keeps_fst ?_ (by with_reducible assumption)) | fail_if_no_progress with_reducible apply Keeps.lit | with_reducible exact Nat.le_refl _ | exact Nat.le_succ _ | (fail_if_no_progress dsimp only))
theorem State.placeWrite_keeps {s0 s : State} (h : Keeps s0 s) (a1 : ChanId) (a2 : Word) : Keeps s0 (State.placeWrite s a1 a2) := by
  unfold State.placeWrite
  try dsimp only
  repeat' (first | with_reducible assumption | with_reducible apply State.dmaFault_keeps | with_reducible apply State.bmFree_keeps | with_reducible apply State.plcPut_keeps | with_reducible apply State.bmErrs_keeps | with_reducible apply State.dmaWrite_keeps | with_reducible apply OptKeeps.getD | split | (intro) | (refine keeps_snd (State.bmFree_keeps ?_ ) (by with_reducible assumption)) | (refine OptKeeps.elim (State.dmaWrite_keeps ?_ _ _ _ _ ) (by with_reducible assumption)) | fail_if_no_progress with_reducible apply Keeps.lit | with_reducible exact Nat.le_refl _ | exact Nat.le_succ _ | (fail_if_no_progress dsimp only))
theorem State.ckptWrite_keeps {s0 s : State} (h : Keeps s0 s) (a1 : ChanId) (a2 : ℕ) (a3 : Bool) : Keeps s0 (State.ckptWrite s a1 a2 a3) := by
  unfold State.ckptWrite
  try dsimp only
  repeat' (first | with_reducible assumption | with_reducible apply State.dmaFault_keeps | with_reducible apply State.dmaWrite_keeps | with_reducible apply State.dmaSave_keeps | with_reducible apply OptKeeps.getD | split)
theorem State.migNext_keeps {s0 s : State} (h : Keeps s0 s) (a1 : ChanId) : Keeps s0 (State.migNext s a1) := by
  unfold State.migNext
  try dsimp only
  repeat' (first | with_reducible assumption | with_reducible apply State.modCh_keeps | with_reducible apply State.xltInv_keeps | with_reducible apply State.setBound_keeps | with_reducible apply State.migSkip_keeps | with_reducible apply State.dmaComplete_keeps | with_reducible apply State.setMirror_keeps | with_reducible apply foldl_keeps_id | with_reducible apply foldl_keeps_fst | with_reducible apply foldl_keeps_snd | split | (intro))
theorem State.migMove_keeps {s0 s : State} (h : Keeps s0 s) (a1 : ChanId) (a2 : Bool) : Keeps s0 (State.migMove s a1 a2) := by
  unfold State.migMove
  try dsimp only
  repeat' (first | with_reducible assumption | with_reducible apply State.migNext_keeps | with_reducible apply State.placeWrite_keeps | with_reducible apply State.ckptWrite_keeps | with_reducible apply State.modCh_keeps | with_reducible apply State.plcInv_keeps | with_reducible apply State.dmaComplete_keeps | with_reducible apply State.setMirror_keeps | with_reducible apply State.dmaIssue_keeps | with_reducible apply OptKeeps.getD | with_reducible apply OptKeeps.map | with_reducible apply OptKeeps.mapSnd | split | (intro) | (refine OptKeeps.elim (State.dmaIssue_keeps ?_ _ _ ) (by with_reducible assumption)) | (refine keeps_snd ?_ (by with_reducible assumption)) | (refine keeps_fst ?_ (by with_reducible assumption)) | fail_if_no_progress with_reducible apply Keeps.lit | with_reducible exact Nat.le_refl _ | exact Nat.le_succ _ | (fail_if_no_progress dsimp only))
theorem State.bulkPoll_keeps {s0 s : State} (h : Keeps s0 s) (a1 : ChanId) : Keeps s0 (State.bulkPoll s a1) := by
  unfold State.bulkPoll
  try dsimp only
  repeat' (first | with_reducible assumption | with_reducible apply State.modCh_keeps | with_reducible apply State.dmaUnit_keeps | with_reducible apply State.bulkGo_keeps | with_reducible apply foldl_keeps_id | with_reducible apply foldl_keeps_fst | with_reducible apply foldl_keeps_snd | split | (intro) | fail_if_no_progress with_reducible apply Keeps.lit | with_reducible exact Nat.le_refl _ | exact Nat.le_succ _ | (fail_if_no_progress dsimp only))
theorem State.dmaMove_keeps {s0 s : State} (h : Keeps s0 s) (a1 : ChanId) : Keeps s0 (State.dmaMove s a1) := by
  unfold State.dmaMove
  try dsimp only
  repeat' (first | with_reducible assumption | with_reducible apply State.bulkPoll_keeps | with_reducible apply State.dmaHalt_keeps | with_reducible apply State.modCh_keeps | with_reducible apply State.migMove_keeps | with_reducible apply State.dmaComplete_keeps | with_reducible apply State.dmaIssue_keeps | with_reducible apply OptKeeps.getD | with_reducible apply OptKeeps.map | with_reducible apply OptKeeps.mapSnd | split | (intro))
theorem State.dmaSched_keeps {s0 s : State} (h : Keeps s0 s)  : Keeps s0 (State.dmaSched s) := by
  unfold State.dmaSched
  try dsimp only
  repeat' (first | with_reducible assumption | with_reducible apply State.setCh_keeps | with_reducible apply foldl_keeps_id | with_reducible apply foldl_keeps_fst | with_reducible apply foldl_keeps_snd | split | (intro))
theorem State.dmaRounds_keeps {s0 s : State} (h : Keeps s0 s) (a1 : ℕ) : Keeps s0 (State.dmaRounds s a1) := by
  induction a1 generalizing s with
  | zero => exact h
  | succ k ih =>
    unfold State.dmaRounds
    with_reducible apply ih
    with_reducible apply foldl_keeps_id
    · exact State.dmaSched_keeps h
    · intro u c k; exact State.dmaMove_keeps k c
theorem State.dmaResult_keeps {s0 s : State} (h : Keeps s0 s) (a1 : ChanId) (a2 : ℕ) (a3 : ℕ) : Keeps s0 (State.dmaResult s a1 a2 a3) := by
  unfold State.dmaResult
  try dsimp only
  repeat' (first | with_reducible assumption | with_reducible apply State.dmaUnit_keeps | with_reducible apply State.dmaFault_keeps | with_reducible apply State.modCh_keeps | split)
theorem State.hwReports_keeps {s0 s : State} (h : Keeps s0 s)  : Keeps s0 (State.hwReports s) := by
  unfold State.hwReports
  try dsimp only
  repeat' (first | with_reducible assumption | with_reducible apply State.dmaResult_keeps | with_reducible apply foldl_keeps_id | with_reducible apply foldl_keeps_fst | with_reducible apply foldl_keeps_snd | split | (intro) | (refine keeps_snd ?_ (by with_reducible assumption)) | (refine keeps_fst ?_ (by with_reducible assumption)) | fail_if_no_progress with_reducible apply Keeps.lit | with_reducible exact Nat.le_refl _)
theorem State.dmaAll_keeps {s0 s : State} (h : Keeps s0 s)  : Keeps s0 (State.dmaAll s) := by
  unfold State.dmaAll
  try dsimp only
  repeat' (first | with_reducible assumption | with_reducible apply State.hwReports_keeps | with_reducible apply State.workAgain_keeps | with_reducible apply State.dmaRounds_keeps | with_reducible apply foldl_keeps_id | with_reducible apply foldl_keeps_fst | with_reducible apply foldl_keeps_snd | split | (intro) | fail_if_no_progress with_reducible apply Keeps.lit | with_reducible exact Nat.le_refl _ | exact Nat.le_succ _ | (fail_if_no_progress dsimp only))
theorem State.dmaWrote_keeps {s0 s : State} (h : Keeps s0 s) (a1 : ChanId) (a2 : ℕ) (a3 : ℕ) : Keeps s0 (State.dmaWrote s a1 a2 a3) := by
  unfold State.dmaWrote
  try dsimp only
  repeat' (first | with_reducible assumption | with_reducible apply State.migNext_keeps | with_reducible apply State.dmaFault_keeps | with_reducible apply State.dmaUnit_keeps | split)
theorem State.dmaRead_keeps {s0 s : State} (h : Keeps s0 s) (a1 : ChanId) (a2 : ℕ) (a3 : Line) (a4 : ℕ) : Keeps s0 (State.dmaRead s a1 a2 a3 a4) := by
  unfold State.dmaRead
  try dsimp only
  repeat' (first | with_reducible assumption | with_reducible apply State.dmaFault_keeps | with_reducible apply State.bmErrs_keeps | with_reducible apply State.bmIssue_keeps | with_reducible apply State.modCh_keeps | split | (intro) | (refine OptKeeps2.elim (State.bmIssue_keeps ?_ _ _ _ _ _ ) (by with_reducible assumption)))
theorem State.dmaBm_keeps {s0 s : State} (h : Keeps s0 s) (a1 : ChanId) (a2 : ℕ) (a3 : Bool) (a4 : Line) (a5 : BmErr) : Keeps s0 (State.dmaBm s a1 a2 a3 a4 a5) := by
  unfold State.dmaBm
  try dsimp only
  repeat' (first | with_reducible assumption | with_reducible apply State.dmaFault_keeps | with_reducible apply State.dmaUnit_keeps | with_reducible apply State.dmaWrite_keeps | with_reducible apply State.modCh_keeps | split | (intro) | (refine OptKeeps.elim (State.dmaWrite_keeps ?_ _ _ _ _ ) (by with_reducible assumption)))
theorem State.dmaMsg_keeps {s0 s : State} (h : Keeps s0 s) (a1 : Line) : Keeps s0 (State.dmaMsg s a1) := by
  unfold State.dmaMsg
  try dsimp only
  repeat' (first | with_reducible assumption | with_reducible apply State.dmaResult_keeps | split)
theorem State.chanGo_keeps {s0 s : State} (h : Keeps s0 s) (a1 : ChanId) (a2 : BmErr) : Keeps s0 (State.chanGo s a1 a2) := by
  unfold State.chanGo
  try dsimp only
  repeat' (first | with_reducible assumption | with_reducible apply State.dmaBegin_keeps | with_reducible apply State.modCh_keeps | split)
theorem State.chanResume_keeps {s0 s : State} (h : Keeps s0 s) (a1 : ChanId) : Keeps s0 (State.chanResume s a1) := by
  unfold State.chanResume
  try dsimp only
  repeat' (first | with_reducible assumption | with_reducible apply State.bmFree_keeps | with_reducible apply State.dmaBegin_keeps | with_reducible apply State.setCh_keeps | with_reducible apply State.migBegin_keeps | split | (intro) | (refine keeps_snd (State.bmFree_keeps ?_ ) (by with_reducible assumption)) | fail_if_no_progress with_reducible apply Keeps.lit | with_reducible exact Nat.le_refl _ | exact Nat.le_succ _ | (fail_if_no_progress dsimp only))
theorem State.chanStop_keeps {s0 s : State} (h : Keeps s0 s) (a1 : ChanId) : Keeps s0 (State.chanStop s a1) := by
  unfold State.chanStop
  try dsimp only
  repeat' (first | with_reducible assumption | with_reducible apply State.modCh_keeps | with_reducible apply State.dmaHalt_keeps | split)
theorem State.itemLate_keeps {s0 s : State} (h : Keeps s0 s) (a1 : ChanId) (a2 : ℕ) : Keeps s0 (State.itemLate s a1 a2) := by
  unfold State.itemLate
  try dsimp only
  repeat' (first | with_reducible assumption | with_reducible apply State.dmaFault_keeps | split)
theorem State.busyAgain_keeps {s0 s : State} (h : Keeps s0 s) (a1 : ChanId) (a2 : ℕ) : Keeps s0 (State.busyAgain s a1 a2) := by
  unfold State.busyAgain
  try dsimp only
  repeat' (first | with_reducible assumption | with_reducible apply State.modCh_keeps | with_reducible apply State.dmaIssue_keeps | with_reducible apply OptKeeps.getD | split)

end Sys2Proof.Machine
end

