-- ==== Sys2Proof/Laws/Keeps/Admit.lean ====
section
/-! SUPPORT. Sys2Proof/Laws/Keeps/Admit.lean: what the operations of Machine/Admit.lean keep. -/

namespace Sys2Proof.Machine

theorem State.freeHeld_keeps {s0 s : State} (h : Keeps s0 s) (a1 : HpId) : Keeps s0 (State.freeHeld s a1) := by
  unfold State.freeHeld
  try dsimp only
  repeat' (first | with_reducible assumption | with_reducible apply State.testRead_keeps | with_reducible apply State.setHp_keeps | with_reducible apply State.setLedSt_keeps | with_reducible apply State.setFld_keeps | with_reducible apply foldl_keeps_id | with_reducible apply foldl_keeps_fst | with_reducible apply foldl_keeps_snd | split | (intro) | (refine keeps_snd ?_ (by with_reducible assumption)) | (refine keeps_fst ?_ (by with_reducible assumption)) | fail_if_no_progress with_reducible apply Keeps.lit | with_reducible exact Nat.le_refl _ | exact Nat.le_succ _ | (fail_if_no_progress dsimp only))
theorem State.quenchSync_keeps {s0 s : State} (h : Keeps s0 s) (a1 : NodeId) : Keeps s0 (State.quenchSync s a1) := by
  unfold State.quenchSync
  try dsimp only
  repeat' (first | with_reducible assumption | with_reducible apply State.setHp_keeps | with_reducible apply State.setMp_keeps | with_reducible apply OptKeeps.map | with_reducible apply OptKeeps.mapSnd | with_reducible apply foldl_keeps_id | with_reducible apply foldl_keeps_fst | with_reducible apply foldl_keeps_snd | split | (intro) | fail_if_no_progress with_reducible apply Keeps.lit | with_reducible exact Nat.le_refl _ | exact Nat.le_succ _ | (fail_if_no_progress dsimp only))
theorem State.holdPoll_keeps {s0 s : State} (h : Keeps s0 s)  : Keeps s0 (State.holdPoll s) := by
  unfold State.holdPoll
  try dsimp only
  repeat' (first | with_reducible assumption | (exact absurd (h.flush (by with_reducible assumption)) (by simp_all)) | with_reducible apply State.setFld_keeps | with_reducible apply State.quenchSync_keeps | with_reducible apply State.modNd_keeps | with_reducible apply State.setMode_keeps | with_reducible apply foldl_keeps_id | with_reducible apply foldl_keeps_fst | with_reducible apply foldl_keeps_snd | split | (intro) | fail_if_no_progress with_reducible apply Keeps.lit | with_reducible exact Nat.le_refl _)
theorem State.replayGo_keeps {s0 s : State} (h : Keeps s0 s)  : Keeps s0 (State.replayGo s) := by
  unfold State.replayGo
  try dsimp only
  repeat' (first | with_reducible assumption | with_reducible apply State.nowActive_keeps | with_reducible apply foldl_keeps_id | with_reducible apply foldl_keeps_fst | with_reducible apply foldl_keeps_snd | split | (intro))
theorem State.goOn_keeps {s0 s : State} (h : Keeps s0 s)  : Keeps s0 (State.goOn s) := by
  unfold State.goOn
  try dsimp only
  repeat' (first | with_reducible assumption | with_reducible apply State.settleAll_keeps | with_reducible apply State.replayGo_keeps | with_reducible apply State.holdPoll_keeps | with_reducible apply State.attAll_keeps | with_reducible apply State.freeHeld_keeps | with_reducible apply State.dmaAll_keeps | with_reducible apply State.sessAll_keeps | with_reducible apply State.flushAll_keeps | with_reducible apply State.injectAll_keeps | with_reducible apply foldl_keeps_id | with_reducible apply foldl_keeps_fst | with_reducible apply foldl_keeps_snd | split | (intro) | fail_if_no_progress with_reducible apply Keeps.lit | with_reducible exact Nat.le_refl _ | exact Nat.le_succ _ | (fail_if_no_progress dsimp only))
theorem State.answerRetry_keeps {s0 s : State} (h : Keeps s0 s) (a1 : NodeId) (a2 : HpId) (a3 : ℕ) (a4 : Bool) : Keeps s0 (State.answerRetry s a1 a2 a3 a4) := by
  unfold State.answerRetry
  try dsimp only
  repeat' (first | with_reducible assumption | with_reducible apply State.modNd_keeps | with_reducible apply State.cntN_keeps | with_reducible apply State.setLedSt_keeps | with_reducible apply State.setFld_keeps | split | (intro) | fail_if_no_progress with_reducible apply Keeps.lit | with_reducible exact Nat.le_refl _ | exact Nat.le_succ _ | (fail_if_no_progress dsimp only))
theorem State.rspTook_keeps {s0 s : State} (h : Keeps s0 s) (a1 : NodeId) (a2 : HpId) (a3 : Option ℕ) : Keeps s0 (State.rspTook s a1 a2 a3) := by
  unfold State.rspTook
  try dsimp only
  repeat' (first | with_reducible assumption | with_reducible apply State.modNd_keeps | split | (intro) | fail_if_no_progress with_reducible apply Keeps.lit | with_reducible exact Nat.le_refl _ | exact Nat.le_succ _ | (fail_if_no_progress dsimp only))
theorem State.takeReq_keeps {s0 s : State} (h : Keeps s0 s) (a1 : HpId) (a2 : NodeId) : Keeps s0 (State.takeReq s a1 a2) := by
  unfold State.takeReq
  try dsimp only
  repeat' (first | with_reducible assumption | with_reducible apply State.oweCredit_keeps | with_reducible apply State.spendCredit_keeps | (intro) | fail_if_no_progress with_reducible apply Keeps.lit | with_reducible exact Nat.le_refl _ | exact Nat.le_succ _ | (fail_if_no_progress dsimp only))
theorem State.startFlow_keeps {s0 s : State} (h : Keeps s0 s) (a1 : NodeId) (a2 : ℕ) : Keeps s0 (State.startFlow s a1 a2) := by
  unfold State.startFlow
  try dsimp only
  repeat' (first | with_reducible assumption | with_reducible apply State.modNd_keeps | with_reducible apply State.startReq_keeps | with_reducible apply State.cntN_keeps | split)
theorem State.startWb_keeps {s0 s : State} (h : Keeps s0 s) (a1 : NodeId) (a2 : ℕ) : Keeps s0 (State.startWb s a1 a2) := by
  unfold State.startWb
  try dsimp only
  repeat' (first | with_reducible assumption | with_reducible apply State.startReq_keeps | with_reducible apply State.seeWb_keeps)
theorem State.replayFull_keeps {s0 s : State} (h : Keeps s0 s) (a1 : NodeId) (a2 : HpId) (a3 : ℕ) (a4 : LedEnt) : Keeps s0 (State.replayFull s a1 a2 a3 a4) := by
  unfold State.replayFull
  try dsimp only
  repeat' (first | with_reducible assumption | with_reducible apply State.answerRetry_keeps | with_reducible apply State.modNd_keeps | with_reducible apply State.startFlow_keeps | with_reducible apply State.setLedSt_keeps | split)
theorem State.admission_keeps {s0 s : State} (h : Keeps s0 s) (a1 : NodeId) (a2 : HpId) (a3 : ℕ) : Keeps s0 (State.admission s a1 a2 a3) := by
  unfold State.admission
  try dsimp only
  repeat' (first | with_reducible assumption | with_reducible apply State.takeReq_keeps | with_reducible apply State.setLedSt_keeps | with_reducible apply State.setHp_keeps | with_reducible apply State.takeTrk_keeps | with_reducible apply State.answerRetry_keeps | with_reducible apply State.seeWb_keeps | with_reducible apply State.startWb_keeps | with_reducible apply State.replayFull_keeps | with_reducible apply State.startFlow_keeps | split | (intro) | (refine OptKeeps2.elim (State.takeTrk_keeps ?_ _ _ _ ) (by with_reducible assumption)) | (refine keeps_snd ?_ (by with_reducible assumption)) | (refine keeps_fst ?_ (by with_reducible assumption)) | fail_if_no_progress with_reducible apply Keeps.lit | with_reducible exact Nat.le_refl _ | exact Nat.le_succ _ | (fail_if_no_progress dsimp only))
theorem execAdmission_keeps {s0 s : State} (h : Keeps s0 s) (a0 : NodeId) (a1 : HpId) (a2 : Fin 2048) : Out.Keeps (execAdmission a0 a1 a2 s) s0 := by
  unfold execAdmission
  refine Out.keeps_next ?_
  try dsimp only
  repeat' (first | with_reducible assumption | with_reducible apply State.goOn_keeps | with_reducible apply State.admission_keeps)
theorem State.retryIn_keeps {s0 s : State} (h : Keeps s0 s) (a1 : HpId) (a2 : NodeId) (a3 : ℕ) : Keeps s0 (State.retryIn s a1 a2 a3) := by
  unfold State.retryIn
  try dsimp only
  repeat' (first | with_reducible assumption | with_reducible apply State.rspTook_keeps | with_reducible apply State.setHp_keeps | with_reducible apply OptKeeps.map | with_reducible apply OptKeeps.mapSnd | split | (intro) | (refine keeps_snd ?_ (by with_reducible assumption)) | (refine keeps_fst ?_ (by with_reducible assumption)) | fail_if_no_progress with_reducible apply Keeps.lit | with_reducible exact Nat.le_refl _ | exact Nat.le_succ _ | (fail_if_no_progress dsimp only))
theorem execRetry_keeps {s0 s : State} (h : Keeps s0 s) (a0 : HpId) (a1 : NodeId) (a2 : Fin 2048) : Out.Keeps (execRetry a0 a1 a2 s) s0 := by
  unfold execRetry
  refine Out.keeps_next ?_
  try dsimp only
  repeat' (first | with_reducible assumption | with_reducible apply State.goOn_keeps | with_reducible apply State.retryIn_keeps)
theorem State.intoKept_keeps {s0 s : State} (h : Keeps s0 s) (a1 : NodeId) (a2 : ℕ) (a3 : HpId) (a4 : ℕ) (a5 : Bool) : Keeps s0 (State.intoKept s a1 a2 a3 a4 a5) := by
  unfold State.intoKept
  try dsimp only
  repeat' (first | with_reducible assumption | with_reducible apply State.modNd_keeps | with_reducible apply State.setLedSt_keeps | with_reducible apply State.startWb_keeps | with_reducible apply State.startFlow_keeps | split)
theorem State.grantIn_keeps {s0 s : State} (h : Keeps s0 s) (a1 : HpId) (a2 : NodeId) : Keeps s0 (State.grantIn s a1 a2) := by
  unfold State.grantIn
  try dsimp only
  repeat' (first | with_reducible assumption | with_reducible apply State.modNd_keeps | with_reducible apply State.rspTook_keeps | with_reducible apply State.offer_keeps | with_reducible apply State.survThen_keeps | with_reducible apply State.heldRead_keeps | with_reducible apply State.takeReq_keeps | with_reducible apply State.setHp_keeps | with_reducible apply State.intoKept_keeps | with_reducible apply State.setFld_keeps | with_reducible apply OptKeeps.map | with_reducible apply OptKeeps.mapSnd | split | (intro) | (refine keeps_snd ?_ (by with_reducible assumption)) | (refine keeps_fst ?_ (by with_reducible assumption)) | fail_if_no_progress with_reducible apply Keeps.lit | with_reducible exact Nat.le_refl _ | exact Nat.le_succ _ | (fail_if_no_progress dsimp only))
theorem execGrant_keeps {s0 s : State} (h : Keeps s0 s) (a0 : HpId) (a1 : NodeId) : Out.Keeps (execGrant a0 a1 s) s0 := by
  unfold execGrant
  refine Out.keeps_next ?_
  try dsimp only
  repeat' (first | with_reducible assumption | with_reducible apply State.goOn_keeps | with_reducible apply State.grantIn_keeps)
theorem State.sink_keeps {s0 s : State} (h : Keeps s0 s) (a1 : NodeId) (a2 : HpId) (a3 : ℕ) : Keeps s0 (State.sink s a1 a2 a3) := by
  unfold State.sink
  try dsimp only
  repeat' (first | with_reducible assumption | with_reducible apply State.answerErr_keeps | with_reducible apply State.cntB_keeps | with_reducible apply State.raise_keeps | with_reducible apply State.takeReq_keeps | split | (intro) | (refine keeps_snd ?_ (by with_reducible assumption)) | (refine keeps_fst ?_ (by with_reducible assumption)) | fail_if_no_progress with_reducible apply Keeps.lit | with_reducible exact Nat.le_refl _ | exact Nat.le_succ _ | (fail_if_no_progress dsimp only))
theorem execSinkAbsorb_keeps {s0 s : State} (h : Keeps s0 s) (a0 : NodeId) (a1 : HpId) (a2 : Fin 2048) : Out.Keeps (execSinkAbsorb a0 a1 a2 s) s0 := by
  unfold execSinkAbsorb
  refine Out.keeps_next ?_
  try dsimp only
  repeat' (first | with_reducible assumption | with_reducible apply State.goOn_keeps | with_reducible apply State.sink_keeps)

end Sys2Proof.Machine
end

