-- ==== Sys2Proof/Laws/Keeps/StoreBuf.lean ====
section
/-! SUPPORT. Sys2Proof/Laws/Keeps/StoreBuf.lean: what the operations of Machine/StoreBuf.lean keep. -/

namespace Sys2Proof.Machine

theorem State.modThr_keeps {s0 s : State} (h : Keeps s0 s) (a1 : Thr) (a2 : Thread → Thread) : Keeps s0 (State.modThr s a1 a2) := by
  unfold State.modThr
  try dsimp only
  repeat' (first | with_reducible assumption | with_reducible apply State.setThr_keeps)
theorem State.modSb_keeps {s0 s : State} (h : Keeps s0 s) (a1 : Thr) (a2 : ℕ) (a3 : SbEnt → SbEnt) : Keeps s0 (State.modSb s a1 a2 a3) := by
  unfold State.modSb
  try dsimp only
  repeat' (first | with_reducible assumption | with_reducible apply State.modThr_keeps)
theorem State.dropSb_keeps {s0 s : State} (h : Keeps s0 s) (a1 : Thr) (a2 : ℕ) : Keeps s0 (State.dropSb s a1 a2) := by
  unfold State.dropSb
  try dsimp only
  repeat' (first | with_reducible assumption | with_reducible apply State.modThr_keeps)
theorem State.mpQueue_keeps {s0 s : State} (h : Keeps s0 s) (a1 : MpId) (a2 : ℕ) : Keeps s0 (State.mpQueue s a1 a2) := by
  unfold State.mpQueue
  try dsimp only
  repeat' (first | with_reducible assumption | with_reducible apply State.setMp_keeps)
theorem State.discard_keeps {s0 s : State} (h : Keeps s0 s) (a1 : Thr) (a2 : SbEnt) : Keeps s0 (State.discard s a1 a2) := by
  unfold State.discard
  try dsimp only
  repeat' (first | with_reducible assumption | with_reducible apply State.modThr_keeps)
theorem State.dropMwr_keeps {s0 s : State} (h : Keeps s0 s) (a1 : MpId) (a2 : ℕ) : Keeps s0 (State.dropMwr s a1 a2) := by
  unfold State.dropMwr
  try dsimp only
  repeat' (first | with_reducible assumption | with_reducible apply State.choose_keeps | with_reducible apply State.writeDone_keeps | with_reducible apply State.setMp_keeps | split)
theorem State.discardAll_keeps {s0 s : State} (h : Keeps s0 s) (a1 : Thr) (a2 : SbEnt) : Keeps s0 (State.discardAll s a1 a2) := by
  unfold State.discardAll
  try dsimp only
  repeat' (first | with_reducible assumption | with_reducible apply State.discard_keeps | with_reducible apply State.dropMwr_keeps | split | (intro) | (refine keeps_snd ?_ (by with_reducible assumption)) | (refine keeps_fst ?_ (by with_reducible assumption)) | fail_if_no_progress with_reducible apply Keeps.lit | with_reducible exact Nat.le_refl _ | exact Nat.le_succ _ | (fail_if_no_progress dsimp only))
theorem State.sbParity_keeps {s0 s : State} (h : Keeps s0 s) (a1 : Thr) (a2 : SbEnt) : Keeps s0 (State.sbParity s a1 a2) := by
  unfold State.sbParity
  try dsimp only
  repeat' (first | with_reducible assumption | with_reducible apply State.discardAll_keeps | with_reducible apply State.raise_keeps | split | (intro) | (refine keeps_snd ?_ (by with_reducible assumption)) | (refine keeps_fst ?_ (by with_reducible assumption)) | fail_if_no_progress with_reducible apply Keeps.lit | with_reducible exact Nat.le_refl _ | exact Nat.le_succ _ | (fail_if_no_progress dsimp only))
theorem State.sbSendOne_keeps {s0 s : State} (h : Keeps s0 s) (a1 : Thr) (a2 : SbEnt) : Keeps s0 (State.sbSendOne s a1 a2) := by
  unfold State.sbSendOne
  try dsimp only
  repeat' (first | with_reducible assumption | with_reducible apply State.sbParity_keeps | with_reducible apply State.modSb_keeps | with_reducible apply State.mpQueue_keeps | with_reducible apply State.bmIssue_keeps | split | (intro) | (refine OptKeeps2.elim (State.bmIssue_keeps ?_ _ _ _ _ _ ) (by with_reducible assumption)) | (refine keeps_snd ?_ (by with_reducible assumption)) | (refine keeps_fst ?_ (by with_reducible assumption)) | fail_if_no_progress with_reducible apply Keeps.lit | with_reducible exact Nat.le_refl _ | exact Nat.le_succ _ | (fail_if_no_progress dsimp only))
theorem State.sbSendWhile_keeps {s0 s : State} (h : Keeps s0 s) (a1 : Thr) (a2 : SbEnt → Bool) (a3 : ℕ) : Keeps s0 (State.sbSendWhile s a1 a2 a3) := by
  induction a3 generalizing s with
  | zero => exact h
  | succ k ih =>
    unfold State.sbSendWhile
    repeat' (first | with_reducible assumption | with_reducible apply ih | with_reducible apply State.sbSendOne_keeps | split)
theorem State.sbFlush_keeps {s0 s : State} (h : Keeps s0 s) (a1 : Thr) (a2 : Option ℕ) : Keeps s0 (State.sbFlush s a1 a2) := by
  unfold State.sbFlush
  try dsimp only
  repeat' (first | with_reducible assumption | with_reducible apply State.modThr_keeps | with_reducible apply State.sbSendWhile_keeps)
theorem State.sbRelease_keeps {s0 s : State} (h : Keeps s0 s) (a1 : Thr) : Keeps s0 (State.sbRelease s a1) := by
  unfold State.sbRelease
  try dsimp only
  repeat' (first | with_reducible assumption | with_reducible apply State.sbFlush_keeps | split)
theorem execStoreBufferSend_keeps {s0 s : State} (h : Keeps s0 s) (a0 : Thr) : Out.Keeps (execStoreBufferSend a0 s) s0 := by
  unfold execStoreBufferSend
  refine Out.keeps_next ?_
  try dsimp only
  repeat' (first | with_reducible assumption | with_reducible apply State.goOn_keeps | with_reducible apply State.sbSendOne_keeps | split)
theorem execMergeEntryAge_keeps {s0 s : State} (h : Keeps s0 s) (a0 : Thr) : Out.Keeps (execMergeEntryAge a0 s) s0 := by
  unfold execMergeEntryAge
  refine Out.keeps_next ?_
  try dsimp only
  repeat' (first | with_reducible assumption | with_reducible apply State.goOn_keeps | with_reducible apply State.sbSendOne_keeps | split)

end Sys2Proof.Machine
end

