-- ==== Sys2Proof/Laws/Keeps/Engine.lean ====
section
/-! SUPPORT. Sys2Proof/Laws/Keeps/Engine.lean: what the operations of Machine/Engine.lean keep. -/

namespace Sys2Proof.Machine

theorem State.setRd_keeps {s0 s : State} (h : Keeps s0 s) (a1 : Thr) (a2 : ℕ) (a3 : Word) : Keeps s0 (State.setRd s a1 a2 a3) := by
  unfold State.setRd
  try dsimp only
  repeat' (first | with_reducible assumption | with_reducible apply State.modThr_keeps)
theorem State.engErr_keeps {s0 s : State} (h : Keeps s0 s) (a1 : Thr) (a2 : ℕ) (a3 : ℕ) (a4 : ℕ) : Keeps s0 (State.engErr s a1 a2 a3 a4) := by
  unfold State.engErr
  try dsimp only
  repeat' (first | with_reducible assumption | with_reducible apply State.capture_keeps | with_reducible apply State.raise_keeps | split)
theorem State.haltThr_keeps {s0 s : State} (h : Keeps s0 s) (a1 : Thr) (a2 : ℕ) (a3 : ℕ) : Keeps s0 (State.haltThr s a1 a2 a3) := by
  unfold State.haltThr
  try dsimp only
  repeat' (first | with_reducible assumption | with_reducible apply State.modThr_keeps | with_reducible apply State.raise_keeps | with_reducible apply State.captureV_keeps | with_reducible apply State.engErr_keeps | split)
theorem State.trapTo_keeps {s0 s : State} (h : Keeps s0 s) (a1 : Thr) (a2 : ℕ) (a3 : Word) (a4 : ℕ) : Keeps s0 (State.trapTo s a1 a2 a3 a4) := by
  unfold State.trapTo
  try dsimp only
  repeat' (first | with_reducible assumption | with_reducible apply State.haltThr_keeps | with_reducible apply State.modThr_keeps | with_reducible apply State.sbRelease_keeps | split)
theorem State.account_keeps {s0 s : State} (h : Keeps s0 s) (a1 : Thr) : Keeps s0 (State.account s a1) := by
  unfold State.account
  try dsimp only
  repeat' (first | with_reducible assumption | with_reducible apply State.modThr_keeps | with_reducible apply State.cntN_keeps | with_reducible apply OptKeeps.map | with_reducible apply OptKeeps.mapSnd | split)
theorem State.goto_keeps {s0 s : State} (h : Keeps s0 s) (a1 : Thr) (a2 : ℕ) (a3 : ℕ) : Keeps s0 (State.goto s a1 a2 a3) := by
  unfold State.goto
  try dsimp only
  repeat' (first | with_reducible assumption | with_reducible apply State.trapTo_keeps | with_reducible apply State.modThr_keeps | split)
/-- Every state that an instruction's result holds keeps what it should. -/
def Res.Keeps (r : Res) (s0 : State) : Prop :=
  match r with
  | .next s => Sys2Proof.Machine.Keeps s0 s
  | .jump s _ => Sys2Proof.Machine.Keeps s0 s
  | .fault s _ _ => Sys2Proof.Machine.Keeps s0 s
  | .stall s _ => Sys2Proof.Machine.Keeps s0 s
  | .left s => Sys2Proof.Machine.Keeps s0 s
  | .trap _ _ => True
  | .soft _ => True
theorem Res.keeps_next {s0 s : State} (h : Sys2Proof.Machine.Keeps s0 s) : (Res.next s).Keeps s0 := h
theorem Res.keeps_jump {s0 s : State} {v : Word} (h : Sys2Proof.Machine.Keeps s0 s) : (Res.jump s v).Keeps s0 := h
theorem Res.keeps_fault {s0 s : State} {c : Nat} {v : Word} (h : Sys2Proof.Machine.Keeps s0 s) : (Res.fault s c v).Keeps s0 := h
theorem Res.keeps_stall {s0 s : State} {p : Pend} (h : Sys2Proof.Machine.Keeps s0 s) : (Res.stall s p).Keeps s0 := h
theorem Res.keeps_left {s0 s : State} (h : Sys2Proof.Machine.Keeps s0 s) : (Res.left s).Keeps s0 := h
theorem Res.keeps_trap {s0 : State} {c : Nat} {v : Word} : (Res.trap c v).Keeps s0 := trivial
theorem Res.keeps_soft {s0 : State} {v : Word} : (Res.soft v).Keeps s0 := trivial
theorem State.finish_keeps {s0 s : State} (h : Keeps s0 s) (a1 : Thr) (a2 : Nat) (a3 : Res) (hr : a3.Keeps s0) :
    Keeps s0 (s.finish a1 a2 a3) := by
  unfold State.finish
  cases a3 <;> simp only [Res.Keeps] at hr <;> dsimp only <;>
  repeat' (first | with_reducible assumption | with_reducible apply State.goto_keeps | with_reducible apply State.account_keeps | with_reducible apply State.trapTo_keeps | with_reducible apply State.modThr_keeps | with_reducible apply State.cntN_keeps | split)
theorem State.fetchCe_keeps {s0 s : State} (h : Keeps s0 s) (a1 : Thr) (a2 : ℕ) (a3 : Ecc) : Keeps s0 (State.fetchCe s a1 a2 a3) := by
  unfold State.fetchCe
  try dsimp only
  repeat' (first | with_reducible assumption | with_reducible apply State.raise_keeps | with_reducible apply State.engErr_keeps | with_reducible apply State.setCore_keeps | split | (intro) | (refine keeps_snd ?_ (by with_reducible assumption)) | (refine keeps_fst ?_ (by with_reducible assumption)) | fail_if_no_progress with_reducible apply Keeps.lit | with_reducible exact Nat.le_refl _ | exact Nat.le_succ _ | (fail_if_no_progress dsimp only))
theorem State.fetchUce_keeps {s0 s : State} (h : Keeps s0 s) (a1 : Thr) (a2 : ℕ) : Keeps s0 (State.fetchUce s a1 a2) := by
  unfold State.fetchUce
  try dsimp only
  repeat' (first | with_reducible assumption | with_reducible apply State.raise_keeps | with_reducible apply State.trapTo_keeps | with_reducible apply State.account_keeps | with_reducible apply State.engErr_keeps | split | (intro) | fail_if_no_progress with_reducible apply Keeps.lit | with_reducible exact Nat.le_refl _ | exact Nat.le_succ _ | (fail_if_no_progress dsimp only))
theorem State.issue_keeps {s0 s : State} (h : Keeps s0 s) (t : Thr) (o : Op) (w : Reg32) (f : Thread → State → Res)
    (hf : ∀ x s, Keeps s0 s → (f x s).Keeps s0) : Keeps s0 (s.issue t o w f) := by
  unfold State.issue
  try dsimp only
  repeat' (first | with_reducible assumption | with_reducible apply hf | with_reducible apply State.goOn_keeps | with_reducible apply State.fetchUce_keeps | with_reducible apply State.finish_keeps | with_reducible apply State.fetchCe_keeps | with_reducible exact Res.keeps_trap | split)
theorem Res.keeps_checks {s0 : State} (w : Reg32) (i p : Bool) (al ad : Option Word) (st : Option Nat) (k : Res) (h : k.Keeps s0) :
    (checks w i p al ad st k).Keeps s0 := by
  unfold checks
  repeat' (first | with_reducible assumption | with_reducible exact Res.keeps_trap | with_reducible exact Res.keeps_soft | split)
theorem State.endHandler_keeps {s0 s : State} (h : Keeps s0 s) (a1 : Thr) : Keeps s0 (State.endHandler s a1) := by
  unfold State.endHandler
  try dsimp only
  repeat' (first | with_reducible assumption | with_reducible apply State.sbRelease_keeps | with_reducible apply State.modThr_keeps | with_reducible apply State.setCore_keeps)
theorem State.bind_keeps {s0 s : State} (h : Keeps s0 s) (a1 : Thr) (a2 : Evt) (a3 : Reg32) (a4 : Bool) : Keeps s0 (State.bind s a1 a2 a3 a4) := by
  unfold State.bind
  try dsimp only
  repeat' (first | with_reducible assumption | with_reducible apply State.modThr_keeps | with_reducible apply State.modTrk_keeps | with_reducible apply OptKeeps.getD | with_reducible apply OptKeeps.map | with_reducible apply OptKeeps.mapSnd | with_reducible apply foldl_keeps_id | with_reducible apply foldl_keeps_fst | with_reducible apply foldl_keeps_snd | split | (intro) | (refine keeps_snd ?_ (by with_reducible assumption)) | (refine keeps_fst ?_ (by with_reducible assumption)) | fail_if_no_progress with_reducible apply Keeps.lit | with_reducible exact Nat.le_refl _ | exact Nat.le_succ _ | (fail_if_no_progress dsimp only))
theorem State.dspErr_keeps {s0 s : State} (h : Keeps s0 s) (a1 : CoreId) (a2 : Evt) (a3 : ℕ) : Keeps s0 (State.dspErr s a1 a2 a3) := by
  unfold State.dspErr
  try dsimp only
  repeat' (first | with_reducible assumption | with_reducible apply State.raise_keeps | with_reducible apply State.captureV_keeps | with_reducible apply State.engErr_keeps | split)
theorem State.dispatch_keeps {s0 s : State} (h : Keeps s0 s) (a1 : Thr) (a2 : Evt) : Keeps s0 (State.dispatch s a1 a2) := by
  unfold State.dispatch
  try dsimp only
  repeat' (first | with_reducible assumption | with_reducible apply State.setCore_keeps | with_reducible apply State.dspErr_keeps | with_reducible apply State.trkCheck_keeps | with_reducible apply State.bind_keeps | split | (intro) | (refine keeps_snd (State.trkCheck_keeps ?_ _ _ _ ) (by with_reducible assumption)) | (refine keeps_snd ?_ (by with_reducible assumption)) | (refine keeps_fst ?_ (by with_reducible assumption)) | fail_if_no_progress with_reducible apply Keeps.lit | with_reducible exact Nat.le_refl _ | exact Nat.le_succ _ | (fail_if_no_progress dsimp only))
theorem State.dispatchIf_keeps {s0 s : State} (h : Keeps s0 s) (a1 : Thr) (a2 : Evt → Bool) : Keeps s0 (State.dispatchIf s a1 a2) := by
  unfold State.dispatchIf
  try dsimp only
  repeat' (first | with_reducible assumption | with_reducible apply State.cntN_keeps | with_reducible apply State.goOn_keeps | with_reducible apply State.dispatch_keeps | split)
theorem State.startWith_keeps {s0 s : State} (h : Keeps s0 s) (a1 : Thr) (a2 : Evt) : Keeps s0 (State.startWith s a1 a2) := by
  unfold State.startWith
  try dsimp only
  repeat' (first | with_reducible assumption | with_reducible apply State.dispatch_keeps | with_reducible apply State.setCore_keeps | with_reducible apply State.goOn_keeps | split | (intro) | (refine keeps_snd ?_ (by with_reducible assumption)) | (refine keeps_fst ?_ (by with_reducible assumption)) | fail_if_no_progress with_reducible apply Keeps.lit | with_reducible exact Nat.le_refl _ | exact Nat.le_succ _ | (fail_if_no_progress dsimp only))
theorem State.startThr_keeps {s0 s : State} (h : Keeps s0 s) (a1 : Thr) : Keeps s0 (State.startThr s a1) := by
  unfold State.startThr
  try dsimp only
  repeat' (first | with_reducible assumption | with_reducible apply State.startWith_keeps | split | (intro) | (refine keeps_snd ?_ (by with_reducible assumption)) | (refine keeps_fst ?_ (by with_reducible assumption)) | fail_if_no_progress with_reducible apply Keeps.lit | with_reducible exact Nat.le_refl _ | exact Nat.le_succ _ | (fail_if_no_progress dsimp only))
theorem execEngineStart_keeps {s0 s : State} (h : Keeps s0 s) (a0 : Thr) : Out.Keeps (execEngineStart a0 s) s0 := by
  unfold execEngineStart
  refine Out.keeps_next ?_
  try dsimp only
  repeat' (first | with_reducible assumption | with_reducible apply State.startThr_keeps)
theorem execSliceExpiry_keeps {s0 s : State} (h : Keeps s0 s) (a0 : Thr) : Out.Keeps (execSliceExpiry a0 s) s0 := by
  unfold execSliceExpiry
  refine Out.keeps_next ?_
  try dsimp only
  repeat' (first | with_reducible assumption | with_reducible apply State.modThr_keeps | with_reducible apply State.setCore_keeps | split)
theorem execRunaway_keeps {s0 s : State} (h : Keeps s0 s) (a0 : Thr) : Out.Keeps (execRunaway a0 s) s0 := by
  unfold execRunaway
  refine Out.keeps_next ?_
  try dsimp only
  repeat' (first | with_reducible assumption | with_reducible apply State.haltThr_keeps | split)

end Sys2Proof.Machine
end

