-- ==== Sys2Proof/Laws/Keeps/SageArrays.lean ====
section
/-! SUPPORT. Sys2Proof/Laws/Keeps/SageArrays.lean: what the operations of Machine/SageArrays.lean keep. -/

namespace Sys2Proof.Machine

theorem State.issueN_keeps {s0 s : State} (h : Keeps s0 s) (a1 : Thr) (a2 : Op) (a3 : Reg32) (a4 : NodeId → Thread → State → Res) (h4 : ∀ n x s, Keeps s0 s → (a4 n x s).Keeps s0) : Keeps s0 (State.issueN s a1 a2 a3 a4) := by
  unfold State.issueN
  try dsimp only
  repeat' (first | with_reducible assumption | with_reducible exact Res.keeps_trap | with_reducible exact Res.keeps_soft | with_reducible apply Res.keeps_checks | with_reducible apply Res.keeps_next | with_reducible apply Res.keeps_jump | with_reducible apply Res.keeps_fault | with_reducible apply Res.keeps_stall | with_reducible apply Res.keeps_left | with_reducible apply h4 | with_reducible apply State.issue_keeps | split | (intro))
theorem State.lbGet_keeps {s0 s : State} (h : Keeps s0 s) (a1 : NodeId) (a2 : ℕ) : Keeps s0 (State.lbGet s a1 a2).2 := by
  unfold State.lbGet
  try dsimp only
  repeat' (first | with_reducible assumption | with_reducible apply State.raise_keeps | with_reducible apply State.modNd_keeps | split)
theorem State.lbOne_keeps {s0 s : State} (h : Keeps s0 s) (a1 : Thr) (a2 : Op) (a3 : Reg32) (a4 : Bool) (a5 : Thread → Lbe → Word × Lbe) : Keeps s0 (State.lbOne s a1 a2 a3 a4 a5) := by
  unfold State.lbOne
  try dsimp only
  repeat' (first | with_reducible assumption | with_reducible exact Res.keeps_trap | with_reducible exact Res.keeps_soft | with_reducible apply Res.keeps_checks | with_reducible apply Res.keeps_next | with_reducible apply Res.keeps_jump | with_reducible apply Res.keeps_fault | with_reducible apply Res.keeps_stall | with_reducible apply Res.keeps_left | with_reducible apply State.issueN_keeps | with_reducible apply State.lbGet_keeps | with_reducible apply State.modNd_keeps | with_reducible apply State.setRd_keeps | split | (intro))
theorem execLbm_keeps {s0 s : State} (h : Keeps s0 s) (a0 : Thr) (a1 : BitVec 32) : Out.Keeps (execLbm a0 a1 s) s0 := by
  unfold execLbm
  refine Out.keeps_next ?_
  try dsimp only
  repeat' (first | with_reducible assumption | with_reducible exact Res.keeps_trap | with_reducible exact Res.keeps_soft | with_reducible apply Res.keeps_checks | with_reducible apply Res.keeps_next | with_reducible apply Res.keeps_jump | with_reducible apply Res.keeps_fault | with_reducible apply Res.keeps_stall | with_reducible apply Res.keeps_left | with_reducible apply State.issueN_keeps | with_reducible apply State.lbGet_keeps | with_reducible apply State.modNd_keeps | split | (intro))
theorem execLba_keeps {s0 s : State} (h : Keeps s0 s) (a0 : Thr) (a1 : BitVec 32) : Out.Keeps (execLba a0 a1 s) s0 := by
  unfold execLba
  refine Out.keeps_next ?_
  try dsimp only
  repeat' (first | with_reducible assumption | with_reducible exact Res.keeps_trap | with_reducible exact Res.keeps_soft | with_reducible apply Res.keeps_checks | with_reducible apply Res.keeps_next | with_reducible apply Res.keeps_jump | with_reducible apply Res.keeps_fault | with_reducible apply Res.keeps_stall | with_reducible apply Res.keeps_left | with_reducible apply State.issueN_keeps | with_reducible apply State.setRd_keeps | with_reducible apply State.modNd_keeps | with_reducible apply State.cntN_keeps | split | (intro))
theorem execLbf_keeps {s0 s : State} (h : Keeps s0 s) (a0 : Thr) (a1 : BitVec 32) : Out.Keeps (execLbf a0 a1 s) s0 := by
  unfold execLbf
  refine Out.keeps_next ?_
  try dsimp only
  repeat' (first | with_reducible assumption | with_reducible exact Res.keeps_trap | with_reducible exact Res.keeps_soft | with_reducible apply Res.keeps_checks | with_reducible apply Res.keeps_next | with_reducible apply Res.keeps_jump | with_reducible apply Res.keeps_fault | with_reducible apply Res.keeps_stall | with_reducible apply Res.keeps_left | with_reducible apply State.issueN_keeps | with_reducible apply State.modNd_keeps | with_reducible apply State.updTrk_keeps | split | (intro) | (refine keeps_snd ?_ (by with_reducible assumption)) | (refine keeps_fst ?_ (by with_reducible assumption)) | fail_if_no_progress with_reducible apply Keeps.lit | with_reducible exact Nat.le_refl _ | exact Nat.le_succ _ | (fail_if_no_progress dsimp only))
theorem execLbld_keeps {s0 s : State} (h : Keeps s0 s) (a0 : Thr) (a1 : BitVec 32) : Out.Keeps (execLbld a0 a1 s) s0 := by
  unfold execLbld
  refine Out.keeps_next ?_
  try dsimp only
  repeat' (first | with_reducible assumption | with_reducible apply State.lbOne_keeps)
theorem execLbst_keeps {s0 s : State} (h : Keeps s0 s) (a0 : Thr) (a1 : BitVec 32) : Out.Keeps (execLbst a0 a1 s) s0 := by
  unfold execLbst
  refine Out.keeps_next ?_
  try dsimp only
  repeat' (first | with_reducible assumption | with_reducible apply State.lbOne_keeps)
theorem execLbmask_keeps {s0 s : State} (h : Keeps s0 s) (a0 : Thr) (a1 : BitVec 32) : Out.Keeps (execLbmask a0 a1 s) s0 := by
  unfold execLbmask
  refine Out.keeps_next ?_
  try dsimp only
  repeat' (first | with_reducible assumption | with_reducible apply State.lbOne_keeps)
theorem execLbstat_keeps {s0 s : State} (h : Keeps s0 s) (a0 : Thr) (a1 : BitVec 32) : Out.Keeps (execLbstat a0 a1 s) s0 := by
  unfold execLbstat
  refine Out.keeps_next ?_
  try dsimp only
  repeat' (first | with_reducible assumption | with_reducible apply State.lbOne_keeps)
theorem State.setHandle_keeps {s0 s : State} (h : Keeps s0 s) (a1 : Thr) (a2 : ℕ × HLoc) : Keeps s0 (State.setHandle s a1 a2) := by
  unfold State.setHandle
  try dsimp only
  repeat' (first | with_reducible assumption | with_reducible apply State.modThr_keeps)
theorem State.bankFind_keeps {s0 s : State} (h : Keeps s0 s) (a1 : NodeId) (a2 : BankPos) : Keeps s0 (State.bankFind s a1 a2).2 := by
  unfold State.bankFind
  try dsimp only
  repeat' (first | with_reducible assumption | with_reducible apply State.wayRead_keeps | with_reducible apply State.modNd_keeps | with_reducible apply foldl_keeps_id | with_reducible apply foldl_keeps_fst | with_reducible apply foldl_keeps_snd | split | (intro) | (refine keeps_snd (State.wayRead_keeps ?_ _ _ _ ) (by with_reducible assumption)) | (refine keeps_snd ?_ (by with_reducible assumption)) | (refine keeps_fst ?_ (by with_reducible assumption)) | fail_if_no_progress with_reducible apply Keeps.lit | with_reducible exact Nat.le_refl _ | exact Nat.le_succ _ | (fail_if_no_progress dsimp only))
theorem State.sflHit_keeps {s0 s : State} (h : Keeps s0 s) (a1 : Thr) (a2 : ℕ) (a3 : ℕ) (a4 : HLoc) (a5 : Word) : Keeps s0 (State.sflHit s a1 a2 a3 a4 a5) := by
  unfold State.sflHit
  try dsimp only
  repeat' (first | with_reducible assumption | with_reducible apply State.setRd_keeps | with_reducible apply State.setHandle_keeps)
theorem State.sflMiss_keeps {s0 s : State} (h : Keeps s0 s) (a1 : NodeId) (a2 : Thr) (a3 : ℕ) (a4 : ℕ) : Keeps s0 (State.sflMiss s a1 a2 a3 a4) := by
  unfold State.sflMiss
  try dsimp only
  repeat' (first | with_reducible assumption | with_reducible apply State.cntN_keeps | with_reducible apply State.setRd_keeps | with_reducible apply State.setHandle_keeps)
theorem State.ovfFind_keeps {s0 s : State} (h : Keeps s0 s) (a1 : NodeId) (a2 : ℕ) (a3 : Line) (a4 : BmErr) : Keeps s0 (State.ovfFind s a1 a2 a3 a4).2 := by
  unfold State.ovfFind
  try dsimp only
  repeat' (first | with_reducible assumption | with_reducible apply State.ovfLost_keeps | with_reducible apply State.ovfCheck_keeps | split | (intro) | (refine keeps_snd2 (State.ovfCheck_keeps ?_ _ _ _ _ ) (by with_reducible assumption)) | (refine keeps_snd ?_ (by with_reducible assumption)) | (refine keeps_fst ?_ (by with_reducible assumption)) | fail_if_no_progress with_reducible apply Keeps.lit | with_reducible exact Nat.le_refl _ | exact Nat.le_succ _ | (fail_if_no_progress dsimp only))
theorem execSfl_keeps {s0 s : State} (h : Keeps s0 s) (a0 : Thr) (a1 : BitVec 32) : Out.Keeps (execSfl a0 a1 s) s0 := by
  unfold execSfl
  refine Out.keeps_next ?_
  try dsimp only
  repeat' (first | with_reducible assumption | with_reducible exact Res.keeps_trap | with_reducible exact Res.keeps_soft | with_reducible apply Res.keeps_checks | with_reducible apply Res.keeps_next | with_reducible apply Res.keeps_jump | with_reducible apply Res.keeps_fault | with_reducible apply Res.keeps_stall | with_reducible apply Res.keeps_left | with_reducible apply State.issueN_keeps | with_reducible apply State.setRd_keeps | with_reducible apply State.setHandle_keeps | with_reducible apply State.raise_keeps | with_reducible apply State.bankFind_keeps | with_reducible apply State.cntN_keeps | with_reducible apply State.sflHit_keeps | with_reducible apply State.rmapCheck_keeps | with_reducible apply State.sflMiss_keeps | with_reducible apply State.ovfLost_keeps | with_reducible apply State.bmErrs_keeps | with_reducible apply State.bmIssue_keeps | split | (intro) | (refine keeps_snd (State.bankFind_keeps ?_ _ _ ) (by with_reducible assumption)) | (refine OptKeeps2.elim (State.bmIssue_keeps ?_ _ _ _ _ _ ) (by with_reducible assumption)) | (refine keeps_snd ?_ (by with_reducible assumption)) | (refine keeps_fst ?_ (by with_reducible assumption)) | fail_if_no_progress with_reducible apply Keeps.lit | with_reducible exact Nat.le_refl _ | exact Nat.le_succ _ | (fail_if_no_progress dsimp only))
theorem State.sflOvfDone_keeps {s0 s : State} (h : Keeps s0 s) (a1 : Thr) (a2 : Line) (a3 : BmErr) : Keeps s0 (State.sflOvfDone s a1 a2 a3) := by
  unfold State.sflOvfDone
  try dsimp only
  repeat' (first | with_reducible assumption | with_reducible apply State.ovfFind_keeps | with_reducible apply State.modThr_keeps | with_reducible apply State.goto_keeps | with_reducible apply State.cntN_keeps | with_reducible apply State.sflHit_keeps | with_reducible apply State.sflMiss_keeps | split)
theorem execSfa_keeps {s0 s : State} (h : Keeps s0 s) (a0 : Thr) (a1 : BitVec 32) : Out.Keeps (execSfa a0 a1 s) s0 := by
  unfold execSfa
  refine Out.keeps_next ?_
  try dsimp only
  repeat' (first | with_reducible assumption | with_reducible exact Res.keeps_trap | with_reducible exact Res.keeps_soft | with_reducible apply Res.keeps_checks | with_reducible apply Res.keeps_next | with_reducible apply Res.keeps_jump | with_reducible apply Res.keeps_fault | with_reducible apply Res.keeps_stall | with_reducible apply Res.keeps_left | with_reducible apply State.issueN_keeps | with_reducible apply State.bankFind_keeps | with_reducible apply State.setRd_keeps | with_reducible apply State.setHandle_keeps | with_reducible apply State.wayFor_keeps | split | (intro))
theorem State.sfuOvf_keeps {s0 s : State} (h : Keeps s0 s) (a1 : NodeId) (a2 : ℕ) (a3 : Word) : Keeps s0 (State.sfuOvf s a1 a2 a3).2 := by
  unfold State.sfuOvf
  try dsimp only
  repeat' (first | with_reducible assumption | with_reducible apply State.repairStart_keeps | with_reducible apply State.entCe_keeps | split | (intro) | (refine keeps_snd ?_ (by with_reducible assumption)) | (refine keeps_fst ?_ (by with_reducible assumption)) | fail_if_no_progress with_reducible apply Keeps.lit | with_reducible exact Nat.le_refl _ | exact Nat.le_succ _ | (fail_if_no_progress dsimp only))
theorem State.sfuRead_keeps {s0 s : State} (h : Keeps s0 s) (a1 : NodeId) (a2 : HLoc × Option ℕ) : Keeps s0 (State.sfuRead s a1 a2).2 := by
  unfold State.sfuRead
  try dsimp only
  repeat' (first | with_reducible assumption | with_reducible apply State.wayRead_keeps | with_reducible apply State.sfuOvf_keeps | split | (intro) | (refine keeps_snd (State.wayRead_keeps ?_ _ _ _ ) (by with_reducible assumption)) | (refine keeps_snd (State.sfuOvf_keeps ?_ _ _ _ ) (by with_reducible assumption)) | (refine keeps_snd ?_ (by with_reducible assumption)) | (refine keeps_fst ?_ (by with_reducible assumption)) | fail_if_no_progress with_reducible apply Keeps.lit | with_reducible exact Nat.le_refl _ | exact Nat.le_succ _ | (fail_if_no_progress dsimp only))
theorem State.countLost_keeps {s0 s : State} (h : Keeps s0 s) (a1 : Trk) (a2 : Word) (a3 : Word) : Keeps s0 (State.countLost s a1 a2 a3) := by
  unfold State.countLost
  try dsimp only
  repeat' (first | with_reducible assumption | with_reducible apply State.setSes_keeps | split)
theorem execSfu_keeps {s0 s : State} (h : Keeps s0 s) (a0 : Thr) (a1 : BitVec 32) : Out.Keeps (execSfu a0 a1 s) s0 := by
  unfold execSfu
  refine Out.keeps_next ?_
  try dsimp only
  repeat' (first | with_reducible assumption | with_reducible exact Res.keeps_trap | with_reducible exact Res.keeps_soft | with_reducible apply Res.keeps_checks | with_reducible apply Res.keeps_next | with_reducible apply Res.keeps_jump | with_reducible apply Res.keeps_fault | with_reducible apply Res.keeps_stall | with_reducible apply Res.keeps_left | with_reducible apply State.issueN_keeps | with_reducible apply State.setRd_keeps | with_reducible apply State.sfuRead_keeps | with_reducible apply State.countLost_keeps | with_reducible apply State.modNd_keeps | with_reducible apply State.bmIssue_keeps | with_reducible apply State.ovfPut_keeps | with_reducible apply State.ovfCount_keeps | with_reducible apply State.bmKeep_keeps | split | (intro) | (refine keeps_snd (State.sfuRead_keeps ?_ _ _ ) (by with_reducible assumption)) | (refine OptKeeps2.elim (State.bmIssue_keeps ?_ _ _ _ _ _ ) (by with_reducible assumption)) | (refine keeps_snd ?_ (by with_reducible assumption)) | (refine keeps_fst ?_ (by with_reducible assumption)) | fail_if_no_progress with_reducible apply Keeps.lit | with_reducible exact Nat.le_refl _ | exact Nat.le_succ _ | (fail_if_no_progress dsimp only))
theorem State.wayWord_keeps {s0 s : State} (h : Keeps s0 s) (a1 : NodeId) (a2 : Thr) (a3 : ℕ) (a4 : ℕ) (a5 : Option Word → Word) : (State.wayWord s a1 a2 a3 a4 a5).Keeps s0 := by
  unfold State.wayWord
  try dsimp only
  repeat' (first | with_reducible assumption | with_reducible exact Res.keeps_trap | with_reducible exact Res.keeps_soft | with_reducible apply Res.keeps_checks | with_reducible apply Res.keeps_next | with_reducible apply Res.keeps_jump | with_reducible apply Res.keeps_fault | with_reducible apply Res.keeps_stall | with_reducible apply Res.keeps_left | with_reducible apply State.readWay_keeps | with_reducible apply State.setRd_keeps | with_reducible apply State.wayRead_keeps | split | (intro) | (refine keeps_snd2 (State.readWay_keeps ?_ _ _ ) (by with_reducible assumption)) | (refine keeps_snd (State.wayRead_keeps ?_ _ _ _ ) (by with_reducible assumption)) | (refine keeps_snd ?_ (by with_reducible assumption)) | (refine keeps_fst ?_ (by with_reducible assumption)) | fail_if_no_progress with_reducible apply Keeps.lit | with_reducible exact Nat.le_refl _ | exact Nat.le_succ _ | (fail_if_no_progress dsimp only))
theorem execSfrd_keeps {s0 s : State} (h : Keeps s0 s) (a0 : Thr) (a1 : BitVec 32) : Out.Keeps (execSfrd a0 a1 s) s0 := by
  unfold execSfrd
  refine Out.keeps_next ?_
  try dsimp only
  repeat' (first | with_reducible assumption | with_reducible exact Res.keeps_trap | with_reducible exact Res.keeps_soft | with_reducible apply Res.keeps_checks | with_reducible apply Res.keeps_next | with_reducible apply Res.keeps_jump | with_reducible apply Res.keeps_fault | with_reducible apply Res.keeps_stall | with_reducible apply Res.keeps_left | with_reducible apply State.issueN_keeps | with_reducible apply State.wayWord_keeps | split | (intro) | (refine keeps_snd ?_ (by with_reducible assumption)) | (refine keeps_fst ?_ (by with_reducible assumption)) | fail_if_no_progress with_reducible apply Keeps.lit | with_reducible exact Nat.le_refl _ | exact Nat.le_succ _ | (fail_if_no_progress dsimp only))
theorem execSfsec_keeps {s0 s : State} (h : Keeps s0 s) (a0 : Thr) (a1 : BitVec 32) : Out.Keeps (execSfsec a0 a1 s) s0 := by
  unfold execSfsec
  refine Out.keeps_next ?_
  try dsimp only
  repeat' (first | with_reducible assumption | with_reducible exact Res.keeps_trap | with_reducible exact Res.keeps_soft | with_reducible apply Res.keeps_checks | with_reducible apply Res.keeps_next | with_reducible apply Res.keeps_jump | with_reducible apply Res.keeps_fault | with_reducible apply Res.keeps_stall | with_reducible apply Res.keeps_left | with_reducible apply State.issueN_keeps | with_reducible apply State.wayWord_keeps | split | (intro) | (refine keeps_snd ?_ (by with_reducible assumption)) | (refine keeps_fst ?_ (by with_reducible assumption)) | fail_if_no_progress with_reducible apply Keeps.lit | with_reducible exact Nat.le_refl _ | exact Nat.le_succ _ | (fail_if_no_progress dsimp only))
theorem execTalloc_keeps {s0 s : State} (h : Keeps s0 s) (a0 : Thr) (a1 : BitVec 32) : Out.Keeps (execTalloc a0 a1 s) s0 := by
  unfold execTalloc
  refine Out.keeps_next ?_
  try dsimp only
  repeat' (first | with_reducible assumption | with_reducible exact Res.keeps_trap | with_reducible exact Res.keeps_soft | with_reducible apply Res.keeps_checks | with_reducible apply Res.keeps_next | with_reducible apply Res.keeps_jump | with_reducible apply Res.keeps_fault | with_reducible apply Res.keeps_stall | with_reducible apply Res.keeps_left | with_reducible apply State.issueN_keeps | with_reducible apply State.tallocGo_keeps | with_reducible apply State.setRd_keeps | split | (intro))
theorem execTfind_keeps {s0 s : State} (h : Keeps s0 s) (a0 : Thr) (a1 : BitVec 32) : Out.Keeps (execTfind a0 a1 s) s0 := by
  unfold execTfind
  refine Out.keeps_next ?_
  try dsimp only
  repeat' (first | with_reducible assumption | with_reducible exact Res.keeps_trap | with_reducible exact Res.keeps_soft | with_reducible apply Res.keeps_checks | with_reducible apply Res.keeps_next | with_reducible apply Res.keeps_jump | with_reducible apply Res.keeps_fault | with_reducible apply Res.keeps_stall | with_reducible apply Res.keeps_left | with_reducible apply State.issueN_keeps | with_reducible apply State.setRd_keeps | split | (intro))
theorem execTchain_keeps {s0 s : State} (h : Keeps s0 s) (a0 : Thr) (a1 : BitVec 32) : Out.Keeps (execTchain a0 a1 s) s0 := by
  unfold execTchain
  refine Out.keeps_next ?_
  try dsimp only
  repeat' (first | with_reducible assumption | with_reducible exact Res.keeps_trap | with_reducible exact Res.keeps_soft | with_reducible apply Res.keeps_checks | with_reducible apply Res.keeps_next | with_reducible apply Res.keeps_jump | with_reducible apply Res.keeps_fault | with_reducible apply Res.keeps_stall | with_reducible apply Res.keeps_left | with_reducible apply State.issueN_keeps | with_reducible apply State.cntN_keeps | with_reducible apply State.modNd_keeps | with_reducible apply State.updTrk_keeps | with_reducible apply State.setRd_keeps | with_reducible apply OptKeeps.map | with_reducible apply OptKeeps.mapSnd | with_reducible apply foldl_keeps_id | with_reducible apply foldl_keeps_fst | with_reducible apply foldl_keeps_snd | split | (intro) | (refine keeps_snd ?_ (by with_reducible assumption)) | (refine keeps_fst ?_ (by with_reducible assumption)) | fail_if_no_progress with_reducible apply Keeps.lit | with_reducible exact Nat.le_refl _ | exact Nat.le_succ _ | (fail_if_no_progress dsimp only))
theorem execTfree_keeps {s0 s : State} (h : Keeps s0 s) (a0 : Thr) (a1 : BitVec 32) : Out.Keeps (execTfree a0 a1 s) s0 := by
  unfold execTfree
  refine Out.keeps_next ?_
  try dsimp only
  repeat' (first | with_reducible assumption | with_reducible exact Res.keeps_trap | with_reducible exact Res.keeps_soft | with_reducible apply Res.keeps_checks | with_reducible apply Res.keeps_next | with_reducible apply Res.keeps_jump | with_reducible apply Res.keeps_fault | with_reducible apply Res.keeps_stall | with_reducible apply Res.keeps_left | with_reducible apply State.issueN_keeps | with_reducible apply State.modThr_keeps | with_reducible apply State.freeTrk_keeps | split | (intro))
theorem State.trkRead_keeps {s0 s : State} (h : Keeps s0 s) (a1 : NodeId) (a2 : ℕ) (a3 : ℕ) : Keeps s0 (State.trkRead s a1 a2 a3).2 := by
  unfold State.trkRead
  try dsimp only
  repeat' (first | with_reducible assumption | with_reducible apply State.trkCheck_keeps | split | (intro) | (refine keeps_snd (State.trkCheck_keeps ?_ _ _ _ ) (by with_reducible assumption)) | fail_if_no_progress with_reducible apply Keeps.lit | with_reducible exact Nat.le_refl _ | exact Nat.le_succ _)
theorem execTrd_keeps {s0 s : State} (h : Keeps s0 s) (a0 : Thr) (a1 : BitVec 32) : Out.Keeps (execTrd a0 a1 s) s0 := by
  unfold execTrd
  refine Out.keeps_next ?_
  try dsimp only
  repeat' (first | with_reducible assumption | with_reducible exact Res.keeps_trap | with_reducible exact Res.keeps_soft | with_reducible apply Res.keeps_checks | with_reducible apply Res.keeps_next | with_reducible apply Res.keeps_jump | with_reducible apply Res.keeps_fault | with_reducible apply Res.keeps_stall | with_reducible apply Res.keeps_left | with_reducible apply State.issueN_keeps | with_reducible apply State.trkRead_keeps | with_reducible apply State.setRd_keeps | split | (intro))
theorem execTwr_keeps {s0 s : State} (h : Keeps s0 s) (a0 : Thr) (a1 : BitVec 32) : Out.Keeps (execTwr a0 a1 s) s0 := by
  unfold execTwr
  refine Out.keeps_next ?_
  try dsimp only
  repeat' (first | with_reducible assumption | with_reducible exact Res.keeps_trap | with_reducible exact Res.keeps_soft | with_reducible apply Res.keeps_checks | with_reducible apply Res.keeps_next | with_reducible apply Res.keeps_jump | with_reducible apply Res.keeps_fault | with_reducible apply Res.keeps_stall | with_reducible apply Res.keeps_left | with_reducible apply State.issueN_keeps | with_reducible apply State.trkCheck_keeps | with_reducible apply State.modTrk_keeps | split | (intro))
theorem execTrdx_keeps {s0 s : State} (h : Keeps s0 s) (a0 : Thr) (a1 : BitVec 32) : Out.Keeps (execTrdx a0 a1 s) s0 := by
  unfold execTrdx
  refine Out.keeps_next ?_
  try dsimp only
  repeat' (first | with_reducible assumption | with_reducible exact Res.keeps_trap | with_reducible exact Res.keeps_soft | with_reducible apply Res.keeps_checks | with_reducible apply Res.keeps_next | with_reducible apply Res.keeps_jump | with_reducible apply Res.keeps_fault | with_reducible apply Res.keeps_stall | with_reducible apply Res.keeps_left | with_reducible apply State.issueN_keeps | with_reducible apply State.trkRead_keeps | with_reducible apply State.setRd_keeps | split | (intro))
theorem State.plkOk_keeps {s0 s : State} (h : Keeps s0 s) (a1 : NodeId) (a2 : Thr) (a3 : ℕ) (a4 : BitVec 40) (a5 : Word) (a6 : Bool) : Keeps s0 (State.plkOk s a1 a2 a3 a4 a5 a6) := by
  unfold State.plkOk
  try dsimp only
  repeat' (first | with_reducible assumption | with_reducible apply State.updTrk_keeps | with_reducible apply State.setRd_keeps | split | (intro) | (refine keeps_snd ?_ (by with_reducible assumption)) | (refine keeps_fst ?_ (by with_reducible assumption)) | fail_if_no_progress with_reducible apply Keeps.lit | with_reducible exact Nat.le_refl _ | exact Nat.le_succ _ | (fail_if_no_progress dsimp only))
theorem State.plkBad_keeps {s0 s : State} (h : Keeps s0 s) (a1 : Thr) (a2 : ℕ) (a3 : ℕ) : Keeps s0 (State.plkBad s a1 a2 a3) := by
  unfold State.plkBad
  try dsimp only
  repeat' (first | with_reducible assumption | with_reducible apply State.setRd_keeps | with_reducible apply State.raise_keeps)
theorem State.plkEnt_keeps {s0 s : State} (h : Keeps s0 s) (a1 : NodeId) (a2 : Thr) (a3 : ℕ) (a4 : BitVec 40) (a5 : Word) (a6 : Bool) : (State.plkEnt s a1 a2 a3 a4 a5 a6).Keeps s0 := by
  unfold State.plkEnt
  try dsimp only
  repeat' (first | with_reducible assumption | with_reducible exact Res.keeps_trap | with_reducible exact Res.keeps_soft | with_reducible apply Res.keeps_checks | with_reducible apply Res.keeps_next | with_reducible apply Res.keeps_jump | with_reducible apply Res.keeps_fault | with_reducible apply Res.keeps_stall | with_reducible apply Res.keeps_left | with_reducible apply State.plkBad_keeps | with_reducible apply State.bmErrs_keeps | with_reducible apply State.bmIssue_keeps | with_reducible apply State.bmFresh_keeps | with_reducible apply State.plkOk_keeps | with_reducible apply State.plcFill_keeps | split | (intro) | (refine OptKeeps2.elim (State.bmIssue_keeps ?_ _ _ _ _ _ ) (by with_reducible assumption)) | (refine keeps_snd ?_ (by with_reducible assumption)) | (refine keeps_fst ?_ (by with_reducible assumption)) | fail_if_no_progress with_reducible apply Keeps.lit | with_reducible exact Nat.le_refl _ | exact Nat.le_succ _ | (fail_if_no_progress dsimp only))
theorem State.plkRead_keeps {s0 s : State} (h : Keeps s0 s) (a1 : Thr) (a2 : ℕ) (a3 : BitVec 40) : (State.plkRead s a1 a2 a3).Keeps s0 := by
  unfold State.plkRead
  try dsimp only
  repeat' (first | with_reducible assumption | with_reducible exact Res.keeps_trap | with_reducible exact Res.keeps_soft | with_reducible apply Res.keeps_checks | with_reducible apply Res.keeps_next | with_reducible apply Res.keeps_jump | with_reducible apply Res.keeps_fault | with_reducible apply Res.keeps_stall | with_reducible apply Res.keeps_left | with_reducible apply State.plkBad_keeps | with_reducible apply State.bmErrs_keeps | with_reducible apply State.bmIssue_keeps | split | (intro) | (refine OptKeeps2.elim (State.bmIssue_keeps ?_ _ _ _ _ _ ) (by with_reducible assumption)) | (refine keeps_snd ?_ (by with_reducible assumption)) | (refine keeps_fst ?_ (by with_reducible assumption)) | fail_if_no_progress with_reducible apply Keeps.lit | with_reducible exact Nat.le_refl _ | exact Nat.le_succ _ | (fail_if_no_progress dsimp only))
theorem execPlk_keeps {s0 s : State} (h : Keeps s0 s) (a0 : Thr) (a1 : BitVec 32) : Out.Keeps (execPlk a0 a1 s) s0 := by
  unfold execPlk
  refine Out.keeps_next ?_
  try dsimp only
  repeat' (first | with_reducible assumption | with_reducible exact Res.keeps_trap | with_reducible exact Res.keeps_soft | with_reducible apply Res.keeps_checks | with_reducible apply Res.keeps_next | with_reducible apply Res.keeps_jump | with_reducible apply Res.keeps_fault | with_reducible apply Res.keeps_stall | with_reducible apply Res.keeps_left | with_reducible apply State.issueN_keeps | with_reducible apply State.plcHit_keeps | with_reducible apply State.plkEnt_keeps | with_reducible apply State.plkRead_keeps | with_reducible apply State.cntN_keeps | split | (intro) | (refine keeps_snd (State.plcHit_keeps ?_ _ _ ) (by with_reducible assumption)) | (refine keeps_snd ?_ (by with_reducible assumption)) | (refine keeps_fst ?_ (by with_reducible assumption)) | fail_if_no_progress with_reducible apply Keeps.lit | with_reducible exact Nat.le_refl _ | exact Nat.le_succ _ | (fail_if_no_progress dsimp only))
theorem State.plkDone_keeps {s0 s : State} (h : Keeps s0 s) (a1 : Thr) (a2 : Bool) (a3 : Bool) (a4 : Line) (a5 : BmErr) : Keeps s0 (State.plkDone s a1 a2 a3 a4 a5) := by
  have fin : ∀ r : Res, r.Keeps s0 → Keeps s0 (match r with
    | .next u => u.goto a1 (s.thr a1).pc ((s.thr a1).pc + 1)
    | .stall u p => u.modThr a1 fun x => { x with pend := p }
    | _ => s) := by
    intro r hr
    cases r with
    | next s => exact State.goto_keeps hr _ _ _
    | stall s p => exact State.modThr_keeps hr _ _
    | _ => exact h
  unfold State.plkDone
  split
  · dsimp only
    split
    · exact State.goto_keeps (State.plkBad_keeps h _ _ _) _ _ _
    · split
      · exact fin _ (State.plkRead_keeps h _ _ _)
      · split
        · refine State.goto_keeps (State.plkOk_keeps ?_ _ _ _ _ _ _) _ _ _
          split
          · exact State.plcFill_keeps h _ _ _ _
          · exact h
        · exact fin _ (State.plkEnt_keeps h _ _ _ _ _ _)
  · exact h

end Sys2Proof.Machine
end

