-- ==== Sys2Proof/Laws/Keeps/SageSend.lean ====
section
/-! SUPPORT. Sys2Proof/Laws/Keeps/SageSend.lean: what the operations of Machine/SageSend.lean keep. -/

namespace Sys2Proof.Machine

theorem execSendSnp_keeps {s0 s : State} (h : Keeps s0 s) (a0 : Thr) (a1 : BitVec 32) : Out.Keeps (execSendSnp a0 a1 s) s0 := by
  unfold execSendSnp
  refine Out.keeps_next ?_
  try dsimp only
  repeat' (first | with_reducible assumption | with_reducible exact Res.keeps_trap | with_reducible exact Res.keeps_soft | with_reducible apply Res.keeps_checks | with_reducible apply Res.keeps_next | with_reducible apply Res.keeps_jump | with_reducible apply Res.keeps_fault | with_reducible apply Res.keeps_stall | with_reducible apply Res.keeps_left | with_reducible apply State.issueN_keeps | with_reducible apply State.updTrk_keeps | with_reducible apply State.cntN_keeps | with_reducible apply State.setRd_keeps | with_reducible apply State.sendSnoops_keeps | split | (intro) | (refine keeps_snd ?_ (by with_reducible assumption)) | (refine keeps_fst ?_ (by with_reducible assumption)) | fail_if_no_progress with_reducible apply Keeps.lit | with_reducible exact Nat.le_refl _ | exact Nat.le_succ _ | (fail_if_no_progress dsimp only))
theorem State.mrdGo_keeps {s0 s : State} (h : Keeps s0 s) (a1 : NodeId) (a2 : ℕ) (a3 : Bool) (a4 : BitVec 46) (a5 : List ℕ) : OptKeeps2 s0 (State.mrdGo s a1 a2 a3 a4 a5) := by
  unfold State.mrdGo
  dsimp only
  split
  · exact State.mpIssue_keeps h _ _
  split
  · exact State.mpIssue_keeps h _ _
  · refine foldl_optKeeps2 _ _ _ (.some h) fun b a hb => ?_
    split
    · exact .none
    · next g s1 =>
      have k := State.mpIssue_keeps (s := s1) hb.get
      split
      · exact .none
      · next e => exact .some (OptKeeps2.elim (k _ _) e)
theorem execSendMrd_keeps {s0 s : State} (h : Keeps s0 s) (a0 : Thr) (a1 : BitVec 32) : Out.Keeps (execSendMrd a0 a1 s) s0 := by
  unfold execSendMrd
  refine Out.keeps_next ?_
  try dsimp only
  repeat' (first | with_reducible assumption | with_reducible exact Res.keeps_trap | with_reducible exact Res.keeps_soft | with_reducible apply Res.keeps_checks | with_reducible apply Res.keeps_next | with_reducible apply Res.keeps_jump | with_reducible apply Res.keeps_fault | with_reducible apply Res.keeps_stall | with_reducible apply Res.keeps_left | with_reducible apply State.issueN_keeps | with_reducible apply State.mrdGo_keeps | with_reducible apply State.cntN_keeps | with_reducible apply State.updTrk_keeps | split | (intro) | (refine OptKeeps2.elim (State.mrdGo_keeps ?_ _ _ _ _ _ ) (by with_reducible assumption)) | (refine keeps_snd ?_ (by with_reducible assumption)) | (refine keeps_fst ?_ (by with_reducible assumption)) | fail_if_no_progress with_reducible apply Keeps.lit | with_reducible exact Nat.le_refl _ | exact Nat.le_succ _ | (fail_if_no_progress dsimp only))
theorem State.mpAlloc_keeps {s0 s : State} (h : Keeps s0 s) (a1 : MpId) (a2 : Mtag) : OptKeeps2 s0 (State.mpAlloc s a1 a2) := by
  unfold State.mpAlloc
  try dsimp only
  repeat' (first | with_reducible assumption | with_reducible exact OptKeeps2.none | with_reducible apply OptKeeps2.some | with_reducible apply State.setMp_keeps | with_reducible apply foldl_optKeeps2 | split)
theorem State.mwrTags_keeps {s0 s : State} (h : Keeps s0 s) (a1 : MpId) (a2 : Mtag) : OptKeeps2 s0 (State.mwrTags s a1 a2) := by
  unfold State.mwrTags
  try dsimp only
  repeat' (first | with_reducible assumption | with_reducible apply State.mpAlloc_keeps | with_reducible exact OptKeeps2.none | with_reducible apply OptKeeps2.some | with_reducible apply State.mirrorRead_keeps | with_reducible apply State.mpAlloc_keeps | with_reducible apply State.setMp_keeps | with_reducible apply foldl_optKeeps2 | split | (intro) | (refine OptKeeps2.elim (State.mpAlloc_keeps ?_ _ _ ) (by with_reducible assumption)) | (refine keeps_snd ?_ (by with_reducible assumption)) | (refine keeps_fst ?_ (by with_reducible assumption)) | fail_if_no_progress with_reducible apply Keeps.lit | with_reducible exact Nat.le_refl _ | exact Nat.le_succ _ | (fail_if_no_progress dsimp only))
theorem execSendMwr_keeps {s0 s : State} (h : Keeps s0 s) (a0 : Thr) (a1 : BitVec 32) : Out.Keeps (execSendMwr a0 a1 s) s0 := by
  unfold execSendMwr
  refine Out.keeps_next ?_
  try dsimp only
  repeat' (first | with_reducible assumption | with_reducible exact Res.keeps_trap | with_reducible exact Res.keeps_soft | with_reducible apply Res.keeps_checks | with_reducible apply Res.keeps_next | with_reducible apply Res.keeps_jump | with_reducible apply Res.keeps_fault | with_reducible apply Res.keeps_stall | with_reducible apply Res.keeps_left | with_reducible apply State.issueN_keeps | with_reducible apply State.lbGet_keeps | with_reducible apply State.mwrTags_keeps | with_reducible apply State.updTrk_keeps | with_reducible apply State.modTrk_keeps | with_reducible apply State.cntN_keeps | with_reducible apply State.modThr_keeps | split | (intro) | (refine keeps_snd (State.lbGet_keeps ?_ _ _ ) (by with_reducible assumption)) | (refine OptKeeps2.elim (State.mwrTags_keeps ?_ _ _ ) (by with_reducible assumption)) | (refine keeps_snd ?_ (by with_reducible assumption)) | (refine keeps_fst ?_ (by with_reducible assumption)) | fail_if_no_progress with_reducible apply Keeps.lit | with_reducible exact Nat.le_refl _ | exact Nat.le_succ _ | (fail_if_no_progress dsimp only))
theorem execSendRsp_keeps {s0 s : State} (h : Keeps s0 s) (a0 : Thr) (a1 : BitVec 32) : Out.Keeps (execSendRsp a0 a1 s) s0 := by
  unfold execSendRsp
  refine Out.keeps_next ?_
  try dsimp only
  repeat' (first | with_reducible assumption | with_reducible exact Res.keeps_trap | with_reducible exact Res.keeps_soft | with_reducible apply Res.keeps_checks | with_reducible apply Res.keeps_next | with_reducible apply Res.keeps_jump | with_reducible apply Res.keeps_fault | with_reducible apply Res.keeps_stall | with_reducible apply Res.keeps_left | with_reducible apply State.issueN_keeps | with_reducible apply State.modTrk_keeps | with_reducible apply State.lbGet_keeps | with_reducible apply State.answerDrs_keeps | with_reducible apply State.setMp_keeps | with_reducible apply State.answerNdr_keeps | split | (intro))
theorem execSendMgt_keeps {s0 s : State} (h : Keeps s0 s) (a0 : Thr) (a1 : BitVec 32) : Out.Keeps (execSendMgt a0 a1 s) s0 := by
  unfold execSendMgt
  refine Out.keeps_next ?_
  try dsimp only
  repeat' (first | with_reducible assumption | with_reducible exact Res.keeps_trap | with_reducible exact Res.keeps_soft | with_reducible apply Res.keeps_checks | with_reducible apply Res.keeps_next | with_reducible apply Res.keeps_jump | with_reducible apply Res.keeps_fault | with_reducible apply Res.keeps_stall | with_reducible apply Res.keeps_left | with_reducible apply State.issue_keeps | with_reducible apply State.modThr_keeps | with_reducible apply OptKeeps.getD | split | (intro))
theorem execWait_keeps {s0 s : State} (h : Keeps s0 s) (a0 : Thr) (a1 : BitVec 32) : Out.Keeps (execWait a0 a1 s) s0 := by
  unfold execWait
  refine Out.keeps_next ?_
  try dsimp only
  repeat' (first | with_reducible assumption | with_reducible exact Res.keeps_trap | with_reducible exact Res.keeps_soft | with_reducible apply Res.keeps_checks | with_reducible apply Res.keeps_next | with_reducible apply Res.keeps_jump | with_reducible apply Res.keeps_fault | with_reducible apply Res.keeps_stall | with_reducible apply Res.keeps_left | with_reducible apply State.issueN_keeps | with_reducible apply State.updTrk_keeps | with_reducible apply State.modTrk_keeps | with_reducible apply State.wake_keeps | with_reducible apply State.endHandler_keeps | split | (intro) | (refine keeps_snd ?_ (by with_reducible assumption)) | (refine keeps_fst ?_ (by with_reducible assumption)) | fail_if_no_progress with_reducible apply Keeps.lit | with_reducible exact Nat.le_refl _ | exact Nat.le_succ _ | (fail_if_no_progress dsimp only))
theorem execEndH_keeps {s0 s : State} (h : Keeps s0 s) (a0 : Thr) (a1 : BitVec 32) : Out.Keeps (execEndH a0 a1 s) s0 := by
  unfold execEndH
  refine Out.keeps_next ?_
  try dsimp only
  repeat' (first | with_reducible assumption | with_reducible exact Res.keeps_trap | with_reducible exact Res.keeps_soft | with_reducible apply Res.keeps_checks | with_reducible apply Res.keeps_next | with_reducible apply Res.keeps_jump | with_reducible apply Res.keeps_fault | with_reducible apply Res.keeps_stall | with_reducible apply Res.keeps_left | with_reducible apply State.issue_keeps | with_reducible apply State.endHandler_keeps | split | (intro))

end Sys2Proof.Machine
end

