-- ==== Sys2Proof/Laws/Keeps/SageMem.lean ====
section
/-! SUPPORT. Sys2Proof/Laws/Keeps/SageMem.lean: what the operations of Machine/SageMem.lean keep. -/

namespace Sys2Proof.Machine

theorem State.scrErrs_keeps {s0 s : State} (h : Keeps s0 s) (a1 : Thr) (a2 : ℕ) (a3 : Bool) (a4 : Bool) : Keeps s0 (State.scrErrs s a1 a2 a3 a4) := by
  unfold State.scrErrs
  try dsimp only
  repeat' (first | with_reducible assumption | with_reducible apply State.engErr_keeps | split)
theorem State.ramRead_keeps {s0 s : State} (h : Keeps s0 s) (a1 : Thr) (a2 : CoreId) (a3 : ℕ) (a4 : ℕ) : Keeps s0 (State.ramRead s a1 a2 a3 a4).2 := by
  unfold State.ramRead
  try dsimp only
  repeat' (first | with_reducible assumption | with_reducible apply State.scrErrs_keeps | with_reducible apply State.setCore_keeps)
theorem State.ramAmo_keeps {s0 s : State} (h : Keeps s0 s) (a1 : Thr) (a2 : CoreId) (a3 : ℕ) (a4 : ℕ) (a5 : Word) (a6 : Word) : Keeps s0 (State.ramAmo s a1 a2 a3 a4 a5 a6).2 := by
  unfold State.ramAmo
  try dsimp only
  repeat' (first | with_reducible assumption | with_reducible apply State.ramRead_keeps | with_reducible apply State.setCore_keeps | split)
theorem State.pendOk_keeps {s0 s : State} (h : Keeps s0 s) (a1 : Thr) (a2 : ℕ) (a3 : Word) : Keeps s0 (State.pendOk s a1 a2 a3) := by
  unfold State.pendOk
  try dsimp only
  repeat' (first | with_reducible assumption | with_reducible apply State.goto_keeps | with_reducible apply State.setRd_keeps)
theorem State.pendTrap_keeps {s0 s : State} (h : Keeps s0 s) (a1 : Thr) (a2 : ℕ) (a3 : ℕ) : Keeps s0 (State.pendTrap s a1 a2 a3) := by
  unfold State.pendTrap
  try dsimp only
  repeat' (first | with_reducible assumption | with_reducible apply State.trapTo_keeps)
theorem State.loadNow_keeps {s0 s : State} (h : Keeps s0 s) (a1 : Thr) (a2 : ℕ) (a3 : ℕ) (a4 : ℕ) (a5 : Reg) : (State.loadNow s a1 a2 a3 a4 a5).Keeps s0 := by
  unfold State.loadNow
  try dsimp only
  repeat' (first | with_reducible assumption | with_reducible exact Res.keeps_trap | with_reducible exact Res.keeps_soft | with_reducible apply Res.keeps_checks | with_reducible apply Res.keeps_next | with_reducible apply Res.keeps_jump | with_reducible apply Res.keeps_fault | with_reducible apply Res.keeps_stall | with_reducible apply Res.keeps_left | with_reducible apply State.bmIssue_keeps | with_reducible apply State.ramRead_keeps | with_reducible apply State.setRd_keeps | split | (intro) | (refine OptKeeps2.elim (State.bmIssue_keeps ?_ _ _ _ _ _ ) (by with_reducible assumption)))
theorem State.waitStores_keeps {s0 s : State} (h : Keeps s0 s) (a1 : Thr) (a2 : SbEnt) (a3 : Pend) : (State.waitStores s a1 a2 a3).Keeps s0 := by
  unfold State.waitStores
  try dsimp only
  repeat' (first | with_reducible assumption | with_reducible exact Res.keeps_trap | with_reducible exact Res.keeps_soft | with_reducible apply Res.keeps_checks | with_reducible apply Res.keeps_next | with_reducible apply Res.keeps_jump | with_reducible apply Res.keeps_fault | with_reducible apply Res.keeps_stall | with_reducible apply Res.keeps_left | with_reducible apply State.sbFlush_keeps | split)
theorem State.loadGo_keeps {s0 s : State} (h : Keeps s0 s) (a1 : Thr) (a2 : Thread) (a3 : ℕ) (a4 : ℕ) (a5 : ℕ) (a6 : Reg) : (State.loadGo s a1 a2 a3 a4 a5 a6).Keeps s0 := by
  unfold State.loadGo
  try dsimp only
  repeat' (first | with_reducible assumption | with_reducible exact Res.keeps_trap | with_reducible exact Res.keeps_soft | with_reducible apply Res.keeps_checks | with_reducible apply Res.keeps_next | with_reducible apply Res.keeps_jump | with_reducible apply Res.keeps_fault | with_reducible apply Res.keeps_stall | with_reducible apply Res.keeps_left | with_reducible apply State.sbParity_keeps | with_reducible apply State.setRd_keeps | with_reducible apply State.waitStores_keeps | with_reducible apply State.loadNow_keeps | split | (intro) | (refine keeps_snd ?_ (by with_reducible assumption)) | (refine keeps_fst ?_ (by with_reducible assumption)) | fail_if_no_progress with_reducible apply Keeps.lit | with_reducible exact Nat.le_refl _ | exact Nat.le_succ _ | (fail_if_no_progress dsimp only))
theorem State.amoGo_keeps {s0 s : State} (h : Keeps s0 s) (a1 : Thr) (a2 : Thread) (a3 : ℕ) (a4 : ℕ) (a5 : Word) (a6 : Word) (a7 : ℕ) (a8 : Reg) : (State.amoGo s a1 a2 a3 a4 a5 a6 a7 a8).Keeps s0 := by
  unfold State.amoGo
  try dsimp only
  repeat' (first | with_reducible assumption | with_reducible exact Res.keeps_trap | with_reducible exact Res.keeps_soft | with_reducible apply Res.keeps_checks | with_reducible apply Res.keeps_next | with_reducible apply Res.keeps_jump | with_reducible apply Res.keeps_fault | with_reducible apply Res.keeps_stall | with_reducible apply Res.keeps_left | with_reducible apply State.waitStores_keeps | with_reducible apply State.bmIssue_keeps | with_reducible apply State.ramAmo_keeps | with_reducible apply State.setRd_keeps | split | (intro) | (refine OptKeeps2.elim (State.bmIssue_keeps ?_ _ _ _ _ _ ) (by with_reducible assumption)))
theorem State.loadOp_keeps {s0 s : State} (h : Keeps s0 s) (a1 : Thr) (a2 : Op) (a3 : Reg32) (a4 : ℕ) : Keeps s0 (State.loadOp s a1 a2 a3 a4) := by
  unfold State.loadOp
  try dsimp only
  repeat' (first | with_reducible assumption | with_reducible exact Res.keeps_trap | with_reducible exact Res.keeps_soft | with_reducible apply Res.keeps_checks | with_reducible apply Res.keeps_next | with_reducible apply Res.keeps_jump | with_reducible apply Res.keeps_fault | with_reducible apply Res.keeps_stall | with_reducible apply Res.keeps_left | with_reducible apply State.issue_keeps | with_reducible apply State.loadGo_keeps | split | (intro))
theorem State.storeOp_keeps {s0 s : State} (h : Keeps s0 s) (a1 : Thr) (a2 : Op) (a3 : Reg32) (a4 : ℕ) : Keeps s0 (State.storeOp s a1 a2 a3 a4) := by
  unfold State.storeOp
  try dsimp only
  repeat' (first | with_reducible assumption | with_reducible exact Res.keeps_trap | with_reducible exact Res.keeps_soft | with_reducible apply Res.keeps_checks | with_reducible apply Res.keeps_next | with_reducible apply Res.keeps_jump | with_reducible apply Res.keeps_fault | with_reducible apply Res.keeps_stall | with_reducible apply Res.keeps_left | with_reducible apply State.issue_keeps | with_reducible apply State.modThr_keeps | split | (intro))
theorem State.amoOp_keeps {s0 s : State} (h : Keeps s0 s) (a1 : Thr) (a2 : Op) (a3 : Reg32) : Keeps s0 (State.amoOp s a1 a2 a3) := by
  unfold State.amoOp
  try dsimp only
  repeat' (first | with_reducible assumption | with_reducible exact Res.keeps_trap | with_reducible exact Res.keeps_soft | with_reducible apply Res.keeps_checks | with_reducible apply Res.keeps_next | with_reducible apply Res.keeps_jump | with_reducible apply Res.keeps_fault | with_reducible apply Res.keeps_stall | with_reducible apply Res.keeps_left | with_reducible apply State.issue_keeps | with_reducible apply State.amoGo_keeps | split | (intro))
theorem execLd8_keeps {s0 s : State} (h : Keeps s0 s) (a0 : Thr) (a1 : BitVec 32) : Out.Keeps (execLd8 a0 a1 s) s0 := by
  unfold execLd8
  refine Out.keeps_next ?_
  try dsimp only
  repeat' (first | with_reducible assumption | with_reducible apply State.loadOp_keeps)
theorem execLd16_keeps {s0 s : State} (h : Keeps s0 s) (a0 : Thr) (a1 : BitVec 32) : Out.Keeps (execLd16 a0 a1 s) s0 := by
  unfold execLd16
  refine Out.keeps_next ?_
  try dsimp only
  repeat' (first | with_reducible assumption | with_reducible apply State.loadOp_keeps)
theorem execLd32_keeps {s0 s : State} (h : Keeps s0 s) (a0 : Thr) (a1 : BitVec 32) : Out.Keeps (execLd32 a0 a1 s) s0 := by
  unfold execLd32
  refine Out.keeps_next ?_
  try dsimp only
  repeat' (first | with_reducible assumption | with_reducible apply State.loadOp_keeps)
theorem execLd64_keeps {s0 s : State} (h : Keeps s0 s) (a0 : Thr) (a1 : BitVec 32) : Out.Keeps (execLd64 a0 a1 s) s0 := by
  unfold execLd64
  refine Out.keeps_next ?_
  try dsimp only
  repeat' (first | with_reducible assumption | with_reducible apply State.loadOp_keeps)
theorem execSt8_keeps {s0 s : State} (h : Keeps s0 s) (a0 : Thr) (a1 : BitVec 32) : Out.Keeps (execSt8 a0 a1 s) s0 := by
  unfold execSt8
  refine Out.keeps_next ?_
  try dsimp only
  repeat' (first | with_reducible assumption | with_reducible apply State.storeOp_keeps)
theorem execSt16_keeps {s0 s : State} (h : Keeps s0 s) (a0 : Thr) (a1 : BitVec 32) : Out.Keeps (execSt16 a0 a1 s) s0 := by
  unfold execSt16
  refine Out.keeps_next ?_
  try dsimp only
  repeat' (first | with_reducible assumption | with_reducible apply State.storeOp_keeps)
theorem execSt32_keeps {s0 s : State} (h : Keeps s0 s) (a0 : Thr) (a1 : BitVec 32) : Out.Keeps (execSt32 a0 a1 s) s0 := by
  unfold execSt32
  refine Out.keeps_next ?_
  try dsimp only
  repeat' (first | with_reducible assumption | with_reducible apply State.storeOp_keeps)
theorem execSt64_keeps {s0 s : State} (h : Keeps s0 s) (a0 : Thr) (a1 : BitVec 32) : Out.Keeps (execSt64 a0 a1 s) s0 := by
  unfold execSt64
  refine Out.keeps_next ?_
  try dsimp only
  repeat' (first | with_reducible assumption | with_reducible apply State.storeOp_keeps)
theorem execAmoSwap_keeps {s0 s : State} (h : Keeps s0 s) (a0 : Thr) (a1 : BitVec 32) : Out.Keeps (execAmoSwap a0 a1 s) s0 := by
  unfold execAmoSwap
  refine Out.keeps_next ?_
  try dsimp only
  repeat' (first | with_reducible assumption | with_reducible apply State.amoOp_keeps)
theorem execAmoAdd_keeps {s0 s : State} (h : Keeps s0 s) (a0 : Thr) (a1 : BitVec 32) : Out.Keeps (execAmoAdd a0 a1 s) s0 := by
  unfold execAmoAdd
  refine Out.keeps_next ?_
  try dsimp only
  repeat' (first | with_reducible assumption | with_reducible apply State.amoOp_keeps)
theorem execAmoOr_keeps {s0 s : State} (h : Keeps s0 s) (a0 : Thr) (a1 : BitVec 32) : Out.Keeps (execAmoOr a0 a1 s) s0 := by
  unfold execAmoOr
  refine Out.keeps_next ?_
  try dsimp only
  repeat' (first | with_reducible assumption | with_reducible apply State.amoOp_keeps)
theorem execAmoAnd_keeps {s0 s : State} (h : Keeps s0 s) (a0 : Thr) (a1 : BitVec 32) : Out.Keeps (execAmoAnd a0 a1 s) s0 := by
  unfold execAmoAnd
  refine Out.keeps_next ?_
  try dsimp only
  repeat' (first | with_reducible assumption | with_reducible apply State.amoOp_keeps)
theorem execAmoCas_keeps {s0 s : State} (h : Keeps s0 s) (a0 : Thr) (a1 : BitVec 32) : Out.Keeps (execAmoCas a0 a1 s) s0 := by
  unfold execAmoCas
  refine Out.keeps_next ?_
  try dsimp only
  repeat' (first | with_reducible assumption | with_reducible apply State.amoOp_keeps)
theorem State.barrier_keeps {s0 s : State} (h : Keeps s0 s) (a1 : Thr) (a2 : Op) (a3 : Reg32) (a4 : Bool) : Keeps s0 (State.barrier s a1 a2 a3 a4) := by
  unfold State.barrier
  try dsimp only
  repeat' (first | with_reducible assumption | with_reducible exact Res.keeps_trap | with_reducible exact Res.keeps_soft | with_reducible apply Res.keeps_checks | with_reducible apply Res.keeps_next | with_reducible apply Res.keeps_jump | with_reducible apply Res.keeps_fault | with_reducible apply Res.keeps_stall | with_reducible apply Res.keeps_left | with_reducible apply State.issue_keeps | with_reducible apply State.sbRelease_keeps | with_reducible apply State.setRd_keeps | split | (intro))
theorem execCbar_keeps {s0 s : State} (h : Keeps s0 s) (a0 : Thr) (a1 : BitVec 32) : Out.Keeps (execCbar a0 a1 s) s0 := by
  unfold execCbar
  refine Out.keeps_next ?_
  try dsimp only
  repeat' (first | with_reducible assumption | with_reducible apply State.barrier_keeps)
theorem execCbarT_keeps {s0 s : State} (h : Keeps s0 s) (a0 : Thr) (a1 : BitVec 32) : Out.Keeps (execCbarT a0 a1 s) s0 := by
  unfold execCbarT
  refine Out.keeps_next ?_
  try dsimp only
  repeat' (first | with_reducible assumption | with_reducible apply State.barrier_keeps)
theorem execYieldT_keeps {s0 s : State} (h : Keeps s0 s) (a0 : Thr) (a1 : BitVec 32) : Out.Keeps (execYieldT a0 a1 s) s0 := by
  unfold execYieldT
  refine Out.keeps_next ?_
  try dsimp only
  repeat' (first | with_reducible assumption | with_reducible exact Res.keeps_trap | with_reducible exact Res.keeps_soft | with_reducible apply Res.keeps_checks | with_reducible apply Res.keeps_next | with_reducible apply Res.keeps_jump | with_reducible apply Res.keeps_fault | with_reducible apply Res.keeps_stall | with_reducible apply Res.keeps_left | with_reducible apply State.issue_keeps | with_reducible apply State.modThr_keeps | with_reducible apply State.setCore_keeps | split | (intro))
theorem execRte_keeps {s0 s : State} (h : Keeps s0 s) (a0 : Thr) (a1 : BitVec 32) : Out.Keeps (execRte a0 a1 s) s0 := by
  unfold execRte
  refine Out.keeps_next ?_
  try dsimp only
  repeat' (first | with_reducible assumption | with_reducible exact Res.keeps_trap | with_reducible exact Res.keeps_soft | with_reducible apply Res.keeps_checks | with_reducible apply Res.keeps_next | with_reducible apply Res.keeps_jump | with_reducible apply Res.keeps_fault | with_reducible apply Res.keeps_stall | with_reducible apply Res.keeps_left | with_reducible apply State.issue_keeps | with_reducible apply State.sbRelease_keeps | with_reducible apply State.modThr_keeps | split | (intro))
theorem execTrap_keeps {s0 s : State} (h : Keeps s0 s) (a0 : Thr) (a1 : BitVec 32) : Out.Keeps (execTrap a0 a1 s) s0 := by
  unfold execTrap
  refine Out.keeps_next ?_
  try dsimp only
  repeat' (first | with_reducible assumption | with_reducible exact Res.keeps_trap | with_reducible exact Res.keeps_soft | with_reducible apply Res.keeps_checks | with_reducible apply Res.keeps_next | with_reducible apply Res.keeps_jump | with_reducible apply Res.keeps_fault | with_reducible apply Res.keeps_stall | with_reducible apply Res.keeps_left | with_reducible apply State.issue_keeps | split | (intro))
theorem execCrr_keeps {s0 s : State} (h : Keeps s0 s) (a0 : Thr) (a1 : BitVec 32) : Out.Keeps (execCrr a0 a1 s) s0 := by
  unfold execCrr
  refine Out.keeps_next ?_
  try dsimp only
  repeat' (first | with_reducible assumption | with_reducible exact Res.keeps_trap | with_reducible exact Res.keeps_soft | with_reducible apply Res.keeps_checks | with_reducible apply Res.keeps_next | with_reducible apply Res.keeps_jump | with_reducible apply Res.keeps_fault | with_reducible apply Res.keeps_stall | with_reducible apply Res.keeps_left | with_reducible apply State.issue_keeps | with_reducible apply State.setRd_keeps | split | (intro))
theorem execCrw_keeps {s0 s : State} (h : Keeps s0 s) (a0 : Thr) (a1 : BitVec 32) : Out.Keeps (execCrw a0 a1 s) s0 := by
  unfold execCrw
  refine Out.keeps_next ?_
  try dsimp only
  repeat' (first | with_reducible assumption | with_reducible exact Res.keeps_trap | with_reducible exact Res.keeps_soft | with_reducible apply Res.keeps_checks | with_reducible apply Res.keeps_next | with_reducible apply Res.keeps_jump | with_reducible apply Res.keeps_fault | with_reducible apply Res.keeps_stall | with_reducible apply Res.keeps_left | with_reducible apply State.issue_keeps | with_reducible apply State.modThr_keeps | split | (intro))

end Sys2Proof.Machine
end

