-- ==== Sys2Proof/Laws/Keeps/BlockMem.lean ====
section
/-! SUPPORT. Sys2Proof/Laws/Keeps/BlockMem.lean: what the operations of Machine/BlockMem.lean keep. -/

namespace Sys2Proof.Machine

theorem State.pendPoll_keeps {s0 s : State} (h : Keeps s0 s) (a1 : Thr) : Keeps s0 (State.pendPoll s a1) := by
  have fin : ∀ r : Res, r.Keeps s0 → Keeps s0 (match r with
    | .next u => u.goto a1 (s.thr a1).pc ((s.thr a1).pc + 1)
    | .fault u c v => u.trapTo a1 c v (s.thr a1).pc
    | .stall u p => u.modThr a1 fun x => { x with pend := p, via := none }
    | _ => s) := by
    intro r hr
    cases r with
    | next s => exact State.goto_keeps hr _ _ _
    | fault s c v => exact State.trapTo_keeps hr _ _ _ _
    | stall s p => exact State.modThr_keeps hr _ _
    | _ => exact h
  unfold State.pendPoll
  dsimp only
  split
  · split
    · split
      · exact h
      · exact fin _ (State.loadNow_keeps h _ _ _ _ _)
    · exact h
  · split
    · split
      · exact h
      · exact fin _ (State.amoGo_keeps h _ _ _ _ _ _ _ _)
    · exact h
  · exact h
theorem State.bmStore_keeps {s0 s : State} (h : Keeps s0 s) (a1 : ℕ) (a2 : BitVec 64) (a3 : Line) : Keeps s0 (State.bmStore s a1 a2 a3) := by
  unfold State.bmStore
  try dsimp only
  repeat' (first | with_reducible assumption | (intro) | fail_if_no_progress with_reducible apply Keeps.lit | with_reducible exact Nat.le_refl _ | exact Nat.le_succ _ | fail_if_no_progress with_reducible apply Keeps.litBmem | with_reducible apply memWrite_wf | with_reducible apply memWriteBe_wf)
theorem State.aplResp_keeps {s0 s : State} (h : Keeps s0 s) (a1 : NodeId) (a2 : ℕ) (a3 : Option Word) (a4 : Bool) (a5 : Bool) (a6 : Line) (a7 : BmErr) : Keeps s0 (State.aplResp s a1 a2 a3 a4 a5 a6 a7) := by
  unfold State.aplResp
  try dsimp only
  repeat' (first | with_reducible assumption | with_reducible apply State.aplFault_keeps | with_reducible apply State.aplRead_keeps | with_reducible apply State.aplDone_keeps | with_reducible apply State.plcFill_keeps | with_reducible apply State.aplEnt_keeps | split | (intro) | (refine keeps_snd ?_ (by with_reducible assumption)) | (refine keeps_fst ?_ (by with_reducible assumption)) | fail_if_no_progress with_reducible apply Keeps.lit | with_reducible exact Nat.le_refl _ | exact Nat.le_succ _ | (fail_if_no_progress dsimp only))
theorem State.bmLand_keeps {s0 s : State} (h : Keeps s0 s) (a1 : BmReq) (a2 : BitVec 64) : Keeps s0 (State.bmLand s a1 a2) := by
  unfold State.bmLand
  try dsimp only
  repeat' (first | with_reducible assumption | with_reducible apply State.bmCover_keeps | with_reducible apply State.bmStore_keeps | (intro) | fail_if_no_progress with_reducible apply Keeps.lit | with_reducible exact Nat.le_refl _ | exact Nat.le_succ _ | (fail_if_no_progress dsimp only))
theorem State.accResp_keeps {s0 s : State} (h : Keeps s0 s) (a1 : Thr) (a2 : BmReq) (a3 : Line) (a4 : BmErr) : Keeps s0 (State.accResp s a1 a2 a3 a4) := by
  unfold State.accResp
  try dsimp only
  repeat' (first | with_reducible assumption | with_reducible apply State.pendOk_keeps | with_reducible apply State.pendTrap_keeps | with_reducible apply State.bmLand_keeps | with_reducible apply State.choose_keeps | split | (intro) | (refine keeps_snd (State.choose_keeps ?_ ) (by with_reducible assumption)) | (refine keeps_snd ?_ (by with_reducible assumption)) | (refine keeps_fst ?_ (by with_reducible assumption)) | fail_if_no_progress with_reducible apply Keeps.lit | with_reducible exact Nat.le_refl _ | exact Nat.le_succ _ | (fail_if_no_progress dsimp only))
theorem State.shadowResp_keeps {s0 s : State} (h : Keeps s0 s) (a1 : NodeId) (a2 : ℕ) (a3 : Word) (a4 : BitVec 8) (a5 : Line) (a6 : BmErr) : Keeps s0 (State.shadowResp s a1 a2 a3 a4 a5 a6) := by
  unfold State.shadowResp
  try dsimp only
  repeat' (first | with_reducible assumption | with_reducible apply State.raise_keeps | with_reducible apply State.modNd_keeps | split)
theorem State.bmWrote_keeps {s0 s : State} (h : Keeps s0 s) (a1 : BmReq) (a2 : BmErr) : Keeps s0 (State.bmWrote s a1 a2).2 := by
  unfold State.bmWrote
  try dsimp only
  repeat' (first | with_reducible assumption | with_reducible apply State.choose_keeps | split | (intro) | (refine keeps_snd (State.choose_keeps ?_ ) (by with_reducible assumption)) | (refine keeps_snd ?_ (by with_reducible assumption)) | (refine keeps_fst ?_ (by with_reducible assumption)) | fail_if_no_progress with_reducible apply Keeps.lit | with_reducible exact Nat.le_refl _ | exact Nat.le_succ _ | (fail_if_no_progress dsimp only))
theorem State.bmWriteEnd_keeps {s0 s : State} (h : Keeps s0 s) (a1 : BmReq) (a2 : BmErr) : Keeps s0 (State.bmWriteEnd s a1 a2) := by
  unfold State.bmWriteEnd
  try dsimp only
  repeat' (first | with_reducible assumption | with_reducible apply State.bmWrote_keeps | with_reducible apply State.bmLand_keeps | (intro) | (refine keeps_snd (State.bmWrote_keeps ?_ _ _ ) (by with_reducible assumption)) | fail_if_no_progress with_reducible apply Keeps.lit | with_reducible exact Nat.le_refl _ | exact Nat.le_succ _ | (fail_if_no_progress dsimp only))
theorem State.ovfWritten_keeps {s0 s : State} (h : Keeps s0 s) (a1 : BmReq) (a2 : BmErr) : Keeps s0 (State.ovfWritten s a1 a2) := by
  unfold State.ovfWritten
  try dsimp only
  repeat' (first | with_reducible assumption | with_reducible apply State.bmWrote_keeps | with_reducible apply State.bmStore_keeps | (intro) | (refine keeps_snd (State.bmWrote_keeps ?_ _ _ ) (by with_reducible assumption)) | fail_if_no_progress with_reducible apply Keeps.lit | with_reducible exact Nat.le_refl _ | exact Nat.le_succ _ | (fail_if_no_progress dsimp only))
theorem State.pendAll_keeps {s0 s : State} (h : Keeps s0 s)  : Keeps s0 (State.pendAll s) := by
  unfold State.pendAll
  try dsimp only
  repeat' (first | with_reducible assumption | with_reducible apply State.pendPoll_keeps | with_reducible apply OptKeeps.map | with_reducible apply OptKeeps.mapSnd | with_reducible apply foldl_keeps_id | with_reducible apply foldl_keeps_fst | with_reducible apply foldl_keeps_snd | split | (intro))
theorem State.bmEnd_keeps {s0 s : State} (h : Keeps s0 s) (a1 : BmReq) (a2 : Line) (a3 : BmErr) : Keeps s0 (State.bmEnd s a1 a2 a3) := by
  unfold State.bmEnd
  try dsimp only
  repeat' (first | with_reducible assumption | with_reducible apply State.bmWriteEnd_keeps | with_reducible apply State.dropSb_keeps | with_reducible apply State.discard_keeps | with_reducible apply State.accResp_keeps | with_reducible apply State.sflOvfDone_keeps | with_reducible apply State.plkDone_keeps | with_reducible apply State.aplResp_keeps | with_reducible apply State.spillRead_keeps | with_reducible apply State.spillWritten_keeps | with_reducible apply State.ovfWritten_keeps | with_reducible apply State.shadowResp_keeps | with_reducible apply State.dmaBm_keeps | split | (intro) | (refine keeps_snd ?_ (by with_reducible assumption)) | (refine keeps_fst ?_ (by with_reducible assumption)) | fail_if_no_progress with_reducible apply Keeps.lit | with_reducible exact Nat.le_refl _ | exact Nat.le_succ _ | (fail_if_no_progress dsimp only))
theorem State.bmDone_keeps {s0 s : State} (h : Keeps s0 s) (a1 : ℕ) (a2 : Line) (a3 : BmErr) : Keeps s0 (State.bmDone s a1 a2 a3) := by
  unfold State.bmDone
  try dsimp only
  repeat' (first | with_reducible assumption | with_reducible apply State.raise_keeps | with_reducible apply State.goOn_keeps | with_reducible apply State.pendAll_keeps | with_reducible apply State.bmEnd_keeps | with_reducible apply State.bmErrs_keeps | split | (intro) | (refine keeps_snd ?_ (by with_reducible assumption)) | (refine keeps_fst ?_ (by with_reducible assumption)) | fail_if_no_progress with_reducible apply Keeps.lit | with_reducible exact Nat.le_refl _)
theorem execBmResponse_keeps {s0 s : State} (h : Keeps s0 s) (a0 : BitVec 10) (a1 : Line) (a2 : BitVec 2) : Out.Keeps (execBmResponse a0 a1 a2 s) s0 := by
  unfold execBmResponse
  refine Out.keeps_next ?_
  try dsimp only
  repeat' (first | with_reducible assumption | with_reducible apply State.bmDone_keeps | split)
theorem execBmTimeout_keeps {s0 s : State} (h : Keeps s0 s) (a0 : BitVec 10) : Out.Keeps (execBmTimeout a0 s) s0 := by
  unfold execBmTimeout
  refine Out.keeps_next ?_
  try dsimp only
  repeat' (first | with_reducible assumption | with_reducible apply State.bmDone_keeps | split)

end Sys2Proof.Machine
end

