-- ==== Sys2Proof/Laws/Keeps/RegCheck.lean ====
section
/-! SUPPORT. Sys2Proof/Laws/Keeps/RegCheck.lean: what the operations of Machine/RegCheck.lean keep. -/

namespace Sys2Proof.Machine

theorem State.cfgNote_keeps {s0 s : State} (h : Keeps s0 s) (a1 : ℕ) (a2 : Bool) (a3 : Bool) (a4 : Option (Bool × BitVec 32)) : Keeps s0 (State.cfgNote s a1 a2 a3 a4) := by
  unfold State.cfgNote
  try dsimp only
  repeat' (first | with_reducible assumption | (intro) | fail_if_no_progress with_reducible apply Keeps.lit | with_reducible exact Nat.le_refl _)
theorem State.regAccIf_keeps {s0 s : State} (h : Keeps s0 s) (a1 : Src) (a2 : ℕ) (a3 : Bool) (a4 : Bool) (a5 : State → BitVec 32 × State) (h5 : ∀ s, Keeps s0 s → Keeps s0 (a5 s).2) : Keeps s0 (State.regAccIf s a1 a2 a3 a4 a5) := by
  unfold State.regAccIf
  try dsimp only
  repeat' (first | with_reducible assumption | with_reducible apply h5 | with_reducible apply State.cfgNote_keeps | with_reducible apply State.accErr_keeps | with_reducible apply State.raise_keeps | split)
theorem State.regAcc_keeps {s0 s : State} (h : Keeps s0 s) (a1 : Src) (a2 : ℕ) (a3 : Bool) (a4 : State → BitVec 32 × State) (h4 : ∀ s, Keeps s0 s → Keeps s0 (a4 s).2) : Keeps s0 (State.regAcc s a1 a2 a3 a4) := by
  unfold State.regAcc
  try dsimp only
  repeat' (first | with_reducible assumption | with_reducible apply h4 | with_reducible apply State.regAccIf_keeps)
theorem State.regDo_keeps {s0 s : State} (h : Keeps s0 s) (a1 : Src) (a2 : ℕ) (a3 : Bool) (a4 : State → State) (h4 : ∀ s, Keeps s0 s → Keeps s0 (a4 s)) : Keeps s0 (State.regDo s a1 a2 a3 a4) := by
  unfold State.regDo
  try dsimp only
  repeat' (first | with_reducible assumption | with_reducible apply h4 | with_reducible apply State.regAcc_keeps)
theorem State.cfgLate_keeps {s0 s : State} (h : Keeps s0 s)  : Keeps s0 (State.cfgLate s) := by
  unfold State.cfgLate
  try dsimp only
  repeat' (first | with_reducible assumption | split | (intro) | (refine keeps_snd ?_ (by with_reducible assumption)) | (refine keeps_fst ?_ (by with_reducible assumption)) | fail_if_no_progress with_reducible apply Keeps.lit | with_reducible exact Nat.le_refl _)
theorem execRegisterPortTimeout_keeps {s0 s : State} (h : Keeps s0 s)  : Out.Keeps (execRegisterPortTimeout s) s0 := by
  unfold execRegisterPortTimeout
  refine Out.keeps_next ?_
  try dsimp only
  repeat' (first | with_reducible assumption | with_reducible apply State.cfgLate_keeps | split)

end Sys2Proof.Machine
end

