-- ==== Sys2Proof/Laws/Keeps/Records.lean ====
section
/-! SUPPORT. Sys2Proof/Laws/Keeps/Records.lean: what the operations of Machine/Records.lean keep. -/

namespace Sys2Proof.Machine

theorem State.evPop_keeps {s0 s : State} (h : Keeps s0 s)  : Keeps s0 (State.evPop s) := by
  unfold State.evPop
  try dsimp only
  repeat' (first | with_reducible assumption | (intro) | fail_if_no_progress with_reducible apply Keeps.lit | with_reducible exact Nat.le_refl _)
theorem execEventRecordSend_keeps {s0 s : State} (h : Keeps s0 s)  : Out.Keeps (execEventRecordSend s) s0 := by
  unfold execEventRecordSend
  refine Out.keeps_next ?_
  try dsimp only
  repeat' (first | with_reducible assumption | with_reducible apply State.dropped_keeps | with_reducible apply State.evPop_keeps | split | (intro) | (refine keeps_snd ?_ (by with_reducible assumption)) | (refine keeps_fst ?_ (by with_reducible assumption)) | fail_if_no_progress with_reducible apply Keeps.lit | with_reducible exact Nat.le_refl _ | exact Nat.le_succ _ | (fail_if_no_progress dsimp only))
theorem State.evLate_keeps {s0 s : State} (h : Keeps s0 s)  : Keeps s0 (State.evLate s) := by
  unfold State.evLate
  try dsimp only
  repeat' (first | with_reducible assumption | with_reducible apply State.dropped_keeps | with_reducible apply State.raise_keeps | with_reducible apply State.dropRec_keeps | with_reducible apply State.evPop_keeps | split | (intro) | fail_if_no_progress with_reducible apply Keeps.lit | with_reducible exact Nat.le_refl _ | exact Nat.le_succ _ | (fail_if_no_progress dsimp only))
theorem execEvTimeout_keeps {s0 s : State} (h : Keeps s0 s)  : Out.Keeps (execEvTimeout s) s0 := by
  unfold execEvTimeout
  refine Out.keeps_next ?_
  try dsimp only
  repeat' (first | with_reducible assumption | with_reducible apply State.evLate_keeps)
theorem State.freeze_keeps {s0 s : State} (h : Keeps s0 s) (a1 : BitVec 32) : Keeps s0 (State.freeze s a1) := by
  unfold State.freeze
  try dsimp only
  repeat' (first | with_reducible assumption | with_reducible apply State.setFld_keeps | split | (intro) | fail_if_no_progress with_reducible apply Keeps.lit | with_reducible exact Nat.le_refl _)
theorem State.evWin_keeps {s0 s : State} (h : Keeps s0 s) (a1 : ℕ) (a2 : Bool) (a3 : BitVec 32) (a4 : BitVec 32) : Keeps s0 (State.evWin s a1 a2 a3 a4).2 := by
  unfold State.evWin
  try dsimp only
  repeat' (first | with_reducible assumption | with_reducible apply State.freeze_keeps | with_reducible apply State.setRaw_keeps | split)
theorem execEvWindowAccess_keeps {s0 s : State} (h : Keeps s0 s) (a0 : Src) (a1 : Fin 16) (a2 : Bool) (a3 : BitVec 32) (a4 : BitVec 32) : Out.Keeps (execEvWindowAccess a0 a1 a2 a3 a4 s) s0 := by
  unfold execEvWindowAccess
  refine Out.keeps_next ?_
  try dsimp only
  repeat' (first | with_reducible assumption | with_reducible apply State.regAcc_keeps | with_reducible apply State.evWin_keeps | split | (intro))
theorem State.psGo_keeps {s0 s : State} (h : Keeps s0 s) (a1 : Src) (a2 : BitVec 3) (a3 : BitVec 2) : Keeps s0 (State.psGo s a1 a2 a3) := by
  unfold State.psGo
  try dsimp only
  repeat' (first | with_reducible assumption | with_reducible apply State.accErr_keeps | split | (intro) | fail_if_no_progress with_reducible apply Keeps.lit | with_reducible exact Nat.le_refl _)
theorem State.psCommand_keeps {s0 s : State} (h : Keeps s0 s) (a1 : Src) (a2 : BitVec 3) (a3 : BitVec 2) : Keeps s0 (State.psCommand s a1 a2 a3) := by
  unfold State.psCommand
  try dsimp only
  repeat' (first | with_reducible assumption | with_reducible apply State.regDo_keeps | with_reducible apply State.psGo_keeps | split | (intro))
theorem execPsRead_keeps {s0 s : State} (h : Keeps s0 s) (a0 : Src) : Out.Keeps (execPsRead a0 s) s0 := by
  unfold execPsRead
  refine Out.keeps_next ?_
  try dsimp only
  repeat' (first | with_reducible assumption | with_reducible apply State.psCommand_keeps)
theorem execPsLoad_keeps {s0 s : State} (h : Keeps s0 s) (a0 : Src) : Out.Keeps (execPsLoad a0 s) s0 := by
  unfold execPsLoad
  refine Out.keeps_next ?_
  try dsimp only
  repeat' (first | with_reducible assumption | with_reducible apply State.psCommand_keeps)
theorem execPsCommit_keeps {s0 s : State} (h : Keeps s0 s) (a0 : Src) : Out.Keeps (execPsCommit a0 s) s0 := by
  unfold execPsCommit
  refine Out.keeps_next ?_
  try dsimp only
  repeat' (first | with_reducible assumption | with_reducible apply State.psCommand_keeps)
theorem execPsSetProtect_keeps {s0 s : State} (h : Keeps s0 s) (a0 : Src) (a1 : BitVec 2) : Out.Keeps (execPsSetProtect a0 a1 s) s0 := by
  unfold execPsSetProtect
  refine Out.keeps_next ?_
  try dsimp only
  repeat' (first | with_reducible assumption | with_reducible apply State.psCommand_keeps)
theorem execPsStatus_keeps {s0 s : State} (h : Keeps s0 s) (a0 : Src) : Out.Keeps (execPsStatus a0 s) s0 := by
  unfold execPsStatus
  refine Out.keeps_next ?_
  try dsimp only
  repeat' (first | with_reducible assumption | with_reducible apply State.psCommand_keeps)
theorem State.psDone_keeps {s0 s : State} (h : Keeps s0 s) (a1 : BitVec 3) (a2 : BitVec 20) (a3 : BitVec 32) (a4 : BitVec 2) : Keeps s0 (State.psDone s a1 a2 a3 a4) := by
  unfold State.psDone
  split
  · exact h.pageBufC _ fun c => memWrite_wf _ _ _ _ c.pageBuf
  · exact h.storeC _ fun c => pageWrite_wf _ _ _ _ c.store
  · with_reducible apply Keeps.lit
    · exact h
    · exact Nat.le_refl _
  · exact h
theorem State.psRsp_keeps {s0 s : State} (h : Keeps s0 s) (a1 : BitVec 2) (a2 : BitVec 32) : Keeps s0 (State.psRsp s a1 a2) := by
  unfold State.psRsp
  try dsimp only
  repeat' (first | with_reducible assumption | with_reducible apply State.setFld_keeps | with_reducible apply State.setRaw_keeps | with_reducible apply State.psDone_keeps | with_reducible apply State.raise_keeps | split | (intro) | (refine keeps_snd ?_ (by with_reducible assumption)) | (refine keeps_fst ?_ (by with_reducible assumption)) | fail_if_no_progress with_reducible apply Keeps.lit | with_reducible exact Nat.le_refl _)
theorem execPsResponse_keeps {s0 s : State} (h : Keeps s0 s) (a0 : BitVec 2) (a1 : BitVec 32) : Out.Keeps (execPsResponse a0 a1 s) s0 := by
  unfold execPsResponse
  refine Out.keeps_next ?_
  try dsimp only
  repeat' (first | with_reducible assumption | with_reducible apply State.psRsp_keeps | split)
theorem State.psLate_keeps {s0 s : State} (h : Keeps s0 s)  : Keeps s0 (State.psLate s) := by
  unfold State.psLate
  try dsimp only
  repeat' (first | with_reducible assumption | with_reducible apply State.choose_keeps | with_reducible apply State.raise_keeps | with_reducible apply State.psDone_keeps | split | (intro) | (refine keeps_snd (State.choose_keeps ?_ ) (by with_reducible assumption)) | (refine keeps_snd ?_ (by with_reducible assumption)) | (refine keeps_fst ?_ (by with_reducible assumption)) | fail_if_no_progress with_reducible apply Keeps.lit | with_reducible exact Nat.le_refl _)
theorem execPsTimeout_keeps {s0 s : State} (h : Keeps s0 s)  : Out.Keeps (execPsTimeout s) s0 := by
  unfold execPsTimeout
  refine Out.keeps_next ?_
  try dsimp only
  repeat' (first | with_reducible assumption | with_reducible apply State.psLate_keeps)

end Sys2Proof.Machine
end

