-- ==== Sys2Proof/Laws/Keeps/Power.lean ====
section
/-! SUPPORT. Sys2Proof/Laws/Keeps/Power.lean: what the operations of Machine/Power.lean keep. -/

namespace Sys2Proof.Machine

theorem State.pairErr_keeps {s0 s : State} (h : Keeps s0 s) (a1 : Bool) (a2 : Bool) : Keeps s0 (State.pairErr s a1 a2) := by
  unfold State.pairErr
  try dsimp only
  repeat' (first | with_reducible assumption | with_reducible apply State.raise_keeps | split)
theorem State.thermal_keeps {s0 s : State} (h : Keeps s0 s) (a1 : QuadId) : Keeps s0 (State.thermal s a1) := by
  unfold State.thermal
  try dsimp only
  repeat' (first | with_reducible assumption | with_reducible apply State.raise_keeps | with_reducible apply State.setFld_keeps | split)
theorem State.senseUse_keeps {s0 s : State} (h : Keeps s0 s) (a1 : QuadId) (a2 : ℕ) (a3 : ℕ) (a4 : ℕ) (a5 : ℕ) (a6 : Bool) (a7 : Bool) (a8 : Bool) (a9 : Bool) (a10 : Bool) : Keeps s0 (State.senseUse s a1 a2 a3 a4 a5 a6 a7 a8 a9 a10) := by
  unfold State.senseUse
  try dsimp only
  repeat' (first | with_reducible assumption | with_reducible apply State.setRaw_keeps | with_reducible apply State.setQd_keeps | with_reducible apply State.thermal_keeps | with_reducible apply State.pairErr_keeps)
theorem State.sensor_keeps {s0 s : State} (h : Keeps s0 s) (a1 : QuadId) (a2 : ℕ) (a3 : ℕ) (a4 : ℕ) (a5 : ℕ) : Keeps s0 (State.sensor s a1 a2 a3 a4 a5) := by
  unfold State.sensor
  try dsimp only
  repeat' (first | with_reducible assumption | with_reducible apply State.setQd_keeps | with_reducible apply State.senseUse_keeps | split)
theorem execSensorUpdate_keeps {s0 s : State} (h : Keeps s0 s) (a0 : QuadId) (a1 : BitVec 10) (a2 : BitVec 10) (a3 : BitVec 10) (a4 : BitVec 10) : Out.Keeps (execSensorUpdate a0 a1 a2 a3 a4 s) s0 := by
  unfold execSensorUpdate
  refine Out.keeps_next ?_
  try dsimp only
  repeat' (first | with_reducible assumption | with_reducible apply State.sensor_keeps)
theorem execSensorStale_keeps {s0 s : State} (h : Keeps s0 s) (a0 : QuadId) : Out.Keeps (execSensorStale a0 s) s0 := by
  unfold execSensorStale
  refine Out.keeps_next ?_
  try dsimp only
  repeat' (first | with_reducible assumption | with_reducible apply State.senseUse_keeps | split)
theorem execVcoreLow_keeps {s0 s : State} (h : Keeps s0 s)  : Out.Keeps (execVcoreLow s) s0 := by
  unfold execVcoreLow
  refine Out.keeps_next ?_
  try dsimp only
  repeat' (first | with_reducible assumption | with_reducible apply State.raise_keeps | split)
theorem State.vlowTick_keeps {s0 s : State} (h : Keeps s0 s)  : Keeps s0 (State.vlowTick s) := by
  unfold State.vlowTick
  try dsimp only
  repeat' (first | with_reducible assumption | with_reducible apply State.setQd_keeps | with_reducible apply foldl_keeps_id | with_reducible apply foldl_keeps_fst | with_reducible apply foldl_keeps_snd | split | (intro))
theorem State.throttle_keeps {s0 s : State} (h : Keeps s0 s) (a1 : List ℕ) : Keeps s0 (State.throttle s a1) := by
  unfold State.throttle
  try dsimp only
  repeat' (first | with_reducible assumption | with_reducible apply State.setFld_keeps | with_reducible apply State.raise_keeps | split | (intro) | fail_if_no_progress with_reducible apply Keeps.lit | with_reducible exact Nat.le_refl _)
theorem execThrottleUpdate_keeps {s0 s : State} (h : Keeps s0 s) (a0 : List ℕ) : Out.Keeps (execThrottleUpdate a0 s) s0 := by
  unfold execThrottleUpdate
  refine Out.keeps_next ?_
  try dsimp only
  repeat' (first | with_reducible assumption | with_reducible apply State.throttle_keeps)
theorem execVoltageStep_keeps {s0 s : State} (h : Keeps s0 s)  : Out.Keeps (execVoltageStep s) s0 := by
  unfold execVoltageStep
  refine Out.keeps_next ?_
  try dsimp only
  repeat' (first | with_reducible assumption | with_reducible apply State.setFld_keeps | split | (intro) | (refine keeps_snd ?_ (by with_reducible assumption)) | (refine keeps_fst ?_ (by with_reducible assumption)) | fail_if_no_progress with_reducible apply Keeps.lit | with_reducible exact Nat.le_refl _)
theorem State.quadLose_keeps {s0 s : State} (h : Keeps s0 s) (a1 : QuadId) (a2 : Bool) : Keeps s0 (State.quadLose s a1 a2) := by
  unfold State.quadLose
  try dsimp only
  repeat' (first | with_reducible assumption | with_reducible apply State.setMac_keeps | with_reducible apply State.modNd_keeps | with_reducible apply State.setQd_keeps | with_reducible apply foldl_keeps_id | with_reducible apply foldl_keeps_fst | with_reducible apply foldl_keeps_snd | split | (intro))
theorem State.quadLoad_keeps {s0 s : State} (h : Keeps s0 s) (a1 : QuadId) (a2 : Bool) : Keeps s0 (State.quadLoad s a1 a2) := by
  unfold State.quadLoad
  try dsimp only
  repeat' (first | with_reducible assumption | with_reducible apply State.modNd_keeps | with_reducible apply OptKeeps.map | with_reducible apply OptKeeps.mapSnd | with_reducible apply foldl_keeps_id | with_reducible apply foldl_keeps_fst | with_reducible apply foldl_keeps_snd | split | (intro))
theorem State.quadStop_keeps {s0 s : State} (h : Keeps s0 s) (a1 : QuadId) : Keeps s0 (State.quadStop s a1) := by
  unfold State.quadStop
  try dsimp only
  repeat' (first | with_reducible assumption | with_reducible apply State.modNd_keeps | with_reducible apply foldl_keeps_id | with_reducible apply foldl_keeps_fst | with_reducible apply foldl_keeps_snd | split | (intro) | fail_if_no_progress with_reducible apply Keeps.lit | with_reducible exact Nat.le_refl _ | exact Nat.le_succ _ | (fail_if_no_progress dsimp only))
theorem State.gateRefuse_keeps {s0 s : State} (h : Keeps s0 s) (a1 : QuadId) (a2 : ℕ) : Keeps s0 (State.gateRefuse s a1 a2) := by
  unfold State.gateRefuse
  try dsimp only
  repeat' (first | with_reducible assumption | with_reducible apply State.raise_keeps | with_reducible apply State.setFld_keeps)
theorem State.gateGo_keeps {s0 s : State} (h : Keeps s0 s) (a1 : QuadId) : Keeps s0 (State.gateGo s a1) := by
  unfold State.gateGo
  try dsimp only
  repeat' (first | with_reducible assumption | with_reducible apply State.gateRefuse_keeps | with_reducible apply State.setFld_keeps | with_reducible apply State.modNd_keeps | with_reducible apply State.degrade_keeps | with_reducible apply State.setQd_keeps | with_reducible apply foldl_keeps_id | with_reducible apply foldl_keeps_fst | with_reducible apply foldl_keeps_snd | split | (intro))
theorem State.ungateGo_keeps {s0 s : State} (h : Keeps s0 s) (a1 : QuadId) : Keeps s0 (State.ungateGo s a1) := by
  unfold State.ungateGo
  try dsimp only
  repeat' (first | with_reducible assumption | with_reducible apply State.gateRefuse_keeps | with_reducible apply State.setFld_keeps | with_reducible apply State.setQd_keeps | split)
theorem execQuadrantGate_keeps {s0 s : State} (h : Keeps s0 s) (a0 : Src) (a1 : QuadId) : Out.Keeps (execQuadrantGate a0 a1 s) s0 := by
  unfold execQuadrantGate
  refine Out.keeps_next ?_
  try dsimp only
  repeat' (first | with_reducible assumption | with_reducible apply State.regDo_keeps | with_reducible apply State.gateGo_keeps | split | (intro))
theorem execQuadrantUngate_keeps {s0 s : State} (h : Keeps s0 s) (a0 : Src) (a1 : QuadId) : Out.Keeps (execQuadrantUngate a0 a1 s) s0 := by
  unfold execQuadrantUngate
  refine Out.keeps_next ?_
  try dsimp only
  repeat' (first | with_reducible assumption | with_reducible apply State.regDo_keeps | with_reducible apply State.ungateGo_keeps | split | (intro))
theorem State.quadOffNow_keeps {s0 s : State} (h : Keeps s0 s) (a1 : QuadId) : Keeps s0 (State.quadOffNow s a1) := by
  unfold State.quadOffNow
  try dsimp only
  repeat' (first | with_reducible assumption | with_reducible apply State.quadLose_keeps | with_reducible apply State.degrade_keeps | with_reducible apply State.setQd_keeps)
theorem execGatingDone_keeps {s0 s : State} (h : Keeps s0 s) (a0 : QuadId) : Out.Keeps (execGatingDone a0 s) s0 := by
  unfold execGatingDone
  refine Out.keeps_next ?_
  try dsimp only
  repeat' (first | with_reducible assumption | with_reducible apply State.quadOffNow_keeps | split)
theorem State.quadUp_keeps {s0 s : State} (h : Keeps s0 s) (a1 : QuadId) : Keeps s0 (State.quadUp s a1) := by
  unfold State.quadUp
  try dsimp only
  repeat' (first | with_reducible assumption | with_reducible apply State.quadLoad_keeps | with_reducible apply State.quadLose_keeps | with_reducible apply State.quadStop_keeps | with_reducible apply State.quenchSync_keeps | with_reducible apply State.degrade_keeps | with_reducible apply State.thermal_keeps | with_reducible apply State.setQd_keeps | with_reducible apply foldl_keeps_id | with_reducible apply foldl_keeps_fst | with_reducible apply foldl_keeps_snd | split | (intro) | fail_if_no_progress with_reducible apply Keeps.lit | with_reducible exact Nat.le_refl _ | exact Nat.le_succ _ | (fail_if_no_progress dsimp only))
theorem execUngatingFillDone_keeps {s0 s : State} (h : Keeps s0 s) (a0 : QuadId) : Out.Keeps (execUngatingFillDone a0 s) s0 := by
  unfold execUngatingFillDone
  refine Out.keeps_next ?_
  try dsimp only
  repeat' (first | with_reducible assumption | with_reducible apply State.goOn_keeps | with_reducible apply State.quadUp_keeps | split)
theorem execUngateTimeout_keeps {s0 s : State} (h : Keeps s0 s) (a0 : QuadId) : Out.Keeps (execUngateTimeout a0 s) s0 := by
  unfold execUngateTimeout
  refine Out.keeps_next ?_
  try dsimp only
  repeat' (first | with_reducible assumption | with_reducible apply State.raise_keeps | with_reducible apply State.quadOffNow_keeps | split)

end Sys2Proof.Machine
end

