-- ==== Sys2Proof/Laws/Keeps/Fabric.lean ====
section
/-! SUPPORT. Sys2Proof/Laws/Keeps/Fabric.lean: what the operations of Machine/Fabric.lean keep. -/

namespace Sys2Proof.Machine

theorem State.epErr_keeps {s0 s : State} (h : Keeps s0 s)  : Keeps s0 (State.epErr s) := by
  unfold State.epErr
  try dsimp only
  repeat' (first | with_reducible assumption | with_reducible apply State.accErr_keeps | split)
theorem State.epStart_keeps {s0 s : State} (h : Keeps s0 s) (a1 : Option (Bool × Bool)) : Keeps s0 (State.epStart s a1) := by
  unfold State.epStart
  try dsimp only
  repeat' (first | with_reducible assumption | with_reducible apply State.setFld_keeps | with_reducible apply State.epErr_keeps | with_reducible apply OptKeeps.map | with_reducible apply OptKeeps.mapSnd | split | (intro) | fail_if_no_progress with_reducible apply Keeps.lit | with_reducible exact Nat.le_refl _)
theorem State.epGo_keeps {s0 s : State} (h : Keeps s0 s) (a1 : Src) : Keeps s0 (State.epGo s a1) := by
  unfold State.epGo
  try dsimp only
  repeat' (first | with_reducible assumption | with_reducible apply State.accErr_keeps | with_reducible apply State.epStart_keeps | split | (intro) | (refine keeps_snd ?_ (by with_reducible assumption)) | (refine keeps_fst ?_ (by with_reducible assumption)) | fail_if_no_progress with_reducible apply Keeps.lit | with_reducible exact Nat.le_refl _ | exact Nat.le_succ _ | (fail_if_no_progress dsimp only))
theorem execEpochChange_keeps {s0 s : State} (h : Keeps s0 s) (a0 : Src) : Out.Keeps (execEpochChange a0 s) s0 := by
  unfold execEpochChange
  refine Out.keeps_next ?_
  try dsimp only
  repeat' (first | with_reducible assumption | with_reducible apply State.regDo_keeps | with_reducible apply State.epGo_keeps | split | (intro))
theorem State.layout_keeps {s0 s : State} (h : Keeps s0 s) (a1 : NodeId) (a2 : ℕ → NodeId) : Keeps s0 (State.layout s a1 a2) := by
  unfold State.layout
  try dsimp only
  repeat' (first | with_reducible assumption | with_reducible apply State.modNd_keeps | with_reducible apply State.raise_keeps | with_reducible apply State.consStart_keeps | with_reducible apply foldl_keeps_id | with_reducible apply foldl_keeps_fst | with_reducible apply foldl_keeps_snd | split | (intro))
theorem State.gainSlot_keeps {s0 s : State} (h : Keeps s0 s) (a1 : NodeId) (a2 : ℕ) : Keeps s0 (State.gainSlot s a1 a2) := by
  unfold State.gainSlot
  try dsimp only
  repeat' (first | with_reducible assumption | with_reducible apply State.modNd_keeps)
theorem State.rehome_keeps {s0 s : State} (h : Keeps s0 s) (a1 : HpId) : Keeps s0 (State.rehome s a1) := by
  unfold State.rehome
  try dsimp only
  repeat' (first | with_reducible assumption | with_reducible apply State.setHp_keeps | with_reducible apply State.setLedSt_keeps | with_reducible apply State.setFld_keeps | with_reducible apply foldl_keeps_id | with_reducible apply foldl_keeps_fst | with_reducible apply foldl_keeps_snd | split | (intro) | (refine keeps_snd ?_ (by with_reducible assumption)) | (refine keeps_fst ?_ (by with_reducible assumption)) | fail_if_no_progress with_reducible apply Keeps.lit | with_reducible exact Nat.le_refl _ | exact Nat.le_succ _ | (fail_if_no_progress dsimp only))
theorem State.viaThr_keeps {s0 s : State} (h : Keeps s0 s) (a1 : NodeId → Bool) (a2 : Thr) : Keeps s0 (State.viaThr s a1 a2) := by
  unfold State.viaThr
  try dsimp only
  repeat' (first | with_reducible assumption | with_reducible apply State.modThr_keeps | with_reducible apply State.raise_keeps | with_reducible apply OptKeeps.map | with_reducible apply OptKeeps.mapSnd | split | (intro) | fail_if_no_progress with_reducible apply Keeps.lit | with_reducible exact Nat.le_refl _ | exact Nat.le_succ _ | (fail_if_no_progress dsimp only))
theorem State.epSwitch_keeps {s0 s : State} (h : Keeps s0 s)  : Keeps s0 (State.epSwitch s) := by
  unfold State.epSwitch
  try dsimp only
  repeat' (first | with_reducible assumption | with_reducible apply State.setRaw_keeps | with_reducible apply State.viaThr_keeps | with_reducible apply State.layout_keeps | with_reducible apply State.gainSlot_keeps | with_reducible apply State.modNd_keeps | with_reducible apply State.rehome_keeps | with_reducible apply foldl_keeps_id | with_reducible apply foldl_keeps_fst | with_reducible apply foldl_keeps_snd | split | (intro) | (refine keeps_snd ?_ (by with_reducible assumption)) | (refine keeps_fst ?_ (by with_reducible assumption)) | fail_if_no_progress with_reducible apply Keeps.lit | with_reducible exact Nat.le_refl _ | exact Nat.le_succ _ | (fail_if_no_progress dsimp only))
theorem State.epEnd_keeps {s0 s : State} (h : Keeps s0 s)  : Keeps s0 (State.epEnd s) := by
  unfold State.epEnd
  try dsimp only
  repeat' (first | with_reducible assumption | with_reducible apply State.setFld_keeps | with_reducible apply State.epSwitch_keeps)
theorem execEpochDrainDone_keeps {s0 s : State} (h : Keeps s0 s)  : Out.Keeps (execEpochDrainDone s) s0 := by
  unfold execEpochDrainDone
  refine Out.keeps_next ?_
  try dsimp only
  repeat' (first | with_reducible assumption | with_reducible apply State.goOn_keeps | with_reducible apply State.epEnd_keeps | split)
theorem execEpochDrainTimeout_keeps {s0 s : State} (h : Keeps s0 s)  : Out.Keeps (execEpochDrainTimeout s) s0 := by
  unfold execEpochDrainTimeout
  refine Out.keeps_next ?_
  try dsimp only
  repeat' (first | with_reducible assumption | with_reducible apply State.raise_keeps | split)
theorem State.quenchSet_keeps {s0 s : State} (h : Keeps s0 s) (a1 : NodeId) (a2 : BitVec 32) : Keeps s0 (State.quenchSet s a1 a2) := by
  unfold State.quenchSet
  try dsimp only
  repeat' (first | with_reducible assumption | with_reducible apply State.setFld_keeps | with_reducible apply State.goOn_keeps | with_reducible apply State.quenchSync_keeps | split)
theorem execQuench_keeps {s0 s : State} (h : Keeps s0 s) (a0 : Src) (a1 : NodeId) (a2 : BitVec 32) : Out.Keeps (execQuench a0 a1 a2 s) s0 := by
  unfold execQuench
  refine Out.keeps_next ?_
  try dsimp only
  repeat' (first | with_reducible assumption | with_reducible apply State.regDo_keeps | with_reducible apply State.quenchSet_keeps | split | (intro))
theorem State.setShellAck_keeps {s0 s : State} (h : Keeps s0 s) (a1 : ℕ) (a2 : NodeId) : Keeps s0 (State.setShellAck s a1 a2) := by
  unfold State.setShellAck
  try dsimp only
  repeat' (first | with_reducible assumption | split | (intro) | fail_if_no_progress with_reducible apply Keeps.lit | with_reducible exact Nat.le_refl _ | exact Nat.le_succ _ | (fail_if_no_progress dsimp only))
theorem execQuenchAck_keeps {s0 s : State} (h : Keeps s0 s) (a0 : NodeId) (a1 : QShell) : Out.Keeps (execQuenchAck a0 a1 s) s0 := by
  unfold execQuenchAck
  refine Out.keeps_next ?_
  try dsimp only
  repeat' (first | with_reducible assumption | with_reducible apply State.setHp_keeps | with_reducible apply State.setMp_keeps | with_reducible apply State.setShellAck_keeps | split | (intro) | (refine keeps_snd ?_ (by with_reducible assumption)) | (refine keeps_fst ?_ (by with_reducible assumption)) | fail_if_no_progress with_reducible apply Keeps.lit | with_reducible exact Nat.le_refl _ | exact Nat.le_succ _ | (fail_if_no_progress dsimp only))
theorem execCredit_keeps {s0 s : State} (h : Keeps s0 s) (a0 : Endpoint) (a1 : QueueId) (a2 : ℕ) : Out.Keeps (execCredit a0 a1 a2 s) s0 := by
  unfold execCredit
  refine Out.keeps_next ?_
  try dsimp only
  repeat' (first | with_reducible assumption | with_reducible apply State.goOn_keeps | with_reducible apply State.setQue_keeps | split | (intro) | fail_if_no_progress with_reducible apply Keeps.lit | with_reducible exact Nat.le_refl _ | exact Nat.le_succ _ | (fail_if_no_progress dsimp only))
theorem execMgtNak_keeps {s0 s : State} (h : Keeps s0 s) (a0 : Thr) : Out.Keeps (execMgtNak a0 s) s0 := by
  unfold execMgtNak
  refine Out.keeps_next ?_
  try dsimp only
  repeat' (first | with_reducible assumption | with_reducible apply State.modSb_keeps | split)
theorem execMgtResend_keeps {s0 s : State} (h : Keeps s0 s) (a0 : Thr) : Out.Keeps (execMgtResend a0 s) s0 := by
  unfold execMgtResend
  refine Out.keeps_next ?_
  try dsimp only
  repeat' (first | with_reducible assumption | with_reducible apply State.modSb_keeps | split)

end Sys2Proof.Machine
end

