-- ==== Sys2Proof/Laws/Keeps/Overflow.lean ====
section
/-! SUPPORT. Sys2Proof/Laws/Keeps/Overflow.lean: what the operations of Machine/Overflow.lean keep. -/

namespace Sys2Proof.Machine

theorem State.ovfCtrl_keeps {s0 s : State} (h : Keeps s0 s) (a1 : Src) (a2 : BitVec 32) : Keeps s0 (State.ovfCtrl s a1 a2) := by
  unfold State.ovfCtrl
  try dsimp only
  repeat' (first | with_reducible assumption | with_reducible apply State.accErr_keeps | with_reducible apply State.setFld_keeps | split)
theorem State.ovfBase_keeps {s0 s : State} (h : Keeps s0 s) (a1 : Src) (a2 : BitVec 32) : Keeps s0 (State.ovfBase s a1 a2) := by
  unfold State.ovfBase
  try dsimp only
  repeat' (first | with_reducible assumption | with_reducible apply State.accErr_keeps | with_reducible apply State.setFld_keeps | split)
theorem execOvfCtrlWrite_keeps {s0 s : State} (h : Keeps s0 s) (a0 : Src) (a1 : BitVec 32) : Out.Keeps (execOvfCtrlWrite a0 a1 s) s0 := by
  unfold execOvfCtrlWrite
  refine Out.keeps_next ?_
  try dsimp only
  repeat' (first | with_reducible assumption | with_reducible apply State.regDo_keeps | with_reducible apply State.ovfCtrl_keeps | split | (intro))
theorem State.rebuildGo_keeps {s0 s : State} (h : Keeps s0 s) (a1 : NodeId) : Keeps s0 (State.rebuildGo s a1) := by
  unfold State.rebuildGo
  try dsimp only
  repeat' (first | with_reducible assumption | with_reducible apply State.modNd_keeps | split)
theorem State.rebuildSet_keeps {s0 s : State} (h : Keeps s0 s) (a1 : NodeId) (a2 : ℕ) : Keeps s0 (State.rebuildSet s a1 a2).2 := by
  unfold State.rebuildSet
  try dsimp only
  repeat' (first | with_reducible assumption | with_reducible apply State.bmLook_keeps | with_reducible apply State.ovfLost_keeps | with_reducible apply State.ovfCheck_keeps | with_reducible apply State.regionSet_keeps | with_reducible apply foldl_keeps_id | with_reducible apply foldl_keeps_fst | with_reducible apply foldl_keeps_snd | split | (intro) | (refine keeps_snd (State.bmLook_keeps ?_ _ ) (by with_reducible assumption)) | (refine keeps_snd2 (State.ovfCheck_keeps ?_ _ _ _ _ ) (by with_reducible assumption)) | (refine keeps_snd ?_ (by with_reducible assumption)) | (refine keeps_fst ?_ (by with_reducible assumption)) | fail_if_no_progress with_reducible apply Keeps.lit | with_reducible exact Nat.le_refl _ | exact Nat.le_succ _ | (fail_if_no_progress dsimp only))
theorem State.rebuildEnd_keeps {s0 s : State} (h : Keeps s0 s) (a1 : NodeId) : Keeps s0 (State.rebuildEnd s a1) := by
  unfold State.rebuildEnd
  try dsimp only
  repeat' (first | with_reducible assumption | with_reducible apply State.rebuildSet_keeps | with_reducible apply State.modNd_keeps | with_reducible apply State.ovfRest_keeps | with_reducible apply foldl_keeps_id | with_reducible apply foldl_keeps_fst | with_reducible apply foldl_keeps_snd | split | (intro) | (refine keeps_snd (State.rebuildSet_keeps ?_ _ _ ) (by with_reducible assumption)) | (refine keeps_snd (State.ovfRest_keeps ?_ _ ) (by with_reducible assumption)) | fail_if_no_progress with_reducible apply Keeps.lit | with_reducible exact Nat.le_refl _ | exact Nat.le_succ _ | (fail_if_no_progress dsimp only))
theorem execRmapRebuild_keeps {s0 s : State} (h : Keeps s0 s) (a0 : Src) (a1 : NodeId) : Out.Keeps (execRmapRebuild a0 a1 s) s0 := by
  unfold execRmapRebuild
  refine Out.keeps_next ?_
  try dsimp only
  repeat' (first | with_reducible assumption | with_reducible apply State.regDo_keeps | with_reducible apply State.rebuildGo_keeps | split | (intro))
theorem execRmapRebuildDone_keeps {s0 s : State} (h : Keeps s0 s) (a0 : NodeId) : Out.Keeps (execRmapRebuildDone a0 s) s0 := by
  unfold execRmapRebuildDone
  refine Out.keeps_next ?_
  try dsimp only
  repeat' (first | with_reducible assumption | with_reducible apply State.goOn_keeps | with_reducible apply State.rebuildEnd_keeps)
theorem execSfConsEnd_keeps {s0 s : State} (h : Keeps s0 s) (a0 : Src) : Out.Keeps (execSfConsEnd a0 s) s0 := by
  unfold execSfConsEnd
  refine Out.keeps_next ?_
  try dsimp only
  repeat' (first | with_reducible assumption | with_reducible apply State.regDo_keeps | with_reducible apply State.goOn_keeps | with_reducible apply State.consEnd_keeps | split | (intro))
theorem State.scrubSet_keeps {s0 s : State} (h : Keeps s0 s) (a1 : NodeId) (a2 : ℕ) : Keeps s0 (State.scrubSet s a1 a2) := by
  unfold State.scrubSet
  try dsimp only
  repeat' (first | with_reducible assumption | with_reducible apply State.wayRead_keeps | with_reducible apply State.modNd_keeps | with_reducible apply foldl_keeps_id | with_reducible apply foldl_keeps_fst | with_reducible apply foldl_keeps_snd | split | (intro) | (refine keeps_snd (State.wayRead_keeps ?_ _ _ _ ) (by with_reducible assumption)) | (refine keeps_snd ?_ (by with_reducible assumption)) | (refine keeps_fst ?_ (by with_reducible assumption)) | fail_if_no_progress with_reducible apply Keeps.lit | with_reducible exact Nat.le_refl _ | exact Nat.le_succ _ | (fail_if_no_progress dsimp only))
theorem State.sfScrub_keeps {s0 s : State} (h : Keeps s0 s) (a1 : NodeId) : Keeps s0 (State.sfScrub s a1) := by
  unfold State.sfScrub
  try dsimp only
  repeat' (first | with_reducible assumption | with_reducible apply State.scrubSet_keeps | with_reducible apply State.setFld_keeps | split)
theorem execSfScrubTick_keeps {s0 s : State} (h : Keeps s0 s) (a0 : NodeId) : Out.Keeps (execSfScrubTick a0 s) s0 := by
  unfold execSfScrubTick
  refine Out.keeps_next ?_
  try dsimp only
  repeat' (first | with_reducible assumption | with_reducible apply State.goOn_keeps | with_reducible apply State.sfScrub_keeps)
theorem State.scrubProg_keeps {s0 s : State} (h : Keeps s0 s) (a1 : NodeId) : Keeps s0 (State.scrubProg s a1) := by
  unfold State.scrubProg
  try dsimp only
  repeat' (first | with_reducible assumption | with_reducible apply State.modNd_keeps | with_reducible apply State.bmIssue_keeps | with_reducible apply State.raise_keeps | split | (intro) | (refine OptKeeps2.elim (State.bmIssue_keeps ?_ _ _ _ _ _ ) (by with_reducible assumption)))
theorem State.scrubScr_keeps {s0 s : State} (h : Keeps s0 s) (a1 : NodeId) : Keeps s0 (State.scrubScr s a1) := by
  unfold State.scrubScr
  try dsimp only
  repeat' (first | with_reducible assumption | with_reducible apply State.modNd_keeps | with_reducible apply State.raise_keeps | split)
theorem State.scrubTrk_keeps {s0 s : State} (h : Keeps s0 s) (a1 : NodeId) : Keeps s0 (State.scrubTrk s a1) := by
  unfold State.scrubTrk
  try dsimp only
  repeat' (first | with_reducible assumption | with_reducible apply State.modNd_keeps | with_reducible apply State.trkCheck_keeps | split)
theorem State.scrubRmap_keeps {s0 s : State} (h : Keeps s0 s) (a1 : NodeId) : Keeps s0 (State.scrubRmap s a1) := by
  unfold State.scrubRmap
  try dsimp only
  repeat' (first | with_reducible assumption | with_reducible apply State.rmapCheck_keeps | with_reducible apply State.modNd_keeps)
theorem State.scrubOn_keeps {s0 s : State} (h : Keeps s0 s) (a1 : ℕ) (a2 : ℕ) : Keeps s0 (State.scrubOn s a1 a2) := by
  unfold State.scrubOn
  try dsimp only
  repeat' (first | with_reducible assumption | split | (intro) | fail_if_no_progress with_reducible apply Keeps.lit | with_reducible exact Nat.le_refl _)
theorem State.scrubLed_keeps {s0 s : State} (h : Keeps s0 s) (a1 : HpId) : Keeps s0 (State.scrubLed s a1) := by
  unfold State.scrubLed
  try dsimp only
  repeat' (first | with_reducible assumption | with_reducible apply State.scrubOn_keeps | with_reducible apply State.raise_keeps | with_reducible apply State.ledCorrect_keeps | split)
theorem State.scrubChvProg_keeps {s0 s : State} (h : Keeps s0 s)  : Keeps s0 (State.scrubChvProg s) := by
  unfold State.scrubChvProg
  try dsimp only
  repeat' (first | with_reducible assumption | with_reducible apply State.scrubOn_keeps | with_reducible apply State.raise_keeps | split | (intro) | (refine keeps_snd ?_ (by with_reducible assumption)) | (refine keeps_fst ?_ (by with_reducible assumption)) | fail_if_no_progress with_reducible apply Keeps.lit | with_reducible exact Nat.le_refl _)
theorem State.scrubChvData_keeps {s0 s : State} (h : Keeps s0 s)  : Keeps s0 (State.scrubChvData s) := by
  unfold State.scrubChvData
  try dsimp only
  repeat' (first | with_reducible assumption | with_reducible apply State.scrubOn_keeps | with_reducible apply State.raise_keeps | split | (intro) | (refine keeps_snd ?_ (by with_reducible assumption)) | (refine keeps_fst ?_ (by with_reducible assumption)) | fail_if_no_progress with_reducible apply Keeps.lit | with_reducible exact Nat.le_refl _)
theorem State.scrubRom_keeps {s0 s : State} (h : Keeps s0 s)  : Keeps s0 (State.scrubRom s) := by
  unfold State.scrubRom
  try dsimp only
  repeat' (first | with_reducible assumption | with_reducible apply State.scrubOn_keeps | with_reducible apply State.raise_keeps | split | (intro) | fail_if_no_progress with_reducible apply Keeps.lit | with_reducible exact Nat.le_refl _ | exact Nat.le_succ _ | (fail_if_no_progress dsimp only))
theorem State.scrub_keeps {s0 s : State} (h : Keeps s0 s) (a1 : Scrubber) : Keeps s0 (State.scrub s a1) := by
  unfold State.scrub
  try dsimp only
  repeat' (first | with_reducible assumption | with_reducible apply State.scrubProg_keeps | with_reducible apply State.scrubScr_keeps | with_reducible apply State.scrubTrk_keeps | with_reducible apply State.scrubRmap_keeps | with_reducible apply State.scrubLed_keeps | with_reducible apply State.scrubChvProg_keeps | with_reducible apply State.scrubChvData_keeps | with_reducible apply State.scrubRom_keeps | split | (intro) | (refine keeps_snd ?_ (by with_reducible assumption)) | (refine keeps_fst ?_ (by with_reducible assumption)) | fail_if_no_progress with_reducible apply Keeps.lit | with_reducible exact Nat.le_refl _ | exact Nat.le_succ _ | (fail_if_no_progress dsimp only))

end Sys2Proof.Machine
end

