-- ==== Sys2Proof/Laws/Keeps/Counters.lean ====
section
/-! SUPPORT. Sys2Proof/Laws/Keeps/Counters.lean: what the operations of Machine/Counters.lean keep. -/

namespace Sys2Proof.Machine

theorem State.pmcMap_keeps {s0 s : State} (h : Keeps s0 s) (a1 : Pmc → Pmc) : Keeps s0 (State.pmcMap s a1) := by
  unfold State.pmcMap
  try dsimp only
  repeat' (first | with_reducible assumption | with_reducible apply OptKeeps.map | with_reducible apply OptKeeps.mapSnd | split | (intro) | fail_if_no_progress with_reducible apply Keeps.lit | with_reducible exact Nat.le_refl _)
theorem State.pmcSnapAll_keeps {s0 s : State} (h : Keeps s0 s)  : Keeps s0 (State.pmcSnapAll s) := by
  unfold State.pmcSnapAll
  try dsimp only
  repeat' (first | with_reducible assumption | with_reducible apply State.pmcMap_keeps)
theorem State.pmcClearAll_keeps {s0 s : State} (h : Keeps s0 s)  : Keeps s0 (State.pmcClearAll s) := by
  unfold State.pmcClearAll
  try dsimp only
  repeat' (first | with_reducible assumption | with_reducible apply State.pmcMap_keeps)
theorem State.pmcRun_keeps {s0 s : State} (h : Keeps s0 s) (a1 : State → State) (h1 : ∀ s, Keeps s0 s → Keeps s0 (a1 s)) : Keeps s0 (State.pmcRun s a1) := by
  unfold State.pmcRun
  try dsimp only
  repeat' (first | with_reducible assumption | with_reducible apply h1 | (intro) | fail_if_no_progress with_reducible apply Keeps.lit | with_reducible exact Nat.le_refl _ | exact Nat.le_succ _ | (fail_if_no_progress dsimp only))
theorem State.pmcCtrl_keeps {s0 s : State} (h : Keeps s0 s) (a1 : Src) (a2 : BitVec 32) : Keeps s0 (State.pmcCtrl s a1 a2) := by
  unfold State.pmcCtrl
  try dsimp only
  repeat' (first | with_reducible assumption | with_reducible apply State.setRaw_keeps | with_reducible apply State.accErr_keeps | with_reducible apply State.pmcRun_keeps | with_reducible apply State.pmcSnapAll_keeps | with_reducible apply State.pmcClearAll_keeps | split | (intro) | fail_if_no_progress with_reducible apply Keeps.lit | with_reducible exact Nat.le_refl _ | exact Nat.le_succ _ | (fail_if_no_progress dsimp only))
theorem execPmcFreeze_keeps {s0 s : State} (h : Keeps s0 s) (a0 : Src) (a1 : BitVec 32) : Out.Keeps (execPmcFreeze a0 a1 s) s0 := by
  unfold execPmcFreeze
  refine Out.keeps_next ?_
  try dsimp only
  repeat' (first | with_reducible assumption | with_reducible apply State.regDo_keeps | with_reducible apply State.pmcCtrl_keeps | split | (intro))
theorem execPmcSnap_keeps {s0 s : State} (h : Keeps s0 s) (a0 : Src) : Out.Keeps (execPmcSnap a0 s) s0 := by
  unfold execPmcSnap
  refine Out.keeps_next ?_
  try dsimp only
  repeat' (first | with_reducible assumption | with_reducible apply State.regDo_keeps | with_reducible apply State.pmcCtrl_keeps | split | (intro))
theorem execPmcClear_keeps {s0 s : State} (h : Keeps s0 s) (a0 : Src) : Out.Keeps (execPmcClear a0 s) s0 := by
  unfold execPmcClear
  refine Out.keeps_next ?_
  try dsimp only
  repeat' (first | with_reducible assumption | with_reducible apply State.regDo_keeps | with_reducible apply State.pmcCtrl_keeps | split | (intro))

end Sys2Proof.Machine
end

