-- ==== Sys2Proof/Laws/Keeps/RegWrite.lean ====
section
/-! SUPPORT. Sys2Proof/Laws/Keeps/RegWrite.lean: what the operations of Machine/RegWrite.lean keep. -/

namespace Sys2Proof.Machine

theorem State.plainWrite_keeps {s0 s : State} (h : Keeps s0 s) (a1 : Src) (a2 : ℕ) (a3 : RegDesc) (a4 : BitVec 32) : Keeps s0 (State.plainWrite s a1 a2 a3 a4) := by
  unfold State.plainWrite
  try dsimp only
  repeat' (first | with_reducible assumption | with_reducible apply State.setRaw_keeps | with_reducible apply State.accErr_keeps | split)
theorem State.timerSet_keeps {s0 s : State} (h : Keeps s0 s) (a1 : BitVec 32) : Keeps s0 (State.timerSet s a1) := by
  unfold State.timerSet
  try dsimp only
  repeat' (first | with_reducible assumption | with_reducible apply State.setFld_keeps | split | (intro) | fail_if_no_progress with_reducible apply Keeps.lit | with_reducible exact Nat.le_refl _)
theorem State.psWrite_keeps {s0 s : State} (h : Keeps s0 s) (a1 : Src) (a2 : BitVec 32) : Keeps s0 (State.psWrite s a1 a2) := by
  unfold State.psWrite
  try dsimp only
  repeat' (first | with_reducible assumption | with_reducible apply State.psGo_keeps | with_reducible apply State.accErr_keeps | split)
theorem State.chanCtrl_keeps {s0 s : State} (h : Keeps s0 s) (a1 : ChanId) (a2 : BitVec 32) : Keeps s0 (State.chanCtrl s a1 a2) := by
  unfold State.chanCtrl
  try dsimp only
  repeat' (first | with_reducible assumption | with_reducible apply State.chanGo_keeps | with_reducible apply State.chanResume_keeps | with_reducible apply State.chanStop_keeps | split)
theorem State.gateWrite_keeps {s0 s : State} (h : Keeps s0 s) (a1 : Src) (a2 : QuadId) (a3 : BitVec 32) : Keeps s0 (State.gateWrite s a1 a2 a3) := by
  unfold State.gateWrite
  try dsimp only
  repeat' (first | with_reducible assumption | with_reducible apply State.gateGo_keeps | with_reducible apply State.ungateGo_keeps | with_reducible apply State.accErr_keeps | split)
theorem State.sfCtrl_keeps {s0 s : State} (h : Keeps s0 s) (a1 : Src) (a2 : NodeId) (a3 : RegDesc) (a4 : BitVec 32) : Keeps s0 (State.sfCtrl s a1 a2 a3 a4) := by
  unfold State.sfCtrl
  try dsimp only
  repeat' (first | with_reducible assumption | with_reducible apply State.plainWrite_keeps | with_reducible apply State.rebuildGo_keeps | split)
theorem State.mbReq_keeps {s0 s : State} (h : Keeps s0 s) (a1 : Src) (a2 : ℕ) (a3 : BitVec 32) : Keeps s0 (State.mbReq s a1 a2 a3) := by
  unfold State.mbReq
  try dsimp only
  repeat' (first | with_reducible assumption | with_reducible apply State.accErr_keeps | with_reducible apply State.setRaw_keeps | split)
theorem State.blkWrite_keeps {s0 s : State} (h : Keeps s0 s) (a1 : Src) (a2 : ℕ) (a3 : RegDesc) (a4 : BitVec 32) : Keeps s0 (State.blkWrite s a1 a2 a3 a4) := by
  unfold State.blkWrite
  dsimp only
  repeat' (first | with_reducible assumption | with_reducible apply keeps_ite | intro _ | with_reducible apply State.plainWrite_keeps | with_reducible apply State.ovfCtrl_keeps | with_reducible apply State.ovfBase_keeps | with_reducible apply State.consEnd_keeps | with_reducible apply State.xltWrite_keeps | with_reducible apply State.chanCtrl_keeps | with_reducible apply State.epGo_keeps | with_reducible apply State.dropped_keeps | with_reducible apply State.psWrite_keeps | with_reducible apply State.pmcCtrl_keeps | with_reducible apply State.timerSet_keeps | with_reducible apply State.mbReq_keeps | with_reducible apply State.setRaw_keeps)
  · split
    · exact State.chanCtrl_keeps h _ _
    · exact h
  · exact State.evWin_keeps h _ _ _ _
theorem State.regPut_keeps {s0 s : State} (h : Keeps s0 s) (a1 : Src) (a2 : ℕ) (a3 : BitVec 32) : Keeps s0 (State.regPut s a1 a2 a3) := by
  unfold State.regPut
  try dsimp only
  repeat' (first | with_reducible assumption | with_reducible apply State.sfCtrl_keeps | with_reducible apply State.quenchSet_keeps | with_reducible apply State.plainWrite_keeps | with_reducible apply State.gateWrite_keeps | with_reducible apply State.blkWrite_keeps | with_reducible apply State.degrade_keeps | split)

end Sys2Proof.Machine
end

