-- ==== Sys2Proof/Laws/Keeps/Measure.lean ====
section
/-! SUPPORT. Sys2Proof/Laws/Keeps/Measure.lean: what the operations of Machine/Measure.lean keep. -/

namespace Sys2Proof.Machine

theorem State.extend_keeps {s0 s : State} (h : Keeps s0 s) (a1 : ℕ) (a2 : ℕ) (a3 : ℕ) (a4 : BitVec 32) (a5 : BitVec 384) : Keeps s0 (State.extend s a1 a2 a3 a4 a5) := by
  unfold State.extend
  try dsimp only
  repeat' (first | with_reducible assumption | split | (intro) | fail_if_no_progress with_reducible apply Keeps.lit | with_reducible exact Nat.le_refl _)
theorem State.extendObj_keeps {s0 s : State} (h : Keeps s0 s) (a1 : ℕ) (a2 : ℕ) (a3 : BitVec 32) (a4 : List Byte) : Keeps s0 (State.extendObj s a1 a2 a3 a4) := by
  unfold State.extendObj
  try dsimp only
  repeat' (first | with_reducible assumption | with_reducible apply State.extend_keeps)
theorem State.extGo_keeps {s0 s : State} (h : Keeps s0 s) (a1 : Src) (a2 : BitVec 32) : Keeps s0 (State.extGo s a1 a2) := by
  unfold State.extGo
  try dsimp only
  repeat' (first | with_reducible assumption | with_reducible apply State.accErr_keeps | with_reducible apply State.raise_keeps | split | (intro) | fail_if_no_progress with_reducible apply Keeps.lit | with_reducible exact Nat.le_refl _)
theorem execMeasExtend_keeps {s0 s : State} (h : Keeps s0 s) (a0 : Src) (a1 : BitVec 32) : Out.Keeps (execMeasExtend a0 a1 s) s0 := by
  unfold execMeasExtend
  refine Out.keeps_next ?_
  try dsimp only
  repeat' (first | with_reducible assumption | with_reducible apply State.regDo_keeps | with_reducible apply State.extGo_keeps | split | (intro))
theorem objLine_keeps {s0 : State} (r : Bool × List Byte × State) (h : Keeps s0 r.2.2) (a n line : Nat) :
    Keeps s0 (objLine r a n line).2.2 := by
  unfold objLine
  have hl := State.bmLook_keeps h line
  generalize r.2.2.bmLook line = l at hl ⊢
  rcases l with ⟨_ | d, t⟩
  · exact keeps_of_snd2 (hl.freeUp _) rfl
  · exact keeps_of_snd2 hl rfl
theorem State.objRead_keeps {s0 s : State} (h : Keeps s0 s) (a n : Nat) : Keeps s0 (s.objRead a n).2.2 :=
  foldl_keeps (fun (r : Bool × List Byte × State) => r.2.2) (fun r i => objLine r a n (a / 64 + i)) _ (true, [], s) h
    fun r _ hr => objLine_keeps r hr _ _ _
theorem State.extEnd_keeps {s0 s : State} (h : Keeps s0 s)  : Keeps s0 (State.extEnd s) := by
  unfold State.extEnd
  try dsimp only
  repeat' (first | with_reducible assumption | with_reducible apply State.extend_keeps | with_reducible apply State.objRead_keeps | with_reducible apply State.extendObj_keeps | split | (intro) | (refine keeps_snd2 (State.objRead_keeps ?_ _ _ ) (by with_reducible assumption)) | (refine keeps_snd ?_ (by with_reducible assumption)) | (refine keeps_fst ?_ (by with_reducible assumption)) | fail_if_no_progress with_reducible apply Keeps.lit | with_reducible exact Nat.le_refl _ | exact Nat.le_succ _ | (fail_if_no_progress dsimp only))
theorem execMeasExtendDone_keeps {s0 s : State} (h : Keeps s0 s)  : Out.Keeps (execMeasExtendDone s) s0 := by
  unfold execMeasExtendDone
  refine Out.keeps_next ?_
  try dsimp only
  repeat' (first | with_reducible assumption | with_reducible apply State.extEnd_keeps | (intro) | fail_if_no_progress with_reducible apply Keeps.lit | with_reducible exact Nat.le_refl _ | exact Nat.le_succ _ | (fail_if_no_progress dsimp only))

end Sys2Proof.Machine
end

