-- ==== Sys2Proof/Laws/Keeps/PStore.lean ====
section
/-! SUPPORT. Sys2Proof/Laws/Keeps/PStore.lean: what the operations of Machine/PStore.lean keep. -/

namespace Sys2Proof.Machine

theorem State.psDo_keeps {s0 s : State} (h : Keeps s0 s) (a1 : Bool) (a2 : BitVec 3) (a3 : ℕ) (a4 : BitVec 32) (a5 : BitVec 2) : Keeps s0 (State.psDo s a1 a2 a3 a4 a5).2 := by
  unfold State.psDo
  try dsimp only
  repeat' (first | with_reducible assumption | with_reducible apply State.raise_keeps | with_reducible apply State.psDone_keeps | split | (intro) | (refine keeps_snd ?_ (by with_reducible assumption)) | (refine keeps_fst ?_ (by with_reducible assumption)) | fail_if_no_progress with_reducible apply Keeps.lit | with_reducible exact Nat.le_refl _ | exact Nat.le_succ _ | (fail_if_no_progress dsimp only))
theorem State.psBytes_keeps {s0 s : State} (h : Keeps s0 s) (a1 : ℕ) (a2 : ℕ) : Keeps s0 (State.psBytes s a1 a2).2.2 := by
  unfold State.psBytes
  try dsimp only
  repeat' (first | with_reducible assumption | (exact Nat.le_add_right _ _) | with_reducible apply State.psDo_keeps | split | (intro) | (refine keeps_snd (State.psDo_keeps ?_ _ _ _ _ _ ) (by with_reducible assumption)) | fail_if_no_progress with_reducible apply Keeps.lit | with_reducible exact Nat.le_refl _ | exact Nat.le_succ _ | (fail_if_no_progress dsimp only))
theorem State.recRead_keeps {s0 s : State} (h : Keeps s0 s) (a1 : Bool) (a2 : ℕ) (a3 : ℕ) (a4 : ℕ) : Keeps s0 (State.recRead s a1 a2 a3 a4).2 := by
  unfold State.recRead
  try dsimp only
  repeat' (first | with_reducible assumption | with_reducible apply State.psDo_keeps | split | (intro) | (refine keeps_snd (State.psDo_keeps ?_ _ _ _ _ _ ) (by with_reducible assumption)) | fail_if_no_progress with_reducible apply Keeps.lit | with_reducible exact Nat.le_refl _ | exact Nat.le_succ _ | (fail_if_no_progress dsimp only))
theorem State.recPick_keeps {s0 s : State} (h : Keeps s0 s) (a1 : ℕ) : Keeps s0 (State.recPick s a1).2 := by
  unfold State.recPick
  try dsimp only
  repeat' (first | with_reducible assumption | with_reducible apply State.recRead_keeps | with_reducible apply State.raise_keeps | with_reducible apply State.setFld_keeps | split | (intro) | (refine keeps_snd (State.recRead_keeps ?_ _ _ _ _ ) (by with_reducible assumption)) | (refine keeps_snd ?_ (by with_reducible assumption)) | (refine keeps_fst ?_ (by with_reducible assumption)) | fail_if_no_progress with_reducible apply Keeps.lit | with_reducible exact Nat.le_refl _ | exact Nat.le_succ _ | (fail_if_no_progress dsimp only))
theorem psThen_keeps {s0 : State} (r : Bool × State) (h : Keeps s0 r.2) (free : Bool) (cmd : BitVec 3) (a : Nat) (w : BitVec 32) :
    Keeps s0 (psThen r free cmd a w).2 := by
  unfold psThen
  split
  · exact State.psDo_keeps h _ _ _ _ _
  · exact h
theorem psLoads_keeps {s0 : State} (r : Bool × State) (h : Keeps s0 r.2) (free : Bool) (bs : List Byte) (a i : Nat) :
    Keeps s0 (psLoads r free bs a i).2 :=
  foldl_keeps_snd _ _ r h fun b _ hb => psThen_keeps b hb _ _ _ _
theorem State.psPages_keeps {s0 s : State} (h : Keeps s0 s) (free : Bool) (bs : List Byte) (a size : Nat) :
    Keeps s0 (s.psPages free bs a size).2 :=
  foldl_keeps_snd _ _ (true, s) h fun b _ hb => psThen_keeps _ (psLoads_keeps b hb _ _ _ _) _ _ _ _
theorem State.recCommit_keeps {s0 s : State} (h : Keeps s0 s) (a1 : Bool) (a2 : ℕ) (a3 : List Byte) : Keeps s0 (State.recCommit s a1 a2 a3).2 := by
  unfold State.recCommit
  try dsimp only
  repeat' (first | with_reducible assumption | (with_reducible exact Keeps.storeC (by with_reducible assumption) _ fun c => memBlit_wf _ _ _ _ c.store (cellsOf_wf _ _)) | with_reducible apply State.psPages_keeps | with_reducible apply State.recRead_keeps | with_reducible apply State.raise_keeps | split | (intro) | (refine keeps_snd (State.psPages_keeps ?_ _ _ _ _ ) (by with_reducible assumption)) | (refine keeps_snd (State.recRead_keeps ?_ _ _ _ _ ) (by with_reducible assumption)) | (refine keeps_snd ?_ (by with_reducible assumption)) | (refine keeps_fst ?_ (by with_reducible assumption)) | fail_if_no_progress with_reducible apply Keeps.lit | with_reducible exact Nat.le_refl _ | exact Nat.le_succ _ | (fail_if_no_progress dsimp only))
theorem State.lifeCommit_keeps {s0 s : State} (h : Keeps s0 s) (a1 : ℕ → ℕ) : Keeps s0 (State.lifeCommit s a1).2 := by
  unfold State.lifeCommit
  try dsimp only
  repeat' (first | with_reducible assumption | with_reducible apply State.recCommit_keeps | split | (intro) | (refine keeps_snd (State.recCommit_keeps ?_ _ _ _ ) (by with_reducible assumption)) | (refine keeps_snd ?_ (by with_reducible assumption)) | (refine keeps_fst ?_ (by with_reducible assumption)) | fail_if_no_progress with_reducible apply Keeps.lit | with_reducible exact Nat.le_refl _ | exact Nat.le_succ _ | (fail_if_no_progress dsimp only))
theorem State.romWrite_keeps {s0 s : State} (h : Keeps s0 s) (a1 : ℕ) (a2 : BitVec 32) : Keeps s0 (State.romWrite s a1 a2) := by
  unfold State.romWrite
  try dsimp only
  repeat' (first | with_reducible assumption | with_reducible apply State.accErr_keeps | with_reducible apply State.raise_keeps | with_reducible apply State.regPut_keeps | with_reducible apply State.epEnd_keeps | split)
theorem State.applyConfig_keeps {s0 s : State} (h : Keeps s0 s) (a1 : List Byte) : Keeps s0 (State.applyConfig s a1) := by
  unfold State.applyConfig
  try dsimp only
  repeat' (first | with_reducible assumption | with_reducible apply State.accErr_keeps | with_reducible apply State.romWrite_keeps | with_reducible apply foldl_keeps_id | with_reducible apply foldl_keeps_fst | with_reducible apply foldl_keeps_snd | split | (intro))

end Sys2Proof.Machine
end

