-- ==== Sys2Proof/Laws/Keeps/Repair.lean ====
section
/-! SUPPORT. Sys2Proof/Laws/Keeps/Repair.lean: what the operations of Machine/Repair.lean keep. -/

namespace Sys2Proof.Machine

theorem State.wayOffItem_keeps {s0 s : State} (h : Keeps s0 s) (a1 : Word) : Keeps s0 (State.wayOffItem s a1) := by
  unfold State.wayOffItem
  try dsimp only
  repeat' (first | with_reducible assumption | with_reducible apply State.setFld_keeps | split)
theorem State.wayClear_keeps {s0 s : State} (h : Keeps s0 s) (a1 : Word) : Keeps s0 (State.wayClear s a1) := by
  unfold State.wayClear
  try dsimp only
  repeat' (first | with_reducible assumption | with_reducible apply State.setFld_keeps | split | (intro) | fail_if_no_progress with_reducible apply Keeps.lit | with_reducible exact Nat.le_refl _ | exact Nat.le_succ _ | (fail_if_no_progress dsimp only))
theorem State.applyHard_keeps {s0 s : State} (h : Keeps s0 s)  : Keeps s0 (State.applyHard s) := by
  unfold State.applyHard
  try dsimp only
  repeat' (first | with_reducible assumption | with_reducible apply State.wayOffItem_keeps | with_reducible apply foldl_keeps_id | with_reducible apply foldl_keeps_fst | with_reducible apply foldl_keeps_snd | split | (intro) | fail_if_no_progress with_reducible apply Keeps.lit | with_reducible exact Nat.le_refl _)
theorem State.spareZero_keeps {s0 s : State} (h : Keeps s0 s) (a1 : Word) : Keeps s0 (State.spareZero s a1) := by
  unfold State.spareZero
  try dsimp only
  repeat' (first | with_reducible assumption | with_reducible apply State.modNd_keeps | with_reducible apply OptKeeps.map | with_reducible apply OptKeeps.mapSnd | split)
theorem State.softItem_keeps {s0 s : State} (h : Keeps s0 s) (a1 : List Word) (a2 : Word) : Keeps s0 (State.softItem s a1 a2) := by
  unfold State.softItem
  try dsimp only
  repeat' (first | with_reducible assumption | with_reducible apply State.raise_keeps | with_reducible apply State.spareZero_keeps | with_reducible apply State.wayOffItem_keeps | with_reducible apply OptKeeps.map | with_reducible apply OptKeeps.mapSnd | split | (intro) | fail_if_no_progress with_reducible apply Keeps.lit | with_reducible exact Nat.le_refl _)
theorem State.applySoft_keeps {s0 s : State} (h : Keeps s0 s) (a1 : Option RepairMap) : Keeps s0 (State.applySoft s a1) := by
  unfold State.applySoft
  try dsimp only
  repeat' (first | with_reducible assumption | with_reducible apply State.softItem_keeps | with_reducible apply OptKeeps.map | with_reducible apply OptKeeps.mapSnd | with_reducible apply foldl_keeps_id | with_reducible apply foldl_keeps_fst | with_reducible apply foldl_keeps_snd | split | (intro) | (refine keeps_snd ?_ (by with_reducible assumption)) | (refine keeps_fst ?_ (by with_reducible assumption)) | fail_if_no_progress with_reducible apply Keeps.lit | with_reducible exact Nat.le_refl _)
theorem State.retireMap_keeps {s0 s : State} (h : Keeps s0 s)  : Keeps s0 (State.retireMap s) := by
  unfold State.retireMap
  try dsimp only
  repeat' (first | with_reducible assumption | with_reducible apply State.setRaw_keeps | with_reducible apply State.setFld_keeps | with_reducible apply State.epEnd_keeps | with_reducible apply State.epStart_keeps | with_reducible apply OptKeeps.getD | with_reducible apply OptKeeps.map | with_reducible apply OptKeeps.mapSnd | with_reducible apply foldl_keeps_id | with_reducible apply foldl_keeps_fst | with_reducible apply foldl_keeps_snd | split | (intro))

end Sys2Proof.Machine
end

