-- ==== Sys2Proof/Laws/Keeps/Boot.lean ====
section
/-! SUPPORT. Sys2Proof/Laws/Keeps/Boot.lean: what the operations of Machine/Boot.lean keep. -/

namespace Sys2Proof.Machine

/-- A cold reset keeps the queue and the canonical form (R392). -/
theorem State.coldReset_fields (s : State) : s.coldReset.pending = s.pending ∧ (s.Canon → s.coldReset.Canon) := by
  have fin : ∀ d : State, Keeps s d →
      ({ State.reset with pending := d.pending, store := d.store, pageBuf := d.pageBuf, storeProt := d.storeProt, fuse := d.fuse, free := d.free, romSyn := d.romSyn } : State).pending = s.pending ∧
      (s.Canon → ({ State.reset with pending := d.pending, store := d.store, pageBuf := d.pageBuf, storeProt := d.storeProt, fuse := d.fuse, free := d.free, romSyn := d.romSyn } : State).Canon) :=
    fun d hd => ⟨hd.pending, fun k => ⟨rfl, (hd.canon k).store, (hd.canon k).pageBuf, rfl, (hd.canon k).fuse, rfl, rfl, rfl, rfl, rfl⟩⟩
  unfold State.coldReset
  refine fin _ ?_
  clear fin
  dsimp only
  have h := Keeps.refl s
  repeat' (first | with_reducible assumption | with_reducible apply Keeps.fuseW | with_reducible apply State.psDone_keeps | with_reducible apply State.choose_keeps | split)
theorem State.raiseIf_keeps {s0 s : State} (h : Keeps s0 s) (a1 : Bool) (a2 : ℕ) (a3 : ℕ) : Keeps s0 (State.raiseIf s a1 a2 a3) := by
  unfold State.raiseIf
  try dsimp only
  repeat' (first | with_reducible assumption | with_reducible apply State.raise_keeps | split)
theorem State.mapsReset_keeps {s0 s : State} (h : Keeps s0 s)  : Keeps s0 (State.mapsReset s) := by
  unfold State.mapsReset
  try dsimp only
  repeat' (first | with_reducible assumption | with_reducible apply State.setRaw_keeps | with_reducible apply OptKeeps.map | with_reducible apply OptKeeps.mapSnd | with_reducible apply foldl_keeps_id | with_reducible apply foldl_keeps_fst | with_reducible apply foldl_keeps_snd | split | (intro) | fail_if_no_progress with_reducible apply Keeps.lit | with_reducible exact Nat.le_refl _)
theorem State.strapSample_keeps {s0 s : State} (h : Keeps s0 s) (a1 : StrapPins) : Keeps s0 (State.strapSample s a1) := by
  unfold State.strapSample
  try dsimp only
  repeat' (first | with_reducible assumption | with_reducible apply foldl_keeps_id | with_reducible apply foldl_keeps_fst | with_reducible apply foldl_keeps_snd | split | (intro) | (refine keeps_snd ?_ (by with_reducible assumption)) | (refine keeps_fst ?_ (by with_reducible assumption)) | fail_if_no_progress with_reducible apply Keeps.lit | with_reducible exact Nat.le_refl _ | exact Nat.le_succ _ | (fail_if_no_progress dsimp only))
theorem State.takeStraps_keeps {s0 s : State} (h : Keeps s0 s) (a1 : StrapPins) (a2 : BitVec 9) (hm : s0.mode ≠ .flush) : Keeps s0 (State.takeStraps s a1 a2) := by
  unfold State.takeStraps
  try dsimp only
  repeat' (first | with_reducible assumption | (exact absurd (by with_reducible assumption) hm) | with_reducible apply State.setFld_keeps | with_reducible apply State.setRaw_keeps | with_reducible apply State.raiseIf_keeps | with_reducible apply State.applyHard_keeps | with_reducible apply State.mapsReset_keeps | with_reducible apply State.setQd_keeps | with_reducible apply State.setMode_keeps | with_reducible apply OptKeeps.map | with_reducible apply OptKeeps.mapSnd | with_reducible apply foldl_keeps_id | with_reducible apply foldl_keeps_fst | with_reducible apply foldl_keeps_snd | split | (intro) | fail_if_no_progress with_reducible apply Keeps.lit | with_reducible exact Nat.le_refl _)
theorem State.strapsIn_keeps {s0 s : State} (h : Keeps s0 s) (a1 : StrapPins) (hm : s0.mode ≠ .flush) : Keeps s0 (State.strapsIn s a1) := by
  unfold State.strapsIn
  try dsimp only
  repeat' (first | with_reducible assumption | (exact absurd (by with_reducible assumption) hm) | with_reducible apply State.strapSample_keeps | with_reducible apply State.takeStraps_keeps | split | (intro) | fail_if_no_progress with_reducible apply Keeps.lit | with_reducible exact Nat.le_refl _ | exact Nat.le_succ _ | (fail_if_no_progress dsimp only))
theorem execStrapsTaken_keeps {s0 s : State} (h : Keeps s0 s) (a0 : StrapPins) : Out.Keeps (execStrapsTaken a0 s) s0 := by
  unfold execStrapsTaken
  refine Out.keeps_next ?_
  try dsimp only
  repeat' (first | with_reducible assumption | (exact absurd (h.flush (by with_reducible assumption)) (by simp_all)) | with_reducible apply State.strapsIn_keeps | split | (intro) | fail_if_no_progress with_reducible apply Keeps.lit | with_reducible exact Nat.le_refl _ | exact Nat.le_succ _ | (fail_if_no_progress dsimp only))
theorem State.strapsLate_keeps {s0 s : State} (h : Keeps s0 s) (a1 : StrapPins) (a2 : BitVec 9) (hm : s0.mode ≠ .flush) : Keeps s0 (State.strapsLate s a1 a2) := by
  unfold State.strapsLate
  try dsimp only
  repeat' (first | with_reducible assumption | (exact absurd (by with_reducible assumption) hm) | with_reducible apply State.strapSample_keeps | with_reducible apply State.takeStraps_keeps | split | (intro) | fail_if_no_progress with_reducible apply Keeps.lit | with_reducible exact Nat.le_refl _ | exact Nat.le_succ _ | (fail_if_no_progress dsimp only))
theorem execStrapTimeout_keeps {s0 s : State} (h : Keeps s0 s) (a0 : StrapPins) (a1 : BitVec 9) : Out.Keeps (execStrapTimeout a0 a1 s) s0 := by
  unfold execStrapTimeout
  refine Out.keeps_next ?_
  try dsimp only
  repeat' (first | with_reducible assumption | (exact absurd (h.flush (by with_reducible assumption)) (by simp_all)) | with_reducible apply State.strapsLate_keeps | split | (intro) | fail_if_no_progress with_reducible apply Keeps.lit | with_reducible exact Nat.le_refl _ | exact Nat.le_succ _ | (fail_if_no_progress dsimp only))
theorem State.phase_keeps {s0 s : State} (h : Keeps s0 s) (a1 : ℕ) : Keeps s0 (State.phase s a1) := by
  unfold State.phase
  try dsimp only
  repeat' (first | with_reducible assumption | with_reducible apply State.setFld_keeps)
theorem State.romIdent_keeps {s0 s : State} (h : Keeps s0 s)  : Keeps s0 (State.romIdent s) := by
  unfold State.romIdent
  exact State.extendObj_keeps (State.extend_keeps (h.bmemC _ fun c => memPut_wf _ _ _ c.bmem) _ _ _ _ _) _ _ _ _
theorem State.cacheRec_keeps {s0 s : State} (h : Keeps s0 s) (a1 : ℕ) (a2 : Option PRec) : Keeps s0 (State.cacheRec s a1 a2) := by
  unfold State.cacheRec
  try dsimp only
  repeat' (first | with_reducible assumption | (with_reducible exact Keeps.bmemC (by with_reducible assumption) _ fun c => memBlit_wf _ _ _ _ c.bmem (memSlice_wf _ _ _ _ c.store)) | (with_reducible exact Keeps.bmemC (by with_reducible assumption) _ fun c => memBlit_wf _ _ _ _ c.bmem rfl) | split)
theorem State.measRec_keeps {s0 s : State} (h : Keeps s0 s) (a1 : ℕ) (a2 : ℕ) (a3 : ℕ) (a4 : ℕ) (a5 : ℕ) : Keeps s0 (State.measRec s a1 a2 a3 a4 a5).2 := by
  unfold State.measRec
  have ho := State.objRead_keeps h (s.cacheByte + a4) 4096
  generalize s.objRead (s.cacheByte + a4) 4096 = o at ho ⊢
  dsimp only
  split
  · refine keeps_of_snd ?_ rfl
    split
    · exact State.extendObj_keeps ho _ _ _ _
    · exact State.extendObj_keeps ho _ _ _ _
  · exact keeps_of_snd (State.setFld_keeps (State.extendObj_keeps ho _ _ _ _) _ _ _ _) rfl
theorem State.measRecs_keeps {s0 s : State} (h : Keeps s0 s)  : Keeps s0 (State.measRecs s).2.2 := by
  unfold State.measRecs
  exact keeps_of_snd2 (State.measRec_keeps (State.measRec_keeps h _ _ _ _ _) _ _ _ _ _) rfl
theorem State.fillCe_keeps {s0 s : State} (h : Keeps s0 s) (a1 : NodeId) (a2 : ℕ) : Keeps s0 (State.fillCe s a1 a2) := by
  unfold State.fillCe
  try dsimp only
  repeat' (first | with_reducible assumption | with_reducible apply State.entCe_keeps | with_reducible apply State.raise_keeps | split | (intro) | (refine keeps_snd ?_ (by with_reducible assumption)) | (refine keeps_fst ?_ (by with_reducible assumption)) | fail_if_no_progress with_reducible apply Keeps.lit | with_reducible exact Nat.le_refl _ | exact Nat.le_succ _ | (fail_if_no_progress dsimp only))
theorem State.fillBad_keeps {s0 s : State} (h : Keeps s0 s) (a1 : ℕ) : Keeps s0 (State.fillBad s a1) := by
  unfold State.fillBad
  try dsimp only
  repeat' (first | with_reducible assumption | with_reducible apply State.raise_keeps | with_reducible apply State.recCommit_keeps | with_reducible apply OptKeeps.map | with_reducible apply OptKeeps.mapSnd | split | (intro) | (refine keeps_snd (State.recCommit_keeps ?_ _ _ _ ) (by with_reducible assumption)) | fail_if_no_progress with_reducible apply Keeps.lit | with_reducible exact Nat.le_refl _ | exact Nat.le_succ _ | (fail_if_no_progress dsimp only))
theorem State.fillRead_keeps {s0 s : State} (h : Keeps s0 s) (a1 : List ℕ) : Keeps s0 (State.fillRead s a1) := by
  unfold State.fillRead
  dsimp only
  have hk : Keeps s0 { s with free := s.free + 2 } := h.upd rfl rfl rfl (Nat.le_add_right _ _) rfl rfl rfl rfl rfl rfl rfl rfl rfl rfl rfl
  have hf := foldl_keeps_id (fun (u : State) (n : NodeId) => if bt (Config.freeValue s.free) n.val then u.fillCe n
    ((Config.freeValue (s.free + 1)).toNat + n.val) else u) s.nodesIn _ hk fun b n hb => by
      split
      · exact State.fillCe_keeps hb n _
      · exact hb
  split
  · exact State.fillBad_keeps hf _
  · exact hf
theorem State.checkedFill_keeps {s0 s : State} (h : Keeps s0 s)  : Keeps s0 (State.checkedFill s) := by
  unfold State.checkedFill
  try dsimp only
  repeat' (first | with_reducible assumption | with_reducible apply State.setMac_keeps | with_reducible apply State.modNd_keeps | with_reducible apply State.setQd_keeps | with_reducible apply State.setFld_keeps | with_reducible apply State.fillRead_keeps | with_reducible apply OptKeeps.map | with_reducible apply OptKeeps.mapSnd | with_reducible apply foldl_keeps_id | with_reducible apply foldl_keeps_fst | with_reducible apply foldl_keeps_snd | split | (intro) | fail_if_no_progress with_reducible apply Keeps.lit | with_reducible exact Nat.le_refl _ | exact Nat.le_succ _ | (fail_if_no_progress dsimp only))
theorem State.bootRecs_keeps {s0 s : State} (h : Keeps s0 s)  : Keeps s0 (State.bootRecs s).2.2 := by
  unfold State.bootRecs
  exact keeps_of_snd2 (State.setFld_keeps (State.setFld_keeps (State.measRecs_keeps (State.cacheRec_keeps (State.cacheRec_keeps
    (State.recPick_keeps (State.recPick_keeps h _) _) _ _) _ _)) _ _ _ _) _ _ _ _) rfl
theorem State.bootApply_keeps {s0 s : State} (h : Keeps s0 s) (a1 : Option PRec) (a2 : Option PRec) : Keeps s0 (State.bootApply s a1 a2) := by
  unfold State.bootApply
  try dsimp only
  repeat' (first | with_reducible assumption | with_reducible apply State.applyConfig_keeps | with_reducible apply State.retireMap_keeps | with_reducible apply State.applySoft_keeps | split | (intro) | (refine keeps_snd ?_ (by with_reducible assumption)) | (refine keeps_fst ?_ (by with_reducible assumption)) | fail_if_no_progress with_reducible apply Keeps.lit | with_reducible exact Nat.le_refl _ | exact Nat.le_succ _ | (fail_if_no_progress dsimp only))
theorem State.bootMeta_keeps {s0 s : State} (h : Keeps s0 s)  : Keeps s0 (State.bootMeta s) := by
  unfold State.bootMeta
  try dsimp only
  repeat' (first | with_reducible assumption | with_reducible apply State.recPick_keeps | with_reducible apply State.romWrite_keeps | split | (intro) | (refine keeps_snd (State.recPick_keeps ?_ _ ) (by with_reducible assumption)) | (refine keeps_snd ?_ (by with_reducible assumption)) | (refine keeps_fst ?_ (by with_reducible assumption)) | fail_if_no_progress with_reducible apply Keeps.lit | with_reducible exact Nat.le_refl _ | exact Nat.le_succ _ | (fail_if_no_progress dsimp only))
theorem State.bootLife_keeps {s0 s : State} (h : Keeps s0 s) (a1 : Bool) : Keeps s0 (State.bootLife s a1) := by
  unfold State.bootLife
  try dsimp only
  repeat' (first | with_reducible assumption | with_reducible apply State.lifeCommit_keeps | with_reducible apply State.recPick_keeps | split | (intro) | (refine keeps_snd (State.recPick_keeps ?_ _ ) (by with_reducible assumption)) | fail_if_no_progress with_reducible apply Keeps.lit | with_reducible exact Nat.le_refl _ | exact Nat.le_succ _ | (fail_if_no_progress dsimp only))
theorem State.bootDown_keeps {s0 s : State} (h : Keeps s0 s) (a1 : Bool) : Keeps s0 (State.bootDown s a1) := by
  unfold State.bootDown
  try dsimp only
  repeat' (first | with_reducible assumption | with_reducible apply State.recPick_keeps | with_reducible apply State.setFld_keeps | with_reducible apply State.bootLife_keeps | with_reducible apply State.recCommit_keeps | with_reducible apply State.checkedFill_keeps | split | (intro) | (refine keeps_snd (State.recPick_keeps ?_ _ ) (by with_reducible assumption)) | (refine keeps_snd (State.recCommit_keeps ?_ _ _ _ ) (by with_reducible assumption)) | (refine keeps_snd ?_ (by with_reducible assumption)) | (refine keeps_fst ?_ (by with_reducible assumption)) | fail_if_no_progress with_reducible apply Keeps.lit | with_reducible exact Nat.le_refl _ | exact Nat.le_succ _ | (fail_if_no_progress dsimp only))
theorem State.phase2_keeps {s0 s : State} (h : Keeps s0 s) (a1 : Bool) : Keeps s0 (State.phase2 s a1) := by
  unfold State.phase2
  try dsimp only
  repeat' (first | with_reducible assumption | with_reducible apply State.bootRecs_keeps | with_reducible apply State.phase_keeps | with_reducible apply State.bootDown_keeps | with_reducible apply State.bootMeta_keeps | with_reducible apply State.bootApply_keeps | (intro) | (refine keeps_snd2 (State.bootRecs_keeps ?_ ) (by with_reducible assumption)) | fail_if_no_progress with_reducible apply Keeps.lit | with_reducible exact Nat.le_refl _ | exact Nat.le_succ _ | (fail_if_no_progress dsimp only))
theorem State.srcRead_keeps {s0 s : State} (h : Keeps s0 s) (a1 : Bool) (a2 : ℕ) (a3 : ℕ) : Keeps s0 (State.srcRead s a1 a2 a3).2.2 := by
  unfold State.srcRead
  try dsimp only
  repeat' (first | with_reducible assumption | with_reducible apply State.psBytes_keeps | with_reducible apply State.objRead_keeps | split | (intro) | (refine keeps_snd2 (State.psBytes_keeps ?_ _ _ ) (by with_reducible assumption)) | (refine keeps_snd2 (State.objRead_keeps ?_ _ _ ) (by with_reducible assumption)) | fail_if_no_progress with_reducible apply Keeps.lit | with_reducible exact Nat.le_refl _ | exact Nat.le_succ _ | (fail_if_no_progress dsimp only))
theorem State.copyObjects_keeps {s0 s : State} (h : Keeps s0 s) (ps : Bool) (b : Nat) : Keeps s0 (s.copyObjects ps b).2 := by
  unfold State.copyObjects
  have hd := State.srcRead_keeps h ps b 64
  generalize s.srcRead ps b 64 = d at hd ⊢
  refine keeps_of_snd (foldl_keeps_snd _ _ _ ?_ fun r e hr => ?_) rfl
  · exact hd.bmemC _ fun c => memPut_wf _ _ _ c.bmem
  · exact keeps_of_snd ((State.srcRead_keeps hr ps _ _).bmemC _ fun c => memPut_wf _ _ _ c.bmem) rfl
theorem Img.table_wf (i : Img) (m : Memory) (tb : Nat) (h : Memory.wf m = true) : Memory.wf (i.table m tb) = true := by
  unfold Img.table
  have k1 : ∀ (r : BitVec 64) (l : List Nat) (m : Memory), Memory.wf m = true →
      Memory.wf (l.foldl (fun m k => memWrite m (tb + 4 * k) (bf r 63 32) 4) m) = true := by
    intro r l
    induction l with
    | nil => exact fun m h => h
    | cons a l ih => exact fun m h => ih _ (memWrite_wf _ _ _ _ h)
  generalize i.recs = l
  induction l generalizing m with
  | nil => exact h
  | cons a l ih => exact ih _ (k1 a _ _ h)
theorem shadowImage_wf (h v : Img) (hh : Memory.wf h.mem = true) (hv : Memory.wf v.mem = true) :
    Memory.wf (shadowImage h v) = true :=
  Img.table_wf _ _ _ (Img.table_wf _ _ _ (memBlit_wf _ _ _ _ (memBlit_wf _ _ _ _ rfl (memSlice_wf _ _ _ _ hh)) (memSlice_wf _ _ _ _ hv)))
theorem stagedPut_wf (b n : Nat) (l : List (Nat × BitVec 8)) (m : Memory) (h : Memory.wf m = true) :
    Memory.wf (l.foldl (fun m c => if c.1 < n then smSet memZero m (b + c.1) c.2 else m) m) = true := by
  induction l generalizing m with
  | nil => exact h
  | cons a l ih =>
    refine ih _ ?_
    dsimp only
    split
    · exact smWf_smSet _ _ _ _ h
    · exact h
theorem State.readImg_keeps {s0 s : State} (h : Keeps s0 s) (a1 : List ℕ) (a2 : ℕ) : Keeps s0 (State.readImg s a1 a2).2 := by
  unfold State.readImg
  try dsimp only
  repeat' (first | with_reducible assumption | with_reducible apply State.objRead_keeps | split | (intro) | (refine keeps_snd2 (State.objRead_keeps ?_ _ _ ) (by with_reducible assumption)) | (refine keeps_snd ?_ (by with_reducible assumption)) | (refine keeps_fst ?_ (by with_reducible assumption)) | fail_if_no_progress with_reducible apply Keeps.lit | with_reducible exact Nat.le_refl _ | exact Nat.le_succ _ | (fail_if_no_progress dsimp only))
theorem State.readImg_wf (s : State) (bad : List Nat) (k : Nat) : Memory.wf (s.readImg bad k).1.mem = true := by
  unfold State.readImg
  split
  · dsimp only
    split
    · exact cellsOf_wf _ _
    · exact cellsOf_wf _ _
  · rfl
theorem State.readSet_keeps {s0 s : State} (h : Keeps s0 s) (bad : List Nat) : Keeps s0 (s.readSet bad).2 := by
  unfold State.readSet
  exact keeps_of_snd (State.readImg_keeps (State.readImg_keeps (State.readImg_keeps h _ _) _ _) _ _) rfl
theorem State.readSet_wf (s : State) (bad : List Nat) :
    Memory.wf (s.readSet bad).1.h.mem = true ∧ Memory.wf (s.readSet bad).1.v.mem = true := by
  unfold State.readSet
  exact ⟨State.readImg_wf _ _ _, State.readImg_wf _ _ _⟩
theorem State.readImgs_wf (s : State) (bad : List Nat) (i : ImgSet) (h : (s.readImgs bad).1 = some i) :
    Memory.wf i.h.mem = true ∧ Memory.wf i.v.mem = true := by
  unfold State.readImgs at h
  dsimp only at h
  split at h
  · have e := Option.some.inj h
    exact e ▸ State.readSet_wf _ _
  · cases h
theorem State.readImgs_keeps {s0 s : State} (h : Keeps s0 s) (bad : List Nat) : Keeps s0 (s.readImgs bad).2 := by
  unfold State.readImgs
  have hd := State.objRead_keeps h s.cacheByte 64
  generalize s.objRead s.cacheByte 64 = d at hd ⊢
  dsimp only
  split
  · exact keeps_of_snd (State.readSet_keeps hd _) rfl
  · exact keeps_of_snd hd rfl
theorem State.measImages_keeps {s0 s : State} (h : Keeps s0 s) (a1 : Option ImgSet) : Keeps s0 (State.measImages s a1) := by
  unfold State.measImages
  split
  · exact foldl_keeps_id _ _ _ h fun _ _ hb => State.extendObj_keeps hb _ _ _ _
  · exact foldl_keeps_id _ _ _ h fun _ _ hb => State.extendObj_keeps hb _ _ _ _
theorem State.loadAll_keeps {s0 s : State} (h : Keeps s0 s) (i : ImgSet) (full chv : Bool) (hh : Memory.wf i.h.mem = true)
    (hv : Memory.wf i.v.mem = true) : Keeps s0 (s.loadAll i full chv) := by
  unfold State.loadAll
  dsimp only
  have hb := h.bmemC _ fun c => memBlit_wf _ _ s.shadowByte 65536 c.bmem (memSlice_wf _ 0 65536 s.shadowByte (shadowImage_wf i.h i.v hh hv))
  repeat' (first | with_reducible assumption | with_reducible apply State.setFld_keeps | with_reducible apply State.setRaw_keeps | with_reducible apply State.quadLoad_keeps | with_reducible apply foldl_keeps_id | split | (intro) | fail_if_no_progress with_reducible apply Keeps.lit | with_reducible exact Nat.le_refl _)
theorem State.protect_keeps {s0 s : State} (h : Keeps s0 s)  : Keeps s0 (State.protect s) := by
  unfold State.protect
  try dsimp only
  repeat' (first | with_reducible assumption | with_reducible apply State.psDo_keeps | split | (intro) | (refine keeps_snd (State.psDo_keeps ?_ _ _ _ _ _ ) (by with_reducible assumption)) | fail_if_no_progress with_reducible apply Keeps.lit | with_reducible exact Nat.le_refl _ | exact Nat.le_succ _ | (fail_if_no_progress dsimp only))
theorem State.startImages_keeps {s0 s : State} (h : Keeps s0 s) (i : ImgSet) (hold : Bool) (hh : Memory.wf i.h.mem = true)
    (hv : Memory.wf i.v.mem = true) : Keeps s0 (s.startImages i hold) := by
  unfold State.startImages
  dsimp only
  split
  · exact State.loadAll_keeps h i _ _ hh hv
  · exact State.protect_keeps (State.phase_keeps (State.loadAll_keeps h i _ _ hh hv) _)
theorem State.loadImages_keeps {s0 s : State} (h : Keeps s0 s) (a1 : List ℕ) (a2 : Bool) (hm : s0.mode ≠ .flush) : Keeps s0 (State.loadImages s a1 a2) := by
  unfold State.loadImages
  have hi := State.readImgs_keeps h a1
  have hw := State.readImgs_wf s a1
  generalize s.readImgs a1 = r at hi hw ⊢
  dsimp only
  have hs := State.setFld_keeps (State.measImages_keeps hi r.1) HA_IMG_STAT 12 0 ((r.2.measImages r.1).imgErrs r.1).stat
  generalize (r.2.measImages r.1).setFld HA_IMG_STAT 12 0 ((r.2.measImages r.1).imgErrs r.1).stat = u at hs ⊢
  generalize ((r.2.measImages r.1).imgErrs r.1).none = b
  split
  · next i e =>
    have hr : r.1 = some i := (Option.filter_eq_some_iff.mp e).1
    exact State.startImages_keeps hs i _ (hw i hr).1 (hw i hr).2
  · exact State.safeEntry_keeps (State.phase_keeps hs _) _ hm
theorem State.reloadObjects_keeps {s0 s : State} (h : Keeps s0 s)  : Keeps s0 (State.reloadObjects s).2 := by
  unfold State.reloadObjects
  try dsimp only
  repeat' (first | with_reducible assumption | (refine State.copyObjects_keeps ?_ _ _ fun c => c.bmem) | with_reducible apply State.setFld_keeps | with_reducible apply State.copyObjects_keeps | split)
theorem State.bootObjects_keeps {s0 s : State} (h : Keeps s0 s)  : Keeps s0 (State.bootObjects s).2 := by
  unfold State.bootObjects
  split
  · split
    · exact State.copyObjects_keeps h _ _
    · exact State.copyObjects_keeps h _ _
  · exact State.reloadObjects_keeps h
theorem State.phase4_keeps {s0 s : State} (h : Keeps s0 s) (hm : s0.mode ≠ .flush) : Keeps s0 (State.phase4 s) := by
  unfold State.phase4
  dsimp only
  have hr := State.bootObjects_keeps (State.phase_keeps h 4)
  generalize (s.phase 4).bootObjects = r at hr ⊢
  have hk : Keeps s0 { r.2 with bootCopied := true } :=
    hr.upd rfl rfl rfl (le_refl _) rfl rfl rfl rfl rfl rfl rfl rfl rfl rfl rfl
  exact State.loadImages_keeps hk _ _ hm
theorem State.phase3_keeps {s0 s : State} (h : Keeps s0 s) (hm : s0.mode ≠ .flush) : Keeps s0 (State.phase3 s) := by
  unfold State.phase3
  try dsimp only
  repeat' (first | with_reducible assumption | (exact absurd (by with_reducible assumption) hm) | with_reducible apply State.phase_keeps | with_reducible apply State.phase4_keeps | split)
theorem State.bootRun_keeps {s0 s : State} (h : Keeps s0 s) (hm : s0.mode ≠ .flush) : Keeps s0 (State.bootRun s) := by
  unfold State.bootRun
  try dsimp only
  repeat' (first | with_reducible assumption | (exact absurd (by with_reducible assumption) hm) | with_reducible apply State.phase3_keeps | with_reducible apply State.phase2_keeps | with_reducible apply State.romIdent_keeps | with_reducible apply State.phase_keeps)
theorem execFillEnd_keeps {s0 s : State} (h : Keeps s0 s)  : Out.Keeps (execFillEnd s) s0 := by
  unfold execFillEnd
  refine Out.keeps_next ?_
  try dsimp only
  repeat' (first | with_reducible assumption | (exact absurd (h.flush (by with_reducible assumption)) (by simp_all)) | with_reducible apply State.goOn_keeps | with_reducible apply State.bootRun_keeps | with_reducible apply State.setMode_keeps | split | (intro) | fail_if_no_progress with_reducible apply Keeps.lit | with_reducible exact Nat.le_refl _ | exact Nat.le_succ _ | (fail_if_no_progress dsimp only))
theorem State.bootCtrl_keeps {s0 s : State} (h : Keeps s0 s) (a1 : BitVec 32) : Keeps s0 (State.bootCtrl s a1) := by
  unfold State.bootCtrl
  try dsimp only
  repeat' (first | with_reducible assumption | (exact absurd (h.flush (by with_reducible assumption)) (by simp_all)) | with_reducible apply State.setRaw_keeps | with_reducible apply State.phase4_keeps | split | (intro))
theorem execBootReady_keeps {s0 s : State} (h : Keeps s0 s) (a0 : Src) (a1 : BitVec 32) (a2 : List (ℕ × BitVec 8)) : Out.Keeps (execBootReady a0 a1 a2 s) s0 := by
  unfold execBootReady
  refine Out.keeps_next ?_
  try dsimp only
  repeat' (first | with_reducible assumption | (with_reducible refine stagedPut_wf _ _ _ _ ?_) | with_reducible apply State.regDo_keeps | with_reducible apply State.goOn_keeps | with_reducible apply State.bootCtrl_keeps | with_reducible apply foldl_keeps_id | with_reducible apply foldl_keeps_fst | with_reducible apply foldl_keeps_snd | split | (intro) | fail_if_no_progress with_reducible apply Keeps.lit | with_reducible exact Nat.le_refl _ | exact Nat.le_succ _ | fail_if_no_progress with_reducible apply Keeps.litBmem)

end Sys2Proof.Machine
end

