-- ==== Sys2Proof/Laws/Keeps/EngineEvents.lean ====
section
/-! SUPPORT. Sys2Proof/Laws/Keeps/EngineEvents.lean: what the operations of Machine/EngineEvents.lean keep. -/

namespace Sys2Proof.Machine

theorem State.dispatchEvt_keeps {s0 s : State} (h : Keeps s0 s) (a1 : NodeId) (a2 : Fin 8) (a3 : ℕ) (a4 : ℕ) : Keeps s0 (State.dispatchEvt s a1 a2 a3 a4) := by
  unfold State.dispatchEvt
  try dsimp only
  repeat' (first | with_reducible assumption | with_reducible apply State.dispatchIf_keeps)
theorem execHostRequestEvent_keeps {s0 s : State} (h : Keeps s0 s) (a0 : NodeId) (a1 : Fin 8) : Out.Keeps (execHostRequestEvent a0 a1 s) s0 := by
  unfold execHostRequestEvent
  refine Out.keeps_next ?_
  try dsimp only
  repeat' (first | with_reducible assumption | with_reducible apply State.dispatchEvt_keeps)
theorem execWriteBackEvent_keeps {s0 s : State} (h : Keeps s0 s) (a0 : NodeId) (a1 : Fin 8) : Out.Keeps (execWriteBackEvent a0 a1 s) s0 := by
  unfold execWriteBackEvent
  refine Out.keeps_next ?_
  try dsimp only
  repeat' (first | with_reducible assumption | with_reducible apply State.dispatchEvt_keeps)
theorem execAssistFault_keeps {s0 s : State} (h : Keeps s0 s) (a0 : NodeId) (a1 : Fin 8) : Out.Keeps (execAssistFault a0 a1 s) s0 := by
  unfold execAssistFault
  refine Out.keeps_next ?_
  try dsimp only
  repeat' (first | with_reducible assumption | with_reducible apply State.dispatchEvt_keeps)
theorem execRecallStart_keeps {s0 s : State} (h : Keeps s0 s) (a0 : NodeId) (a1 : Fin 8) : Out.Keeps (execRecallStart a0 a1 s) s0 := by
  unfold execRecallStart
  refine Out.keeps_next ?_
  try dsimp only
  repeat' (first | with_reducible assumption | with_reducible apply State.dispatchEvt_keeps)
theorem execLineCopyStart_keeps {s0 s : State} (h : Keeps s0 s) (a0 : NodeId) (a1 : Fin 8) : Out.Keeps (execLineCopyStart a0 a1 s) s0 := by
  unfold execLineCopyStart
  refine Out.keeps_next ?_
  try dsimp only
  repeat' (first | with_reducible assumption | with_reducible apply State.dispatchEvt_keeps)
theorem execWakeHostFlow_keeps {s0 s : State} (h : Keeps s0 s) (a0 : NodeId) (a1 : Fin 8) : Out.Keeps (execWakeHostFlow a0 a1 s) s0 := by
  unfold execWakeHostFlow
  refine Out.keeps_next ?_
  try dsimp only
  repeat' (first | with_reducible assumption | with_reducible apply State.dispatchEvt_keeps)
theorem execWakeInternalFlow_keeps {s0 s : State} (h : Keeps s0 s) (a0 : NodeId) (a1 : Fin 8) : Out.Keeps (execWakeInternalFlow a0 a1 s) s0 := by
  unfold execWakeInternalFlow
  refine Out.keeps_next ?_
  try dsimp only
  repeat' (first | with_reducible assumption | with_reducible apply State.dispatchEvt_keeps)
theorem execManagementMessage_keeps {s0 s : State} (h : Keeps s0 s) (a0 : Thr) : Out.Keeps (execManagementMessage a0 s) s0 := by
  unfold execManagementMessage
  refine Out.keeps_next ?_
  try dsimp only
  repeat' (first | with_reducible assumption | with_reducible apply State.dispatchIf_keeps)
theorem State.inboxTake_keeps {s0 s : State} (h : Keeps s0 s) (a1 : NodeId) (a2 : ℕ) : Keeps s0 (State.inboxTake s a1 a2) := by
  unfold State.inboxTake
  try dsimp only
  repeat' (first | with_reducible assumption | with_reducible apply State.modNd_keeps)
theorem State.serveWork_keeps {s0 s : State} (h : Keeps s0 s) (a1 : NodeId) (a2 : ℕ) (a3 : ℕ) (a4 : ℕ) : Keeps s0 (State.serveWork s a1 a2 a3 a4) := by
  unfold State.serveWork
  try dsimp only
  repeat' (first | with_reducible assumption | with_reducible apply State.inboxTake_keeps | with_reducible apply State.tallocGo_keeps | with_reducible apply State.goOn_keeps | with_reducible apply State.dmaMsg_keeps | split)
theorem execLineCopy_keeps {s0 s : State} (h : Keeps s0 s) (a0 : NodeId) (a1 : Fin 16) : Out.Keeps (execLineCopy a0 a1 s) s0 := by
  unfold execLineCopy
  refine Out.keeps_next ?_
  try dsimp only
  repeat' (first | with_reducible assumption | with_reducible apply State.serveWork_keeps)
theorem execSectorRecall_keeps {s0 s : State} (h : Keeps s0 s) (a0 : NodeId) (a1 : Fin 16) : Out.Keeps (execSectorRecall a0 a1 s) s0 := by
  unfold execSectorRecall
  refine Out.keeps_next ?_
  try dsimp only
  repeat' (first | with_reducible assumption | with_reducible apply State.serveWork_keeps)
theorem execVisit_keeps {s0 s : State} (h : Keeps s0 s) (a0 : NodeId) (a1 : Fin 16) : Out.Keeps (execVisit a0 a1 s) s0 := by
  unfold execVisit
  refine Out.keeps_next ?_
  try dsimp only
  repeat' (first | with_reducible assumption | with_reducible apply State.modNd_keeps | with_reducible apply State.inboxTake_keeps | with_reducible apply State.goOn_keeps | with_reducible apply State.visitPoll_keeps | split | (intro) | (refine keeps_snd ?_ (by with_reducible assumption)) | (refine keeps_fst ?_ (by with_reducible assumption)) | fail_if_no_progress with_reducible apply Keeps.lit | with_reducible exact Nat.le_refl _ | exact Nat.le_succ _ | (fail_if_no_progress dsimp only))
theorem execVisitDone_keeps {s0 s : State} (h : Keeps s0 s) (a0 : NodeId) (a1 : BitVec 10) (a2 : Bool) (a3 : BitVec 4) : Out.Keeps (execVisitDone a0 a1 a2 a3 s) s0 := by
  unfold execVisitDone
  refine Out.keeps_next ?_
  try dsimp only
  repeat' (first | with_reducible assumption | with_reducible apply State.consStart_keeps | with_reducible apply State.raise_keeps | with_reducible apply State.goOn_keeps | with_reducible apply State.visitEnd_keeps | split)

end Sys2Proof.Machine
end

