-- ==== Sys2Proof/Laws/Keeps/ChervilEvents.lean ====
section
/-! SUPPORT. Sys2Proof/Laws/Keeps/ChervilEvents.lean: what the operations of Machine/ChervilEvents.lean keep. -/

namespace Sys2Proof.Machine

theorem State.chvDispatch_keeps {s0 s : State} (h : Keeps s0 s) (a1 : Fin 8) (a2 : ℕ) : Keeps s0 (State.chvDispatch s a1 a2) := by
  unfold State.chvDispatch
  try dsimp only
  repeat' (first | with_reducible assumption | with_reducible apply State.dispatchIf_keeps)
theorem State.chvServed_keeps {s0 s : State} (h : Keeps s0 s) (a1 : Fin 8) (a2 : ℕ) (a3 : BmErr) : Keeps s0 (State.chvServed s a1 a2 a3) := by
  unfold State.chvServed
  try dsimp only
  repeat' (first | with_reducible assumption | with_reducible apply State.chvDispatch_keeps | with_reducible apply State.goOn_keeps | split | (intro) | (refine keeps_snd ?_ (by with_reducible assumption)) | (refine keeps_fst ?_ (by with_reducible assumption)) | fail_if_no_progress with_reducible apply Keeps.lit | with_reducible exact Nat.le_refl _ | exact Nat.le_succ _ | (fail_if_no_progress dsimp only))
theorem State.timerPoll_keeps {s0 s : State} (h : Keeps s0 s)  : Keeps s0 (State.timerPoll s) := by
  unfold State.timerPoll
  try dsimp only
  repeat' (first | with_reducible assumption | with_reducible apply State.chvEvent_keeps | split | (intro) | fail_if_no_progress with_reducible apply Keeps.lit | with_reducible exact Nat.le_refl _)
theorem execEvMailbox_keeps {s0 s : State} (h : Keeps s0 s) (a0 : Fin 8) : Out.Keeps (execEvMailbox a0 s) s0 := by
  unfold execEvMailbox
  refine Out.keeps_next ?_
  try dsimp only
  repeat' (first | with_reducible assumption | with_reducible apply State.chvDispatch_keeps)
theorem execEvSession_keeps {s0 s : State} (h : Keeps s0 s) (a0 : Fin 8) (a1 : BmErr) : Out.Keeps (execEvSession a0 a1 s) s0 := by
  unfold execEvSession
  refine Out.keeps_next ?_
  try dsimp only
  repeat' (first | with_reducible assumption | with_reducible apply State.chvServed_keeps | with_reducible apply State.sessServe_keeps | split | (intro))
theorem execEvDepart_keeps {s0 s : State} (h : Keeps s0 s) (a0 : Fin 8) (a1 : BmErr) : Out.Keeps (execEvDepart a0 a1 s) s0 := by
  unfold execEvDepart
  refine Out.keeps_next ?_
  try dsimp only
  repeat' (first | with_reducible assumption | with_reducible apply State.chvServed_keeps | with_reducible apply State.departServe_keeps | split | (intro))
theorem execEvError_keeps {s0 s : State} (h : Keeps s0 s) (a0 : Fin 8) : Out.Keeps (execEvError a0 s) s0 := by
  unfold execEvError
  refine Out.keeps_next ?_
  try dsimp only
  repeat' (first | with_reducible assumption | with_reducible apply State.chvDispatch_keeps)
theorem execEvMode_keeps {s0 s : State} (h : Keeps s0 s) (a0 : Fin 8) : Out.Keeps (execEvMode a0 s) s0 := by
  unfold execEvMode
  refine Out.keeps_next ?_
  try dsimp only
  repeat' (first | with_reducible assumption | with_reducible apply State.chvDispatch_keeps)
theorem execEvDma_keeps {s0 s : State} (h : Keeps s0 s) (a0 : Fin 8) : Out.Keeps (execEvDma a0 s) s0 := by
  unfold execEvDma
  refine Out.keeps_next ?_
  try dsimp only
  repeat' (first | with_reducible assumption | with_reducible apply State.chvDispatch_keeps)
theorem execEvMpDetach_keeps {s0 s : State} (h : Keeps s0 s) (a0 : Fin 8) : Out.Keeps (execEvMpDetach a0 s) s0 := by
  unfold execEvMpDetach
  refine Out.keeps_next ?_
  try dsimp only
  repeat' (first | with_reducible assumption | with_reducible apply State.chvDispatch_keeps)
theorem execEvTimer_keeps {s0 s : State} (h : Keeps s0 s) (a0 : Fin 8) : Out.Keeps (execEvTimer a0 s) s0 := by
  unfold execEvTimer
  refine Out.keeps_next ?_
  try dsimp only
  repeat' (first | with_reducible assumption | with_reducible apply State.chvDispatch_keeps | with_reducible apply State.timerPoll_keeps)
theorem execEvFlush_keeps {s0 s : State} (h : Keeps s0 s) (a0 : Fin 8) : Out.Keeps (execEvFlush a0 s) s0 := by
  unfold execEvFlush
  refine Out.keeps_next ?_
  try dsimp only
  repeat' (first | with_reducible assumption | with_reducible apply State.chvDispatch_keeps)
theorem execPmcOvf_keeps {s0 s : State} (h : Keeps s0 s) (a0 : Fin 8) : Out.Keeps (execPmcOvf a0 s) s0 := by
  unfold execPmcOvf
  refine Out.keeps_next ?_
  try dsimp only
  repeat' (first | with_reducible assumption | with_reducible apply State.chvDispatch_keeps)

end Sys2Proof.Machine
end

