-- ==== Sys2Proof/Laws/Keeps/Reset.lean ====
section
/-! SUPPORT. Sys2Proof/Laws/Keeps/Reset.lean: what the operations of Machine/Reset.lean keep. -/

namespace Sys2Proof.Machine

theorem State.regsReset_keeps {s0 s : State} (h : Keeps s0 s)  : Keeps s0 (State.regsReset s) := by
  refine h.of rfl rfl rfl (le_refl _) rfl fun c => { c with regs := ?_ }
  have k := c.regs
  rw [smWf_iff] at k ⊢
  obtain ⟨k1, k2⟩ := k
  unfold State.regsReset
  dsimp only
  generalize s.regs = m at k1 k2
  constructor
  · refine List.Pairwise.filterMap _ (fun a b hab x hx y hy => ?_) k1
    have hx1 : x.1 = a.1 := by
      revert hx
      split
      · split
        · intro hx; cases hx
        · intro hx; cases hx; rfl
      · intro hx; cases hx; rfl
    have hy1 : y.1 = b.1 := by
      revert hy
      split
      · split
        · intro hx; cases hx
        · intro hx; cases hx; rfl
      · intro hx; cases hx; rfl
    rw [hx1, hy1]; exact hab
  · intro x hx
    obtain ⟨e, he, ex⟩ := List.mem_filterMap.mp hx
    revert ex
    split
    · next d hd =>
      split
      · intro hx; cases hx
      · next hn =>
        intro hx; cases hx
        intro q
        rw [show regDefault e.1 = d.reset by simp [regDefault, hd]] at q
        exact hn (.inl q)
    · intro hx; cases hx; exact k2 _ he
theorem State.statReset_keeps {s0 s : State} (h : Keeps s0 s)  : Keeps s0 (State.statReset s) := by
  unfold State.statReset
  try dsimp only
  repeat' (first | with_reducible assumption | with_reducible apply State.setRaw_keeps | with_reducible apply State.setFld_keeps | with_reducible apply foldl_keeps_id | with_reducible apply foldl_keeps_fst | with_reducible apply foldl_keeps_snd | split | (intro))
theorem State.mpReset_keeps {s0 s : State} (h : Keeps s0 s) (a1 : MpId) : Keeps s0 (State.mpReset s a1) := by
  unfold State.mpReset
  try dsimp only
  repeat' (first | with_reducible assumption | with_reducible apply State.setMp_keeps | with_reducible apply State.setHp_keeps | with_reducible apply OptKeeps.map | with_reducible apply OptKeeps.mapSnd | with_reducible apply foldl_keeps_id | with_reducible apply foldl_keeps_fst | with_reducible apply foldl_keeps_snd | split | (intro) | (refine keeps_snd ?_ (by with_reducible assumption)) | (refine keeps_fst ?_ (by with_reducible assumption)) | fail_if_no_progress with_reducible apply Keeps.lit | with_reducible exact Nat.le_refl _ | exact Nat.le_succ _)
theorem State.bmCut_keeps {s0 s : State} (h : Keeps s0 s) (a1 : BmReq) : Keeps s0 (State.bmCut s a1) := by
  unfold State.bmCut
  try dsimp only
  repeat' (first | with_reducible assumption | with_reducible apply State.ovfPut_keeps | with_reducible apply State.ovfCount_keeps | with_reducible apply State.bmStore_keeps | with_reducible apply State.bmLand_keeps | with_reducible apply foldl_keeps_id | with_reducible apply foldl_keeps_fst | with_reducible apply foldl_keeps_snd | split | (intro) | (refine keeps_snd ?_ (by with_reducible assumption)) | (refine keeps_fst ?_ (by with_reducible assumption)) | fail_if_no_progress with_reducible apply Keeps.lit | with_reducible exact Nat.le_refl _ | exact Nat.le_succ _ | (fail_if_no_progress dsimp only))
theorem State.bmReset_keeps {s0 s : State} (h : Keeps s0 s)  : Keeps s0 (State.bmReset s) := by
  unfold State.bmReset
  try dsimp only
  repeat' (first | with_reducible assumption | with_reducible apply State.choose_keeps | with_reducible apply State.bmCut_keeps | with_reducible apply foldl_keeps_id | with_reducible apply foldl_keeps_fst | with_reducible apply foldl_keeps_snd | split | (intro) | (refine keeps_snd (State.choose_keeps ?_ ) (by with_reducible assumption)) | (refine keeps_snd ?_ (by with_reducible assumption)) | (refine keeps_fst ?_ (by with_reducible assumption)) | fail_if_no_progress with_reducible apply Keeps.lit | with_reducible exact Nat.le_refl _)
theorem State.testFill_keeps {s0 s : State} (h : Keeps s0 s) (a1 : QuadId) (a2 : Bool) : Keeps s0 (State.testFill s a1 a2) := by
  unfold State.testFill
  try dsimp only
  repeat' (first | with_reducible assumption | with_reducible apply State.quadLose_keeps | with_reducible apply State.modNd_keeps | with_reducible apply foldl_keeps_id | with_reducible apply foldl_keeps_fst | with_reducible apply foldl_keeps_snd | split | (intro))
theorem State.quadReset_keeps {s0 s : State} (h : Keeps s0 s) (a1 : QuadId) : Keeps s0 (State.quadReset s a1) := by
  unfold State.quadReset
  try dsimp only
  repeat' (first | with_reducible assumption | with_reducible apply State.setQd_keeps | with_reducible apply State.quadLose_keeps | with_reducible apply State.testFill_keeps | split)
theorem State.mbReply_keeps {s0 s : State} (h : Keeps s0 s) (a1 : ℕ) (a2 : List Byte) (a3 : Bool) : Keeps s0 (State.mbReply s a1 a2 a3) := by
  unfold State.mbReply
  try dsimp only
  repeat' (first | with_reducible assumption | with_reducible apply State.setRaw_keeps | with_reducible apply State.setFld_keeps | with_reducible apply foldl_keeps_id | with_reducible apply foldl_keeps_fst | with_reducible apply foldl_keeps_snd | split | (intro) | fail_if_no_progress with_reducible apply Keeps.lit | with_reducible exact Nat.le_refl _)
theorem State.mbAbort_keeps {s0 s : State} (h : Keeps s0 s)  : Keeps s0 (State.mbAbort s) := by
  unfold State.mbAbort
  try dsimp only
  repeat' (first | with_reducible assumption | with_reducible apply State.mbReply_keeps | split)
theorem State.stCut_keeps {s0 s : State} (h : Keeps s0 s)  : Keeps s0 (State.stCut s) := by
  unfold State.stCut
  try dsimp only
  repeat' (first | with_reducible assumption | with_reducible apply State.stAbandon_keeps | split)
theorem State.epCut_keeps {s0 s : State} (h : Keeps s0 s)  : Keeps s0 (State.epCut s) := by
  unfold State.epCut
  try dsimp only
  repeat' (first | with_reducible assumption | with_reducible apply State.choose_keeps | with_reducible apply State.epEnd_keeps | with_reducible apply State.setFld_keeps | split | (intro) | (refine keeps_snd (State.choose_keeps ?_ ) (by with_reducible assumption)) | fail_if_no_progress with_reducible apply Keeps.lit | with_reducible exact Nat.le_refl _)
theorem State.logicReset_keeps {s0 s : State} (h : Keeps s0 s)  : Keeps s0 (State.logicReset s) := by
  have chanNil : ∀ {u : State}, Keeps s0 u → Keeps s0 { u with chan := [] } := fun k =>
    k.of rfl rfl rfl (le_refl _) rfl fun c => { c with chan := rfl }
  unfold State.logicReset
  dsimp only
  have k : Keeps s0 (List.foldl (fun s q => State.quadReset s q) (List.foldl (fun s n => State.modNd s n Node.fullReset)
      (List.foldl (fun s p => State.setHp s p ((s.hpAt p).fullReset s.tmo)) (List.foldl (fun s m => State.mpReset s m)
      s.epCut.bmReset allMp) allHp) allNodes) allQd) := by
    repeat' (first | with_reducible assumption | with_reducible apply State.epCut_keeps | with_reducible apply State.bmReset_keeps | with_reducible apply State.mpReset_keeps | with_reducible apply State.setHp_keeps | with_reducible apply State.modNd_keeps | with_reducible apply State.quadReset_keeps | with_reducible apply foldl_keeps_id | intro _)
  generalize (List.foldl (fun s q => State.quadReset s q) (List.foldl (fun s n => State.modNd s n Node.fullReset)
      (List.foldl (fun s p => State.setHp s p ((s.hpAt p).fullReset s.tmo)) (List.foldl (fun s m => State.mpReset s m)
      s.epCut.bmReset allMp) allHp) allNodes) allQd) = u at k ⊢
  refine State.mbAbort_keeps (State.statReset_keeps (State.regsReset_keeps ?_))
  exact (chanNil k).upd rfl rfl rfl (le_refl _) rfl rfl rfl rfl rfl rfl rfl rfl rfl rfl rfl
theorem State.replayStart_keeps {s0 s : State} (h : Keeps s0 s)  : Keeps s0 (State.replayStart s) := by
  unfold State.replayStart
  try dsimp only
  repeat' (first | with_reducible assumption | with_reducible apply State.ledScan_keeps | with_reducible apply State.translate_keeps | with_reducible apply foldl_keeps_id | with_reducible apply foldl_keeps_fst | with_reducible apply foldl_keeps_snd | split | (intro))
theorem State.rstNote_keeps {s0 s : State} (h : Keeps s0 s) (a1 : List ℕ) : Keeps s0 (State.rstNote s a1) := by
  unfold State.rstNote
  try dsimp only
  repeat' (first | with_reducible assumption | with_reducible apply State.setFld_keeps | with_reducible apply State.setRaw_keeps | with_reducible apply State.record_keeps | with_reducible apply OptKeeps.map | with_reducible apply OptKeeps.mapSnd | with_reducible apply foldl_keeps_id | with_reducible apply foldl_keeps_fst | with_reducible apply foldl_keeps_snd | split | (intro))
theorem State.bootPath_keeps {s0 s : State} (h : Keeps s0 s) (hm : s0.mode ≠ .flush) : Keeps s0 (State.bootPath s) := by
  unfold State.bootPath
  try dsimp only
  repeat' (first | with_reducible assumption | (exact absurd (by with_reducible assumption) hm) | with_reducible apply State.modNd_keeps | with_reducible apply State.logicReset_keeps | with_reducible apply State.setMode_keeps | with_reducible apply State.replayStart_keeps | with_reducible apply State.bootRun_keeps | with_reducible apply foldl_keeps_id | with_reducible apply foldl_keeps_fst | with_reducible apply foldl_keeps_snd | split | (intro))
theorem State.holdSeq_keeps {s0 s : State} (h : Keeps s0 s) (hm : s0.mode ≠ .flush) : Keeps s0 (State.holdSeq s) := by
  unfold State.holdSeq
  try dsimp only
  repeat' (first | with_reducible assumption | (exact absurd (by with_reducible assumption) hm) | with_reducible apply State.replayStart_keeps | with_reducible apply State.logicReset_keeps | with_reducible apply State.setMode_keeps | with_reducible apply State.loadImages_keeps | with_reducible apply State.measRecs_keeps | with_reducible apply State.reloadObjects_keeps | with_reducible apply State.romIdent_keeps | split | (intro) | (refine keeps_snd ?_ (by with_reducible assumption)) | (refine keeps_fst ?_ (by with_reducible assumption)) | fail_if_no_progress with_reducible apply Keeps.lit | with_reducible exact Nat.le_refl _)
theorem State.fullReq_keeps {s0 s : State} (h : Keeps s0 s) (a1 : ℕ) : Keeps s0 (State.fullReq s a1) := by
  unfold State.fullReq
  try dsimp only
  repeat' (first | with_reducible assumption | (exact absurd (h.flush (by with_reducible assumption)) (by simp_all)) | with_reducible apply State.setFld_keeps | with_reducible apply State.record_keeps | with_reducible apply State.bootPath_keeps | with_reducible apply State.stCut_keeps | with_reducible apply State.rstNote_keeps | with_reducible apply State.holdSeq_keeps | split | (intro))
theorem State.fullPulse_keeps {s0 s : State} (h : Keeps s0 s)  : Keeps s0 (State.fullPulse s) := by
  unfold State.fullPulse
  try dsimp only
  repeat' (first | with_reducible assumption | with_reducible apply State.goOn_keeps | with_reducible apply State.fullReq_keeps | split | (intro) | fail_if_no_progress with_reducible apply Keeps.lit | with_reducible exact Nat.le_refl _ | exact Nat.le_succ _ | (fail_if_no_progress dsimp only))
theorem execPwrFullRstPulse_keeps {s0 s : State} (h : Keeps s0 s)  : Out.Keeps (execPwrFullRstPulse s) s0 := by
  unfold execPwrFullRstPulse
  refine Out.keeps_next ?_
  try dsimp only
  repeat' (first | with_reducible assumption | with_reducible apply State.fullPulse_keeps | (intro) | fail_if_no_progress with_reducible apply Keeps.lit | with_reducible exact Nat.le_refl _ | exact Nat.le_succ _ | (fail_if_no_progress dsimp only))
theorem State.rstReq_keeps {s0 s : State} (h : Keeps s0 s) (a1 : BitVec 32) : Keeps s0 (State.rstReq s a1) := by
  unfold State.rstReq
  try dsimp only
  repeat' (first | with_reducible assumption | with_reducible apply State.fullReq_keeps | split | (intro) | fail_if_no_progress with_reducible apply Keeps.lit | with_reducible exact Nat.le_refl _)
theorem execRstFull_keeps {s0 s : State} (h : Keeps s0 s) (a0 : Src) : Out.Keeps (execRstFull a0 s) s0 := by
  unfold execRstFull
  refine Out.keeps_next ?_
  try dsimp only
  repeat' (first | with_reducible assumption | with_reducible apply State.goOn_keeps | with_reducible apply State.regDo_keeps | with_reducible apply State.rstReq_keeps | split | (intro))
theorem execRstRelease_keeps {s0 s : State} (h : Keeps s0 s) (a0 : Src) : Out.Keeps (execRstRelease a0 s) s0 := by
  unfold execRstRelease
  refine Out.keeps_next ?_
  try dsimp only
  repeat' (first | with_reducible assumption | with_reducible apply State.goOn_keeps | with_reducible apply State.regDo_keeps | with_reducible apply State.rstReq_keeps | split | (intro))
theorem State.holdLate_keeps {s0 s : State} (h : Keeps s0 s)  : Keeps s0 (State.holdLate s) := by
  unfold State.holdLate
  try dsimp only
  repeat' (first | with_reducible assumption | (exact absurd (h.flush (by with_reducible assumption)) (by simp_all)) | with_reducible apply State.raise_keeps | with_reducible apply State.setFld_keeps | with_reducible apply State.safeEntry_keeps | split | (intro))
theorem execHoldLimit_keeps {s0 s : State} (h : Keeps s0 s)  : Out.Keeps (execHoldLimit s) s0 := by
  unfold execHoldLimit
  refine Out.keeps_next ?_
  try dsimp only
  repeat' (first | with_reducible assumption | with_reducible apply State.goOn_keeps | with_reducible apply State.holdLate_keeps)
theorem State.wdogLate_keeps {s0 s : State} (h : Keeps s0 s)  : Keeps s0 (State.wdogLate s) := by
  unfold State.wdogLate
  try dsimp only
  repeat' (first | with_reducible assumption | with_reducible apply State.fullReq_keeps | split)
theorem execWatchdogExpiry_keeps {s0 s : State} (h : Keeps s0 s)  : Out.Keeps (execWatchdogExpiry s) s0 := by
  unfold execWatchdogExpiry
  refine Out.keeps_next ?_
  try dsimp only
  repeat' (first | with_reducible assumption | with_reducible apply State.goOn_keeps | with_reducible apply State.wdogLate_keeps)
theorem State.wdogWrite_keeps {s0 s : State} (h : Keeps s0 s) (a1 : BitVec 32) : Keeps s0 (State.wdogWrite s a1) := by
  unfold State.wdogWrite
  try dsimp only
  repeat' (first | with_reducible assumption | with_reducible apply State.setFld_keeps | split | (intro) | fail_if_no_progress with_reducible apply Keeps.lit | with_reducible exact Nat.le_refl _)
theorem execWdogKick_keeps {s0 s : State} (h : Keeps s0 s) (a0 : Src) (a1 : BitVec 32) : Out.Keeps (execWdogKick a0 a1 s) s0 := by
  unfold execWdogKick
  refine Out.keeps_next ?_
  try dsimp only
  repeat' (first | with_reducible assumption | with_reducible apply State.regDo_keeps | with_reducible apply State.wdogWrite_keeps | split | (intro))

end Sys2Proof.Machine
end

