-- ==== Sys2Proof/Laws/Keeps/DmaRows.lean ====
section
/-! SUPPORT. Sys2Proof/Laws/Keeps/DmaRows.lean: what the operations of Machine/DmaRows.lean keep. -/

namespace Sys2Proof.Machine

theorem execChannelGo_keeps {s0 s : State} (h : Keeps s0 s) (a0 : Src) (a1 : ChanId) (a2 : BmErr) : Out.Keeps (execChannelGo a0 a1 a2 s) s0 := by
  unfold execChannelGo
  refine Out.keeps_next ?_
  try dsimp only
  repeat' (first | with_reducible assumption | with_reducible apply State.regDo_keeps | with_reducible apply State.goOn_keeps | with_reducible apply State.chanGo_keeps | split | (intro))
theorem execChannelResume_keeps {s0 s : State} (h : Keeps s0 s) (a0 : Src) (a1 : ChanId) : Out.Keeps (execChannelResume a0 a1 s) s0 := by
  unfold execChannelResume
  refine Out.keeps_next ?_
  try dsimp only
  repeat' (first | with_reducible assumption | with_reducible apply State.regDo_keeps | with_reducible apply State.goOn_keeps | with_reducible apply State.chanResume_keeps | split | (intro))
theorem execChannelStop_keeps {s0 s : State} (h : Keeps s0 s) (a0 : Src) (a1 : ChanId) : Out.Keeps (execChannelStop a0 a1 s) s0 := by
  unfold execChannelStop
  refine Out.keeps_next ?_
  try dsimp only
  repeat' (first | with_reducible assumption | with_reducible apply State.regDo_keeps | with_reducible apply State.goOn_keeps | with_reducible apply State.chanStop_keeps | split | (intro))
theorem execDmaReport_keeps {s0 s : State} (h : Keeps s0 s) (a0 : Line) : Out.Keeps (execDmaReport a0 s) s0 := by
  unfold execDmaReport
  refine Out.keeps_next ?_
  try dsimp only
  repeat' (first | with_reducible assumption | with_reducible apply State.goOn_keeps | with_reducible apply State.dmaMsg_keeps)
theorem execItemTmo_keeps {s0 s : State} (h : Keeps s0 s) (a0 : ChanId) (a1 : BitVec 32) : Out.Keeps (execItemTmo a0 a1 s) s0 := by
  unfold execItemTmo
  refine Out.keeps_next ?_
  try dsimp only
  repeat' (first | with_reducible assumption | with_reducible apply State.goOn_keeps | with_reducible apply State.itemLate_keeps)
theorem execBusyReissue_keeps {s0 s : State} (h : Keeps s0 s) (a0 : ChanId) (a1 : BitVec 32) : Out.Keeps (execBusyReissue a0 a1 s) s0 := by
  unfold execBusyReissue
  refine Out.keeps_next ?_
  try dsimp only
  repeat' (first | with_reducible assumption | with_reducible apply State.goOn_keeps | with_reducible apply State.busyAgain_keeps)

end Sys2Proof.Machine
end

