-- ==== Sys2Proof/Laws/Keeps/SnoopRows.lean ====
section
/-! SUPPORT. Sys2Proof/Laws/Keeps/SnoopRows.lean: what the operations of Machine/SnoopRows.lean keep. -/

namespace Sys2Proof.Machine

theorem State.birsp_keeps {s0 s : State} (h : Keeps s0 s) (a1 : HpId) (a2 : BitVec 64) : Keeps s0 (State.birsp s a1 a2) := by
  unfold State.birsp
  try dsimp only
  repeat' (first | with_reducible assumption | with_reducible apply State.raise_keeps | with_reducible apply State.ledScan_keeps | with_reducible apply State.setHp_keeps | with_reducible apply State.depart_keeps | with_reducible apply State.slotDone_keeps | split)
theorem execBirsp_keeps {s0 s : State} (h : Keeps s0 s) (a0 : HpId) (a1 : BitVec 64) : Out.Keeps (execBirsp a0 a1 s) s0 := by
  unfold execBirsp
  refine Out.keeps_next ?_
  try dsimp only
  repeat' (first | with_reducible assumption | with_reducible apply State.goOn_keeps | with_reducible apply State.survThen_keeps | with_reducible apply State.slotRead_keeps | with_reducible apply State.birsp_keeps | split | (intro) | fail_if_no_progress with_reducible apply Keeps.lit | with_reducible exact Nat.le_refl _ | exact Nat.le_succ _ | (fail_if_no_progress dsimp only))
theorem State.heldOut_keeps {s0 s : State} (h : Keeps s0 s) (a1 : HpId) (a2 : ℕ) : Keeps s0 (State.heldOut s a1 a2) := by
  unfold State.heldOut
  try dsimp only
  repeat' (first | with_reducible assumption | with_reducible apply State.ledScan_keeps | with_reducible apply State.slotDone_keeps | split)
theorem execHeldAnswerDelivery_keeps {s0 s : State} (h : Keeps s0 s) (a0 : HpId) (a1 : Fin 8192) : Out.Keeps (execHeldAnswerDelivery a0 a1 s) s0 := by
  unfold execHeldAnswerDelivery
  refine Out.keeps_next ?_
  try dsimp only
  repeat' (first | with_reducible assumption | with_reducible apply State.goOn_keeps | with_reducible apply State.survThen_keeps | with_reducible apply State.slotRead_keeps | with_reducible apply State.heldOut_keeps | (intro) | fail_if_no_progress with_reducible apply Keeps.lit | with_reducible exact Nat.le_refl _ | exact Nat.le_succ _ | (fail_if_no_progress dsimp only))
theorem State.snoopLate_keeps {s0 s : State} (h : Keeps s0 s) (a1 : HpId) (a2 : ℕ) : Keeps s0 (State.snoopLate s a1 a2) := by
  unfold State.snoopLate
  try dsimp only
  repeat' (first | with_reducible assumption | with_reducible apply State.depart_keeps | with_reducible apply State.cntB_keeps | with_reducible apply State.setHp_keeps | split)
theorem execSnoopTimeout_keeps {s0 s : State} (h : Keeps s0 s) (a0 : HpId) (a1 : Fin 8192) : Out.Keeps (execSnoopTimeout a0 a1 s) s0 := by
  unfold execSnoopTimeout
  refine Out.keeps_next ?_
  try dsimp only
  repeat' (first | with_reducible assumption | with_reducible apply State.goOn_keeps | with_reducible apply State.survThen_keeps | with_reducible apply State.slotRead_keeps | with_reducible apply State.snoopLate_keeps | (intro) | fail_if_no_progress with_reducible apply Keeps.lit | with_reducible exact Nat.le_refl _ | exact Nat.le_succ _ | (fail_if_no_progress dsimp only))
theorem State.quarEnd_keeps {s0 s : State} (h : Keeps s0 s) (a1 : HpId) (a2 : ℕ) : Keeps s0 (State.quarEnd s a1 a2) := by
  unfold State.quarEnd
  try dsimp only
  repeat' (first | with_reducible assumption | with_reducible apply State.setHp_keeps | split)
theorem execSnoopSlotQuarantineEnd_keeps {s0 s : State} (h : Keeps s0 s) (a0 : HpId) (a1 : Fin 8192) : Out.Keeps (execSnoopSlotQuarantineEnd a0 a1 s) s0 := by
  unfold execSnoopSlotQuarantineEnd
  refine Out.keeps_next ?_
  try dsimp only
  repeat' (first | with_reducible assumption | with_reducible apply State.goOn_keeps | with_reducible apply State.quarEnd_keeps)
theorem State.bicOut_keeps {s0 s : State} (h : Keeps s0 s) (a1 : HpId) : Keeps s0 (State.bicOut s a1) := by
  unfold State.bicOut
  try dsimp only
  repeat' (first | with_reducible assumption | with_reducible apply State.setHp_keeps | with_reducible apply State.answerNdr_keeps | split)
theorem execBiConflictAck_keeps {s0 s : State} (h : Keeps s0 s) (a0 : HpId) : Out.Keeps (execBiConflictAck a0 s) s0 := by
  unfold execBiConflictAck
  refine Out.keeps_next ?_
  try dsimp only
  repeat' (first | with_reducible assumption | with_reducible apply State.goOn_keeps | with_reducible apply State.bicOut_keeps)
theorem State.outMsg_keeps {s0 s : State} (h : Keeps s0 s) (a1 : HpId) (a2 : HpOut) : Keeps s0 (State.outMsg s a1 a2) := by
  unfold State.outMsg
  try dsimp only
  repeat' (first | with_reducible assumption | with_reducible apply State.cntB_keeps | with_reducible apply State.setHp_keeps | split)
theorem execOutboundMessage_keeps {s0 s : State} (h : Keeps s0 s) (a0 : HpId) (a1 : HpOut) : Out.Keeps (execOutboundMessage a0 a1 s) s0 := by
  unfold execOutboundMessage
  refine Out.keeps_next ?_
  try dsimp only
  repeat' (first | with_reducible assumption | with_reducible apply State.goOn_keeps | with_reducible apply State.survThen_keeps | with_reducible apply State.slotRead_keeps | with_reducible apply State.outMsg_keeps | split | (intro) | (refine keeps_snd ?_ (by with_reducible assumption)) | (refine keeps_fst ?_ (by with_reducible assumption)) | fail_if_no_progress with_reducible apply Keeps.lit | with_reducible exact Nat.le_refl _ | exact Nat.le_succ _ | (fail_if_no_progress dsimp only))

end Sys2Proof.Machine
end

