-- ==== Sys2Proof/Laws/Keeps/Ports.lean ====
section
/-! SUPPORT. Sys2Proof/Laws/Keeps/Ports.lean: what the operations of Machine/Ports.lean keep. -/

namespace Sys2Proof.Machine

theorem execAttachRequest_keeps {s0 s : State} (h : Keeps s0 s) (a0 : AttPort) (a1 : BitVec 48) : Out.Keeps (execAttachRequest a0 a1 s) s0 := by
  unfold execAttachRequest
  refine Out.keeps_next ?_
  try dsimp only
  repeat' (first | with_reducible assumption | with_reducible apply State.attReq_keeps)
theorem State.attCfm_keeps {s0 s : State} (h : Keeps s0 s) (a1 : AttPort) : Keeps s0 (State.attCfm s a1) := by
  unfold State.attCfm
  try dsimp only
  repeat' (first | with_reducible assumption | with_reducible apply State.setAtt_keeps | with_reducible apply State.setHp_keeps | split)
theorem execAttachConfirm_keeps {s0 s : State} (h : Keeps s0 s) (a0 : AttPort) : Out.Keeps (execAttachConfirm a0 s) s0 := by
  unfold execAttachConfirm
  refine Out.keeps_next ?_
  try dsimp only
  repeat' (first | with_reducible assumption | with_reducible apply State.attCfm_keeps)
theorem State.attTmo_keeps {s0 s : State} (h : Keeps s0 s) (a1 : AttPort) : Keeps s0 (State.attTmo s a1) := by
  unfold State.attTmo
  try dsimp only
  repeat' (first | with_reducible assumption | with_reducible apply State.raise_keeps | with_reducible apply State.setAtt_keeps | split)
theorem execAttachTimeout_keeps {s0 s : State} (h : Keeps s0 s) (a0 : AttPort) : Out.Keeps (execAttachTimeout a0 s) s0 := by
  unfold execAttachTimeout
  refine Out.keeps_next ?_
  try dsimp only
  repeat' (first | with_reducible assumption | with_reducible apply State.attTmo_keeps)
theorem State.attDrop_keeps {s0 s : State} (h : Keeps s0 s) (a1 : AttPort) : Keeps s0 (State.attDrop s a1) := by
  unfold State.attDrop
  try dsimp only
  repeat' (first | with_reducible assumption | with_reducible apply State.setAtt_keeps | split)
theorem execAttachAbandon_keeps {s0 s : State} (h : Keeps s0 s) (a0 : AttPort) : Out.Keeps (execAttachAbandon a0 s) s0 := by
  unfold execAttachAbandon
  refine Out.keeps_next ?_
  try dsimp only
  repeat' (first | with_reducible assumption | with_reducible apply State.attDrop_keeps)
theorem State.hpDetach_keeps {s0 s : State} (h : Keeps s0 s) (a1 : HpId) : Keeps s0 (State.hpDetach s a1) := by
  unfold State.hpDetach
  try dsimp only
  repeat' (first | with_reducible assumption | with_reducible apply State.setHp_keeps | split)
theorem execHostDetach_keeps {s0 s : State} (h : Keeps s0 s) (a0 : HpId) : Out.Keeps (execHostDetach a0 s) s0 := by
  unfold execHostDetach
  refine Out.keeps_next ?_
  try dsimp only
  repeat' (first | with_reducible assumption | with_reducible apply State.goOn_keeps | with_reducible apply State.hpDetach_keeps)
theorem State.hpFail_keeps {s0 s : State} (h : Keeps s0 s) (a1 : HpId) (a2 : ℕ) : Keeps s0 (State.hpFail s a1 a2) := by
  unfold State.hpFail
  try dsimp only
  repeat' (first | with_reducible assumption | with_reducible apply State.depart_keeps | with_reducible apply State.leaveAtt_keeps | with_reducible apply State.setHp_keeps | with_reducible apply OptKeeps.map | with_reducible apply OptKeeps.mapSnd | with_reducible apply foldl_keeps_id | with_reducible apply foldl_keeps_fst | with_reducible apply foldl_keeps_snd | split | (intro))
theorem State.hpDown_keeps {s0 s : State} (h : Keeps s0 s) (a1 : HpId) (a2 : FailCause) : Keeps s0 (State.hpDown s a1 a2) := by
  unfold State.hpDown
  try dsimp only
  repeat' (first | with_reducible assumption | with_reducible apply State.hpFail_keeps | with_reducible apply State.setHp_keeps | split)
theorem execHostPortFailure_keeps {s0 s : State} (h : Keeps s0 s) (a0 : HpId) (a1 : FailCause) : Out.Keeps (execHostPortFailure a0 a1 s) s0 := by
  unfold execHostPortFailure
  refine Out.keeps_next ?_
  try dsimp only
  repeat' (first | with_reducible assumption | with_reducible apply State.goOn_keeps | with_reducible apply State.hpDown_keeps)
theorem State.hpUp_keeps {s0 s : State} (h : Keeps s0 s) (a1 : HpId) : Keeps s0 (State.hpUp s a1) := by
  unfold State.hpUp
  try dsimp only
  repeat' (first | with_reducible assumption | with_reducible apply State.setHp_keeps | split)
theorem execHostPortRecovery_keeps {s0 s : State} (h : Keeps s0 s) (a0 : HpId) : Out.Keeps (execHostPortRecovery a0 s) s0 := by
  unfold execHostPortRecovery
  refine Out.keeps_next ?_
  try dsimp only
  repeat' (first | with_reducible assumption | with_reducible apply State.hpUp_keeps)
theorem State.hpOutLate_keeps {s0 s : State} (h : Keeps s0 s) (a1 : HpId) (a2 : HpOut) : Keeps s0 (State.hpOutLate s a1 a2) := by
  unfold State.hpOutLate
  try dsimp only
  repeat' (first | with_reducible assumption | with_reducible apply State.hpFail_keeps | with_reducible apply State.raise_keeps | split)
theorem execHpOutTimeout_keeps {s0 s : State} (h : Keeps s0 s) (a0 : HpId) (a1 : HpOut) : Out.Keeps (execHpOutTimeout a0 a1 s) s0 := by
  unfold execHpOutTimeout
  refine Out.keeps_next ?_
  try dsimp only
  repeat' (first | with_reducible assumption | with_reducible apply State.goOn_keeps | with_reducible apply State.hpOutLate_keeps)
theorem State.refLost_keeps {s0 s : State} (h : Keeps s0 s)  : Keeps s0 (State.refLost s) := by
  unfold State.refLost
  try dsimp only
  repeat' (first | with_reducible assumption | with_reducible apply State.raise_keeps | split | (intro) | fail_if_no_progress with_reducible apply Keeps.lit | with_reducible exact Nat.le_refl _)
theorem execReftickLost_keeps {s0 s : State} (h : Keeps s0 s)  : Out.Keeps (execReftickLost s) s0 := by
  unfold execReftickLost
  refine Out.keeps_next ?_
  try dsimp only
  repeat' (first | with_reducible assumption | with_reducible apply State.refLost_keeps)
theorem execReftickReturn_keeps {s0 s : State} (h : Keeps s0 s)  : Out.Keeps (execReftickReturn s) s0 := by
  unfold execReftickReturn
  refine Out.keeps_next ?_
  try dsimp only
  repeat' (first | with_reducible assumption | (intro) | fail_if_no_progress with_reducible apply Keeps.lit | with_reducible exact Nat.le_refl _)

end Sys2Proof.Machine
end

