-- ==== Sys2Proof/Laws/Keeps/MediaRows.lean ====
section
/-! SUPPORT. Sys2Proof/Laws/Keeps/MediaRows.lean: what the operations of Machine/MediaRows.lean keep. -/

namespace Sys2Proof.Machine

theorem State.mpField_keeps {s0 s : State} (h : Keeps s0 s) (a1 : MpId) : Keeps s0 (State.mpField s a1) := by
  unfold State.mpField
  try dsimp only
  repeat' (first | with_reducible assumption | with_reducible apply State.raise_keeps)
theorem State.rdIn_keeps {s0 s : State} (h : Keeps s0 s) (a1 : MpId) (a2 : BitVec 64) (a3 : Line) (a4 : Bool) : Keeps s0 (State.rdIn s a1 a2 a3 a4) := by
  unfold State.rdIn
  try dsimp only
  repeat' (first | with_reducible assumption | with_reducible apply State.mpField_keeps | with_reducible apply State.readLand_keeps | with_reducible apply State.dmaRead_keeps | split)
theorem execMediaReadData_keeps {s0 s : State} (h : Keeps s0 s) (a0 : MpId) (a1 : BitVec 64) (a2 : Line) (a3 : Bool) : Out.Keeps (execMediaReadData a0 a1 a2 a3 s) s0 := by
  unfold execMediaReadData
  refine Out.keeps_next ?_
  try dsimp only
  repeat' (first | with_reducible assumption | with_reducible apply State.goOn_keeps | with_reducible apply State.survThen_keeps | with_reducible apply State.tagRead_keeps | with_reducible apply State.rdIn_keeps | (intro) | fail_if_no_progress with_reducible apply Keeps.lit | with_reducible exact Nat.le_refl _ | exact Nat.le_succ _ | (fail_if_no_progress dsimp only))
theorem execHandoff_keeps {s0 s : State} (h : Keeps s0 s) (a0 : MpId) : Out.Keeps (execHandoff a0 s) s0 := by
  unfold execHandoff
  refine Out.keeps_next ?_
  try dsimp only
  repeat' (first | with_reducible assumption | with_reducible apply State.goOn_keeps | with_reducible apply State.survThen_keeps | with_reducible apply State.tagRead_keeps | with_reducible apply State.handOff_keeps | split | (intro) | (refine keeps_snd ?_ (by with_reducible assumption)) | (refine keeps_fst ?_ (by with_reducible assumption)) | fail_if_no_progress with_reducible apply Keeps.lit | with_reducible exact Nat.le_refl _ | exact Nat.le_succ _ | (fail_if_no_progress dsimp only))
theorem State.ackOne_keeps {s0 s : State} (h : Keeps s0 s) (a1 : MpId) (a2 : ℕ) (a3 : ℕ) : Keeps s0 (State.ackOne s a1 a2 a3) := by
  unfold State.ackOne
  try dsimp only
  repeat' (first | with_reducible assumption | with_reducible apply State.writeDone_keeps | with_reducible apply State.dmaWrote_keeps | split)
theorem State.ackIn_keeps {s0 s : State} (h : Keeps s0 s) (a1 : MpId) (a2 : ℕ) (a3 : BitVec 64) : Keeps s0 (State.ackIn s a1 a2 a3) := by
  unfold State.ackIn
  try dsimp only
  repeat' (first | with_reducible assumption | with_reducible apply State.survThen_keeps | with_reducible apply State.tagRead_keeps | with_reducible apply State.ackOne_keeps | with_reducible apply State.mpField_keeps | with_reducible apply foldl_keeps_id | with_reducible apply foldl_keeps_fst | with_reducible apply foldl_keeps_snd | split | (intro) | (refine keeps_snd ?_ (by with_reducible assumption)) | (refine keeps_fst ?_ (by with_reducible assumption)) | fail_if_no_progress with_reducible apply Keeps.lit | with_reducible exact Nat.le_refl _ | exact Nat.le_succ _ | (fail_if_no_progress dsimp only))
theorem execAckDurable_keeps {s0 s : State} (h : Keeps s0 s) (a0 : MpId) (a1 : BitVec 64) : Out.Keeps (execAckDurable a0 a1 s) s0 := by
  unfold execAckDurable
  refine Out.keeps_next ?_
  try dsimp only
  repeat' (first | with_reducible assumption | with_reducible apply State.goOn_keeps | with_reducible apply State.cntB_keeps | with_reducible apply State.ackIn_keeps)
theorem execAckSyncDone_keeps {s0 s : State} (h : Keeps s0 s) (a0 : MpId) (a1 : BitVec 64) : Out.Keeps (execAckSyncDone a0 a1 s) s0 := by
  unfold execAckSyncDone
  refine Out.keeps_next ?_
  try dsimp only
  repeat' (first | with_reducible assumption | with_reducible apply State.goOn_keeps | with_reducible apply State.ackIn_keeps)
theorem execAckWriteFail_keeps {s0 s : State} (h : Keeps s0 s) (a0 : MpId) (a1 : BitVec 64) : Out.Keeps (execAckWriteFail a0 a1 s) s0 := by
  unfold execAckWriteFail
  refine Out.keeps_next ?_
  try dsimp only
  repeat' (first | with_reducible assumption | with_reducible apply State.goOn_keeps | with_reducible apply State.ackIn_keeps)
theorem State.ackLate_keeps {s0 s : State} (h : Keeps s0 s) (a1 : MpId) (a2 : ℕ) : Keeps s0 (State.ackLate s a1 a2) := by
  unfold State.ackLate
  try dsimp only
  repeat' (first | with_reducible assumption | with_reducible apply State.ackOne_keeps | with_reducible apply State.raise_keeps | with_reducible apply OptKeeps.map | with_reducible apply OptKeeps.mapSnd | split | (intro) | (refine keeps_snd ?_ (by with_reducible assumption)) | (refine keeps_fst ?_ (by with_reducible assumption)) | fail_if_no_progress with_reducible apply Keeps.lit | with_reducible exact Nat.le_refl _)
theorem execMpAckTimeout_keeps {s0 s : State} (h : Keeps s0 s) (a0 : MpId) (a1 : BitVec 12) : Out.Keeps (execMpAckTimeout a0 a1 s) s0 := by
  unfold execMpAckTimeout
  refine Out.keeps_next ?_
  try dsimp only
  repeat' (first | with_reducible assumption | with_reducible apply State.goOn_keeps | with_reducible apply State.survThen_keeps | with_reducible apply State.tagRead_keeps | with_reducible apply State.ackLate_keeps | (intro) | fail_if_no_progress with_reducible apply Keeps.lit | with_reducible exact Nat.le_refl _ | exact Nat.le_succ _ | (fail_if_no_progress dsimp only))
theorem State.mpDetReq_keeps {s0 s : State} (h : Keeps s0 s) (a1 : MpId) : Keeps s0 (State.mpDetReq s a1) := by
  unfold State.mpDetReq
  try dsimp only
  repeat' (first | with_reducible assumption | with_reducible apply State.chvEvent_keeps | with_reducible apply State.record_keeps | with_reducible apply State.setFld_keeps | with_reducible apply State.setMp_keeps | split)
theorem execMediaDetachRequest_keeps {s0 s : State} (h : Keeps s0 s) (a0 : MpId) : Out.Keeps (execMediaDetachRequest a0 s) s0 := by
  unfold execMediaDetachRequest
  refine Out.keeps_next ?_
  try dsimp only
  repeat' (first | with_reducible assumption | with_reducible apply State.mpDetReq_keeps)
theorem State.mpDetEnd_keeps {s0 s : State} (h : Keeps s0 s) (a1 : MpId) : Keeps s0 (State.mpDetEnd s a1) := by
  unfold State.mpDetEnd
  try dsimp only
  repeat' (first | with_reducible assumption | with_reducible apply State.setFld_keeps | with_reducible apply State.setMp_keeps | split)
theorem execMediaDetachComplete_keeps {s0 s : State} (h : Keeps s0 s) (a0 : MpId) : Out.Keeps (execMediaDetachComplete a0 s) s0 := by
  unfold execMediaDetachComplete
  refine Out.keeps_next ?_
  try dsimp only
  repeat' (first | with_reducible assumption | with_reducible apply State.mpDetEnd_keeps)
theorem State.mpFail_keeps {s0 s : State} (h : Keeps s0 s) (a1 : MpId) : Keeps s0 (State.mpFail s a1) := by
  unfold State.mpFail
  try dsimp only
  repeat' (first | with_reducible assumption | with_reducible apply State.setFld_keeps | with_reducible apply State.setMp_keeps | with_reducible apply State.mpFailAll_keeps | with_reducible apply State.dmaRead_keeps | with_reducible apply State.dmaWrote_keeps | with_reducible apply foldl_keeps_id | with_reducible apply foldl_keeps_fst | with_reducible apply foldl_keeps_snd | split | (intro))
theorem State.mpDown_keeps {s0 s : State} (h : Keeps s0 s) (a1 : MpId) (a2 : FailCause) : Keeps s0 (State.mpDown s a1 a2) := by
  unfold State.mpDown
  try dsimp only
  repeat' (first | with_reducible assumption | with_reducible apply State.mpFail_keeps | with_reducible apply State.setMp_keeps | split)
theorem execMediaPortFailure_keeps {s0 s : State} (h : Keeps s0 s) (a0 : MpId) (a1 : FailCause) : Out.Keeps (execMediaPortFailure a0 a1 s) s0 := by
  unfold execMediaPortFailure
  refine Out.keeps_next ?_
  try dsimp only
  repeat' (first | with_reducible assumption | with_reducible apply State.goOn_keeps | with_reducible apply State.mpDown_keeps)
theorem execMediaPortRecovery_keeps {s0 s : State} (h : Keeps s0 s) (a0 : MpId) : Out.Keeps (execMediaPortRecovery a0 s) s0 := by
  unfold execMediaPortRecovery
  refine Out.keeps_next ?_
  try dsimp only
  repeat' (first | with_reducible assumption | with_reducible apply State.setMp_keeps | split)
theorem State.deadMtag_keeps {s0 s : State} (h : Keeps s0 s) (a1 : MpId) (a2 : ℕ) (a3 : Mtag) : Keeps s0 (State.deadMtag s a1 a2 a3) := by
  unfold State.deadMtag
  try dsimp only
  repeat' (first | with_reducible assumption | with_reducible apply State.setMp_keeps | with_reducible apply State.poisonReads_keeps | with_reducible apply State.dmaRead_keeps | with_reducible apply State.copyDead_keeps | with_reducible apply State.ackOne_keeps | split | (intro) | (refine keeps_snd ?_ (by with_reducible assumption)) | (refine keeps_fst ?_ (by with_reducible assumption)) | fail_if_no_progress with_reducible apply Keeps.lit | with_reducible exact Nat.le_refl _ | exact Nat.le_succ _ | (fail_if_no_progress dsimp only))
theorem State.deadMedia_keeps {s0 s : State} (h : Keeps s0 s)  : Keeps s0 (State.deadMedia s) := by
  unfold State.deadMedia
  try dsimp only
  repeat' (first | with_reducible assumption | with_reducible apply State.deadMtag_keeps | with_reducible apply foldl_keeps_id | with_reducible apply foldl_keeps_fst | with_reducible apply foldl_keeps_snd | split | (intro))
theorem State.mpOutLate_keeps {s0 s : State} (h : Keeps s0 s) (a1 : MpId) : Keeps s0 (State.mpOutLate s a1) := by
  unfold State.mpOutLate
  try dsimp only
  repeat' (first | with_reducible assumption | with_reducible apply State.mpFail_keeps | with_reducible apply State.raise_keeps | split)
theorem execMpOutTimeout_keeps {s0 s : State} (h : Keeps s0 s) (a0 : MpId) : Out.Keeps (execMpOutTimeout a0 s) s0 := by
  unfold execMpOutTimeout
  refine Out.keeps_next ?_
  try dsimp only
  repeat' (first | with_reducible assumption | with_reducible apply State.goOn_keeps | with_reducible apply State.mpOutLate_keeps)
theorem State.clkCheck_keeps {s0 s : State} (h : Keeps s0 s) (a1 : ClkPort) (a2 : ℕ) : Keeps s0 (State.clkCheck s a1 a2) := by
  unfold State.clkCheck
  try dsimp only
  repeat' (first | with_reducible assumption | with_reducible apply State.hpDown_keeps | with_reducible apply State.setHp_keeps | with_reducible apply State.mpDown_keeps | with_reducible apply State.setMp_keeps | split)
theorem execClockWindowCheck_keeps {s0 s : State} (h : Keeps s0 s) (a0 : ClkPort) (a1 : ℕ) : Out.Keeps (execClockWindowCheck a0 a1 s) s0 := by
  unfold execClockWindowCheck
  refine Out.keeps_next ?_
  try dsimp only
  repeat' (first | with_reducible assumption | with_reducible apply State.goOn_keeps | with_reducible apply State.clkCheck_keeps)

end Sys2Proof.Machine
end

