-- ==== Sys2Proof/Laws/Keeps/Flush.lean ====
section
/-! SUPPORT. Sys2Proof/Laws/Keeps/Flush.lean: what the operations of Machine/Flush.lean keep. -/

namespace Sys2Proof.Machine

theorem State.modeSync_keeps {s0 s : State} (h : Keeps s0 s)  : Keeps s0 (State.modeSync s) := by
  unfold State.modeSync
  try dsimp only
  repeat' (first | with_reducible assumption | with_reducible apply State.mpIssue_keeps | with_reducible apply OptKeeps.map | with_reducible apply OptKeeps.mapSnd | with_reducible apply foldl_keeps_id | with_reducible apply foldl_keeps_fst | with_reducible apply foldl_keeps_snd | split | (intro) | (refine OptKeeps2.elim (State.mpIssue_keeps ?_ _ _ ) (by with_reducible assumption)) | (refine keeps_snd ?_ (by with_reducible assumption)) | (refine keeps_fst ?_ (by with_reducible assumption)) | fail_if_no_progress with_reducible apply Keeps.lit | with_reducible exact Nat.le_refl _)
theorem State.cutWrites_keeps {s0 s : State} (h : Keeps s0 s)  : Keeps s0 (State.cutWrites s) := by
  unfold State.cutWrites
  try dsimp only
  repeat' (first | with_reducible assumption | with_reducible apply State.setMp_keeps | with_reducible apply foldl_keeps_id | with_reducible apply foldl_keeps_fst | with_reducible apply foldl_keeps_snd | split | (intro) | fail_if_no_progress with_reducible apply Keeps.lit | with_reducible exact Nat.le_refl _ | exact Nat.le_succ _ | (fail_if_no_progress dsimp only))
theorem State.syncStart_keeps {s0 s : State} (h : Keeps s0 s)  : Keeps s0 (State.syncStart s) := by
  unfold State.syncStart
  try dsimp only
  repeat' (first | with_reducible assumption | with_reducible apply State.modeSync_keeps | with_reducible apply State.setFld_keeps | split | (intro) | (refine keeps_snd ?_ (by with_reducible assumption)) | (refine keeps_fst ?_ (by with_reducible assumption)) | fail_if_no_progress with_reducible apply Keeps.lit | with_reducible exact Nat.le_refl _)
theorem State.stopEngines_keeps {s0 s : State} (h : Keeps s0 s)  : Keeps s0 (State.stopEngines s) := by
  unfold State.stopEngines
  try dsimp only
  repeat' (first | with_reducible assumption | with_reducible apply State.modNd_keeps | with_reducible apply foldl_keeps_id | with_reducible apply foldl_keeps_fst | with_reducible apply foldl_keeps_snd | split | (intro))
theorem State.stStop_keeps {s0 s : State} (h : Keeps s0 s)  : Keeps s0 (State.stStop s) := by
  unfold State.stStop
  try dsimp only
  repeat' (first | with_reducible assumption | with_reducible apply State.quadLose_keeps | with_reducible apply State.setQd_keeps | with_reducible apply foldl_keeps_id | with_reducible apply foldl_keeps_fst | with_reducible apply foldl_keeps_snd | split | (intro) | fail_if_no_progress with_reducible apply Keeps.lit | with_reducible exact Nat.le_refl _)
theorem State.flushEnter_keeps {s0 s : State} (h : Keeps s0 s)  : Keeps s0 (State.flushEnter s) := by
  unfold State.flushEnter
  try dsimp only
  repeat' (first | with_reducible assumption | (exact absurd (h.flush (by with_reducible assumption)) (by simp_all)) | (exact fun _ => rfl) | with_reducible apply State.setMode_keeps | with_reducible apply State.chanStop_keeps | with_reducible apply State.chvEvent_keeps | with_reducible apply State.stStop_keeps | with_reducible apply State.syncStart_keeps | with_reducible apply State.cutWrites_keeps | with_reducible apply State.setFld_keeps | with_reducible apply State.stopEngines_keeps | with_reducible apply foldl_keeps_id | with_reducible apply foldl_keeps_fst | with_reducible apply foldl_keeps_snd | split | (intro) | (refine keeps_snd ?_ (by with_reducible assumption)) | (refine keeps_fst ?_ (by with_reducible assumption)) | fail_if_no_progress with_reducible apply Keeps.lit | with_reducible exact Nat.le_refl _ | exact Nat.le_succ _ | (fail_if_no_progress dsimp only))
theorem execPowerFail_keeps {s0 s : State} (h : Keeps s0 s)  : Out.Keeps (execPowerFail s) s0 := by
  unfold execPowerFail
  refine Out.keeps_next ?_
  try dsimp only
  repeat' (first | with_reducible assumption | with_reducible apply State.goOn_keeps | with_reducible apply State.flushEnter_keeps | split | (intro) | fail_if_no_progress with_reducible apply Keeps.lit | with_reducible exact Nat.le_refl _ | exact Nat.le_succ _ | (fail_if_no_progress dsimp only))
theorem execDrainEnd_keeps {s0 s : State} (h : Keeps s0 s)  : Out.Keeps (execDrainEnd s) s0 := by
  unfold execDrainEnd
  refine Out.keeps_next ?_
  try dsimp only
  repeat' (first | with_reducible assumption | with_reducible apply State.syncStart_keeps | split)
theorem State.drainLate_keeps {s0 s : State} (h : Keeps s0 s)  : Keeps s0 (State.drainLate s) := by
  unfold State.drainLate
  try dsimp only
  repeat' (first | with_reducible assumption | with_reducible apply State.syncStart_keeps | with_reducible apply State.cutWrites_keeps | with_reducible apply State.setFld_keeps | with_reducible apply State.stopEngines_keeps | split | (intro) | fail_if_no_progress with_reducible apply Keeps.lit | with_reducible exact Nat.le_refl _ | exact Nat.le_succ _ | (fail_if_no_progress dsimp only))
theorem execDrainLimit_keeps {s0 s : State} (h : Keeps s0 s)  : Out.Keeps (execDrainLimit s) s0 := by
  unfold execDrainLimit
  refine Out.keeps_next ?_
  try dsimp only
  repeat' (first | with_reducible assumption | with_reducible apply State.drainLate_keeps)
theorem State.flushDone_keeps {s0 s : State} (h : Keeps s0 s) (a1 : Bool) : Keeps s0 (State.flushDone s a1) := by
  unfold State.flushDone
  try dsimp only
  repeat' (first | with_reducible assumption | with_reducible apply State.setFld_keeps | with_reducible apply State.record_keeps)
theorem execSyncEnd_keeps {s0 s : State} (h : Keeps s0 s)  : Out.Keeps (execSyncEnd s) s0 := by
  unfold execSyncEnd
  refine Out.keeps_next ?_
  try dsimp only
  repeat' (first | with_reducible assumption | with_reducible apply State.modeSync_keeps | with_reducible apply State.flushDone_keeps | split)
theorem State.syncLate_keeps {s0 s : State} (h : Keeps s0 s)  : Keeps s0 (State.syncLate s) := by
  unfold State.syncLate
  try dsimp only
  repeat' (first | with_reducible assumption | with_reducible apply State.flushDone_keeps | split | (intro) | fail_if_no_progress with_reducible apply Keeps.lit | with_reducible exact Nat.le_refl _ | exact Nat.le_succ _ | (fail_if_no_progress dsimp only))
theorem execSyncLimit_keeps {s0 s : State} (h : Keeps s0 s)  : Out.Keeps (execSyncLimit s) s0 := by
  unfold execSyncLimit
  refine Out.keeps_next ?_
  try dsimp only
  repeat' (first | with_reducible assumption | with_reducible apply State.syncLate_keeps)

end Sys2Proof.Machine
end

