-- ==== Sys2Proof/Laws/Keeps/SelfTest.lean ====
section
/-! SUPPORT. Sys2Proof/Laws/Keeps/SelfTest.lean: what the operations of Machine/SelfTest.lean keep. -/

namespace Sys2Proof.Machine

theorem State.stEnter_keeps {s0 s : State} (h : Keeps s0 s) (hm : s0.mode ≠ .flush) : Keeps s0 (State.stEnter s) := by
  unfold State.stEnter
  try dsimp only
  repeat' (first | with_reducible assumption | (exact absurd (by with_reducible assumption) hm) | with_reducible apply State.setFld_keeps | with_reducible apply State.setRaw_keeps | with_reducible apply State.setMode_keeps | with_reducible apply foldl_keeps_id | with_reducible apply foldl_keeps_fst | with_reducible apply foldl_keeps_snd | split | (intro) | fail_if_no_progress with_reducible apply Keeps.lit | with_reducible exact Nat.le_refl _)
theorem State.stQuadTest_keeps {s0 s : State} (h : Keeps s0 s) (a1 : QuadId) : Keeps s0 (State.stQuadTest s a1) := by
  unfold State.stQuadTest
  try dsimp only
  repeat' (first | with_reducible assumption | with_reducible apply State.setQd_keeps | with_reducible apply State.thermal_keeps | with_reducible apply State.setFld_keeps | with_reducible apply State.quadStop_keeps | (intro) | fail_if_no_progress with_reducible apply Keeps.lit | with_reducible exact Nat.le_refl _ | exact Nat.le_succ _ | (fail_if_no_progress dsimp only))
theorem State.stQuadBack_keeps {s0 s : State} (h : Keeps s0 s) (a1 : QuadId) : Keeps s0 (State.stQuadBack s a1) := by
  unfold State.stQuadBack
  try dsimp only
  repeat' (first | with_reducible assumption | with_reducible apply State.testFill_keeps | with_reducible apply State.quadLoad_keeps | with_reducible apply State.setQd_keeps | split | (intro) | fail_if_no_progress with_reducible apply Keeps.lit | with_reducible exact Nat.le_refl _ | exact Nat.le_succ _ | (fail_if_no_progress dsimp only))
theorem State.stQuadEnd_keeps {s0 s : State} (h : Keeps s0 s) (a1 : QuadId) : Keeps s0 (State.stQuadEnd s a1) := by
  unfold State.stQuadEnd
  try dsimp only
  repeat' (first | with_reducible assumption | with_reducible apply State.thermal_keeps | with_reducible apply State.setFld_keeps | with_reducible apply State.stQuadBack_keeps | (intro) | fail_if_no_progress with_reducible apply Keeps.lit | with_reducible exact Nat.le_refl _ | exact Nat.le_succ _ | (fail_if_no_progress dsimp only))
theorem State.safeQuads_keeps {s0 s : State} (h : Keeps s0 s)  : Keeps s0 (State.safeQuads s) := by
  unfold State.safeQuads
  try dsimp only
  repeat' (first | with_reducible assumption | with_reducible apply State.quadStop_keeps | with_reducible apply State.stQuadBack_keeps | with_reducible apply foldl_keeps_id | with_reducible apply foldl_keeps_fst | with_reducible apply foldl_keeps_snd | split | (intro) | fail_if_no_progress with_reducible apply Keeps.lit | with_reducible exact Nat.le_refl _ | exact Nat.le_succ _ | (fail_if_no_progress dsimp only))
theorem State.stAdvance_keeps {s0 s : State} (h : Keeps s0 s)  : Keeps s0 (State.stAdvance s) := by
  unfold State.stAdvance
  try dsimp only
  repeat' (first | with_reducible assumption | with_reducible apply State.setFld_keeps | with_reducible apply State.stQuadTest_keeps | with_reducible apply State.stQuadEnd_keeps | split)
theorem State.sorrelTick_keeps {s0 s : State} (h : Keeps s0 s)  : Keeps s0 (State.sorrelTick s) := by
  unfold State.sorrelTick
  try dsimp only
  repeat' (first | with_reducible assumption | with_reducible apply State.choose_keeps | with_reducible apply State.stAdvance_keeps | split)
theorem State.unitLost_keeps {s0 s : State} (h : Keeps s0 s) (a1 : RepairMap) (a2 : ℕ) : Keeps s0 (State.unitLost s a1 a2).2 := by
  unfold State.unitLost
  try dsimp only
  repeat' (first | with_reducible assumption | with_reducible apply State.setFld_keeps | split | (intro) | fail_if_no_progress with_reducible apply Keeps.lit | with_reducible exact Nat.le_refl _)
theorem State.resAdd_keeps {s0 s : State} (h : Keeps s0 s) (a1 : ℕ) (a2 : ℕ) (a3 : ℕ) (a4 : ℕ) : Keeps s0 (State.resAdd s a1 a2 a3 a4) := by
  unfold State.resAdd
  try dsimp only
  repeat' (first | with_reducible assumption | with_reducible apply State.setFld_keeps)
theorem State.unitEnd_keeps {s0 s : State} (h : Keeps s0 s) (a1 : RepairMap) (a2 : List LaneFail) (a3 : ℕ) : Keeps s0 (State.unitEnd s a1 a2 a3).2 := by
  unfold State.unitEnd
  try dsimp only
  repeat' (first | with_reducible assumption | with_reducible apply State.resAdd_keeps | with_reducible apply State.unitLost_keeps | with_reducible apply OptKeeps.map | with_reducible apply OptKeeps.mapSnd | split | (intro) | (refine keeps_snd (State.unitLost_keeps ?_ _ _ ) (by with_reducible assumption)) | (refine keeps_snd ?_ (by with_reducible assumption)) | (refine keeps_fst ?_ (by with_reducible assumption)) | fail_if_no_progress with_reducible apply Keeps.lit | with_reducible exact Nat.le_refl _ | exact Nat.le_succ _ | (fail_if_no_progress dsimp only))
theorem State.stEnd_keeps {s0 s : State} (h : Keeps s0 s) (hm : s0.mode ≠ .flush) : Keeps s0 (State.stEnd s) := by
  unfold State.stEnd
  try dsimp only
  repeat' (first | with_reducible assumption | (exact absurd (by with_reducible assumption) hm) | with_reducible apply State.raise_keeps | with_reducible apply State.setFld_keeps | with_reducible apply State.setMode_keeps | split | (intro))
theorem State.fuseNext_keeps {s0 s : State} (h : Keeps s0 s)  : Keeps s0 (State.fuseNext s) := by
  unfold State.fuseNext
  try dsimp only
  repeat' (first | with_reducible assumption | (exact absurd (h.flush (by with_reducible assumption)) (by simp_all)) | with_reducible apply State.stEnd_keeps | split | (intro) | (refine keeps_snd ?_ (by with_reducible assumption)) | (refine keeps_fst ?_ (by with_reducible assumption)) | fail_if_no_progress with_reducible apply Keeps.lit | with_reducible exact Nat.le_refl _)
theorem State.stCommit_keeps {s0 s : State} (h : Keeps s0 s) (a1 : SorrelRes) : Keeps s0 (State.stCommit s a1) := by
  unfold State.stCommit
  try dsimp only
  repeat' (first | with_reducible assumption | with_reducible exact Res.keeps_trap | with_reducible exact Res.keeps_soft | with_reducible apply Res.keeps_checks | with_reducible apply Res.keeps_next | with_reducible apply Res.keeps_jump | with_reducible apply Res.keeps_fault | with_reducible apply Res.keeps_stall | with_reducible apply Res.keeps_left | with_reducible apply State.unitEnd_keeps | with_reducible apply State.fuseNext_keeps | with_reducible apply State.recCommit_keeps | with_reducible apply State.raise_keeps | with_reducible apply State.setFld_keeps | with_reducible apply OptKeeps.map | with_reducible apply OptKeeps.mapSnd | with_reducible apply foldl_keeps_id | with_reducible apply foldl_keeps_fst | with_reducible apply foldl_keeps_snd | split | (intro) | (refine keeps_snd (State.unitEnd_keeps ?_ _ _ _ ) (by with_reducible assumption)) | (refine keeps_snd (State.recCommit_keeps ?_ _ _ _ ) (by with_reducible assumption)) | fail_if_no_progress with_reducible apply Keeps.lit | with_reducible exact Nat.le_refl _ | exact Nat.le_succ _ | (fail_if_no_progress dsimp only))
theorem State.stQuadsEnd_keeps {s0 s : State} (h : Keeps s0 s)  : Keeps s0 (State.stQuadsEnd s) := by
  unfold State.stQuadsEnd
  try dsimp only
  repeat' (first | with_reducible assumption | with_reducible apply State.stQuadEnd_keeps | with_reducible apply State.stQuadTest_keeps | with_reducible apply foldl_keeps_id | with_reducible apply foldl_keeps_fst | with_reducible apply foldl_keeps_snd | split | (intro))
theorem State.sorrelEnd_keeps {s0 s : State} (h : Keeps s0 s) (a1 : SorrelRes) : Keeps s0 (State.sorrelEnd s a1) := by
  unfold State.sorrelEnd
  try dsimp only
  repeat' (first | with_reducible assumption | with_reducible exact Res.keeps_trap | with_reducible exact Res.keeps_soft | with_reducible apply Res.keeps_checks | with_reducible apply Res.keeps_next | with_reducible apply Res.keeps_jump | with_reducible apply Res.keeps_fault | with_reducible apply Res.keeps_stall | with_reducible apply Res.keeps_left | with_reducible apply State.raise_keeps | with_reducible apply State.stCommit_keeps | with_reducible apply State.setFld_keeps | with_reducible apply State.stQuadsEnd_keeps | split)
theorem execSorrelEnd_keeps {s0 s : State} (h : Keeps s0 s) (a0 : SorrelRes) : Out.Keeps (execSorrelEnd a0 s) s0 := by
  unfold execSorrelEnd
  refine Out.keeps_next ?_
  try dsimp only
  repeat' (first | with_reducible assumption | with_reducible exact Res.keeps_trap | with_reducible exact Res.keeps_soft | with_reducible apply Res.keeps_checks | with_reducible apply Res.keeps_next | with_reducible apply Res.keeps_jump | with_reducible apply Res.keeps_fault | with_reducible apply Res.keeps_stall | with_reducible apply Res.keeps_left | with_reducible apply State.goOn_keeps | with_reducible apply State.sorrelEnd_keeps)
theorem State.fuseEnd_keeps {s0 s : State} (h : Keeps s0 s) (a1 : Bool) : Keeps s0 (State.fuseEnd s a1) := by
  unfold State.fuseEnd
  split
  · exact h
  · dsimp only
    apply State.fuseNext_keeps
    split
    · exact (h.fuseW _ _).upd rfl rfl rfl (le_refl _) rfl rfl rfl rfl rfl rfl rfl rfl rfl rfl rfl
    · apply State.raise_keeps
      exact h.upd rfl rfl rfl (le_refl _) rfl rfl rfl rfl rfl rfl rfl rfl rfl rfl rfl
theorem execFuseProgramDone_keeps {s0 s : State} (h : Keeps s0 s) (a0 : Bool) : Out.Keeps (execFuseProgramDone a0 s) s0 := by
  unfold execFuseProgramDone
  refine Out.keeps_next ?_
  try dsimp only
  repeat' (first | with_reducible assumption | with_reducible apply State.goOn_keeps | with_reducible apply State.fuseEnd_keeps)
theorem State.fuseRdLate_keeps {s0 s : State} (h : Keeps s0 s)  : Keeps s0 (State.fuseRdLate s) := by
  unfold State.fuseRdLate
  try dsimp only
  repeat' (first | with_reducible assumption | with_reducible apply State.wayClear_keeps | with_reducible apply State.raise_keeps | with_reducible apply State.setRaw_keeps | with_reducible apply foldl_keeps_id | with_reducible apply foldl_keeps_fst | with_reducible apply foldl_keeps_snd | split | (intro) | (refine keeps_snd ?_ (by with_reducible assumption)) | (refine keeps_fst ?_ (by with_reducible assumption)) | fail_if_no_progress with_reducible apply Keeps.lit | with_reducible exact Nat.le_refl _ | exact Nat.le_succ _ | (fail_if_no_progress dsimp only))
theorem State.fuseLate_keeps {s0 s : State} (h : Keeps s0 s)  : Keeps s0 (State.fuseLate s) := by
  unfold State.fuseLate
  split
  · split
    · dsimp only
      apply State.fuseNext_keeps
      apply State.raise_keeps
      split
      · exact ((State.choose_keeps h).fuseW _ _).upd rfl rfl rfl (le_refl _) rfl rfl rfl rfl rfl rfl rfl rfl rfl rfl rfl
      · exact (State.choose_keeps h).upd rfl rfl rfl (le_refl _) rfl rfl rfl rfl rfl rfl rfl rfl rfl rfl rfl
    · exact h
  · exact State.fuseRdLate_keeps h
theorem execFuseTimeout_keeps {s0 s : State} (h : Keeps s0 s)  : Out.Keeps (execFuseTimeout s) s0 := by
  unfold execFuseTimeout
  refine Out.keeps_next ?_
  try dsimp only
  repeat' (first | with_reducible assumption | with_reducible apply State.goOn_keeps | with_reducible apply State.fuseLate_keeps)

end Sys2Proof.Machine
end

