-- ==== Sys2Proof/Laws/Keeps/Modes.lean ====
section
/-! SUPPORT. Sys2Proof/Laws/Keeps/Modes.lean: what the operations of Machine/Modes.lean keep. -/

namespace Sys2Proof.Machine

theorem State.enterService_keeps {s0 s : State} (h : Keeps s0 s) (hm : s0.mode ≠ .flush) : Keeps s0 (State.enterService s) := by
  unfold State.enterService
  try dsimp only
  repeat' (first | with_reducible assumption | (exact absurd (by with_reducible assumption) hm) | with_reducible apply State.setMode_keeps | with_reducible apply State.consCheck_keeps | split | (intro))
theorem State.enterStandby_keeps {s0 s : State} (h : Keeps s0 s) (hm : s0.mode ≠ .flush) : Keeps s0 (State.enterStandby s) := by
  unfold State.enterStandby
  try dsimp only
  repeat' (first | with_reducible assumption | (exact absurd (by with_reducible assumption) hm) | with_reducible apply State.setMode_keeps | with_reducible apply State.flushEnter_keeps | split | (intro))
theorem State.reqSelftest_keeps {s0 s : State} (h : Keeps s0 s) (hm : s0.mode ≠ .flush) : Keeps s0 (State.reqSelftest s) := by
  unfold State.reqSelftest
  try dsimp only
  repeat' (first | with_reducible assumption | (exact absurd (by with_reducible assumption) hm) | with_reducible apply State.stEnter_keeps | with_reducible apply State.raise_keeps | with_reducible apply State.setFld_keeps | split)
theorem State.modeReq_keeps {s0 s : State} (h : Keeps s0 s) (a1 : ℕ) : Keeps s0 (State.modeReq s a1) := by
  unfold State.modeReq
  try dsimp only
  repeat' (first | with_reducible assumption | (exact absurd (h.flush (by with_reducible assumption)) (by simp_all)) | with_reducible apply State.enterStandby_keeps | with_reducible apply State.raise_keeps | with_reducible apply State.enterService_keeps | with_reducible apply State.setMode_keeps | with_reducible apply State.reqSelftest_keeps | split | (intro))
theorem execModeStandby_keeps {s0 s : State} (h : Keeps s0 s) (a0 : Src) : Out.Keeps (execModeStandby a0 s) s0 := by
  unfold execModeStandby
  refine Out.keeps_next ?_
  try dsimp only
  repeat' (first | with_reducible assumption | with_reducible apply State.goOn_keeps | with_reducible apply State.regDo_keeps | with_reducible apply State.modeReq_keeps | split | (intro))
theorem execModeService_keeps {s0 s : State} (h : Keeps s0 s) (a0 : Src) : Out.Keeps (execModeService a0 s) s0 := by
  unfold execModeService
  refine Out.keeps_next ?_
  try dsimp only
  repeat' (first | with_reducible assumption | with_reducible apply State.goOn_keeps | with_reducible apply State.regDo_keeps | with_reducible apply State.modeReq_keeps | split | (intro))
theorem execModeEvacuate_keeps {s0 s : State} (h : Keeps s0 s) (a0 : Src) : Out.Keeps (execModeEvacuate a0 s) s0 := by
  unfold execModeEvacuate
  refine Out.keeps_next ?_
  try dsimp only
  repeat' (first | with_reducible assumption | with_reducible apply State.goOn_keeps | with_reducible apply State.regDo_keeps | with_reducible apply State.modeReq_keeps | split | (intro))
theorem execModeSelftest_keeps {s0 s : State} (h : Keeps s0 s) (a0 : Src) : Out.Keeps (execModeSelftest a0 s) s0 := by
  unfold execModeSelftest
  refine Out.keeps_next ?_
  try dsimp only
  repeat' (first | with_reducible assumption | with_reducible apply State.goOn_keeps | with_reducible apply State.regDo_keeps | with_reducible apply State.modeReq_keeps | split | (intro))

end Sys2Proof.Machine
end

