-- ==== Sys2Proof/Laws/Keeps/Mailbox.lean ====
section
/-! SUPPORT. Sys2Proof/Laws/Keeps/Mailbox.lean: what the operations of Machine/Mailbox.lean keep. -/

namespace Sys2Proof.Machine

theorem State.mbDoor_keeps {s0 s : State} (h : Keeps s0 s) (a1 : Src) (a2 : BitVec 32) : Keeps s0 (State.mbDoor s a1 a2) := by
  unfold State.mbDoor
  try dsimp only
  repeat' (first | with_reducible assumption | with_reducible apply State.accErr_keeps | with_reducible apply State.chvEvent_keeps | with_reducible apply State.setFld_keeps | split)
theorem execDoorbell_keeps {s0 s : State} (h : Keeps s0 s) (a0 : Src) : Out.Keeps (execDoorbell a0 s) s0 := by
  unfold execDoorbell
  refine Out.keeps_next ?_
  try dsimp only
  repeat' (first | with_reducible assumption | with_reducible apply State.regDo_keeps | with_reducible apply State.mbDoor_keeps | split | (intro))
theorem State.mbComp_keeps {s0 s : State} (h : Keeps s0 s) (a1 : Src) (a2 : BitVec 32) : Keeps s0 (State.mbComp s a1 a2) := by
  unfold State.mbComp
  try dsimp only
  repeat' (first | with_reducible assumption | with_reducible apply State.accErr_keeps | with_reducible apply State.setFld_keeps | split | (intro) | (refine keeps_snd ?_ (by with_reducible assumption)) | (refine keeps_fst ?_ (by with_reducible assumption)) | fail_if_no_progress with_reducible apply Keeps.lit | with_reducible exact Nat.le_refl _)
theorem execMbComplete_keeps {s0 s : State} (h : Keeps s0 s) (a0 : Src) : Out.Keeps (execMbComplete a0 s) s0 := by
  unfold execMbComplete
  refine Out.keeps_next ?_
  try dsimp only
  repeat' (first | with_reducible assumption | with_reducible apply State.regDo_keeps | with_reducible apply State.mbComp_keeps | split | (intro))
theorem State.mbServe_keeps {s0 s : State} (h : Keeps s0 s) (a1 : ℕ) (a2 : Bool → State → State) (h2 : ∀ x s, Keeps s0 s → Keeps s0 (a2 x s)) : Keeps s0 (State.mbServe s a1 a2) := by
  unfold State.mbServe
  try dsimp only
  repeat' (first | with_reducible assumption | with_reducible apply h2 | with_reducible apply State.mbReply_keeps | split | (intro) | (refine keeps_snd ?_ (by with_reducible assumption)) | (refine keeps_fst ?_ (by with_reducible assumption)) | fail_if_no_progress with_reducible apply Keeps.lit | with_reducible exact Nat.le_refl _)
theorem State.mbSay_keeps {s0 s : State} (h : Keeps s0 s) (a1 : ℕ) : Keeps s0 (State.mbSay s a1) := by
  unfold State.mbSay
  try dsimp only
  repeat' (first | with_reducible assumption | with_reducible apply State.mbReply_keeps)
theorem execGetVersion_keeps {s0 s : State} (h : Keeps s0 s)  : Out.Keeps (execGetVersion s) s0 := by
  unfold execGetVersion
  refine Out.keeps_next ?_
  try dsimp only
  repeat' (first | with_reducible assumption | with_reducible apply State.mbServe_keeps | with_reducible apply State.mbReply_keeps | split | (intro))
theorem execGetMeasurements_keeps {s0 s : State} (h : Keeps s0 s)  : Out.Keeps (execGetMeasurements s) s0 := by
  unfold execGetMeasurements
  refine Out.keeps_next ?_
  try dsimp only
  repeat' (first | with_reducible assumption | with_reducible apply State.mbServe_keeps | with_reducible apply State.mbReply_keeps | split | (intro))
theorem execGetStatus_keeps {s0 s : State} (h : Keeps s0 s)  : Out.Keeps (execGetStatus s) s0 := by
  unfold execGetStatus
  refine Out.keeps_next ?_
  try dsimp only
  repeat' (first | with_reducible assumption | with_reducible apply State.mbServe_keeps | with_reducible apply State.mbReply_keeps | split | (intro))
theorem execMbFullReset_keeps {s0 s : State} (h : Keeps s0 s)  : Out.Keeps (execMbFullReset s) s0 := by
  unfold execMbFullReset
  refine Out.keeps_next ?_
  try dsimp only
  repeat' (first | with_reducible assumption | with_reducible apply State.mbServe_keeps | with_reducible apply State.goOn_keeps | with_reducible apply State.fullReq_keeps | with_reducible apply State.mbReply_keeps | split | (intro))
theorem execPmcRead_keeps {s0 s : State} (h : Keeps s0 s)  : Out.Keeps (execPmcRead s) s0 := by
  unfold execPmcRead
  refine Out.keeps_next ?_
  try dsimp only
  repeat' (first | with_reducible assumption | with_reducible apply State.mbServe_keeps | with_reducible apply State.mbReply_keeps | split | (intro))
theorem State.shutTest_keeps {s0 s : State} (h : Keeps s0 s)  : Keeps s0 (State.shutTest s) := by
  unfold State.shutTest
  try dsimp only
  repeat' (first | with_reducible assumption | with_reducible apply State.modeReq_keeps | with_reducible apply State.regPut_keeps)
theorem State.shutCommit_keeps {s0 s : State} (h : Keeps s0 s)  : Keeps s0 (State.shutCommit s) := by
  unfold State.shutCommit
  try dsimp only
  repeat' (first | with_reducible assumption | with_reducible apply State.lifeCommit_keeps | with_reducible apply State.mbSay_keeps | with_reducible apply State.recCommit_keeps | with_reducible apply State.mbReply_keeps | split)
theorem State.descGo_keeps {s0 s : State} (h : Keeps s0 s) (a1 : ChanId) (a2 : ℕ) (a3 : ℕ) (a4 : ℕ) (a5 : ℕ) (a6 : ℕ) : Keeps s0 (State.descGo s a1 a2 a3 a4 a5 a6) := by
  unfold State.descGo
  try dsimp only
  repeat' (first | with_reducible assumption | with_reducible apply State.chanGo_keeps | split | (intro) | fail_if_no_progress with_reducible apply Keeps.lit | with_reducible exact Nat.le_refl _ | exact Nat.le_succ _ | fail_if_no_progress with_reducible apply Keeps.litBmem | with_reducible apply memWrite_wf)
theorem State.evacGo_keeps {s0 s : State} (h : Keeps s0 s)  : Keeps s0 (State.evacGo s) := by
  unfold State.evacGo
  try dsimp only
  repeat' (first | with_reducible assumption | with_reducible apply State.bulkBank_keeps | with_reducible apply State.descGo_keeps | with_reducible apply foldl_keeps_id | with_reducible apply foldl_keeps_fst | with_reducible apply foldl_keeps_snd | split | (intro) | (refine keeps_snd ?_ (by with_reducible assumption)) | (refine keeps_fst ?_ (by with_reducible assumption)) | fail_if_no_progress with_reducible apply Keeps.lit | with_reducible exact Nat.le_refl _ | exact Nat.le_succ _ | (fail_if_no_progress dsimp only))
theorem State.shutdown_keeps {s0 s : State} (h : Keeps s0 s)  : Keeps s0 (State.shutdown s) := by
  unfold State.shutdown
  try dsimp only
  repeat' (first | with_reducible assumption | with_reducible apply State.mbSay_keeps | with_reducible apply State.modeReq_keeps | with_reducible apply State.evacGo_keeps | with_reducible apply State.shutTest_keeps | with_reducible apply State.mbReply_keeps | with_reducible apply State.shutCommit_keeps | split | (intro) | (refine keeps_snd ?_ (by with_reducible assumption)) | (refine keeps_fst ?_ (by with_reducible assumption)) | fail_if_no_progress with_reducible apply Keeps.lit | with_reducible exact Nat.le_refl _ | exact Nat.le_succ _ | (fail_if_no_progress dsimp only))
theorem execMbShutdown_keeps {s0 s : State} (h : Keeps s0 s)  : Out.Keeps (execMbShutdown s) s0 := by
  unfold execMbShutdown
  refine Out.keeps_next ?_
  try dsimp only
  repeat' (first | with_reducible assumption | with_reducible apply State.goOn_keeps | with_reducible apply State.mbServe_keeps | with_reducible apply State.shutdown_keeps | split | (intro) | fail_if_no_progress with_reducible apply Keeps.lit | with_reducible exact Nat.le_refl _ | exact Nat.le_succ _ | (fail_if_no_progress dsimp only))
theorem State.ctxPut_keeps {s0 s : State} (h : Keeps s0 s) (a1 : BitVec 16) (a2 : ℕ) : Keeps s0 (State.ctxPut s a1 a2) := by
  unfold State.ctxPut
  try dsimp only
  repeat' (first | with_reducible assumption | (intro) | fail_if_no_progress with_reducible apply Keeps.lit | with_reducible exact Nat.le_refl _ | exact Nat.le_succ _ | fail_if_no_progress with_reducible apply Keeps.litBmem | with_reducible apply memWrite_wf)
theorem State.mbCtxSet_keeps {s0 s : State} (h : Keeps s0 s) (a1 : BmErr) : Keeps s0 (State.mbCtxSet s a1) := by
  unfold State.mbCtxSet
  try dsimp only
  repeat' (first | with_reducible assumption | with_reducible apply State.mbSay_keeps | with_reducible apply State.bmErrs_keeps | with_reducible apply State.ctxPut_keeps | with_reducible apply OptKeeps.map | with_reducible apply OptKeeps.mapSnd | split)
theorem execCtxSet_keeps {s0 s : State} (h : Keeps s0 s) (a0 : BmErr) : Out.Keeps (execCtxSet a0 s) s0 := by
  unfold execCtxSet
  refine Out.keeps_next ?_
  try dsimp only
  repeat' (first | with_reducible assumption | with_reducible apply State.mbServe_keeps | with_reducible apply State.mbCtxSet_keeps | split | (intro))
theorem State.runsPut_keeps {s0 s : State} (h : Keeps s0 s) (a1 : BitVec 16) (a2 : List Run) : Keeps s0 (State.runsPut s a1 a2) := by
  have k : ∀ {α : Type} (f : Memory → α → Memory) (l : List α) (m : Memory), (∀ m a, Memory.wf m = true → Memory.wf (f m a) = true) →
      Memory.wf m = true → Memory.wf (l.foldl f m) = true := by
    intro α f l m hf
    induction l generalizing m with
    | nil => exact id
    | cons a l ih => exact fun h => ih _ (hf _ _ h)
  unfold State.runsPut
  dsimp only
  apply State.ctxPut_keeps
  exact h.bmemC _ fun c => k _ _ _ (fun _ _ h => memWrite_wf _ _ _ _ h) (k _ _ _ (fun _ _ h => memWrite_wf _ _ _ _ h) c.bmem)
theorem State.mbMap_keeps {s0 s : State} (h : Keeps s0 s) (a1 : BmErr) : Keeps s0 (State.mbMap s a1) := by
  unfold State.mbMap
  try dsimp only
  repeat' (first | with_reducible assumption | with_reducible apply State.mbSay_keeps | with_reducible apply State.bmErrs_keeps | with_reducible apply State.runsPut_keeps | with_reducible apply OptKeeps.map | with_reducible apply OptKeeps.mapSnd | split)
theorem execMapRun_keeps {s0 s : State} (h : Keeps s0 s) (a0 : BmErr) : Out.Keeps (execMapRun a0 s) s0 := by
  unfold execMapRun
  refine Out.keeps_next ?_
  try dsimp only
  repeat' (first | with_reducible assumption | with_reducible apply State.mbServe_keeps | with_reducible apply State.mbMap_keeps | split | (intro))
theorem State.recallGo_keeps {s0 s : State} (h : Keeps s0 s) (a1 : ChanId) (a2 : ℕ) (a3 : Run) (a4 : Bool) (a5 : ℕ) : Keeps s0 (State.recallGo s a1 a2 a3 a4 a5) := by
  unfold State.recallGo
  try dsimp only
  repeat' (first | with_reducible assumption | with_reducible apply State.descGo_keeps | split)
theorem State.unmapMid_keeps {s0 s : State} (h : Keeps s0 s) (a1 : BitVec 16) (a2 : Run) : Keeps s0 (State.unmapMid s a1 a2) := by
  unfold State.unmapMid
  try dsimp only
  repeat' (first | with_reducible assumption | with_reducible apply State.runsPut_keeps | with_reducible apply State.setRaw_keeps | with_reducible apply State.xltRun_keeps | (intro) | fail_if_no_progress with_reducible apply Keeps.lit | with_reducible exact Nat.le_refl _)
theorem State.mbUnmap_keeps {s0 s : State} (h : Keeps s0 s) (a1 : BmErr) : Keeps s0 (State.mbUnmap s a1) := by
  unfold State.mbUnmap
  try dsimp only
  repeat' (first | with_reducible assumption | with_reducible apply State.mbSay_keeps | with_reducible apply State.bmErrs_keeps | with_reducible apply State.recallGo_keeps | with_reducible apply State.unmapMid_keeps | with_reducible apply OptKeeps.map | with_reducible apply OptKeeps.mapSnd | split | (intro) | (refine keeps_snd ?_ (by with_reducible assumption)) | (refine keeps_fst ?_ (by with_reducible assumption)) | fail_if_no_progress with_reducible apply Keeps.lit | with_reducible exact Nat.le_refl _)
theorem execUnmapRun_keeps {s0 s : State} (h : Keeps s0 s) (a0 : BmErr) : Out.Keeps (execUnmapRun a0 s) s0 := by
  unfold execUnmapRun
  refine Out.keeps_next ?_
  try dsimp only
  repeat' (first | with_reducible assumption | with_reducible apply State.goOn_keeps | with_reducible apply State.mbServe_keeps | with_reducible apply State.mbUnmap_keeps | split | (intro))
theorem State.migAgain_keeps {s0 s : State} (h : Keeps s0 s) (a1 : ChanId) (a2 : ℕ) : Keeps s0 (State.migAgain s a1 a2) := by
  unfold State.migAgain
  try dsimp only
  repeat' (first | with_reducible assumption | with_reducible apply State.chanGo_keeps | (intro) | fail_if_no_progress with_reducible apply Keeps.lit | with_reducible exact Nat.le_refl _ | exact Nat.le_succ _ | fail_if_no_progress with_reducible apply Keeps.litBmem | with_reducible apply memWrite_wf)
theorem State.migSame_keeps {s0 s : State} (h : Keeps s0 s) (a1 : ChanId) (a2 : ChSt) (a3 : Option ℕ) : Keeps s0 (State.migSame s a1 a2 a3) := by
  have k := fun b => State.mbReply_keeps h 0 b false
  have k2 := fun n b => State.mbReply_keeps (State.migAgain_keeps h a1 n) 0 b false
  cases a3 with
  | none => cases a2 <;> exact k _
  | some n => cases a2 <;> first | exact k _ | exact k2 _ _
theorem State.mbMigStart_keeps {s0 s : State} (h : Keeps s0 s) (a1 : BmErr) : Keeps s0 (State.mbMigStart s a1) := by
  unfold State.mbMigStart
  refine keeps_ite (fun _ => State.mbSay_keeps h _) fun _ => ?_
  refine keeps_ite (fun _ => State.mbSay_keeps h _) fun _ => ?_
  refine keeps_ite (fun _ => State.mbSay_keeps (State.bmErrs_keeps h _) _) fun _ => ?_
  refine keeps_ite (fun _ => State.mbSay_keeps (State.bmErrs_keeps h _) _) fun _ => ?_
  have k := State.bmErrs_keeps h a1
  refine keeps_ite (fun _ => State.migSame_keeps k _ _ _) fun _ => ?_
  split
  · exact State.mbSay_keeps k _
  · next c _ =>
    generalize hd : State.descGo _ c _ _ _ _ _ = d
    have g : Keeps s0 d := hd ▸ State.descGo_keeps k _ _ _ _ _ _
    have g1 : ∀ n, Keeps s0 (d.mbSay n) := fun n => State.mbSay_keeps g n
    refine keeps_ite (fun _ => ?_) fun _ => State.mbReply_keeps g _ _ _
    split
    · exact g1 5
    · exact g1 8
theorem execMigStart_keeps {s0 s : State} (h : Keeps s0 s) (a0 : BmErr) : Out.Keeps (execMigStart a0 s) s0 := by
  unfold execMigStart
  refine Out.keeps_next ?_
  try dsimp only
  repeat' (first | with_reducible assumption | with_reducible apply State.goOn_keeps | with_reducible apply State.mbServe_keeps | with_reducible apply State.mbMigStart_keeps | split | (intro))
theorem execMigStatus_keeps {s0 s : State} (h : Keeps s0 s) (a0 : BmErr) : Out.Keeps (execMigStatus a0 s) s0 := by
  unfold execMigStatus
  refine Out.keeps_next ?_
  try dsimp only
  repeat' (first | with_reducible assumption | with_reducible apply State.mbServe_keeps | with_reducible apply State.mbSay_keeps | with_reducible apply State.bmErrs_keeps | with_reducible apply State.mbReply_keeps | split | (intro))
theorem State.mbMigResume_keeps {s0 s : State} (h : Keeps s0 s) (a1 : BmErr) : Keeps s0 (State.mbMigResume s a1) := by
  unfold State.mbMigResume
  try dsimp only
  repeat' (first | with_reducible assumption | with_reducible apply State.mbSay_keeps | with_reducible apply State.chanResume_keeps | with_reducible apply State.bmErrs_keeps | with_reducible apply State.migAgain_keeps | split)
theorem execMigResume_keeps {s0 s : State} (h : Keeps s0 s) (a0 : BmErr) : Out.Keeps (execMigResume a0 s) s0 := by
  unfold execMigResume
  refine Out.keeps_next ?_
  try dsimp only
  repeat' (first | with_reducible assumption | with_reducible apply State.goOn_keeps | with_reducible apply State.mbServe_keeps | with_reducible apply State.mbMigResume_keeps | split | (intro))
theorem State.mbMigStop_keeps {s0 s : State} (h : Keeps s0 s)  : Keeps s0 (State.mbMigStop s) := by
  unfold State.mbMigStop
  try dsimp only
  repeat' (first | with_reducible assumption | with_reducible apply State.mbSay_keeps | with_reducible apply State.chanStop_keeps | split)
theorem execMigStop_keeps {s0 s : State} (h : Keeps s0 s)  : Out.Keeps (execMigStop s) s0 := by
  unfold execMigStop
  refine Out.keeps_next ?_
  try dsimp only
  repeat' (first | with_reducible assumption | with_reducible apply State.goOn_keeps | with_reducible apply State.mbServe_keeps | with_reducible apply State.mbMigStop_keeps | split | (intro))
theorem execSetPower_keeps {s0 s : State} (h : Keeps s0 s)  : Out.Keeps (execSetPower s) s0 := by
  unfold execSetPower
  refine Out.keeps_next ?_
  try dsimp only
  repeat' (first | with_reducible assumption | with_reducible apply State.mbServe_keeps | with_reducible apply State.mbSay_keeps | with_reducible apply State.setFld_keeps | split | (intro))
theorem State.quenchQuad_keeps {s0 s : State} (h : Keeps s0 s) (a1 : QuadId) (a2 : BitVec 32) : Keeps s0 (State.quenchQuad s a1 a2) := by
  unfold State.quenchQuad
  try dsimp only
  repeat' (first | with_reducible assumption | with_reducible apply State.quenchSet_keeps | with_reducible apply foldl_keeps_id | with_reducible apply foldl_keeps_fst | with_reducible apply foldl_keeps_snd | split | (intro))
theorem State.bulkQuad_keeps {s0 s : State} (h : Keeps s0 s) (a1 : QuadId) : Keeps s0 (State.bulkQuad s a1) := by
  unfold State.bulkQuad
  try dsimp only
  repeat' (first | with_reducible assumption | with_reducible apply State.bulkBank_keeps | with_reducible apply foldl_keeps_id | with_reducible apply foldl_keeps_fst | with_reducible apply foldl_keeps_snd | split | (intro) | fail_if_no_progress with_reducible apply Keeps.lit | with_reducible exact Nat.le_refl _ | exact Nat.le_succ _ | (fail_if_no_progress dsimp only))
theorem State.homeWrite_keeps {s0 s : State} (h : Keeps s0 s) (a1 : ℕ → NodeId) : Keeps s0 (State.homeWrite s a1) := by
  unfold State.homeWrite
  try dsimp only
  repeat' (first | with_reducible assumption | with_reducible apply State.setFld_keeps | with_reducible apply foldl_keeps_id | with_reducible apply foldl_keeps_fst | with_reducible apply foldl_keeps_snd | split | (intro))
theorem State.sinkQuad_keeps {s0 s : State} (h : Keeps s0 s) (a1 : QuadId) (a2 : ℕ) : Keeps s0 (State.sinkQuad s a1 a2) := by
  unfold State.sinkQuad
  try dsimp only
  repeat' (first | with_reducible assumption | with_reducible apply State.setFld_keeps | with_reducible apply foldl_keeps_id | with_reducible apply foldl_keeps_fst | with_reducible apply foldl_keeps_snd | split | (intro))
theorem State.slotsAway_keeps {s0 s : State} (h : Keeps s0 s) (a1 : QuadId) : Keeps s0 (State.slotsAway s a1) := by
  unfold State.slotsAway
  try dsimp only
  repeat' (first | with_reducible assumption | with_reducible apply State.sinkQuad_keeps | with_reducible apply State.homeWrite_keeps)
theorem State.slotsBack_keeps {s0 s : State} (h : Keeps s0 s) (a1 : QuadId) : Keeps s0 (State.slotsBack s a1) := by
  unfold State.slotsBack
  try dsimp only
  repeat' (first | with_reducible assumption | with_reducible apply State.sinkQuad_keeps | with_reducible apply State.homeWrite_keeps)
theorem State.gateSay_keeps {s0 s : State} (h : Keeps s0 s) (a1 : QuadId) (a2 : ℕ) : Keeps s0 (State.gateSay s a1 a2) := by
  unfold State.gateSay
  try dsimp only
  repeat' (first | with_reducible assumption | with_reducible apply State.mbReply_keeps)
theorem State.gateDrain_keeps {s0 s : State} (h : Keeps s0 s) (a1 : QuadId) (a2 : QuadId) (a3 : Bool) (a4 : State → State) (h4 : ∀ s, Keeps s0 s → Keeps s0 (a4 s)) : Keeps s0 (State.gateDrain s a1 a2 a3 a4) := by
  unfold State.gateDrain
  try dsimp only
  repeat' (first | with_reducible assumption | with_reducible apply h4 | with_reducible apply State.bulkQuad_keeps | split | (intro) | fail_if_no_progress with_reducible apply Keeps.lit | with_reducible exact Nat.le_refl _ | exact Nat.le_succ _ | (fail_if_no_progress dsimp only))
theorem State.mbGate_keeps {s0 s : State} (h : Keeps s0 s)  : Keeps s0 (State.mbGate s) := by
  unfold State.mbGate
  try dsimp only
  repeat' (first | with_reducible assumption | with_reducible apply State.mbSay_keeps | with_reducible apply State.ungateGo_keeps | with_reducible apply State.gateSay_keeps | with_reducible apply State.gateGo_keeps | with_reducible apply State.quenchQuad_keeps | with_reducible apply State.gateDrain_keeps | with_reducible apply State.epGo_keeps | with_reducible apply State.slotsAway_keeps | with_reducible apply State.slotsBack_keeps | split | (intro) | (refine keeps_snd ?_ (by with_reducible assumption)) | (refine keeps_fst ?_ (by with_reducible assumption)) | fail_if_no_progress with_reducible apply Keeps.lit | with_reducible exact Nat.le_refl _ | exact Nat.le_succ _ | (fail_if_no_progress dsimp only))
theorem execMbGate_keeps {s0 s : State} (h : Keeps s0 s)  : Out.Keeps (execMbGate s) s0 := by
  unfold execMbGate
  refine Out.keeps_next ?_
  try dsimp only
  repeat' (first | with_reducible assumption | with_reducible apply State.goOn_keeps | with_reducible apply State.mbServe_keeps | with_reducible apply State.mbGate_keeps | split | (intro) | fail_if_no_progress with_reducible apply Keeps.lit | with_reducible exact Nat.le_refl _ | exact Nat.le_succ _ | (fail_if_no_progress dsimp only))

end Sys2Proof.Machine
end

