-- ==== Sys2Proof/Laws/Keeps/Debug.lean ====
section
/-! SUPPORT. Sys2Proof/Laws/Keeps/Debug.lean: what the operations of Machine/Debug.lean keep. -/

namespace Sys2Proof.Machine

theorem State.freeWord_keeps {s0 s : State} (h : Keeps s0 s)  : Keeps s0 (State.freeWord s).2 := by
  unfold State.freeWord
  try dsimp only
  repeat' (first | with_reducible assumption | (intro) | fail_if_no_progress with_reducible apply Keeps.lit | with_reducible exact Nat.le_refl _ | exact Nat.le_succ _)
theorem State.granFree_keeps {s0 s : State} (h : Keeps s0 s) (a1 : HpId) : Keeps s0 (State.granFree s a1).2 := by
  unfold State.granFree
  try dsimp only
  repeat' (first | with_reducible assumption | with_reducible apply State.freeWord_keeps | split)
theorem State.granGet_keeps {s0 s : State} (h : Keeps s0 s) (a1 : Arr) (a2 : ℕ) : Keeps s0 (State.granGet s a1 a2).2 := by
  unfold State.granGet
  try dsimp only
  repeat' (first | with_reducible assumption | with_reducible apply State.freeWord_keeps | with_reducible apply State.granFree_keeps | split)
theorem State.granPut_keeps {s0 s : State} (h : Keeps s0 s) (a1 : Arr) (a2 : ℕ) (a3 : Word) (a4 : BitVec 8) (a5 : Bool) (a6 : ℕ) : Keeps s0 (State.granPut s a1 a2 a3 a4 a5 a6) := by
  unfold State.granPut
  try dsimp only
  repeat' (first | with_reducible assumption | with_reducible apply State.modNd_keeps | with_reducible apply State.setQue_keeps | with_reducible apply State.freeWord_keeps | with_reducible apply State.setQd_keeps | with_reducible apply State.setHp_keeps | with_reducible apply State.setMp_keeps | with_reducible apply State.setSes_keeps | split | (intro) | (refine keeps_snd (State.freeWord_keeps ?_ ) (by with_reducible assumption)) | (refine keeps_snd ?_ (by with_reducible assumption)) | (refine keeps_fst ?_ (by with_reducible assumption)) | fail_if_no_progress with_reducible apply Keeps.lit | with_reducible exact Nat.le_refl _)
theorem State.dbgLoad_keeps {s0 s : State} (h : Keeps s0 s) (a1 : Arr) (a2 : Gran) (a3 : Bool) : Keeps s0 (State.dbgLoad s a1 a2 a3) := by
  unfold State.dbgLoad
  try dsimp only
  repeat' (first | with_reducible assumption | with_reducible apply State.setFld_keeps)
theorem State.apMiss_keeps {s0 s : State} (h : Keeps s0 s) (a1 : Src) (a2 : ℕ) (a3 : Bool) (a4 : Bool) : Keeps s0 (State.apMiss s a1 a2 a3 a4) := by
  unfold State.apMiss
  try dsimp only
  repeat' (first | with_reducible assumption | with_reducible apply State.accErr_keeps | with_reducible apply State.setFld_keeps | (intro) | fail_if_no_progress with_reducible apply Keeps.lit | with_reducible exact Nat.le_refl _)
theorem State.apRead_keeps {s0 s : State} (h : Keeps s0 s) (a1 : Src) (a2 : ℕ) : Keeps s0 (State.apRead s a1 a2).2 := by
  unfold State.apRead
  try dsimp only
  repeat' (first | with_reducible assumption | with_reducible apply State.apMiss_keeps | with_reducible apply State.setFld_keeps | with_reducible apply State.granGet_keeps | with_reducible apply State.dbgLoad_keeps | split | (intro) | (refine keeps_snd (State.granGet_keeps ?_ _ _ ) (by with_reducible assumption)) | (refine keeps_snd ?_ (by with_reducible assumption)) | (refine keeps_fst ?_ (by with_reducible assumption)) | fail_if_no_progress with_reducible apply Keeps.lit | with_reducible exact Nat.le_refl _)
theorem State.apWrite_keeps {s0 s : State} (h : Keeps s0 s) (a1 : Src) (a2 : ℕ) (a3 : BitVec 32) : Keeps s0 (State.apWrite s a1 a2 a3) := by
  unfold State.apWrite
  try dsimp only
  repeat' (first | with_reducible assumption | with_reducible apply State.apMiss_keeps | with_reducible apply State.setFld_keeps | with_reducible apply State.granPut_keeps | with_reducible apply State.granGet_keeps | split | (intro) | (refine keeps_snd (State.granGet_keeps ?_ _ _ ) (by with_reducible assumption)) | (refine keeps_snd ?_ (by with_reducible assumption)) | (refine keeps_fst ?_ (by with_reducible assumption)) | fail_if_no_progress with_reducible apply Keeps.lit | with_reducible exact Nat.le_refl _)
theorem State.apAcc_keeps {s0 s : State} (h : Keeps s0 s) (a1 : Src) (a2 : BitVec 20) (a3 : Bool) (a4 : ℕ) (a5 : State → BitVec 32 × State) (h5 : ∀ s, Keeps s0 s → Keeps s0 (a5 s).2) : Keeps s0 (State.apAcc s a1 a2 a3 a4 a5) := by
  unfold State.apAcc
  try dsimp only
  repeat' (first | with_reducible assumption | with_reducible apply h5 | with_reducible apply State.regAccIf_keeps | split)
theorem execApertureReadLow_keeps {s0 s : State} (h : Keeps s0 s) (a0 : Src) (a1 : BitVec 20) : Out.Keeps (execApertureReadLow a0 a1 s) s0 := by
  unfold execApertureReadLow
  refine Out.keeps_next ?_
  try dsimp only
  repeat' (first | with_reducible assumption | with_reducible apply State.apAcc_keeps | with_reducible apply State.apRead_keeps | split | (intro))
theorem execApertureReadHigh_keeps {s0 s : State} (h : Keeps s0 s) (a0 : Src) (a1 : BitVec 20) : Out.Keeps (execApertureReadHigh a0 a1 s) s0 := by
  unfold execApertureReadHigh
  refine Out.keeps_next ?_
  try dsimp only
  repeat' (first | with_reducible assumption | with_reducible apply State.apAcc_keeps | with_reducible apply State.apRead_keeps | split | (intro))
theorem execApertureWriteLow_keeps {s0 s : State} (h : Keeps s0 s) (a0 : Src) (a1 : BitVec 20) (a2 : BitVec 32) : Out.Keeps (execApertureWriteLow a0 a1 a2 s) s0 := by
  unfold execApertureWriteLow
  refine Out.keeps_next ?_
  try dsimp only
  repeat' (first | with_reducible assumption | with_reducible apply State.apAcc_keeps | with_reducible apply State.goOn_keeps | with_reducible apply State.apWrite_keeps | split | (intro))
theorem execApertureWriteHigh_keeps {s0 s : State} (h : Keeps s0 s) (a0 : Src) (a1 : BitVec 20) (a2 : BitVec 32) : Out.Keeps (execApertureWriteHigh a0 a1 a2 s) s0 := by
  unfold execApertureWriteHigh
  refine Out.keeps_next ?_
  try dsimp only
  repeat' (first | with_reducible assumption | with_reducible apply State.apAcc_keeps | with_reducible apply State.goOn_keeps | with_reducible apply State.apWrite_keeps | split | (intro))
theorem State.scrubSurv_keeps {s0 s : State} (h : Keeps s0 s)  : Keeps s0 (State.scrubSurv s) := by
  unfold State.scrubSurv
  try dsimp only
  repeat' (first | with_reducible assumption | with_reducible apply State.survGran_keeps | with_reducible apply State.scrubOn_keeps | (intro) | fail_if_no_progress with_reducible apply Keeps.lit | with_reducible exact Nat.le_refl _ | exact Nat.le_succ _ | (fail_if_no_progress dsimp only))
theorem execScrubTick_keeps {s0 s : State} (h : Keeps s0 s) (a0 : Scrubber) : Out.Keeps (execScrubTick a0 s) s0 := by
  unfold execScrubTick
  refine Out.keeps_next ?_
  try dsimp only
  repeat' (first | with_reducible assumption | with_reducible apply State.scrubSurv_keeps | with_reducible apply State.scrub_keeps | with_reducible apply State.goOn_keeps | split)

end Sys2Proof.Machine
end

