-- ==== Sys2Proof/Laws/Keeps/RegPort.lean ====
section
/-! SUPPORT. Sys2Proof/Laws/Keeps/RegPort.lean: what the operations of Machine/RegPort.lean keep. -/

namespace Sys2Proof.Machine

theorem State.regSet_keeps {s0 s : State} (h : Keeps s0 s) (a1 : Src) (a2 : ℕ) (a3 : BitVec 32) : Keeps s0 (State.regSet s a1 a2 a3) := by
  unfold State.regSet
  try dsimp only
  repeat' (first | with_reducible assumption | with_reducible apply State.modeReq_keeps | with_reducible apply State.rstReq_keeps | with_reducible apply State.wdogWrite_keeps | with_reducible apply State.bootCtrl_keeps | with_reducible apply State.mbDoor_keeps | with_reducible apply State.mbComp_keeps | with_reducible apply State.extGo_keeps | with_reducible apply State.regPut_keeps | split)
theorem State.regTo_keeps {s0 s : State} (h : Keeps s0 s) (a1 : Src) (a2 : ℕ) (a3 : BitVec 32) : Keeps s0 (State.regTo s a1 a2 a3) := by
  unfold State.regTo
  try dsimp only
  repeat' (first | with_reducible assumption | with_reducible apply State.regAccIf_keeps | with_reducible apply State.apWrite_keeps | with_reducible apply State.regDo_keeps | with_reducible apply State.regSet_keeps | split | (intro))
theorem State.regGet_keeps {s0 s : State} (h : Keeps s0 s) (a1 : Src) (a2 : ℕ) : Keeps s0 (State.regGet s a1 a2).2 := by
  unfold State.regGet
  try dsimp only
  repeat' (first | with_reducible assumption | with_reducible apply State.apRead_keeps | with_reducible apply State.freeWord_keeps | with_reducible apply State.evWin_keeps | split | (intro) | (refine keeps_snd (State.apRead_keeps ?_ _ _ ) (by with_reducible assumption)) | (refine keeps_snd (State.freeWord_keeps ?_ ) (by with_reducible assumption)) | (refine keeps_snd (State.evWin_keeps ?_ _ _ _ _ ) (by with_reducible assumption)) | fail_if_no_progress with_reducible apply Keeps.lit | with_reducible exact Nat.le_refl _ | exact Nat.le_succ _ | (fail_if_no_progress dsimp only))
theorem State.regRd_keeps {s0 s : State} (h : Keeps s0 s) (a1 : Src) (a2 : ℕ) : Keeps s0 (State.regRd s a1 a2) := by
  unfold State.regRd
  try dsimp only
  repeat' (first | with_reducible assumption | with_reducible apply State.regAccIf_keeps | with_reducible apply State.regGet_keeps | with_reducible apply State.regAcc_keeps | split | (intro) | (refine keeps_snd (State.regGet_keeps ?_ _ _ ) (by with_reducible assumption)) | fail_if_no_progress with_reducible apply Keeps.lit | with_reducible exact Nat.le_refl _ | exact Nat.le_succ _ | (fail_if_no_progress dsimp only))
theorem State.portAcc_keeps {s0 s : State} (h : Keeps s0 s) (a1 : ℕ) (a2 : Bool) (a3 : BitVec 32) (a4 : BitVec 4) (a5 : Bool) : Keeps s0 (State.portAcc s a1 a2 a3 a4 a5) := by
  unfold State.portAcc
  try dsimp only
  repeat' (first | with_reducible assumption | with_reducible apply State.cfgNote_keeps | with_reducible apply State.accErr_keeps | with_reducible apply State.goOn_keeps | with_reducible apply State.regTo_keeps | with_reducible apply State.regRd_keeps | split | (intro) | fail_if_no_progress with_reducible apply Keeps.lit | with_reducible exact Nat.le_refl _ | exact Nat.le_succ _ | (fail_if_no_progress dsimp only))
theorem execRegisterWrite_keeps {s0 s : State} (h : Keeps s0 s) (a0 : BitVec 24) (a1 : Option (BitVec 32)) (a2 : BitVec 4) (a3 : Bool) : Out.Keeps (execRegisterWrite a0 a1 a2 a3 s) s0 := by
  unfold execRegisterWrite
  refine Out.keeps_next ?_
  try dsimp only
  repeat' (first | with_reducible assumption | with_reducible apply State.portAcc_keeps | with_reducible apply OptKeeps.getD | (intro) | fail_if_no_progress with_reducible apply Keeps.lit | with_reducible exact Nat.le_refl _ | exact Nat.le_succ _ | (fail_if_no_progress dsimp only))

end Sys2Proof.Machine
end

