-- ==== Sys2Proof/Laws/Keeps/Completion.lean ====
section
/-! SUPPORT. Sys2Proof/Laws/Keeps/Completion.lean: what the operations of Machine/Completion.lean keep. -/

namespace Sys2Proof.Machine

theorem State.regFrom_keeps {s0 s : State} (h : Keeps s0 s) (a1 : Src) (a2 : ℕ) : Keeps s0 (State.regFrom s a1 a2).2 := by
  unfold State.regFrom
  try dsimp only
  repeat' (first | with_reducible assumption | with_reducible apply State.accErr_keeps | with_reducible apply State.regGet_keeps | split | (intro) | (refine keeps_snd (State.regGet_keeps ?_ _ _ ) (by with_reducible assumption)) | fail_if_no_progress with_reducible apply Keeps.lit | with_reducible exact Nat.le_refl _ | exact Nat.le_succ _ | (fail_if_no_progress dsimp only))
theorem State.storeEcc_keeps {s0 s : State} (h : Keeps s0 s) (a1 : Thr) (a2 : ℕ) (a3 : EccMem × Bool × Bool) (a4 : State → EccMem → State) (h4 : ∀ s x, Keeps s0 s → Keeps s0 (a4 s x)) : Keeps s0 (State.storeEcc s a1 a2 a3 a4) := by
  unfold State.storeEcc
  try dsimp only
  repeat' (first | with_reducible assumption | with_reducible apply h4 | with_reducible apply State.scrErrs_keeps)
theorem State.perform_keeps {s0 s : State} (h : Keeps s0 s) (a1 : Thr) (a2 : SbEnt) : Keeps s0 (State.perform s a1 a2) := by
  unfold State.perform
  try dsimp only
  repeat' (first | with_reducible assumption | with_reducible apply State.storeEcc_keeps | with_reducible apply State.setCore_keeps | with_reducible apply State.regTo_keeps | split | (intro))
theorem State.deliverMgt_keeps {s0 s : State} (h : Keeps s0 s) (a1 : Thr) (a2 : SbEnt) : OptKeeps s0 (State.deliverMgt s a1 a2) := by
  unfold State.deliverMgt
  try dsimp only
  repeat' (first | with_reducible assumption | with_reducible apply State.inboxPut_keeps | with_reducible exact OptKeeps.none | with_reducible apply OptKeeps.some | with_reducible apply State.dmaMsg_keeps | with_reducible apply State.inboxPut_keeps | split)
theorem State.accBm_keeps {s0 s : State} (h : Keeps s0 s) (a1 : Thr) (a2 : Option ℕ) (a3 : BmErr) : Keeps s0 (State.accBm s a1 a2 a3) := by
  unfold State.accBm
  try dsimp only
  repeat' (first | with_reducible assumption | with_reducible apply State.bmDone_keeps | split)
theorem State.sbComplete_keeps {s0 s : State} (h : Keeps s0 s) (a1 : Thr) (a2 : List SbEnt) (a3 : SbEnt) (a4 : BmErr) : Keeps s0 (State.sbComplete s a1 a2 a3 a4) := by
  unfold State.sbComplete
  try dsimp only
  repeat' (first | with_reducible assumption | with_reducible apply State.raise_keeps | with_reducible apply State.deliverMgt_keeps | with_reducible apply State.dropSb_keeps | with_reducible apply State.accBm_keeps | with_reducible apply State.perform_keeps | split | (intro) | (refine OptKeeps.elim (State.deliverMgt_keeps ?_ _ _ ) (by with_reducible assumption)))
theorem State.pendComplete_keeps {s0 s : State} (h : Keeps s0 s) (a1 : Thr) (a2 : BmErr) : Keeps s0 (State.pendComplete s a1 a2) := by
  unfold State.pendComplete
  try dsimp only
  repeat' (first | with_reducible assumption | with_reducible apply State.accBm_keeps | with_reducible apply State.raise_keeps | with_reducible apply State.regFrom_keeps | with_reducible apply State.pendOk_keeps | with_reducible apply State.ramRead_keeps | with_reducible apply State.pendTrap_keeps | with_reducible apply State.ramAmo_keeps | split | (intro) | (refine keeps_snd (State.regFrom_keeps ?_ _ _ ) (by with_reducible assumption)) | (refine keeps_snd (State.ramRead_keeps ?_ _ _ _ _ ) (by with_reducible assumption)) | (refine keeps_snd (State.ramAmo_keeps ?_ _ _ _ _ _ _ ) (by with_reducible assumption)) | (refine keeps_snd ?_ (by with_reducible assumption)) | (refine keeps_fst ?_ (by with_reducible assumption)) | fail_if_no_progress with_reducible apply Keeps.lit | with_reducible exact Nat.le_refl _ | exact Nat.le_succ _ | (fail_if_no_progress dsimp only))
theorem execAccessCompletion_keeps {s0 s : State} (h : Keeps s0 s) (a0 : Thr) (a1 : AccSel) (a2 : BmErr) : Out.Keeps (execAccessCompletion a0 a1 a2 s) s0 := by
  unfold execAccessCompletion
  refine Out.keeps_next ?_
  try dsimp only
  repeat' (first | with_reducible assumption | with_reducible apply State.goOn_keeps | with_reducible apply State.pendAll_keeps | with_reducible apply State.pendComplete_keeps | with_reducible apply State.sbComplete_keeps | split)
theorem State.lateAll_keeps {s0 s : State} (h : Keeps s0 s)  : Keeps s0 (State.lateAll s) := by
  unfold State.lateAll
  try dsimp only
  repeat' (first | with_reducible assumption | with_reducible apply State.perform_keeps | with_reducible apply foldl_keeps_id | with_reducible apply foldl_keeps_fst | with_reducible apply foldl_keeps_snd | split | (intro) | fail_if_no_progress with_reducible apply Keeps.lit | with_reducible exact Nat.le_refl _ | exact Nat.le_succ _ | (fail_if_no_progress dsimp only))
theorem State.sbLate_keeps {s0 s : State} (h : Keeps s0 s) (a1 : Thr) (a2 : SbEnt) : Keeps s0 (State.sbLate s a1 a2) := by
  unfold State.sbLate
  try dsimp only
  repeat' (first | with_reducible assumption | with_reducible apply State.engErr_keeps | with_reducible apply State.discardAll_keeps | split | (intro) | (refine keeps_snd ?_ (by with_reducible assumption)) | (refine keeps_fst ?_ (by with_reducible assumption)) | fail_if_no_progress with_reducible apply Keeps.lit | with_reducible exact Nat.le_refl _ | exact Nat.le_succ _ | (fail_if_no_progress dsimp only))
theorem State.pendLate_keeps {s0 s : State} (h : Keeps s0 s) (a1 : Thr) : Keeps s0 (State.pendLate s a1) := by
  unfold State.pendLate
  try dsimp only
  repeat' (first | with_reducible assumption | with_reducible apply State.pendTrap_keeps | with_reducible apply State.engErr_keeps | with_reducible apply State.choose_keeps | with_reducible apply State.ramAmo_keeps | split)
theorem execAccessTimeout_keeps {s0 s : State} (h : Keeps s0 s) (a0 : Thr) (a1 : AccSel) : Out.Keeps (execAccessTimeout a0 a1 s) s0 := by
  unfold execAccessTimeout
  refine Out.keeps_next ?_
  try dsimp only
  repeat' (first | with_reducible assumption | with_reducible apply State.goOn_keeps | with_reducible apply State.pendAll_keeps | with_reducible apply State.pendLate_keeps | with_reducible apply State.sbLate_keeps | split)

end Sys2Proof.Machine
end

