-- ==== Sys2Proof/Laws/Keeps/FabricRows.lean ====
section
/-! SUPPORT. Sys2Proof/Laws/Keeps/FabricRows.lean: what the operations of Machine/FabricRows.lean keep. -/

namespace Sys2Proof.Machine

theorem State.packetLoss_keeps {s0 s : State} (h : Keeps s0 s) (a1 : NodeId) (a2 : ℕ) (a3 : BitVec 88) : Keeps s0 (State.packetLoss s a1 a2 a3) := by
  unfold State.packetLoss
  try dsimp only
  repeat' (first | with_reducible assumption | with_reducible apply State.raise_keeps | with_reducible apply State.capture_keeps | with_reducible apply State.fullReq_keeps | split)
theorem State.setOut_keeps {s0 s : State} (h : Keeps s0 s) (a1 : NodeId) (a2 : RtrPort) (a3 : List RPkt) : Keeps s0 (State.setOut s a1 a2 a3) := by
  unfold State.setOut
  try dsimp only
  repeat' (first | with_reducible assumption | split | (intro) | fail_if_no_progress with_reducible apply Keeps.lit | with_reducible exact Nat.le_refl _)
theorem State.arbPick_keeps {s0 s : State} (h : Keeps s0 s) (a1 : NodeId) (a2 : RtrPort) (a3 : RPkt → Bool) : Keeps s0 (State.arbPick s a1 a2 a3).2 := by
  unfold State.arbPick
  try dsimp only
  repeat' (first | with_reducible assumption | with_reducible apply State.choose_keeps | with_reducible apply OptKeeps.map | with_reducible apply OptKeeps.mapSnd | with_reducible apply foldl_keeps_id | with_reducible apply foldl_keeps_fst | with_reducible apply foldl_keeps_snd | split | (intro) | (refine keeps_snd (State.choose_keeps ?_ ) (by with_reducible assumption)) | (refine keeps_snd ?_ (by with_reducible assumption)) | (refine keeps_fst ?_ (by with_reducible assumption)) | fail_if_no_progress with_reducible apply Keeps.lit | with_reducible exact Nat.le_refl _ | exact Nat.le_succ _ | (fail_if_no_progress dsimp only))
theorem State.outTook_keeps {s0 s : State} (h : Keeps s0 s) (a1 : NodeId) (a2 : RtrPort) (a3 : ℕ) (a4 : RPkt) : Keeps s0 (State.outTook s a1 a2 a3 a4) := by
  unfold State.outTook
  try dsimp only
  repeat' (first | with_reducible assumption | with_reducible apply State.setOut_keeps | split | (intro) | fail_if_no_progress with_reducible apply Keeps.lit | with_reducible exact Nat.le_refl _ | exact Nat.le_succ _ | (fail_if_no_progress dsimp only))
theorem State.linkTake_keeps {s0 s : State} (h : Keeps s0 s) (a1 : NodeId) (a2 : RtrPort) (a3 : List Flit) : OptKeeps s0 (State.linkTake s a1 a2 a3) := by
  unfold State.linkTake
  try dsimp only
  repeat' (first | with_reducible assumption | with_reducible exact OptKeeps.none | with_reducible apply OptKeeps.some | with_reducible apply State.arbPick_keeps | with_reducible apply State.outTook_keeps | split | (intro) | (refine keeps_snd ?_ (by with_reducible assumption)) | (refine keeps_fst ?_ (by with_reducible assumption)) | fail_if_no_progress with_reducible apply Keeps.lit | with_reducible exact Nat.le_refl _ | exact Nat.le_succ _ | (fail_if_no_progress dsimp only))
theorem State.injectPkt_keeps {s0 s : State} (h : Keeps s0 s) (a1 : NodeId) (a2 : RtrPort) (a3 : BitVec 88) (a4 : List Flit) : OptKeeps s0 (State.injectPkt s a1 a2 a3 a4) := by
  unfold State.injectPkt
  try dsimp only
  repeat' (first | with_reducible assumption | with_reducible exact OptKeeps.none | with_reducible apply OptKeeps.some | with_reducible apply State.spendCredit_keeps | split | (intro) | (refine keeps_snd ?_ (by with_reducible assumption)) | (refine keeps_fst ?_ (by with_reducible assumption)) | fail_if_no_progress with_reducible apply Keeps.lit | with_reducible exact Nat.le_refl _ | exact Nat.le_succ _ | (fail_if_no_progress dsimp only))
theorem State.creditBack_keeps {s0 s : State} (h : Keeps s0 s) (a1 : Option QueueId) (a2 : BitVec 88) : Keeps s0 (State.creditBack s a1 a2) := by
  unfold State.creditBack
  try dsimp only
  repeat' (first | with_reducible assumption | with_reducible apply State.oweCredit_keeps | split | (intro) | (refine keeps_snd ?_ (by with_reducible assumption)) | (refine keeps_fst ?_ (by with_reducible assumption)) | fail_if_no_progress with_reducible apply Keeps.lit | with_reducible exact Nat.le_refl _ | exact Nat.le_succ _ | (fail_if_no_progress dsimp only))
theorem State.absorb_keeps {s0 s : State} (h : Keeps s0 s) (a1 : NodeId) (a2 : BitVec 88) : Keeps s0 (State.absorb s a1 a2) := by
  unfold State.absorb
  try dsimp only
  repeat' (first | with_reducible assumption | with_reducible apply State.creditBack_keeps | with_reducible apply State.sink_keeps | with_reducible apply State.cntB_keeps | with_reducible apply State.raise_keeps | split | (intro) | (refine keeps_snd ?_ (by with_reducible assumption)) | (refine keeps_fst ?_ (by with_reducible assumption)) | fail_if_no_progress with_reducible apply Keeps.lit | with_reducible exact Nat.le_refl _ | exact Nat.le_succ _ | (fail_if_no_progress dsimp only))
theorem State.forward_keeps {s0 s : State} (h : Keeps s0 s) (a1 : NodeId) (a2 : RtrPort) (a3 : List Flit) (a4 : List (BitVec 88)) : Keeps s0 (State.forward s a1 a2 a3 a4) := by
  unfold State.forward
  try dsimp only
  repeat' (first | with_reducible assumption | with_reducible apply State.packetLoss_keeps | with_reducible apply State.absorb_keeps | with_reducible apply State.setOut_keeps | with_reducible apply OptKeeps.map | with_reducible apply OptKeeps.mapSnd | split)
theorem State.checkHdrs_keeps {s0 s : State} (h : Keeps s0 s) (a1 : NodeId) (a2 : RtrPort) (a3 : List Flit) : Keeps s0 (State.checkHdrs s a1 a2 a3) := by
  unfold State.checkHdrs
  try dsimp only
  repeat' (first | with_reducible assumption | with_reducible apply State.packetLoss_keeps | with_reducible apply State.raise_keeps | with_reducible apply State.forward_keeps | with_reducible apply OptKeeps.map | with_reducible apply OptKeeps.mapSnd | split)
theorem State.flitRx_keeps {s0 s : State} (h : Keeps s0 s) (a1 : NodeId) (a2 : RtrPort) (a3 : List Flit) : Keeps s0 (State.flitRx s a1 a2 a3) := by
  unfold State.flitRx
  try dsimp only
  repeat' (first | with_reducible assumption | with_reducible apply State.linkTake_keeps | with_reducible apply State.checkHdrs_keeps | with_reducible apply State.injectPkt_keeps | with_reducible apply State.cntB_keeps | split | (intro) | (refine OptKeeps.elim (State.linkTake_keeps ?_ _ _ _ ) (by with_reducible assumption)) | (refine OptKeeps.elim (State.injectPkt_keeps ?_ _ _ _ _ ) (by with_reducible assumption)) | (refine keeps_snd ?_ (by with_reducible assumption)) | (refine keeps_fst ?_ (by with_reducible assumption)) | fail_if_no_progress with_reducible apply Keeps.lit | with_reducible exact Nat.le_refl _ | exact Nat.le_succ _ | (fail_if_no_progress dsimp only))
theorem execFlitReceive_keeps {s0 s : State} (h : Keeps s0 s) (a0 : NodeId) (a1 : RtrPort) (a2 : List Flit) : Out.Keeps (execFlitReceive a0 a1 a2 s) s0 := by
  unfold execFlitReceive
  refine Out.keeps_next ?_
  try dsimp only
  repeat' (first | with_reducible assumption | with_reducible apply State.goOn_keeps | with_reducible apply State.flitRx_keeps)
theorem State.enqueue_keeps {s0 s : State} (h : Keeps s0 s) (a1 : QueueId) (a2 : List Flit) : Keeps s0 (State.enqueue s a1 a2) := by
  unfold State.enqueue
  try dsimp only
  repeat' (first | with_reducible assumption | with_reducible apply State.setQue_keeps | with_reducible apply foldl_keeps_id | with_reducible apply foldl_keeps_fst | with_reducible apply foldl_keeps_snd | split | (intro) | fail_if_no_progress with_reducible apply Keeps.lit | with_reducible exact Nat.le_refl _ | exact Nat.le_succ _ | (fail_if_no_progress dsimp only))
theorem State.publish_keeps {s0 s : State} (h : Keeps s0 s) (a1 : QueueId) (a2 : List Flit) : Keeps s0 (State.publish s a1 a2) := by
  unfold State.publish
  try dsimp only
  repeat' (first | with_reducible assumption | with_reducible apply State.arbPick_keeps | with_reducible apply State.outTook_keeps | with_reducible apply State.absorb_keeps | with_reducible apply State.enqueue_keeps | split | (intro) | (refine keeps_snd ?_ (by with_reducible assumption)) | (refine keeps_fst ?_ (by with_reducible assumption)) | fail_if_no_progress with_reducible apply Keeps.lit | with_reducible exact Nat.le_refl _ | exact Nat.le_succ _ | (fail_if_no_progress dsimp only))
theorem execPacketPublish_keeps {s0 s : State} (h : Keeps s0 s) (a0 : QueueId) (a1 : List Flit) : Out.Keeps (execPacketPublish a0 a1 s) s0 := by
  unfold execPacketPublish
  refine Out.keeps_next ?_
  try dsimp only
  repeat' (first | with_reducible assumption | with_reducible apply State.goOn_keeps | with_reducible apply State.publish_keeps | split)
theorem State.underrun_keeps {s0 s : State} (h : Keeps s0 s) (a1 : QueueId) : Keeps s0 (State.underrun s a1) := by
  unfold State.underrun
  try dsimp only
  repeat' (first | with_reducible assumption | with_reducible apply State.raise_keeps | with_reducible apply State.setFld_keeps | split)
theorem State.queueRd_keeps {s0 s : State} (h : Keeps s0 s) (a1 : QueueId) : Keeps s0 (State.queueRd s a1) := by
  unfold State.queueRd
  try dsimp only
  repeat' (first | with_reducible assumption | with_reducible apply State.underrun_keeps | with_reducible apply State.creditBack_keeps | with_reducible apply State.setQue_keeps | with_reducible apply State.packetLoss_keeps | with_reducible apply State.raise_keeps | with_reducible apply OptKeeps.map | with_reducible apply OptKeeps.mapSnd | split | (intro) | fail_if_no_progress with_reducible apply Keeps.lit | with_reducible exact Nat.le_refl _ | exact Nat.le_succ _ | (fail_if_no_progress dsimp only))
theorem execQueueRead_keeps {s0 s : State} (h : Keeps s0 s) (a0 : QueueId) : Out.Keeps (execQueueRead a0 s) s0 := by
  unfold execQueueRead
  refine Out.keeps_next ?_
  try dsimp only
  repeat' (first | with_reducible assumption | with_reducible apply State.goOn_keeps | with_reducible apply State.queueRd_keeps | split)

end Sys2Proof.Machine
end

