-- ==== Sys2Proof/Laws/Keeps/SageAlu.lean ====
section
/-! SUPPORT. Sys2Proof/Laws/Keeps/SageAlu.lean: what the operations of Machine/SageAlu.lean keep. -/

namespace Sys2Proof.Machine

theorem State.aluR_keeps {s0 s : State} (h : Keeps s0 s) (a1 : Thr) (a2 : Op) (a3 : Reg32) (a4 : Word → Word → Word) : Keeps s0 (State.aluR s a1 a2 a3 a4) := by
  unfold State.aluR
  try dsimp only
  repeat' (first | with_reducible assumption | with_reducible exact Res.keeps_trap | with_reducible exact Res.keeps_soft | with_reducible apply Res.keeps_checks | with_reducible apply Res.keeps_next | with_reducible apply Res.keeps_jump | with_reducible apply Res.keeps_fault | with_reducible apply Res.keeps_stall | with_reducible apply Res.keeps_left | with_reducible apply State.issue_keeps | with_reducible apply State.setRd_keeps | split | (intro))
theorem State.aluI_keeps {s0 s : State} (h : Keeps s0 s) (a1 : Thr) (a2 : Op) (a3 : Reg32) (a4 : Word) (a5 : Word → Word → Word) : Keeps s0 (State.aluI s a1 a2 a3 a4 a5) := by
  unfold State.aluI
  try dsimp only
  repeat' (first | with_reducible assumption | with_reducible exact Res.keeps_trap | with_reducible exact Res.keeps_soft | with_reducible apply Res.keeps_checks | with_reducible apply Res.keeps_next | with_reducible apply Res.keeps_jump | with_reducible apply Res.keeps_fault | with_reducible apply Res.keeps_stall | with_reducible apply Res.keeps_left | with_reducible apply State.issue_keeps | with_reducible apply State.setRd_keeps | split | (intro))
theorem State.branch_keeps {s0 s : State} (h : Keeps s0 s) (a1 : Thr) (a2 : Op) (a3 : Reg32) (a4 : Word → Word → Bool) : Keeps s0 (State.branch s a1 a2 a3 a4) := by
  unfold State.branch
  try dsimp only
  repeat' (first | with_reducible assumption | with_reducible exact Res.keeps_trap | with_reducible exact Res.keeps_soft | with_reducible apply Res.keeps_checks | with_reducible apply Res.keeps_next | with_reducible apply Res.keeps_jump | with_reducible apply Res.keeps_fault | with_reducible apply Res.keeps_stall | with_reducible apply Res.keeps_left | with_reducible apply State.issue_keeps | split | (intro))
theorem State.branchBit_keeps {s0 s : State} (h : Keeps s0 s) (a1 : Thr) (a2 : Op) (a3 : Reg32) (a4 : Bool) : Keeps s0 (State.branchBit s a1 a2 a3 a4) := by
  unfold State.branchBit
  try dsimp only
  repeat' (first | with_reducible assumption | with_reducible exact Res.keeps_trap | with_reducible exact Res.keeps_soft | with_reducible apply Res.keeps_checks | with_reducible apply Res.keeps_next | with_reducible apply Res.keeps_jump | with_reducible apply Res.keeps_fault | with_reducible apply Res.keeps_stall | with_reducible apply Res.keeps_left | with_reducible apply State.issue_keeps | split | (intro))
theorem execAdd_keeps {s0 s : State} (h : Keeps s0 s) (a0 : Thr) (a1 : BitVec 32) : Out.Keeps (execAdd a0 a1 s) s0 := by
  unfold execAdd
  refine Out.keeps_next ?_
  try dsimp only
  repeat' (first | with_reducible assumption | with_reducible apply State.aluR_keeps)
theorem execSub_keeps {s0 s : State} (h : Keeps s0 s) (a0 : Thr) (a1 : BitVec 32) : Out.Keeps (execSub a0 a1 s) s0 := by
  unfold execSub
  refine Out.keeps_next ?_
  try dsimp only
  repeat' (first | with_reducible assumption | with_reducible apply State.aluR_keeps)
theorem execAnd_keeps {s0 s : State} (h : Keeps s0 s) (a0 : Thr) (a1 : BitVec 32) : Out.Keeps (execAnd a0 a1 s) s0 := by
  unfold execAnd
  refine Out.keeps_next ?_
  try dsimp only
  repeat' (first | with_reducible assumption | with_reducible apply State.aluR_keeps)
theorem execOr_keeps {s0 s : State} (h : Keeps s0 s) (a0 : Thr) (a1 : BitVec 32) : Out.Keeps (execOr a0 a1 s) s0 := by
  unfold execOr
  refine Out.keeps_next ?_
  try dsimp only
  repeat' (first | with_reducible assumption | with_reducible apply State.aluR_keeps)
theorem execXor_keeps {s0 s : State} (h : Keeps s0 s) (a0 : Thr) (a1 : BitVec 32) : Out.Keeps (execXor a0 a1 s) s0 := by
  unfold execXor
  refine Out.keeps_next ?_
  try dsimp only
  repeat' (first | with_reducible assumption | with_reducible apply State.aluR_keeps)
theorem execSll_keeps {s0 s : State} (h : Keeps s0 s) (a0 : Thr) (a1 : BitVec 32) : Out.Keeps (execSll a0 a1 s) s0 := by
  unfold execSll
  refine Out.keeps_next ?_
  try dsimp only
  repeat' (first | with_reducible assumption | with_reducible apply State.aluR_keeps)
theorem execSrl_keeps {s0 s : State} (h : Keeps s0 s) (a0 : Thr) (a1 : BitVec 32) : Out.Keeps (execSrl a0 a1 s) s0 := by
  unfold execSrl
  refine Out.keeps_next ?_
  try dsimp only
  repeat' (first | with_reducible assumption | with_reducible apply State.aluR_keeps)
theorem execSra_keeps {s0 s : State} (h : Keeps s0 s) (a0 : Thr) (a1 : BitVec 32) : Out.Keeps (execSra a0 a1 s) s0 := by
  unfold execSra
  refine Out.keeps_next ?_
  try dsimp only
  repeat' (first | with_reducible assumption | with_reducible apply State.aluR_keeps)
theorem execSlt_keeps {s0 s : State} (h : Keeps s0 s) (a0 : Thr) (a1 : BitVec 32) : Out.Keeps (execSlt a0 a1 s) s0 := by
  unfold execSlt
  refine Out.keeps_next ?_
  try dsimp only
  repeat' (first | with_reducible assumption | with_reducible apply State.aluR_keeps)
theorem execSltu_keeps {s0 s : State} (h : Keeps s0 s) (a0 : Thr) (a1 : BitVec 32) : Out.Keeps (execSltu a0 a1 s) s0 := by
  unfold execSltu
  refine Out.keeps_next ?_
  try dsimp only
  repeat' (first | with_reducible assumption | with_reducible apply State.aluR_keeps)
theorem execMul_keeps {s0 s : State} (h : Keeps s0 s) (a0 : Thr) (a1 : BitVec 32) : Out.Keeps (execMul a0 a1 s) s0 := by
  unfold execMul
  refine Out.keeps_next ?_
  try dsimp only
  repeat' (first | with_reducible assumption | with_reducible apply State.aluR_keeps)
theorem execHslot_keeps {s0 s : State} (h : Keeps s0 s) (a0 : Thr) (a1 : BitVec 32) : Out.Keeps (execHslot a0 a1 s) s0 := by
  unfold execHslot
  refine Out.keeps_next ?_
  try dsimp only
  repeat' (first | with_reducible assumption | with_reducible apply State.aluR_keeps)
theorem execPopc_keeps {s0 s : State} (h : Keeps s0 s) (a0 : Thr) (a1 : BitVec 32) : Out.Keeps (execPopc a0 a1 s) s0 := by
  unfold execPopc
  refine Out.keeps_next ?_
  try dsimp only
  repeat' (first | with_reducible assumption | with_reducible apply State.aluR_keeps)
theorem execClz_keeps {s0 s : State} (h : Keeps s0 s) (a0 : Thr) (a1 : BitVec 32) : Out.Keeps (execClz a0 a1 s) s0 := by
  unfold execClz
  refine Out.keeps_next ?_
  try dsimp only
  repeat' (first | with_reducible assumption | with_reducible apply State.aluR_keeps)
theorem execMovf_keeps {s0 s : State} (h : Keeps s0 s) (a0 : Thr) (a1 : BitVec 32) : Out.Keeps (execMovf a0 a1 s) s0 := by
  unfold execMovf
  refine Out.keeps_next ?_
  try dsimp only
  repeat' (first | with_reducible assumption | with_reducible exact Res.keeps_trap | with_reducible exact Res.keeps_soft | with_reducible apply Res.keeps_checks | with_reducible apply Res.keeps_next | with_reducible apply Res.keeps_jump | with_reducible apply Res.keeps_fault | with_reducible apply Res.keeps_stall | with_reducible apply Res.keeps_left | with_reducible apply State.issue_keeps | with_reducible apply State.setRd_keeps | split | (intro))
theorem execAddi_keeps {s0 s : State} (h : Keeps s0 s) (a0 : Thr) (a1 : BitVec 32) : Out.Keeps (execAddi a0 a1 s) s0 := by
  unfold execAddi
  refine Out.keeps_next ?_
  try dsimp only
  repeat' (first | with_reducible assumption | with_reducible apply State.aluI_keeps)
theorem execAndi_keeps {s0 s : State} (h : Keeps s0 s) (a0 : Thr) (a1 : BitVec 32) : Out.Keeps (execAndi a0 a1 s) s0 := by
  unfold execAndi
  refine Out.keeps_next ?_
  try dsimp only
  repeat' (first | with_reducible assumption | with_reducible apply State.aluI_keeps)
theorem execOri_keeps {s0 s : State} (h : Keeps s0 s) (a0 : Thr) (a1 : BitVec 32) : Out.Keeps (execOri a0 a1 s) s0 := by
  unfold execOri
  refine Out.keeps_next ?_
  try dsimp only
  repeat' (first | with_reducible assumption | with_reducible apply State.aluI_keeps)
theorem execXori_keeps {s0 s : State} (h : Keeps s0 s) (a0 : Thr) (a1 : BitVec 32) : Out.Keeps (execXori a0 a1 s) s0 := by
  unfold execXori
  refine Out.keeps_next ?_
  try dsimp only
  repeat' (first | with_reducible assumption | with_reducible apply State.aluI_keeps)
theorem execSlli_keeps {s0 s : State} (h : Keeps s0 s) (a0 : Thr) (a1 : BitVec 32) : Out.Keeps (execSlli a0 a1 s) s0 := by
  unfold execSlli
  refine Out.keeps_next ?_
  try dsimp only
  repeat' (first | with_reducible assumption | with_reducible apply State.aluI_keeps)
theorem execSrli_keeps {s0 s : State} (h : Keeps s0 s) (a0 : Thr) (a1 : BitVec 32) : Out.Keeps (execSrli a0 a1 s) s0 := by
  unfold execSrli
  refine Out.keeps_next ?_
  try dsimp only
  repeat' (first | with_reducible assumption | with_reducible apply State.aluI_keeps)
theorem execSrai_keeps {s0 s : State} (h : Keeps s0 s) (a0 : Thr) (a1 : BitVec 32) : Out.Keeps (execSrai a0 a1 s) s0 := by
  unfold execSrai
  refine Out.keeps_next ?_
  try dsimp only
  repeat' (first | with_reducible assumption | with_reducible apply State.aluI_keeps)
theorem execSlti_keeps {s0 s : State} (h : Keeps s0 s) (a0 : Thr) (a1 : BitVec 32) : Out.Keeps (execSlti a0 a1 s) s0 := by
  unfold execSlti
  refine Out.keeps_next ?_
  try dsimp only
  repeat' (first | with_reducible assumption | with_reducible apply State.aluI_keeps)
theorem execSltiu_keeps {s0 s : State} (h : Keeps s0 s) (a0 : Thr) (a1 : BitVec 32) : Out.Keeps (execSltiu a0 a1 s) s0 := by
  unfold execSltiu
  refine Out.keeps_next ?_
  try dsimp only
  repeat' (first | with_reducible assumption | with_reducible apply State.aluI_keeps)
theorem execOrsh_keeps {s0 s : State} (h : Keeps s0 s) (a0 : Thr) (a1 : BitVec 32) : Out.Keeps (execOrsh a0 a1 s) s0 := by
  unfold execOrsh
  refine Out.keeps_next ?_
  try dsimp only
  repeat' (first | with_reducible assumption | with_reducible apply State.aluI_keeps)
theorem execExt_keeps {s0 s : State} (h : Keeps s0 s) (a0 : Thr) (a1 : BitVec 32) : Out.Keeps (execExt a0 a1 s) s0 := by
  unfold execExt
  refine Out.keeps_next ?_
  try dsimp only
  repeat' (first | with_reducible assumption | with_reducible exact Res.keeps_trap | with_reducible exact Res.keeps_soft | with_reducible apply Res.keeps_checks | with_reducible apply Res.keeps_next | with_reducible apply Res.keeps_jump | with_reducible apply Res.keeps_fault | with_reducible apply Res.keeps_stall | with_reducible apply Res.keeps_left | with_reducible apply State.issue_keeps | with_reducible apply State.setRd_keeps | split | (intro))
theorem execIns_keeps {s0 s : State} (h : Keeps s0 s) (a0 : Thr) (a1 : BitVec 32) : Out.Keeps (execIns a0 a1 s) s0 := by
  unfold execIns
  refine Out.keeps_next ?_
  try dsimp only
  repeat' (first | with_reducible assumption | with_reducible exact Res.keeps_trap | with_reducible exact Res.keeps_soft | with_reducible apply Res.keeps_checks | with_reducible apply Res.keeps_next | with_reducible apply Res.keeps_jump | with_reducible apply Res.keeps_fault | with_reducible apply Res.keeps_stall | with_reducible apply Res.keeps_left | with_reducible apply State.issue_keeps | with_reducible apply State.setRd_keeps | split | (intro))
theorem execBeq_keeps {s0 s : State} (h : Keeps s0 s) (a0 : Thr) (a1 : BitVec 32) : Out.Keeps (execBeq a0 a1 s) s0 := by
  unfold execBeq
  refine Out.keeps_next ?_
  try dsimp only
  repeat' (first | with_reducible assumption | with_reducible apply State.branch_keeps)
theorem execBne_keeps {s0 s : State} (h : Keeps s0 s) (a0 : Thr) (a1 : BitVec 32) : Out.Keeps (execBne a0 a1 s) s0 := by
  unfold execBne
  refine Out.keeps_next ?_
  try dsimp only
  repeat' (first | with_reducible assumption | with_reducible apply State.branch_keeps)
theorem execBlt_keeps {s0 s : State} (h : Keeps s0 s) (a0 : Thr) (a1 : BitVec 32) : Out.Keeps (execBlt a0 a1 s) s0 := by
  unfold execBlt
  refine Out.keeps_next ?_
  try dsimp only
  repeat' (first | with_reducible assumption | with_reducible apply State.branch_keeps)
theorem execBge_keeps {s0 s : State} (h : Keeps s0 s) (a0 : Thr) (a1 : BitVec 32) : Out.Keeps (execBge a0 a1 s) s0 := by
  unfold execBge
  refine Out.keeps_next ?_
  try dsimp only
  repeat' (first | with_reducible assumption | with_reducible apply State.branch_keeps)
theorem execBltu_keeps {s0 s : State} (h : Keeps s0 s) (a0 : Thr) (a1 : BitVec 32) : Out.Keeps (execBltu a0 a1 s) s0 := by
  unfold execBltu
  refine Out.keeps_next ?_
  try dsimp only
  repeat' (first | with_reducible assumption | with_reducible apply State.branch_keeps)
theorem execBgeu_keeps {s0 s : State} (h : Keeps s0 s) (a0 : Thr) (a1 : BitVec 32) : Out.Keeps (execBgeu a0 a1 s) s0 := by
  unfold execBgeu
  refine Out.keeps_next ?_
  try dsimp only
  repeat' (first | with_reducible assumption | with_reducible apply State.branch_keeps)
theorem execBbs_keeps {s0 s : State} (h : Keeps s0 s) (a0 : Thr) (a1 : BitVec 32) : Out.Keeps (execBbs a0 a1 s) s0 := by
  unfold execBbs
  refine Out.keeps_next ?_
  try dsimp only
  repeat' (first | with_reducible assumption | with_reducible apply State.branchBit_keeps)
theorem execBbc_keeps {s0 s : State} (h : Keeps s0 s) (a0 : Thr) (a1 : BitVec 32) : Out.Keeps (execBbc a0 a1 s) s0 := by
  unfold execBbc
  refine Out.keeps_next ?_
  try dsimp only
  repeat' (first | with_reducible assumption | with_reducible apply State.branchBit_keeps)
theorem execJal_keeps {s0 s : State} (h : Keeps s0 s) (a0 : Thr) (a1 : BitVec 32) : Out.Keeps (execJal a0 a1 s) s0 := by
  unfold execJal
  refine Out.keeps_next ?_
  try dsimp only
  repeat' (first | with_reducible assumption | with_reducible exact Res.keeps_trap | with_reducible exact Res.keeps_soft | with_reducible apply Res.keeps_checks | with_reducible apply Res.keeps_next | with_reducible apply Res.keeps_jump | with_reducible apply Res.keeps_fault | with_reducible apply Res.keeps_stall | with_reducible apply Res.keeps_left | with_reducible apply State.issue_keeps | with_reducible apply State.setRd_keeps | split | (intro))
theorem execJalr_keeps {s0 s : State} (h : Keeps s0 s) (a0 : Thr) (a1 : BitVec 32) : Out.Keeps (execJalr a0 a1 s) s0 := by
  unfold execJalr
  refine Out.keeps_next ?_
  try dsimp only
  repeat' (first | with_reducible assumption | with_reducible exact Res.keeps_trap | with_reducible exact Res.keeps_soft | with_reducible apply Res.keeps_checks | with_reducible apply Res.keeps_next | with_reducible apply Res.keeps_jump | with_reducible apply Res.keeps_fault | with_reducible apply Res.keeps_stall | with_reducible apply Res.keeps_left | with_reducible apply State.issue_keeps | with_reducible apply State.setRd_keeps | split | (intro))

end Sys2Proof.Machine
end

