-- ==== Sys2Proof/Laws/Keeps/XltRows.lean ====
section
/-! SUPPORT. Sys2Proof/Laws/Keeps/XltRows.lean: what the operations of Machine/XltRows.lean keep. -/

namespace Sys2Proof.Machine

theorem State.xltGo_keeps {s0 s : State} (h : Keeps s0 s) (a1 : Src) (a2 : ℕ) (a3 : ℕ) (a4 : ℕ) (a5 : ℕ) : Keeps s0 (State.xltGo s a1 a2 a3 a4 a5) := by
  unfold State.xltGo
  try dsimp only
  repeat' (first | with_reducible assumption | with_reducible apply State.regDo_keeps | with_reducible apply State.xltWrite_keeps | split | (intro))
theorem execXltPreload_keeps {s0 s : State} (h : Keeps s0 s) (a0 : Src) (a1 : BitVec 6) (a2 : BitVec 2) : Out.Keeps (execXltPreload a0 a1 a2 s) s0 := by
  unfold execXltPreload
  refine Out.keeps_next ?_
  try dsimp only
  repeat' (first | with_reducible assumption | with_reducible apply State.xltGo_keeps)
theorem execXltPreloadLock_keeps {s0 s : State} (h : Keeps s0 s) (a0 : Src) (a1 : BitVec 6) (a2 : BitVec 2) : Out.Keeps (execXltPreloadLock a0 a1 a2 s) s0 := by
  unfold execXltPreloadLock
  refine Out.keeps_next ?_
  try dsimp only
  repeat' (first | with_reducible assumption | with_reducible apply State.xltGo_keeps)
theorem execXltUnlock_keeps {s0 s : State} (h : Keeps s0 s) (a0 : Src) (a1 : BitVec 6) (a2 : BitVec 5) : Out.Keeps (execXltUnlock a0 a1 a2 s) s0 := by
  unfold execXltUnlock
  refine Out.keeps_next ?_
  try dsimp only
  repeat' (first | with_reducible assumption | with_reducible apply State.xltGo_keeps)
theorem execXltInvCtx_keeps {s0 s : State} (h : Keeps s0 s) (a0 : Src) : Out.Keeps (execXltInvCtx a0 s) s0 := by
  unfold execXltInvCtx
  refine Out.keeps_next ?_
  try dsimp only
  repeat' (first | with_reducible assumption | with_reducible apply State.xltGo_keeps)
theorem execXltInvPext_keeps {s0 s : State} (h : Keeps s0 s) (a0 : Src) : Out.Keeps (execXltInvPext a0 s) s0 := by
  unfold execXltInvPext
  refine Out.keeps_next ?_
  try dsimp only
  repeat' (first | with_reducible assumption | with_reducible apply State.xltGo_keeps)
theorem execXltInvAll_keeps {s0 s : State} (h : Keeps s0 s) (a0 : Src) : Out.Keeps (execXltInvAll a0 s) s0 := by
  unfold execXltInvAll
  refine Out.keeps_next ?_
  try dsimp only
  repeat' (first | with_reducible assumption | with_reducible apply State.xltGo_keeps)

end Sys2Proof.Machine
end

