-- ==== Sys2Proof/Laws/Keeps/Tick.lean ====
section
/-! SUPPORT. Sys2Proof/Laws/Keeps/Tick.lean: what the operations of Machine/Tick.lean keep. -/

namespace Sys2Proof.Machine

theorem State.cntTick_keeps {s0 s : State} (h : Keeps s0 s)  : Keeps s0 (State.cntTick s) := by
  unfold State.cntTick
  try dsimp only
  repeat' (first | with_reducible assumption | with_reducible apply State.cntB_keeps | with_reducible apply State.cntOpen_keeps | with_reducible apply State.cntN_keeps | with_reducible apply foldl_keeps_id | with_reducible apply foldl_keeps_fst | with_reducible apply foldl_keeps_snd | split | (intro) | fail_if_no_progress with_reducible apply Keeps.lit | with_reducible exact Nat.le_refl _ | exact Nat.le_succ _ | (fail_if_no_progress dsimp only))
theorem State.romReset_keeps {s0 s : State} (h : Keeps s0 s)  : Keeps s0 (State.romReset s) := by
  unfold State.romReset
  try dsimp only
  repeat' (first | with_reducible assumption | with_reducible apply State.fullReq_keeps | split | (intro) | fail_if_no_progress with_reducible apply Keeps.lit | with_reducible exact Nat.le_refl _ | exact Nat.le_succ _ | (fail_if_no_progress dsimp only))
theorem State.selfRun_keeps {s0 s : State} (h : Keeps s0 s)  : Keeps s0 (State.selfRun s) := by
  unfold State.selfRun
  try dsimp only
  repeat' (first | with_reducible assumption | with_reducible apply State.safeQuads_keeps | with_reducible apply State.sorrelTick_keeps | with_reducible apply State.deadMedia_keeps | with_reducible apply State.flushEnter_keeps | with_reducible apply State.modeSync_keeps | with_reducible apply State.goOn_keeps | with_reducible apply State.romReset_keeps | split | (intro) | fail_if_no_progress with_reducible apply Keeps.lit | with_reducible exact Nat.le_refl _ | exact Nat.le_succ _ | (fail_if_no_progress dsimp only))
theorem State.cfgTake_keeps {s0 s : State} (h : Keeps s0 s)  : Keeps s0 (State.cfgTake s) := by
  unfold State.cfgTake
  try dsimp only
  repeat' (first | with_reducible assumption | split | (intro) | fail_if_no_progress with_reducible apply Keeps.lit | with_reducible exact Nat.le_refl _ | exact Nat.le_succ _ | (fail_if_no_progress dsimp only))
theorem State.hourTick_keeps {s0 s : State} (h : Keeps s0 s)  : Keeps s0 (State.hourTick s) := by
  unfold State.hourTick
  try dsimp only
  repeat' (first | with_reducible assumption | with_reducible apply State.lifeCommit_keeps | split | (intro) | fail_if_no_progress with_reducible apply Keeps.lit | with_reducible exact Nat.le_refl _ | exact Nat.le_succ _ | (fail_if_no_progress dsimp only))

end Sys2Proof.Machine
end

