-- ==== Sys2Proof/Laws/Keeps/Step.lean ====
section
/-! SUPPORT. Sys2Proof/Laws/Keeps/Step.lean: what every command and every tick keeps. -/

namespace Sys2Proof.Machine

/-- Every command but the two of cold reset answers a next state with the queue and the clock as they were, no free value used
twice, the canonical form kept and FLUSH not left. -/
theorem exec_keeps (i : Instr) (s : State) (h1 : i ≠ .coldResetAssert) (h2 : i ≠ .coldResetRelease) :
    ∃ t, exec i s = .next t ∧ Keeps s t := by
  have h := Keeps.refl s
  cases i with
  | coldResetAssert => exact absurd rfl h1
  | coldResetRelease => exact absurd rfl h2
  | strapsTaken pins => exact execStrapsTaken_keeps h _
  | strapTimeout pins unstable => exact execStrapTimeout_keeps h _ _
  | fillEnd => exact execFillEnd_keeps h
  | bootReady src wdata staged => exact execBootReady_keeps h _ _ _
  | pwrFullRstPulse => exact execPwrFullRstPulse_keeps h
  | holdLimit => exact execHoldLimit_keeps h
  | powerFail => exact execPowerFail_keeps h
  | drainEnd => exact execDrainEnd_keeps h
  | drainLimit => exact execDrainLimit_keeps h
  | syncEnd => exact execSyncEnd_keeps h
  | syncLimit => exact execSyncLimit_keeps h
  | reftickLost => exact execReftickLost_keeps h
  | sensorUpdate q tempA tempB vmonA vmonB => exact execSensorUpdate_keeps h _ _ _ _ _
  | sensorStale q => exact execSensorStale_keeps h _
  | vcoreLow => exact execVcoreLow_keeps h
  | throttleUpdate activity => exact execThrottleUpdate_keeps h _
  | voltageStep => exact execVoltageStep_keeps h
  | clockWindowCheck port count => exact execClockWindowCheck_keeps h _ _
  | hostPortFailure p why => exact execHostPortFailure_keeps h _ _
  | hostPortRecovery p => exact execHostPortRecovery_keeps h _
  | hpOutTimeout p ch => exact execHpOutTimeout_keeps h _ _
  | mediaPortFailure m why => exact execMediaPortFailure_keeps h _ _
  | mpOutTimeout m => exact execMpOutTimeout_keeps h _
  | memRd p hdr => exact execMemRd_keeps h _ _
  | memRdData p hdr => exact execMemRdData_keeps h _ _
  | memInv p hdr => exact execMemInv_keeps h _ _
  | memInvNt p hdr => exact execMemInvNt_keeps h _ _
  | memClnEvct p hdr => exact execMemClnEvct_keeps h _ _
  | memWr p hdr data be poison => exact execMemWr_keeps h _ _ _ _ _
  | memWrPtl p hdr data be poison => exact execMemWrPtl_keeps h _ _ _ _ _
  | biConflict p hdr => exact execBiConflict_keeps h _ _
  | hostFlush p hdr => exact execHostFlush_keeps h _ _
  | sessOpen p hdr => exact execSessOpen_keeps h _ _
  | sessClose p hdr => exact execSessClose_keeps h _ _
  | translationWalkDone p idx err => exact execTranslationWalkDone_keeps h _ _ _
  | birsp p msg => exact execBirsp_keeps h _ _
  | heldAnswerDelivery p slot => exact execHeldAnswerDelivery_keeps h _ _
  | snoopTimeout p slot => exact execSnoopTimeout_keeps h _ _
  | snoopSlotQuarantineEnd p slot => exact execSnoopSlotQuarantineEnd_keeps h _ _
  | biConflictAck p => exact execBiConflictAck_keeps h _
  | outboundMessage p ch => exact execOutboundMessage_keeps h _ _
  | attachRequest port offer => exact execAttachRequest_keeps h _ _
  | attachConfirm port => exact execAttachConfirm_keeps h _
  | attachTimeout port => exact execAttachTimeout_keeps h _
  | attachAbandon port => exact execAttachAbandon_keeps h _
  | hostDetach p => exact execHostDetach_keeps h _
  | mediaDetachRequest m => exact execMediaDetachRequest_keeps h _
  | mediaDetachComplete m => exact execMediaDetachComplete_keeps h _
  | mediaReadData m hdr data poison => exact execMediaReadData_keeps h _ _ _ _
  | handoff m => exact execHandoff_keeps h _
  | ackDurable m ack => exact execAckDurable_keeps h _ _
  | ackSyncDone m ack => exact execAckSyncDone_keeps h _ _
  | ackWriteFail m ack => exact execAckWriteFail_keeps h _ _
  | mpAckTimeout m mtag => exact execMpAckTimeout_keeps h _ _
  | bmResponse tag data err => exact execBmResponse_keeps h _ _ _
  | bmTimeout tag => exact execBmTimeout_keeps h _
  | registerWrite addr wdata be priv => exact execRegisterWrite_keeps h _ _ _ _
  | eventRecordSend => exact execEventRecordSend_keeps h
  | evTimeout => exact execEvTimeout_keeps h
  | evWindowAccess src a wr wdata rdata => exact execEvWindowAccess_keeps h _ _ _ _ _
  | psRead src => exact execPsRead_keeps h _
  | psLoad src => exact execPsLoad_keeps h _
  | psCommit src => exact execPsCommit_keeps h _
  | psSetProtect src level => exact execPsSetProtect_keeps h _ _
  | psStatus src => exact execPsStatus_keeps h _
  | psResponse stat data => exact execPsResponse_keeps h _ _
  | psTimeout => exact execPsTimeout_keeps h
  | fuseProgramDone err => exact execFuseProgramDone_keeps h _
  | fuseTimeout => exact execFuseTimeout_keeps h
  | admission n p idx => exact execAdmission_keeps h _ _ _
  | retry p n idx => exact execRetry_keeps h _ _ _
  | grant p n => exact execGrant_keeps h _ _
  | hostRequestEvent n t => exact execHostRequestEvent_keeps h _ _
  | writeBackEvent n t => exact execWriteBackEvent_keeps h _ _
  | assistFault n t => exact execAssistFault_keeps h _ _
  | recallStart n t => exact execRecallStart_keeps h _ _
  | lineCopyStart n t => exact execLineCopyStart_keeps h _ _
  | managementMessage t => exact execManagementMessage_keeps h _
  | lineCopy n slot => exact execLineCopy_keeps h _ _
  | sectorRecall n slot => exact execSectorRecall_keeps h _ _
  | engineStart t => exact execEngineStart_keeps h _
  | wakeHostFlow n t => exact execWakeHostFlow_keeps h _ _
  | wakeInternalFlow n t => exact execWakeInternalFlow_keeps h _ _
  | sliceExpiry t => exact execSliceExpiry_keeps h _
  | runaway t => exact execRunaway_keeps h _
  | storeBufferSend t => exact execStoreBufferSend_keeps h _
  | mergeEntryAge t => exact execMergeEntryAge_keeps h _
  | accessCompletion t k rsp => exact execAccessCompletion_keeps h _ _ _
  | accessTimeout t k => exact execAccessTimeout_keeps h _ _
  | add t w => exact execAdd_keeps h _ _
  | sub t w => exact execSub_keeps h _ _
  | and t w => exact execAnd_keeps h _ _
  | or t w => exact execOr_keeps h _ _
  | xor t w => exact execXor_keeps h _ _
  | sll t w => exact execSll_keeps h _ _
  | srl t w => exact execSrl_keeps h _ _
  | sra t w => exact execSra_keeps h _ _
  | slt t w => exact execSlt_keeps h _ _
  | sltu t w => exact execSltu_keeps h _ _
  | mul t w => exact execMul_keeps h _ _
  | hslot t w => exact execHslot_keeps h _ _
  | popc t w => exact execPopc_keeps h _ _
  | clz t w => exact execClz_keeps h _ _
  | movf t w => exact execMovf_keeps h _ _
  | addi t w => exact execAddi_keeps h _ _
  | andi t w => exact execAndi_keeps h _ _
  | ori t w => exact execOri_keeps h _ _
  | xori t w => exact execXori_keeps h _ _
  | slli t w => exact execSlli_keeps h _ _
  | srli t w => exact execSrli_keeps h _ _
  | srai t w => exact execSrai_keeps h _ _
  | slti t w => exact execSlti_keeps h _ _
  | sltiu t w => exact execSltiu_keeps h _ _
  | orsh t w => exact execOrsh_keeps h _ _
  | ext t w => exact execExt_keeps h _ _
  | ins t w => exact execIns_keeps h _ _
  | beq t w => exact execBeq_keeps h _ _
  | bne t w => exact execBne_keeps h _ _
  | blt t w => exact execBlt_keeps h _ _
  | bge t w => exact execBge_keeps h _ _
  | bltu t w => exact execBltu_keeps h _ _
  | bgeu t w => exact execBgeu_keeps h _ _
  | bbs t w => exact execBbs_keeps h _ _
  | bbc t w => exact execBbc_keeps h _ _
  | jal t w => exact execJal_keeps h _ _
  | jalr t w => exact execJalr_keeps h _ _
  | ld8 t w => exact execLd8_keeps h _ _
  | ld16 t w => exact execLd16_keeps h _ _
  | ld32 t w => exact execLd32_keeps h _ _
  | ld64 t w => exact execLd64_keeps h _ _
  | st8 t w => exact execSt8_keeps h _ _
  | st16 t w => exact execSt16_keeps h _ _
  | st32 t w => exact execSt32_keeps h _ _
  | st64 t w => exact execSt64_keeps h _ _
  | amoSwap t w => exact execAmoSwap_keeps h _ _
  | amoAdd t w => exact execAmoAdd_keeps h _ _
  | amoOr t w => exact execAmoOr_keeps h _ _
  | amoAnd t w => exact execAmoAnd_keeps h _ _
  | amoCas t w => exact execAmoCas_keeps h _ _
  | lbm t w => exact execLbm_keeps h _ _
  | lba t w => exact execLba_keeps h _ _
  | lbf t w => exact execLbf_keeps h _ _
  | lbld t w => exact execLbld_keeps h _ _
  | lbst t w => exact execLbst_keeps h _ _
  | lbmask t w => exact execLbmask_keeps h _ _
  | lbstat t w => exact execLbstat_keeps h _ _
  | sfl t w => exact execSfl_keeps h _ _
  | sfa t w => exact execSfa_keeps h _ _
  | sfu t w => exact execSfu_keeps h _ _
  | sfrd t w => exact execSfrd_keeps h _ _
  | sfsec t w => exact execSfsec_keeps h _ _
  | sfScrubTick n => exact execSfScrubTick_keeps h _
  | scrubTick k => exact execScrubTick_keeps h _
  | rmapRebuild src n => exact execRmapRebuild_keeps h _ _
  | rmapRebuildDone n => exact execRmapRebuildDone_keeps h _
  | sfConsEnd src => exact execSfConsEnd_keeps h _
  | ovfCtrlWrite src wdata => exact execOvfCtrlWrite_keeps h _ _
  | talloc t w => exact execTalloc_keeps h _ _
  | tfind t w => exact execTfind_keeps h _ _
  | tchain t w => exact execTchain_keeps h _ _
  | tfree t w => exact execTfree_keeps h _ _
  | trd t w => exact execTrd_keeps h _ _
  | twr t w => exact execTwr_keeps h _ _
  | trdx t w => exact execTrdx_keeps h _ _
  | plk t w => exact execPlk_keeps h _ _
  | sendSnp t w => exact execSendSnp_keeps h _ _
  | sendMrd t w => exact execSendMrd_keeps h _ _
  | sendMwr t w => exact execSendMwr_keeps h _ _
  | sendRsp t w => exact execSendRsp_keeps h _ _
  | sendMgt t w => exact execSendMgt_keeps h _ _
  | wait t w => exact execWait_keeps h _ _
  | endH t w => exact execEndH_keeps h _ _
  | cbar t w => exact execCbar_keeps h _ _
  | cbarT t w => exact execCbarT_keeps h _ _
  | yieldT t w => exact execYieldT_keeps h _ _
  | rte t w => exact execRte_keeps h _ _
  | trap t w => exact execTrap_keeps h _ _
  | crr t w => exact execCrr_keeps h _ _
  | crw t w => exact execCrw_keeps h _ _
  | flitReceive r inp flits => exact execFlitReceive_keeps h _ _ _
  | packetPublish q flits => exact execPacketPublish_keeps h _ _
  | queueRead q => exact execQueueRead_keeps h _
  | credit e q count => exact execCredit_keeps h _ _ _
  | mgtNak t => exact execMgtNak_keeps h _
  | mgtResend t => exact execMgtResend_keeps h _
  | sinkAbsorb n p idx => exact execSinkAbsorb_keeps h _ _ _
  | quench src n wdata => exact execQuench_keeps h _ _ _
  | quenchAck n shell => exact execQuenchAck_keeps h _ _
  | epochChange src => exact execEpochChange_keeps h _
  | epochDrainDone => exact execEpochDrainDone_keeps h
  | epochDrainTimeout => exact execEpochDrainTimeout_keeps h
  | quadrantGate src q => exact execQuadrantGate_keeps h _ _
  | gatingDone q => exact execGatingDone_keeps h _
  | quadrantUngate src q => exact execQuadrantUngate_keeps h _ _
  | ungatingFillDone q => exact execUngatingFillDone_keeps h _
  | ungateTimeout q => exact execUngateTimeout_keeps h _
  | modeStandby src => exact execModeStandby_keeps h _
  | modeService src => exact execModeService_keeps h _
  | modeEvacuate src => exact execModeEvacuate_keeps h _
  | modeSelftest src => exact execModeSelftest_keeps h _
  | rstFull src => exact execRstFull_keeps h _
  | rstRelease src => exact execRstRelease_keeps h _
  | wdogKick src wdata => exact execWdogKick_keeps h _ _
  | watchdogExpiry => exact execWatchdogExpiry_keeps h
  | measExtend src wdata => exact execMeasExtend_keeps h _ _
  | measExtendDone => exact execMeasExtendDone_keeps h
  | xltPreload src inst pclass => exact execXltPreload_keeps h _ _ _
  | xltPreloadLock src inst pclass => exact execXltPreloadLock_keeps h _ _ _
  | xltUnlock src inst way => exact execXltUnlock_keeps h _ _ _
  | xltInvCtx src => exact execXltInvCtx_keeps h _
  | xltInvPext src => exact execXltInvPext_keeps h _
  | xltInvAll src => exact execXltInvAll_keeps h _
  | xltCmdDone err => exact execXltCmdDone_keeps h _
  | channelGo src c err => exact execChannelGo_keeps h _ _ _
  | channelResume src c => exact execChannelResume_keeps h _ _
  | channelStop src c => exact execChannelStop_keeps h _ _
  | dmaReport msg => exact execDmaReport_keeps h _
  | itemTmo c u => exact execItemTmo_keeps h _ _
  | busyReissue c u => exact execBusyReissue_keeps h _ _
  | doorbell src => exact execDoorbell_keeps h _
  | mbComplete src => exact execMbComplete_keeps h _
  | getVersion => exact execGetVersion_keeps h
  | getMeasurements => exact execGetMeasurements_keeps h
  | getStatus => exact execGetStatus_keeps h
  | mbFullReset => exact execMbFullReset_keeps h
  | mbShutdown => exact execMbShutdown_keeps h
  | ctxSet err => exact execCtxSet_keeps h _
  | mapRun err => exact execMapRun_keeps h _
  | unmapRun err => exact execUnmapRun_keeps h _
  | migStart err => exact execMigStart_keeps h _
  | migStatus err => exact execMigStatus_keeps h _
  | migResume err => exact execMigResume_keeps h _
  | migStop => exact execMigStop_keeps h
  | setPower => exact execSetPower_keeps h
  | mbGate => exact execMbGate_keeps h
  | pmcRead => exact execPmcRead_keeps h
  | evMailbox t => exact execEvMailbox_keeps h _
  | evSession t err => exact execEvSession_keeps h _ _
  | evDepart t err => exact execEvDepart_keeps h _ _
  | evError t => exact execEvError_keeps h _
  | evMode t => exact execEvMode_keeps h _
  | evDma t => exact execEvDma_keeps h _
  | evMpDetach t => exact execEvMpDetach_keeps h _
  | evTimer t => exact execEvTimer_keeps h _
  | evFlush t => exact execEvFlush_keeps h _
  | pmcOvf t => exact execPmcOvf_keeps h _
  | visit n slot => exact execVisit_keeps h _ _
  | visitDone n host depart result => exact execVisitDone_keeps h _ _ _ _
  | pmcFreeze src wdata => exact execPmcFreeze_keeps h _ _
  | pmcSnap src => exact execPmcSnap_keeps h _
  | pmcClear src => exact execPmcClear_keeps h _
  | apertureReadLow src off => exact execApertureReadLow_keeps h _ _
  | apertureReadHigh src off => exact execApertureReadHigh_keeps h _ _
  | apertureWriteLow src off wdata => exact execApertureWriteLow_keeps h _ _ _
  | apertureWriteHigh src off wdata => exact execApertureWriteHigh_keeps h _ _ _
  | reftickReturn => exact execReftickReturn_keeps h
  | registerPortTimeout => exact execRegisterPortTimeout_keeps h
  | mediaPortRecovery m => exact execMediaPortRecovery_keeps h _
  | sorrelEnd res => exact execSorrelEnd_keeps h _

/-- The cold-reset rows keep the queue and the canonical form. -/
theorem coldReset_keeps (i : Instr) (s : State) (h : i = .coldResetAssert ∨ i = .coldResetRelease) :
    ∃ t, exec i s = .next t ∧ t.pending = s.pending ∧ (s.Canon → t.Canon) := by
  have k := s.coldReset_fields
  have g : ∀ m, ({ s.coldReset with mode := m } : State).pending = s.pending ∧ (s.Canon → ({ s.coldReset with mode := m } : State).Canon) :=
    fun m => ⟨k.1, fun c => have z := k.2 c; ⟨z.bmem, z.store, z.pageBuf, z.regs, z.fuse, z.hp, z.mp, z.node, z.quad, z.chan⟩⟩
  obtain rfl | rfl := h
  · refine ⟨_, rfl, ?_⟩
    split
    · exact ⟨rfl, id⟩
    · have q : Keeps { s.coldReset with mode := .off } s.enterOff :=
        foldl_keeps_id _ _ _ (Keeps.refl _) fun _ _ hb => State.setQd_keeps hb _ _
      exact ⟨q.pending.trans (g .off).1, fun c => q.canon ((g .off).2 c)⟩
  · refine ⟨_, rfl, ?_⟩
    split
    · exact g _
    · exact ⟨rfl, id⟩

/-- A tick keeps the queue, the canonical form and FLUSH. -/
theorem State.tick_keeps (s : State) : s.tick.pending = s.pending ∧ (s.Canon → s.tick.Canon) ∧ (s.mode = .flush → s.tick.mode = .flush) := by
  have two : ∀ (w : BitVec 48) (u v : State), Keeps { s with tmo := s.tmo + 1 } u → Keeps { u with time := w } v →
      v.pending = s.pending ∧ (s.Canon → v.Canon) ∧ (s.mode = .flush → v.mode = .flush) := fun w u v k l =>
    have a : s.Canon → u.Canon := fun z =>
      k.canon ⟨z.bmem, z.store, z.pageBuf, z.regs, z.fuse, z.hp, z.mp, z.node, z.quad, z.chan⟩
    ⟨l.pending.trans k.pending, fun z => have y := a z
      l.canon ⟨y.bmem, y.store, y.pageBuf, y.regs, y.fuse, y.hp, y.mp, y.node, y.quad, y.chan⟩, fun m => l.flush (k.flush m)⟩
  unfold State.tick
  split
  · exact ⟨rfl, id, id⟩
  · have k := State.cfgTake_keeps (State.attTick_keeps (Keeps.refl ({ s with tmo := s.tmo + 1 } : State)))
    dsimp only
    generalize ({ s with tmo := s.tmo + 1 } : State).attTick.cfgTake = u at k ⊢
    split
    · exact two u.time u _ k (State.selfRun_keeps (Keeps.refl _))
    · exact two _ u _ k (State.selfRun_keeps (State.hourTick_keeps (State.timerPoll_keeps (State.vlowTick_keeps (State.cntTick_keeps
        (State.lateAll_keeps (Keeps.refl _)))))))

end Sys2Proof.Machine
end

