-- ==== Sys2Proof/Laws/Sage.lean ====
section
/-! SUPPORT. Sys2Proof/Laws/Sage.lean: what an issue of a Sage instruction leaves as it was and what it changes, once for all
instructions. -/

namespace Sys2Proof.Machine

/-! ### Only one thread changes -/

theorem OnlyThread.refl (s : State) (t : Thr) : OnlyThread s s t :=
  ⟨rfl, fun _ _ => rfl, fun _ => rfl, fun _ => rfl, fun _ _ => rfl⟩

theorem OnlyThread.trans {s u v : State} {t : Thr} (h : OnlyThread s u t) (k : OnlyThread u v t) : OnlyThread s v t where
  rest := by
    have h1 := h.rest
    have h2 := k.rest
    rw [← h1, ← h2]
  regs a ha := (k.regs a ha).trans (h.regs a ha)
  nodes n := by
    have h1 := h.nodes n
    have h2 := k.nodes n
    rw [← h1, ← h2]
  cores c := by
    have h1 := h.cores c
    have h2 := k.cores c
    rw [← h1, ← h2]
  threads j hj := (k.threads j hj).trans (h.threads j hj)

theorem State.modThr_thr (s : State) (t u : Thr) (f : Thread → Thread) :
    (s.modThr t f).thr u = if u = t then f (s.thr t) else s.thr u := by simp [State.modThr, State.thr_setThr]

theorem State.modThr_only (s : State) (t : Thr) (f : Thread → Thread) : OnlyThread s (s.modThr t f) t := by
  obtain ⟨c, i⟩ := t
  refine ⟨?_, fun a _ => ?_, fun n => ?_, fun d => ?_, fun k hk => ?_⟩
  · cases c <;> rfl
  · cases c <;> rfl
  · cases c with
    | chervil => rfl
    | node m =>
      simp only [State.modThr, State.setThr, State.setCore, State.nd_setNd]
      split
      · rename_i h; subst h; rfl
      · rfl
  · simp only [State.modThr, State.setThr, State.core_setCore]
    split
    · rename_i h; subst h; rfl
    · rfl
  · simp [State.modThr_thr, hk]

/-! ### Performance counters -/

/-- From `s` to `u` only performance counters count, and what their overflow raises is raised. -/
structure Counted (s u : State) : Prop where
  rest : { u with chv := s.chv, pmc := s.pmc, regs := s.regs, free := s.free } = s
  chv : { u.chv with events := s.chv.events } = s.chv
  regs : ∀ a, (∀ i, a ≠ pmcHiA i) → u.raw a = s.raw a

theorem Counted.refl (s : State) : Counted s s := ⟨rfl, rfl, fun _ _ => rfl⟩

theorem Counted.trans {s u v : State} (h : Counted s u) (k : Counted u v) : Counted s v where
  rest := by
    have h1 := h.rest
    have h2 := k.rest
    rw [← h1, ← h2]
  chv := by
    have h1 := h.chv
    have h2 := k.chv
    rw [← h1, ← h2]
  regs a ha := (k.regs a ha).trans (h.regs a ha)

theorem Counted.foldl {α : Type} {s : State} (f : State → α → State) (l : List α) (h : ∀ u a, Counted s u → Counted s (f u a))
    (u : State) (hu : Counted s u) : Counted s (l.foldl f u) := by
  induction l generalizing u with
  | nil => exact hu
  | cons a l ih => exact ih _ (h _ _ hu)

theorem State.chvEvent_counted (s : State) (e d : Nat) : Counted s (s.chvEvent e d) := by
  unfold State.chvEvent
  simp only []
  split
  · exact ⟨rfl, rfl, fun _ _ => rfl⟩
  · split <;> exact ⟨rfl, rfl, fun _ _ => rfl⟩

theorem State.bump_counted (s : State) (i : PmcId) (k : Nat) : Counted s (s.bump i k) := by
  unfold State.bump
  simp only []
  split
  · exact ⟨rfl, rfl, fun _ _ => rfl⟩
  · have h (m : SMap Pmc) : Counted s ({ s with pmc := m }.setFld (pmcHiA i) 16 16 1) :=
      ⟨rfl, rfl, fun a ha => by rw [State.raw_setFld, if_neg (ha i)]; rfl⟩
    split
    · exact (h _).trans (State.chvEvent_counted _ _ _)
    · exact h _

/-- Counting an event of a node changes the counters only. -/
theorem State.cntN_counted (s : State) (n : NodeId) (sel k : Nat) : Counted s (s.cntN n sel k) := by
  unfold State.cntN
  split
  · exact .refl s
  · refine Counted.foldl _ _ (fun u a hu => ?_) s (.refl s)
    split
    · exact hu.trans (State.bump_counted _ _ _)
    · exact hu

/-- Counting an event of the block changes the counters only. -/
theorem State.cntB_counted (s : State) (sel k : Nat) : Counted s (s.cntB sel k) := by
  unfold State.cntB
  split
  · exact .refl s
  · refine Counted.foldl _ _ (fun u a hu => ?_) s (.refl s)
    split
    · exact hu.trans (State.bump_counted _ _ _)
    · exact hu

theorem Counted.node {s u : State} (h : Counted s u) : u.node = s.node := by rw [← h.rest]

theorem Counted.core {s u : State} (h : Counted s u) (c : CoreId) : { u.core c with events := (s.core c).events } = s.core c := by
  cases c with
  | chervil => exact h.chv
  | node n => simp [State.core, State.nd, h.node]

theorem Counted.thr {s u : State} (h : Counted s u) (k : Thr) : u.thr k = s.thr k := by
  have := congrArg (fun c : Core => c.thr k.t.val) (h.core k.core)
  exact this

theorem Counted.only {s u : State} (h : Counted s u) (t : Thr) : OnlyThread s u t where
  rest := by have := h.rest; rw [← this]
  regs := h.regs
  nodes n := by simp [State.nd, h.node]
  cores c := by have := h.core c; rw [← this]
  threads k _ := h.thr k

/-! ### An issue -/

/-- What the account of an issue leaves of its thread. -/
theorem State.account_only (s : State) (t : Thr) : OnlyThread s (s.account t) t := by
  unfold State.account
  simp only []
  split
  · exact (State.modThr_only s t _).trans ((State.cntN_counted _ _ _ _).only t)
  · exact State.modThr_only s t _

/-- The account of an issue changes SLICE, the run and the age of merging entries of its thread. -/
theorem State.account_thr (s : State) (t : Thr) : ∃ sl, (s.account t).thr t =
    { s.thr t with slice := sl, run := (s.thr t).run + 1,
                   sb := (s.thr t).sb.map fun e => if e.merging then { e with age := e.age + 1 } else e } := by
  unfold State.account
  simp only []
  split
  · rw [(State.cntN_counted _ _ _ _).thr, State.modThr_thr, if_pos rfl]; exact ⟨_, rfl⟩
  · rw [State.modThr_thr, if_pos rfl]; exact ⟨_, rfl⟩

theorem State.goto_passes (s : State) (t : Thr) (pc to_ : Nat) (h : pcIn t.core to_ = true) (ht : bt (s.thr t).tc 1 = false) :
    s.goto t pc to_ = s.modThr t fun x => { x with pc := to_, st := .ready, pend := .none } := by
  unfold State.goto
  simp [h, State.modThr_thr, ht]

/-- An instruction that issues does its own work, then what waits goes on unless it acts on the thread alone. -/
theorem State.issue_of {s : State} {t : Thr} {o : Op} {w : Reg32} (h : Issues s t o w) (f : Thread → State → Res) :
    s.issue t o w f = if o.quiet then s.finish t (s.thr t).pc (f (s.thr t) s)
      else (s.finish t (s.thr t).pc (f (s.thr t) s)).goOn := by
  obtain ⟨h1, h2, h3, h4⟩ := h
  unfold State.issue
  have hce : s.fetchCe t (s.thr t).pc Ecc.good = s := rfl
  simp [h1, h2, h3, hce, h4]

/-- Writing rd changes its thread alone. -/
theorem State.setRd_thr (s : State) (t : Thr) (rd : Nat) (v : Word) : (s.setRd t rd v).thr t = (s.thr t).setReg rd v := by
  simp [State.setRd, State.modThr_thr]

/-- The end of an instruction that leaves `y`: from `u`, thread `t` has written `v` to rd and goes on at `to_`. -/
theorem State.finish_to {s u y : State} {t : Thr} {rd : Nat} {v : Word} {pc to_ : Nat} (hu : u.thr t = s.thr t)
    (hy : OnlyThread u y t) (hx : y.thr t = (u.thr t).setReg rd v) (hp : Passes s t to_) :
    OnlyThread u ((y.account t).goto t pc to_) t ∧ WroteRd u ((y.account t).goto t pc to_) t rd v to_ := by
  obtain ⟨sl, ha⟩ := State.account_thr y t
  rw [hx] at ha
  have htc : bt ((y.account t).thr t).tc 1 = false := by
    rw [ha]; unfold Thread.setReg; rw [hu]; split <;> exact hp.2
  rw [State.goto_passes _ _ _ _ hp.1 htc]
  refine ⟨(hy.trans (State.account_only _ _)).trans (State.modThr_only _ _ _), ?_⟩
  have hf : ((y.account t).modThr t fun x => { x with pc := to_, st := .ready, pend := .none }).thr t =
      { (y.account t).thr t with pc := to_, st := .ready, pend := .none } := by simp [State.modThr_thr]
  refine ⟨?_, fun r hne => ?_, fun x hxx => ?_, ?_, ?_, ?_⟩
  · rw [hf, ha]; unfold Thread.setReg Thread.reg; split <;> simp [smGet_smSet]
  · rw [hf, ha]; unfold Thread.setReg Thread.reg
    by_cases h0 : rd = 0
    · simp [h0]
    · simp [h0, smGet_smSet, hne]
  · subst hxx
    rw [hf, ha]; unfold Thread.setReg; split <;> rfl
  · rw [hf, ha]
    unfold Thread.setReg
    split <;> (simp only [List.map_map]; refine List.map_congr_left fun e _ => ?_; simp only [Function.comp]; split <;> rfl)
  · rw [hf]
  · rw [hf]

/-- An instruction that ends: its work on the rest of the state gives `u`, its result is `v`. -/
theorem State.issue_ends {s u y : State} {t : Thr} {o : Op} {w : Reg32} (h : Issues s t o w) {f : Thread → State → Res} {rd : Nat}
    {v : Word} (hf : f (s.thr t) s = .next y) (hu : u.thr t = s.thr t) (hy : OnlyThread u y t)
    (hx : y.thr t = (u.thr t).setReg rd v) (hp : Passes s t ((s.thr t).pc + 1)) :
    ∃ x, s.issue t o w f = (if o.quiet then x else x.goOn) ∧ OnlyThread u x t ∧ WroteRd u x t rd v ((s.thr t).pc + 1) := by
  refine ⟨_, State.issue_of h f, ?_⟩
  rw [hf]
  have hl : pcLast t.core (s.thr t).pc = false := by unfold pcLast; rw [hp.1]; rfl
  simp only [State.finish, hl]
  exact State.finish_to hu hy hx hp

/-- An instruction whose last act is to write `v` to rd. -/
theorem State.issue_writes {s u : State} {t : Thr} {o : Op} {w : Reg32} (h : Issues s t o w) {f : Thread → State → Res} {rd : Nat}
    {v : Word} (hf : f (s.thr t) s = .next (u.setRd t rd v)) (hu : u.thr t = s.thr t) (hp : Passes s t ((s.thr t).pc + 1)) :
    ∃ x, s.issue t o w f = (if o.quiet then x else x.goOn) ∧ OnlyThread u x t ∧ WroteRd u x t rd v ((s.thr t).pc + 1) :=
  State.issue_ends h hf hu (State.modThr_only _ _ _) (State.setRd_thr _ _ _ _) hp

/-- A transfer of control to `target`. -/
theorem State.issue_jumps {s u y : State} {t : Thr} {o : Op} {w : Reg32} (h : Issues s t o w) {f : Thread → State → Res} {rd : Nat}
    {v target : Word} (hf : f (s.thr t) s = .jump y target) (hu : u.thr t = s.thr t) (hy : OnlyThread u y t)
    (hx : y.thr t = (u.thr t).setReg rd v) (hp : Passes s t target.toNat) :
    ∃ x, s.issue t o w f = (if o.quiet then x else x.goOn) ∧ OnlyThread u x t ∧ WroteRd u x t rd v target.toNat := by
  refine ⟨_, State.issue_of h f, ?_⟩
  rw [hf]
  simp only [State.finish, hp.1, if_true]
  exact State.finish_to hu hy hx hp

/-- Writing nothing to g0 leaves the thread as it was. -/
theorem Thread.setReg_zero (x : Thread) (v : Word) : x.setReg 0 v = x := rfl

/-! ### Traps -/

/-- Of threads, only the store buffer of thread `t` differs, and no entry of it has a parity error. -/
def SbOnly (s u : State) (t : Thr) : Prop := ∃ b, u.thr t = { s.thr t with sb := b } ∧ ∀ e ∈ b, e.parBad = false

theorem SbOnly.refl {s : State} {t : Thr} (h : ∀ e ∈ (s.thr t).sb, e.parBad = false) : SbOnly s s t := ⟨_, rfl, h⟩

theorem SbOnly.trans {s u v : State} {t : Thr} (h : SbOnly s u t) (k : SbOnly u v t) : SbOnly s v t := by
  obtain ⟨a, ha, _⟩ := h
  obtain ⟨b, hb, hc⟩ := k
  exact ⟨b, by rw [hb, ha], hc⟩

theorem SbOnly.clean {s u : State} {t : Thr} (h : SbOnly s u t) : ∀ e ∈ (u.thr t).sb, e.parBad = false := by
  obtain ⟨b, hb, hc⟩ := h
  rw [hb]
  exact hc

theorem SbOnly.of {s u : State} {t : Thr} (h : u.thr t = s.thr t) (hc : ∀ e ∈ (s.thr t).sb, e.parBad = false) : SbOnly s u t :=
  ⟨_, h, hc⟩

/-- A change of buffer entries that leaves their parity alone. -/
theorem State.mapSb_sbOnly (s : State) (t : Thr) (f : SbEnt → SbEnt) (hf : ∀ e, (f e).parBad = e.parBad)
    (hc : ∀ e ∈ (s.thr t).sb, e.parBad = false) : SbOnly s (s.modThr t fun x => { x with sb := x.sb.map f }) t := by
  refine ⟨_, by rw [State.modThr_thr, if_pos rfl], fun e he => ?_⟩
  obtain ⟨a, ha, rfl⟩ := List.mem_map.mp he
  rw [hf]
  exact hc a ha

theorem State.modSb_sbOnly (s : State) (t : Thr) (i : Nat) (f : SbEnt → SbEnt) (hf : ∀ e, (f e).parBad = e.parBad)
    (hc : ∀ e ∈ (s.thr t).sb, e.parBad = false) : SbOnly s (s.modSb t i f) t :=
  State.mapSb_sbOnly s t _ (fun e => by split <;> simp [hf]) hc

theorem State.bmIssue_thr {s u : State} {why : BmWhy} {wr : Bool} {l : Nat} {be : BitVec 64} {d : Line} {i : Nat}
    (h : s.bmIssue why wr l be d = some (i, u)) (t : Thr) : u.thr t = s.thr t := by
  unfold State.bmIssue at h
  split at h
  · cases h
  · simp only [Option.some.injEq, Prod.mk.injEq] at h
    rw [← h.2, (State.cntB_counted _ _ _).thr]
    rfl

theorem State.mpQueue_thr (s : State) (m : MpId) (i : Nat) (t : Thr) : (s.mpQueue m i).thr t = s.thr t := by
  simp [State.mpQueue]

theorem State.sbSendOne_sbOnly (s : State) (t : Thr) (e : SbEnt) (he : e.parBad = false) (hc : ∀ e ∈ (s.thr t).sb, e.parBad = false) :
    SbOnly s (s.sbSendOne t e) t := by
  unfold State.sbSendOne
  simp only [he]
  split
  · contradiction
  split
  · exact .refl hc
  split
  · exact State.modSb_sbOnly _ _ _ _ (fun _ => rfl) hc
  · have hq : SbOnly s (match ((s.mpQueue (Fin.ofNat 8 e.mp) e.mtag).mpAt (Fin.ofNat 8 e.mp)).mtag e.mtag with
        | some g => match g.pair with
          | some k => (s.mpQueue (Fin.ofNat 8 e.mp) e.mtag).mpQueue (Fin.ofNat 8 e.mp) k
          | none => s.mpQueue (Fin.ofNat 8 e.mp) e.mtag
        | none => s.mpQueue (Fin.ofNat 8 e.mp) e.mtag) t := by
      refine SbOnly.of ?_ hc
      split
      · split
        · rw [State.mpQueue_thr, State.mpQueue_thr]
        · rw [State.mpQueue_thr]
      · rw [State.mpQueue_thr]
    exact hq.trans (State.modSb_sbOnly _ _ _ _ (fun _ => rfl) hq.clean)
  · split
    · split
      · rename_i h
        have hb := SbOnly.of (State.bmIssue_thr h t) hc
        exact hb.trans (State.modSb_sbOnly _ _ _ _ (fun _ => rfl) hb.clean)
      · exact .refl hc
    · exact State.modSb_sbOnly _ _ _ _ (fun _ => rfl) hc

theorem State.sbSendWhile_sbOnly (t : Thr) (p : SbEnt → Bool) (k : Nat) :
    ∀ s : State, (∀ e ∈ (s.thr t).sb, e.parBad = false) → SbOnly s (s.sbSendWhile t p k) t := by
  induction k with
  | zero => exact fun s hc => .refl hc
  | succ k ih =>
    intro s hc
    unfold State.sbSendWhile
    split
    · exact .refl hc
    · rename_i e he
      split
      · have h1 := State.sbSendOne_sbOnly s t e (hc e (List.mem_of_find?_eq_some he)) hc
        exact h1.trans (ih _ h1.clean)
      · exact .refl hc

/-- Sending the merging stores changes the store buffer alone of the thread. -/
theorem State.sbRelease_sbOnly (s : State) (t : Thr) (hc : ∀ e ∈ (s.thr t).sb, e.parBad = false) : SbOnly s (s.sbRelease t) t := by
  unfold State.sbRelease State.sbFlush
  split
  · have h := State.mapSb_sbOnly s t (fun e => if ((s.thr t).sb.map (·.id)).contains e.id then { e with merging := false } else e)
      (fun e => by split <;> rfl) hc
    exact h.trans (State.sbSendWhile_sbOnly t _ _ _ h.clean)
  · exact .refl hc

/-- What trap entry does after an instruction's account (R269). -/
theorem State.trapTo_traps {s y : State} {t : Thr} {cause : Nat} (val : Word) (epc : Nat) (hy : OnlyThread s y t)
    (hx : ∃ sl ru b, y.thr t = { s.thr t with slice := sl, run := ru, sb := b } ∧
      ((∀ e ∈ (s.thr t).sb, e.parBad = false) → ∀ e ∈ b, e.parBad = false) ∧
      ((∀ e ∈ (s.thr t).sb, e.merging = false) → ∀ e ∈ b, e.merging = false))
    (hm : MayTrap s t cause) : Traps s (y.trapTo t cause val epc) t cause val epc := by
  obtain ⟨sl, ru, b0, hx, hpar, hmb⟩ := hx
  have hmode : y.mode = s.mode := by rw [← hy.rest]
  have hts : y.tsWord t = s.tsWord t := by
    unfold State.tsWord State.sbm
    rw [hx, hmode]
    rfl
  have hc : ((y.thr t).trapActive || !pcIn t.core ((y.thr t).tvec.toNat + 8 * cause)) = false := by
    rw [hx]; simp [hm.1, hm.2.1]
  let F : Thread → Thread := fun x =>
    { x with ets := y.tsWord t, epc := BitVec.ofNat 64 epc, ecause := BitVec.ofNat 64 cause, eval := val, priv := true,
             trapActive := true, handle := none, pc := (y.thr t).tvec.toNat + 8 * cause, st := .ready, pend := .none }
  have he : y.trapTo t cause val epc = (y.modThr t F).sbRelease t := by
    unfold State.trapTo
    simp only [hc]
    rfl
  rw [he]
  obtain ⟨b, hb, _⟩ := State.sbRelease_sbOnly (y.modThr t F) t (by
    rw [State.modThr_thr, if_pos rfl, hx]
    exact hpar hm.2.2)
  rw [State.modThr_thr, if_pos rfl] at hb
  generalize hz : (y.modThr t F).sbRelease t = z at hb ⊢
  simp only [F, hts, hx] at hb
  refine ⟨?_, ?_, ?_, ?_, fun hs => ?_⟩
  · rw [hb]; exact ⟨rfl, rfl, rfl, rfl⟩
  · rw [hb]; exact ⟨rfl, rfl, rfl, rfl⟩
  · rw [hb]
  · rw [hb]; exact ⟨rfl, rfl, rfl, rfl, rfl, rfl, rfl⟩
  · refine hy.trans ?_
    rw [← hz]
    have hsb : (y.modThr t F).sbm = false := by
      have : (y.modThr t F).mode = y.mode := by unfold State.modThr State.setThr State.setCore; split <;> rfl
      unfold State.sbm
      rw [this, hmode]
      exact hs.1
    unfold State.sbRelease
    rw [if_neg]
    · exact State.modThr_only _ _ _
    · rw [State.modThr_thr, if_pos rfl, hx, hsb]
      simp only [Bool.false_or, Bool.not_eq_true, List.any_eq_false]
      exact hmb hs.2

/-- An instruction that traps with everything else as it was (R232, R269). -/
theorem State.account_traps (s : State) (t : Thr) (cause : Nat) (val : Word) (epc : Nat) (hm : MayTrap s t cause) :
    Traps s ((s.account t).trapTo t cause val epc) t cause val epc :=
  State.trapTo_traps val epc (State.account_only s t) (by
    obtain ⟨sl, h⟩ := State.account_thr s t
    have hmap : ∀ q : SbEnt → Bool, (∀ e : SbEnt, q { e with age := e.age + 1 } = q e) → (∀ e ∈ (s.thr t).sb, q e = false) →
        ∀ e ∈ (s.thr t).sb.map fun e => if e.merging then { e with age := e.age + 1 } else e, q e = false := by
      intro q hq hs e he
      obtain ⟨a, ha, rfl⟩ := List.mem_map.mp he
      split
      · rw [hq]; exact hs a ha
      · exact hs a ha
    exact ⟨_, _, _, h, hmap (·.parBad) fun _ => rfl, hmap (·.merging) fun _ => rfl⟩) hm

/-! ### Commands that issue an instruction -/

/-- A command whose instruction acts on more than its thread, and whose last act is to write `v` to rd. -/
theorem GivesOn.of_writes {c : Instr} {s u : State} {t : Thr} {o : Op} {w : Reg32} {f : Thread → State → Res} {rd : Nat} {v : Word}
    (hc : exec c s = .next (s.issue t o w f)) (hq : o.quiet = false) (h : Issues s t o w)
    (hf : f (s.thr t) s = .next (u.setRd t rd v)) (hu : u.thr t = s.thr t) (hp : Passes s t ((s.thr t).pc + 1)) :
    GivesOn c s u t rd v ((s.thr t).pc + 1) := by
  obtain ⟨x, hx, h1⟩ := State.issue_writes h hf hu hp
  rw [hq, if_neg Bool.false_ne_true] at hx
  exact ⟨x, by rw [hc, hx], h1⟩

/-- The same, with `y` left by the instruction's whole effect. -/
theorem GivesOn.of_ends {c : Instr} {s u y : State} {t : Thr} {o : Op} {w : Reg32} {f : Thread → State → Res} {rd : Nat} {v : Word}
    (hc : exec c s = .next (s.issue t o w f)) (hq : o.quiet = false) (h : Issues s t o w)
    (hf : f (s.thr t) s = .next y) (hu : u.thr t = s.thr t) (hy : OnlyThread u y t) (hx : y.thr t = (u.thr t).setReg rd v)
    (hp : Passes s t ((s.thr t).pc + 1)) : GivesOn c s u t rd v ((s.thr t).pc + 1) := by
  obtain ⟨x, hx', h1⟩ := State.issue_ends h hf hu hy hx hp
  rw [hq, if_neg Bool.false_ne_true] at hx'
  exact ⟨x, by rw [hc, hx'], h1⟩

/-- A command whose instruction traps with everything else as it was. -/
theorem State.issue_traps {c : Instr} {s : State} {t : Thr} {o : Op} {w : Reg32} {f : Thread → State → Res} {cause : Nat} {v : Word}
    (hc : exec c s = .next (s.issue t o w f)) (hq : o.quiet = false) (h : Issues s t o w) (hf : f (s.thr t) s = .trap cause v)
    (hm : MayTrap s t cause) : ∃ u, exec c s = .next u.goOn ∧ Traps s u t cause v (s.thr t).pc := by
  refine ⟨(s.account t).trapTo t cause v (s.thr t).pc, ?_, State.account_traps s t cause v _ hm⟩
  rw [hc, State.issue_of h, hq, hf, if_neg Bool.false_ne_true]
  rfl

/-- What else an instruction may leave of its issue: `r` is its result. -/
theorem State.issue_on {c : Instr} {s : State} {t : Thr} {o : Op} {w : Reg32} {f : Thread → State → Res} {r : Res}
    (hc : exec c s = .next (s.issue t o w f)) (hq : o.quiet = false) (h : Issues s t o w) (hf : f (s.thr t) s = r) :
    exec c s = .next (s.finish t (s.thr t).pc r).goOn := by
  rw [hc, State.issue_of h, hq, hf, if_neg Bool.false_ne_true]

/-- With merging mode out of force and no merging store in the buffer, its events of R296 send nothing. -/
theorem State.sbRelease_same {s : State} {t : Thr} (h : NoMerge s t) : s.sbRelease t = s := by
  unfold State.sbRelease
  rw [if_neg]
  simp only [h.1, Bool.false_or, Bool.not_eq_true, List.any_eq_false]
  exact fun e he => by simp [h.2 e he]

/-- The end of an instruction that leaves its thread as `y`. -/
theorem State.goto_now {s z : State} {t : Thr} {pc to_ : Nat} {y : Thread} (hz : OnlyThread s z t) (hx : z.thr t = y)
    (hp : pcIn t.core to_ = true) (ht : bt y.tc 1 = false) :
    OnlyThread s ((z.account t).goto t pc to_) t ∧ Now ((z.account t).goto t pc to_) t y to_ := by
  obtain ⟨sl, ha⟩ := State.account_thr z t
  rw [hx] at ha
  have htc : bt ((z.account t).thr t).tc 1 = false := by rw [ha]; exact ht
  rw [State.goto_passes _ _ _ _ hp htc]
  refine ⟨(hz.trans (State.account_only _ _)).trans (State.modThr_only _ _ _), ?_⟩
  have hf : ((z.account t).modThr t fun x => { x with pc := to_, st := .ready, pend := .none }).thr t =
      { (z.account t).thr t with pc := to_, st := .ready, pend := .none } := by simp [State.modThr_thr]
  refine ⟨?_, ?_, ?_, ?_⟩ <;> rw [hf, ha]
  · simp only [List.map_map]
    refine List.map_congr_left fun e _ => ?_
    simp only [Function.comp]
    split <;> rfl

/-- Where control may pass, the instruction is not the last of its part of the program space. -/
theorem Passes.last {s : State} {t : Thr} {pc : Nat} (h : Passes s t (pc + 1)) : pcLast t.core pc = false := by
  unfold pcLast
  rw [h.1]
  rfl

end Sys2Proof.Machine
end

