-- ==== Sys2Proof/Tests/Slice0.lean ====
section
/-! SUPPORT. Sys2Proof/Tests/Slice0.lean: the words of the Sage instructions written out from the spec's tables, a state that meets the
hypotheses of each statement (wit_…), well-formed and ill-formed commands (wf_…), and the spec's own worked examples (test_…). -/

open Sys2Proof Sys2Proof.Machine

namespace Sys2Proof.Tests

-- The elaboration of one test at a time keeps the memory small.
set_option Elab.async false

/-- A READY thread that may issue, its trap vector at 0x100. -/
def tThr : Thread := { st := .ready, slice := 512, tvec := 0x100 }

/-- Node 0 in SERVICE, its engine running, with the given node contents, thread 0 and word at index 0. -/
def tNode (n : Node) (x : Thread) (w : Nat) : State :=
  { State.reset with mode := .service }.setNd 0
    { n with core := { n.core with threads := [(0, x)], prog := memWrite [] 0 w 4, stopped := false } }

/-- Thread 0 of node 0. -/
def t0 : Thr := ⟨.node 0, 0⟩

/-- What `Issues` asks, in a form that decides. -/
def issuesB (s : State) (t : Thr) (o : Op) (w : Reg32) : Bool :=
  s.mayIssue t && decide (s.fetch t.core (s.thr t).pc = (w, Ecc.good)) && decide (opOf w = some o)
    && decide (o.wordFault t.core (s.thr t) w = none)

theorem issuesB_iff {s : State} {t : Thr} {o : Op} {w : Reg32} (h : issuesB s t o w = true) : Issues s t o w := by
  simp only [issuesB, Bool.and_eq_true, decide_eq_true_eq] at h
  exact ⟨h.1.1.1, h.1.1.2, h.1.2, h.2⟩

/-- What `MayTrap` asks, in a form that decides. -/
def trapB (s : State) (t : Thr) (cause : Nat) : Bool :=
  !(s.thr t).trapActive && pcIn t.core ((s.thr t).tvec.toNat + 8 * cause) && (s.thr t).sb.all fun e => !e.parBad

theorem trapB_iff {s : State} {t : Thr} {cause : Nat} (h : trapB s t cause = true) : MayTrap s t cause := by
  simp only [trapB, Bool.and_eq_true, Bool.not_eq_true', List.all_eq_true] at h
  exact ⟨h.1.1, h.1.2, fun e he => by simpa using h.2 e he⟩

/-- Flow privilege, a bound tracker 5 and the given registers. -/
def tFlow (g : SMap Word) : Thread := { tThr with trk := some 5, g := g }

/-- The straps of four quadrants with 8 GiB of block memory, taken. -/
def tStrap (s : State) : State := s.setRaw HA_STRAP 0x80BC0
/-- A word of `e` for a word table entry. -/
def b32 (w : Nat) : Reg32 := BitVec.ofNat 32 w
/-- A map that lists one value under the first keys. -/
def tFull {α : Type} (n : Nat) (v : α) : SMap α := (List.range n).map fun i => (i, v)
theorem tFull_get {α : Type} (d : Nat → α) (n : Nat) (v : α) (k : Nat) (h : k < n) : smGet d (tFull n v) k = v := by
  have key : ∀ l : List Nat, k ∈ l → smGet d (l.map fun i => (i, v)) k = v := by
    intro l
    induction l with
    | nil => intro h; cases h
    | cons a l ih =>
      intro h
      by_cases e : k = a
      · simp [smGet, e]
      · rw [List.mem_cons] at h
        simp [smGet, e, ih (h.resolve_left e)]
  exact key _ (List.mem_range.mpr h)

/-- A word of format R: op, rd, rs1, rs2, func (Table 7.7). -/
def wR (op rd rs1 rs2 func : Nat) : Nat := op * 2 ^ 26 + rd * 2 ^ 21 + rs1 * 2 ^ 16 + rs2 * 2 ^ 11 + func
/-- A word of format I, S, B or C: op, two registers, 16 bits. -/
def wI (op rd rs1 imm : Nat) : Nat := op * 2 ^ 26 + rd * 2 ^ 21 + rs1 * 2 ^ 16 + imm

/-- A word for every mnemonic, written out from Tables 7.9 to 7.14c: opcode, function and the operand fields in use. -/
def aluWords : List (Op × Nat) :=
  [(.add, wR 0 3 1 2 0), (.sub, wR 0 3 1 2 1), (.and, wR 0 3 1 2 2), (.or, wR 0 3 1 2 3), (.xor, wR 0 3 1 2 4), (.sll, wR 0 3 1 2 5),
   (.srl, wR 0 3 1 2 6), (.sra, wR 0 3 1 2 7), (.slt, wR 0 3 1 2 8), (.sltu, wR 0 3 1 2 9), (.mul, wR 0 3 1 2 10),
   (.hslot, wR 0 3 1 0 11), (.popc, wR 0 3 1 0 12), (.clz, wR 0 3 1 0 13), (.movf, wR 0 3 0 7 14)]
def immWords : List (Op × Nat) :=
  [(.addi, wI 1 3 1 0xFFFF), (.andi, wI 2 3 1 0x8001), (.ori, wI 3 3 1 0x8001), (.xori, wI 4 3 1 0x8001), (.slli, wI 5 3 1 63),
   (.srli, wI 6 3 1 63), (.srai, wI 7 3 1 63), (.slti, wI 8 3 1 0xFFFF), (.sltiu, wI 9 3 1 0xFFFF), (.orsh, wI 10 3 1 0x8001),
   (.ext, wI 11 3 1 (60 * 2 ^ 10 + 3 * 2 ^ 4)), (.ins, wI 12 3 1 (60 * 2 ^ 10 + 3 * 2 ^ 4))]
def brWords : List (Op × Nat) :=
  [(.beq, wI 0x10 1 2 16), (.bne, wI 0x11 1 2 16), (.blt, wI 0x12 1 2 16), (.bge, wI 0x13 1 2 16), (.bltu, wI 0x14 1 2 16),
   (.bgeu, wI 0x15 1 2 16), (.bbs, wI 0x16 1 0 16), (.bbc, wI 0x17 1 0 16), (.jal, wI 0x18 3 0 16), (.jalr, wI 0x19 3 1 16)]
def memWords : List (Op × Nat) :=
  [(.ld8, wI 0x20 3 1 16), (.ld16, wI 0x21 3 1 16), (.ld32, wI 0x22 3 1 16), (.ld64, wI 0x23 3 1 16), (.st8, wI 0x24 3 1 16),
   (.st16, wI 0x25 3 1 16), (.st32, wI 0x26 3 1 16), (.st64, wI 0x27 3 1 16), (.amoSwap, wR 0x28 3 1 2 0), (.amoAdd, wR 0x28 3 1 2 1),
   (.amoOr, wR 0x28 3 1 2 2), (.amoAnd, wR 0x28 3 1 2 3), (.amoCas, wR 0x28 3 1 2 4)]
def arrWords : List (Op × Nat) :=
  [(.lbm, wR 0x2B 0 1 2 0), (.lba, wR 0x2B 3 0 0 1), (.lbf, wR 0x2B 0 1 0 2), (.lbld, wR 0x2B 3 1 7 3), (.lbst, wR 0x2B 3 1 7 4),
   (.lbmask, wR 0x2B 3 1 0 5), (.lbstat, wR 0x2B 3 1 0 6), (.sfl, wR 0x34 3 1 0 0), (.sfa, wR 0x34 3 1 0 1), (.sfu, wR 0x34 3 1 2 2),
   (.sfrd, wR 0x34 3 1 0 3), (.sfsec, wR 0x34 3 1 0 4), (.talloc, wR 0x35 3 1 2 0), (.tfind, wR 0x35 3 1 0 1),
   (.tchain, wR 0x35 3 1 0 2), (.tfree, wR 0x35 0 0 0 3), (.trd, wR 0x35 3 0 1 4), (.twr, wR 0x35 0 1 6 5), (.trdx, wR 0x35 3 1 0 6),
   (.plk, wR 0x36 3 1 0 0)]
def ctlWords : List (Op × Nat) :=
  [(.sendSnp, wR 0x30 3 1 2 0), (.sendMrd, wR 0x30 0 1 2 1), (.sendMwr, wR 0x30 0 1 2 2), (.sendRsp, wR 0x30 0 1 2 3),
   (.sendMgt, wR 0x30 0 1 2 4), (.wait, wI 0x31 0 8 16), (.endH, wR 0x32 0 0 0 0), (.cbar, wR 0x38 3 0 0 0), (.cbarT, wR 0x38 3 0 0 1),
   (.yieldT, wR 0x38 0 0 0 2), (.rte, wR 0x38 0 0 0 4), (.trap, wI 0x39 0 0 0xABCD), (.crr, wI 0x3A 3 0 0x106), (.crw, wI 0x3B 0 1 7)]
def sageWords : List (Op × Nat) := aluWords ++ immWords ++ brWords ++ memWords ++ arrWords ++ ctlWords

/-- Every mnemonic has its word, and the word spells it with no unused bit set. -/
theorem test_words : ∀ e ∈ sageWords, opOf (BitVec.ofNat 32 e.2) = some e.1 ∧ e.2 &&& e.1.unused = 0 := by decide +kernel
theorem test_words_all : sageWords.length = 84 ∧ (sageWords.map (·.1)).Nodup := by decide +kernel

/-- Each of them issues on an engine at supervisor privilege, with somewhere to go on. -/
theorem wit_issues : ∀ e ∈ sageWords, Issues (tNode {} { tThr with priv := true } e.2) t0 e.1 (BitVec.ofNat 32 e.2) ∧
    Passes (tNode {} { tThr with priv := true } e.2) t0 1 := by
  intro e he
  have k : ∀ e ∈ sageWords, issuesB (tNode {} { tThr with priv := true } e.2) t0 e.1 (BitVec.ofNat 32 e.2) = true ∧
      (pcIn t0.core 1 = true ∧ bt ((tNode {} { tThr with priv := true } e.2).thr t0).tc 1 = false) := by decide +kernel
  exact ⟨issuesB_iff (k e he).1, (k e he).2⟩

/-- BRANCHES: a branch taken and one not taken, backwards and forwards. -/
theorem wit_branches : (∀ e ∈ brWords.take 6, Issues (tNode {} { tThr with pc := 0, g := [(1, 5), (2, 5)] } e.2) t0 e.1 (BitVec.ofNat 32 e.2)) ∧
    Passes (tNode {} tThr 0) t0 16 ∧ Passes (tNode {} tThr 0) t0 1 := by
  have k : ∀ e ∈ brWords.take 6, issuesB (tNode {} { tThr with pc := 0, g := [(1, 5), (2, 5)] } e.2) t0 e.1 (BitVec.ofNat 32 e.2) = true := by
    decide +kernel
  exact ⟨fun e he => issuesB_iff (k e he), ⟨by decide +kernel, by decide +kernel⟩, by decide +kernel, by decide +kernel⟩

/-- JUMPS: a target inside and one outside the program space, the vector inside. -/
theorem wit_jumps : (∀ g : Word, g = 0x200 ∨ g = 0xFFFFFF →
      Issues (tNode {} { tThr with g := [(1, g)] } (wI 0x19 3 1 16)) t0 .jalr (BitVec.ofNat 32 (wI 0x19 3 1 16))) ∧
    Passes (tNode {} tThr 0) t0 0x210 ∧ pcIn t0.core 0x100000F = false ∧ MayTrap (tNode {} tThr 0) t0 5 := by
  refine ⟨fun g h => ?_, ⟨by decide +kernel, by decide +kernel⟩, by decide +kernel, by decide +kernel, by decide +kernel⟩
  rcases h with rfl | rfl <;> exact issuesB_iff (by decide +kernel)

/-- WORD TRAPS: a word no table lists, an unused bit, an engine instruction on Chervil, a supervisor instruction of a flow. -/
theorem wit_word_traps :
    (let s := tNode {} tThr 0xFFFFFFFF
     s.mayIssue t0 = true ∧ s.fetch t0.core (s.thr t0).pc = (0xFFFFFFFF, .good) ∧ MayTrap s t0 1 ∧ opOf 0xFFFFFFFF = none) ∧
    (let w := wR 0 3 1 1 12
     let s := tNode {} tThr w
     s.mayIssue t0 = true ∧ s.fetch t0.core (s.thr t0).pc = (BitVec.ofNat 32 w, .good) ∧ MayTrap s t0 1 ∧
     opOf (BitVec.ofNat 32 w) = some .popc ∧ w &&& Op.popc.unused ≠ 0) ∧
    (let w := wR 0x34 3 1 0 0
     let x : Thread := { tThr with pc := 0x10000, tvec := 0x10100 }
     let s : State := { State.reset with mode := .service, chv := { threads := [(0, x)], prog := memWrite [] 0 w 4, stopped := false } }
     s.mayIssue ⟨.chervil, 0⟩ = true ∧ s.fetch .chervil 0x10000 = (BitVec.ofNat 32 w, .good) ∧ MayTrap s ⟨.chervil, 0⟩ 1 ∧
     opOf (BitVec.ofNat 32 w) = some .sfl ∧ Op.sfl.engineOnly = true) ∧
    (let w := wR 0x38 0 0 0 4
     let s := tNode {} tThr w
     s.mayIssue t0 = true ∧ s.fetch t0.core (s.thr t0).pc = (BitVec.ofNat 32 w, .good) ∧ MayTrap s t0 2 ∧
     opOf (BitVec.ofNat 32 w) = some .rte ∧ w &&& Op.rte.unused = 0 ∧ Op.rte.super = true ∧ (s.thr t0).priv = false) := by
  unfold MayTrap; decide +kernel

/-- TRAP and RTE: outside a trap, and inside one with EPC in the program space. -/
theorem wit_trap_return :
    (Issues (tNode {} tThr (wI 0x39 0 0 0xABCD)) t0 .trap (BitVec.ofNat 32 (wI 0x39 0 0 0xABCD)) ∧ MayTrap (tNode {} tThr (wI 0x39 0 0 0xABCD)) t0 12) ∧
    (∀ b, Issues (tNode {} { tThr with priv := true, trapActive := b, epc := 7 } (wR 0x38 0 0 0 4)) t0 .rte (BitVec.ofNat 32 (wR 0x38 0 0 0 4))) ∧
    NoMerge (tNode {} { tThr with priv := true, trapActive := true, epc := 7 } (wR 0x38 0 0 0 4)) t0 ∧
    Passes (tNode {} { tThr with priv := true, trapActive := true, epc := 7 } (wR 0x38 0 0 0 4)) t0 7 ∧
    MayTrap (tNode {} { tThr with priv := true } (wR 0x38 0 0 0 4)) t0 11 := by
  refine ⟨⟨issuesB_iff (by decide +kernel), by unfold MayTrap; decide +kernel⟩, fun b => ?_, by unfold NoMerge; decide +kernel,
    by unfold Passes; decide +kernel, by unfold MayTrap; decide +kernel⟩
  cases b <;> exact issuesB_iff (by decide +kernel)

/-- Words that read and write control register `i`. -/
def wCr (rw i : Nat) : Nat := if rw = 0 then wI 0x3A 3 0 i else wI 0x3B 0 1 i

/-- CONTROL REGISTERS: every listed number issues as CRR and as CRW, with and without supervisor privilege; 0x107 and 8 name none. -/
theorem wit_control : ∀ i ∈ [0, 1, 2, 3, 4, 5, 6, 7, 0x100, 0x101, 0x102, 0x103, 0x104, 0x105, 0x106, 0x107, 8], ∀ p : Bool,
    Issues (tNode {} { tThr with priv := p } (wCr 0 i)) t0 .crr (BitVec.ofNat 32 (wCr 0 i)) ∧
    Issues (tNode {} { tThr with priv := p } (wCr 1 i)) t0 .crw (BitVec.ofNat 32 (wCr 1 i)) ∧
    Passes (tNode {} { tThr with priv := p } (wCr 0 i)) t0 1 ∧ MayTrap (tNode {} { tThr with priv := p } (wCr 1 i)) t0 1 ∧
    MayTrap (tNode {} { tThr with priv := p } (wCr 0 i)) t0 2 := by
  have k : ∀ i ∈ [0, 1, 2, 3, 4, 5, 6, 7, 0x100, 0x101, 0x102, 0x103, 0x104, 0x105, 0x106, 0x107, 8], ∀ p : Bool,
      issuesB (tNode {} { tThr with priv := p } (wCr 0 i)) t0 .crr (BitVec.ofNat 32 (wCr 0 i)) = true ∧
      issuesB (tNode {} { tThr with priv := p } (wCr 1 i)) t0 .crw (BitVec.ofNat 32 (wCr 1 i)) = true ∧
      (pcIn t0.core 1 = true ∧ bt ((tNode {} { tThr with priv := p } (wCr 0 i)).thr t0).tc 1 = false) ∧
      trapB (tNode {} { tThr with priv := p } (wCr 1 i)) t0 1 = true ∧
      trapB (tNode {} { tThr with priv := p } (wCr 0 i)) t0 2 = true := by
    decide +kernel
  intro i hi p
  exact ⟨issuesB_iff (k i hi p).1, issuesB_iff (k i hi p).2.1, (k i hi p).2.2.1, trapB_iff (k i hi p).2.2.2.1, trapB_iff (k i hi p).2.2.2.2⟩

/-- CONTROL REGISTERS: single-step is written in an open life-cycle state; a value with reserved bits in TS, TC and ECAUSE. -/
theorem wit_control_values : (∀ v ∈ [2, 3], let s := (tNode {} { tThr with priv := true, g := [(1, BitVec.ofNat 64 v)] } (wCr 1 1)).setFld HA_STRAP 23 21 1
      Issues s t0 .crw (BitVec.ofNat 32 (wCr 1 1)) ∧ MayTrap s t0 13 ∧ s.lcOpen = true ∧ pcIn t0.core 1 = true) ∧
    (∀ e ∈ [(0, 4), (1, 4), (3, 32)], let s := tNode {} { tThr with priv := true, g := [(1, BitVec.ofNat 64 e.2)] } (wCr 1 e.1)
      Issues s t0 .crw (BitVec.ofNat 32 (wCr 1 e.1)) ∧ MayTrap s t0 1) := by
  refine ⟨fun v hv => ⟨issuesB_iff ?_, trapB_iff ?_, ?_⟩, fun e he => ⟨issuesB_iff ?_, trapB_iff ?_⟩⟩
  · revert v; decide +kernel
  · revert v; decide +kernel
  · revert v; decide +kernel
  · revert e; decide +kernel
  · revert e; decide +kernel

/-- BARRIERS: an empty buffer with nothing and with something discarded, DISC 0 and 1, and a full one; YIELD. -/
theorem wit_barriers : (∀ f < 2, ∀ b c : Bool,
      let x : Thread := { tThr with incomplete := b, tc := if c then 1 else 0 }
      Issues (tNode {} x (wR 0x38 3 0 0 f)) t0 (if f = 0 then .cbar else .cbarT) (BitVec.ofNat 32 (wR 0x38 3 0 0 f)) ∧ x.sb = []) ∧
    (∀ f < 2, let x : Thread := { tThr with sb := [{ id := 0, kind := .st, addr := 0 }] }
      Issues (tNode {} x (wR 0x38 3 0 0 f)) t0 (if f = 0 then .cbar else .cbarT) (BitVec.ofNat 32 (wR 0x38 3 0 0 f)) ∧
      NoMerge (tNode {} x (wR 0x38 3 0 0 f)) t0) ∧
    MayTrap (tNode {} { tThr with incomplete := true } (wR 0x38 3 0 0 1)) t0 9 ∧
    Issues (tNode {} tThr (wR 0x38 0 0 0 2)) t0 .yieldT (BitVec.ofNat 32 (wR 0x38 0 0 0 2)) := by
  refine ⟨fun f hf b c => ⟨issuesB_iff ?_, rfl⟩, fun f hf => ⟨issuesB_iff ?_, ?_⟩, by unfold MayTrap; decide +kernel, issuesB_iff (by decide +kernel)⟩
  · revert f b c; decide +kernel
  · revert f; decide +kernel
  · unfold NoMerge; revert f; decide +kernel

/-- WAIT and END: a flow and a thread without one, a WAIT that asks for nothing and one of no flow. -/
theorem wit_handler_ends :
    (Issues (tNode { trk := [(5, { w0 := 1 })] } (tFlow []) (wI 0x31 0 8 16)) t0 .wait (BitVec.ofNat 32 (wI 0x31 0 8 16)) ∧
      bf (BitVec.ofNat 32 (wI 0x31 0 8 16)) 25 19 ≠ 0 ∧ NoMerge (tNode {} (tFlow []) 0) t0 ∧
      ((tNode { trk := [(5, { w0 := 1 })] } (tFlow []) 0).nd 0).trkAt 5 = { w0 := 1 }) ∧
    (Issues (tNode {} (tFlow []) (wI 0x31 0 0 16)) t0 .wait (BitVec.ofNat 32 (wI 0x31 0 0 16)) ∧
      bf (BitVec.ofNat 32 (wI 0x31 0 0 16)) 25 19 = 0 ∧ MayTrap (tNode {} (tFlow []) (wI 0x31 0 0 16)) t0 1) ∧
    (Issues (tNode {} tThr (wI 0x31 0 8 16)) t0 .wait (BitVec.ofNat 32 (wI 0x31 0 8 16)) ∧ MayTrap (tNode {} tThr (wI 0x31 0 8 16)) t0 11) ∧
    Issues (tNode {} { tThr with inbox := some 3 } (wR 0x32 0 0 0 0)) t0 .endH (BitVec.ofNat 32 (wR 0x32 0 0 0 0)) ∧
    Issues (tNode {} (tFlow []) (wR 0x32 0 0 0 0)) t0 .endH (BitVec.ofNat 32 (wR 0x32 0 0 0 0)) ∧
    MayTrap (tNode {} (tFlow []) (wR 0x32 0 0 0 0)) t0 11 := by
  refine ⟨⟨issuesB_iff (by decide +kernel), by decide +kernel, by unfold NoMerge; decide +kernel, by decide +kernel⟩,
    ⟨issuesB_iff (by decide +kernel), by decide +kernel, trapB_iff (by decide +kernel)⟩,
    ⟨issuesB_iff (by decide +kernel), trapB_iff (by decide +kernel)⟩,
    issuesB_iff (by decide +kernel), issuesB_iff (by decide +kernel), trapB_iff (by decide +kernel)⟩

/-- LOCAL LOADS, STORES and ATOMICS: scratch at 0x100, an unaligned address, one outside every window. -/
theorem wit_memory : ∀ e ∈ memWords.take 8, ∀ g ∈ [0xF0, 0xF1, 0x8000],
    Issues (tNode {} { tThr with g := [(1, BitVec.ofNat 64 g)] } e.2) t0 e.1 (BitVec.ofNat 32 e.2) ∧
    Passes (tNode {} { tThr with g := [(1, BitVec.ofNat 64 g)] } e.2) t0 1 ∧ MayTrap (tNode {} { tThr with g := [(1, BitVec.ofNat 64 g)] } e.2) t0 3 ∧
    MayTrap (tNode {} { tThr with g := [(1, BitVec.ofNat 64 g)] } e.2) t0 4 ∧
    eaSuper 0x100 = false ∧ (tNode {} { tThr with g := [(1, BitVec.ofNat 64 g)] } e.2).regionOf t0.core 0x100 = some (.scr 0 0x100) ∧
    (tNode {} { tThr with g := [(1, BitVec.ofNat 64 g)] } e.2).regionOf t0.core 0x8010 = none ∧
    Reg.ramOf (.scr 0 0x100) = some (t0.core, 0x100) ∧ (tNode {} { tThr with g := [(1, BitVec.ofNat 64 g)] } e.2).sbm = false ∧
    (tNode {} { tThr with g := [(1, BitVec.ofNat 64 g)] } e.2).thr t0 = { tThr with g := [(1, BitVec.ofNat 64 g)] } := by
  intro e he g hg
  refine ⟨issuesB_iff ?_, by unfold Passes; revert e g; decide +kernel, by unfold MayTrap; revert e g; decide +kernel,
    by unfold MayTrap; revert e g; decide +kernel, by decide +kernel, ?_⟩
  · revert e g; decide +kernel
  · revert e g; decide +kernel
/-- The same for AMOs: an aligned place that no buffered store overlaps. -/
theorem wit_atomics : ∀ e ∈ memWords.drop 8, let s := tNode {} { tThr with g := [(1, 0x100), (2, 7)] } e.2
    Issues s t0 e.1 (BitVec.ofNat 32 e.2) ∧ s.regionOf t0.core 0x100 = some (.scr 0 0x100) ∧ Passes s t0 1 ∧
    (s.core t0.core).ramSyn = [] ∧ (s.thr t0).sb = [] := by
  intro e he
  refine ⟨issuesB_iff ?_, ?_⟩
  · revert e; decide +kernel
  · unfold Passes; revert e; decide +kernel

/-- LINE BUFFER: an owned entry, a second one, a free one and no free one. -/
theorem wit_line_buffer : (∀ e ∈ arrWords.take 7, let s := tNode { lb := [(0, { own := some 5 })] } (tFlow []) e.2
      Issues s t0 e.1 (BitVec.ofNat 32 e.2) ∧ Passes s t0 1 ∧ ((s.nd 0).lbAt 0).own = some 5 ∧ ((s.nd 0).lbAt 0).parBad = 0 ∧
      (s.nd 0).freeLb = some 1) ∧
    (let s := tNode { lb := (List.range 512).map fun i => (i, { own := some 7 }) } (tFlow []) (wR 0x2B 3 0 0 1)
     Issues s t0 .lba (BitVec.ofNat 32 (wR 0x2B 3 0 0 1)) ∧ (∀ e < 512, ((s.nd 0).lbAt e).own ≠ none) ∧ 5 ∉ (s.nd 0).lbWait) := by
  refine ⟨fun e he => ⟨issuesB_iff ?_, ?_⟩, issuesB_iff (by decide +kernel), by decide +kernel⟩
  · revert e; decide +kernel
  · unfold Passes; revert e; decide +kernel

/-- ARRAY STATES: no tracker; an entry that is not owned; no handle; a flow with a snoop out, with a response owed and on a
chain; a tracker word that TWR may not write. -/
theorem wit_array_states : (∀ e ∈ arrWords.take 7 ++ [(.sfa, wR 0x34 3 1 0 1), (.tfind, wR 0x35 3 1 0 1), (.tchain, wR 0x35 3 1 0 2),
      (.tfree, wR 0x35 0 0 0 3), (.trd, wR 0x35 3 0 1 4), (.twr, wR 0x35 0 1 6 5), (.plk, wR 0x36 3 1 0 0)],
      Issues (tNode {} tThr e.2) t0 e.1 (BitVec.ofNat 32 e.2) ∧ MayTrap (tNode {} tThr e.2) t0 11 ∧ ((tNode {} tThr e.2).thr t0).trk = none) ∧
    (∀ e ∈ (arrWords.take 7).eraseIdx 1,
      Issues (tNode {} (tFlow []) e.2) t0 e.1 (BitVec.ofNat 32 e.2) ∧ ((tNode {} (tFlow []) e.2).nd 0).lbAt 0 = {}) ∧
    (Issues (tNode {} (tFlow []) (wR 0x34 3 1 0 1)) t0 .sfa (BitVec.ofNat 32 (wR 0x34 3 1 0 1)) ∧ (tFlow []).handle = none) ∧
    (let n : Node := { trk := [(5, { w0 := 1 })], chains := [(0, [5])] }
     Issues (tNode n (tFlow []) (wR 0x35 3 1 0 2)) t0 .tchain (BitVec.ofNat 32 (wR 0x35 3 1 0 2)) ∧
      (∃ l ∈ n.linesOf 5, n.active l = some 5)) ∧
    (∀ r ∈ [({ w0 := 1, w3 := 1 } : Trk), { w0 := 1, w4 := 2 ^ 28 }, { w0 := 1, w4 := 2 ^ 27 }, { w0 := 1, w1 := 2 ^ 15 }],
      Issues (tNode { trk := [(5, r)] } (tFlow []) (wR 0x35 0 0 0 3)) t0 .tfree (BitVec.ofNat 32 (wR 0x35 0 0 0 3)) ∧
      (r.snpOut ≠ 0 ∨ r.rdOut = true ∨ r.wrOut = true ∨ r.ledgered = true ∧ r.rsp = false)) ∧
    (∀ i ∈ [0, 1, 2, 4, 5], Issues (tNode {} (tFlow []) (wR 0x35 0 1 i 5)) t0 .twr (BitVec.ofNat 32 (wR 0x35 0 1 i 5))) := by
  refine ⟨fun e he => ⟨issuesB_iff ?_, ?_, ?_⟩, fun e he => ⟨issuesB_iff ?_, ?_⟩, ⟨issuesB_iff (by decide +kernel), rfl⟩,
    ⟨issuesB_iff (by decide +kernel), by decide +kernel⟩, fun r hr => ⟨issuesB_iff ?_, ?_⟩, fun i hi => issuesB_iff ?_⟩
  · revert e; decide +kernel
  · unfold MayTrap; revert e; decide +kernel
  · revert e; decide +kernel
  · revert e; decide +kernel
  · revert e; decide +kernel
  · simp only [List.mem_cons, List.not_mem_nil, or_false] at hr; rcases hr with rfl | rfl | rfl | rfl <;> decide +kernel
  · simp only [List.mem_cons, List.not_mem_nil, or_false] at hr; rcases hr with rfl | rfl | rfl | rfl <;> decide +kernel
  · revert i; decide +kernel

/-- An intact entry: line 0 O, host 7, tag 0. -/
def tEnt : Word := entSeal (BitVec.ofNat 64 (2 * 2 ^ 20 + 7 * 2 ^ 28))

/-- LOOKUP: a hit in way 3 of set 0, a miss with CONS 1 and with CONS 0, SFRD and SFSEC of the entry. -/
theorem wit_sf_lookup : (let s := tNode { bank := [(3, tEnt)] } { tFlow [] with priv := true } (wR 0x34 3 1 0 0)
     Issues s t0 .sfl (b32 (wR 0x34 3 1 0 0)) ∧ Passes s t0 1 ∧ (s.nd 0).resv = [] ∧ (s.nd 0).repairs = [] ∧ (s.nd 0).evicts = [] ∧
     (∃ p, s.bankPos 0 0 = some p ∧ (∀ y ∈ p.ways, (entCheck ((s.nd 0).entry (bankKey p.set y))).1 = .good ∧
        entLive (s.nd 0).cons ((s.nd 0).entry (bankKey p.set y)) = (s.nd 0).entry (bankKey p.set y)) ∧ 3 ∈ p.ways ∧
       entValid ((s.nd 0).entry (bankKey p.set 3)) = true ∧ bf ((s.nd 0).entry (bankKey p.set 3)) 19 0 = p.tag ∧
       ∀ z ∈ p.ways, z ≠ 3 → entValid ((s.nd 0).entry (bankKey p.set z)) = false)) ∧
    (∀ c : Bool, let s := tNode { cons := c } (tFlow []) (wR 0x34 3 1 0 0)
     Issues s t0 .sfl (b32 (wR 0x34 3 1 0 0)) ∧ s.regionHit 0 0 = false ∧
     ∃ p, s.bankPos 0 0 = some p ∧ ∀ y ∈ p.ways, entValid ((s.nd 0).entry (bankKey p.set y)) = false) ∧
    (∀ f ∈ [3, 4], let s := tNode { bank := [(3, tEnt)] } { tFlow [(1, 3 * 2 ^ 13)] with priv := true } (wR 0x34 3 1 0 f)
     Issues s t0 (if f = 3 then .sfrd else .sfsec) (b32 (wR 0x34 3 1 0 f)) ∧ bankKey (bf (3 * 2 ^ 13 : Word) 12 0) (bf (3 * 2 ^ 13 : Word) 16 13) = 3 ∧
     (entCheck ((s.nd 0).entry 3)).1 = .good) := by
  refine ⟨⟨issuesB_iff (by decide +kernel), by unfold Passes; decide +kernel, rfl, rfl, rfl, ⟨0, List.range 16, 0⟩, by decide +kernel⟩,
    fun c => ⟨issuesB_iff (by revert c; decide +kernel), by revert c; decide +kernel, ⟨0, List.range 16, 0⟩, by revert c; decide +kernel⟩,
    fun f hf => ⟨issuesB_iff (by revert f; decide +kernel), by revert f; decide +kernel⟩⟩

/-- LOOKUP: a sector whose region is marked in the overflow map, a sector reserved by another flow, a sector of another node. -/
theorem wit_sf_lookup_waits : (let s := (tStrap (tNode { rmap := [(0, 1)] } (tFlow []) (wR 0x34 3 1 0 0))).setFld HA_OVF_CTRL 5 0 45
     Issues s t0 .sfl (b32 (wR 0x34 3 1 0 0)) ∧ s.regionHit 0 0 = true ∧ s.bmIn (s.ovfLine (s.ovfSet 0)) = true ∧
     smGet (fun _ => 0) (s.nd 0).rmapSyn (s.region 0 / 64) = 0 ∧ (s.bmIssue (.sflOvf t0) false (s.ovfLine (s.ovfSet 0)) 0 0).isSome = true ∧
     ∃ p, s.bankPos 0 0 = some p ∧ ∀ y ∈ p.ways, entValid ((s.nd 0).entry (bankKey p.set y)) = false) ∧
    (let s := tNode { resv := [(9, 4, 0)] } (tFlow []) (wR 0x34 3 1 0 0)
     Issues s t0 .sfl (b32 (wR 0x34 3 1 0 0)) ∧ ∃ r ∈ (s.nd 0).resv, r.2.2 = 0) ∧
    (let s := { tNode {} (tFlow []) (wR 0x34 3 1 0 0) with homeMap := tFull 128 1 }
     Issues s t0 .sfl (b32 (wR 0x34 3 1 0 0)) ∧ s.bankPos 0 0 = none) := by
  exact ⟨⟨issuesB_iff (by decide +kernel), by decide +kernel, by decide +kernel, by decide +kernel, by decide +kernel,
      ⟨0, List.range 16, 0⟩, by decide +kernel⟩,
    ⟨issuesB_iff (by decide +kernel), by decide +kernel⟩, issuesB_iff (by decide +kernel), by decide +kernel⟩

/-- UPDATE: a free way for SFA; SFU through a reservation with an update word that adds host 7 to line 2; a lost way. -/
theorem wit_sf_update : (let s := tNode {} { tFlow [] with handle := some (0, .miss) } (wR 0x34 3 1 0 1)
     Issues s t0 .sfa (b32 (wR 0x34 3 1 0 1)) ∧ Passes s t0 1 ∧ (s.nd 0).resv = [] ∧ (s.nd 0).evicts = [] ∧ (s.nd 0).wayWait = [] ∧
     (s.nd 0).repairs = [] ∧
     ∃ p, s.bankPos 0 0 = some p ∧ p.ways.find? (fun z => !entValid ((s.nd 0).entry (bankKey p.set z))) = some 0 ∧
       ∀ z ∈ p.ways, (entCheck ((s.nd 0).entry (bankKey p.set z))).1 = .good ∧ entValid ((s.nd 0).entry (bankKey p.set z)) = false ∧
         entLive (s.nd 0).cons ((s.nd 0).entry (bankKey p.set z)) = (s.nd 0).entry (bankKey p.set z)) ∧
    (∀ ls ∈ [1, 2], let v := 4 + ls * 2 ^ 8 + 2 ^ 12 + 7 * 2 ^ 16
     let s := tNode { resv := [(9, 5, 0)] } { tFlow [(2, BitVec.ofNat 64 v)] with handle := some (0, .miss) } (wR 0x34 3 1 2 2)
     Issues s t0 .sfu (b32 (wR 0x34 3 1 2 2)) ∧ (s.nd 0).resv = [(9, 5, 0)] ∧ ((s.nd 0).trkAt 5).isWr = false ∧
     ((s.nd 0).trkAt 5).wbSeen = false ∧ bt ((s.nd 0).trkAt 5).w3 13 = false ∧ (s.thr t0).reg 2 = BitVec.ofNat 64 v ∧
     (entCheck ((s.nd 0).entry 9)).1 = .good) ∧
    (let s := tNode { bank := [(3, tEnt)], cons := false } { tFlow [(2, 15)] with handle := some (0, .bank 3) } (wR 0x34 3 1 2 2)
     Issues s t0 .sfu (b32 (wR 0x34 3 1 2 2)) ∧ (entCheck ((s.nd 0).entry 3)).1 = .good ∧ entLoss ((s.nd 0).entry 3) = false) ∧
    (let s := tNode {} { tFlow [] with handle := some (0, .lost) } (wR 0x34 3 1 2 2)
     Issues s t0 .sfu (b32 (wR 0x34 3 1 2 2)) ∧ bf ((s.thr t0).reg 2) 63 27 = 0 ∧ bf ((s.thr t0).reg 2) 13 12 ≠ 3) ∧
    (∀ v ∈ [2 ^ 27, 3 * 2 ^ 12], let s := tNode {} (tFlow [(2, BitVec.ofNat 64 v)]) (wR 0x34 3 1 2 2)
     Issues s t0 .sfu (b32 (wR 0x34 3 1 2 2)) ∧ MayTrap s t0 1) ∧
    (let s := tNode {} (tFlow [(2, 2 ^ 12)]) (wR 0x34 3 1 2 2)
     Issues s t0 .sfu (b32 (wR 0x34 3 1 2 2)) ∧ MayTrap s t0 11 ∧ (s.thr t0).handle = none) := by
  refine ⟨⟨issuesB_iff (by decide +kernel), by unfold Passes; decide +kernel, rfl, rfl, rfl, rfl, ⟨0, List.range 16, 0⟩, by decide +kernel⟩,
    fun ls hl => ⟨issuesB_iff (by revert ls; decide +kernel), by revert ls; decide +kernel⟩,
    ⟨issuesB_iff (by decide +kernel), by decide +kernel⟩, ⟨issuesB_iff (by decide +kernel), by decide +kernel⟩,
    fun v hv => ⟨issuesB_iff (by revert v; decide +kernel), trapB_iff (by revert v; decide +kernel)⟩,
    issuesB_iff (by decide +kernel), trapB_iff (by decide +kernel), rfl⟩

/-- TRACKER INSTRUCTIONS: a valid flow, with its line on no chain (TCHAIN of one line and of four) or with itself alone on its chain
(TFREE). -/
theorem wit_tracker : (∀ e ∈ [(Op.tfind, wR 0x35 3 1 0 1), (.tchain, wR 0x35 3 1 0 2), (.tchain, wR 0x35 3 1 1 2), (.tfree, wR 0x35 0 0 0 3),
      (.trd, wR 0x35 3 0 1 4), (.trdx, wR 0x35 3 1 0 6), (.twr, wR 0x35 0 1 3 5), (.twr, wR 0x35 0 1 6 5), (.twr, wR 0x35 0 1 7 5)],
      let s := tNode { trk := [(5, { w0 := 1 })] } { tFlow [] with priv := true } e.2
      Issues s t0 e.1 (b32 e.2) ∧ Passes s t0 1 ∧ (s.nd 0).linesOf 5 = [] ∧ ((s.nd 0).trkAt 5) = { w0 := 1 }) ∧
    bt (b32 (wR 0x35 3 1 0 2)) 11 = false ∧ bt (b32 (wR 0x35 3 1 1 2)) 11 = true ∧
    (let r : Trk := { w0 := 1 }
     r.snpOut = 0 ∧ r.rdOut = false ∧ r.wrOut = false ∧ r.ledgered = false ∧ r.wedged = false ∧ r.syn = []) ∧
    (let n : Node := { trk := [(5, { w0 := 1 })], chains := [(9, [5])] }
     n.linesOf 5 = [9] ∧ n.chain 9 = [5]) := by
  refine ⟨fun e he => ⟨issuesB_iff ?_, ?_⟩, by decide +kernel⟩
  · revert e; decide +kernel
  · unfold Passes; revert e; decide +kernel

/-- TALLOC: kind 3 and 4 with a free tracker; a queue that is not empty, one that is full; another kind; a flow without privilege. -/
theorem wit_talloc : (∀ k ∈ [3, 4, 5], ∀ p : Bool, let s := tStrap (tNode {} { tFlow [(1, BitVec.ofNat 64 k)] with priv := p } (wR 0x35 3 1 2 0))
      Issues s t0 .talloc (b32 (wR 0x35 3 1 2 0)) ∧ Passes s t0 1 ∧ MayTrap s t0 1 ∧ MayTrap s t0 2 ∧ (s.nd 0).intQ = [] ∧
      (s.freePool 0 [.int, .gen]).isSome = true ∧ (s.nd 0).freeIdx = some 0 ∧ bf ((s.thr t0).reg 1) 63 33 = 0) ∧
    (∀ j ∈ [1, 63, 64], let n : Node := { intQ := List.replicate j (.talloc 0 0) }
      let s := tStrap (tNode n { tFlow [(1, 3)] with priv := true } (wR 0x35 3 1 2 0))
      Issues s t0 .talloc (b32 (wR 0x35 3 1 2 0)) ∧ (s.nd 0).intQ = List.replicate j (.talloc 0 0)) := by
  refine ⟨fun e he p => ⟨issuesB_iff ?_, ?_, trapB_iff ?_, trapB_iff ?_, ?_⟩, fun j hj => ⟨issuesB_iff ?_, ?_⟩⟩
  · revert e p; decide +kernel
  · unfold Passes; revert e p; decide +kernel
  · revert e p; decide +kernel
  · revert e p; decide +kernel
  · revert e p; decide +kernel
  · revert j; decide +kernel
  · revert j; decide +kernel

/-- PLK: a cached placement of frame 64, a read of a table in range, and a table outside block memory. -/
theorem wit_plk : (let s := tStrap (tNode { trk := [(5, { w0 := 1 })] } (tFlow [(1, 0)]) (wR 0x36 3 1 0 0))
     let c := s.plcFill 0 0 0 (1 + 64 * 4)
     Issues c t0 .plk (b32 (wR 0x36 3 1 0 0)) ∧ Passes c t0 1 ∧ (c.plcHit 0 0).1 = some (1 + 64 * 4) ∧
     smGet (fun _ => 0) (((c.plcHit 0 0).2.nd 0).trkAt 5).syn 4 = 0 ∧
     (s.plcHit 0 0).1 = none ∧ s.plcLine 0 * 64 < s.bmBytes ∧ ((s.cntN 0 0x011 1).bmIssue (.plk t0) false (s.plcLine 0) 0 0).isSome = true) ∧
    (let s := tNode { trk := [(5, { w0 := 1 })] } (tFlow [(1, 0)]) (wR 0x36 3 1 0 0)
     Issues s t0 .plk (b32 (wR 0x36 3 1 0 0)) ∧ (s.plcHit 0 0).1 = none ∧ (s.plcHit 0 0).2.bmBytes ≤ (s.plcHit 0 0).2.plcLine 0 * 64) := by
  exact ⟨⟨issuesB_iff (by decide +kernel), by unfold Passes; decide +kernel⟩, issuesB_iff (by decide +kernel), by decide +kernel⟩

/-- SEND.SNP: every operation with each host set, a block form, with an open session. -/
theorem wit_send_snoops : ∀ f ∈ [(0, 0), (1, 0), (2, 0), (4, 1), (5, 2), (6, 1)], ∀ h < 4,
    let w := wR 0x30 3 1 2 (f.1 * 2 ^ 4 + f.2 * 2 ^ 7 + h * 2 ^ 9)
    let s := { tNode { trk := [(5, { w0 := 1 })] } (tFlow [(1, 0)]) w with sess := [(3, { st := .opn, port := 2 })] }
    Issues s t0 .sendSnp (b32 w) ∧ Passes s t0 1 ∧ bf (b32 w) 10 9 = h ∧ bf (b32 w) 8 7 = f.2 ∧ bf (b32 w) 6 4 = f.1 ∧ s.openHosts = [3] := by
  intro f hf h hh
  refine ⟨issuesB_iff ?_, ?_⟩
  · revert f h; decide +kernel
  · unfold Passes; revert f h; decide +kernel

/-- SEND.MRD: a line and a sector, with and without SECTOR_RD at the port, and no free tag. -/
theorem wit_send_reads : (∀ b < 2, ∀ c < 2,
      let w := wR 0x30 0 1 2 (1 + 16 * b)
      let m : MpShell := { att := .attached 2 (BitVec.ofNat 32 c) }
      let s := { tNode { trk := [(5, { w0 := 1 })], lb := [(0, { own := some 5 })] } { tFlow [(1, 64 * 2 ^ 26), (2, 0)] with priv := false } w with mp := [(0, m)] }
      Issues s t0 .sendMrd (b32 w) ∧ Passes s t0 1 ∧ (64 * 2 ^ 26) % 256 = 0 ∧ ¬ (64 * 2 ^ 26 / 2 ^ 26 % 2 ^ 20 < 64) ∧
      (∀ e ∈ [0], ((s.nd 0).lbAt e).own = some 5) ∧ (s.mpAt (s.mpOf (64 * 2 ^ 26))).att = m.att ∧ ((s.nd 0).trkAt 5).syn = [] ∧
      ((s.mpAt 0).att.ver == 2 && bt (s.mpAt 0).att.caps 0) = (c == 1) ∧
      (s.mrdGo 0 5 (b == 1) (64 * 2 ^ 26) (if b = 1 then [0, 0, 0, 0] else [0])).isSome = true) ∧
    (let g : Mtag := { own := .flow 0 5, kind := .rd, maddr := 0 }
     let m : MpShell := { mtags := tFull 4096 (some g) }
     m.freeTag = none) := by
  refine ⟨fun b hb c hc => ⟨issuesB_iff ?_, ?_⟩, firstFrom_none.mpr fun j _ h => ?_⟩
  · revert b c; decide +kernel
  · unfold Passes; revert b c; decide +kernel
  · rw [MpShell.mtag, tFull_get _ _ _ _ (by omega)]; rfl

/-- SEND.MWR: a free place and a full buffer, a mirrored and a plain frame, a flow whose data a write-back holds. -/
theorem wit_send_writes : (∀ j ∈ [0, 16], ∀ d ∈ [0, 1],
      let w := wR 0x30 0 1 2 2
      let x := { tFlow [(1, 64 * 2 ^ 26), (2, 0)] with sb := List.replicate j { id := 0, kind := .st, addr := 0 } }
      let s := { tNode { trk := [(5, { w0 := 1 })], lb := [(0, { own := some 5 })] } x w with
                 mp := if d = 1 then [(0, { mirror := [(0, some { src := 70, dst := 64, bound := 0 })] })] else [] }
      Issues s t0 .sendMwr (b32 w) ∧ Passes s t0 1 ∧ s.heldByWb 0 5 = false ∧ ((s.nd 0).lbAt 0).parBad = 0 ∧
      ((s.nd 0).lbAt 0).own = some 5 ∧ (s.mirrorOf 0 (64 * 2 ^ 26)).isSome = (d == 1) ∧ (s.mpAt 0).freeTag = some 0 ∧
      ((s.nd 0).trkAt 5).syn = [] ∧ s.survSyn = [] ∧
      (s.mwrTags 0 { own := .flow 0 5, kind := .wr, maddr := 64 * 2 ^ 26 }).isSome = true) ∧
    (let w := wR 0x30 0 1 2 2
     let n : Node := { trk := [(5, { w0 := 1, w3 := 2 ^ 14 }), (6, { w0 := 1 + 2 })], chains := [(0, [5])], lb := [(0, { own := some 5 })] }
     let s := tNode n (tFlow [(1, 64 * 2 ^ 26), (2, 0)]) w
     Issues s t0 .sendMwr (b32 w) ∧ ((s.nd 0).trkAt 5).wbSeen = true ∧ s.heldByWb 0 5 = true) := by
  refine ⟨fun j hj d hd => ⟨issuesB_iff ?_, ?_⟩, issuesB_iff (by decide +kernel), by decide +kernel⟩
  · revert j d; decide +kernel
  · unfold Passes; revert j d; decide +kernel

/-- SEND.RSP: data and no data, a ledgered flow, a second response, ONACK with and without a write; a node that an epoch change holds. -/
theorem wit_send_responses : (∀ r ∈ [({ w0 := 1 } : Trk), { w0 := 1, w1 := 2 ^ 15 }, { w0 := 1, rsp := true }, { w0 := 1, w1 := 2 ^ 15, w4 := 2 ^ 27 }],
      ∀ f ∈ [3, 19], ∀ v ∈ [0, 2 ^ 11], ∀ h < 2,
      let w := wR 0x30 0 1 2 f
      let s := { tNode { trk := [(5, r)], lb := [(0, { own := some 5 })] } (tFlow [(1, BitVec.ofNat 64 v)]) w with
        mp := [(0, { mtags := [(0, some { own := .flow 0 5, kind := .wr, maddr := 0 })] })] }.setFld HA_FAB_EPOCH 1 1 h
      Issues s t0 .sendRsp (b32 w) ∧ Passes s t0 1 ∧ MayTrap s t0 11 ∧ bt (b32 w) 4 = (f == 19) ∧ s.heldByWb 0 5 = false ∧
      (s.nd 0).trkAt 5 = r ∧ ((s.nd 0).lbAt 0).own = some 5 ∧ ((s.nd 0).lbAt 0).parBad = 0 ∧ ((s.mpAt 0).mtag 0).isSome = true ∧
      (h = 0 → s.withheld 0 = false)) ∧
    ({ (tNode {} tThr 0).setFld HA_FAB_EPOCH 1 1 1 with epSink := some 1 }).withheld 0 = true := by
  refine ⟨fun r hr f hf v hv h hh => ?_, by decide +kernel⟩
  simp only [List.mem_cons, List.not_mem_nil, or_false] at hr
  rcases hr with rfl | rfl | rfl | rfl <;> refine ⟨issuesB_iff ?_, ?_⟩
  all_goals first | (revert f v h; decide +kernel) | (unfold Passes MayTrap; revert f v h; decide +kernel)

/-- SEND.MGT: to Chervil, to a node in service at supervisor privilege, from Chervil, and to a node at flow privilege. -/
theorem wit_send_management : (∀ d ∈ [32, 1], ∀ p : Bool,
      let w := wR 0x30 0 1 2 4
      let s := tStrap (tNode {} { tThr with priv := p, g := [(1, BitVec.ofNat 64 d), (2, 0x40)] } w)
      Issues s t0 .sendMgt (b32 w) ∧ Passes s t0 1 ∧ MayTrap s t0 2 ∧ s.inService 1 = true) ∧
    (let w := wR 0x30 0 1 2 4
     let x : Thread := { tThr with priv := true, pc := 0x10000, g := [(1, 1), (2, 0x200000040)] }
     let s : State := tStrap { State.reset with mode := .service, chv := { threads := [(0, x)], prog := memWrite [] 0 w 4, stopped := false } }
     Issues s ⟨.chervil, 0⟩ .sendMgt (b32 w) ∧ Passes s ⟨.chervil, 0⟩ 0x10001) := by
  refine ⟨fun d hd p => ⟨issuesB_iff ?_, ?_⟩, issuesB_iff (by decide +kernel), by unfold Passes; decide +kernel⟩
  · revert d p; decide +kernel
  · unfold Passes MayTrap; revert d p; decide +kernel

/-- A core whose next event is `e`, with an entry of that event's class and type that starts at 0x20. -/
def tEvt (c : CoreId) (e : Evt) (n : Node) : State :=
  let k : Core := { events := [e], stopped := false }
  match c with
  | .node i => { State.reset with mode := .service }.setNd i { n with core := { k with prog := memWrite [] (4 * (0x3800 + 8 * e.evt.toNat)) 0x60020 4 } }
  | .chervil => { State.reset with mode := .service, chv := { k with prog := memWrite [] (4 * (0xF800 + 8 * e.evt.toNat)) 0x30020 4 } }.setRaw
      HA_CHV_STAT 0x800000

/-- DISPATCH: an event of each type an engine serves (wakes resume their flow), a message, and each type the firmware serves. -/
theorem wit_dispatch : (∀ x ∈ [0x01, 0x11, 0x12, 0x13, 0x14, 0x20, 0x21, 0x40, 0x41],
      let e : Evt := { evt := BitVec.ofNat 8 x, cls := 0, trk := some 5, datum := 7 }
      let s := tEvt (.node 0) e { trk := [(5, { w0 := 1 })] }
      (s.thr t0).st = .free ∧ s.nextEvt (.node 0) = some e ∧ s.pickEntry (.node 0) e.evt.toNat 0 = .own 0x60020 ∧ ((s.nd 0).trkAt 5).syn = []) ∧
    (∀ x ∈ [0x30, 0x50, 0x53, 0x54, 0x55, 0x56, 0x57, 0x58, 0x59],
      let e : Evt := { evt := BitVec.ofNat 8 x, cls := 0, trk := none, datum := 7 }
      let s := tEvt .chervil e {}
      (s.thr ⟨.chervil, 0⟩).st = .free ∧ s.nextEvt .chervil = some e ∧ s.pickEntry .chervil e.evt.toNat 0 = .own 0x30020 ∧
      s.fld HA_CHV_TIMER 23 0 = 0) := by decide +kernel

/-- ENGINE START at an engine and at Chervil; a timer that falls due while thread 0 is not free; slices spent and not spent; a
thread that ran for longer than its limit and one that did not. -/
theorem wit_starts : (∀ c ∈ [CoreId.node 0, .chervil], let s := (tEvt c { evt := 0x3E, cls := 0, trk := none, datum := 0 } {})
      let s := s.setCore c { s.core c with toStart := [0] }
      0 ∈ (s.core c).toStart ∧ (s.thr ⟨c, 0⟩).st = .free ∧ (s.core c).dspStall = false ∧ s.coreRuns c = true ∧
      (c = .chervil → s.nextEvt c = some { evt := 0x3E, cls := 0, trk := none, datum := 0 }) ∧
      s.pickEntry c 0x3E 0 = .own (if c = .chervil then 0x30020 else 0x60020)) ∧
    (let s := { State.reset with mode := .service, time := 9, chv := { threads := [(0, tThr)] } }.setRaw HA_CHV_TIMER 9
     s.fld HA_CHV_TIMER 23 0 = 9 ∧ s.timerAt + 9 ≤ s.time.toNat ∧ s.mode ≠ .off ∧ (s.thr ⟨.chervil, 0⟩).st ≠ .free) ∧
    (∀ j ∈ [0, 1], ((tNode {} { tThr with slice := j } 0).thr t0).slice = j ∧ ((tNode {} { tThr with slice := j } 0).thr t0).st = .ready) ∧
    (∀ j ∈ [1024, 1025], let s := (tNode {} { tThr with run := j } 0).setRaw (ndA 0 ND_DSP_CTRL) 2
      ((s.thr t0).st = .ready) ∧ s.fld (ndA 0 ND_DSP_CTRL) 7 0 * 512 = 1024 ∧ (s.thr t0).run = j) := by decide +kernel

/-- A block whose firmware runs, with one event taken and not yet served. -/
def tTodo (o : Nat × Nat × BmErr) (s : State) : State :=
  { tStrap s with mode := .service, chvTodo := [o], chv := { stopped := false } }

/-- A request header: opcode, host, tag and context, MetaValue Any. -/
def tHdr (opc host tag ctx : Nat) : BitVec 128 := BitVec.ofNat 128 (opc + host * 2 ^ 8 + tag * 2 ^ 18 + ctx * 2 ^ 34)

/-- A ledger entry with tag 9. -/
def tLed (h : BitVec 128) (st : LedSt) : LedEnt := { hdr := h, data := 0, be := 0, poison := false, tag := 9, st := st }

/-- FIRMWARE: session and departure events; SESS_OPEN twice, SESS_CLOSE; a departing host. -/
theorem wit_firmware : (∀ x ∈ [0x51, 0x52], let e : Evt := { evt := BitVec.ofNat 8 x, cls := 0, trk := none, datum := 7 }
      let s := tEvt .chervil e {}
      (s.thr ⟨.chervil, 0⟩).st = .free ∧ s.nextEvt .chervil = some e ∧ s.pickEntry .chervil e.evt.toNat 0 = .own 0x30020) ∧
    (∀ st ∈ [SessSt.closed, .opn, .closing], ∀ o ∈ [0x10, 0x11],
      let s := tTodo (0x51, 9, .ok) { State.reset with
        hp := [(0, { ledger := [(3, some (tLed (tHdr o 5 0 0) .session))] })], sess := if st = .closed then [] else [(5, { st := st })]
        bmem := memWrite [] 0 1 1 }
      (hdrHost (tHdr o 5 0 0)).toNat = 5 ∧ (s.hpAt 0).ledger = [(3, some (tLed (tHdr o 5 0 0) .session))] ∧ (s.ses 5).st = st ∧
      (tLed (tHdr o 5 0 0) .session).taken = false ∧ (tLed (tHdr o 5 0 0) .session).gone = false ∧ s.survSyn = [] ∧ s.chvRuns = true ∧
      s.chvTodo = [(0x51, 9, .ok)] ∧ (tLed (tHdr o 5 0 0) .session).tag.toNat = 9 ∧ (s.ses 5).port = 0 ∧
      hdrOpc (tHdr o 5 0 0) = o ∧ s.ctxIn 0 = true ∧ bt (s.ctxWord 0 0) 0 = true ∧ bmGood .ok = true) ∧
    (let s := tTodo (0x52, 5, .ok) { State.reset with sess := [(5, { st := .departing })] }
     (s.ses 5).st = .departing ∧ s.ctxIn (s.ses 5).ctx = true ∧ s.chvRuns = true ∧ s.chvTodo = [(0x52, 5, .ok)] ∧ s.survSyn = []) := by
  decide +kernel

/-- SUPERVISOR: a message of each kind in slot 0; a node with an O entry of host 7; visits that are over. -/
theorem wit_supervisor : (∀ ty ∈ [0xC1, 0xC2, 0xC3],
      let n : Node := { core := { ram := memWrite [] 0x7C00 ty 1, events := [{ evt := 0x30, cls := 0, trk := none, datum := 0, inbox := some 0 }],
                                  stopped := false } }
      let s := { State.reset with mode := .service }.setNd 0 n
      s.coreRuns (.node 0) = true ∧ (∃ e ∈ (s.nd 0).core.events, e.evt = 0x30 ∧ e.inbox = some 0) ∧ (s.nd 0).visits = [] ∧
      bf (memLine (s.nd 0).core.ram (inboxAddr (.node 0) 0 / 64)) 7 0 = ty) ∧
    (let s := tStrap (State.reset.setNd 0 { bank := [(3, tEnt)] })
     s.bit HA_OVF_CTRL 0 = false ∧ (s.nd 0).bank = [(3, tEnt)] ∧ (entCheck tEnt).1 = .good ∧ entLive (s.nd 0).cons tEnt = tEnt ∧
     (s.nd 0).repairs = [] ∧ 3 < visitBankEnd ∧ (entNames tEnt 7 && entHolds tEnt) = true ∧ (entNames tEnt 8 && entHolds tEnt) = false ∧
     (s.tallocGo 0 (BitVec.ofNat 64 (3 + 7 * 2 ^ 7)) (BitVec.ofNat 40 (4 * s.sectorOf 0 0 3 (bf tEnt 19 0)))).1 ≠ 2) ∧
    (∀ st ∈ [SessSt.departing, .closing], let n : Node := { visits := [{ host := 5, depart := st == .departing, pos := 9, done := true }] }
      let s := ({ State.reset with sess := [(5, { st := st, visitSent := true, visits := 1 })] } : State).setNd 0 n
      (s.ses 5).st = st ∧ (s.ses 5).visitSent = true ∧ bt (s.ses 5).visits 0 = true ∧ bt (s.ses 5).todo 0 = false ∧ (s.nd 0).trk = [] ∧
      (s.nd 0).visits = [{ host := 5, depart := st == .departing, pos := 9, done := true }] ∧ (s.nd 0).evicts = [] ∧
      (s.nd 0).intQ = [] ∧ (s.nd 0).core.inbox = []) := by decide +kernel

/-- A thread with one buffered entry. -/
def tSb (e : SbEnt) : State := { tNode {} { tThr with sb := [e] } 0 with mp := [(0, { mtags := [(0, some { own := .flow 0 5, kind := .wr, maddr := 0 })] })] }

/-- STORE BUFFER: an entry of each kind that is sent, by order, by its mask and by its age; one that stays; one with bad parity; one that
an epoch change holds; none. -/
theorem wit_sb_send : (∀ e ∈ [({ id := 0, kind := .mgt, addr := 0 } : SbEnt), { id := 0, kind := .st, addr := 0x100000000 },
        { id := 0, kind := .mwr, addr := 0 }, { id := 0, kind := .st, addr := 0x10000000000 },
        { id := 0, kind := .st, addr := 0x100000000, merging := true, mask := BitVec.allOnes 64 },
        { id := 0, kind := .st, addr := 0x100000000, merging := true, age := 33 }, { id := 0, kind := .st, addr := 0x100000000, merging := true },
        { id := 0, kind := .st, addr := 0x100000000, parBad := true }],
      ((tSb e).thr t0).sbNextOut = some e ∧ ((tSb e).thr t0).sb = [e] ∧ (tSb e).sbHeld t0 e = false) ∧ (∀ b ∈ [0], regOfCanon 0x100000000 ≠ .bm b) ∧
    (∃ g, ((tSb { id := 0, kind := .mwr, addr := 0 }).mpAt 0).mtag 0 = some g ∧ g.pair = none) ∧
    regOfCanon 0x10000000000 = .bm 0 ∧ ((tSb { id := 0, kind := .st, addr := 0x10000000000 }).bmIssue (.acc t0 (some 0)) true 0 0 0).isSome = true ∧
    ({ (tSb { id := 0, kind := .mwr, addr := 0 }).setFld HA_FAB_EPOCH 1 1 1 with epSink := some 1 }).sbHeld t0 { id := 0, kind := .mwr, addr := 0 } = true ∧
    ({} : Thread).sbNextOut = none := by decide +kernel

/-- COMPLETION of a place that was sent: scratch, a register, a message to a node; of one that was not, and of one whose channel answers. -/
theorem wit_stores : (∀ e ∈ [({ id := 0, kind := .st, addr := 0x100000040, sent := some 1, mask := 3, data := 0x1234 } : SbEnt),
        { id := 0, kind := .st, addr := 0x100000040 }, { id := 0, kind := .st, addr := 0x100000040, sent := some 1, via := some false },
        { id := 0, kind := .st, addr := 0x300000000 + HA_CHV_TIMER, sent := some 1 },
        { id := 0, kind := .mgt, addr := 0, sent := some 1, dst := .node 1 }], let s := tStrap (tSb e)
      s.accLive t0 = true ∧ ((s.thr t0).sb.drop 0).head? = some e ∧ (s.thr t0).sb.take 0 = []) ∧
    (regOfCanon 0x100000040).ramOf = some (.node 0, 0x40) ∧ (tSb { id := 0, kind := .st, addr := 0 }).reaches (.node 0) (regOfCanon 0x100000040) = true ∧
    ((tSb { id := 0, kind := .st, addr := 0 }).nd 0).core.ramSyn = [] ∧
    regOfCanon (0x300000000 + HA_CHV_TIMER) = .reg HA_CHV_TIMER ∧ (tSb { id := 0, kind := .st, addr := 0 }).sunkAt HA_CHV_TIMER = false ∧
    (let s := tStrap (tSb { id := 0, kind := .mgt, addr := 0, sent := some 1, dst := .node 1 })
     s.mgtReaches (.node 1) = true ∧ (s.inboxPut (.node 1) 0 0).isSome = true) := by decide +kernel

/-- LOADS: of scratch, of a register, an AMO; a limit that passed and one that has not; buffered accesses past their limit. -/
theorem wit_loads : (∀ p ∈ [Pend.load 3 8 0x40 (some 0), .load 3 4 (0x300000000 + HA_CHV_TIMER) (some 0), .amo 3 0 1 0 0x40 (some 0)],
      let s := tStrap (tNode {} { tThr with pend := p } 0)
      (s.thr t0).pend = p ∧ s.accLive t0 = true ∧ Passes s t0 1 ∧ MayTrap s t0 10 ∧ s.regionOf (.node 0) 0x40 = some (.scr 0 0x40) ∧
      s.reaches (.node 0) (.scr 0 0x40) = true ∧ (s.nd 0).core.ramSyn = [] ∧ s.sunkAt HA_CHV_TIMER = false ∧ s.past 0 0 = true ∧
      s.regionOf (.node 0) (0x300000000 + HA_CHV_TIMER) = some (.reg HA_CHV_TIMER)) ∧
    (Reg.scr 0 0x40).ramOf = some (.node 0, 0x40) ∧ State.reset.past 1 0 = false ∧
    (∀ e ∈ [({ id := 0, kind := .mgt, addr := 0, sent := some 0 } : SbEnt), { id := 0, kind := .mgt, addr := 0, sent := some 1 },
        { id := 0, kind := .st, addr := 0x100010000, sent := some 0 }], ((((tSb e).thr t0).sb.drop 0).head? = some e)) ∧
    (let s := (tStrap (tSb { id := 0, kind := .st, addr := 0x100010000, sent := some 0 })).setRaw HA_FAB_SINK_ACT 2
     s.reaches (.node 0) (regOfCanon 0x100010000) = false ∧ s.accLive t0 = true) := by unfold Passes MayTrap; decide +kernel

/-- Port 0 attached at version `v` with every capability, its ledger and the session of host 5 as given, in SERVICE. -/
def tPort (v : Nat) (st : SessSt) (l : SMap (Option LedEnt)) : State :=
  tStrap { State.reset with
    mode := .service, hp := [(0, { att := .attached (BitVec.ofNat 2 v) 0xFFFFFFFF, clkOk := true, partnerRst := false, ledger := l })],
    sess := if st = .closed then [] else [(5, { st := st })] }

/-- REQUESTS of each row at each version whose opcode it has, in an empty ledger. -/
theorem wit_requests : (∀ v ∈ [1, 2, 3], ∀ o ∈ [0x00, 0x01, 0x02, 0x03, 0x04, 0x05, 0x08, 0x10, 0x11, 0x18, 0x19],
      let s := tPort v (if o = 0x10 then .closed else .opn) []
      let h := tHdr o 5 0 0
      s.mode.serves = true ∧ s.hpUse 0 = true ∧ (s.hpAt 0).att = .attached (BitVec.ofNat 2 v) 0xFFFFFFFF ∧ (s.hpAt 0).failed = false ∧
      (s.hpAt 0).ledger = [] ∧ (s.ses (hdrHost h).toNat).st = (if o = 0x10 then SessSt.closed else .opn) ∧ (s.ses (hdrHost h).toNat).port = 0 ∧
      bf h 33 30 = 0 ∧ hdrOpc h = o ∧ (opcOk o v 0xFFFFFFFF = true ∨ o = 5 ∧ v < 3) ∧ bt h 5 = false ∧ hdrCtx h = 0 ∧ hdrCaddr h = 0 ∧
      bf h 55 50 = 0 ∧ bf h 93 92 = 0 ∧ bf h 127 94 = 0 ∧ s.reqReady 0 = true ∧ s.tagOk 0 h = (o != 0x10 || true)) ∧
    (∀ z ∈ [(1, 2 ^ 12, 0), (1, 0, 2 ^ 60), (1, 0, 2 ^ 16), (0x1F, 0, 0), (0x61, 0, 0)], let h := tHdr z.1 5 z.2.1 z.2.2
      let s := tPort 2 .opn []
      s.reqReady 0 = true ∧ (bf h 33 30 ≠ 0 ∨ s.tagOk 0 h = true ∧ (bf h 127 94 ≠ 0 ∨ bf h 55 50 ≠ 0 ∨ hdrOpc h ≠ 1 ∨ bt h 5 = true ∧ bf h 7 6 = 1))) ∧
    State.reset.mode.serves = false ∧ (State.reset.hpAt 0).att = .idle := by decide +kernel

/-- WALKS: a good one, a fault and a lost read; ADMISSION with a free tracker, behind a pending RETRY, of a conflict and of a
write-back; RETRY and GRANT. -/
theorem wit_requests_home : (let s := { tPort 2 .opn [(3, some (tLed (tHdr 1 5 0 0) .walk))] with bmem := memWrite (memWrite [] 0 (0x101 + 2 ^ 64) 16) 64 0x10000 8 }
      s.walk 0 0 .ok = .ok { pext := 0, cls := 0, depart := false, pclass := 0 } ∧ s.walk 0 1 .ok = .fault ∧ s.walk 0 0 .timeout = .bm .timeout) ∧
    (∀ o ∈ [1, 5, 0x18], ∀ pend < 2, let e := tLed (tHdr o 5 0 0) (.sent 0)
      let s := (tPort 2 .opn [(3, some e)]).setRaw (ndA 0 ND_TRK_PEND) (BitVec.ofNat 32 pend)
      (s.hpAt 0).led 3 = some e ∧ s.live 0 = true ∧ s.sunk 0 = false ∧ s.olderSent 0 0 e = false ∧
      s.isWriteBack 0 (hdrHost e.hdr) e.pla = false ∧ s.bit (ndA 0 ND_TRK_PEND) 0 = (pend == 1) ∧ (s.takeTrk 0 0 (mkTrk 0 3 e)).isSome = true ∧
      (s.takeTrk 0 1 { mkTrk 0 3 e with replay := false }).isSome = true) ∧
    (let e := tLed (tHdr 0x18 5 0 0) (.sent 0)
     let s : State := { tPort 2 .opn [(3, some e)] with hp := [(0, { waitSnp := [{ op := 0, blk := 0, host := 5, pla := 0, lines := 1, own := .repair 0 0 }] })] }
     s.isWriteBack 0 (hdrHost e.hdr) e.pla = true) ∧
    (∀ wb : Bool, ∀ q ∈ [[], [(0, 3)]], let e := tLed (tHdr 0x18 5 0 0) (.retried 0 wb)
     let x : HpShell := { ledger := [(3, some e)], retry := if wb then [] else q, wbRetry := if wb then q else [] }
     let s : State := { tPort 2 .opn [] with hp := [(0, x)] }.setNd 0 { kept := [(2, 0, wb)], rspOut := [(0, none, false)] }
     x.led 3 = some e ∧ (s.hpAt 0) = x ∧ (s.nd 0).kept = [(2, 0, wb)] ∧ (s.nd 0).rspOut = [(0, none, false)] ∧ s.survSyn = [] ∧ s.reqCredit 0 0 = true ∧ s.withheld 0 = false ∧ s.quenches 0 = false ∧ (if wb then x.wbRetry else x.retry) = q ∧
     ((((s.modNd 0 fun y => { y with kept := [] }).setHp 0 { x with
        retry := x.retry.filter fun r => r != (0, 3), wbRetry := x.wbRetry.filter fun r => r != (0, 3) }).intoKept 0 2 0 3 wb).hpAt 0).holds 0 wb = false) := by decide +kernel

/-- RETRY and GRANT on their way, credits spent, a quenched and a sunk node, and nothing on its way. -/
theorem wit_retries :
    (∀ wb b : Bool, let e := tLed (tHdr 0x18 5 0 0) (.retried 0 wb)
     let s : State := (tPort 2 .opn [(3, some e)]).setNd 0 { rspOut := [(0, some 3, b)] }
     (s.hpAt 0).led 3 = some e ∧ (0, 3) ∉ (s.hpAt 0).retry ∧ (0, 3) ∉ (s.hpAt 0).wbRetry ∧ (s.nd 0).rspOut = [(0, some 3, b)] ∧ s.withheld 0 = false) ∧
    ((tPort 2 .opn []).setFld (ndA 0 ND_FAB_CTRL) 0 0 1).quenches 0 = true ∧
    (((tPort 2 .opn []).spendCredit ⟨.node 0, .req⟩ (.hp 0)).spendCredit ⟨.node 0, .req⟩ (.hp 0)).reqCredit 0 0 = false ∧
    ((tStrap State.reset).setRaw HA_FAB_SINK_ACT 1).sunk 0 = true ∧ (State.reset.nd 0).kept = [] ∧ (State.reset.nd 0).rspOut = [] := by decide +kernel

/-- A snoop slot of flow 2 of node 0 in state `st`. -/
def tSlot (op : Nat) (st : SlotSt) : Slot :=
  { sn := { op := BitVec.ofNat 3 op, blk := 0, host := 5, pla := 0, lines := 1, own := .flow 0 2 }, ctx := 0, caddr := 0, epoch := 0, grp := 4, acc := 0, st := st }

/-- SNOOP SLOTS: each answer of each operation, with and without a write that must go first; held, timed-out and quarantined. -/
theorem wit_snoop_slots : (∀ op ∈ [0, 1, 2], ∀ a ∈ [0, 1, 2], ∀ st ∈ [SlotSt.out 0, .out 1, .held 1, .quar 0, .quar 1],
      let x : HpShell := { att := .attached 2 0, clkOk := true, partnerRst := false, slots := [(4, some (tSlot op st))] }
      let s := { tPort 2 .opn [] with hp := [(0, x)] }
      let msg := BitVec.ofNat 64 (a + 5 * 2 ^ 3 + 4 * 2 ^ 13)
      (s.hpAt 0).slotAt 4 = some (tSlot op st) ∧ x.syn = [] ∧ s.survSyn = [] ∧ ((s.nd 0).trkAt 2).syn = [] ∧ x.att.on = true ∧ (∀ e ∈ x.slots, ∀ o, e.2 = some o → o.grp = 4 → e.1 = 4) ∧ birspSlot msg = 4 ∧
      s.rspReady = true ∧ s.sinks = false ∧ s.hpUse 0 = true ∧ s.fld HA_RST_STAT 2 0 = 0 ∧ bf msg 28 26 = 0 ∧ bf msg 12 3 = 5 ∧
      bf msg 63 29 = 0 ∧ bf msg 2 0 = a ∧ bt (BitVec.ofNat 3 op) 2 = false ∧ x.writeWaits (tSlot op st) = false ∧ bf msg 1 0 = a) ∧
    (let x : HpShell := { ledger := [(3, some (tLed (tHdr 0x18 5 0 0) (.sent 0)))] }
     x.writeWaits (tSlot 0 (.out 0)) = true) ∧
    State.reset.past 0 0 = true ∧ State.reset.past 1 0 = false ∧ bf (BitVec.ofNat 64 (2 ^ 26) : BitVec 64) 28 26 ≠ State.reset.fld HA_RST_STAT 2 0 ∧
    (let t := State.reset.setRaw HA_SNP_TMO 1
     ({ t with tmo := 1024 } : State).past 0 (t.fld HA_SNP_TMO 7 0 * 1024) = true ∧ t.past 0 (t.fld HA_SNP_TMO 7 0 * 1024) = false) := by decide +kernel

/-- OUTBOUND: a message at the head of each channel, and none; one acknowledgement that nothing holds. -/
theorem wit_outbound : (let x : HpShell := {
        clkOk := true, partnerRst := false, ndr := [(1, some 3)], drs := [(1, 2, true, some 4)], bis := [4]
        slots := [(4, some (tSlot 0 .queued))], bicAcks := [{ host := 5, tag := 0, pla := 0, devload := 0 }]
        ledger := [(3, some (tLed (tHdr 5 5 0 0) .home))] }
     let s := { tPort 2 .opn [] with hp := [(0, x)] }
     s.mode ≠ .off ∧ s.hpUse 0 = true ∧ s.hpAt 0 = x ∧ x.failed = false ∧ x.slotAt 4 = some (tSlot 0 .queued) ∧
     ((x.ledger.find? (fun e => match e.2 with
          | some l => hdrHost l.hdr == 5 && hdrTag l.hdr == 0 && hdrOpc l.hdr == 5
          | none => false)) = some (3, some (tLed (tHdr 5 5 0 0) .home))) ∧
     (∀ y ∈ x.ledger, ∀ l, y.2 = some l → l.st = .answered → hdrHost l.hdr = 5 → l.pla ≠ 0)) ∧
    (({ ndr := [(1, none)] } : HpShell).ndr = [(1, none)]) ∧ (State.reset.hpAt 0).waitsOut .ndr = false ∧ (State.reset.hpAt 0).bicAcks = [] := by
  decide +kernel

/-- ATTACH at a host and a media port: a common version, none, a reserved bit set; an answer in time and late; refused, attached. -/
theorem wit_attach : (∀ q ∈ [AttPort.hp 0, .mp 0], ∀ m ∈ [Mode.service, .hold], let s := tStrap { State.reset with
        mode := m, hp := [(0, { clkOk := true, partnerRst := false })], mp := [(0, { clkOk := true, partnerRst := false })] }
      s.portUp q = true ∧ s.att q = .idle ∧ (s.setAtt q (.answered 1 0 0)).att q = .answered 1 0 0 ∧
      (s.setAtt q .refused).att q = .refused ∧ (s.setAtt q (.waiting 1)).att q = .waiting 1 ∧ (s.setAtt q (.attached 1 0)).att q = .attached 1 0) ∧
    (∀ o ∈ [1, 0, 2 ^ 40 + 1], let f := BitVec.ofNat 48 o
      (bf f 47 40 ≠ 0 ∨ bf f 47 40 = 0 ∧ (bf f 7 0 &&& 3 = 0 ∨ bf f 7 0 &&& 3 = 1))) ∧
    (let s := State.reset.setRaw HA_PORT_TMO (2 ^ 24)
     s.past 0 (s.fld HA_PORT_TMO 31 24 * 1024) = false ∧ ({ s with tmo := 1024 } : State).past 0 (s.fld HA_PORT_TMO 31 24 * 1024) = true) := by
  decide +kernel

/-- HOST PORTS: attached and idle, in use and off, with a message out in time and late; the tick there and lost. -/
theorem wit_host_ports : (let x : HpShell := { att := .attached 2 0, clkOk := true, partnerRst := false, ndr := [(1, none)], outSince := [(0, 5)] }
     let s := { (tPort 2 .opn []).setRaw HA_PORT_TMO 1 with hp := [(0, x)], tmo := 1029 }
     s.hpAt 0 = x ∧ s.mode ≠ .off ∧ s.hpUse 0 = true ∧ s.hpOutOn 0 = true ∧ x.waitsOut .ndr = true ∧ smGet (fun _ => 0) x.outSince (hpOutIx .ndr) = 5 ∧
     s.past 5 (s.fld HA_PORT_TMO 7 0 * 1024) = true ∧ s.past 6 (s.fld HA_PORT_TMO 7 0 * 1024) = false ∧ (s.hpAt 1).att = .idle) ∧
    State.reset.hpUse 0 = false ∧ State.reset.reftickOk = true ∧ ({ State.reset with reftickOk := false } : State).reftickOk = false := by
  decide +kernel

/-- One media request of flow 2 of node 0 at tag 7 of port 0, handed over or queued. -/
def tMp (g : Mtag) (q : List Nat) : State :=
  tStrap { State.reset with
    mode := .service, mp := [(0, { att := .attached 1 0, clkOk := true, partnerRst := false, mtags := [(7, some g)], reqQ := q, outSince := q.head? })],
    node := [(0, { trk := [(2, { w0 := 1 })], lb := [(0, { own := some 2 })] })] }

/-- READ DATA for one line and for the last of two; a tag that is no handed-over read; HANDOFF of a read, of a write with and without a
response that waits; ACKS and the limit. -/
theorem wit_media : (∀ left ∈ [1, 3], let g : Mtag := { own := .flow 0 2, kind := .rd, maddr := 0, ents := [0, 1], left := BitVec.ofNat 4 left, handed := true }
      let s := tMp g []
      (s.mpAt 0).mtag 7 = some g ∧ s.survSyn = [] ∧ ((s.nd 0).trkAt 2).syn = [] ∧ s.mpIn 0 = true ∧ s.sinks = false ∧ bt g.left 0 = true ∧ bf (7 : BitVec 64) 63 14 = 0 ∧ bf (7 : BitVec 64) 11 0 = 7 ∧
      bf (7 : BitVec 64) 13 12 = 0 ∧ ((s.nd 0).trkAt 2).v = true ∧ ((s.nd 0).lbAt (g.ents.getD 0 0)).own = some 2) ∧
    (∀ k ∈ [MKind.rd, .wr], ∀ c ∈ [none, some ((0 : HpId), 3, (0 : BitVec 64))], let g : Mtag := { own := .flow 0 2, kind := k, maddr := 0, comp := c }
      let s := tMp g [7]
      (s.mpAt 0).mtag 7 = some g ∧ s.mpIn 0 = true ∧ s.sinks = false ∧ s.portUp (.mp 0) = true ∧ (s.mpAt 0).reqQ = [7] ∧ g.pair = none ∧ g.onack = none) ∧
    (∀ k ∈ [MKind.wr, .sync], ∀ o ∈ [none, some ((0 : HpId), 3, (0 : BitVec 64))],
      let g : Mtag := { own := .flow 0 2, kind := k, maddr := 0, onack := o, handed := true }
      let s := { (tMp g []).setRaw HA_PORT_TMO (2 ^ 16) with tmo := 1024 }
      (s.mpAt 0).mtag 7 = some g ∧ s.mpIn 0 = true ∧ s.sinks = false ∧ g.pair = none ∧ s.past g.at_ (s.fld HA_PORT_TMO 23 16 * 1024) = true ∧
      s.flushTags = [] ∧ s.survSyn = [] ∧ ((s.nd 0).trkAt 2).kind ≠ 4 ∧ ((s.nd 0).trkAt 2).v = true) ∧
    (∀ a ∈ [28, 29, 30], let w := BitVec.ofNat 64 a
      bf w 63 26 = 0 ∧ bf w 25 14 = 0 ∧ bf w 13 2 = 7 ∧ bf w 1 0 = a - 28) ∧ bf (BitVec.ofNat 64 (2 ^ 26) : BitVec 64) 63 26 ≠ 0 ∧
    (((tMp { own := .flow 0 2, kind := .wr, maddr := 0 } []).setNd 0 { trk := [(2, { w0 := 9 })] }).nd 0 |>.trkAt 2).kind = 4 ∧
    State.reset.mpIn 0 = false ∧ State.reset.portUp (.mp 0) = false ∧
    ((tMp { own := .flow 0 2, kind := .rd, maddr := 0 } []).mpAt 0).reqQ = [] := by decide +kernel

/-- MEDIA PORTS: attached, idle, detaching and drained or not; in use; a request that waits in time and late. -/
theorem wit_media_ports : (∀ g ∈ [[], [(7, some { own := .flow 0 2, kind := .rd, maddr := 0 })]], let x : MpShell := { att := .detaching 1 0, mtags := g }
      let s := { tPort 2 .opn [] with mp := [(7, x)], mpMap := (List.range 8).map fun k => (k, 0) }
      s.mpAt 7 = x ∧ x.drained = g.isEmpty ∧ (∀ k < 8, s.activeMp k ≠ 7)) ∧
    (let s := tMp { own := .flow 0 2, kind := .rd, maddr := 0 } [7]
     let s := { s.setRaw HA_PORT_TMO 0x100 with tmo := 1031 }
     (s.mpAt 0).att = .attached 1 0 ∧ s.mode ≠ .off ∧ s.mpUse 0 = true ∧ s.hpUse 0 = true ∧ (s.mpAt 0).outSince = some 7 ∧ s.portUp (.mp 0) = true ∧
     s.mpOn 0 = true ∧ (s.mpAt 0).reqQ ≠ [] ∧ s.past 7 (s.fld HA_PORT_TMO 15 8 * 1024) = true ∧
     ({ s with tmo := 1030 } : State).past 7 (s.fld HA_PORT_TMO 15 8 * 1024) = false) ∧
    (State.reset.mpAt 0).att = .idle ∧ (State.reset.mpAt 0).outSince = none ∧ (∃ k < 8, State.reset.activeMp k = 0) := by decide +kernel

/-- A block-memory tag that is out, in time and late: a buffered store and a load of thread 0. -/
theorem wit_block_memory : (let e : SbEnt := { id := 4, kind := .st, addr := 0x10000000040 }
     let r : BmReq := { why := .acc t0 (some 4), wr := true, line := 1, be := 3, data := 0x1234, at_ := 0 }
     let s := { tSb e with bm := [(7, some r)], tmo := 10000 }
     (smGet (fun _ => none) s.bm 7 : Option BmReq) = some r ∧ s.mode ≠ .off ∧ s.mode ≠ .flush ∧ s.past 0 10000 = true ∧ s.past 1 10000 = false ∧
     (((({ s with bm := smSet (fun _ => none) s.bm 7 none }.bmErrs .ok).thr t0).sb.find? fun e => e.id == 4) = some e)) ∧
    (let r : BmReq := { why := .acc t0 none, wr := false, line := 1, at_ := 0 }
     let s := { tNode {} { tThr with pend := .load 3 8 0x10000000040 (some 0) } 0 with bm := [(7, some r)] }
     let u := { s with bm := smSet (fun _ => none) s.bm 7 none }.bmErrs .ok
     (smGet (fun _ => none) s.bm 7 : Option BmReq) = some r ∧ s.mode ≠ .off ∧ s.mode ≠ .flush ∧ (u.thr t0).pend = .load 3 8 0x10000000040 (some 0) ∧ Passes u t0 1) ∧
    (smGet (fun _ => none) State.reset.bm 7 : Option BmReq) = none := by unfold Passes; decide +kernel

/-- What `MayAccess` asks, in a form that decides. -/
def mayB (s : State) (src : Src) (a : Nat) (wr : Bool) : Bool :=
  decide (s.mode ≠ .off) && (decide (src = .tarragon) && decide (a = HA_FAB_EPOCH) ||
    decide (src ≠ .tarragon) && !s.regDenied src a wr && !s.sunkAt a) && decide (s.cfg.length < 4)

theorem mayB_iff {s : State} {src : Src} {a : Nat} {wr : Bool} (h : mayB s src a wr = true) : s.MayAccess src a wr := by
  simp only [mayB, Bool.and_eq_true, Bool.or_eq_true, Bool.not_eq_true', decide_eq_true_eq] at h
  exact ⟨h.1.1, h.1.2.imp id fun x => ⟨x.1.1, x.1.2, x.2⟩, fun _ _ => h.2⟩

/-- Straps all at their lowest value. -/
def tPins : StrapPins := ⟨0, 1, 1, false, 1, true, false, 0, 0⟩

/-- The state in mode `m` with the straps taken. -/
def tMode (m : Mode) : State := tStrap { State.reset with mode := m }

/-- RESET AND BOOT: the register rows reach their registers; each mode; the limits in time and late. -/
theorem wit_reset_boot : (∀ x ∈ [HA_BOOT_CTRL, HA_RST_REQ, HA_WDOG], ∀ m ∈ [Mode.boot, .hold], (tMode m).MayAccess .chervil x true) ∧
    (∀ e ∈ [(64, 0), (10, 0), (1024, 1000), (1024, 900)], let s : State := { State.reset with mode := .strap, tmo := e.1, strapNow := some tPins, strapChg := [(0, e.2)] }
     s.pins = none ∧ pinsDiff tPins tPins = [] ∧ (s.past 0 1024 = (e.1 == 1024)) ∧
     ((∀ i < 9, s.chgAt i + 64 ≤ 1024 ∧ s.past (s.chgAt i) 64 = true) ↔ e ≠ (10, 0) ∧ e ≠ (1024, 1000)) ∧
     ((∃ i < 9, 1024 < s.chgAt i + 64) ↔ e = (1024, 1000))) ∧
    (∀ k < 2, let s := { tMode .service with fullPinAt := 8 * k, tmo := 7 }
     (s.fullPinAt ≤ s.tmo) = (k = 0)) ∧
    (∀ m ∈ [Mode.off, .strap, .fill, .boot, .hold, .service], (tMode m).mode = m) ∧
    (let s := (tMode .boot).setRaw HA_BOOT_STAT 3
     s.fld HA_BOOT_STAT 2 0 = 3) ∧
    (let s := { State.reset with mode := .strap, tmo := 1024 }
     s.pins = none ∧ s.psCmd = none ∧ s.fusePgm = none ∧ s.past 0 1024 = true ∧ State.reset.past 0 1024 = false) ∧
    (∀ k < 2, (State.reset.setRaw HA_IMG_STAT (BitVec.ofNat 32 (k * 2 ^ 12))).bit HA_IMG_STAT 12 = (k == 1)) ∧
    (let s := { (tMode .service).setRaw HA_WDOG 1 with tmo := 1024 }
     s.fld HA_WDOG 7 0 = 1 ∧ s.past s.wdogAt (1024 * 1) = true ∧ (tMode .service).fld HA_WDOG 7 0 = 0) ∧
    (let s := { tMode .hold with tmo := 40000, prior := .service }
     s.mode = .hold ∧ s.prior ≠ .selftest ∧ s.past s.holdAt 40000 = true) := by
  refine ⟨fun x hx m hm => mayB_iff ?_, ?_⟩
  · revert x m; decide +kernel
  · decide +kernel

/-- MODES: the requests reach HA_MODE_REQ; a run of SELFTEST that may start and one that may not; DRAIN and SYNC in FLUSH. -/
theorem wit_modes : (∀ m ∈ [Mode.standby, .service, .degraded, .evacuate], (tMode m).MayAccess .chervil HA_MODE_REQ true ∧ (tMode m).mode = m) ∧
    ((tMode .boot).setRaw HA_CHV_STAT 0x800000).bit HA_CHV_STAT 23 = true ∧ (tMode .boot).bit HA_CHV_STAT 23 = false ∧
    ({ tMode .service with tmo := 4 } : State).mode = .service ∧ (tMode .boot).tmo < 4 ∧ (tMode .evacuate).stRej = 0 ∧ ((tMode .evacuate).setRaw HA_STRAP 0xA80BC0).stRej ≠ 0 ∧
    (let s := { (tMode .flush).setRaw HA_FLUSH_STAT 1 with tmo := 65536 }
     s.fld HA_FLUSH_STAT 1 0 = 1 ∧ (∀ p, (s.hpAt p).ledger = []) ∧ s.past s.flushAt (s.fld HA_FLUSH_CTRL 15 0) = true) ∧
    (let s := { (tMode .flush).setRaw HA_FLUSH_STAT 1 with hp := [(0, { ledger := [(3, some (tLed (tHdr 1 5 0 0) .walk))] })] }
     (s.hpAt 0).ledger ≠ [] ∧ s.noneLive = false ∧ s.fld HA_FLUSH_STAT 1 0 = 1 ∧
     ({ s with tmo := 65536 } : State).past s.flushAt (s.fld HA_FLUSH_CTRL 15 0) = true) ∧
    (∀ l ∈ [[], [(0, 7)]], let x : MpShell := { att := .attached 1 0, clkOk := true, partnerRst := false }
     let s := { (tMode .flush).setRaw HA_FLUSH_STAT 2 with flushTags := l, mp := [(0, x)], tmo := 65536 }
     s.fld HA_FLUSH_STAT 1 0 = 2 ∧ s.modeSync.syncAll = l.isEmpty ∧ s.past s.flushAt (s.fld HA_FLUSH_CTRL 31 16) = true) := by
  refine ⟨fun m hm => ⟨mayB_iff ?_, rfl⟩, by decide +kernel⟩
  revert m; decide +kernel

/-- REGISTER PORT: good and bad accesses, a denied one, one that a sink absorbs; an answer in time and late; the event port. -/
theorem wit_registers : (∀ a ∈ [HA_SNP_TMO, ndA 0 ND_DSP_CTRL], let s := tMode .service
      s.mode ≠ .off ∧ s.cfg.length < 4 ∧ a % 4 = 0 ∧ a < 0x300000 ∧ s.MayAccess (.port true) a true ∧ s.MayAccess (.port true) a false ∧ (findReg a).isSome = true) ∧
    ndOf HA_SNP_TMO = none ∧ qdOf HA_SNP_TMO = none ∧ (∃ n o, ndOf (ndA 0 ND_DSP_CTRL) = some (n, o) ∧ o ≠ ND_SF_CTRL ∧ o ≠ ND_FAB_CTRL) ∧
    (∀ wr : Bool, (tMode .service).regDenied (.port true) 0xFFFFC wr = true) ∧ HA_SNP_TMO < HA_EV_WIN ∧
    (let s := (tMode .service).setRaw HA_FAB_SINK_ACT 1
     s.regDenied (.port true) (ndA 0 ND_DSP_CTRL) true = false ∧ s.sunkAt (ndA 0 ND_DSP_CTRL) = true) ∧
    (let r : CfgReq := { addr := 0, wr := true, priv := true, at_ := 0 }
     let s := { tMode .service with cfg := [r], tmo := 1000 }
     s.cfg = [] ++ r :: [] ∧ r.ans = none ∧ s.past r.at_ 1000 = true ∧ (tMode .service).past r.at_ 1000 = false) ∧
    (let s := { tMode .service with evq := [1], tmo := 100000 }
     s.evq = [1] ∧ s.bit HA_EV_STAT 7 = false ∧ s.past s.evSince 100000 = true ∧ (tMode .service).past 0 100000 = false) ∧
    (tMode .service).evq = [] ∧ ((tMode .service).setRaw HA_EV_STAT 0x80).bit HA_EV_STAT 7 = true ∧ State.reset.evDrops = 0 ∧
    (∀ k < 16, ∀ wr : Bool, (tMode .service).MayAccess .chervil (HA_EV_WIN + 4 * k) wr) := by
  refine ⟨fun a ha => ?_, by decide +kernel, by decide +kernel, ⟨0, ND_DSP_CTRL, by decide +kernel⟩, by decide +kernel, by decide +kernel, by decide +kernel,
    by decide +kernel, by decide +kernel, by decide +kernel, by decide +kernel, by decide +kernel, fun k hk wr => mayB_iff ?_⟩
  · simp only [List.mem_cons, List.not_mem_nil, or_false] at ha
    rcases ha with rfl | rfl <;>
      exact ⟨by decide +kernel, by decide +kernel, by decide +kernel, by decide +kernel, mayB_iff (by decide +kernel), mayB_iff (by decide +kernel), by decide +kernel⟩
  · revert k wr; decide +kernel

/-- COUNTERS AND APERTURE: the register, with SNAP_BUSY at 0 and at 1, a 64-bit array that may be written, one that is absent, the latch and the held half. -/
theorem wit_aperture : (tMode .service).MayAccess .chervil HA_PMC_CTRL true ∧
    ({ tMode .service with pmcBusyTo := 1 } : State).MayAccess .chervil HA_PMC_CTRL true ∧
    (∀ k ∈ [0, 1], (decide ((tMode .service).tmo < k)) = (k == 1)) ∧
    (let s := (tMode .service).setRaw HA_STRAP 0x280BC0
     s.mode ≠ .off ∧ s.closed 0x300000 = false ∧ srcPriv .chervil = true ∧ srcPriv (.port true) = true ∧ s.cfg.length < 4 ∧
     (match s.apArr 0 with | .ok x => !x.narrow && !x.readOnly | .error _ => false) = true ∧
     ({ s with dbgLatch := some (s.dbgKey 4, 1) } : State).dbgLatch = some (s.dbgKey 4, 1) ∧
     ({ s with dbgHeld := some (s.dbgKey 4, 1) } : State).dbgHeld = some (s.dbgKey 4, 1)) ∧
    (match ((tMode .service).setRaw HA_DBG_SEL 0x7F).apArr 0 with | .ok _ => false | .error _ => true) = true :=
  ⟨mayB_iff (by decide +kernel), mayB_iff (by decide +kernel), by decide, by decide +kernel, by decide +kernel⟩

/-- R471: in a LEGACY program slice 2 is the node of index 2 in each quadrant; in a FREE program UNIT 10 is that node alone. -/
theorem test_steps : ({ prog := 3, steps := [(2, 4)] } : StRun).names 10 4 = true ∧
    ({ prog := 3, steps := [(2, 4)] } : StRun).names 9 4 = false ∧ ({ prog := 2, steps := [(10, 4)] } : StRun).names 10 4 = true ∧
    ({ prog := 2, steps := [(10, 4)] } : StRun).names 10 3 = false := by decide

/-- STORE: a command with the channel free and busy; each command outstanding, in time and late; EXTEND with its checks; a fuse under way;
a run of SELFTEST at its restore and past it. -/
theorem wit_store : (tMode .service).MayAccess .chervil HA_PS_CMD true ∧ (tMode .service).MayAccess .chervil HA_MEAS_EXT_GO true ∧
    (∀ k < 5, ∀ t ∈ [10000, 1000000], let s := { tMode .service with psCmd := some (BitVec.ofNat 3 k, 0x104, 7, 1, 0), tmo := t }
      s.psCmd.isSome = true ∧ s.mode ≠ .off ∧ (s.past 0 (if k = 2 then 1000000 else 10000) = (k != 2 || t == 1000000))) ∧
    (tMode .service).psCmd = none ∧ (tMode .service).cfg.length < 4 ∧
    (let s := tMode .service
     bt (BitVec.ofNat 32 0x300 : BitVec 32) 9 = true ∧ s.meas.busy = none ∧ s.meas.lock = false ∧ bf (BitVec.ofNat 32 0x300 : BitVec 32) 2 0 < 6 ∧
     s.meas.log.length < 16 ∧ bf (BitVec.ofNat 32 0x306 : BitVec 32) 2 0 = 6 ∧ bt (0 : BitVec 32) 9 = false) ∧
    (∀ d : Bool, ∃ r : ExtReq, ({ tMode .service with meas := { busy := some ⟨0, 0, d, 4, 0, 0, 0⟩ } } : State).meas.busy = some r ∧ r.direct = d) ∧
    ((tMode .service).objRead 0 0).1 = true ∧ (tMode .selftest).fusePgm = none ∧ (tMode .selftest).fuseRd = none ∧
    (let s := { tMode .fill with fuseRd := some 5, tmo := 1005 }
     s.fuseRd = some 5 ∧ s.past 5 1000 = true ∧ s.past 6 1000 = false) ∧
    (let s := { tMode .selftest with fusePgm := some (4, 1, 0), fuseTodo := [(5, 2)], tmo := 100000 }
     s.fusePgm = some (4, 1, 0) ∧ s.fuseTodo = (5, 2) :: [] ∧ s.past 0 100000 = true ∧ (tMode .selftest).past 0 100000 = false) ∧
    (∀ k ∈ [1, 4, 5], (((tMode .selftest).setRaw HA_ST_STAT (BitVec.ofNat 32 k)).fld HA_ST_STAT 2 0 = k)) :=
  ⟨mayB_iff (by decide +kernel), mayB_iff (by decide +kernel), by decide +kernel, rfl, by decide +kernel, by decide +kernel,
    fun d => ⟨⟨0, 0, d, 4, 0, 0, 0⟩, rfl, rfl⟩, by decide +kernel, rfl, rfl, by decide +kernel, by decide +kernel, by decide +kernel⟩

/-- A Request for the node of router 1, from router `s`, of two flits. -/
def tFlit (s : Nat) : Flit := flitSeal 0 (BitVec.ofNat 88 (1 * 2 ^ 4 + s * 2 ^ 10 + 2 ^ 16 + 1 * 2 ^ 21))

/-- A Response for the node of router 1, from router `s`, of one flit. -/
def tRsp (s : Nat) : Flit := mkFlit 0x20 (Fin.ofNat 32 s, false) (1, false) 0 0 false true 0

/-- Router `r` with one packet at an output buffer, in SERVICE. -/
def tOut (r : NodeId) (o : RtrPort) (f : Flit) : State := (tMode .service).setOut r o [{ inp := .xm, vc := 0, flits := [f] }]

/-- FABRIC: an epoch change whose maps and sinks are good and bad, drained and not; quench; messages refused and sent again. -/
theorem wit_fabric : (∀ x ∈ [HA_FAB_EPOCH, ndA 0 ND_FAB_CTRL], (tMode .service).MayAccess .chervil x true) ∧
    (tMode .service).MayAccess .tarragon HA_FAB_EPOCH true ∧
    (let s := { tMode .service with mpMap := (List.range 8).map fun k => (k, 0) }
     s.mapsOk = true ∧ (tMode .service).mapsOk = false ∧ s.sinkOk (fun i => s.shadowSlot i) = true ∧
     ((s.setRaw HA_FAB_SINK 1).sinkOk fun i => s.slotNode i) = false ∧ s.bit HA_FAB_EPOCH 1 = false) ∧
    (let s := { (tMode .service).setRaw HA_FAB_EPOCH 2 with epSink := some 0xFFFFFFFF }
     s.bit HA_FAB_EPOCH 1 = true ∧ s.drained = true ∧ ({ s with rout := [(0, [⟨.loc, 0, [], 0, true⟩])] } : State).drained = false) ∧
    ((tMode .service).setRaw (ndA 0 ND_FAB_CTRL) 1).quenches 0 = true ∧ (tMode .service).quenches 0 = false ∧
    (∀ k ∈ [none, some 0], let e : SbEnt := { id := 0, kind := .mgt, addr := 0, sent := some 9, nak := k }
      ((tSb e).thr t0).sb = [] ++ e :: [] ∧ ((tSb e).thr t0).mgtOut = (if k = none then some e else none) ∧ ({ tSb e with tmo := 16 } : State).past 0 16 = true) := by
  refine ⟨fun x hx => mayB_iff ?_, mayB_iff (by decide +kernel), by decide +kernel, by decide +kernel, by decide +kernel, by decide +kernel, ?_⟩
  · revert x; decide +kernel
  · intro k hk
    simp only [List.mem_cons, List.not_mem_nil, or_false] at hk
    rcases hk with rfl | rfl <;> decide +kernel

/-- PACKETS: one that an endpoint injects, one that it may not, one on a link, and headers without an error. -/
theorem wit_packets : (let h := flitHdr (tRsp 1)
     let s := tMode .service
     h = flitHdr (([tRsp 1]).headD 0) ∧ (flitCheck (tRsp 1)).2 = h ∧ s.mode ≠ .off ∧ s.mode ≠ .strap ∧ (s.injectPkt 1 .loc h [tRsp 1]).isSome = true ∧
     (s.injectPkt 1 .att h [tRsp 1]).isSome = false ∧ hSrc (flitHdr (tRsp 0)) ≠ 1 ∧ (s.setQd 0 { pwr := .off }).live 1 = false ∧
     s.roomIn 1 .xm (hClass (flitHdr (tRsp 0))) 0 1 = true ∧ ((tOut 0 .xp (tRsp 0)).linkTake 1 .xm [tRsp 0]).isSome = true ∧
     (s.linkTake 1 .xm [tRsp 0]).isSome = false) ∧
    (∀ i ∈ [0, 1], flitCheck (tRsp i) = (Ecc.good, flitHdr (tRsp i)) ∧ kindClass (hKind (flitHdr (tRsp i))) = some (hClass (flitHdr (tRsp i))) ∧
      hHops (flitHdr (tRsp i)) = 0 ∧ (tMode .service).portSinks 1 .loc = false) := by decide +kernel

/-- QUEUES: a packet published at a port that sinks and at one that does not, and none; a packet read whole, with a wrong length, and
with a wrong check; an empty queue. -/
theorem wit_queues : (∀ k < 2, let s := (tOut 1 .loc (tRsp 0)).setRaw HA_FAB_SINK_ACT (BitVec.ofNat 32 (2 * k))
     let q : QueueId := ⟨.node 1, .rsp⟩
     let r := s.arbPick 1 .loc (s.portOk q.ep)
     (r.1.isSome = true) ∧ arrives [tRsp 0] [tRsp 0] = true ∧ queueOf q.ep (hClass (flitHdr (tRsp 0))) = some q ∧ s.portSinks 1 .loc = (k == 1)) ∧
    (((tMode .service).arbPick 1 .loc ((tMode .service).portOk (.node 1))).1.isNone = true) ∧
    (∀ e ∈ [(0x2001, 0), (0x2002, 0), (0x2001, 1)], let q : QueueId := ⟨.node 1, .rsp⟩
     let f : Flit := tRsp 0 ^^^ BitVec.ofNat 640 (e.2 * 2 ^ 96)
     let x : Queue := { f := 2, w := 2, slots := [(0, BitVec.ofNat 640 e.1), (1, f)] }
     queueExists q = true ∧ x.r ≠ x.w ∧ (smGet (fun _ => 0) x.slots (qSlot q 1) : Flit) = f ∧
     ((bf (BitVec.ofNat 640 e.1) 1 0 != bf (flitHdr f) 16 16 + 1 || bf (BitVec.ofNat 640 e.1) 15 8 != hKind (flitHdr f)) = (e.1 == 0x2002)) ∧
     flitCrcOk f = (e.2 == 0)) ∧
    ((tMode .service).que ⟨.node 1, .req⟩).r = ((tMode .service).que ⟨.node 1, .req⟩).w := by decide +kernel

/-- Every home slot names node 0, and the nodes 8 to 31 sink. -/
def tHome (s : State) : State := { s.setRaw HA_FAB_SINK_ACT 0xFFFFFF00 with homeMap := (List.range 128).map fun i => (i, 0) }

/-- POWER: a quadrant that may be gated and one that may not, ungating, each state; sensors; the rail low; a voltage to be changed. -/
theorem wit_power : (tMode .service).MayAccess .chervil (qdA 1 QD_GATE) true ∧
    (tHome (tMode .service)).gateRej 1 = 0 ∧ (tHome (tMode .service)).gateRej 0 ≠ 0 ∧ (tHome (tMode .service)).ungateRej 1 ≠ 0 ∧
    ((tHome (tMode .service)).setQd 1 { pwr := .off, quadOn := false }).ungateRej 1 = 0 ∧
    (∀ p ∈ [QPwr.gating, .ungating, .on], (((tMode .service).setQd 1 { pwr := p }).qd 1).pwr = p) ∧
    (∀ a ∈ [95, 96, 856, 857], ∀ c ∈ [399, 400, 1000, 1001], let x : Quad := { tempA := [a, a], tempB := [a, a], vmonA := [c, c], vmonB := [c, c] }
      let s := (tMode .service).setQd 1 x
      let u := s.setQd 1 { x with tempA := (a :: x.tempA).take 3, tempB := (a :: x.tempB).take 3, vmonA := (c :: x.vmonA).take 3, vmonB := (c :: x.vmonB).take 3 }
      s.qEnabled 1 = true ∧ s.mode ≠ .off ∧ (u.qd 1).readings = [some a, some a, some c, some c]) ∧
    (let s := { tMode .service with tmo := 10000 }
     s.past (s.qd 1).sensAt 4 = true ∧ (tMode .service).past ((tMode .service).qd 1).sensAt 4 = false ∧ s.past (s.qd 1).sensAt 10000 = true ∧ s.bit (HA_SENSE + 4) 24 = false) ∧
    (((tMode .service).setQd 1 { vlow := 100 }).qd 1).vlow = 100 ∧ (∀ r, ((tMode .service).qd r).vlow < 100) ∧
    (∀ v ∈ [0x0A00, 0x000A, 0x0A0A], let s := { (tMode .service).setRaw HA_PWR_VREQ (BitVec.ofNat 32 v) with tar := { lastStep := some 0 }, tmo := 2000 }
      s.fld HA_PWR_VREQ 15 8 = v / 256 ∧ s.fld HA_PWR_VREQ 7 0 = v % 256 ∧ s.past 0 2000 = true ∧ s.past 1 2000 = false) :=
  ⟨mayB_iff (by decide +kernel), by decide +kernel⟩

/-- The rows' registers; the directory on and off, empty and not; a rebuild; scrubbers; HA_XLT_CMD free and busy with each operation;
each state of a channel; reports, limits and BUSY units. -/
theorem wit_tracking : (∀ x ∈ [HA_OVF_CTRL, ndA 0 ND_SF_CTRL, HA_SF_CONS, HA_XLT_CMD, chA 0 1], (tMode .service).MayAccess .chervil x true) ∧
    (∀ e < 2, ∀ m ∈ [22, 23], let s := (tMode .service).setRaw HA_OVF_CTRL (BitVec.ofNat 32 (e + 22 * 2))
      (s.bit HA_OVF_CTRL 0 = (e == 1)) ∧ s.fld HA_OVF_CTRL 5 1 = 22 ∧ bf (BitVec.ofNat 32 (m * 2) : BitVec 32) 5 1 = m ∧
      s.fld HA_OVF_COUNT 31 0 = 0 ∧ (s.setRaw HA_OVF_COUNT 1).fld HA_OVF_COUNT 31 0 ≠ 0) ∧
    (∀ b : Bool, (((tMode .service).setNd 0 { rebuild := b }).nd 0).rebuild = b) ∧ (tStrap (tMode .service)).bmIn ((tStrap (tMode .service)).ovfLine 0) = true ∧
    (let s := (tMode .service).setRaw (ndA 0 ND_SF_CTRL) 1
     s.live 0 = true ∧ s.bit (ndA 0 ND_SF_CTRL) 0 = true ∧ (s.nd 0).repairs = [] ∧ ((s.scrubSet 0 0).nd 0).repairs = [] ∧
     s.fld (ndA 0 ND_SF_SCRUB) 12 0 = 0 ∧ (s.setRaw (ndA 0 ND_SF_SCRUB) 8191).fld (ndA 0 ND_SF_SCRUB) 12 0 = 8191 ∧ (s.setQd 0 { pwr := .off }).live 0 = false) ∧
    (let s := ((tMode .service).setRaw (ndA 0 ND_SF_CTRL) 1).setNd 0 { bank := [(3, 3)] }
     (entCheck 3).1 = .uce ∧ ((s.scrubSet 0 0).nd 0).repairs ≠ []) ∧
    (∀ o ∈ [1, 2, 3, 3 + 56 * 2 ^ 4, 4, 5, 6], let s : State := { tMode .service with xltCmd := some (BitVec.ofNat 32 o) }
      (s.xltCmd = some (BitVec.ofNat 32 o)) ∧ bf (BitVec.ofNat 32 o : BitVec 32) 3 0 = o % 16 ∧ bf (BitVec.ofNat 32 o : BitVec 32) 9 4 = o / 16) ∧
    (tMode .service).xltCmd = none ∧ (tMode .service).plcUsing (fun _ => true) = false ∧
    (let r : BmReq := { why := .plk t0, wr := false, line := 1, at_ := 0 }
     let s := tNode {} { tThr with pend := .plk 3 0 (some 0) } 0
     ({ s with bm := [(7, some r)] } : State).plcUsing (fun _ => true) = true) ∧
    (∀ st ∈ [ChSt.idle, .run, .preempted, .halted, .done], ∀ k ∈ [1, 3], ∀ o ∈ [1, 2], let s := (tMode .service).setCh 0 { st := st, cause := BitVec.ofNat 4 k, op := BitVec.ofNat 4 o }
      (s.ch 0).st = st ∧ (s.ch 0).cause = BitVec.ofNat 4 k ∧ (s.ch 0).ph = .none ∧ ((s.ch 0).op = 1 ↔ o = 1)) ∧
    (let s := { (tMode .service).setCh 0 { out := [(7, 0)], busy := [(9, 0)] } with tmo := 1000000 }
     let msg := BitVec.ofNat 512 (0xD0 + 7 * 2 ^ 16)
     bf msg 7 0 = 0xD0 ∧ bf msg 11 8 = 0 ∧ bf msg 31 16 = 7 ∧ (s.ch 0).out = [] ++ (7, 0) :: [] ∧ (s.ch 0).busy = [] ++ (9, 0) :: [] ∧
     s.past 0 1000000 = true ∧ s.past 0 1024 = true ∧ (∀ q ∈ (s.ch 0).out, q.1 ≠ 8) ∧ (∀ q ∈ (s.ch 0).busy, q.1 ≠ 8)) := by
  refine ⟨fun x hx => mayB_iff ?_, by decide +kernel⟩
  revert x; decide +kernel

/-- A request of code `code` in the mailbox with `len` payload bytes `v`, from a supervisor, in mode `m`; context 0 has one run. -/
def tReq (m : Mode) (code len v : Nat) : State :=
  let n := code + len * 2 ^ 16 + v * 2 ^ 128
  let s := (List.range 8).foldl (fun s i => s.setRaw (HA_MB_REQ + 4 * i) (BitVec.ofNat 32 (n / 2 ^ (32 * i)))) (tMode m)
  { s.setRaw HA_MB_STAT 5 with chv := { stopped := false }, bmem := memWrite (memWrite [] 0 (0x101 + 2 ^ 64) 16) 64 0x10000 8 }

/-- MAILBOX: the doorbell and the completion, each code, an unknown one; each server; privilege and header. -/
theorem wit_mailbox : (∀ x ∈ [HA_MB_DOORBELL, HA_MB_COMPLETE], (tMode .service).MayAccess .chervil x true) ∧
    (∀ e ∈ [(0x0001, 0), (0x0002, 0), (0x0003, 0), (0x0010, 0), (0x0011, 2), (0x0020, 3), (0x0021, 12), (0x0022, 12), (0x0030, 8), (0x0031, 1),
        (0x0032, 1), (0x0033, 1), (0x0040, 3), (0x0041, 2), (0x0050, 0), (0x0051, 0)], ∀ m ∈ [Mode.boot, .service], ∀ l < 2, ∀ p < 2,
      let s := (tReq m e.1 (e.2 + l) 0).setRaw HA_MB_STAT (BitVec.ofNat 32 (1 + 4 * p))
      s.mbServer = some (m == .boot) ∧ s.bit HA_MB_STAT 0 = true ∧ s.bit HA_MB_STAT 2 = (p == 1) ∧ s.mbNum 0 2 = e.1 ∧ s.mbNum 2 2 = e.2 + l ∧
      s.mbNum 8 8 = 0) ∧
    (tMode .service).bit HA_MB_STAT 0 = false ∧ (tMode .service).mbServer = none := by
  refine ⟨fun x hx => mayB_iff ?_, by decide +kernel⟩
  revert x; decide +kernel

/-- SET_POWER, CTX_SET, MAP_RUN and UNMAP_RUN: values in and out of range, contexts in use and not, runs there and not, each stage. -/
theorem wit_mailbox_maps : (∀ l ∈ [39, 40, 192, 193], ∀ c ∈ [200, 201], let s := tReq .service 0x0040 3 (l + c * 2 ^ 16)
      s.mbServer = some false ∧ s.bit HA_MB_STAT 0 = true ∧ s.bit HA_MB_STAT 2 = true ∧ s.mbNum 8 8 = 0 ∧ s.mbNum 16 2 = l ∧ s.mbNum 18 1 = c) ∧
    (∀ x < 2, ∀ b ∈ [0, 1, 128], let s := tReq .service 0x0020 3 (x + b * 2 ^ 16)
      s.mbNum 16 2 = x ∧ s.mbNum 18 1 = b ∧ s.ctxIn (BitVec.ofNat 16 x) = true ∧ (s.sess.any fun e => e.2.ctx == 0 && e.2.st != .closed) = false ∧
      (s.ctxRuns (BitVec.ofNat 16 x) = []) = (x = 1)) ∧
    (∀ r ∈ [(0, 0, 0), (0, 1, 0), (0, 2, 0), (1, 1, 1), (2, 65535, 0)], let s := tReq .service 0x0021 12 (r.1 * 2 ^ 16 + r.2.1 * 2 ^ 32 + r.2.2 * 2 ^ 64)
      s.mbNum 16 2 = 0 ∧ s.mbNum 18 2 = r.1 ∧ s.mbNum 20 4 = r.2.1 ∧ s.mbNum 24 4 = r.2.2 ∧ s.ctxRuns 0 = [⟨0, 1, 0⟩] ∧ bt (s.ctxWord 0 0) 0 = true ∧
      bt (s.ctxWord 1 0) 0 = false ∧ Run.ok ⟨r.1, r.2.1, r.2.2⟩ = (r.2.1 == 1 || r.2.1 == 2)) ∧
    Run.overlaps ⟨0, 2, 0⟩ ⟨0, 1, 0⟩ = true ∧ Run.overlaps ⟨1, 1, 1⟩ ⟨0, 1, 0⟩ = false ∧
    (∀ st ∈ [ChSt.idle, .run, .done], let s := { tReq .service 0x0022 12 (2 ^ 32) with chan := (List.range 16).map fun i => (i, { st := st }) }
      s.ctxRuns 0 = [⟨s.mbNum 18 2, s.mbNum 20 4, s.mbNum 24 4⟩] ∧ s.freeCh = (if st = .run then none else some 0) ∧ (s.ch 0).st = st ∧ s.xltCmd = none) := by
  decide +kernel

/-- The migration commands, GATE and SHUTDOWN: each state of the channel, a migration that was left, each stage. -/
theorem wit_mailbox_acts : (∀ st ∈ [ChSt.idle, .run, .preempted, .halted, .done], ∀ k ∈ [10, 3], ∀ code ∈ [0x0031, 0x0032, 0x0033],
      let s := (tReq .service code 1 0).setCh 0 { st := st, cause := BitVec.ofNat 4 k }
      s.mbNum 16 1 = 0 ∧ (s.ch 0).st = st ∧ ((s.ch 0).cause = 10 ↔ k = 10) ∧ s.bmIn (s.fld (chA 0 0) 28 0) = true ∧ s.migLeft 0 = none) ∧
    (let s := (tReq .service 0x0032 1 0).setRaw (chA 0 0) 0x100
     let s := { s with bmem := memWrite (memWrite (memWrite [] 64 (plcMig 64 65 0).toNat 8) 0x4000 1 8) 0x4010 (8 + 65 * 2 ^ 20) 8 }
     s.migLeft 0 = some 0 ∧ (s.ch 0).st = .idle) ∧
    (∀ e ∈ [0, 2 ^ 20], ∀ m ∈ [Mode.standby, .service], let s := tReq m 0x0030 8 (e + 65 * 2 ^ 32)
      s.mbNum 16 4 = e ∧ s.mbNum 20 4 = 65 ∧ (e = 0 → s.bmIn (s.plcLine e) = true) ∧ s.freeCh = some 0 ∧ bt (s.plcEnt 0) 1 = false) ∧
    (∀ up < 2, ∀ g ∈ [0, 3], let s := { tHome (tReq .service 0x0041 2 (1 + up * 2 ^ 8)) with mbStage := g }
      s.mbNum 16 1 = 1 ∧ s.mbNum 17 1 = up ∧ (s.qd 1).pwr = .on ∧ s.qEnabled 1 = true ∧ s.mbStage = g ∧
      ((s.setQd 1 { pwr := .off, quadOn := false }).qd 1).pwr = .off ∧ (s.setQd 1 { pwr := .off, quadOn := false }).ungateRej 1 = 0) ∧
    (∀ p ∈ [3, 4, 3 + 15 * 2 ^ 8, 3 + 16 * 2 ^ 8], let s := tReq .service 0x0011 2 p
      s.mbNum 16 1 = p % 256 ∧ s.mbNum 17 1 = p / 256 ∧ s.mbStage = 0 ∧ s.held = 0) ∧
    (tReq .evacuate 0x0011 2 0).held = 0 ∧ (tReq .evacuate 0x0011 2 0).shutTest.mode = .selftest ∧
    (((tReq .evacuate 0x0011 2 0).setNd 0 { bank := [(3, tEnt)] }).held ≠ 0) ∧
    (((tReq .standby 0x0011 2 0).setRaw HA_ST_STAT 5).fld HA_ST_STAT 2 0 = 5) := by decide +kernel

/-- The block after cold reset is settled: nothing waits there. -/
theorem wit_settled : State.reset.Settled where
  canon := ⟨rfl, rfl, rfl, rfl, rfl, rfl, rfl, rfl, rfl, rfl⟩
  mode := by decide
  snoops := fun _ => ⟨rfl, fun _ h => by cases h⟩
  requests := fun _ => ⟨rfl, rfl, fun _ h => by cases h⟩
  ports := fun _ _ _ h => by cases h
  flows := fun _ => ⟨rfl, fun _ h => by cases h⟩
  threads := fun _ _ h => by cases h
  attach := fun q _ h => by cases q <;> cases h
  sessions := fun _ h => by cases h
  served := rfl
  channels := fun _ => ⟨rfl, rfl⟩
  reports := rfl

/-- A state with contents is canonical, and a step of it answers a next state; two lines of one sector. -/
theorem wit_steps : (let s := { (tMode .flush).setNd 3 { bank := [(3, tEnt)] } with pending := [.reftickReturn], bmem := [(5, 1), (9, 2)] }
     s.mode = .flush ∧ Memory.wf s.bmem = true ∧ smWf regDefault s.regs = true ∧ smWf (fun _ => ({} : Node)) s.node = true ∧
     (match step s with | .next t => t.pending == [] | _ => false) = true) ∧ (0x12345 : BitVec 46).toNat / 256 = (0x123FF : BitVec 46).toNat / 256 := by
  decide +kernel

/-- A sector in its home bank, and one whose slot the node does not hold. -/
theorem wit_bank : (∃ p, State.reset.bankPos 30 0x1780B01A35 = some p ∧ 3 ∈ p.ways) ∧ State.reset.slotNode (homeSlot 0x1780B01A35) ≠ 29 ∧
    4 * (3 / (16 / groupCount (State.reset.slotsOf 30).length)) + 0x834 / 2048 < (State.reset.slotsOf 30).length :=
  ⟨⟨⟨0x834, List.range 16, 0x5E02C⟩, by decide +kernel⟩, by decide +kernel⟩

/-! ### Well-formed commands -/

theorem wf_word : (Instr.wf (.add t0 (b32 (wR 0 3 1 2 0))) = true) ∧ (Instr.wf (.add t0 (b32 (wR 0 3 1 2 1))) = false) := by decide +kernel
theorem wf_packet : (Instr.wf (.packetPublish ⟨.bm, .breq⟩ [0, 0]) = true) ∧ (Instr.wf (.packetPublish ⟨.bm, .breq⟩ []) = false) ∧
    (Instr.wf (.flitReceive 0 .xp [0, 0, 0]) = false) := by decide +kernel
theorem wf_credit : (Instr.wf (.credit .bm ⟨.bm, .breq⟩ 1) = true) ∧ (Instr.wf (.credit .bm ⟨.bm, .breq⟩ 0) = false) := by decide +kernel
theorem wf_staged : (Instr.wf (.bootReady .chervil 1 [(3, 7), (4, 9)]) = true) ∧ (Instr.wf (.bootReady .chervil 1 [(4, 9), (3, 7)]) = false) ∧
    (Instr.wf (.bootReady .chervil 1 [(3, 0)]) = false) := by decide +kernel
theorem wf_cells : (let f (l : List (Nat × Nat)) : Bool := Instr.wf (.sorrelEnd ⟨true, [⟨0, 0, 0, l, false⟩], true⟩)
    f (List.replicate 16 (0, 0)) = true ∧ f (List.replicate 17 (0, 0)) = false ∧ f [(8192, 0)] = false ∧ f [(0, 8192)] = false) := by decide +kernel

/-! ### The examples of the spec -/

/-- The thread 0 of node 0 after one instruction. -/
def after (i : Thr → Reg32 → Instr) (w : Nat) (g : SMap Word) : Option Thread :=
  match exec (i t0 (b32 w)) (tNode {} { tThr with g := g } w) with | .next u => some (u.thr t0) | _ => none

/-- R234: ORI g5, g0, 0x5E; ORSH g5, g5, 0x02C0; ORSH g5, g5, 0x68D7. -/
theorem test_constant : (after .ori (wI 3 5 0 0x5E) []).map (·.reg 5) = some 0x5E ∧ (after .orsh (wI 10 5 5 0x2C0) [(5, 0x5E)]).map (·.reg 5) = some 0x5E02C0 ∧
    (after .orsh (wI 10 5 5 0x68D7) [(5, 0x5E02C0)]).map (·.reg 5) = some 0x5E02C068D7 := by decide +kernel

/-- Chapter 5: the sector 0x17_80B0_1A35 lies at set 0x0834 of N30, its region bit is 6 of byte 0x1_5E02, and its overflow set and tag. -/
theorem test_sector : homeSlot 0x1780B01A35 = 62 ∧ State.reset.slotNode 62 = 30 ∧
    State.reset.bankPos 30 0x1780B01A35 = some ⟨0x834, List.range 16, 0x5E02C⟩ ∧
    (let s := State.reset.setRaw HA_OVF_CTRL (BitVec.ofNat 32 (28 * 2))
     s.region 0x1780B01A35 % 2 ^ 20 = 0x0AF016 % 2 ^ 20 ∧ s.ovfSet 0x1780B01A35 = 0x7C16034 ∧ s.ovfTag 0x1780B01A35 = 0x178) := by decide +kernel

/-- Chapter 5: PTR1, PTR2 and COARSE as hosts 0x05A, 0x140 and 0x3C1 read. -/
theorem test_sharers : (let e0 : Word := 0x0005A405E02C
     entNames e0 0x05A = true ∧ entLs e0 3 = 1 ∧ entHolds e0 = true ∧
     (let p := widen 0 0x140 0x05A
      p = (1, 0x05A + 0x140 * 1024) ∧ (let c := widen p.1 p.2 0x3C1
      c = (2, 0x8022) ∧ bf (entSetShr (setBf (0x5E02C : Word) 27 20 0x45) c) 55 0 = 0x0808022455E02C))) := by decide +kernel

/-- R435: data bits 0 and 5. -/
theorem test_secded : secdedCheck 56 0x21 = 0x12 ∧ entSeal 0x21 = 0x1200000000000021 ∧
    (entFix 0x1200000000000001 = 0x1200000000000021 ∨ bf (entFix 0x1200000000000001) 55 0 = 0x21) ∧ bf (entFix 0x0200000000000021) 55 0 = 0x21 := by decide +kernel

/-- Chapter 10: the placement entry of extent 0x5_E02C in migration, the moved bit of the line and its two addresses. -/
theorem test_migration : plcMig 0xC41 0x1A07 5 = 0x0000140681C03107 ∧ maddrOf 0xC41 0x5E02C068D7 = 0x31041A35C0 ∧
    maddrOf 0x1A07 0x5E02C068D7 = 0x681C1A35C0 ∧ State.reset.mpOf 0x681C1A35C0 = 5 ∧
    (let s := (State.reset.setRaw HA_MIG_BASE 0x800).setRaw HA_PLC_BASE 0x400
     64 * s.plcLine 0x5E02C + 8 * (0x5E02C % 8) = 0x2002F0160 ∧ 64 * s.movLine 5 0x5E02C068D7 + movBit 0x5E02C068D7 / 64 * 8 = 0x1000A0D18 ∧
     movBit 0x5E02C068D7 % 64 = 23) := by decide +kernel

/-- Chapter 1: HP4 (N08) to N30 is 4 hops, N30 to N22 1, N30 to N21 2, N21 to N08 4. -/
theorem test_hops : hopsOf 8 30 = 4 ∧ hopsOf 30 22 = 1 ∧ hopsOf 30 21 = 2 ∧ hopsOf 21 8 = 4 := by decide +kernel

/-- R370: the pointers of a REQ_IN of 512 slots as a packet of two flits comes and goes. -/
theorem test_queue : (let q : QueueId := ⟨.node 5, .req⟩
     let fs : List Flit := [mkFlit 0x06 (4, false) (5, false) 0 0 true false 0, mkFlit 0x06 (4, false) (5, false) 0 0 true true 0]
     let s := { (tMode .service).setOut 5 .loc [{ inp := .xm, vc := 0, flits := fs }] with
                queues := [(qKey q, { f := 0x3FE, w := 0x3FE, r := 0x3FE })] }
     (match exec (.packetPublish q fs) s with
      | .next u => (u.que q).f == 1 && (u.que q).w == 1 && (u.que q).r == 0x3FE && (qSlot q 0x3FE == 0x1FE)
      | _ => false) = true) ∧ ({ f := 0x1FE, r := 0x3FE } : Queue).usedSlots 9 = 512 := by decide +kernel

/-- R455: the newer of two records. -/
theorem test_newer : recNewer 0 0xFFFFFFFF = true ∧ recNewer 0xFFFFFFFF 0 = false ∧ recNewer 8 7 = true := by decide

/-- Chapter 16: what is repaired at N21, N22 and N23. -/
theorem test_repairs : unitFix [] [⟨21, 0, 9, [(0x834, 3), (0x834, 40), (0x1FF0, 17)], false⟩] = some [0x41A04815, 0x1FF804815] ∧
    unitFix [] [⟨22, 7, 1, [], false⟩] = some [0x40B96] ∧ unitFix [] [⟨23, 7, 0, [], false⟩, ⟨23, 7, 1, [], false⟩] = none := by decide +kernel

/-- Chapter 18: addresses of registers. -/
theorem test_addresses : ndA 21 ND_TRK_PEND = 0x1A8208 ∧ qdA 2 QD_SPEED = 0x2200C ∧ chA 13 2 = 0x1058 ∧ HA_SESS_ST + 8 * 0x5A = 0x22D0 ∧
    HA_MEAS_SLOT + 0x40 * 2 + 4 * 11 = 0x180AC := by decide

/-- R5: an idle block lets a tick pass. -/
theorem test_tick_time : (match step State.reset with | .next t => t.time | _ => 0) = 1 := by decide +kernel

end Sys2Proof.Tests
end

section
/-! Loads of a core's own data memory (R227, R235, R295): the bytes of a granule, the read of an intact word, and the load. -/

namespace Sys2Proof.Machine

/-! ### Bytes of a granule -/

/-- Reading `i + n` bytes reads `i` bytes and then `n` more above them. -/
theorem memRead_add (m : Memory) (a i n : Nat) : memRead m a (i + n) = memRead m a i + memRead m (a + i) n * 2 ^ (8 * i) := by
  induction n with
  | zero => simp [memRead]
  | succ n ih =>
    rw [← Nat.add_assoc, memRead, ih, memRead, Nat.mul_add, Nat.pow_add, Nat.add_assoc a i n]
    ring

theorem memRead_lt (m : Memory) (a n : Nat) : memRead m a n < 2 ^ (8 * n) := by
  induction n with
  | zero => simp [memRead]
  | succ n ih =>
    have hb := (memByte m (a + n)).isLt
    have hp : 2 ^ (8 * (n + 1)) = 2 ^ (8 * n) * 2 ^ 8 := by rw [← Nat.pow_add]; rfl
    rw [memRead, hp]
    nlinarith [Nat.two_pow_pos (8 * n)]

/-- The bytes that an access inside a granule selects are the bytes at its address. -/
theorem bf_memGran (m : Memory) (a n : Nat) (hn : 0 < n) (h : a % 8 + n ≤ 8) :
    bf (memGran m (a / 8)) (8 * (a % 8 + n) - 1) (8 * (a % 8)) = memRead m a n := by
  have hw : 8 * (a % 8 + n) - 1 - 8 * (a % 8) + 1 = 8 * n := by omega
  have h8 : memRead m (8 * (a / 8)) 8 = memRead m (8 * (a / 8)) (a % 8) +
      (memRead m a n + memRead m (a + n) (8 - a % 8 - n) * 2 ^ (8 * n)) * 2 ^ (8 * (a % 8)) := by
    rw [← memRead_add]
    conv_lhs => rw [show 8 = a % 8 + (n + (8 - a % 8 - n)) by omega, memRead_add]
    simp only [show a % 8 + (n + (8 - a % 8 - n)) = 8 by omega, Nat.div_add_mod]
  have hlt : memRead m (8 * (a / 8)) 8 < 2 ^ 64 := memRead_lt m _ 8
  rw [bf, memGran, BitVec.toNat_ofNat, Nat.mod_eq_of_lt hlt, h8, hw, Nat.shiftRight_eq_div_pow,
    Nat.add_mul_div_right _ _ (Nat.two_pow_pos _), Nat.div_eq_of_lt (memRead_lt m _ _), Nat.zero_add,
    Nat.add_mul_mod_self_right, Nat.mod_eq_of_lt (memRead_lt m a n)]

/-! ### The operands of a load -/

theorem iImmS_eq (w : Reg32) : iImmS w = (w.setWidth 16).signExtend 64 := by
  unfold iImmS bf
  congr 1
  apply BitVec.eq_of_toNat_eq
  simp

/-- An offset in a data memory is aligned as the address is that reaches it. -/
theorem State.regionOf_ramOf_mod {s : State} {c d : CoreId} {ea k n : Nat} {r : Reg} (hn : n ∣ 8)
    (hr : s.regionOf c ea = some r) (hk : r.ramOf = some (d, k)) : k % n = ea % n := by
  have h32 : n ∣ 2 ^ 32 := hn.trans (by decide)
  have h16 : n ∣ 0x10000 := hn.trans (by decide)
  unfold State.regionOf at hr
  dsimp only at hr
  split at hr
  all_goals repeat' split at hr
  all_goals cases hr <;> cases hk <;> simp only [Nat.mod_mod_of_dvd _ h32, Nat.mod_mod_of_dvd _ h16]

/-! ### A load of a core's own data memory -/

/-- A granule whose check is intact reads as it is stored, and its memory stays. -/
theorem EccMem.get_intact {m : EccMem} {g : Nat} (h : smGet (fun _ => (0 : BitVec 8)) m.syn g = 0) :
    m.get g = (some (memGran m.mem g), false, m) := by
  have hc : m.check g = .good := by rw [EccMem.check, h]; rfl
  unfold EccMem.get
  rw [hc]
  rfl

/-- Reading an intact word of a core's data memory gives the bytes at its address. -/
theorem State.ramRead_intact {s : State} {t : Thr} {c : CoreId} {k n : Nat} (hn : 0 < n) (hk : k % 8 + n ≤ 8)
    (h : smGet (fun _ => (0 : BitVec 8)) (s.core c).ramSyn (k / 8) = 0) :
    s.ramRead t c k n = (some (BitVec.ofNat 64 (memRead (s.core c).ram k n)), s.setCore c (s.core c)) := by
  have hg : (s.core c).data.get (k / 8) = (some (memGran (s.core c).ram (k / 8)), false, (s.core c).data) := EccMem.get_intact h
  unfold State.ramRead
  rw [hg, ← bf_memGran _ _ _ hn hk]
  rfl

/-- Writing a core back as it stands changes nothing that is read. -/
theorem State.setCore_core_only (s : State) (t : Thr) (c : CoreId) : OnlyThread s (s.setCore c (s.core c)) t := by
  refine ⟨?_, fun a _ => s.raw_setCore _ _ a, fun n => ?_, fun d => ?_, fun k _ => ?_⟩
  · cases c <;> rfl
  · cases c with
    | chervil => rfl
    | node m => simp only [State.setCore, State.core, State.nd_setNd]; split <;> simp [*]
  · rw [State.core_setCore]; split <;> simp [*]
  · rw [State.thr, State.core_setCore]; split <;> simp [State.thr, *]

/-- A load of the thread's own data memory that no buffered store overlaps and whose word is intact ends with the bytes read. -/
theorem State.loadGo_own {s : State} {t : Thr} {rd n ea k : Nat} {r : Reg} (hr : r.ramOf = some (t.core, k)) (hn : 0 < n)
    (hk : k % 8 + n ≤ 8) (hov : ∀ e ∈ (s.thr t).sb, e.overlaps r.canon n = false)
    (h : smGet (fun _ => (0 : BitVec 8)) (s.core t.core).ramSyn (k / 8) = 0) :
    s.loadGo t (s.thr t) rd n ea r =
      .next ((s.setCore t.core (s.core t.core)).setRd t rd (BitVec.ofNat 64 (memRead (s.core t.core).ram k n))) := by
  have hlast : (s.thr t).lastOver r.canon n = none := by
    rw [Thread.lastOver, List.filter_eq_nil_iff.mpr fun e he => by simp [hov e he]]
    rfl
  have hheld : s.accHeld t.core r = false := by simp [State.accHeld, Reg.isOwn, hr]
  unfold State.loadGo State.loadNow
  simp only [hlast]
  cases r with
  | scr m o => simp [hheld, hr, State.ramRead_intact hn hk h]
  | chvRam o => simp [hheld, hr, State.ramRead_intact hn hk h]
  | reg a => cases hr
  | prog m o => cases hr
  | chvProg o => cases hr
  | bm b => cases hr

/-- A load of a core's own data memory is of a region that takes every width. -/
theorem Reg.widthOk_ramOf {r : Reg} {c : CoreId} {k : Nat} (h : r.ramOf = some (c, k)) (st : Bool) (n : Nat) :
    r.widthOk st n = true := by
  cases r with
  | scr | chvRam => rfl
  | reg | prog | chvProg | bm => cases h

/-- What is permitted does not take PRIV. -/
theorem and_not_eq_false {b p : Bool} (h : b = true → p = true) : (b && !p) = false := by
  cases b with
  | false => rfl
  | true => simp [h rfl]

/-- A load at a permitted aligned address of the thread's own data memory that no buffered store overlaps and whose word is
intact gives the bytes at that address (R235, R295). -/
theorem State.loadOp_own {c : Instr} {s : State} {t : Thr} {o : Op} {w : Reg32} {n k : Nat} {ea : Word} {r : Reg}
    (hc : exec c s = .next (s.loadOp t o w n)) (hq : o.quiet = false) (hi : Issues s t o w) (hn : 0 < n) (h8 : n ∣ 8)
    (hea : ea = (s.thr t).reg (bf w 20 16) + (w.setWidth 16).signExtend 64) (hpriv : eaSuper ea.toNat = true → (s.thr t).priv = true)
    (hreg : s.regionOf t.core ea.toNat = some r) (hram : r.ramOf = some (t.core, k)) (hal : ea.toNat % n = 0)
    (hov : ∀ e ∈ (s.thr t).sb, e.overlaps r.canon n = false)
    (hsyn : smGet (fun _ => (0 : BitVec 8)) (s.core t.core).ramSyn (k / 8) = 0) (hp : Passes s t ((s.thr t).pc + 1)) :
    GivesOn c s s t (bf w 25 21) (BitVec.ofNat 64 (memRead (s.core t.core).ram k n)) ((s.thr t).pc + 1) := by
  have hk : k % 8 + n ≤ 8 := by
    obtain ⟨m, hm⟩ := h8
    have hkn : k % n = 0 := (State.regionOf_ramOf_mod ⟨m, hm⟩ hreg hram).trans hal
    have h8n : k % 8 % n = 0 := by rw [Nat.mod_mod_of_dvd _ ⟨m, hm⟩, hkn]
    have hlt : k % 8 / n < m := Nat.div_lt_of_lt_mul (hm ▸ Nat.mod_lt k (by decide))
    calc k % 8 + n = n * (k % 8 / n + 1) := by rw [Nat.mul_add, Nat.mul_div_cancel' (Nat.dvd_of_mod_eq_zero h8n), Nat.mul_one]
      _ ≤ n * m := Nat.mul_le_mul_left n hlt
      _ = 8 := hm.symm
  have hs := and_not_eq_false hpriv
  have hcore := State.setCore_core_only s t t.core
  have hthr : (s.setCore t.core (s.core t.core)).thr t = s.thr t := by simp [State.thr]
  refine GivesOn.of_ends hc hq hi (y := (s.setCore t.core (s.core t.core)).setRd t (bf w 25 21) _) ?_ rfl
    (hcore.trans (State.modThr_only _ _ _)) (by rw [State.setRd_thr, hthr]) hp
  simp only [iImmS_eq, iRs1, iRd, ← hea, hreg, hs, Reg.widthOk_ramOf hram, hal, State.loadGo_own hram hn hk hov hsyn]
  rfl

/-- A load at a permitted misaligned address takes ALIGN with that address (R232). -/
theorem State.loadOp_misaligned {c : Instr} {s : State} {t : Thr} {o : Op} {w : Reg32} {n : Nat} {ea : Word}
    (hc : exec c s = .next (s.loadOp t o w n)) (hq : o.quiet = false) (hi : Issues s t o w)
    (hea : ea = (s.thr t).reg (bf w 20 16) + (w.setWidth 16).signExtend 64) (hpriv : eaSuper ea.toNat = true → (s.thr t).priv = true)
    (hal : ea.toNat % n ≠ 0) (hm : MayTrap s t 3) : ∃ u, exec c s = .next u.goOn ∧ Traps s u t 3 ea (s.thr t).pc := by
  have hs := and_not_eq_false hpriv
  refine State.issue_traps hc hq hi ?_ hm
  simp only [iImmS_eq, iRs1, ← hea, hs, if_pos hal]
  rfl

/-- Settles O14: each of the four loads is `loadOp` at its width, which divides a granule. -/
theorem localLoads : Obligations.LocalLoads := by
  unfold Obligations.LocalLoads
  intro s t w n o c ea pc hmem hiss hea hpc hpriv
  subst hpc
  have hload : exec c s = .next (s.loadOp t o w n) ∧ o.quiet = false ∧ 0 < n ∧ n ∣ 8 := by
    simp only [List.mem_cons, Prod.mk.injEq, List.not_mem_nil, or_false] at hmem
    obtain ⟨rfl, rfl, rfl⟩ | ⟨rfl, rfl, rfl⟩ | ⟨rfl, rfl, rfl⟩ | ⟨rfl, rfl, rfl⟩ := hmem <;> exact ⟨rfl, rfl, by decide, by decide⟩
  obtain ⟨hc, hq, hn, h8⟩ := hload
  exact ⟨fun r k hreg hram hal hov hsyn hp => State.loadOp_own hc hq hiss hn h8 hea hpriv hreg hram hal hov hsyn hp,
    fun hal hm => State.loadOp_misaligned hc hq hiss hea hpriv hal hm⟩

end Sys2Proof.Machine
end

section
/-! Requests of the register port, its timeout and the event port (R11, R12, R14, R45, R51, R447 to R452). -/

namespace Sys2Proof.Machine

/-! ### Accesses that are not carried out -/

theorem State.portAcc_partial {s : State} {a : Nat} {wr : Bool} {v : BitVec 32} {be : BitVec 4} {p : Bool} (hm : s.mode ≠ .off)
    (hc : s.cfg.length < 4) (h : a % 4 ≠ 0 ∨ be ≠ 15) :
    s.portAcc a wr v be p = (s.accErr 1 a wr p).cfgNote a wr p (some (true, 0)) := by
  rw [State.portAcc, if_neg (by simp [hm, Nat.not_le.mpr hc]), if_pos h]

/-- A whole aligned request is an access of the register port; a write lets what waits go on. -/
theorem State.portAcc_whole {s : State} {a : Nat} {v : BitVec 32} {be : BitVec 4} {p : Bool} (hm : s.mode ≠ .off)
    (hc : s.cfg.length < 4) (ha : a % 4 = 0) (hb : be = 15) (wr : Bool) :
    s.portAcc a wr v be p = if wr then (s.regTo (.port p) a v).goOn else s.regRd (.port p) a := by
  rw [State.portAcc, if_neg (by simp [hm, Nat.not_le.mpr hc]), if_neg (by simp [ha, hb])]

theorem State.regAcc_denied {s : State} {a : Nat} {p wr : Bool} (hm : s.mode ≠ .off) (hc : s.cfg.length < 4)
    (h : s.regDenied (.port p) a wr = true) (f : State → BitVec 32 × State) :
    s.regAcc (.port p) a wr f = (s.accErr 1 a wr p).cfgNote a wr p (some (false, 0)) := by
  simp [State.regAcc, State.regAccIf, hm, Nat.not_le.mpr hc, h]

theorem State.regAcc_sunk {s : State} {a : Nat} {p wr : Bool} (hm : s.mode ≠ .off) (hc : s.cfg.length < 4)
    (h : s.regDenied (.port p) a wr = false) (hs : s.sunkAt a = true) (f : State → BitVec 32 × State) :
    s.regAcc (.port p) a wr f = (s.raise HA_FAB_ERR 5).cfgNote a wr p none := by
  simp [State.regAcc, State.regAccIf, hm, Nat.not_le.mpr hc, h, hs]

/-! ### Below the aperture -/

theorem State.regTo_register {s : State} {src : Src} {a : Nat} {v : BitVec 32} (h : a < 0x300000) :
    s.regTo src a v = s.regDo src a true fun s => s.regSet src a v := by
  rw [State.regTo, if_neg (by omega)]

theorem State.regRd_register {s : State} {src : Src} {a : Nat} (h : a < 0x300000) :
    s.regRd src a = s.regAcc src a false fun s => s.regGet src a := by
  rw [State.regRd, if_neg (by omega)]

/-- Outside the aperture and the recorder's window a read leaves the state as it is. -/
theorem State.regGet_register {s : State} {src : Src} {a : Nat} (h : a < 0x300000) (hw : a < HA_EV_WIN ∨ HA_EV_WIN + 64 ≤ a) :
    s.regGet src a = (s.readReg a, s) := by
  rw [State.regGet, if_neg (by omega), if_neg (by omega)]

/-! ### Writes of plain fields (R11, R12) -/

/-- The registers whose write has an operation of its own before any window is looked at. -/
def actsFirst : List Nat := [HA_MODE_REQ, HA_RST_REQ, HA_WDOG, HA_BOOT_CTRL, HA_MB_DOORBELL, HA_MB_COMPLETE, HA_MEAS_EXT_GO]

/-- The rows of the block window whose write acts. -/
def actsInBlock : List Nat := [HA_OVF_CTRL, HA_OVF_BASE, HA_SF_CONS, HA_XLT_CMD, HA_DMA_CH_CTRL, HA_DMA_CHX_CTRL, HA_FAB_EPOCH,
  HA_EV_CTRL, HA_EV_WIN, HA_PS_CMD, HA_PMC_CTRL, HA_CHV_TIMER, HA_MB_REQ, HA_MB_RSP, HA_MEAS_EXT_DIG, HA_MEAS_EXT_SRC,
  HA_MEAS_EXT_LEN, HA_MEAS_EXT_VER]

theorem State.regSet_regPut {s : State} {src : Src} {a : Nat} {v : BitVec 32} (h : ∀ x ∈ actsFirst, a ≠ x) :
    s.regSet src a v = s.regPut src a v := by
  simp only [actsFirst, List.forall_mem_cons] at h
  obtain ⟨h1, h2, h3, h4, h5, h6, h7, -⟩ := h
  simp only [State.regSet, h1, h2, h3, h4, h5, h6, h7, if_false]

theorem State.blkWrite_plainWrite {s : State} {src : Src} {a : Nat} {d : RegDesc} {v : BitVec 32} (h : ∀ x ∈ actsInBlock, d.base ≠ x) :
    s.blkWrite src a d v = s.plainWrite src a d v := by
  simp only [actsInBlock, List.forall_mem_cons] at h
  obtain ⟨h1, h2, h3, h4, h5, h6, h7, h8, h9, h10, h11, h12, h13, h14, h15, h16, h17, h18, -⟩ := h
  simp only [State.blkWrite, h1, h2, h3, h4, h5, h6, h7, h8, h9, h10, h11, h12, h13, h14, h15, h16, h17, h18, or_self, if_false]

/-- A register of the block window whose row does not act. -/
theorem State.regPut_block {s : State} {src : Src} {a : Nat} {d : RegDesc} {v : BitVec 32} (hd : findReg a = some d)
    (hn : ndOf a = none) (hq : qdOf a = none) (h : ∀ x ∈ actsInBlock, d.base ≠ x) :
    s.regPut src a v = (s.plainWrite src a d v).degrade := by
  simp only [State.regPut, hd, hn, hq, State.blkWrite_plainWrite h]

/-- A register of a node window other than ND_SF_CTRL and ND_FAB_CTRL. -/
theorem State.regPut_node {s : State} {src : Src} {a o : Nat} {n : NodeId} {d : RegDesc} {v : BitVec 32} (hd : findReg a = some d)
    (hn : ndOf a = some (n, o)) (h1 : o ≠ ND_SF_CTRL) (h2 : o ≠ ND_FAB_CTRL) :
    s.regPut src a v = (s.plainWrite src a d v).degrade := by
  simp only [State.regPut, hd, hn, if_neg h1, if_neg h2]

/-! ### The timeout of the register port -/

/-- A request of the register port that is past its limit with no answer (Table 2.3). -/
def State.cfgOver (s : State) (r : CfgReq) : Bool := r.ans.isNone && s.past r.at_ 1000

theorem State.cfgOver_eq_false {s : State} {r : CfgReq} : s.cfgOver r = false ↔ (r.ans = none → s.past r.at_ 1000 = false) := by
  cases h : r.ans <;> simp [State.cfgOver, h]

theorem State.cfgLate_eq (s : State) : s.cfgLate = match s.cfg.findIdx? s.cfgOver with
    | none => s
    | some i => { s with cfg := s.cfg.modify i fun r => { r with ans := some (true, 0) } } := rfl

/-- The oldest request past its limit is answered with an error, and no other changes. -/
theorem State.cfgLate_append {s : State} {pre post : List CfgReq} {r : CfgReq} (h : s.cfg = pre ++ r :: post)
    (hpre : ∀ q ∈ pre, q.ans = none → s.past q.at_ 1000 = false) (hr : r.ans = none) (hp : s.past r.at_ 1000 = true) :
    s.cfgLate = { s with cfg := pre ++ { r with ans := some (true, 0) } :: post } := by
  have hn : pre.findIdx? s.cfgOver = none :=
    List.findIdx?_eq_none_iff.mpr fun q hq => State.cfgOver_eq_false.mpr (hpre q hq)
  have hi : s.cfg.findIdx? s.cfgOver = some pre.length := by
    rw [h, List.findIdx?_append, hn, List.findIdx?_cons, State.cfgOver, hr, hp]
    simp
  rw [State.cfgLate_eq, hi, h]
  simp [List.modify_eq_set_getElem?]

theorem State.cfgLate_none {s : State} (h : ∀ q ∈ s.cfg, q.ans = none → s.past q.at_ 1000 = false) : s.cfgLate = s := by
  rw [State.cfgLate_eq, List.findIdx?_eq_none_iff.mpr fun q hq => State.cfgOver_eq_false.mpr (h q hq)]

/-! ### The event port -/

/-- A record past its limit gives the recorder fewer than its four beats, and counts as dropped (R450). -/
theorem State.evLate_past {s : State} {e : BitVec 256} {l : List (BitVec 256)} (hm : s.mode ≠ .off) (hq : s.evq = e :: l)
    (hf : s.bit HA_EV_STAT 7 = false) (hp : s.past s.evSince 100000 = true) :
    ∃ k < 4, s.evLate = ({ s with evq := l, evSince := s.tmo, evBeats := (recBeats e).take k,
                                  free := s.free + 1 }.dropRec.raise HA_INPUT_ERR 8).dropped := by
  refine ⟨(Config.freeValue s.free).toNat % 4, Nat.mod_lt _ (by decide), ?_⟩
  rw [State.evLate, if_neg (by simp [hq, hm, hp, State.frozen, hf])]
  simp [State.evPop, hq]

theorem State.evLate_same {s : State} (h : s.evq = [] ∨ s.bit HA_EV_STAT 7 = true ∨ s.past s.evSince 100000 = false) :
    s.evLate = s := by
  rw [State.evLate, if_pos (by tauto)]

/-- The recorder takes the four beats of the oldest record (R448). -/
theorem execEventRecordSend_cons {s : State} {e : BitVec 256} {l : List (BitVec 256)} (hm : s.mode ≠ .off) (hq : s.evq = e :: l)
    (hf : s.bit HA_EV_STAT 7 = false) :
    execEventRecordSend s = .next { s with evq := l, evSince := s.tmo, evBeats := recBeats e }.dropped := by
  simp [execEventRecordSend, hq, hm, State.frozen, hf, State.evPop]

theorem execEventRecordSend_same {s : State} (h : s.evq = [] ∨ s.bit HA_EV_STAT 7 = true) : execEventRecordSend s = .next s := by
  unfold execEventRecordSend
  split
  · rfl
  · next hq => rw [if_pos (.inl (h.resolve_left (by simp [hq])))]

/-! ### The recorder's window (R451, R452) -/

/-- An access of the window that is carried out passes its data on, and a port request keeps the answer. -/
theorem execEvWindowAccess_of {s : State} {src : Src} {k : Fin 16} {wr : Bool} {w r : BitVec 32}
    (h : s.MayAccess src (HA_EV_WIN + 4 * k.val) wr) :
    execEvWindowAccess src k wr w r s =
      .next ((s.evWin k.val wr w r).2.noted src (HA_EV_WIN + 4 * k.val) wr (s.evWin k.val wr w r).1) := by
  rw [execEvWindowAccess, State.regAcc_of h]
  cases src <;> rfl

theorem State.evWin_write {s : State} {k : Nat} {w r : BitVec 32} (h : k ≠ 1) :
    s.evWin k true w r = (0, s.setRaw (HA_EV_WIN + 4 * k) w) := by
  simp [State.evWin, h]

/-! ### The rows of the register port -/

section RegisterRow

variable {s : State} {addr : BitVec 24} {be : BitVec 4} {p : Bool}

/-- `REGISTER_WRITE` is a read when it carries no write data (R51). -/
theorem exec_registerRow (o : Option (BitVec 32)) :
    exec (.registerWrite addr o be p) s = .next (s.portAcc addr.toNat o.isSome (o.getD 0) be p) := rfl

/-- A whole aligned read below the aperture is an access of the register port. -/
theorem exec_registerRead (hm : s.mode ≠ .off) (hc : s.cfg.length < 4) (ha : addr.toNat % 4 = 0) (hb : be = 15)
    (hlt : addr.toNat < 0x300000) :
    exec (.registerWrite addr none be p) s =
      .next (s.regAcc (.port p) addr.toNat false fun s => s.regGet (.port p) addr.toNat) := by
  rw [exec_registerRow, State.portAcc_whole hm hc ha hb, Option.isSome_none, if_neg Bool.false_ne_true,
    State.regRd_register hlt]

/-- A whole aligned write below the aperture is an access of the register port, after which what waits goes on. -/
theorem exec_registerWrite (hm : s.mode ≠ .off) (hc : s.cfg.length < 4) (ha : addr.toNat % 4 = 0) (hb : be = 15)
    (hlt : addr.toNat < 0x300000) (w : BitVec 32) :
    exec (.registerWrite addr (some w) be p) s =
      .next (s.regDo (.port p) addr.toNat true fun s => s.regSet (.port p) addr.toNat w).goOn := by
  rw [exec_registerRow, State.portAcc_whole hm hc ha hb, Option.isSome_some, if_pos rfl, Option.getD_some,
    State.regTo_register hlt]

end RegisterRow

/-- A write of a register that does not act is a write of its plain fields. -/
theorem State.regSet_plain {s : State} {a : Nat} {d : RegDesc} {w : BitVec 32} {src : Src} (hd : findReg a = some d)
    (h : (ndOf a = none ∧ qdOf a = none ∧ ∀ x ∈ actsFirst ++ actsInBlock, a ≠ x ∧ d.base ≠ x) ∨
      ((∀ x ∈ actsFirst, a ≠ x) ∧ ∃ n o, ndOf a = some (n, o) ∧ o ≠ ND_SF_CTRL ∧ o ≠ ND_FAB_CTRL)) :
    s.regSet src a w = (s.plainWrite src a d w).degrade := by
  obtain ⟨hn, hq, hx⟩ | ⟨hx, n, o, hn, h1, h2⟩ := h
  · rw [State.regSet_regPut fun x hm => (hx x (List.mem_append_left _ hm)).1,
      State.regPut_block hd hn hq fun x hm => (hx x (List.mem_append_right _ hm)).2]
  · rw [State.regSet_regPut hx, State.regPut_node hd hn h1 h2]

/-- Settles O48, row by row. -/
theorem registersAndEventRecords : Obligations.RegistersAndEventRecords := by
  unfold Obligations.RegistersAndEventRecords
  intro s hm
  refine ⟨fun p addr w be a ha hc => ?_, fun pre r post h hpre hr hp => ?_, fun h => ?_, fun e l u beats hq hf hu hb => ?_,
    fun h => ?_, fun h => ?_, fun src k wr w r h => ?_⟩
  · subst ha
    refine ⟨fun o h => congrArg _ (State.portAcc_partial hm hc h), fun hal hbe hlt => ⟨fun h => ?_, fun h hw => ?_, fun h => ?_,
      fun h hs => ?_, fun d k m u h hd hk hmask hu hpl => ?_⟩⟩
    · rw [exec_registerRead hm hc hal hbe hlt, State.regAcc_denied hm hc h]
    · rw [exec_registerRead hm hc hal hbe hlt, State.regAcc_of h, State.regGet_register hlt hw]
      rfl
    · rw [exec_registerWrite hm hc hal hbe hlt, State.regDo, State.regAcc_denied hm hc h]
    · rw [exec_registerWrite hm hc hal hbe hlt, State.regDo, State.regAcc_sunk hm hc h hs]
    · rw [exec_registerWrite hm hc hal hbe hlt, State.regDo_of h, State.regSet_plain hd hpl]
      subst hu hmask hk
      rfl
  · exact congrArg _ ((if_neg hm).trans (State.cfgLate_append h hpre hr hp))
  · exact congrArg _ ((if_neg hm).trans (State.cfgLate_none h))
  · subst hu hb
    exact ⟨execEventRecordSend_cons hm hq hf,
      fun hp => (State.evLate_past hm hq hf hp).imp fun k hk => ⟨hk.1, congrArg _ hk.2⟩,
      fun hp => congrArg _ (State.evLate_same (.inr (.inr hp)))⟩
  · exact ⟨execEventRecordSend_same h, congrArg _ (State.evLate_same (h.imp_right .inl))⟩
  · exact if_pos (.inl h)
  · have hx : exec (.evWindowAccess src k wr w r) s = _ := execEvWindowAccess_of h
    refine ⟨fun hwr => ?_, fun hwr hk => ?_, fun u hwr hk hu => ?_⟩
    · subst hwr
      exact hx
    · subst hwr
      rw [hx, State.evWin_write fun he => hk (Fin.ext he)]
    · subst hwr hk hu
      rw [hx]
      simp [State.evWin, State.freeze, State.frozen]

end Sys2Proof.Machine
end

section
/-! Values of words: what the integer instructions compute (Table 7.9), and which bits and bytes replacing a field or merging lines
changes. -/

namespace Sys2Proof.Machine

/-! ### Values of the integer instructions (Table 7.9) -/

theorem bf_zero_lo {w : Nat} (v : BitVec w) (hi : Nat) : bf v hi 0 = v.toNat % 2 ^ (hi + 1) := rfl

theorem word_add (a b : Word) : a + b = BitVec.ofNat 64 (a.toNat + b.toNat) := by
  apply BitVec.eq_of_toNat_eq
  simp

theorem word_sub (a b : Word) : a - b = BitVec.ofInt 64 (a.toNat - b.toNat : Int) := by
  apply BitVec.eq_of_toNat_eq
  rw [BitVec.toNat_sub, BitVec.toNat_ofInt]
  have := a.isLt
  have := b.isLt
  omega

theorem word_mul (a b : Word) : a * b = BitVec.ofNat 64 (a.toNat * b.toNat) := by
  apply BitVec.eq_of_toNat_eq
  simp

theorem word_shiftLeft (a : Word) (k : Nat) : a <<< k = BitVec.ofNat 64 (a.toNat * 2 ^ k) := by
  apply BitVec.eq_of_toNat_eq
  simp [Nat.shiftLeft_eq]

theorem word_ushiftRight (a : Word) (k : Nat) : a >>> k = BitVec.ofNat 64 (a.toNat / 2 ^ k) := by
  have h : a.toNat / 2 ^ k < 2 ^ 64 := lt_of_le_of_lt (Nat.div_le_self _ _) a.isLt
  apply BitVec.eq_of_toNat_eq
  rw [BitVec.toNat_ushiftRight, Nat.shiftRight_eq_div_pow, BitVec.toNat_ofNat, Nat.mod_eq_of_lt h]

theorem word_sshiftRight (a : Word) (k : Nat) : a.sshiftRight k = BitVec.ofInt 64 (a.toInt / 2 ^ k) := by
  rw [BitVec.sshiftRight, Int.shiftRight_eq_div_pow]
  norm_cast

theorem boolWord_slt (a b : Word) : boolWord (a.slt b) = if a.toInt < b.toInt then 1 else 0 := by
  simp [boolWord, BitVec.slt]

theorem boolWord_ult (a b : Word) : boolWord (a.ult b) = if a.toNat < b.toNat then 1 else 0 := by
  simp [boolWord, BitVec.ult]

/-- The count of ones goes bit by bit. -/
theorem popCount_countP (x n : Nat) : popCount x n = (List.range n).countP fun i => x.testBit i := by
  induction n with
  | zero => rfl
  | succ n ih => rw [popCount, ih, List.range_succ, List.countP_append, List.countP_singleton]; rfl

/-- Scanning the bits upward, the last one found is the highest. -/
theorem clzScan_eq (x n : Nat) : (List.range n).foldl (fun c i => if x.testBit i then 63 - i else c) 64 =
    if x % 2 ^ n = 0 then 64 else 63 - (x % 2 ^ n).log2 := by
  induction n with
  | zero => simp [Nat.mod_one]
  | succ n ih =>
    rw [List.range_succ, List.foldl_append, ih, Nat.mod_pow_succ, ← Nat.toNat_testBit, List.foldl_cons, List.foldl_nil]
    cases h : x.testBit n with
    | false => simp
    | true =>
      have hlt := Nat.mod_lt x (Nat.two_pow_pos n)
      have hne : x % 2 ^ n + 2 ^ n ≠ 0 := by positivity
      have hlog : (x % 2 ^ n + 2 ^ n).log2 = n := by
        rw [Nat.log2_eq_iff hne, Nat.pow_succ]
        omega
      simp [hlog]

theorem clzWord_eq (a : Word) : clzWord a = if a = 0 then 64 else 63 - a.toNat.log2 := by
  have h := clzScan_eq a.toNat 64
  rw [Nat.mod_eq_of_lt a.isLt] at h
  rw [clzWord]
  refine h.trans ?_
  have h0 : a.toNat = 0 ↔ a = 0 := by rw [← BitVec.toNat_inj]; rfl
  simp only [h0]

/-! ### Replacing a field -/

/-- A bit of a word with a field replaced. -/
theorem getLsbD_setBf {w : Nat} (v : BitVec w) (hi lo x i : Nat) (hl : lo ≤ hi) :
    (setBf v hi lo x).getLsbD i = if lo ≤ i ∧ i ≤ hi then decide (i < w) && x.testBit (i - lo) else v.getLsbD i := by
  have hw : v.getLsbD i = true → i < w := BitVec.lt_of_getLsbD
  have hin : (decide (i ≥ lo) && decide (i - lo < hi - lo + 1)) = decide (lo ≤ i ∧ i ≤ hi) := by
    rw [← Bool.decide_and, decide_eq_decide]
    omega
  simp only [setBf, BitVec.getLsbD_or, BitVec.getLsbD_and, BitVec.getLsbD_not, BitVec.getLsbD_ofNat, Nat.testBit_shiftLeft,
    Nat.testBit_mod_two_pow, Nat.testBit_two_pow_sub_one, ← Bool.and_assoc (decide (i ≥ lo)), hin]
  by_cases h : lo ≤ i ∧ i ≤ hi
  · rw [if_pos h, decide_eq_true h]
    cases decide (i < w) <;> simp
  · rw [if_neg h, decide_eq_false h]
    cases hv : v.getLsbD i
    · simp
    · simp [hw hv]

theorem byteOf_getLsbD {w : Nat} (v : BitVec w) (i k : Nat) : (byteOf v i).getLsbD k = (decide (k < 8) && v.getLsbD (8 * i + k)) := by
  rw [byteOf, BitVec.getLsbD_ofNat, Nat.testBit_shiftRight, BitVec.getLsbD]

theorem testBit_bf {w : Nat} (v : BitVec w) (hi lo i : Nat) : (bf v hi lo).testBit i = (decide (i < hi - lo + 1) && v.getLsbD (lo + i)) := by
  rw [bf, Nat.testBit_mod_two_pow, Nat.testBit_shiftRight, BitVec.getLsbD]

/-- Bytes of a word in which bytes `n` to `m` were replaced. -/
theorem byteOf_setBf {w : Nat} (v : BitVec w) (n m x i : Nat) (hm : n ≤ m) (hw : 8 * m + 8 ≤ w) :
    byteOf (setBf v (8 * m + 7) (8 * n) x) i = if n ≤ i ∧ i ≤ m then BitVec.ofNat 8 (x >>> (8 * (i - n))) else byteOf v i := by
  apply BitVec.eq_of_getLsbD_eq
  intro k hk
  rw [byteOf_getLsbD, getLsbD_setBf _ _ _ _ _ (by omega)]
  by_cases h : n ≤ i ∧ i ≤ m
  · have h1 : 8 * n ≤ 8 * i + k ∧ 8 * i + k ≤ 8 * m + 7 := by omega
    have h2 : 8 * i + k < w := by omega
    have h3 : 8 * i + k - 8 * n = 8 * (i - n) + k := by omega
    rw [if_pos h1, if_pos h, h3]
    rw [BitVec.getLsbD_ofNat, Nat.testBit_shiftRight, decide_eq_true h2, decide_eq_true hk, Bool.true_and]
  · have h1 : ¬ (8 * n ≤ 8 * i + k ∧ 8 * i + k ≤ 8 * m + 7) := by omega
    rw [if_neg h1, if_neg h, byteOf_getLsbD]

/-- A byte of a field that starts at a byte. -/
theorem ofNat_bf_byte {w : Nat} (v : BitVec w) (i : Nat) : BitVec.ofNat 8 (bf v (8 * i + 7) (8 * i)) = byteOf v i := by
  apply BitVec.eq_of_getLsbD_eq
  intro k hk
  rw [byteOf_getLsbD, BitVec.getLsbD_ofNat, testBit_bf]
  simp [hk]

/-- Merging takes the bytes under the mask from the new line and the others from the old one. -/
theorem byteOf_mergeBytes (old v : Line) (be : BitVec 64) {i : Nat} (hi : i < 64) :
    byteOf (mergeBytes old v be) i = if be.getLsbD i then byteOf v i else byteOf old i := by
  have key (n : Nat) (hn : n ≤ 64) : byteOf ((List.range n).foldl (fun a i => if bt be i then
      setBf a (8 * i + 7) (8 * i) (bf v (8 * i + 7) (8 * i)) else a) old) i = if i < n ∧ be.getLsbD i then byteOf v i else byteOf old i := by
    induction n with
    | zero => simp
    | succ n ih =>
      rw [List.range_succ, List.foldl_append, List.foldl_cons, List.foldl_nil]
      have hb : bt be n = be.getLsbD n := rfl
      by_cases hin : i = n
      · subst hin
        rw [hb]
        cases hbe : be.getLsbD i
        · simpa [hbe] using ih (by omega)
        · rw [if_pos rfl, byteOf_setBf _ _ _ _ _ (le_refl _) (by omega), if_pos ⟨le_refl _, le_refl _⟩]
          simp [ofNat_bf_byte]
      · have hlt : i < n + 1 ↔ i < n := by omega
        simp only [hb, hlt, ← ih (by omega)]
        split
        · rw [byteOf_setBf _ _ _ _ _ (le_refl _) (by omega), if_neg (by omega)]
        · rfl
  rw [mergeBytes, key 64 (le_refl _)]
  simp [hi]

end Sys2Proof.Machine
end

section
/-! The media port of a line (R24). -/

namespace Sys2Proof.Machine

/-- The media port map is read at maddr[10:8]. -/
theorem State.mpOf_eq (s : State) (a : BitVec 46) :
    s.mpOf a = smGet (fun i => Fin.ofNat 8 i) s.mpMap (a.toNat / 2 ^ 8 % 2 ^ 3) := by
  rw [State.mpOf, bf, Nat.shiftRight_eq_div_pow]

/-- Settles O56: the map's key is a function of the 256-byte block of the maddr. -/
theorem mediaPortOfALine : Obligations.MediaPortOfALine := by
  unfold Obligations.MediaPortOfALine
  intro s a b
  refine ⟨s.mpOf_eq a, fun h => ?_⟩
  rw [State.mpOf_eq, State.mpOf_eq]
  exact congrArg (fun k => smGet _ s.mpMap (k % 2 ^ 3)) h

end Sys2Proof.Machine
end

section
/-! The integer instructions on registers (Table 7.9, R233). -/

namespace Sys2Proof.Machine

/-- A command whose instruction acts on its thread alone, and whose last act is to write `v` to rd. -/
theorem Gives.of_writes {c : Instr} {s : State} {t : Thr} {o : Op} {w : Reg32} {f : Thread → State → Res} {rd : Nat} {v : Word}
    (hc : exec c s = .next (s.issue t o w f)) (hq : o.quiet = true) (h : Issues s t o w)
    (hf : f (s.thr t) s = .next (s.setRd t rd v)) (hp : Passes s t ((s.thr t).pc + 1)) :
    Gives c s s t rd v ((s.thr t).pc + 1) := by
  obtain ⟨x, hx, hu⟩ := State.issue_writes h hf rfl hp
  rw [hq, if_pos rfl] at hx
  exact ⟨x, by rw [hc, hx], hu⟩

/-- A format R instruction that issues gives its function of rs1 and rs2. -/
theorem Gives.of_aluR {c : Instr} {s : State} {t : Thr} {o : Op} {w : Reg32} {f : Word → Word → Word} {v : Word}
    (hc : exec c s = .next (s.aluR t o w f)) (hq : o.quiet = true) (hp : Passes s t ((s.thr t).pc + 1))
    (hv : f ((s.thr t).reg (bf w 20 16)) ((s.thr t).reg (bf w 15 11)) = v) (h : Issues s t o w) :
    Gives c s s t (bf w 25 21) v ((s.thr t).pc + 1) :=
  Gives.of_writes hc hq h (hv ▸ rfl) hp

/-- HSLOT gives the home slot of the sector of rs1[39:0] and its node (R23). -/
theorem State.hslotWord_eq (s : State) (a : Word) {h : Nat} (hh : h = homeSlot (a.toNat % 2 ^ 40 / 4)) :
    s.hslotWord a = BitVec.ofNat 64 (h + 256 * (s.slotNode h).val) := by
  have hsec : bf a 39 2 = a.toNat % 2 ^ 40 / 4 := by rw [bf]; omega
  rw [hh, State.hslotWord, hsec, Nat.mul_comm 256]
  rfl

/-- Settles O5: each row is `aluR` at its function, whose value is the one Table 7.9 gives. -/
theorem integerRegisterForms : Obligations.IntegerRegisterForms := by
  unfold Obligations.IntegerRegisterForms
  rintro s t w a b rd pc rfl rfl rfl rfl hp
  refine ⟨.of_aluR rfl rfl hp (word_add _ _), .of_aluR rfl rfl hp (word_sub _ _), .of_aluR rfl rfl hp rfl, .of_aluR rfl rfl hp rfl,
    .of_aluR rfl rfl hp rfl, .of_aluR rfl rfl hp (word_shiftLeft _ _), .of_aluR rfl rfl hp (word_ushiftRight _ _),
    .of_aluR rfl rfl hp (word_sshiftRight _ _), .of_aluR rfl rfl hp (boolWord_slt _ _), .of_aluR rfl rfl hp (boolWord_ult _ _),
    .of_aluR rfl rfl hp (word_mul _ _), fun h hh => .of_aluR rfl rfl hp (s.hslotWord_eq _ hh),
    .of_aluR rfl rfl hp (congrArg _ (popCount_countP _ _)), .of_aluR rfl rfl hp (congrArg _ (clzWord_eq _)),
    fun h => .of_writes rfl rfl h rfl hp⟩

end Sys2Proof.Machine
end

section
/-! Rules that the array and SEND instructions of an engine share: rewriting a node, an intact tracker word, and how an instruction
of an engine issues. -/

namespace Sys2Proof.Machine

/-! ### Rewriting a node -/

/-- Of two writes of one key the later one holds. -/
theorem smSet_smSet {α : Type} [DecidableEq α] (d : Nat → α) (m : SMap α) (k : Nat) (u v : α) :
    smSet d (smSet d m k u) k v = smSet d m k v := by
  have hdrop : smDrop (smSet d m k u) k = smDrop m k := by
    have hins (l : SMap α) : smDrop (smIns k u l) k = smDrop l k := by
      induction l with
      | nil => simp [smIns, smDrop]
      | cons e l ih =>
        rw [smIns]
        split
        · simp [smDrop]
        · simp only [smDrop, List.filter_cons] at ih ⊢
          rw [ih]
    have htwice : smDrop (smDrop m k) k = smDrop m k := by simp [smDrop]
    rw [smSet]
    split
    · exact htwice
    · rw [hins, htwice]
  rw [smSet, hdrop, smSet]

theorem State.nd_modNd (s : State) (n m : NodeId) (f : Node → Node) :
    (s.modNd n f).nd m = if m = n then f (s.nd n) else s.nd m := State.nd_setNd s n m _

@[simp] theorem State.nd_modNd_self (s : State) (n : NodeId) (f : Node → Node) : (s.modNd n f).nd n = f (s.nd n) := by
  simp [State.nd_modNd]

@[simp] theorem Node.setTrk_core (x : Node) (k : Nat) (r : Trk) : (x.setTrk k r).core = x.core := rfl
@[simp] theorem Node.setLb_core (x : Node) (e : Nat) (b : Lbe) : (x.setLb e b).core = x.core := rfl
@[simp] theorem Node.trkAt_setLb (x : Node) (e k : Nat) (b : Lbe) : (x.setLb e b).trkAt k = x.trkAt k := rfl

/-- Two changes of a node are one. -/
theorem State.modNd_modNd (s : State) (n : NodeId) (f g : Node → Node) : (s.modNd n f).modNd n g = s.modNd n fun y => g (f y) := by
  have hset (x y : Node) : (s.setNd n x).setNd n y = s.setNd n y := by
    simp only [State.setNd, smSet_smSet]
  rw [State.modNd, State.nd_modNd_self, State.modNd, hset]
  rfl

/-- A change of a node is what it makes of that node. -/
theorem State.modNd_congr {s : State} {n : NodeId} {f g : Node → Node} (h : f (s.nd n) = g (s.nd n)) : s.modNd n f = s.modNd n g :=
  congrArg (s.setNd n) h

theorem State.modTrk_modTrk (s : State) (n : NodeId) (k : Nat) (f g : Trk → Trk) :
    (s.modTrk n k f).modTrk n k g = s.modTrk n k fun r => g (f r) := by
  rw [State.modTrk, State.modTrk, State.modNd_modNd]
  refine State.modNd_congr ?_
  simp only [Node.trkAt, Node.setTrk, smGet_smSet_self, smSet_smSet]

/-- A change that leaves the core of its node leaves every thread. -/
theorem State.modNd_thr {s : State} {n : NodeId} {f : Node → Node} (h : (f (s.nd n)).core = (s.nd n).core) (t : Thr) :
    (s.modNd n f).thr t = s.thr t := by
  have hcore : (s.modNd n f).core t.core = s.core t.core := by
    cases hc : t.core with
    | chervil => rfl
    | node m =>
      simp only [State.core, State.nd_modNd]
      split
      · next hm => rw [h, hm]
      · rfl
  rw [State.thr, State.thr, hcore]

@[simp] theorem State.modTrk_thr (s : State) (n : NodeId) (k : Nat) (f : Trk → Trk) (t : Thr) : (s.modTrk n k f).thr t = s.thr t :=
  State.modNd_thr rfl t

/-! ### Intact words and entries -/

/-- An intact tracker word is neither corrected nor uncorrectable (R188). -/
theorem State.trkCheck_intact {s : State} {n : NodeId} {k i : Nat} (h : smGet (fun _ => (0 : BitVec 8)) ((s.nd n).trkAt k).syn i = 0) :
    s.trkCheck n k [i] = (false, s) := by
  simp only [State.trkCheck, List.foldl_cons, List.foldl_nil, h]
  rfl

/-- A field of an intact tracker word is updated. -/
theorem State.updTrk_intact {s : State} {n : NodeId} {k i : Nat} (h : smGet (fun _ => (0 : BitVec 8)) ((s.nd n).trkAt k).syn i = 0)
    (f : Trk → Trk) : s.updTrk n k i f = s.modTrk n k f := by
  simp [State.updTrk, State.trkCheck_intact h]

/-- An intact line-buffer entry reads as it is stored. -/
theorem State.lbGet_intact {s : State} {n : NodeId} {e : Nat} (h : ((s.nd n).lbAt e).parBad = 0) :
    s.lbGet n e = ((s.nd n).lbAt e, s) := by simp [State.lbGet, h]

/-- Entries that the bound tracker owns raise no STATE trap (R238). -/
theorem State.lbState_owned {s : State} {n : NodeId} {x : Thread} {k : Nat} {es : List Nat} (hx : x.trk = some k)
    (h : ∀ e ∈ es, ((s.nd n).lbAt e).own = some k) : s.lbState n x es = none := by
  simpa [State.lbState, hx] using h

theorem needTrk_bound {x : Thread} {k : Nat} (h : x.trk = some k) : needTrk x = none := by simp [needTrk, h]

/-! ### The issue of an engine's instruction -/

theorem State.issueN_node {s : State} {t : Thr} {n : NodeId} (h : t.core = .node n) (o : Op) (w : Reg32)
    (f : NodeId → Thread → State → Res) : s.issueN t o w f = s.issue t o w (f n) := by
  simp only [State.issueN, h]

/-- A command whose row is an instruction of an engine. -/
theorem exec_issueN {c : Instr} {s : State} {t : Thr} {o : Op} {w : Reg32} {f : NodeId → Thread → State → Res}
    (hc : exec c s = .next (s.issueN t o w f)) {n : NodeId} (h : t.core = .node n) : exec c s = .next (s.issue t o w (f n)) := by
  rw [hc, State.issueN_node h]

/-- An instruction that ends with `y`, which differs from `u` in the thread alone. -/
theorem GivesOn.of_passes {c : Instr} {s u y : State} {t : Thr} {o : Op} {w : Reg32} {f : Thread → State → Res} {rd : Nat} {v : Word}
    (hc : exec c s = .next (s.issue t o w f)) (hq : o.quiet = false) (h : Issues s t o w) (hf : f (s.thr t) s = .next y)
    (hy : OnlyThread u y t) (hx : y.thr t = (u.thr t).setReg rd v) (hp : Passes s t ((s.thr t).pc + 1))
    (hu : Passes u t ((s.thr t).pc + 1)) : GivesOn c s u t rd v ((s.thr t).pc + 1) := by
  refine ⟨(y.account t).goto t (s.thr t).pc ((s.thr t).pc + 1), ?_, State.finish_to rfl hy hx hu⟩
  rw [State.issue_on hc hq h hf, State.finish, hp.last, if_neg Bool.false_ne_true]

/-- An instruction that writes no register and leaves its thread to the issue. -/
theorem GivesOn.of_silent {c : Instr} {s u : State} {t : Thr} {o : Op} {w : Reg32} {f : Thread → State → Res} {v : Word}
    (hc : exec c s = .next (s.issue t o w f)) (hq : o.quiet = false) (h : Issues s t o w) (hf : f (s.thr t) s = .next u)
    (hp : Passes s t ((s.thr t).pc + 1)) (hu : Passes u t ((s.thr t).pc + 1)) : GivesOn c s u t 0 v ((s.thr t).pc + 1) :=
  .of_passes hc hq h hf (.refl u t) (Thread.setReg_zero _ _).symm hp hu

/-- Where control may pass is told by the thread alone. -/
theorem Passes.of_thr {s u : State} {t : Thr} {pc : Nat} (h : Passes s t pc) (hu : u.thr t = s.thr t) : Passes u t pc :=
  ⟨h.1, hu ▸ h.2⟩

/-- An instruction that waits for a thing to come is not counted: it issues again (R231). -/
theorem State.issue_again {c : Instr} {s : State} {t : Thr} {o : Op} {w : Reg32} {f : Thread → State → Res} {why : Stall}
    (hc : exec c s = .next (s.issue t o w f)) (hq : o.quiet = false) (h : Issues s t o w)
    (hf : f (s.thr t) s = .stall s (.again why)) :
    exec c s = .next (s.modThr t fun x => { x with st := .stalled, pend := .again why, via := none }).goOn := by
  rw [State.issue_on hc hq h hf]
  simp [State.finish]

end Sys2Proof.Machine
end

section
/-! The line-buffer instructions (Table 7.11, R18, R237, R238). -/

namespace Sys2Proof.Machine

/-! ### Eight bytes of an entry -/

/-- LBLD reads field `[64 j + 63 : 64 j]` of an entry. -/
theorem ofNat_bf_word (d : Line) (j : Nat) : BitVec.ofNat 64 (bf d (64 * j + 63) (64 * j)) = BitVec.ofNat 64 (d.toNat / 2 ^ (64 * j)) := by
  have hw : 64 * j + 63 - 64 * j + 1 = 64 := by omega
  apply BitVec.eq_of_toNat_eq
  rw [bf, hw, Nat.shiftRight_eq_div_pow, BitVec.toNat_ofNat, BitVec.toNat_ofNat, Nat.mod_mod]

/-- LBST replaces eight bytes of an entry. -/
theorem byteOf_setWord (d : Line) (v : Word) {j i : Nat} (hj : j < 8) :
    byteOf (setBf d (64 * j + 63) (64 * j) v.toNat) i = if i / 8 = j then byteOf v (i % 8) else byteOf d i := by
  have hset := byteOf_setBf d (8 * j) (8 * j + 7) v.toNat i (by omega) (by omega)
  rw [show 8 * (8 * j + 7) + 7 = 64 * j + 63 by omega, show 8 * (8 * j) = 64 * j by omega] at hset
  have hin : (8 * j ≤ i ∧ i ≤ 8 * j + 7) ↔ i / 8 = j := by omega
  rw [hset]
  by_cases h : i / 8 = j
  · rw [if_pos (hin.mpr h), if_pos h, byteOf, show i - 8 * j = i % 8 by omega]
  · rw [if_neg (mt hin.mp h), if_neg h]

/-- LBST sets the mask bits of the eight bytes it replaces. -/
theorem getLsbD_setMask (m : BitVec 64) {j i : Nat} (hi : i < 64) :
    (setBf m (8 * j + 7) (8 * j) 255).getLsbD i = (decide (i / 8 = j) || m.getLsbD i) := by
  have hin : (8 * j ≤ i ∧ i ≤ 8 * j + 7) ↔ i / 8 = j := by omega
  have h255 : ∀ b < 8, Nat.testBit 255 b = true := by decide
  rw [getLsbD_setBf _ _ _ _ _ (by omega)]
  by_cases h : i / 8 = j
  · rw [if_pos (hin.mpr h), h255 _ (by omega)]
    simp [h, hi]
  · rw [if_neg (mt hin.mp h)]
    simp [h]

/-! ### An instruction on one entry -/

section OneEntry

variable {c : Instr} {s : State} {t : Thr} {o : Op} {w : Reg32} {n : NodeId} {k d : Nat} {a : Lbe} {f : Thread → Lbe → Word × Lbe}
  (ht : t.core = .node n) (hk : (s.thr t).trk = some k) (hd : d = bf ((s.thr t).reg (bf w 20 16)) 8 0) (ha : a = (s.nd n).lbAt d)
  (ho : a.own = some k) (hpar : a.parBad = 0) (hq : o.quiet = false) (hp : Passes s t ((s.thr t).pc + 1)) (hi : Issues s t o w)
include ht hk hd ha ho hpar hq hp hi

/-- An instruction on an intact entry of the bound tracker that yields a value for rd. -/
theorem GivesOn.of_lbOne (hc : exec c s = .next (s.lbOne t o w true f)) :
    GivesOn c s (s.modNd n fun y => y.setLb d (f (s.thr t) a).2) t (bf w 25 21) (f (s.thr t) a).1 ((s.thr t).pc + 1) := by
  subst ha hd
  refine GivesOn.of_writes (exec_issueN hc ht) hq hi ?_ (State.modNd_thr rfl t) hp
  simp only [iRs1, State.lbState_owned hk (List.forall_mem_singleton.mpr ho), State.lbGet_intact hpar]
  rfl

/-- The same where the instruction only changes the entry. -/
theorem GivesOn.of_lbOne_silent {v : Word} (hc : exec c s = .next (s.lbOne t o w false f)) :
    GivesOn c s (s.modNd n fun y => y.setLb d (f (s.thr t) a).2) t 0 v ((s.thr t).pc + 1) := by
  subst ha hd
  refine GivesOn.of_silent (exec_issueN hc ht) hq hi ?_ hp (hp.of_thr (State.modNd_thr rfl t))
  simp only [iRs1, State.lbState_owned hk (List.forall_mem_singleton.mpr ho), State.lbGet_intact hpar]
  rfl

end OneEntry

/-! ### Merging, freeing and allocating -/

/-- LBM of two intact entries of the bound tracker. -/
theorem execLbm_gives {s : State} {t : Thr} {w : Reg32} {n : NodeId} {k d e : Nat} {a b : Lbe} (ht : t.core = .node n)
    (hk : (s.thr t).trk = some k) (hd : d = bf ((s.thr t).reg (bf w 20 16)) 8 0) (ha : a = (s.nd n).lbAt d) (hao : a.own = some k)
    (hap : a.parBad = 0) (he : e = bf ((s.thr t).reg (bf w 15 11)) 8 0) (hb : b = (s.nd n).lbAt e) (hbo : b.own = some k)
    (hbp : b.parBad = 0) (hp : Passes s t ((s.thr t).pc + 1)) (hi : Issues s t .lbm w) :
    GivesOn (.lbm t w) s (s.modNd n fun y => y.setLb d
      { a with data := mergeBytes b.data a.data a.mask, mask := BitVec.allOnes 64, poison := a.poison || b.poison }) t 0 0
      ((s.thr t).pc + 1) := by
  subst ha hb hd he
  refine GivesOn.of_silent (exec_issueN rfl ht) rfl hi ?_ hp (hp.of_thr (State.modNd_thr rfl t))
  simp only [iRs1, iRs2, State.lbState_owned hk (List.forall_mem_cons.mpr ⟨hao, List.forall_mem_singleton.mpr hbo⟩),
    State.lbGet_intact hap, State.lbGet_intact hbp]
  rfl

/-- What LBF of entry `d` makes of its node: the entry is zero, and LBUF_V of tracker `k` falls when its LBUF names the entry. -/
def Node.dropLb (y : Node) (k d : Nat) : Node :=
  let z := y.setLb d {}
  if (y.trkAt k).lbuf = d then z.setTrk k ((y.trkAt k).setW2 32 32 0) else z

theorem Node.dropLb_core (y : Node) (k d : Nat) : (y.dropLb k d).core = y.core := by
  unfold Node.dropLb
  dsimp only
  split <;> simp

/-- Freeing the entry and then clearing LBUF_V of an intact word 2. -/
theorem State.dropLb_steps {s : State} {n : NodeId} {k d : Nat}
    (hsyn : smGet (fun _ => (0 : BitVec 8)) ((s.nd n).trkAt k).syn 2 = 0) {u : State} (hu : u = s.modNd n fun y => y.setLb d {}) :
    (if ((u.nd n).trkAt k).lbuf = d then u.updTrk n k 2 fun r => r.setW2 32 32 0 else u) = s.modNd n fun y => y.dropLb k d := by
  have htrk : (u.nd n).trkAt k = (s.nd n).trkAt k := by simp [hu]
  rw [htrk]
  split
  · next h =>
    rw [State.updTrk_intact (htrk.symm ▸ hsyn), State.modTrk, hu, State.modNd_modNd]
    exact State.modNd_congr (by simp [Node.dropLb, h])
  · next h => exact hu.trans (State.modNd_congr (by simp [Node.dropLb, h]))

/-- LBF of an entry of the bound tracker. -/
theorem execLbf_gives {s : State} {t : Thr} {w : Reg32} {n : NodeId} {k d : Nat} (ht : t.core = .node n)
    (hk : (s.thr t).trk = some k) (hd : d = bf ((s.thr t).reg (bf w 20 16)) 8 0) (ho : ((s.nd n).lbAt d).own = some k)
    (hsyn : smGet (fun _ => (0 : BitVec 8)) ((s.nd n).trkAt k).syn 2 = 0) (hp : Passes s t ((s.thr t).pc + 1))
    (hi : Issues s t .lbf w) : GivesOn (.lbf t w) s (s.modNd n fun y => y.dropLb k d) t 0 0 ((s.thr t).pc + 1) := by
  subst hd
  refine GivesOn.of_silent (exec_issueN rfl ht) rfl hi ?_ hp (hp.of_thr
    (State.modNd_thr (f := fun y => y.dropLb k (bf ((s.thr t).reg (bf w 20 16)) 8 0)) (Node.dropLb_core _ _ _) t))
  simp only [iRs1, State.lbState_owned hk (List.forall_mem_singleton.mpr ho), hk]
  rw [← State.dropLb_steps hsyn rfl]
  rfl

theorem Node.giveLb_core (y : Node) (k e : Nat) : (y.giveLb k e).core = y.core := by
  unfold Node.giveLb
  dsimp only
  split <;> simp

/-- LBA with a free entry. -/
theorem execLba_free {s : State} {t : Thr} {w : Reg32} {n : NodeId} {k e : Nat} (ht : t.core = .node n)
    (hk : (s.thr t).trk = some k) (he : (s.nd n).freeLb = some e) (hp : Passes s t ((s.thr t).pc + 1)) (hi : Issues s t .lba w) :
    GivesOn (.lba t w) s (s.modNd n fun y => y.giveLb k e) t (bf w 25 21) (BitVec.ofNat 64 e) ((s.thr t).pc + 1) := by
  refine GivesOn.of_writes (exec_issueN rfl ht) rfl hi ?_
    (State.modNd_thr (f := fun y => y.giveLb k e) (Node.giveLb_core _ _ _) t) hp
  simp only [needTrk_bound hk, hk, he]
  rfl

/-- What LBA without a free entry makes of its node: tracker `k` waits for one. -/
def Node.awaitLb (y : Node) (k : Nat) : Node :=
  { y.setTrk k { y.trkAt k with lbWant := true, lbGot := false } with lbWait := y.lbWait ++ [k] }

/-- LBA with no free entry notes that the flow waits for one. -/
theorem execLba_none {s : State} {t : Thr} {w : Reg32} {n : NodeId} {k : Nat} (ht : t.core = .node n)
    (hk : (s.thr t).trk = some k) (he : (s.nd n).freeLb = none) (hw : k ∉ (s.nd n).lbWait) (hp : Passes s t ((s.thr t).pc + 1))
    (hi : Issues s t .lba w) :
    GivesOn (.lba t w) s (s.modNd n fun y => y.awaitLb k) t (bf w 25 21) topBit ((s.thr t).pc + 1) := by
  have hthr : (s.modNd n fun y => y.awaitLb k).thr t = s.thr t := State.modNd_thr rfl t
  have hcnt := State.cntN_counted (s.modNd n fun y => y.awaitLb k) n 0x015 1
  refine GivesOn.of_ends (y := ((s.modNd n fun y => y.awaitLb k).cntN n 0x015 1).setRd t (bf w 25 21) topBit) (exec_issueN rfl ht)
    rfl hi ?_ hthr ((hcnt.only t).trans (State.modThr_only _ _ _)) (by rw [State.setRd_thr, hcnt.thr]) hp
  have hcon : ((s.nd n).setTrk k { (s.nd n).trkAt k with lbWant := true, lbGot := false }).lbWait.contains k = false := by
    simpa [Node.setTrk] using hw
  have hnode : (s.modNd n fun y =>
      let y := y.setTrk k { y.trkAt k with lbWant := true, lbGot := false }
      if y.lbWait.contains k then y else { y with lbWait := y.lbWait ++ [k] }) = s.modNd n fun y => y.awaitLb k :=
    State.modNd_congr (by simp only [hcon, Bool.false_eq_true, if_false]; rfl)
  simp only [needTrk_bound hk, hk, he]
  rw [← hnode]
  rfl

/-- Settles O17, row by row. -/
theorem lineBuffer : Obligations.LineBuffer := by
  unfold Obligations.LineBuffer
  rintro s n t w x k d j pc rd a ht rfl hk hd ha rfl rfl rfl hp
  refine ⟨fun ho hpar => ⟨?_, ?_, ?_, ?_, ?_, ?_⟩, fun hi => ⟨?_, ?_⟩⟩
  · intro hi e b he hb hbo hbp
    exact ⟨mergeBytes b.data a.data a.mask, fun i h => byteOf_mergeBytes _ _ _ h,
      execLbm_gives ht hk hd ha ho hpar he hb hbo hbp hp hi⟩
  · exact fun hi hsyn => execLbf_gives ht hk hd (ha ▸ ho) hsyn hp hi
  · intro hi
    rw [← ofNat_bf_word]
    exact .of_lbOne (f := fun _ b => (BitVec.ofNat 64 (bf b.data (64 * bf w 13 11 + 63) (64 * bf w 13 11)), b)) ht hk hd ha ho hpar
      rfl hp hi rfl
  · intro hi
    refine ⟨_, .of_lbOne_silent ht hk hd ha ho hpar rfl hp hi rfl, rfl, fun i h => ⟨?_, ?_⟩⟩
    · exact byteOf_setWord _ _ (Nat.mod_lt _ (by decide))
    · exact getLsbD_setMask _ h
  · exact fun hi => .of_lbOne (f := fun _ b => (b.mask, b)) ht hk hd ha ho hpar rfl hp hi rfl
  · exact fun hi => .of_lbOne (f := fun _ b => (BitVec.ofNat 64 (2 * b2n b.landed + b2n b.poison), b)) ht hk hd ha ho hpar rfl hp hi
      rfl
  · intro e he
    obtain ⟨hown, -, hlt, -⟩ := firstFrom_some he
    exact ⟨Option.isNone_iff_eq_none.mp hown, by omega, execLba_free ht hk he hp hi⟩
  · intro hall hw
    have he : (s.nd n).freeLb = none :=
      firstFrom_none.mpr fun i _ h => Option.isNone_eq_false_iff.mpr (Option.isSome_iff_ne_none.mpr (hall i (by omega)))
    exact execLba_none ht hk he hw hp hi

end Sys2Proof.Machine
end

section
/-! PLK (R244): errors below FATAL leave every thread as it was, what a lookup in the placement cache changes, and the lookup's three
outcomes. -/

namespace Sys2Proof.Machine

/-! ### Threads that a noted error leaves -/

/-- Nodes and Chervil's core hold every thread. -/
theorem State.thr_of_cores {s u : State} (hn : u.node = s.node) (hc : u.chv = s.chv) (k : Thr) : u.thr k = s.thr k := by
  have hcore : u.core k.core = s.core k.core := by
    cases k.core with
    | chervil => exact hc
    | node n => simp only [State.core, State.nd, hn]
  rw [State.thr, State.thr, hcore]

theorem State.pushRec_thr (s : State) (kind cls payload : Nat) (k : Thr) : (s.pushRec kind cls payload).thr k = s.thr k := by
  unfold State.pushRec
  exact State.thr_of_cores (by split <;> rfl) (by split <;> rfl) k

theorem State.dropRec_thr (s : State) (k : Thr) : s.dropRec.thr k = s.thr k := State.thr_of_cores rfl rfl k

theorem State.dropped_thr (s : State) (k : Thr) : s.dropped.thr k = s.thr k := by
  unfold State.dropped
  split
  · rfl
  · exact (State.thr_of_cores rfl rfl k).trans (s.pushRec_thr 0x07 0 s.evDrops.toNat k)

theorem State.record_thr (s : State) (kind cls payload : Nat) (k : Thr) : (s.record kind cls payload).thr k = s.thr k := by
  have hd (u : State) : u.dropRec.dropped.thr k = u.thr k := (State.dropped_thr _ k).trans (u.dropRec_thr k)
  have hput (u : State) (c : Prop) [Decidable c] : (if c then u.pushRec kind cls payload else u.dropRec.dropped).thr k = u.thr k := by
    split
    · exact u.pushRec_thr _ _ _ k
    · exact hd u
  unfold State.record
  dsimp only
  split
  · rfl
  · split
    · exact hd s
    · exact (hput _ _).trans (s.dropped_thr k)

theorem State.setMode_thr (s : State) (m : Mode) (k : Thr) : (s.setMode m).thr k = s.thr k := by
  unfold State.setMode
  dsimp only
  split
  · rfl
  · split
    · exact State.thr_of_cores rfl rfl k
    · rw [(State.chvEvent_counted _ _ _).thr, State.record_thr]
      exact State.thr_of_cores rfl rfl k

theorem State.degrade_thr (s : State) (k : Thr) : s.degrade.thr k = s.thr k := by
  unfold State.degrade
  split
  · split
    · exact s.setMode_thr _ k
    · rfl
  · split
    · rfl
    · exact s.setMode_thr _ k
  · rfl

theorem State.raiseNote_thr (s : State) (a i : Nat) (own : Bool) (k : Thr) : (s.raiseNote a i own).thr k = s.thr k := by
  have hrec (u : State) (c : Prop) [Decidable c] (kind cls payload : Nat) :
      (if c then u else u.record kind cls payload).thr k = u.thr k := by
    split
    · rfl
    · exact u.record_thr _ _ _ k
  have hevt (u : State) (c : Prop) [Decidable c] (e d : Nat) : (if c then u.chvEvent e d else u).thr k = u.thr k := by
    split
    · exact (u.chvEvent_counted e d).thr k
    · rfl
  exact (hevt _ _ _ _).trans ((hrec _ _ _ _ _).trans (State.thr_setFld ..))

/-- An error below FATAL leaves every thread as it was (R392, R444). -/
theorem State.raiseK_thr {a i : Nat} (h : errClass a i ≠ 4) (s : State) (own : Bool) (k : Thr) : (s.raiseK a i own).thr k = s.thr k := by
  unfold State.raiseK
  dsimp only
  split
  · rfl
  · rw [if_neg fun hc => h hc.1, State.degrade_thr, State.raiseNote_thr]

theorem State.raise_thr {a i : Nat} (h : errClass a i ≠ 4) (s : State) (k : Thr) : (s.raise a i).thr k = s.thr k :=
  s.raiseK_thr h false k

/-! ### A lookup in the placement cache -/

theorem State.wayError_thr (s : State) (i w : Nat) (k : Thr) : (s.wayError i w).thr k = s.thr k := by
  have h4 : errClass HA_XLT_ERR 4 ≠ 4 := by decide
  have h5 : errClass HA_XLT_ERR 5 ≠ 4 := by decide
  unfold State.wayError
  dsimp only
  split
  · rw [State.raise_thr h4, State.thr_setMac]
  · rw [State.record_thr, State.raiseK_thr h5, State.thr_setFld, State.thr_setMac, State.raise_thr h4, State.thr_setMac]

/-- A hit changes its cache's memory alone. -/
theorem State.plcHit_some {s y : State} {n : NodeId} {x : Nat} {e : Word} (h : s.plcHit n x = (some e, y)) :
    ∃ m, y = s.setMac (24 + n.val) m := by
  unfold State.plcHit State.macLook at h
  split at h
  · next hm =>
    split at hm
    · cases hm
    · split at hm
      · cases hm
      · cases hm; cases h; exact ⟨_, rfl⟩
  · cases h

/-- A miss leaves every thread as it was. -/
theorem State.plcHit_none {s z : State} {n : NodeId} {x : Nat} (h : s.plcHit n x = (none, z)) (k : Thr) : z.thr k = s.thr k := by
  unfold State.plcHit State.macLook at h
  split at h
  · cases h
  · next hm =>
    cases h
    split at hm
    · cases hm; rfl
    · split at hm
      · cases hm; exact s.wayError_thr _ _ k
      · cases hm

/-! ### Operands and results -/

/-- The PLA of PLK is rs1[39:0]. -/
theorem ofNat_bf_pla (v : Word) : BitVec.ofNat 40 (bf v 39 0) = v.setWidth 40 := by
  apply BitVec.eq_of_toNat_eq
  simp [bf]

/-- A present entry that is not in migration and names a frame outside the metadata frames is good (R324). -/
theorem plcFault_good {e : Word} (h0 : bt e 0 = true) (h1 : bt e 1 = false) (hf : 64 ≤ bf e 21 2) (hr : bf e 63 22 = 0) :
    plcFault e = false := by
  have h45 : bf e 45 22 = 0 := by rw [bf] at hr ⊢; omega
  have h63 : bf e 63 46 = 0 := by rw [bf] at hr ⊢; omega
  simp [plcFault, h0, h1, h45, h63, hf]

/-- The result of PLK for an entry not in migration: the maddr of the line and its media port. -/
theorem State.plcResult_still (s : State) {e : Word} {pla : BitVec 40} {a : Nat} (h1 : bt e 1 = false)
    (ha : a = bf e 21 2 * 2 ^ 26 + pla.toNat % 2 ^ 20 * 64) :
    s.plcResult e false pla = BitVec.ofNat 64 (a + (s.mpOf (BitVec.ofNat 46 a)).val * 2 ^ 48) := by
  have hlt : a < 2 ^ 46 := by
    have hf : bf e 21 2 < 2 ^ 20 := Nat.mod_lt _ (by decide)
    omega
  have hm : maddrOf (plcFrame e false) pla = BitVec.ofNat 46 a := by
    rw [maddrOf, plcFrame, Bool.and_false, if_neg Bool.false_ne_true, bf_zero_lo, ha]
  have hn : (BitVec.ofNat 46 a).toNat = a := by rw [BitVec.toNat_ofNat, Nat.mod_eq_of_lt hlt]
  simp [State.plcResult, hm, hn, h1, b2n]

/-- Counting reads no register that a placement lookup reads. -/
theorem Counted.fld {s u : State} (h : Counted s u) {a : Nat} (ha : ∀ i, a ≠ pmcHiA i) (hi lo : Nat) : u.fld a hi lo = s.fld a hi lo := by
  rw [State.fld, State.fld, h.regs a ha]

theorem HA_STRAP_ne_pmcHiA (i : PmcId) : HA_STRAP ≠ pmcHiA i := by
  cases i <;> simp only [pmcHiA, pmcSelA, ndA, HA_STRAP, HA_PMC_SEL] <;> omega

theorem HA_PLC_BASE_ne_pmcHiA (i : PmcId) : HA_PLC_BASE ≠ pmcHiA i := by
  cases i <;> simp only [pmcHiA, pmcSelA, ndA, HA_PLC_BASE, HA_PMC_SEL] <;> omega

theorem Counted.plcLine {s u : State} (h : Counted s u) (x : Nat) : u.plcLine x = s.plcLine x := by
  rw [State.plcLine, State.plcLine, h.fld HA_PLC_BASE_ne_pmcHiA]

theorem Counted.bmIn {s u : State} (h : Counted s u) (l : Nat) : u.bmIn l = s.bmIn l := by
  rw [State.bmIn, State.bmIn, State.bmBytes, State.bmBytes, h.fld HA_STRAP_ne_pmcHiA]

/-! ### The instruction -/

/-- What PLK of a thread with a bound tracker does. -/
def plkGo (t : Thr) (rd : Nat) (pla : BitVec 40) (n : NodeId) (s : State) : Res :=
  match s.plcHit n (plaExt pla) with
  | (some e, s) => s.plkEnt n t rd pla e false
  | (none, s) => (s.cntN n 0x011 1).plkRead t rd pla

section Plk

variable {s : State} {t : Thr} {w : Reg32} {n : NodeId} {k : Nat} {pla : BitVec 40}

theorem exec_plk : exec (.plk t w) s = .next (s.issueN t .plk w fun n x s =>
    checks w false false none none (needTrk x) (plkGo t (iRd w) (BitVec.ofNat 40 (bf (x.reg (iRs1 w)) 39 0)) n s)) := rfl

theorem execPlk_bound (ht : t.core = .node n) : exec (.plk t w) s = .next (s.issue t .plk w fun x s =>
    checks w false false none none (needTrk x) (plkGo t (iRd w) (BitVec.ofNat 40 (bf (x.reg (iRs1 w)) 39 0)) n s)) :=
  exec_issueN exec_plk ht

variable (ht : t.core = .node n) (hk : (s.thr t).trk = some k) (hpla : pla = ((s.thr t).reg (bf w 20 16)).setWidth 40)
include hk hpla

theorem plk_checked : checks w false false none none (needTrk (s.thr t))
    (plkGo t (iRd w) (BitVec.ofNat 40 (bf ((s.thr t).reg (iRs1 w)) 39 0)) n s) = plkGo t (bf w 25 21) pla n s := by
  rw [needTrk_bound hk, ofNat_bf_pla, iRs1, ← hpla]
  rfl

include ht

/-- PLK of a cached good entry that is not in migration. -/
theorem execPlk_hit (hi : Issues s t .plk w) (hp : Passes s t ((s.thr t).pc + 1)) {y : State} {e : Word} {a : Nat}
    (hhit : s.plcHit n (plaExt pla) = (some e, y)) (h0 : bt e 0 = true) (h1 : bt e 1 = false) (hf : 64 ≤ bf e 21 2)
    (hr : bf e 63 22 = 0) (hsyn : smGet (fun _ => (0 : BitVec 8)) ((y.nd n).trkAt k).syn 4 = 0)
    (ha : a = bf e 21 2 * 2 ^ 26 + pla.toNat % 2 ^ 20 * 64) :
    GivesOn (.plk t w) s (y.modTrk n k fun r => (r.setW4 48 29 (bf e 21 2)).setW4 49 49 0) t (bf w 25 21)
      (BitVec.ofNat 64 (a + (s.mpOf (BitVec.ofNat 46 a)).val * 2 ^ 48)) ((s.thr t).pc + 1) := by
  obtain ⟨m, hy⟩ := State.plcHit_some hhit
  have hthr : y.thr t = s.thr t := by rw [hy, State.thr_setMac]
  have hframe : plcFrame e false = bf e 21 2 := by rw [plcFrame, Bool.and_false, if_neg Bool.false_ne_true]
  have hmp : (y.modTrk n k fun r => (r.setW4 48 29 (bf e 21 2)).setW4 49 49 0).mpOf (BitVec.ofNat 46 a) = s.mpOf (BitVec.ofNat 46 a) := by
    rw [hy]
    rfl
  refine GivesOn.of_writes (execPlk_bound ht) rfl hi ?_ ((State.modTrk_thr _ _ _ _ t).trans hthr) hp
  rw [plk_checked hk hpla, plkGo, hhit]
  dsimp only
  simp only [State.plkEnt, plcFault_good h0 h1 hf hr, h1, Bool.false_eq_true, if_false, State.plkOk, hthr, hk, hframe, Bool.and_false,
    State.updTrk_intact hsyn, State.plcResult_still _ h1 ha]
  rw [← hmp]
  rfl

/-- PLK with no cached entry reads the line of the entry, and the thread stalls. -/
theorem execPlk_read (hi : Issues s t .plk w) (hp : pcIn t.core ((s.thr t).pc + 1) = true) {z y : State} {i : Nat}
    (hmiss : s.plcHit n (plaExt pla) = (none, z)) (hin : z.plcLine (plaExt pla) * 64 < z.bmBytes)
    (hbm : (z.cntN n 0x011 1).bmIssue (.plk t) false (z.plcLine (plaExt pla)) 0 0 = some (i, y)) :
    ∃ u, exec (.plk t w) s = .next u.goOn ∧ (u.thr t).st = .stalled ∧ (u.thr t).pend = .plk (bf w 25 21) pla none ∧
      (u.thr t).pc = (s.thr t).pc ∧ (u.thr t).g = (s.thr t).g ∧ OnlyThread y u t := by
  have hcnt := State.cntN_counted z n 0x011 1
  have hthr : y.thr t = s.thr t := by rw [State.bmIssue_thr hbm, hcnt.thr, State.plcHit_none hmiss]
  obtain ⟨sl, hacc⟩ := State.account_thr y t
  have hres : plkGo t (bf w 25 21) pla n s = .stall y (.plk (bf w 25 21) pla none) := by
    have hb : (z.cntN n 0x011 1).bmIn (z.plcLine (plaExt pla)) = true := (hcnt.bmIn _).trans (decide_eq_true hin)
    rw [plkGo, hmiss]
    dsimp only
    rw [State.plkRead, hcnt.plcLine, hb, hbm]
    rfl
  refine ⟨(y.account t).modThr t fun x => { x with st := .stalled, pend := .plk (bf w 25 21) pla none, via := none }, ?_, ?_⟩
  · rw [State.issue_on (execPlk_bound ht) rfl hi ((plk_checked hk hpla).trans hres)]
    simp [State.finish, pcLast, hp]
  · rw [State.modThr_thr, if_pos rfl, hacc, hthr]
    exact ⟨rfl, rfl, rfl, rfl, (State.account_only y t).trans (State.modThr_only _ _ _)⟩

/-- PLK whose entry lies outside block memory fails with STAT 2 (R50, R324). -/
theorem execPlk_outside (hi : Issues s t .plk w) (hp : Passes s t ((s.thr t).pc + 1)) {z : State}
    (hmiss : s.plcHit n (plaExt pla) = (none, z)) (hout : z.bmBytes ≤ z.plcLine (plaExt pla) * 64) :
    GivesOn (.plk t w) s (((z.cntN n 0x011 1).raise HA_INPUT_ERR 12).raise HA_XLT_ERR 2) t (bf w 25 21)
      (BitVec.ofNat 64 (2 * 2 ^ 60)) ((s.thr t).pc + 1) := by
  have hcnt := State.cntN_counted z n 0x011 1
  have hb : (z.cntN n 0x011 1).bmIn (z.plcLine (plaExt pla)) = false := (hcnt.bmIn _).trans (decide_eq_false (by omega))
  have h2 : errClass HA_XLT_ERR 2 ≠ 4 := by decide
  have h12 : errClass HA_INPUT_ERR 12 ≠ 4 := by decide
  refine GivesOn.of_writes (execPlk_bound ht) rfl hi ?_
    (by rw [State.raise_thr h2, State.raise_thr h12, hcnt.thr, State.plcHit_none hmiss]) hp
  rw [plk_checked hk hpla, plkGo, hmiss]
  dsimp only
  rw [State.plkRead, hcnt.plcLine, hb]
  rfl

end Plk

/-- Settles O23: the entry is cached, read, or outside block memory. -/
theorem placementLookup : Obligations.PlacementLookup := by
  unfold Obligations.PlacementLookup
  rintro s n t w x pla k pc rd ht rfl hpla rfl rfl hk hi
  refine ⟨?_, ?_, ?_⟩
  · rintro y e f a hp hhit h0 h1 rfl hf hr hsyn ha
    exact execPlk_hit ht hk hpla hi hp hhit h0 h1 hf hr hsyn ha
  · rintro l i z y hp hmiss rfl hin hbm
    exact execPlk_read ht hk hpla hi hp hmiss hin hbm
  · exact fun z hp hmiss hout => execPlk_outside ht hk hpla hi hp hmiss hout

end Sys2Proof.Machine
end

section
/-! SEND.MRD and SEND.MWR (R245): the tags that a media port gives, and what is queued, recorded and waited for. -/

namespace Sys2Proof.Machine

/-! ### Tags of a media port -/

/-- From `s` to `u` only media ports and the checks of survivor tables change, and port `m` stays as attached as it was. -/
structure PortOnly (m : MpId) (s u : State) : Prop where
  node : u.node = s.node
  chv : u.chv = s.chv
  mode : u.mode = s.mode
  mpMap : u.mpMap = s.mpMap
  att : (u.mpAt m).att = (s.mpAt m).att

theorem PortOnly.trans {m : MpId} {s u v : State} (h : PortOnly m s u) (k : PortOnly m u v) : PortOnly m s v :=
  ⟨k.node.trans h.node, k.chv.trans h.chv, k.mode.trans h.mode, k.mpMap.trans h.mpMap, k.att.trans h.att⟩

theorem PortOnly.setMp (s : State) {m : MpId} {x : MpShell} (h : x.att = (s.mpAt m).att) : PortOnly m s (s.setMp m x) :=
  ⟨rfl, rfl, rfl, rfl, by rw [State.mpAt_setMp_self, h]⟩

theorem PortOnly.nd {m : MpId} {s u : State} (h : PortOnly m s u) (n : NodeId) : u.nd n = s.nd n := by rw [State.nd, State.nd, h.node]

theorem PortOnly.thr {m : MpId} {s u : State} (h : PortOnly m s u) (t : Thr) : u.thr t = s.thr t := State.thr_of_cores h.node h.chv t

theorem PortOnly.mpOf {m : MpId} {s u : State} (h : PortOnly m s u) (a : BitVec 46) : u.mpOf a = s.mpOf a := by
  rw [State.mpOf, State.mpOf, h.mpMap]

theorem State.mpIssue_portOnly {s u : State} {m : MpId} {g : Mtag} {i : Nat} (h : s.mpIssue m g = some (i, u)) : PortOnly m s u := by
  unfold State.mpIssue at h
  split at h
  · cases h
  · cases h
    exact ⟨rfl, rfl, rfl, rfl, by rw [State.mpAt_setMp_self]; rfl⟩

theorem State.mpIssue_full {s : State} {m : MpId} (h : (s.mpAt m).freeTag = none) (g : Mtag) : s.mpIssue m g = none := by
  simp [State.mpIssue, h]

theorem State.mpAlloc_eq {s : State} {m : MpId} {i : Nat} (h : (s.mpAt m).freeTag = some i) (g : Mtag) :
    s.mpAlloc m g = some (i, s.setMp m ((s.mpAt m).setTag i (some { g with at_ := s.tmo }))) := by simp [State.mpAlloc, h]

theorem State.mpAlloc_full {s : State} {m : MpId} (h : (s.mpAt m).freeTag = none) (g : Mtag) : s.mpAlloc m g = none := by
  simp [State.mpAlloc, h]

theorem State.mpAlloc_portOnly {s u : State} {m : MpId} {g : Mtag} {i : Nat} (h : s.mpAlloc m g = some (i, u)) : PortOnly m s u := by
  unfold State.mpAlloc at h
  split at h
  · cases h
  · cases h
    exact .setMp s rfl

/-! ### The reads of SEND.MRD -/

/-- The read of SEND.MRD that begins `i` lines after `a`. -/
def rdTag (n : NodeId) (k : Nat) (a : BitVec 46) (i : Nat) (es : List Nat) (left : BitVec 4) : Mtag :=
  { own := .flow n k, kind := .rd, maddr := a + BitVec.ofNat 46 (64 * i), ents := es, left := left }

/-- Port `m` takes SECTOR_RD (R92). -/
def State.blockRd (s : State) (m : MpId) : Bool := (s.mpAt m).att.ver == 2 && bt (s.mpAt m).att.caps 0

theorem rdTag_zero (n : NodeId) (k : Nat) (a : BitVec 46) (es : List Nat) (left : BitVec 4) :
    rdTag n k a 0 es left = { own := .flow n k, kind := .rd, maddr := a, ents := es, left := left } := by
  simp [rdTag]

section Reads

variable {s : State} {n : NodeId} {k : Nat} {a : BitVec 46}

/-- One LINE_RD. -/
theorem State.mrdGo_line (es : List Nat) : s.mrdGo n k false a es = s.mpIssue (s.mpOf a) (rdTag n k a 0 es 1) := by
  rw [rdTag_zero]
  rfl

/-- One SECTOR_RD toward a partner that takes it. -/
theorem State.mrdGo_block (h : s.blockRd (s.mpOf a) = true) (es : List Nat) :
    s.mrdGo n k true a es = s.mpIssue (s.mpOf a) (rdTag n k a 0 es 15) := by
  rw [rdTag_zero]
  exact if_pos h

/-- One of the four LINE_RD of a sector, after those that gave `o`; the first one's tag is kept. -/
def mrdStep (n : NodeId) (k : Nat) (a : BitVec 46) (es : List Nat) (m : MpId) (o : Option (Nat × State)) (i : Nat) :
    Option (Nat × State) :=
  match o with
  | none => none
  | some (g, s) => match s.mpIssue m (rdTag n k a i [es.getD i 0] 1) with
    | none => none
    | some (h, s) => some (if i = 0 then h else g, s)

theorem mrdStep_some {es : List Nat} {m : MpId} {u : State} {i g h : Nat} (hi : s.mpIssue m (rdTag n k a i [es.getD i 0] 1) = some (h, u)) :
    mrdStep n k a es m (some (g, s)) i = some (if i = 0 then h else g, u) := by
  rw [mrdStep, hi]

/-- Four LINE_RD toward a partner without SECTOR_RD. -/
theorem State.mrdGo_lines (h : s.blockRd (s.mpOf a) = false) (es : List Nat) :
    s.mrdGo n k true a es = [0, 1, 2, 3].foldl (mrdStep n k a es (s.mpOf a)) (some (0, s)) :=
  if_neg (by rw [show ((s.mpAt (s.mpOf a)).att.ver == 2 && bt (s.mpAt (s.mpOf a)).att.caps 0) = false from h]; exact Bool.false_ne_true)

/-- The first tag of the four is that of the first line. -/
theorem State.mrdGo_four (h : s.blockRd (s.mpOf a) = false) {e0 e1 e2 e3 g g1 g2 g3 : Nat} {u1 u2 u3 u : State}
    (h0 : s.mpIssue (s.mpOf a) (rdTag n k a 0 [e0] 1) = some (g, u1)) (h1 : u1.mpIssue (s.mpOf a) (rdTag n k a 1 [e1] 1) = some (g1, u2))
    (h2 : u2.mpIssue (s.mpOf a) (rdTag n k a 2 [e2] 1) = some (g2, u3)) (h3 : u3.mpIssue (s.mpOf a) (rdTag n k a 3 [e3] 1) = some (g3, u)) :
    s.mrdGo n k true a [e0, e1, e2, e3] = some (g, u) := by
  rw [State.mrdGo_lines h, List.foldl_cons, mrdStep_some h0, List.foldl_cons, mrdStep_some h1, List.foldl_cons, mrdStep_some h2,
    List.foldl_cons, mrdStep_some h3]
  rfl

/-- With no free tag at the port no read is sent. -/
theorem State.mrdGo_full (h : (s.mpAt (s.mpOf a)).freeTag = none) (sector : Bool) (es : List Nat) : s.mrdGo n k sector a es = none := by
  cases sector with
  | false => rw [State.mrdGo_line, State.mpIssue_full h]
  | true =>
    cases hb : s.blockRd (s.mpOf a) with
    | true => rw [State.mrdGo_block hb, State.mpIssue_full h]
    | false =>
      have h0 : mrdStep n k a es (s.mpOf a) (some (0, s)) 0 = none := by rw [mrdStep, State.mpIssue_full h]
      rw [State.mrdGo_lines hb, List.foldl_cons, h0]
      rfl

theorem State.mrdCount_eq {u : State} (h : PortOnly (s.mpOf a) s u) (sector : Bool) :
    u.mrdCount sector a = if !sector || s.blockRd (s.mpOf a) then 1 else 4 := by
  rw [State.mrdCount, h.mpOf, h.att]
  rfl

end Reads

/-! ### SEND.MRD -/

/-- The record of SEND.MRD: port, first tag and RD_OUT in word 4 of the tracker, and the count of reads. -/
def State.mrdSent (u : State) (n : NodeId) (k : Nat) (m : MpId) (g c : Nat) : State :=
  (u.modTrk n k fun r => ((r.setW4 2 0 m.val).setW4 26 15 g).setW4 28 28 1).cntN n 0x012 c

/-- What SEND.MRD does once its checks have passed. -/
def State.mrdEnd (s : State) (n : NodeId) (k : Nat) (sector : Bool) (a : BitVec 46) (es : List Nat) : Res :=
  match s.mrdGo n k sector a es with
  | none => .stall s (.again .tag)
  | some (g, u) => .next ((u.updTrk n k 4 fun r => ((r.setW4 2 0 (u.mpOf a).val).setW4 26 15 g).setW4 28 28 1).cntN n 0x012
      (u.mrdCount sector a))

/-- The line-buffer entries that SEND.MRD names in rs2. -/
def mrdEnts (sector : Bool) (v : Word) : List Nat := if sector then [bf v 8 0, bf v 17 9, bf v 26 18, bf v 35 27] else [bf v 8 0]

section Mrd

variable {s : State} {t : Thr} {w : Reg32} {n : NodeId} {k : Nat} {a : BitVec 46} {es : List Nat} (ht : t.core = .node n)
  (hk : (s.thr t).trk = some k) (ha : a = BitVec.ofNat 46 (bf ((s.thr t).reg (bf w 20 16)) 45 0))
  (hal : a.toNat % (if bt w 4 then 256 else 64) = 0) (hpriv : a.toNat / 2 ^ 26 % 2 ^ 20 < 64 → (s.thr t).priv = true)
  (hes : es = mrdEnts (bt w 4) ((s.thr t).reg (bf w 15 11))) (hown : ∀ e ∈ es, ((s.nd n).lbAt e).own = some k)
include ht hk ha hal hpriv hes hown

/-- SEND.MRD passes its checks: aligned, allowed, and its entries owned by the bound tracker. -/
theorem exec_sendMrd : ∃ f, exec (.sendMrd t w) s = .next (s.issue t .sendMrd w f) ∧ f (s.thr t) s = s.mrdEnd n k (bt w 4) a es := by
  refine ⟨_, exec_issueN rfl ht, ?_⟩
  have hmeta : (metaFrame a.toNat && !(s.thr t).priv) = false := and_not_eq_false fun h => hpriv (of_decide_eq_true h)
  simp only [iRs1, iRs2, ← ha]
  change checks w false (metaFrame a.toNat && !(s.thr t).priv) _ none (s.lbState n (s.thr t) (mrdEnts (bt w 4) _)) _ = _
  rw [← hes, hmeta, if_neg (not_not.mpr hal), State.lbState_owned hk hown, hk, hes]
  rfl

/-- SEND.MRD whose reads find their tags. -/
theorem execSendMrd_sends (hp : Passes s t ((s.thr t).pc + 1)) (hi : Issues s t .sendMrd w)
    (hsyn : smGet (fun _ => (0 : BitVec 8)) ((s.nd n).trkAt k).syn 4 = 0) {g : Nat} {u : State}
    (hgo : s.mrdGo n k (bt w 4) a es = some (g, u)) (hu : PortOnly (s.mpOf a) s u) :
    GivesOn (.sendMrd t w) s (u.mrdSent n k (s.mpOf a) g (if !bt w 4 || s.blockRd (s.mpOf a) then 1 else 4)) t 0 0 ((s.thr t).pc + 1) := by
  obtain ⟨f, hc, hf⟩ := exec_sendMrd ht hk ha hal hpriv hes hown
  refine GivesOn.of_silent hc rfl hi (hf.trans ?_) hp (hp.of_thr ?_)
  · rw [State.mrdEnd, hgo]
    dsimp only
    rw [State.updTrk_intact (by rw [hu.nd]; exact hsyn), State.mrdCount_eq hu, hu.mpOf]
    rfl
  · rw [State.mrdSent, (State.cntN_counted _ _ _ _).thr, State.modTrk_thr, hu.thr]

/-- SEND.MRD with no free tag at its port waits and issues again. -/
theorem execSendMrd_waits (hi : Issues s t .sendMrd w) (hfull : (s.mpAt (s.mpOf a)).freeTag = none) :
    exec (.sendMrd t w) s = .next (s.modThr t fun x => { x with st := .stalled, pend := .again .tag, via := none }).goOn := by
  obtain ⟨f, hc, hf⟩ := exec_sendMrd ht hk ha hal hpriv hes hown
  refine State.issue_again hc rfl hi (hf.trans ?_)
  rw [State.mrdEnd, State.mrdGo_full hfull]

end Mrd

/-- Settles O25: a line, a sector, and a sector as four lines. -/
theorem sendMediaReads : Obligations.SendMediaReads := by
  unfold Obligations.SendMediaReads
  rintro s n t w x k a v m es blk rd done ht rfl hk rfl ha rfl hes rfl rfl rfl hp hi hal hpriv hown hsyn
  have hsend {g : Nat} {u : State} := execSendMrd_sends ht hk ha hal hpriv hes hown hp hi hsyn (g := g) (u := u)
  refine ⟨fun g u hl hg => ?_, fun g u hl hb hg => ?_, fun g g1 g2 g3 u1 u2 u3 u hl hb h0 h1 h2 h3 => ?_, ?_⟩
  · have h := hsend (hl ▸ (State.mrdGo_line es).trans hg) (State.mpIssue_portOnly hg)
    rwa [hl] at h
  · have h := hsend (hl ▸ (State.mrdGo_block hb es).trans hg) (State.mpIssue_portOnly hg)
    rw [show s.blockRd (s.mpOf a) = true from hb] at h
    rwa [Bool.or_true] at h
  · have hu := (((State.mpIssue_portOnly h0).trans (State.mpIssue_portOnly h1)).trans (State.mpIssue_portOnly h2)).trans
      (State.mpIssue_portOnly h3)
    rw [hl] at hes
    have h := hsend (by rw [hl, hes]; exact State.mrdGo_four hb h0 h1 h2 h3) hu
    rwa [hl, show s.blockRd (s.mpOf a) = false from hb] at h
  · exact execSendMrd_waits ht hk ha hal hpriv hes hown hi

end Sys2Proof.Machine
end

section
/-! SEND.MWR (R245, R289): its checks, its tags, and what is buffered. -/

namespace Sys2Proof.Machine

/-! ### The tags of a write -/

theorem State.mirrorRead_clean {s : State} (h : s.survSyn = []) (m : MpId) : s.mirrorRead m = s := by
  simp [State.mirrorRead, State.survRead, h]

section Tags

variable {s : State} {m : MpId} {g : Mtag} (h : s.survSyn = [])
include h

/-- A write that no mirror slot doubles takes one tag. -/
theorem State.mwrTags_single (hm : s.mirrorOf m g.maddr = none) : s.mwrTags m g = s.mpAlloc m g := by
  simp [State.mwrTags, State.mirrorRead_clean h, hm]

/-- A write that a mirror slot doubles takes two, and each names the other (R335). -/
theorem State.mwrTags_pair {c : BitVec 46} {i j : Nat} {u z : State} (hm : s.mirrorOf m g.maddr = some c)
    (hi : s.mpAlloc m g = some (i, u))
    (hj : u.mpAlloc m { g with maddr := c, pair := some i, comp := none, sb := none } = some (j, z)) :
    s.mwrTags m g = some (i, z.setMp m ((z.mpAt m).setTag i (some { g with pair := some j, at_ := z.tmo }))) := by
  simp [State.mwrTags, State.mirrorRead_clean h, hm, hi, hj]

theorem State.mwrTags_full (hf : (s.mpAt m).freeTag = none) : s.mwrTags m g = none := by
  cases hm : s.mirrorOf m g.maddr with
  | none => rw [State.mwrTags_single h hm, State.mpAlloc_full hf]
  | some c => simp [State.mwrTags, State.mirrorRead_clean h, hm, State.mpAlloc_full hf]

/-- Taking the tags of a write changes media ports alone. -/
theorem State.mwrTags_portOnly {i : Nat} {u : State} (ht : s.mwrTags m g = some (i, u)) : PortOnly m s u := by
  unfold State.mwrTags at ht
  rw [State.mirrorRead_clean h] at ht
  dsimp only at ht
  split at ht
  · exact State.mpAlloc_portOnly ht
  · split at ht
    · cases ht
    · next hi =>
      split at ht
      · cases ht
      · next hj =>
        cases ht
        exact ((State.mpAlloc_portOnly hi).trans (State.mpAlloc_portOnly hj)).trans (.setMp _ rfl)

end Tags

/-! ### The instruction -/

/-- The write that SEND.MWR of thread `t` sends for entry `b`. -/
def State.mwrTag (s : State) (n : NodeId) (t : Thr) (k : Nat) (a : BitVec 46) (b : Lbe) (poison : Bool) : Mtag :=
  { own := .flow n k, kind := .wr, maddr := a, data := b.data, poison := b.poison || poison, comp := s.cmpOf n k poison,
    sb := some (t.t, (s.thr t).sbNext), dh := s.dhOf ((s.nd n).trkAt k),
    loss := ((s.nd n).trkAt k).ownWrite poison && !s.dhint ((s.nd n).trkAt k) && (s.cmpOf n k poison).isNone }

/-- The tracker after SEND.MWR: port, tag and WR_OUT in word 4, and the response marked sent where the write carries the CMP. -/
def Trk.mwrNote (r : Trk) (m : MpId) (i : Nat) (comp : Bool) : Trk :=
  let r := ((r.setW4 2 0 m.val).setW4 14 3 i).setW4 27 27 1
  if comp then { r with rsp := true } else r

/-- The store-buffer entry of SEND.MWR. -/
def State.mwrEnt (s : State) (t : Thr) (k : Nat) (a : BitVec 46) (m : MpId) (i : Nat) : SbEnt :=
  { id := (s.thr t).sbNext, kind := .mwr, addr := a.toNat, pc := (s.thr t).pc, trk := some k, mp := m.val, mtag := i,
    merging := s.sbm }

/-- A thread with one more store-buffer entry. -/
def Thread.push (x : Thread) (b : SbEnt) : Thread := { x with sb := x.sb ++ [b], sbNext := x.sbNext + 1 }

/-- What SEND.MWR does with its tag in `u`. -/
def State.mwrSent (s u : State) (n : NodeId) (t : Thr) (k : Nat) (a : BitVec 46) (poison : Bool) (i : Nat) : State :=
  ((u.modTrk n k fun r => r.mwrNote (s.mpOf a) i (s.cmpOf n k poison).isSome).modThr t fun x =>
    x.push (s.mwrEnt t k a (s.mpOf a) i)).cntN n 0x013 1

/-- What SEND.MWR does once its checks have passed, for an intact entry. -/
def State.mwrEnd (s : State) (n : NodeId) (t : Thr) (k e : Nat) (a : BitVec 46) (poison : Bool) : Res :=
  if 16 ≤ (s.thr t).sb.length then .stall s (.again .sbFull)
  else if s.heldByWb n k then .stall s (.again (.writeBack ((s.nd n).trkAt k).pla))
  else match s.mwrTags (s.mpOf a) (s.mwrTag n t k a ((s.nd n).lbAt e) poison) with
    | none => .stall s (.again .tag)
    | some (i, u) =>
      let v := u.updTrk n k 4 fun r => ((r.setW4 2 0 (s.mpOf a).val).setW4 14 3 i).setW4 27 27 1
      let v := if (s.cmpOf n k poison).isSome then v.modTrk n k fun r => { r with rsp := true } else v
      .next ((v.modThr t fun x => x.push { s.mwrEnt t k a (s.mpOf a) i with merging := v.sbm }).cntN n 0x013 1)

/-- Recording the tag and then the response changes the tracker once. -/
theorem State.mwrNote_steps {u : State} {n : NodeId} {k : Nat} (m : MpId) (i : Nat) (comp : Bool)
    (hsyn : smGet (fun _ => (0 : BitVec 8)) ((u.nd n).trkAt k).syn 4 = 0) {v : State}
    (hv : v = u.updTrk n k 4 fun r => ((r.setW4 2 0 m.val).setW4 14 3 i).setW4 27 27 1) :
    (if comp then v.modTrk n k fun r => { r with rsp := true } else v) = u.modTrk n k fun r => r.mwrNote m i comp := by
  rw [State.updTrk_intact hsyn] at hv
  rw [hv]
  cases comp with
  | false => rfl
  | true => exact (if_pos rfl).trans (State.modTrk_modTrk _ _ _ _ _)

section Mwr

variable {s : State} {t : Thr} {w : Reg32} {n : NodeId} {k e : Nat} {a : BitVec 46} (ht : t.core = .node n)
  (hk : (s.thr t).trk = some k) (he : e = bf ((s.thr t).reg (bf w 15 11)) 8 0)
  (ha : a = BitVec.ofNat 46 (bf ((s.thr t).reg (bf w 20 16)) 45 0)) (hown : ((s.nd n).lbAt e).own = some k)
  (hpar : ((s.nd n).lbAt e).parBad = 0) (hal : a.toNat % 64 = 0)
  (hpriv : a.toNat / 2 ^ 26 % 2 ^ 20 < 64 → (s.thr t).priv = true)
include ht hk he ha hown hpar hal hpriv

/-- SEND.MWR passes its checks: aligned, allowed, and its entry intact and owned by the bound tracker. -/
theorem exec_sendMwr : ∃ f, exec (.sendMwr t w) s = .next (s.issue t .sendMwr w f) ∧ f (s.thr t) s = s.mwrEnd n t k e a (bt w 4) := by
  refine ⟨_, exec_issueN rfl ht, ?_⟩
  have hmeta : (metaFrame a.toNat && !(s.thr t).priv) = false := and_not_eq_false fun h => hpriv (of_decide_eq_true h)
  simp only [iRs1, iRs2, ← ha, ← he, hmeta, if_neg (not_not.mpr hal), State.lbState_owned hk (List.forall_mem_singleton.mpr hown), hk,
    State.lbGet_intact hpar]
  rfl

/-- SEND.MWR that waits issues again. -/
theorem execSendMwr_waits (hi : Issues s t .sendMwr w) {why : Stall} (h : s.mwrEnd n t k e a (bt w 4) = .stall s (.again why)) :
    exec (.sendMwr t w) s = .next (s.modThr t fun x => { x with st := .stalled, pend := .again why, via := none }).goOn := by
  obtain ⟨f, hc, hf⟩ := exec_sendMwr ht hk he ha hown hpar hal hpriv
  exact State.issue_again hc rfl hi (hf.trans h)

/-- SEND.MWR that finds its tags. -/
theorem execSendMwr_sends (hp : Passes s t ((s.thr t).pc + 1)) (hi : Issues s t .sendMwr w) (hfree : (s.thr t).sb.length < 16)
    (hwb : s.heldByWb n k = false) (hsyn : smGet (fun _ => (0 : BitVec 8)) ((s.nd n).trkAt k).syn 4 = 0) (hsurv : s.survSyn = [])
    {i : Nat} {u : State} (htag : s.mwrTags (s.mpOf a) (s.mwrTag n t k a ((s.nd n).lbAt e) (bt w 4)) = some (i, u)) :
    GivesOn (.sendMwr t w) s (s.mwrSent u n t k a (bt w 4) i) t 0 0 ((s.thr t).pc + 1) := by
  obtain ⟨f, hc, hf⟩ := exec_sendMwr ht hk he ha hown hpar hal hpriv
  have hu := State.mwrTags_portOnly hsurv htag
  have hsbm (r : Trk → Trk) : (u.modTrk n k r).sbm = s.sbm := by
    rw [State.sbm, State.sbm, ← hu.mode]
    rfl
  refine GivesOn.of_silent hc rfl hi (hf.trans ?_) hp ⟨hp.1, ?_⟩
  · rw [State.mwrEnd, if_neg (by omega), hwb, if_neg Bool.false_ne_true, htag]
    dsimp only
    rw [State.mwrNote_steps _ _ _ (by rw [hu.nd]; exact hsyn) rfl, hsbm]
    rfl
  · rw [State.mwrSent, (State.cntN_counted _ _ _ _).thr, State.modThr_thr, if_pos rfl, State.modTrk_thr, hu.thr]
    exact hp.2

end Mwr

/-- Settles O26: what it waits for, the tags it takes, and what it records. -/
theorem sendMediaWrites : Obligations.SendMediaWrites := by
  unfold Obligations.SendMediaWrites
  rintro s n t w x k e a m b ht rfl hk he ha rfl rfl hown hpar hp hi hal hpriv
  have hwait {why : Stall} := execSendMwr_waits ht hk he ha hown hpar hal hpriv hi (why := why)
  refine ⟨fun h => hwait ?_, fun hfree hwb => hwait ?_, fun g hfree hwb hsyn hsurv hg => ?_⟩
  · rw [State.mwrEnd, if_pos h]
  · rw [State.mwrEnd, if_neg (by omega), hwb, if_pos rfl]
  have hga : a = g.maddr := by rw [hg]
  refine ⟨fun hfull => hwait ?_, ?_, ?_, ?_⟩
  · rw [State.mwrEnd, if_neg (by omega), hwb, if_neg Bool.false_ne_true, State.mwrTags_full hsurv hfull]
  · exact fun i hm hf => (State.mwrTags_single hsurv (hga ▸ hm)).trans (State.mpAlloc_eq hf g)
  · exact fun c i j u z hm => State.mwrTags_pair hsurv (hga ▸ hm)
  · rintro i u ent htag rfl
    rw [hg] at htag
    exact execSendMwr_sends ht hk he ha hown hpar hal hpriv hp hi hfree hwb hsyn hsurv htag

end Sys2Proof.Machine
end

section
/-! The epoch change, the quench handshake, credits and refused messages (R25, R358, R359, R361, R365, R366). -/

namespace Sys2Proof.Machine

/-! ### Epoch change -/

/-- A change that has started: BUSY and the verdicts of both checks, the tables to switch in where their check is good, and the
packets under way marked (R365 step 1). -/
def State.epBusy (s : State) (acc : Option (Bool × Bool)) (mapsBad sinkBad : Bool) : State :=
  let v : State := { s with epAcc := acc, epAt := s.tmo, epMaps := if mapsBad then none else some (s.shadowHome, s.shadowMps),
                            epSink := if sinkBad then none else some (s.raw HA_FAB_SINK) }
  ((State.setFld { v with rout := v.rout.map fun (e : Nat × List RPkt) => (e.1, e.2.map fun (k : RPkt) =>
    { k with old := v.affects (bf (k.flits.headD 0) 14 10) }) } HA_FAB_EPOCH 1 1 1).setFld HA_FAB_EPOCH 5 5 (b2n mapsBad)).setFld
    HA_FAB_EPOCH 6 6 (b2n sinkBad)

/-- The shadow sink set passes its check against the map that will hold (R365 step 1). -/
def State.sinkGood (s : State) : Bool := s.sinkOk fun i => if s.mapsOk then s.shadowSlot i else s.slotNode i

theorem State.epStart_eq (s : State) (acc : Option (Bool × Bool)) : s.epStart acc =
    if !s.mapsOk || !s.sinkGood then (s.epBusy acc (!s.mapsOk) (!s.sinkGood)).epErr else s.epBusy acc (!s.mapsOk) (!s.sinkGood) := by
  unfold State.epStart State.sinkGood
  dsimp only
  generalize s.mapsOk = maps
  generalize (s.sinkOk fun i => if maps then s.shadowSlot i else s.slotNode i) = sink
  cases maps <;> cases sink <;> rfl

/-- The access of a change is what its error captures (R447). -/
theorem State.epErr_epBusy (s : State) (acc : Option (Bool × Bool)) (mapsBad sinkBad : Bool) : (s.epBusy acc mapsBad sinkBad).epErr =
    match acc with
    | some (wr, p) => (s.epBusy acc mapsBad sinkBad).accErr 2 HA_FAB_EPOCH wr p
    | none => (s.epBusy acc mapsBad sinkBad).accErr 2 0 false false := by
  cases acc <;> rfl

/-- While a change runs a request is ignored, and a write of GO is an access error (R366). -/
theorem State.epGo_busy {s : State} {src : Src} (h : s.bit HA_FAB_EPOCH 1 = true) :
    s.epGo src = if src = .tarragon then s else s.accErr 1 HA_FAB_EPOCH true (srcPriv src) := if_pos h

/-- Otherwise it starts, and a write of GO is the access that its error captures. -/
theorem State.epGo_idle {s : State} {src : Src} (h : s.bit HA_FAB_EPOCH 1 = false) :
    s.epGo src = s.epStart (if src = .tarragon then none else some (true, srcPriv src)) := by
  refine (if_neg (by rw [h]; exact Bool.false_ne_true)).trans ?_
  cases src <;> rfl

section Epoch

variable {s : State} {src : Src} (h : s.MayAccess src HA_FAB_EPOCH true)
include h

theorem execEpochChange_of : exec (.epochChange src) s = .next ((s.epGo src).noted src HA_FAB_EPOCH true 0) :=
  congrArg _ (State.regDo_of h _)

variable {acc : Option (Bool × Bool)} {mapsBad sinkBad : Bool} (hb : s.bit HA_FAB_EPOCH 1 = false)
  (hacc : acc = if src = .tarragon then none else some (true, srcPriv src)) (hm : mapsBad = !s.mapsOk) (hs : sinkBad = !s.sinkGood)
include hb hacc hm hs

/-- A change whose tables are both good starts without an error. -/
theorem execEpochChange_good (h1 : mapsBad = false) (h2 : sinkBad = false) :
    exec (.epochChange src) s = .next ((s.epBusy acc mapsBad sinkBad).noted src HA_FAB_EPOCH true 0) := by
  rw [execEpochChange_of h, State.epGo_idle hb, State.epStart_eq, ← hacc, ← hm, ← hs, h1, h2]
  rfl

/-- A change with a table that fails its check starts with a configuration error (R447). -/
theorem execEpochChange_bad (hbad : mapsBad = true ∨ sinkBad = true) :
    exec (.epochChange src) s = .next ((s.epBusy acc mapsBad sinkBad).epErr.noted src HA_FAB_EPOCH true 0) := by
  rw [execEpochChange_of h, State.epGo_idle hb, State.epStart_eq, ← hacc, ← hm, ← hs, if_pos (by simpa using hbad)]

end Epoch

theorem exec_epochDrainDone (s : State) :
    exec .epochDrainDone s = .next (if s.bit HA_FAB_EPOCH 1 && s.drained then s.epEnd.goOn else s) := rfl

theorem exec_epochDrainTimeout (s : State) : exec .epochDrainTimeout s =
    .next (if s.bit HA_FAB_EPOCH 1 && s.past s.epAt 800 && !s.drained then s.raise HA_FAB_ERR 6 else s) := rfl

section Drain

variable {s : State}

theorem execEpochDrainDone_drained (hb : s.bit HA_FAB_EPOCH 1 = true) (hd : s.drained = true) :
    exec .epochDrainDone s = .next s.epEnd.goOn := by
  rw [exec_epochDrainDone, if_pos (by rw [hb, hd]; rfl)]

theorem execEpochDrainDone_same (h : s.bit HA_FAB_EPOCH 1 = false ∨ s.drained = false) : exec .epochDrainDone s = .next s := by
  rw [exec_epochDrainDone, if_neg (by rcases h with h | h <;> simp [h])]

/-- A change still busy past 800 ticks raises EPOCH_TMO (R365). -/
theorem execEpochDrainTimeout_busy (hb : s.bit HA_FAB_EPOCH 1 = true) (hd : s.drained = false) :
    exec .epochDrainTimeout s = .next (if s.past s.epAt 800 then s.raise HA_FAB_ERR 6 else s) := by
  rw [exec_epochDrainTimeout, hb, hd, Bool.true_and, Bool.not_false, Bool.and_true]

theorem execEpochDrainTimeout_same (h : s.bit HA_FAB_EPOCH 1 = false ∨ s.drained = true) : exec .epochDrainTimeout s = .next s := by
  rw [exec_epochDrainTimeout, if_neg (by rcases h with h | h <;> simp [h])]

end Drain

/-! ### Quench -/

theorem execQuench_of {s : State} {src : Src} {n : NodeId} {w : BitVec 32} (h : s.MayAccess src (ndA n ND_FAB_CTRL) true) :
    exec (.quench src n w) s = .next ((s.quenchSet n w).noted src (ndA n ND_FAB_CTRL) true 0) := congrArg _ (State.regDo_of h _)

/-- An acknowledgement counts while its node quenches. -/
theorem execQuenchAck_of {s : State} {n : NodeId} (h : s.quenches n = true) (sh : QShell) :
    exec (.quenchAck n sh) s = .next (match sh with
      | .hp p => s.setHp p { s.hpAt p with quenchAck := setBt (s.hpAt p).quenchAck n.val true }
      | .mp m => s.setMp m { s.mpAt m with quenchAck := setBt (s.mpAt m).quenchAck n.val true }
      | .bm => s.setShellAck 0 n
      | .cfg => s.setShellAck 1 n
      | .sys => s.setShellAck 2 n) := congrArg Host.Outcome.next (if_neg (by rw [h]; exact Bool.false_ne_true))

theorem execQuenchAck_same {s : State} {n : NodeId} (h : s.quenches n = false) (sh : QShell) : exec (.quenchAck n sh) s = .next s :=
  congrArg Host.Outcome.next (if_pos (by rw [h]; rfl))

/-! ### Credits and refused messages -/

theorem creditQueue_iff (k : QKind) : creditQueue k = true ↔ k ∈ [QKind.req, .snp, .mreq, .breq] := by
  cases k <;> decide

/-- A credit queue's producer has back what it is owed (R358). -/
theorem execCredit_of {s : State} {e : Endpoint} {q : QueueId} {k o : Nat} {x : Queue} (h : q.k ∈ [QKind.req, .snp, .mreq, .breq])
    (hx : x = s.que q) (ho : o = smGet (fun _ => 0) x.owed (epCode e)) :
    exec (.credit e q k) s = .next (s.setQue q { x with
      used := smSet (fun _ => 0) x.used (epCode e) (smGet (fun _ => 0) x.used (epCode e) - min k o)
      owed := smSet (fun _ => 0) x.owed (epCode e) (o - min k o) }).goOn := by
  subst hx ho
  exact congrArg Host.Outcome.next (if_neg (by rw [(creditQueue_iff q.k).mpr h]; exact Bool.false_ne_true))

theorem execCredit_same {s : State} {e : Endpoint} {q : QueueId} {k : Nat} (h : q.k ∉ [QKind.req, .snp, .mreq, .breq]) :
    exec (.credit e q k) s = .next s :=
  congrArg Host.Outcome.next (if_pos (by rw [Bool.eq_false_iff.mpr (mt (creditQueue_iff q.k).mp h)]; rfl))

theorem execMgtNak_some {s : State} {t : Thr} {e : SbEnt} (h : (s.thr t).mgtOut = some e) : exec (.mgtNak t) s =
    .next (if ((s.core e.dst).inboxFree (inboxSize e.dst)).isNone then s.modSb t e.id fun e => { e with nak := some s.tmo } else s) := by
  change execMgtNak t s = _
  rw [execMgtNak, h]

theorem execMgtNak_none {s : State} {t : Thr} (h : (s.thr t).mgtOut = none) : exec (.mgtNak t) s = .next s := by
  change execMgtNak t s = _
  rw [execMgtNak, h]

/-- A refused message is due to be sent again, 16 ticks after its refusal (R359). -/
def State.mgtDue (s : State) (e : SbEnt) : Bool := e.kind == .mgt && (match e.nak with | some k => s.past k 16 | none => false)

theorem State.mgtDue_false {s : State} {e : SbEnt} (h : e.kind ≠ .mgt ∨ e.nak = none) : s.mgtDue e = false := by
  rcases h with h | h
  · simp [State.mgtDue, h]
  · simp [State.mgtDue, h]

theorem exec_mgtResend (s : State) (t : Thr) : exec (.mgtResend t) s = .next (match (s.thr t).sb.find? s.mgtDue with
    | some e => s.modSb t e.id fun e => { e with nak := none }
    | none => s) := rfl

theorem execMgtResend_due {s : State} {t : Thr} {pre post : List SbEnt} {e : SbEnt} {k : Nat} (hsb : (s.thr t).sb = pre ++ e :: post)
    (hpre : ∀ x ∈ pre, x.kind ≠ .mgt ∨ x.nak = none) (hk : e.kind = .mgt) (hn : e.nak = some k) (hp : s.past k 16 = true) :
    exec (.mgtResend t) s = .next (s.modSb t e.id fun e => { e with nak := none }) := by
  have hdue : s.mgtDue e = true := by simp [State.mgtDue, hk, hn, hp]
  have hfind : (s.thr t).sb.find? s.mgtDue = some e :=
    List.find?_eq_some_iff_append.mpr ⟨hdue, pre, post, hsb, fun x hx => by rw [State.mgtDue_false (hpre x hx)]; rfl⟩
  rw [exec_mgtResend, hfind]

theorem execMgtResend_same {s : State} {t : Thr} (h : ∀ x ∈ (s.thr t).sb, x.kind ≠ .mgt ∨ x.nak = none) :
    exec (.mgtResend t) s = .next s := by
  rw [exec_mgtResend, List.find?_eq_none.mpr fun x hx => by rw [State.mgtDue_false (h x hx)]; exact Bool.false_ne_true]

end Sys2Proof.Machine
end

section
/-! Packets in the routers and the endpoint queues (R352, R357, R363, R368 to R370). -/

namespace Sys2Proof.Machine

/-! ### Routers -/

section Receive

variable {s : State} {r : NodeId} {inp : RtrPort} {fs : List Flit}

theorem isRing_eq_false : isRing inp = false ↔ inp = .loc ∨ inp = .att := by
  cases inp <;> decide

theorem isRing_eq_true (h1 : inp ≠ .loc) (h2 : inp ≠ .att) : isRing inp = true := by
  cases h : isRing inp with
  | true => rfl
  | false => exact absurd (isRing_eq_false.mp h) (by simp [h1, h2])

/-- A router takes packets of one or two flits once the straps are taken. -/
theorem State.flitRx_takes (hlen : fs.length = 1 ∨ fs.length = 2) (ho : s.mode ≠ .off) (hs : s.mode ≠ .strap) :
    ¬(s.mode = .off ∨ s.mode = .strap ∨ fs = [] ∨ 2 < fs.length) := by
  have hne : fs ≠ [] := fun h => by simp [h] at hlen
  simp only [ho, hs, hne, false_or]
  omega

section Taken

variable (hlen : fs.length = 1 ∨ fs.length = 2) (ho : s.mode ≠ .off) (hs : s.mode ≠ .strap)
include hlen ho hs

/-- What its endpoint may not inject is not received. -/
theorem State.flitRx_refused (hinp : inp = .loc ∨ inp = .att) (h : s.injectPkt r inp (flitCheck (fs.headD 0)).2 fs = none) :
    s.flitRx r inp fs = s := by
  rw [State.flitRx, if_neg (State.flitRx_takes hlen ho hs), isRing_eq_false.mpr hinp, if_neg Bool.false_ne_true, h]

theorem State.flitRx_injected {u : State} (hinp : inp = .loc ∨ inp = .att)
    (h : s.injectPkt r inp (flitCheck (fs.headD 0)).2 fs = some u) :
    s.flitRx r inp fs = (u.cntB 0x10A fs.length).checkHdrs r inp fs := by
  rw [State.flitRx, if_neg (State.flitRx_takes hlen ho hs), isRing_eq_false.mpr hinp, if_neg Bool.false_ne_true, h]

theorem State.flitRx_arrives {u : State} (h1 : inp ≠ .loc) (h2 : inp ≠ .att)
    (hroom : s.roomIn r inp (hClass (flitHdr (fs.headD 0))) (bf (flitHdr (fs.headD 0)) 3 3) fs.length = true)
    (h : s.linkTake r inp fs = some u) : s.flitRx r inp fs = u.checkHdrs r inp fs := by
  rw [State.flitRx, if_neg (State.flitRx_takes hlen ho hs), isRing_eq_true h1 h2, if_pos rfl, hroom, Bool.not_true,
    if_neg Bool.false_ne_true, h]

/-- What no link brings is not received, whether there is room or not. -/
theorem State.flitRx_untaken (h1 : inp ≠ .loc) (h2 : inp ≠ .att) (h : s.linkTake r inp fs = none) : s.flitRx r inp fs = s := by
  rw [State.flitRx, if_neg (State.flitRx_takes hlen ho hs), isRing_eq_true h1 h2, if_pos rfl, h]
  exact ite_self _

end Taken

theorem execFlitReceive_eq {u : State} (h : s.flitRx r inp fs = u) : exec (.flitReceive r inp fs) s = .next u.goOn :=
  congrArg (fun u : State => Host.Outcome.next u.goOn) h

/-- A node without traffic injects nothing, nor does an endpoint a packet of another router (R16, R357). -/
theorem State.injectPkt_loc_none {h : BitVec 88} (hd : s.live r = false ∨ hSrc h ≠ r) : s.injectPkt r .loc h fs = none := by
  unfold State.injectPkt
  rw [if_pos]
  rcases hd with hd | hd
  · simp [State.portDead, hd]
  · simp [hd]

end Receive

/-! ### Headers without an error -/

/-- The header with which a router forwards: HOPS and VC are its own, and the check is fresh (R348, R352). -/
def fwdFlit (hops vc : Nat) (f : Flit) : Flit := flitSeal f (setBf (setBf (flitHdr f) 20 18 hops) 3 3 vc)

/-- A packet whose headers are good goes on (R352). -/
theorem State.checkHdrs_good {u : State} {r : NodeId} {inp : RtrPort} {fs : List Flit}
    (h : ∀ f ∈ fs, flitCheck f = (Ecc.good, flitHdr f)) : u.checkHdrs r inp fs = u.forward r inp fs (fs.map flitHdr) := by
  have hmap : fs.map flitCheck = fs.map fun f => (Ecc.good, flitHdr f) := List.map_congr_left h
  have huce : (fs.map fun f => (Ecc.good, flitHdr f)).find? (fun c => c.1 == .uce) = none := by simp
  have hce : ((fs.map fun f => (Ecc.good, flitHdr f)).any fun c => eccCe c.1) = false := by simp [eccCe]
  rw [State.checkHdrs, hmap]
  simp only [huce, hce, List.map_map]
  rfl

/-- A packet of its class, within six hops, is put at the output of its route, which is no sink (R346 to R348, R352). -/
theorem State.forward_good {u : State} {r : NodeId} {inp o : RtrPort} {f : Flit} {fs : List Flit} {h : BitVec 88} {hops v : Nat}
    (hh : h = flitHdr f) (hhops : hops = hHops h + b2n (isRing inp)) (h6 : hops ≤ 6) (hk : kindClass (hKind h) = some (hClass h))
    (ho : o = routeOut r (hSrc h) (hDst h) (bt h 9)) (hsink : isRing o = true ∨ u.portSinks r o = false)
    (hv : v = if isRing o then nextVc r inp o (bf h 3 3) else bf h 3 3) :
    u.forward r inp (f :: fs) ((f :: fs).map flitHdr) = u.setOut r o (u.outAt r o ++
      [{ inp := inp, vc := bf h 3 3, flits := (f :: fs).map (fwdFlit hops v), at_ := u.tmo }]) := by
  have hzip (l : List Flit) : (l.zip (l.map flitHdr)).map (fun a => flitSeal a.1 (setBf (setBf a.2 20 18 hops) 3 3 v)) =
      l.map (fwdFlit hops v) := by
    induction l with
    | nil => rfl
    | cons f l ih => rw [List.map_cons, List.zip_cons_cons, List.map_cons, ih]; rfl
  have hhead : ((f :: fs).map flitHdr).headD 0 = h := hh.symm
  have hbad : (decide (6 < hops) || kindClass (hKind h) != some (hClass h)) = false := by simp [h6, hk]
  have hs : (!isRing o && u.portSinks r o) = false := by rcases hsink with h | h <;> simp [h]
  rw [State.forward]
  dsimp only
  rw [hhead, ← hhops, hbad, if_neg Bool.false_ne_true, ← ho, hs, if_neg Bool.false_ne_true, ← hv, hzip]

/-! ### Endpoint queues -/

section Publish

variable {s : State} {q : QueueId} {fs : List Flit}

theorem execPacketPublish_eq {u : State} (hm : s.mode ≠ .off) (h : s.publish q fs = u) :
    exec (.packetPublish q fs) s = .next u.goOn :=
  (congrArg Host.Outcome.next (if_neg hm)).trans (congrArg (fun u : State => Host.Outcome.next u.goOn) h)

/-- The packet that the port's turn brings is written to its queue, or absorbed where the port sinks (R363, R368). -/
theorem State.publish_of {v : State} {i : Nat} {k : RPkt}
    (hp : s.arbPick (epRouter q.ep) (epPort q.ep) (s.portOk q.ep) = (some (i, k), v)) (ha : arrives k.flits fs = true)
    (hq : queueOf q.ep (hClass k.hdr) = some q) : s.publish q fs =
      let u := v.outTook (epRouter q.ep) (epPort q.ep) i k
      if s.portSinks (epRouter q.ep) (epPort q.ep) then u.absorb (epRouter q.ep) k.hdr else u.enqueue q fs := by
  simp [State.publish, hp, ha, hq]

theorem State.publish_none (hp : (s.arbPick (epRouter q.ep) (epPort q.ep) (s.portOk q.ep)).1 = none) : s.publish q fs = s := by
  generalize hx : s.arbPick (epRouter q.ep) (epPort q.ep) (s.portOk q.ep) = x at hp
  obtain ⟨o, v⟩ := x
  cases hp
  simp [State.publish, hx]

end Publish

section Read

variable {s : State} {q : QueueId}

theorem execQueueRead_eq {u : State} (hm : s.mode ≠ .off) (h : s.queueRd q = u) : exec (.queueRead q) s = .next u.goOn :=
  (congrArg Host.Outcome.next (if_neg hm)).trans (congrArg (fun u : State => Host.Outcome.next u.goOn) h)

theorem State.queueRd_empty (he : queueExists q = true) (h : (s.que q).r = (s.que q).w) :
    s.queueRd q = if s.qFlag q then s.underrun q else s := by
  rw [State.queueRd, he]
  exact if_pos h

/-- What a read does with the packet that `R` has passed (R353, R369, R370). -/
def State.queueEnds (u : State) (q : QueueId) (h : BitVec 88) (fs : List Flit) (lenBad crcBad : Bool) : State :=
  if lenBad && crcBad then (u.raise HA_FAB_ERR 4).packetLoss (epRouter q.ep) 2 h
  else if lenBad then u.packetLoss (epRouter q.ep) 4 h
  else if crcBad then u.packetLoss (epRouter q.ep) 2 h
  else u.setQue q { u.que q with last := fs }

theorem State.queueRd_packet {x : Queue} {a : Nat → Flit} {len : Flit} {k : Nat} {fs : List Flit} {h : BitVec 88} {u : State}
    {lenBad crcBad : Bool} (he : queueExists q = true) (hx : x = s.que q) (hne : x.r ≠ x.w)
    (ha : a = fun i => (smGet (fun _ => 0) x.slots (qSlot q i) : Flit)) (hlen : len = a x.r) (hk : k = bf len 1 0)
    (hfs : fs = (List.range k).map fun i => a (x.r + 1 + i)) (hh : h = flitHdr (a (x.r + 1)))
    (hu : u = (s.setQue q { x with r := qAdd q x.r (1 + k) }).creditBack (some q) h)
    (hl : lenBad = (k != bf h 16 16 + 1 || bf len 15 8 != hKind h)) (hc : crcBad = fs.any fun f => !flitCrcOk f) :
    s.queueRd q = u.queueEnds q h fs lenBad crcBad := by
  subst hx ha hlen hk hfs hh hu hl hc
  rw [State.queueRd, he]
  exact if_neg hne

end Read

/-- Settles O51, row by row. -/
theorem fabricCommands : Obligations.FabricCommands := by
  unfold Obligations.FabricCommands
  intro s src n w
  refine ⟨?_, fun hb hd => ?_, fun hb hd => ?_, fun hb => ?_, ?_, fun hq => ⟨?_, ?_, ?_⟩, fun hq sh => execQuenchAck_same hq sh, ?_, ?_, ?_, ?_, ?_⟩
  · rintro hmay acc mapsBad sinkBad u v hacc hm hs rfl hu
    replace hu : u = s.epBusy acc mapsBad sinkBad := hu
    subst hu
    refine ⟨fun hb => by rw [execEpochChange_of hmay, State.epGo_busy hb], fun hb => execEpochChange_good hmay hb hacc hm hs,
      fun hb h => ?_⟩
    exact (execEpochChange_bad hmay hb hacc hm hs h).trans
      (congrArg (fun u : State => Host.Outcome.next (u.noted src HA_FAB_EPOCH true 0)) (s.epErr_epBusy acc mapsBad sinkBad))
  · exact ⟨execEpochDrainDone_drained hb hd, execEpochDrainTimeout_same (.inr hd)⟩
  · exact ⟨execEpochDrainDone_same (.inr hd), execEpochDrainTimeout_busy hb hd⟩
  · exact ⟨execEpochDrainDone_same (.inl hb), execEpochDrainTimeout_same (.inl hb)⟩
  · rintro hacc u rfl
    exact execQuench_of hacc
  · exact fun p => execQuenchAck_of hq (.hp p)
  · exact fun m => execQuenchAck_of hq (.mp m)
  · intro sh i hmem
    simp only [List.mem_cons, Prod.mk.injEq, List.not_mem_nil, or_false] at hmem
    obtain ⟨rfl, rfl⟩ | ⟨rfl, rfl⟩ | ⟨rfl, rfl⟩ := hmem <;> exact execQuenchAck_of hq _
  · exact fun e q k x o hx ho => ⟨fun h => execCredit_of h hx ho, execCredit_same⟩
  · exact fun t => ⟨fun e => execMgtNak_some, execMgtNak_none, fun pre e post k => execMgtResend_due, execMgtResend_same⟩
  · rintro r inp fs h g rfl hlen rfl ho hs
    refine ⟨fun hi hn => ?_, ?_, fun u hi hu => ?_, fun u h1 h2 hroom hu => ?_, fun h1 h2 hn => ?_, ?_⟩
    · exact execFlitReceive_eq (State.flitRx_refused hlen ho hs hi hn)
    · rintro rfl hd
      exact execFlitReceive_eq (State.flitRx_refused hlen ho hs (.inl rfl) (State.injectPkt_loc_none hd))
    · exact execFlitReceive_eq (State.flitRx_injected hlen ho hs hi hu)
    · exact execFlitReceive_eq (State.flitRx_arrives hlen ho hs h1 h2 hroom hu)
    · exact execFlitReceive_eq (State.flitRx_untaken hlen ho hs h1 h2 hn)
    · intro u o hops v hgood hhops h6 hk hout hsink hv
      cases fs with
      | nil => simp at hlen
      | cons f fs => exact (State.checkHdrs_good hgood).trans (State.forward_good rfl hhops h6 hk hout hsink hv)
  · rintro q fs r o hm rfl ho
    replace ho : o = epPort q.ep := ho
    subst ho
    refine ⟨?_, fun hn => execPacketPublish_eq hm (State.publish_none hn)⟩
    rintro i k v u x f hp ha hq rfl rfl rfl
    have hpub := State.publish_of hp ha hq
    exact ⟨fun h => execPacketPublish_eq hm (by rw [hpub, h]; rfl), fun h => execPacketPublish_eq hm (by rw [hpub, h]; rfl)⟩
  · rintro q x hm hx he
    refine ⟨fun h => execQueueRead_eq hm (State.queueRd_empty he (hx ▸ h)), ?_⟩
    intro a len k fs h u lenBad crcBad hne ha hlen hk hfs hh hu hl hc
    have hrd := State.queueRd_packet he hx hne ha hlen hk hfs hh hu hl hc
    refine ⟨fun h1 h2 => ?_, fun h1 h2 => ?_, fun h1 h2 => ?_, fun h1 h2 => ?_⟩ <;>
      exact execQueueRead_eq hm (by rw [hrd, h1, h2]; rfl)

end Sys2Proof.Machine
end

section
/-! Host requests at their port (R38, R41, R42, R74, R75, R77): the checks a message passes or fails, and the ledger entry it takes. -/

namespace Sys2Proof.Machine

/-! ### What counting leaves -/

theorem Counted.hpAt {s u : State} (h : Counted s u) (p : HpId) : u.hpAt p = s.hpAt p := by rw [← h.rest]; rfl
theorem Counted.ses {s u : State} (h : Counted s u) (n : Nat) : u.ses n = s.ses n := by rw [← h.rest]; rfl

/-- A request at port `p` is counted (R98). -/
def State.reqCounted (s : State) (p : HpId) : State := (s.cntB 0x101 1).cntB (0x110 + p.val) 1

theorem State.reqCounted_counted (s : State) (p : HpId) : Counted s (s.reqCounted p) :=
  (s.cntB_counted _ _).trans (State.cntB_counted _ _ _)

theorem State.tagOk_reqCounted (s : State) (p : HpId) (h : BitVec 128) : (s.reqCounted p).tagOk p h = s.tagOk p h := by
  simp only [State.tagOk, (s.reqCounted_counted p).hpAt, (s.reqCounted_counted p).ses]

theorem State.fieldsOk_reqCounted (s : State) (p : HpId) (op : Nat) (h : BitVec 128) (be : BitVec 64) :
    (s.reqCounted p).fieldsOk p op h be = s.fieldsOk p op h be := by
  simp only [State.fieldsOk, (s.reqCounted_counted p).hpAt, (s.reqCounted_counted p).ses]

/-! ### Rows -/

/-- The rows of Table 3.3 with their opcodes and what their messages carry. -/
def hostRequests (p : HpId) (h : BitVec 128) (data : Line) (be : BitVec 64) (poison : Bool) :
    List (Instr × Nat × Line × BitVec 64 × Bool) :=
  [(.memRd p h, 0x00, 0, 0, false), (.memRdData p h, 0x01, 0, 0, false), (.memInv p h, 0x02, 0, 0, false),
    (.memInvNt p h, 0x03, 0, 0, false), (.memClnEvct p h, 0x04, 0, 0, false), (.biConflict p h, 0x05, 0, 0, false),
    (.hostFlush p h, 0x08, 0, 0, false), (.sessOpen p h, 0x10, 0, 0, false), (.sessClose p h, 0x11, 0, 0, false),
    (.memWr p h data be poison, 0x18, data, be, poison), (.memWrPtl p h data be poison, 0x19, data, be, poison)]

/-- Each row hands its message to the port with its opcode. -/
theorem exec_hostRequest {s : State} {p : HpId} {h : BitVec 128} {data d : Line} {be b : BitVec 64} {poison z : Bool} {c : Instr}
    {op : Nat} (hm : (c, op, d, b, z) ∈ hostRequests p h data be poison) : exec c s = .next (s.accept p op h d b z) := by
  have hall : ∀ r ∈ hostRequests p h data be poison, exec r.1 s = .next (s.accept p r.2.1 h r.2.2.1 r.2.2.2.1 r.2.2.2.2) := by
    simp only [hostRequests, List.forall_mem_cons, List.not_mem_nil, false_imp_iff, implies_true, and_true]
    exact ⟨rfl, rfl, rfl, rfl, rfl, rfl, rfl, rfl, rfl, rfl, rfl⟩
  exact hall _ hm

section Accept

variable {s : State} {p : HpId} {op : Nat} {h : BitVec 128} {data : Line} {be : BitVec 64} {poison : Bool}

/-! ### Requests that are turned away -/

theorem State.reqReady_eq_false (h : s.mode.serves = false ∨ s.hpUse p = false ∨ (s.hpAt p).att = .idle ∨ (s.hpAt p).failed = true ∨
    2048 ≤ (s.hpAt p).ledger.length) : s.reqReady p = false := by
  unfold State.reqReady
  rcases h with h | h | h | h | h
  · simp [h]
  · simp [h]
  · simp [h]
  · simp [h]
  · simp [Nat.not_lt.mpr h]

theorem State.accept_unready (hr : s.reqReady p = false) : s.accept p op h data be poison = s := by
  rw [State.accept, hr]
  rfl

/-- A message at a ready port whose survivor tables are intact is counted, and then its TAG and its fields are checked. -/
theorem State.accept_checks (hs : s.survSyn = []) (hr : s.reqReady p = true) : s.accept p op h data be poison =
    if !s.tagOk p h then (s.reqCounted p).raise (HA_HP_STAT + 4 * p.val) 7
    else if !s.fieldsOk p op h be then ((s.reqCounted p).raise (HA_HP_STAT + 4 * p.val) 7).fieldAnswer p h
    else if (s.ses (hdrHost h).toNat).st = .closing ∧ (s.hpAt p).coveredWr h = false then (s.reqCounted p).fieldAnswer p h
    else (s.reqCounted p).begin_ p h data be poison := by
  rw [State.accept, hr, State.survThen, if_pos hs, ← State.tagOk_reqCounted s, ← State.fieldsOk_reqCounted s,
    ← (s.reqCounted_counted p).ses, ← (s.reqCounted_counted p).hpAt]
  rfl

/-- A ledger entry holds a request of the same host with the same TAG. -/
def LedEnt.sameTag (l : LedEnt) (h : BitVec 128) : Bool := hdrHost l.hdr == hdrHost h && hdrTag l.hdr == hdrTag h

theorem State.tagOk_eq (s : State) (p : HpId) (h : BitVec 128) : s.tagOk p h =
    ((if hdrOpc h = 0x10 then (s.ses (hdrHost h).toNat).st != .opn
      else ((s.ses (hdrHost h).toNat).st == .opn || (s.ses (hdrHost h).toNat).st == .closing) && (s.ses (hdrHost h).toNat).port == p)
    && decide (bf h 33 30 = 0) && !(s.hpAt p).ledger.any fun x => x.2.any (·.sameTag h)) := by
  have hmatch (x : Nat × Option LedEnt) : (match x.2 with
      | some l => hdrHost l.hdr == hdrHost h && hdrTag l.hdr == hdrTag h
      | none => false) = x.2.any (·.sameTag h) := by
    cases x.2 <;> rfl
  rw [State.tagOk, ← funext hmatch] <;> rfl

theorem State.tagOk_eq_false (ht : bf h 33 30 ≠ 0) : s.tagOk p h = false := by
  simp [State.tagOk_eq, ht]

theorem State.fieldsOk_eq_false (hf : bf h 127 94 ≠ 0 ∨ bf h 55 50 ≠ 0 ∨ hdrOpc h ≠ op ∨ bt h 5 = true ∧ bf h 7 6 = 1) :
    s.fieldsOk p op h be = false := by
  unfold State.fieldsOk
  rcases hf with hf | hf | hf | ⟨h1, h2⟩
  · simp [hf]
  · simp [hf]
  · simp [hf]
  · simp [h1, h2]

theorem State.fieldAnswer_eq : s.fieldAnswer p h = s.setHp p (if hdrOpc h ≤ 1 then
      (s.hpAt p).pushDrs s.tmo (drsWord 1 (hdrHost h) (hdrTag h) 0 0 1) 0 false none
    else (s.hpAt p).pushNdr s.tmo (ndrWord 4 (hdrHost h) (hdrTag h) 0 1 0) none) := by
  rw [State.fieldAnswer]
  exact (apply_ite (s.setHp p) _ _ _).symm

/-! ### Requests that are accepted -/

theorem State.reqReady_attached {v : BitVec 2} {caps : BitVec 32} (hm : s.mode.serves = true) (hu : s.hpUse p = true)
    (ha : (s.hpAt p).att = .attached v caps) (hf : (s.hpAt p).failed = false) (hl : (s.hpAt p).ledger.length < 2048) :
    s.reqReady p = true := by
  simp [State.reqReady, hm, hu, ha, hf, hl]

theorem State.tagOk_eq_true {e : Session} (he : e = s.ses (hdrHost h).toNat) (ho : hdrOpc h = op)
    (hst : if op = 0x10 then e.st = .closed else e.st = .opn ∧ e.port = p) (htag : bf h 33 30 = 0)
    (hnew : ∀ x ∈ (s.hpAt p).ledger, ∀ l, x.2 = some l → ¬ (hdrHost l.hdr = hdrHost h ∧ hdrTag l.hdr = hdrTag h)) :
    s.tagOk p h = true := by
  have hany : ((s.hpAt p).ledger.any fun x => x.2.any (·.sameTag h)) = false := by
    rw [List.any_eq_false]
    intro x hx
    cases hl : x.2 with
    | none => simp
    | some l => simpa [LedEnt.sameTag] using hnew x hx l hl
  rw [State.tagOk_eq, ← he, ho, hany, htag]
  split at hst
  · next h10 => simp [h10, hst]
  · next h10 => simp [h10, hst]

/-- The field checks of Table 3.4 for an accepted message. -/
theorem State.fieldsOk_eq_true {v : BitVec 2} {caps : BitVec 32} {e : Session} (he : e = s.ses (hdrHost h).toNat)
    (ha : (s.hpAt p).att = .attached v caps) (hst : if op = 0x10 then e.st = .closed else e.st = .opn ∧ e.port = p)
    (ho : hdrOpc h = op) (hcap : opcOk op v.toNat caps = true) (hmeta : ¬ (bt h 5 = true ∧ bf h 7 6 = 1))
    (hctx : if v = 1 ∨ op = 0x08 then hdrCtx h = 0 else op = 0x10 ∨ hdrCtx h = e.ctx) (hr1 : bf h 55 50 = 0)
    (hca : op ∈ [0x08, 0x10, 0x11] → hdrCaddr h = 0)
    (hdh : bf h 93 92 = 0 ∨ bt caps 6 = true ∧ op ∈ [0x18, 0x19] ∧ bf h 93 92 = 1)
    (hbe : op = 0x18 → be = BitVec.allOnes 64) (hbp : op = 0x19 → be ≠ BitVec.allOnes 64 ∧ be ≠ 0) (hr2 : bf h 127 94 = 0) :
    s.fieldsOk p op h be = true := by
  have hopen : op = 0x10 → e.st = .closed := fun h => by rwa [if_pos h] at hst
  have hmeta' : (bt h 5 && bf h 7 6 == 1) = false := by simpa using hmeta
  have hctx' : (if v = 1 then hdrCtx h == 0 else if op = 0x10 then e.st == .closed else if op = 0x08 then hdrCtx h == 0
      else hdrCtx h == e.ctx) = true := by
    by_cases hv : v = 1
    · simpa [hv] using hctx
    · by_cases h10 : op = 0x10
      · rw [if_neg hv, if_pos h10, hopen h10]
        rfl
      · by_cases h8 : op = 0x08
        · simpa [hv, h8] using hctx
        · simpa [hv, h10, h8] using hctx
  have hca' : (!(op == 0x08 || op == 0x10 || op == 0x11) || decide (hdrCaddr h = 0)) = true := by
    simpa [or_assoc, or_iff_not_imp_left] using hca
  have hdh' : (decide (bf h 93 92 = 0) || (bt caps 6 && (op == 0x18 || op == 0x19) && decide (bf h 93 92 = 1))) = true := by
    simpa [and_assoc] using hdh
  have hbe' : (if op = 0x18 then be == BitVec.allOnes 64 else if op = 0x19 then be != BitVec.allOnes 64 && be != 0 else true) = true := by
    split
    · next h18 => simp [hbe h18]
    · split
      · next h19 => simpa using hbp h19
      · rfl
  have hlast : (v != 1 || op != 0x10 || e.st == .closed) = true := by
    by_cases h10 : op = 0x10
    · simp [hopen h10]
    · simp [h10]
  simp only [State.fieldsOk, ← he, ho, ha, Att.ver, Att.caps, hcap, hmeta', hctx', hr1, hca', hdh', hbe', hr2, hlast, beq_self_eq_true,
    Bool.not_false, decide_true, Bool.and_true]

end Accept

/-! ### The ledger entry -/

/-- A map with fewer entries than keys lacks a key. -/
theorem smGet_none_of_length {α : Type} {m : SMap (Option α)} {n : Nat} (h : m.length < n) :
    ∃ k < n, smGet (fun _ => none) m k = none := by
  by_contra hall
  push Not at hall
  have hmem : ∀ k ∈ List.range n, k ∈ m.map Prod.fst := fun k hk => by
    by_contra hk'
    refine hall k (List.mem_range.mp hk) ?_
    have hkey : ∀ l : SMap (Option α), k ∉ l.map Prod.fst → smGet (fun _ => none) l k = none := by
      intro l hl
      induction l with
      | nil => rfl
      | cons e l ih =>
        rw [List.map_cons, List.mem_cons, not_or] at hl
        rw [smGet, if_neg hl.1, ih hl.2]
    exact hkey m hk'
  have hle := (List.nodup_range.subperm hmem).length_le
  rw [List.length_range, List.length_map] at hle
  omega

/-- An accepted request takes a free entry of a ledger that is not full. -/
theorem State.ledPut_free (u : State) (p : HpId) (h : BitVec 128) (data : Line) (be : BitVec 64) (poison : Bool) (st : LedSt)
    (hl : (u.hpAt p).ledger.length < 2048) : ∃ k, k < 2048 ∧ (u.hpAt p).led k = none ∧ (u.ledPut p h data be poison st).1 = k ∧
      (((u.ledPut p h data be poison st).2).hpAt p).led k = some {
        hdr := if (u.hpAt p).att.ver = 1 ∧ hdrOpc h ≠ 0x08 then setBf h 49 34 (u.hpAt p).v1ctx.toNat else h
        data := data, be := be, poison := poison, tag := u.ledTag p, st := st, seq := (u.hpAt p).accN } := by
  cases hk : firstFrom (fun i => ((u.hpAt p).led i).isNone) 2048 0 with
  | none =>
    obtain ⟨k, hk1, hk2⟩ := smGet_none_of_length hl
    have := firstFrom_none.mp hk k (Nat.zero_le k) (by omega)
    rw [HpShell.led, hk2] at this
    cases this
  | some k =>
    obtain ⟨hnone, -, hlt, -⟩ := firstFrom_some hk
    have hi : (u.ledPut p h data be poison st).1 = k := by rw [State.ledPut, hk]; rfl
    refine ⟨k, by omega, Option.isNone_iff_eq_none.mp hnone, hi, ?_⟩
    rw [State.ledPut, hk]
    simp [HpShell.led, HpShell.setLed]

/-- Settles O35: the message passes the checks, and its opcode decides what the entry it takes starts. -/
theorem hostRequestsAreAccepted : Obligations.HostRequestsAreAccepted := by
  unfold Obligations.HostRequestsAreAccepted
  intro s u p h data be poison c op v caps e hmem hsurv hmode huse hatt hfail hlen he hst htag hnew hop hcap hmeta hctx hr1 hca hdh
    hbe hbp hr2 hu
  replace hu : u = s.reqCounted p := hu
  have hrow : ∃ data' be' poison', (c, op, data, be, poison) ∈ hostRequests p h data' be' poison' := ⟨_, _, _, hmem⟩
  obtain ⟨data', be', poison', hrow⟩ := hrow
  have hexec : exec c s = .next (u.begin_ p h data be poison) := by
    have hclosing : ¬ ((s.ses (hdrHost h).toNat).st = .closing ∧ (s.hpAt p).coveredWr h = false) := by
      rw [← he]
      split at hst
      · rw [hst]; simp
      · rw [hst.1]; simp
    rw [exec_hostRequest hrow, State.accept_checks hsurv (State.reqReady_attached hmode huse hatt hfail hlen),
      State.tagOk_eq_true he hop hst htag hnew,
      State.fieldsOk_eq_true he hatt hst hop hcap hmeta hctx hr1 hca hdh hbe hbp hr2, if_neg hclosing, hu]
    rfl
  have hshell : u.hpAt p = s.hpAt p := by rw [hu, (s.reqCounted_counted p).hpAt]
  refine ⟨fun st => ?_, fun r hn hr => ?_, fun r hn hr => ?_, fun r hn hr => ?_⟩
  · have hver : (u.hpAt p).att.ver = v := by rw [hshell, hatt]; rfl
    have hput := u.ledPut_free p h data be poison st (by rw [hshell]; exact hlen)
    rwa [hver, hop] at hput
  · simp only [List.mem_cons, List.not_mem_nil, or_false, not_or] at hn
    rw [hexec, State.begin_, hop, if_neg (by tauto), if_neg hn.1, hr]
  · simp only [List.mem_cons, List.not_mem_nil, or_false] at hn
    rw [hexec, State.begin_, hop, if_pos hn, hr]
  · rw [hexec, State.begin_, hop, hn, if_neg (by decide), if_pos rfl, hr]

/-- Settles O36: a port that is not ready takes nothing, and a ready one answers by the check that fails. -/
theorem hostRequestsAreTurnedAway : Obligations.HostRequestsAreTurnedAway := by
  unfold Obligations.HostRequestsAreTurnedAway
  intro s u p h data be be' poison c op x hmem hu hx
  replace hu : u = (s.reqCounted p).raise (HA_HP_STAT + 4 * p.val) 7 := hu
  replace hmem : (c, op, be') ∈ (hostRequests p h data be poison).map fun r => (r.1, r.2.1, r.2.2.2.1) := hmem
  obtain ⟨⟨c', op', d, be'', z⟩, hrow, heq⟩ := List.mem_map.mp hmem
  cases heq
  have hexec := exec_hostRequest (s := s) hrow
  refine ⟨fun h1 => ?_, fun hs hr h1 => ?_, fun hs hr ht h1 => ?_⟩
  · rw [hexec, State.accept_unready (State.reqReady_eq_false h1)]
  · rw [hexec, State.accept_checks hs hr, State.tagOk_eq_false h1, hu]
    rfl
  · rw [hexec, State.accept_checks hs hr, ht, State.fieldsOk_eq_false h1, hx, ← hu, ← State.fieldAnswer_eq]
    rfl

end Sys2Proof.Machine
end

section
/-! Attach, detach, failure and recovery of host ports, and the reference tick (R48, R59, R86 to R88, R419). -/

namespace Sys2Proof.Machine

/-! ### Attach -/

theorem Mode.answers_iff (m : Mode) : m.answers = true ↔ m ∈ [Mode.standby, .service, .degraded] := by
  cases m <;> decide

theorem Mode.answers_eq_false {m : Mode} (h : m ∉ [Mode.standby, .service, .degraded]) : m.answers = false :=
  Bool.eq_false_iff.mpr (mt m.answers_iff.mp h)

section Attach

variable {s : State} {q : AttPort} {offer : BitVec 48}

theorem State.attReq_answers (hm : s.mode.answers = true) (hup : s.portUp q = true) (hi : s.att q = .idle) :
    s.attReq q offer = s.attAnswer q offer := by
  have hoff : s.mode ≠ .off := fun h => by rw [h] at hm; cases hm
  rw [State.attReq, if_neg (by simp [hoff, hup, hi]), if_pos hm]

theorem State.attReq_waits (hm : s.mode.answers = false) (hoff : s.mode ≠ .off) (hup : s.portUp q = true) (hi : s.att q = .idle) :
    s.attReq q offer = s.setAtt q (.waiting offer) := by
  rw [State.attReq, if_neg (by simp [hoff, hup, hi]), hm, if_neg Bool.false_ne_true]

theorem State.attPoll_answers (hm : s.mode.answers = true) (hup : s.portUp q = true) (hw : s.att q = .waiting offer) :
    s.attPoll q = s.attAnswer q offer := by
  simp [State.attPoll, hw, hm, hup]

/-- The ATTACH limit of an answered request (R87). -/
theorem State.attTmo_answered {w : BitVec 2} {caps : BitVec 32} {z : Nat} (ha : s.att q = .answered w caps z) :
    s.attTmo q = if s.mode.answers && s.past z s.attLimit then (s.setAtt q .refused).raise (portStat q) 8 else s := by
  simp only [State.attTmo, ha]

end Attach

/-- Settles O40: the answer to an offer is `attAnswer`; the other rows go by the state of the attach. -/
theorem attachOfAPort : Obligations.AttachOfAPort := by
  unfold Obligations.AttachOfAPort
  intro s ans q offer common v hcommon hv hans
  replace hans : ans = s.attAnswer q offer := by
    subst hcommon hv
    rw [hans]
    cases q <;> rfl
  refine ⟨fun hup hi => ⟨fun hm => ?_, fun hm hoff => ?_⟩, fun hm hup hw => ?_, fun h => congrArg _ (if_pos h),
    fun w caps z ha => ⟨?_, ?_, fun hm hp => ?_, fun h => ?_, ?_⟩, ?_, fun w caps ha => ⟨?_, ?_⟩⟩
  · rw [hans]
    exact congrArg _ (State.attReq_answers ((Mode.answers_iff _).mpr hm) hup hi)
  · exact congrArg _ (State.attReq_waits (Mode.answers_eq_false hm) hoff hup hi)
  · rw [hans, State.attPoll_answers ((Mode.answers_iff _).mpr hm) hup hw]
  · rintro m rfl
    change execAttachConfirm _ _ = _
    simp only [execAttachConfirm, State.attCfm, ha]
    rfl
  · rintro p u rfl rfl
    change execAttachConfirm _ _ = _
    simp only [execAttachConfirm, State.attCfm, ha]
  · change execAttachTimeout _ _ = _
    replace hp : s.past z s.attLimit = true := hp
    rw [execAttachTimeout, State.attTmo_answered ha, (Mode.answers_iff _).mpr hm, hp]
    rfl
  · change execAttachTimeout _ _ = _
    have hno : (s.mode.answers && s.past z s.attLimit) = false := by
      rcases h with hm | hp
      · rw [Mode.answers_eq_false hm, Bool.false_and]
      · rw [show s.past z s.attLimit = false from hp, Bool.and_false]
    rw [execAttachTimeout, State.attTmo_answered ha, hno, if_neg Bool.false_ne_true]
  · change execAttachAbandon _ _ = _
    simp only [execAttachAbandon, State.attDrop, ha]
  · change _ → execAttachAbandon _ _ = _
    rintro (ha | ha) <;> simp only [execAttachAbandon, State.attDrop, ha]
  · change execAttachAbandon _ _ = _
    simp only [execAttachAbandon, State.attDrop, ha]
  · change execAttachConfirm _ _ = _
    simp only [execAttachConfirm, State.attCfm, ha]

/-! ### Failure of a host port -/

section HostPort

variable {s : State} {p : HpId} {ch : HpOut}

theorem State.hpDetach_same (h : ∀ v c, (s.hpAt p).att ≠ .attached v c) : s.hpDetach p = s := by
  unfold State.hpDetach
  split
  · next v c ha => exact absurd ha (h v c)
  · rfl

theorem State.hpDown_used (hm : s.mode ≠ .off) (hu : s.hpUse p = true) (why : FailCause) : s.hpDown p why = match why with
    | .partnerReset => (s.setHp p { s.hpAt p with partnerRst := true }).hpFail p 1
    | .clock => (s.setHp p { s.hpAt p with clkOk := false }).hpFail p 0 :=
  if_neg (by simp [hm, hu])

theorem State.hpOutLate_past (ho : s.hpOutOn p = true) (hw : (s.hpAt p).waitsOut ch = true)
    (hp : s.past (smGet (fun _ => 0) (s.hpAt p).outSince (hpOutIx ch)) (s.fld HA_PORT_TMO 7 0 * 1024) = true) :
    s.hpOutLate p ch = (s.raise (HA_HP_STAT + 4 * p.val) 6).hpFail p 0 :=
  if_pos (by rw [ho, hw, hp]; rfl)

theorem State.hpOutLate_same
    (hp : s.past (smGet (fun _ => 0) (s.hpAt p).outSince (hpOutIx ch)) (s.fld HA_PORT_TMO 7 0 * 1024) = false) :
    s.hpOutLate p ch = s :=
  if_neg (by rw [hp, Bool.and_false]; exact Bool.false_ne_true)

end HostPort

/-- Settles O41: each way to fail is `hpFail` after its cause is noted. -/
theorem hostPortsFailAndLeave : Obligations.HostPortsFailAndLeave := by
  unfold Obligations.HostPortsFailAndLeave
  intro s p x fail hx hfail
  replace hfail : fail = fun s cause => s.hpFail p cause := hfail
  subst hx hfail
  refine ⟨fun v c ha => ?_, fun h => ?_, fun hm hu => ⟨?_, ?_, ?_⟩, fun h => ⟨fun why => ?_, ?_⟩, fun ch ho hw => ⟨fun hp => ?_, fun hp => ?_⟩,
    fun h => congrArg _ (if_pos h), fun h => congrArg _ (if_neg (by rw [h]; exact Bool.false_ne_true)), rfl⟩
  · change execHostDetach _ _ = _
    simp only [execHostDetach, State.hpDetach, ha]
  · exact congrArg (fun u : State => Host.Outcome.next u.goOn) (State.hpDetach_same h)
  · exact congrArg (fun u : State => Host.Outcome.next u.goOn) (State.hpDown_used hm hu .partnerReset)
  · exact congrArg (fun u : State => Host.Outcome.next u.goOn) (State.hpDown_used hm hu .clock)
  · exact congrArg _ (if_neg (by simp [hm, hu]))
  · exact congrArg (fun u : State => Host.Outcome.next u.goOn) (if_pos h)
  · exact congrArg _ (if_pos h)
  · exact congrArg (fun u : State => Host.Outcome.next u.goOn) (State.hpOutLate_past ho hw hp)
  · exact congrArg (fun u : State => Host.Outcome.next u.goOn) (State.hpOutLate_same hp)

end Sys2Proof.Machine
end

section
/-! Messages that leave a host port (R39, R41, R108, R197). -/

namespace Sys2Proof.Machine

section Outbound

variable {s : State} {p : HpId}

theorem exec_outboundMessage (hs : s.survSyn = []) (ch : HpOut) : exec (.outboundMessage p ch) s = .next (s.outMsg p ch).goOn := by
  change execOutboundMessage _ _ _ = _
  rw [execOutboundMessage, State.survThen, if_pos hs]

theorem State.hpOutOn_eq_true (hm : s.mode ≠ .off) (hu : s.hpUse p = true) (hc : (s.hpAt p).clkOk = true)
    (hr : (s.hpAt p).partnerRst = false) (hf : (s.hpAt p).failed = false) : s.hpOutOn p = true := by
  simp [State.hpOutOn, hm, hu, hc, hr, hf]

theorem State.hpOutOn_eq_false (h : s.mode = .off ∨ (s.hpAt p).failed = true) : s.hpOutOn p = false := by
  rcases h with h | h
  · simp [State.hpOutOn, h]
  · simp [State.hpOutOn, h]

/-- A response that leaves frees the ledger entry it answers (R41). -/
def HpShell.retire (x : HpShell) : Option Nat → HpShell
  | some i => x.setLed i none
  | none => x

theorem State.outMsg_ndr (ho : s.hpOutOn p = true) {m : BitVec 64} {i : Option Nat} {rest : List (BitVec 64 × Option Nat)}
    (hq : (s.hpAt p).ndr = (m, i) :: rest) : s.outMsg p .ndr = (s.setHp p
      (({ s.hpAt p with ndr := rest }.retire i).heads { s.hpAt p with ndr := [] } s.tmo)).cntB 0x102 1 := by
  simp only [State.outMsg, ho, hq]
  cases i <;> rfl

theorem State.outMsg_drs (ho : s.hpOutOn p = true) {m : BitVec 64} {d : Line} {b : Bool} {i : Option Nat}
    {rest : List (BitVec 64 × Line × Bool × Option Nat)} (hq : (s.hpAt p).drs = (m, d, b, i) :: rest) :
    s.outMsg p .drs = (s.setHp p
      (({ s.hpAt p with drs := rest }.retire i).heads { s.hpAt p with drs := [] } s.tmo)).cntB 0x102 1 := by
  simp only [State.outMsg, ho, hq]
  cases i <;> rfl

/-- A queued snoop that leaves starts its limit (R108). -/
theorem State.outMsg_bis (ho : s.hpOutOn p = true) {i : Nat} {sl : Slot} {rest : List Nat} (hq : (s.hpAt p).bis = i :: rest)
    (hsl : (s.hpAt p).slotAt i = some sl) (hst : sl.st = .queued) : s.outMsg p .bis = (s.setHp p
      ((HpShell.setSlot { s.hpAt p with bis := rest, bisOut := some (sl.bisWord i) } i (some { sl with
        st := .out (s.tmo + s.snpLimit), ts := s.time })).heads { s.hpAt p with bis := [] } s.tmo)).cntB 0x103 1 := by
  have hslot (b : List Nat) (o : Option (BitVec 128)) : HpShell.slotAt { s.hpAt p with bis := b, bisOut := o } i = some sl := hsl
  simp only [State.outMsg, ho, hq, hsl, Option.map_some, hslot, hst]
  rfl

theorem State.outMsg_same {ch : HpOut} (h : (s.hpAt p).waitsOut ch = false ∨ s.hpOutOn p = false) : s.outMsg p ch = s := by
  unfold State.outMsg
  cases ho : s.hpOutOn p with
  | false => rfl
  | true =>
    replace h := h.resolve_right (by simp [ho])
    cases ch <;> · simp only [HpShell.waitsOut, bne_eq_false_iff_eq] at h; simp [h]

/-- The one held acknowledgement is ready once no answered entry of its host for its line is left (R197). -/
theorem HpShell.ackReady_single {x : HpShell} {a : BicAck} (ha : x.bicAcks = [a])
    (h : ∀ i l, (i, some l) ∈ x.ledger → l.st = .answered → hdrHost l.hdr = a.host → l.pla ≠ a.pla) : x.ackReady = some a := by
  rw [HpShell.ackReady, ha, List.find?_singleton, if_pos]
  rw [Bool.not_eq_true', List.any_eq_false]
  rintro ⟨i, o⟩ he
  cases o with
  | none => simp
  | some l =>
    have := h i l he
    simp only [Bool.and_eq_true, beq_iff_eq]
    rintro ⟨⟨h1, h2⟩, h3⟩
    exact this h1 h2 h3

/-- The BI_CONFLICT that an acknowledgement answers. -/
def BicAck.of (a : BicAck) (e : Nat × Option LedEnt) : Bool :=
  match e.2 with
  | some l => hdrHost l.hdr == a.host && hdrTag l.hdr == a.tag && hdrOpc l.hdr == 5
  | none => false

theorem State.bicOut_eq {a : BicAck} (hr : (s.hpAt p).ackReady = some a) : s.bicOut p =
    let u := s.setHp p { s.hpAt p with bicAcks := (s.hpAt p).bicAcks.erase a }
    match (s.hpAt p).ledger.find? a.of with
    | some (i, _) => u.answerNdr p i (ndrWord 3 a.host a.tag a.devload.toNat 0 0)
    | none => u := by
  rw [State.bicOut, hr]
  rfl

theorem State.bicOut_ready {a : BicAck} {i : Nat} {o : Option LedEnt} (ha : (s.hpAt p).bicAcks = [a])
    (hr : (s.hpAt p).ackReady = some a) (hl : (s.hpAt p).ledger.find? a.of = some (i, o)) : s.bicOut p =
      (s.setHp p { s.hpAt p with bicAcks := [] }).answerNdr p i (ndrWord 3 a.host a.tag a.devload.toNat 0 0) := by
  rw [State.bicOut_eq hr, hl, ha, List.erase_cons_head]

end Outbound

/-- Settles O39, channel by channel. -/
theorem outboundMessages : Obligations.OutboundMessages := by
  unfold Obligations.OutboundMessages
  intro s p x hx hs
  subst hx
  refine ⟨fun hm hu hc hr hf => ?_, fun ch h => ?_, fun a ha hnone i l hl => ?_, fun ha => ?_⟩
  · have ho := State.hpOutOn_eq_true hm hu hc hr hf
    refine ⟨fun m k rest hq => ?_, fun m rest hq => ?_, fun m d b k rest hq => ?_, fun i sl rest hq hsl hst => ?_⟩
    · rw [exec_outboundMessage hs, State.outMsg_ndr ho hq]
      rfl
    · rw [exec_outboundMessage hs, State.outMsg_ndr ho hq]
      rfl
    · rw [exec_outboundMessage hs, State.outMsg_drs ho hq]
      rfl
    · rw [exec_outboundMessage hs, State.outMsg_bis ho hq hsl hst]
      rfl
  · rw [exec_outboundMessage hs, State.outMsg_same (h.imp_right State.hpOutOn_eq_false)]
  · exact congrArg (fun u : State => Host.Outcome.next u.goOn) (State.bicOut_ready ha (HpShell.ackReady_single ha hnone) hl)
  · have hnone : (s.hpAt p).ackReady = none := by rw [HpShell.ackReady, ha]; rfl
    change execBiConflictAck _ _ = _
    simp only [execBiConflictAck, State.bicOut, hnone]

end Sys2Proof.Machine
end

section
/-! Detach, failure and recovery of media ports, and the windows of the partner clocks (R44, R48, R427, R428). -/

namespace Sys2Proof.Machine

/-! ### Detach -/

section Detach

variable {s : State} {m : MpId}

theorem State.mpDetReq_same (h : ∀ v c, (s.mpAt m).att ≠ .attached v c) : s.mpDetReq m = s := by
  unfold State.mpDetReq
  split
  · next v c ha => exact absurd ha (h v c)
  · rfl

/-- A port that detaches leaves the attached state once it is drained and no active map entry names it (R427). -/
theorem State.mpDetEnd_done {v : BitVec 2} {c : BitVec 32} (ha : (s.mpAt m).att = .detaching v c) (hd : (s.mpAt m).drained = true)
    (hmap : ∀ k < 8, s.activeMp k ≠ m) : s.mpDetEnd m = (s.setMp m { s.mpAt m with att := .idle }).setFld HA_MP_DET m.val m.val 0 := by
  simp only [State.mpDetEnd, ha]
  exact if_pos (by simpa [hd] using hmap)

theorem State.mpDetEnd_same {v : BitVec 2} {c : BitVec 32} (ha : (s.mpAt m).att = .detaching v c)
    (h : (s.mpAt m).drained = false ∨ ∃ k < 8, s.activeMp k = m) : s.mpDetEnd m = s := by
  simp only [State.mpDetEnd, ha]
  refine if_neg ?_
  rcases h with h | ⟨k, hk, hkm⟩
  · simp [h]
  · simp only [Bool.and_eq_true, List.all_eq_true, List.mem_range, bne_iff_ne]
    exact fun hall => hall.2 k hk hkm

end Detach

/-! ### Failure -/

section Failure

variable {s : State} {m : MpId}

theorem State.mpDown_used (hm : s.mode ≠ .off) (hu : s.mpUse m = true) (why : FailCause) : s.mpDown m why = match why with
    | .partnerReset => (s.setMp m { s.mpAt m with partnerRst := true }).mpFail m
    | .clock => (s.setMp m { s.mpAt m with clkOk := false }).mpFail m :=
  if_neg (by simp [hm, hu])

theorem State.mpOutLate_since {z : Nat} (hz : (s.mpAt m).outSince = some z) : s.mpOutLate m =
    if s.portUp (.mp m) && s.mpOn m && (s.mpAt m).reqQ != [] && s.past z (s.fld HA_PORT_TMO 15 8 * 1024) then
      (s.raise (HA_MP_STAT + 4 * m.val) 6).mpFail m
    else s := by
  simp only [State.mpOutLate, hz]

theorem State.mpOutLate_none (hz : (s.mpAt m).outSince = none) : s.mpOutLate m = s := by
  simp only [State.mpOutLate, hz]

end Failure

/-! ### Partner clocks -/

section Clock

variable {s : State} {c : Nat}

/-- A window of a host or media port is good from 1,946 to 12,902 edges (Tables 2.1 and 2.2). -/
theorem clkInRange_mp (m : MpId) : clkInRange (.mp m) c = decide (1946 ≤ c ∧ c ≤ 12902) := (Bool.decide_and _ _).symm
theorem clkInRange_hp (p : HpId) : clkInRange (.hp p) c = decide (1946 ≤ c ∧ c ≤ 12902) := (Bool.decide_and _ _).symm

theorem State.clkCheck_mp_good {m : MpId} (hm : s.mode ≠ .off) (hu : s.mpUse m = true) (h1 : 1946 ≤ c) (h2 : c ≤ 12902) :
    s.clkCheck (.mp m) c = s.setMp m { s.mpAt m with clkOk := true } := by
  simp [State.clkCheck, clkInRange_mp, h1, h2, hm, hu]

theorem State.clkCheck_mp_bad {m : MpId} (h : c < 1946 ∨ 12902 < c) : s.clkCheck (.mp m) c = s.mpDown m .clock := by
  have hout : ¬ (1946 ≤ c ∧ c ≤ 12902) := by omega
  simp [State.clkCheck, clkInRange_mp, hout]

theorem State.clkCheck_hp_good {p : HpId} (hm : s.mode ≠ .off) (hu : s.hpUse p = true) (h1 : 1946 ≤ c) (h2 : c ≤ 12902) :
    s.clkCheck (.hp p) c = s.setHp p { s.hpAt p with clkOk := true } := by
  simp [State.clkCheck, clkInRange_hp, h1, h2, hm, hu]

theorem State.clkCheck_hp_bad {p : HpId} (h : c < 1946 ∨ 12902 < c) : s.clkCheck (.hp p) c = s.hpDown p .clock := by
  have hout : ¬ (1946 ≤ c ∧ c ≤ 12902) := by omega
  simp [State.clkCheck, clkInRange_hp, hout]

theorem exec_clockWindowCheck {u : State} {q : ClkPort} (h : s.clkCheck q c = u) : exec (.clockWindowCheck q c) s = .next u.goOn :=
  congrArg (fun u : State => Host.Outcome.next u.goOn) h

end Clock

/-- Settles O44: each way to fail is `mpFail` after its cause is noted. -/
theorem mediaPortsFailAndLeave : Obligations.MediaPortsFailAndLeave := by
  unfold Obligations.MediaPortsFailAndLeave
  intro s m x fail hx hfail
  replace hfail : fail = fun u => u.mpFail m := hfail
  subst hx hfail
  refine ⟨fun v c ha => ?_, fun h => congrArg _ (State.mpDetReq_same h), fun v c ha => ⟨fun h => ?_, fun h => ?_⟩,
    fun hm hu => ⟨?_, ?_, congrArg _ (if_neg (by simp [hm, hu])), fun c h1 h2 => exec_clockWindowCheck (State.clkCheck_mp_good hm hu h1 h2),
      fun c h => exec_clockWindowCheck ((State.clkCheck_mp_bad h).trans (State.mpDown_used hm hu .clock))⟩,
    fun p c hm hu => ⟨fun h1 h2 => exec_clockWindowCheck (State.clkCheck_hp_good hm hu h1 h2),
      fun h => exec_clockWindowCheck ((State.clkCheck_hp_bad h).trans (State.hpDown_used hm hu .clock))⟩,
    fun q c hq => ?_, fun z hz hup hon hq => ⟨fun hp => ?_, fun hp => ?_⟩, fun hz => ?_⟩
  · change execMediaDetachRequest _ _ = _
    simp only [execMediaDetachRequest, State.mpDetReq, ha]
  · exact congrArg _ (State.mpDetEnd_done ha h.1 h.2)
  · exact congrArg _ (State.mpDetEnd_same ha h)
  · exact congrArg (fun u : State => Host.Outcome.next u.goOn) (State.mpDown_used hm hu .partnerReset)
  · exact congrArg (fun u : State => Host.Outcome.next u.goOn) (State.mpDown_used hm hu .clock)
  · simp only [List.mem_cons, List.not_mem_nil, or_false] at hq
    rcases hq with rfl | rfl | rfl | rfl | rfl <;> rfl
  · exact congrArg (fun u : State => Host.Outcome.next u.goOn) ((State.mpOutLate_since hz).trans (if_pos (by simp [hup, hon, hq, hp])))
  · exact congrArg (fun u : State => Host.Outcome.next u.goOn) ((State.mpOutLate_since hz).trans (if_neg (by simp [hp])))
  · exact congrArg (fun u : State => Host.Outcome.next u.goOn) (State.mpOutLate_none hz)

end Sys2Proof.Machine
end

section
/-! Media read data and the hand-off of media requests (R30, R49, R91, R203, R237). -/

namespace Sys2Proof.Machine

/-! ### Read data -/

/-- Some read of flow `k` of node `n` is outstanding at a media port. -/
def State.readsLeft (s : State) (n : NodeId) (k : Nat) : Bool :=
  allMp.any fun j => (s.mpAt j).mtags.any fun q => match q.2 with
    | some z => z.own == .flow n k && z.kind == .rd && !z.orphan
    | none => false

theorem State.readsLeft_iff (s : State) (n : NodeId) (k : Nat) : s.readsLeft n k = true ↔
    ∃ j, ∃ q ∈ (s.mpAt j).mtags, ∃ z, q.2 = some z ∧ z.own = .flow n k ∧ z.kind = .rd ∧ z.orphan = false := by
  have hmp (j : MpId) : j ∈ allMp := List.mem_finRange j
  simp only [State.readsLeft, List.any_eq_true]
  constructor
  · rintro ⟨j, -, ⟨i, o⟩, hq, hz⟩
    cases o with
    | none => cases hz
    | some z => exact ⟨j, _, hq, z, rfl, by simpa [and_assoc] using hz⟩
  · rintro ⟨j, ⟨i, o⟩, hq, z, rfl, hz⟩
    exact ⟨j, hmp j, _, hq, by simpa [and_assoc] using hz⟩

/-- The line-buffer entry of a line that has landed (R237). -/
def Lbe.filled (b : Lbe) (data : Line) (poison : Bool) : Lbe :=
  { b with data := data, mask := 0, poison := poison, landed := true, parBad := 0 }

section Read

variable {s : State} {m : MpId} {i k line : Nat} {n : NodeId} {g : Mtag} {data : Line} {poison : Bool}

/-- A line of a live flow lands in the entry its tag names, and the flow wakes. -/
theorem State.readLand_flow {e : Nat} {a b : State} (hg : (s.mpAt m).mtag i = some g) (hown : g.own = .flow n k) (ho : g.orphan = false)
    (hv : ((s.nd n).trkAt k).v = true) (hsyn : smGet (fun _ => (0 : BitVec 8)) ((s.nd n).trkAt k).syn 4 = 0)
    (he : e = g.ents.getD line 0) (hlb : ((s.nd n).lbAt e).own = some k)
    (ha : a = s.setMp m ((s.mpAt m).setTag i (if setBt g.left line false = 0 then none else some { g with left := setBt g.left line false })))
    (hb : b = a.modNd n fun y => y.setLb e ((y.lbAt e).filled data poison)) :
    s.readLand m i line data poison =
      (((if a.readsLeft n k then b else b.modTrk n k fun r => r.setW4 28 28 0).wake n k).settle n, some (.flow n k)) := by
  have hnd : a.nd n = s.nd n := by rw [ha]; rfl
  have hput : (a.modNd n fun y => let l := y.lbAt e
      if l.own = some k then y.setLb e { l with data := data, mask := 0, poison := poison, landed := true, parBad := 0 } else y) = b :=
    (State.modNd_congr (by rw [hnd]; exact if_pos hlb)).trans hb.symm
  have hleft : b.readsLeft n k = a.readsLeft n k := by rw [hb]; rfl
  have hupd (f : Trk → Trk) : b.updTrk n k 4 f = b.modTrk n k f := by
    refine State.updTrk_intact ?_ f
    rw [hb, State.nd_modNd_self, Node.trkAt_setLb, hnd]
    exact hsyn
  rw [State.readLand, hg]
  dsimp only
  rw [← ha, ho, if_neg Bool.false_ne_true, hown]
  dsimp only
  rw [hnd, hv, if_neg (by decide), ← he]
  dsimp only at hput
  rw [hput, hupd, ← hleft]
  change (((if (!b.readsLeft n k) = true then b.modTrk n k fun r => r.setW4 28 28 0 else b).wake n k).settle n, _) = _
  cases b.readsLeft n k <;> rfl

theorem State.rdOk_eq {hdr : BitVec 64} (hg : (s.mpAt m).mtag (bf hdr 11 0) = some g) :
    s.rdOk m hdr = (g.kind == .rd && g.handed && bt g.left (bf hdr 13 12) && bf hdr 63 14 == 0) := by
  rw [State.rdOk, hg]

theorem State.rdIn_sunk {hdr : BitVec 64} (h : s.mpIn m = false ∨ s.sinks = true) : s.rdIn m hdr data poison = s := by
  refine if_pos ?_
  rcases h with h | h <;> simp [h]

theorem State.rdIn_field {hdr : BitVec 64} (hin : s.mpIn m = true) (hs : s.sinks = false) (hok : s.rdOk m hdr = false) :
    s.rdIn m hdr data poison = s.raise (HA_MP_STAT + 4 * m.val) 7 := by
  rw [State.rdIn, hin, hs, hok]
  rfl

/-- Data that a flow waits for does what its landing does. -/
theorem State.rdIn_flow {hdr : BitVec 64} {u : State} (hin : s.mpIn m = true) (hs : s.sinks = false) (hok : s.rdOk m hdr = true)
    (hr : s.readLand m (bf hdr 11 0) (bf hdr 13 12) data poison = (u, some (.flow n k))) : s.rdIn m hdr data poison = u := by
  rw [State.rdIn, hin, hs, hok]
  simp only [hr]
  rfl

theorem exec_mediaReadData {hdr : BitVec 64} {u : State} (hs : s.survSyn = []) (h : s.rdIn m hdr data poison = u) :
    exec (.mediaReadData m hdr data poison) s = .next u.goOn := by
  change execMediaReadData _ _ _ _ _ = _
  rw [execMediaReadData, State.survThen, if_pos hs, h]

end Read

/-! ### Hand-off -/

/-- The back end has taken the request of tag `i` from the head of the queue (R49, R203). -/
def State.handTaken (s : State) (m : MpId) (i : Nat) (rest : List Nat) (g : Mtag) : State :=
  s.setMp m (MpShell.setTag { s.mpAt m with
    reqQ := rest, outSince := if rest = [] then none else some s.tmo
    reqOut := some (g.hdr i, if g.kind = .wr then g.data else 0) } i (some { g with handed := true, at_ := s.tmo }))

/-- The hand-off of the write of a ledger entry is in (R116). -/
def State.handNoted (s : State) (c : HpId × Nat × BitVec 64) : State := s.setHp c.1 ((s.hpAt c.1).handed c.2.1)

/-- A write of a flow that is handed off is counted, and its store-buffer place is free (R245). -/
def State.handFreed (u : State) (m : MpId) (n : NodeId) (g : Mtag) : State :=
  match g.sb with
  | some q => (u.cntB (0x120 + m.val) 1).freeSb n q
  | none => u.cntB (0x120 + m.val) 1

/-- What then ends for the flow of a write and its response that waits for DURABLE, and the CMP that the hand-off carries (R30). -/
def State.handEnds (y : State) (n : NodeId) (k : Nat) (g : Mtag) : State :=
  let y := match g.onack with
    | some c => y.handNoted c
    | none => y
  let y := match g.comp with
    | some c => (y.handNoted c).answerNdr c.1 c.2.1 (setBt c.2.2 36 false)
    | none => y
  (y.modTrk n k fun r => { r with wbOff := r.wbOff || r.kind == 1 }).settle n

section HandOff

variable {s : State} {m : MpId} {i k : Nat} {n : NodeId} {g : Mtag} {rest : List Nat}

theorem State.handOff_empty (hq : (s.mpAt m).reqQ = []) : s.handOff m = s := by
  simp only [State.handOff, hq]

theorem State.handOff_other (hq : (s.mpAt m).reqQ = i :: rest) (hg : (s.mpAt m).mtag i = some g) (hk : g.kind ≠ .wr) :
    s.handOff m = s.handTaken m i rest g := by
  have hmt (o : Option Nat) : MpShell.mtag { s.mpAt m with reqQ := rest, outSince := o } i = some g := hg
  simp only [State.handOff, hq, hmt, State.handTaken, beq_iff_eq]
  exact if_pos hk

theorem State.handOff_write (hq : (s.mpAt m).reqQ = i :: rest) (hg : (s.mpAt m).mtag i = some g) (hk : g.kind = .wr)
    (hown : g.own = .flow n k) (hp : g.pair = none) : s.handOff m = ((s.handTaken m i rest g).handFreed m n g).handEnds n k g := by
  have hmt (o : Option Nat) : MpShell.mtag { s.mpAt m with reqQ := rest, outSince := o } i = some g := hg
  simp only [State.handOff, hq, hmt, beq_iff_eq, hp, hown, Option.bind_none, State.handTaken, State.handFreed, State.handEnds, State.complete]
  rw [if_neg (by simp [hk])]
  cases g.sb <;> cases g.onack <;> cases g.comp <;> rfl

theorem exec_handoff {u : State} (hup : s.portUp (.mp m) = true) (hs : s.survSyn = []) (h : s.handOff m = u) :
    exec (.handoff m) s = .next u.goOn := by
  change execHandoff _ _ = _
  rw [execHandoff, if_pos hup, State.survThen, if_pos hs, h]

end HandOff

/-- Settles O42: a line lands as `readLand` has it, and a hand-off is `handTaken`, after which a write does `handEnds`. -/
theorem mediaReadsAndHandOff : Obligations.MediaReadsAndHandOff := by
  unfold Obligations.MediaReadsAndHandOff
  intro s m hdr data poison i k n g x hx hg hown hs hsyn
  subst hx
  refine ⟨?_, fun hin hsink hi hbad => ?_, fun h => exec_mediaReadData hs (State.rdIn_sunk h), ?_,
    fun hup hq => exec_handoff hup hs (State.handOff_empty hq), fun hup => congrArg _ (if_neg (by rw [hup]; exact Bool.false_ne_true))⟩
  · intro a b c line e left hi hline he hleft hin hsink hk hh hb0 hf ho hv hlb ha hb hc
    subst hi hline hleft
    have hok : s.rdOk m hdr = true := by rw [State.rdOk_eq hg, hk, hh, hb0, hf]; rfl
    replace hc : c = if a.readsLeft n k then b else b.modTrk n k fun r => r.setW4 28 28 0 := by
      rw [hc]
      simp only [State.readsLeft_iff]
    rw [hc]
    exact exec_mediaReadData hs (State.rdIn_flow hin hsink hok (State.readLand_flow hg hown ho hv hsyn he hlb ha hb))
  · subst hi
    refine exec_mediaReadData hs (State.rdIn_field hin hsink ?_)
    rw [State.rdOk_eq hg]
    rcases hbad with h | h | h <;> simp [h]
  · intro rest u hup hq hu
    replace hu : u = s.handTaken m i rest g := hu
    subst hu
    refine ⟨fun hk => exec_handoff hup hs (State.handOff_other hq hg hk), fun y fin hk hp hy hfin => ?_⟩
    have hwr := exec_handoff hup hs (State.handOff_write hq hg hk hown hp)
    replace hy : y = (s.handTaken m i rest g).handFreed m n g := hy
    rw [hwr, ← hy, hfin, State.handEnds]
    exact ⟨fun h1 h2 => by rw [h1, h2], fun c h1 h2 => by rw [h1, h2]; rfl, fun c h1 h2 => by rw [h1, h2]; rfl⟩

end Sys2Proof.Machine
end

section
/-! Sending the oldest entry of a store buffer (R93, R292, R296, R365). -/

namespace Sys2Proof.Machine

/-- Entry `e` of thread `t` is sent: its limit runs, and no store merges with it any longer (R226). -/
def State.sbSent (s : State) (t : Thr) (e : SbEnt) : State :=
  s.modSb t e.id fun e => { e with sent := some s.accLimit, merging := false }

section Send

variable {s : State} {t : Thr} {e : SbEnt}

/-! ### Which command sends -/

theorem Thread.sbMaySend_iff {x : Thread} :
    x.sbMaySend e = true ↔ e.merging = false ∨ e.mask = BitVec.allOnes 64 ∨ 16 ≤ x.sb.length := by
  simp [Thread.sbMaySend, or_assoc]

/-- Either command sends the oldest unsent entry when its rule lets it go. -/
theorem exec_sends {c : Instr} (he : (s.thr t).sbNextOut = some e)
    (hc : c = .storeBufferSend t ∧ (e.merging = false ∨ e.mask = BitVec.allOnes 64 ∨ 16 ≤ (s.thr t).sb.length) ∨
      c = .mergeEntryAge t ∧ e.merging = true ∧ 33 ≤ e.age) : exec c s = .next (s.sbSendOne t e).goOn := by
  rcases hc with ⟨rfl, h⟩ | ⟨rfl, hm, ha⟩
  · change execStoreBufferSend t s = _
    simp only [execStoreBufferSend, he]
    rw [if_pos (Thread.sbMaySend_iff.mpr h)]
  · change execMergeEntryAge t s = _
    simp only [execMergeEntryAge, he]
    rw [if_pos (by simp [hm, ha])]

theorem exec_storeBufferSend_none (he : (s.thr t).sbNextOut = none) : exec (.storeBufferSend t) s = .next s := by
  change execStoreBufferSend t s = _
  simp only [execStoreBufferSend, he]

theorem exec_mergeEntryAge_none (he : (s.thr t).sbNextOut = none) : exec (.mergeEntryAge t) s = .next s := by
  change execMergeEntryAge t s = _
  simp only [execMergeEntryAge, he]

theorem exec_storeBufferSend_waits (he : (s.thr t).sbNextOut = some e) (h : (s.thr t).sbMaySend e = false) :
    exec (.storeBufferSend t) s = .next s := by
  change execStoreBufferSend t s = _
  simp only [execStoreBufferSend, he]
  rw [h, if_neg Bool.false_ne_true]

theorem exec_mergeEntryAge_waits (he : (s.thr t).sbNextOut = some e) (h : e.merging = false ∨ e.age < 33) :
    exec (.mergeEntryAge t) s = .next s := by
  change execMergeEntryAge t s = _
  simp only [execMergeEntryAge, he]
  refine congrArg _ (if_neg ?_)
  simp only [Bool.and_eq_true, decide_eq_true_eq]
  rintro ⟨h1, h2⟩
  rcases h with h | h
  · simp [h] at h1
  · omega

/-! ### What is sent -/

theorem State.sbSendOne_held (hp : e.parBad = false) (hh : s.sbHeld t e = true) : s.sbSendOne t e = s := by
  rw [State.sbSendOne, hp, if_neg Bool.false_ne_true, if_pos hh]

/-- At an engine a parity error discards the entry and shows SB_PAR (Table 15.1). -/
theorem State.sbSendOne_parity {n : NodeId} (ht : t.core = .node n) (hp : e.parBad = true) (hk : e.kind ≠ .mwr) :
    s.sbSendOne t e = (s.discard t e).raise (ndA n ND_SCRUB_ERR) 6 := by
  have hall : s.discardAll t e = s.discard t e := by
    unfold State.discardAll
    split
    · next h => exact absurd h hk
    · rfl
  rw [State.sbSendOne, if_pos hp, State.sbParity, hall, ht]

section Free

variable (hp : e.parBad = false) (hh : s.sbHeld t e = false)
include hp hh

theorem State.sbSendOne_mgt (hk : e.kind = .mgt) : s.sbSendOne t e = s.sbSent t e := by
  rw [State.sbSendOne, hp, if_neg Bool.false_ne_true, hh, if_neg Bool.false_ne_true, hk]
  rfl

theorem State.sbSendOne_store (hk : e.kind = .st) (hb : ∀ b, regOfCanon e.addr ≠ .bm b) : s.sbSendOne t e = s.sbSent t e := by
  rw [State.sbSendOne, hp, if_neg Bool.false_ne_true, hh, if_neg Bool.false_ne_true, hk]
  dsimp only
  split
  · next b h => exact absurd h (hb b)
  · rfl

theorem State.sbSendOne_bm {b i : Nat} {u : State} (hk : e.kind = .st) (hb : regOfCanon e.addr = .bm b)
    (hi : s.bmIssue (.acc t (some e.id)) true (b / 64) e.mask e.data = some (i, u)) : s.sbSendOne t e = u.sbSent t e := by
  rw [State.sbSendOne, hp, if_neg Bool.false_ne_true, hh, if_neg Bool.false_ne_true, hk, hb]
  dsimp only
  rw [hi]
  rfl

/-- A write whose tag has no partner is queued at its media port (R49). -/
theorem State.sbSendOne_mwr {m : MpId} {g : Mtag} (hk : e.kind = .mwr) (hm : m = Fin.ofNat 8 e.mp) (hg : (s.mpAt m).mtag e.mtag = some g)
    (hpair : g.pair = none) : s.sbSendOne t e = (s.mpQueue m e.mtag).sbSent t e := by
  have hq : ((s.mpQueue m e.mtag).mpAt m).mtag e.mtag = some g := by rw [State.mpQueue, State.mpAt_setMp_self]; exact hg
  rw [State.sbSendOne, hp, if_neg Bool.false_ne_true, hh, if_neg Bool.false_ne_true, hk]
  dsimp only
  rw [← hm, hq]
  dsimp only
  rw [hpair]
  rfl

end Free

end Send

/-- Settles O32: both commands do `sbSendOne`, whose effect goes by the kind of the entry. -/
theorem storeBufferSends : Obligations.StoreBufferSends := by
  unfold Obligations.StoreBufferSends
  rintro s t x rfl
  refine ⟨fun e c he hc => ?_, fun he => ⟨exec_storeBufferSend_none he, exec_mergeEntryAge_none he⟩,
    fun e he => ⟨fun hm hf hl => ?_, exec_mergeEntryAge_waits he⟩⟩
  · rw [exec_sends he hc]
    refine ⟨fun hp hh => ?_, fun n ht hp hk => ?_, fun hp hh hk => ?_, fun m g hp hh hk hm hg hpair => ?_, fun b g u hp hh hk hb hi => ?_⟩
    · rw [State.sbSendOne_held hp hh]
    · rw [State.sbSendOne_parity ht hp hk]
      rfl
    · rcases hk with hk | ⟨hk, hb⟩
      · rw [State.sbSendOne_mgt hp hh hk]
        rfl
      · rw [State.sbSendOne_store hp hh hk hb]
        rfl
    · rw [State.sbSendOne_mwr hp hh hk hm hg hpair]
      rfl
    · rw [State.sbSendOne_bm hp hh hk hb hi]
      rfl
  · refine exec_storeBufferSend_waits he (Bool.eq_false_iff.mpr fun h => ?_)
    rcases Thread.sbMaySend_iff.mp h with h | h | h
    · rw [hm] at h; cases h
    · exact hf h
    · omega

end Sys2Proof.Machine
end

section
/-! The end of block-memory requests of threads (R93, R94, R226, R299). -/

namespace Sys2Proof.Machine

/-! ### Bytes of block memory -/

theorem memRead_one (m : Memory) (a : Nat) : memRead m a 1 = (memByte m a).toNat := by
  simp [memRead]

/-- A masked write gives the bytes it enables and leaves the others (Table 3.16). -/
theorem memByte_memWriteBe (m : Memory) (a : Nat) (v : Line) (be : BitVec 64) (n b : Nat) :
    memByte (memWriteBe m a v be n) b = if a ≤ b ∧ b < a + n ∧ be.getLsbD (b - a) = true then byteOf v (b - a) else memByte m b := by
  induction n with
  | zero => rw [memWriteBe, if_neg (by omega)]
  | succ n ih =>
    have hbt : bt be n = be.getLsbD n := rfl
    unfold memByte at *
    rw [memWriteBe, hbt]
    by_cases hb : b = a + n
    · subst hb
      rw [if_neg (by omega)] at ih
      have hn : a + n - a = n := by omega
      rw [hn]
      split
      · next hbe => rw [smGet_smSet_self, if_pos ⟨by omega, by omega, hbe⟩]
      · next hbe => rw [ih, if_neg fun h => hbe h.2.2]
    · have hiff : (a ≤ b ∧ b < a + (n + 1) ∧ be.getLsbD (b - a) = true) ↔ (a ≤ b ∧ b < a + n ∧ be.getLsbD (b - a) = true) := by
        constructor
        · rintro ⟨h1, h2, h3⟩; exact ⟨h1, by omega, h3⟩
        · rintro ⟨h1, h2, h3⟩; exact ⟨h1, by omega, h3⟩
      simp only [hiff, ← ih]
      split
      · rw [smGet_smSet_ne _ _ _ hb]
      · rfl

/-- A write that enables no byte changes nothing. -/
theorem memWriteBe_zero (m : Memory) (a : Nat) (v : Line) (n : Nat) : memWriteBe m a v 0 n = m := by
  induction n with
  | zero => rfl
  | succ n ih =>
    have hbt : bt (0 : BitVec 64) n = false := Nat.zero_testBit n
    rw [memWriteBe, hbt, if_neg Bool.false_ne_true, ih]

section Write

variable {s : State} {r : BmReq}

/-- What a write that lands leaves in each byte of block memory (R94). -/
theorem State.memRead_bmLand (s : State) (r : BmReq) (be : BitVec 64) (a : Nat) : memRead (s.bmLand r be).bmem a 1 =
    if a / 64 = r.line ∧ be.getLsbD (a % 64) = true ∧ r.later.getLsbD (a % 64) = false then (byteOf r.data (a % 64)).toNat
    else memRead s.bmem a 1 := by
  have hmem : (s.bmLand r be).bmem = memWriteBe s.bmem (64 * r.line) r.data (be &&& ~~~r.later) 64 := rfl
  rw [memRead_one, memRead_one, hmem, memByte_memWriteBe]
  by_cases hl : a / 64 = r.line
  · have hoff : a - 64 * r.line = a % 64 := by omega
    have hin : 64 * r.line ≤ a ∧ a < 64 * r.line + 64 := by omega
    have hlt : a % 64 < 64 := Nat.mod_lt _ (by decide)
    simp only [hoff, hin, hl, true_and, BitVec.getLsbD_and, BitVec.getLsbD_not, hlt, decide_true, Bool.true_and, Bool.and_eq_true,
      Bool.not_eq_true']
    split <;> rfl
  · rw [if_neg (by omega), if_neg fun h => hl h.1]

theorem State.bmStore_zero (s : State) (line : Nat) (d : Line) : s.bmStore line 0 d = s :=
  congrArg (fun m => { s with bmem := m }) (memWriteBe_zero s.bmem (64 * line) d 64)

theorem State.bmCover_zero (s : State) (line seq : Nat) : s.bmCover line seq 0 = s := by
  refine congrArg (fun l => { s with bm := l }) (List.map_id'' (fun o => ?_) s.bm)
  obtain ⟨i, _ | q⟩ := o
  · rfl
  · simp

/-- A write none of whose bytes land leaves the state as it is. -/
theorem State.bmLand_zero (s : State) (r : BmReq) : s.bmLand r 0 = s := by
  have hz : (0 : BitVec 64) &&& ~~~r.later = 0 := BitVec.zero_and
  rw [State.bmLand, hz, State.bmStore_zero, State.bmCover_zero]

end Write

/-! ### What a request's end gives its thread -/

section End

variable {s : State} {r : BmReq} {data : Line} {t : Thr}

theorem bmErrOf_good {err : BitVec 2} (h : err = 0 ∨ err = 1) : bmErrOf err = .ok ∨ bmErrOf err = .corrected := by
  rcases h with rfl | rfl
  · exact .inl rfl
  · exact .inr rfl

theorem State.bmWriteEnd_good {err : BmErr} (h : err = .ok ∨ err = .corrected) : s.bmWriteEnd r err = s.bmLand r r.be := by
  rcases h with rfl | rfl <;> rfl

theorem State.bmWriteEnd_address : s.bmWriteEnd r .address = s := State.bmLand_zero s r

/-- A buffered store that ended lands, and its place is freed or it is discarded (R226, R292). -/
theorem State.bmEnd_store {id : Nat} {e : SbEnt} {err : BmErr} (hy : r.why = .acc t (some id)) (hw : r.wr = true)
    (he : ((s.bmWriteEnd r err).thr t).sb.find? (fun e => e.id == id) = some e) :
    s.bmEnd r data err = if bmGood err then (s.bmWriteEnd r err).dropSb t id else (s.bmWriteEnd r err).discard t e := by
  rw [State.bmEnd, hy]
  simp only [hw, and_self, if_true]
  rw [he]

/-- A load that ended well writes its bytes and goes on (R227). -/
theorem State.bmEnd_load {rd w ea z : Nat} {err : BmErr} (hy : r.why = .acc t none) (hw : r.wr = false)
    (hp : (s.thr t).pend = .load rd w ea (some z)) (he : err = .ok ∨ err = .corrected) :
    s.bmEnd r data err = s.pendOk t rd (BitVec.ofNat 64 (bf data (8 * (ea % 64 + w) - 1) (8 * (ea % 64)))) := by
  have hgood : bmGood err = true := by rcases he with rfl | rfl <;> rfl
  rw [State.bmEnd, hy]
  simp only [hw, Bool.false_eq_true, false_and, if_false, State.accResp, hp]
  rw [if_pos hgood]

/-- What a thread is after its load has ended. -/
theorem State.pendOk_wrote {rd : Nat} {v : Word} (hp : Passes s t ((s.thr t).pc + 1)) :
    OnlyThread s (s.pendOk t rd v) t ∧ WroteRd s (s.pendOk t rd v) t rd v ((s.thr t).pc + 1) := by
  have htc : bt ((s.setRd t rd v).thr t).tc 1 = false := by
    rw [State.setRd_thr]
    unfold Thread.setReg
    split <;> exact hp.2
  rw [State.pendOk, State.goto_passes _ _ _ _ hp.1 htc]
  refine ⟨(State.modThr_only _ _ _).trans (State.modThr_only _ _ _), ?_⟩
  have hthr : ((s.setRd t rd v).modThr t fun x => { x with pc := (s.thr t).pc + 1, st := .ready, pend := .none }).thr t =
      { (s.thr t).setReg rd v with pc := (s.thr t).pc + 1, st := .ready, pend := .none } := by
    rw [State.modThr_thr, if_pos rfl, State.setRd_thr]
  refine ⟨?_, fun q hq => ?_, fun x hx => ?_, ?_, ?_, ?_⟩
  · rw [hthr]
    unfold Thread.setReg Thread.reg
    split <;> simp
  · rw [hthr]
    unfold Thread.setReg Thread.reg
    by_cases h0 : rd = 0
    · simp [h0]
    · simp [h0, smGet_smSet, hq]
  · rw [hx, hthr]
    unfold Thread.setReg
    split <;> rfl
  · rw [hthr]
    unfold Thread.setReg
    split <;> rfl
  · rw [hthr]
  · rw [hthr]

end End

/-! ### The rows -/

/-- The request of an outstanding tag ends: its errors, its effect, and what waited for it (R50). -/
theorem State.bmDone_some {s : State} {tag : Nat} {data : Line} {err : BmErr} {r : BmReq}
    (hr : (smGet (fun _ => none) s.bm tag : Option BmReq) = some r) (hf : ¬ (s.mode = .flush ∧ s.fld HA_FLUSH_STAT 1 0 = 3)) :
    s.bmDone tag data err =
      (({ s with bm := smSet (fun _ => none) s.bm tag none }.bmErrs err).bmEnd r data err).pendAll.goOn := by
  rw [State.bmDone, hr]
  exact if_neg hf

/-- Settles O45: the end of the tag's request, by who waits for it. -/
theorem blockMemoryEnds : Obligations.BlockMemoryEnds := by
  unfold Obligations.BlockMemoryEnds
  intro s tag data err hm hf
  refine ⟨fun hnone => ⟨?_, ?_⟩, fun r u v hr hu hv => ⟨?_, fun hp => ?_, fun hp => ?_, fun t id e hy hw he => ⟨fun w herr hwr => ?_, fun herr => ?_⟩,
    fun t rd w ea z pc hy hw hp herr hpc hpass => ?_⟩⟩
  · change execBmResponse _ _ _ _ = _
    rw [execBmResponse, if_neg hm, State.bmDone, hnone]
  · change execBmTimeout _ _ = _
    rw [execBmTimeout, hnone]
  · change execBmResponse _ _ _ _ = _
    rw [execBmResponse, if_neg hm, State.bmDone_some hr hf, hu]
  · change execBmTimeout _ _ = _
    rw [execBmTimeout, hr]
    dsimp only
    rw [if_pos hp, State.bmDone_some hr hf, hv]
    rfl
  · change execBmTimeout _ _ = _
    rw [execBmTimeout, hr]
    dsimp only
    rw [hp, if_neg Bool.false_ne_true]
  · have hend := State.bmWriteEnd_good (s := u) (r := r) (bmErrOf_good herr)
    have hland : u.bmWriteEnd r (bmErrOf err) = w := hend.trans hwr.symm
    have hgood : bmGood (bmErrOf err) = true := by rcases herr with rfl | rfl <;> rfl
    have hthr : w.thr t = u.thr t := by rw [hwr]; rfl
    refine ⟨?_, fun a => ?_⟩
    · rw [State.bmEnd_store hy hw (by rw [hland, hthr]; exact he), hgood, if_pos rfl, hland]
    · rw [← State.memRead_bmLand u r r.be a, ← hend, hland]
  · subst herr
    have hland : u.bmWriteEnd r (bmErrOf 3) = u := State.bmWriteEnd_address
    rw [State.bmEnd_store hy hw (by rw [hland]; exact he), hland]
    rfl
  · rw [State.bmEnd_load hy hw hp (bmErrOf_good herr), hpc]
    exact State.pendOk_wrote (hpc ▸ hpass)

end Sys2Proof.Machine
end

section
/-! Gating, sensors, throttle and core voltage (R58, R381 to R387). -/

namespace Sys2Proof.Machine

/-! ### Gating -/

section Gate

variable {s : State} {src : Src} {q : QuadId}

theorem execQuadrantGate_of (h : s.MayAccess src (qdA q QD_GATE) true) :
    exec (.quadrantGate src q) s = .next ((s.gateGo q).noted src (qdA q QD_GATE) true 0) :=
  congrArg Host.Outcome.next (State.regDo_of h fun s => s.gateGo q)

theorem execQuadrantUngate_of (h : s.MayAccess src (qdA q QD_GATE) true) :
    exec (.quadrantUngate src q) s = .next ((s.ungateGo q).noted src (qdA q QD_GATE) true 0) :=
  congrArg Host.Outcome.next (State.regDo_of h fun s => s.ungateGo q)

theorem State.gateGo_refused (h : s.gateRej q ≠ 0) : s.gateGo q = s.gateRefuse q (s.gateRej q) := if_pos h

theorem State.gateGo_starts (h : s.gateRej q = 0) {v : State} (hv : v = (nodesOf q).foldl
    (fun s n => s.modNd n fun x => { x with tarQuench := true }) (s.setFld (qdA q QD_PWR_STAT) 6 3 0)) :
    s.gateGo q = (v.setQd q { v.qd q with pwr := .gating, quadOn := false, since := v.tmo }).degrade := by
  subst hv
  exact if_neg (not_not.mpr h)

theorem State.ungateGo_refused (h : s.ungateRej q ≠ 0) : s.ungateGo q = s.gateRefuse q (s.ungateRej q) := if_pos h

theorem State.ungateGo_starts (h : s.ungateRej q = 0) :
    s.ungateGo q = (s.setFld (qdA q QD_PWR_STAT) 6 3 0).setQd q { s.qd q with pwr := .ungating, since := s.tmo } :=
  if_neg (not_not.mpr h)

theorem exec_ungateTimeout : exec (.ungateTimeout q) s = .next (if (s.qd q).pwr = .ungating ∧ s.past (s.qd q).since 100000 = true then
    (s.quadOffNow q).raise (qdA q QD_PWR_ERR) 1 else s) := rfl

end Gate

/-! ### Sensors -/

section Sense

variable {s u y z : State} {q : QuadId} {fa fb fc fd st : Bool}

theorem tempBad_eq (v : Nat) : tempBad v = decide (v < 96 ∨ 856 < v) := (Bool.decide_or _ _).symm
theorem voltBad_eq (v : Nat) : voltBad v = decide (v < 400 ∨ 1000 < v) := (Bool.decide_or _ _).symm

/-- The value in use of a pair, as R58 words it. -/
theorem pairUse_eq (f : Nat → Nat → Nat) (a b : Nat) (ba bb : Bool) (d : Nat) :
    pairUse f a b ba bb d = if ba && bb then d else if ba then b else if bb then a else f a b := by
  cases ba <;> cases bb <;> rfl

/-- Readings taken into use are shown, their failures noted, and Tarragon acts on them. -/
theorem State.senseUse_eq {a b c d t v : Nat} (ht : t = pairUse max a b fa fb 676) (hv : v = pairUse min c d fc fd 650)
    (hy : y = u.setRaw (HA_SENSE + 4 * q.val) (BitVec.ofNat 32 (t + v * 2 ^ 10 + b2n fa * 2 ^ 20 +
      b2n fb * 2 ^ 21 + b2n fc * 2 ^ 22 + b2n fd * 2 ^ 23 + b2n st * 2 ^ 24)))
    (hz : z = y.setQd q { y.qd q with sensSeen := true }) :
    u.senseUse q a b c d fa fb fc fd st = ((z.pairErr fa fb).pairErr fc fd).thermal q := by
  subst ht hv hz hy
  rfl

theorem execSensorUpdate_used {a b c d : BitVec 10} {x : Quad} {ma mb mc md : Nat} (hx : x = s.qd q) (hm : s.mode ≠ .off)
    (hq : s.qEnabled q = true) (hp : s.past x.sensAt 4 = true) (hu : u = s.setQd q { x with
      tempA := (a.toNat :: x.tempA).take 3, tempB := (b.toNat :: x.tempB).take 3, vmonA := (c.toNat :: x.vmonA).take 3
      vmonB := (d.toNat :: x.vmonB).take 3, sensAt := s.tmo })
    (hr : (u.qd q).readings = [some ma, some mb, some mc, some md]) : exec (.sensorUpdate q a b c d) s =
      .next (u.senseUse q ma mb mc md (tempBad ma) (tempBad mb) (voltBad mc) (voltBad md) false) := by
  subst hx
  refine congrArg Host.Outcome.next ((if_neg (by simp [hm, hq, hp])).trans ?_)
  dsimp only
  rw [← hu, hr]

theorem execSensorUpdate_same {a b c d : BitVec 10} (h : s.mode = .off ∨ s.qEnabled q = false ∨ s.past (s.qd q).sensAt 4 = false) :
    exec (.sensorUpdate q a b c d) s = .next s := congrArg _ (if_pos h)

theorem execSensorStale_used (hm : s.mode ≠ .off) (hq : s.qEnabled q = true) (hp : s.past (s.qd q).sensAt 10000 = true)
    (hb : s.bit (HA_SENSE + 4 * q.val) 24 = false) :
    exec (.sensorStale q) s = .next (s.senseUse q 0 0 0 0 true true true true true) :=
  congrArg _ (if_neg (by simp [hm, hq, hp, senseA, hb]))

theorem execSensorStale_same (h : s.mode = .off ∨ s.qEnabled q = false) : exec (.sensorStale q) s = .next s :=
  congrArg _ (if_pos (by tauto))

/-- Some enabled quadrant has been low for 100 ticks (R386). -/
theorem State.vcoreBad_iff : s.vcoreBad = true ↔ ∃ r, s.qEnabled r = true ∧ 100 ≤ (s.qd r).vlow := by
  simp [State.vcoreBad, allQd]

end Sense

/-! ### Throttle and voltage -/

/-- The level found from `k` up: its bound holds unless it is 8, and no lower level's does (R385). -/
theorem throttleLevel_spec (used cap n k : Nat) (hn : n + k = 8) : k ≤ throttleLevel used cap n k ∧ throttleLevel used cap n k ≤ 8 ∧
    (throttleLevel used cap n k < 8 → used + Config.energyMax (throttleLevel used cap n k) ≤ cap * 101) ∧
    ∀ j, k ≤ j → j < throttleLevel used cap n k → cap * 101 < used + Config.energyMax j := by
  induction n generalizing k with
  | zero => exact ⟨by rw [throttleLevel]; omega, le_refl _, fun h => absurd h (lt_irrefl _), fun j h1 h2 => by rw [throttleLevel] at h2; omega⟩
  | succ n ih =>
    rw [throttleLevel]
    split
    · next h => exact ⟨le_refl _, by omega, fun _ => h, fun j h1 h2 => by omega⟩
    · next h =>
      obtain ⟨h1, h2, h3, h4⟩ := ih (k + 1) (by omega)
      refine ⟨by omega, h2, h3, fun j hj1 hj2 => ?_⟩
      by_cases hj : j = k
      · rw [hj]; omega
      · exact h4 j (by omega) hj2

section Volt

variable {s : State}

/-- The next voltage step is due (R387). -/
def State.stepDue (s : State) : Bool :=
  match s.tar.lastStep with
  | none => true
  | some t => s.past t 2000

theorem State.stepDue_iff : s.stepDue = true ↔ ∀ t, s.tar.lastStep = some t → s.past t 2000 = true := by
  unfold State.stepDue
  cases s.tar.lastStep <;> simp

theorem exec_voltageStep : exec .voltageStep s = .next
    (if s.mode = .off ∨ s.fld HA_PWR_VREQ 15 8 = s.fld HA_PWR_VREQ 7 0 ∨ s.stepDue = false then s
    else { s.setFld HA_PWR_VREQ 15 8 (vStep (s.fld HA_PWR_VREQ 15 8) (s.fld HA_PWR_VREQ 7 0)) with
      tar := { s.tar with lastStep := some s.tmo } }) := rfl

end Volt

/-- Settles O52, row by row. -/
theorem powerCommands : Obligations.PowerCommands := by
  unfold Obligations.PowerCommands
  intro s src q
  refine ⟨fun h => ⟨execQuadrantGate_of h, execQuadrantUngate_of h⟩, fun u hu => ⟨fun h v hv => ?_, fun h => ?_⟩,
    State.gateGo_refused, State.ungateGo_refused, fun h => congrArg Host.Outcome.next (if_pos h),
    fun h => congrArg Host.Outcome.next (if_neg h), fun h => ⟨congrArg Host.Outcome.next (if_pos h), ?_⟩,
    fun h => ⟨congrArg Host.Outcome.next (if_neg h), congrArg Host.Outcome.next (if_neg fun k => h k.1)⟩, ?_,
    execSensorStale_same, fun h a b c d => execSensorUpdate_same h, fun hm hq hl => ?_, fun h => ?_, ?_, ?_⟩
  · exact State.gateGo_starts h (hu ▸ hv)
  · rw [hu, State.ungateGo_starts h]
  · simp [exec_ungateTimeout, h]
  · intro fa fb fc fd st t v a b c d x ma mb mc md u y hx hm hq hy z e hz he
    replace he : e = State.pairErr := he
    subst he
    refine ⟨fun hst hu hr ha hb hc hd ht hv hp => ?_, fun hu ha hb hc hd hst ht hv hp h24 => ?_⟩
    · rw [← tempBad_eq] at ha hb
      rw [← voltBad_eq] at hc hd
      rw [← pairUse_eq] at ht hv
      rw [execSensorUpdate_used hx hm hq hp hu hr, ← ha, ← hb, ← hc, ← hd, ← hst, State.senseUse_eq ht hv hy hz]
    · subst hu hx
      have ht' : t = pairUse max 0 0 fa fb 676 := by rw [ht, ha, hb]; rfl
      have hv' : v = pairUse min 0 0 fc fd 650 := by rw [hv, hc, hd]; rfl
      have huse := State.senseUse_eq ht' hv' hy hz
      rw [execSensorStale_used hm hq hp h24, ← huse, ha, hb, hc, hd, hst]
  · exact congrArg _ (if_pos ⟨hm, State.vcoreBad_iff.mpr ⟨q, hq, hl⟩⟩)
  · refine congrArg _ (if_neg fun hbad => ?_)
    obtain ⟨r, hr, hl⟩ := State.vcoreBad_iff.mp hbad.2
    rcases h r with h | h
    · rw [h] at hr; cases hr
    · omega
  · intro act win used cap u hm hwin hused hcap
    obtain ⟨-, h1, h2, h3⟩ := throttleLevel_spec used cap 8 0 rfl
    refine ⟨_, h1, h2, fun j => h3 j (Nat.zero_le j), fun hu => ?_⟩
    subst hu hused hwin hcap
    exact congrArg _ (if_neg hm)
  · intro a c ha hc
    subst ha hc
    refine ⟨fun hm hne hdue u hu => ?_, fun h => ?_⟩
    · rw [exec_voltageStep, if_neg (by simp [hm, hne, State.stepDue_iff.mpr hdue]), hu]
      rfl
    · rw [exec_voltageStep, if_pos]
      refine h.imp_right (.imp_right fun ⟨t, ht, hp⟩ => Bool.eq_false_iff.mpr fun hdue => ?_)
      rw [State.stepDue_iff.mp hdue t ht] at hp
      cases hp

end Sys2Proof.Machine
end

section
/-! The parameter store, the measurement unit, fuse programs and the end of a self-test (R402, R404, R456, R459, R460, R466, R474, R476). -/

namespace Sys2Proof.Machine

/-! ### Parameter store -/

section Store

variable {s u : State} {src : Src} {k : BitVec 3} {a : BitVec 20} {d data : BitVec 32} {l stat : BitVec 2} {t : Nat}

/-- The commands of HA_PS_CMD with their code and level (Table 15.20). -/
def psCommands (src : Src) (lvl : BitVec 2) : List (Instr × BitVec 3 × BitVec 2) :=
  [(.psRead src, 0, 0), (.psLoad src, 1, 0), (.psCommit src, 2, 0), (.psSetProtect src lvl, 3, lvl), (.psStatus src, 4, 0)]

theorem exec_psCommand {lvl : BitVec 2} {c : Instr} (hc : (c, k, l) ∈ psCommands src lvl) : exec c s = .next (s.psCommand src k l) := by
  have hall : ∀ r ∈ psCommands src lvl, exec r.1 s = .next (s.psCommand src r.2.1 r.2.2) := by
    simp only [psCommands, List.forall_mem_cons, List.not_mem_nil, false_imp_iff, implies_true, and_true]
    exact ⟨rfl, rfl, rfl, rfl, rfl⟩
  exact hall _ hc

theorem State.psCommand_of (h : s.MayAccess src HA_PS_CMD true) : s.psCommand src k l = (s.psGo src k l).noted src HA_PS_CMD true 0 :=
  State.regDo_of h fun s => s.psGo src k l

/-- HA_PS_CMD is Chervil's alone to write (R502). -/
theorem State.regDenied_psCmd (s : State) (p : Bool) : s.regDenied (.port p) HA_PS_CMD true = true := by
  have hrow : ∃ d, findReg HA_PS_CMD = some d ∧ d.excludes (.port p) true = true := by
    cases p <;> exact ⟨_, rfl, by decide⟩
  obtain ⟨d, hd, hx⟩ := hrow
  rw [State.regDenied, hd]
  simp [hx]

theorem State.psCommand_denied {p : Bool} (hm : s.mode ≠ .off) (hc : s.cfg.length < 4) : s.psCommand (.port p) k l =
    (s.accErr 1 HA_PS_CMD true p).cfgNote HA_PS_CMD true p (some (false, 0)) :=
  State.regAcc_denied hm hc (s.regDenied_psCmd p) fun s => (0, s.psGo (.port p) k l)

theorem State.psGo_free (h : s.psCmd = none) : s.psGo src k l =
    { s with psCmd := some (k, BitVec.ofNat 20 (s.fld HA_PS_ADDR 19 0), s.raw HA_PS_WDATA, l, s.tmo) } := by
  rw [State.psGo, h]
  rfl

theorem State.psGo_busy (h : s.psCmd.isSome = true) : s.psGo src k l = s.accErr 1 HA_PS_CMD true (srcPriv src) := if_pos h

/-- A page write takes its page from the buffer and leaves the rest (R456). -/
theorem memByte_pageWrite (m buf : Memory) (a n b : Nat) (hn : n ≤ 256) : memByte (pageWrite m buf a n) b =
    if b / 256 = a / 256 ∧ b % 256 < n then memByte buf (b % 256) else memByte m b := by
  induction n with
  | zero => exact (if_neg (by omega)).symm
  | succ n ih =>
    change smGet memZero (smSet memZero _ _ _) b = _
    rw [smGet_smSet]
    by_cases hb : b = a / 256 * 256 + n
    · have hpage : b / 256 = a / 256 ∧ b % 256 = n := by omega
      rw [if_pos hb, if_pos ⟨hpage.1, by omega⟩, hpage.2]
    · rw [if_neg hb]
      refine (ih (by omega)).trans ?_
      have hiff : (b / 256 = a / 256 ∧ b % 256 < n + 1) ↔ (b / 256 = a / 256 ∧ b % 256 < n) := by omega
      simp only [hiff]

/-- The answer to the command that runs. -/
theorem execPsResponse_some (hm : s.mode ≠ .off) (hc : s.psCmd = some (k, a, d, l, t))
    (hu : u = ({ s with psCmd := none }.setRaw HA_PS_RDATA data).setFld HA_PS_STAT 2 1 stat.toNat) : exec (.psResponse stat data) s = .next
      (if stat = 0 then (if k = 4 then u.setFld HA_PS_STAT 4 3 (bf data 1 0) else u).psDone k a d l
      else if stat = 1 then (if k = 2 then u.raise HA_PS_ERR 3 else u) else u.raise HA_PS_ERR 4) := by
  subst hu
  change execPsResponse stat data s = _
  rw [execPsResponse, if_neg hm, State.psRsp, hc]

/-- Whether a command past its limit was carried out is open (Table 2.3). -/
theorem State.psLate_past (hc : s.psCmd = some (k, a, d, l, t)) (hp : s.past t (psLimit k) = true) {z : State}
    (hz : z = { s with psCmd := none, free := s.free + 1 }) : ∃ v ∈ [z, z.psDone k a d l], s.psLate = v.raise HA_INPUT_ERR 9 := by
  subst hz
  rw [State.psLate, hc]
  dsimp only
  rw [if_pos hp]
  split
  · exact ⟨_, List.mem_cons_of_mem _ List.mem_cons_self, rfl⟩
  · exact ⟨_, List.mem_cons_self, rfl⟩

theorem State.psLate_waits (hc : s.psCmd = some (k, a, d, l, t)) (hp : s.past t (psLimit k) = false) : s.psLate = s := by
  simp [State.psLate, hc, hp]

end Store

/-! ### Measurement unit -/

section Extend

variable {s : State} {src : Src} {w : BitVec 32}

theorem execMeasExtend_of (h : s.MayAccess src HA_MEAS_EXT_GO true) :
    exec (.measExtend src w) s = .next ((s.extGo src w).noted src HA_MEAS_EXT_GO true 0) :=
  congrArg Host.Outcome.next (State.regDo_of h fun s => s.extGo src w)

theorem State.extGo_idle (h : bt w 9 = false) : s.extGo src w = s := by
  rw [State.extGo, h]
  rfl

theorem State.extRefused_iff {k : Nat} : s.extRefused k = true ↔ s.meas.lock = true ∨ 6 ≤ k ∨ 16 ≤ s.meas.log.length := by
  simp [State.extRefused, or_assoc]

theorem State.extGo_refused (h : bt w 9 = true) (hb : s.meas.busy = none)
    (hr : s.meas.lock = true ∨ 6 ≤ bf w 2 0 ∨ 16 ≤ s.meas.log.length) : s.extGo src w = s.raise HA_MEAS_CTRL 6 := by
  rw [State.extGo, h, hb, State.extRefused_iff.mpr hr]
  rfl

theorem State.extGo_runs (h : bt w 9 = true) (hb : s.meas.busy = none) (hl : s.meas.lock = false) (hs : bf w 2 0 < 6)
    (hn : s.meas.log.length < 16) {r : ExtReq} (hr : r = ⟨bf w 2 0, bf w 7 3, bt w 8, bf (s.raw HA_MEAS_EXT_LEN) 19 0,
      bf (s.raw HA_MEAS_EXT_SRC) 28 0, s.raw HA_MEAS_EXT_VER, s.extDig⟩) :
    s.extGo src w = { s with meas := { s.meas with busy := some r } } := by
  have hno : s.extRefused (bf w 2 0) = false := Bool.eq_false_iff.mpr fun hx => by
    rcases State.extRefused_iff.mp hx with hx | hx | hx
    · rw [hl] at hx; cases hx
    · omega
    · omega
  rw [State.extGo, h, hb, hno, hr]
  rfl

/-! ### The bytes of an object -/

theorem memBytes_add (m : Memory) (a j k : Nat) : memBytes m a (j + k) = memBytes m a j ++ memBytes m (a + j) k := by
  simp only [memBytes, List.range_add, List.map_append, List.map_map]
  refine congrArg _ (List.map_congr_left fun i _ => ?_)
  simp only [Function.comp, Nat.add_assoc]

/-- A line that is read well leaves block memory as it was. -/
theorem State.bmLook_bmem {s : State} {line : Nat} {x : Line} (h : (s.bmLook line).1 = some x) : (s.bmLook line).2.bmem = s.bmem := by
  have hgood : ∀ e, bmGood e = true → ∀ u : State, (u.bmErrs e).bmem = u.bmem := by
    intro e he u
    cases e with
    | ok | corrected => rfl
    | uncorrectable | address | timeout => cases he
  unfold State.bmLook at h ⊢
  split
  · next hin => rw [if_pos hin] at h; cases h
  · next hin =>
    rw [if_neg hin] at h
    dsimp only at h ⊢
    split at h
    · next he => exact hgood _ he _
    · cases h

/-- An object being read: as long as every read was good, the bytes so far are those of block memory up to line `l`. -/
def ReadTo (m : Memory) (a n l : Nat) (r : Bool × List Byte × State) : Prop :=
  r.1 = true → r.2.1 = memBytes m a (min (a + n) (64 * l) - a) ∧ r.2.2.bmem = m

theorem ReadTo.line {m : Memory} {a n l : Nat} {r : Bool × List Byte × State} (h : ReadTo m a n l r) (hl : a / 64 ≤ l)
    (hn : 64 * l < a + n) : ReadTo m a n (l + 1) (objLine r a n l) := by
  intro hgood
  unfold objLine at hgood ⊢
  dsimp only at hgood ⊢
  split at hgood
  · next x hx =>
    obtain ⟨hb, hm⟩ := h hgood
    have hm' := (State.bmLook_bmem hx).trans hm
    refine ⟨?_, hm'⟩
    have hlo : max a (64 * l) = a + (min (a + n) (64 * l) - a) := by omega
    have hlen : min (a + n) (64 * (l + 1)) - a =
        (min (a + n) (64 * l) - a) + (min (a + n) (64 * l + 64) - max a (64 * l)) := by omega
    dsimp only
    rw [hm', hb, hlen, memBytes_add, ← hlo]
  · cases hgood

/-- An object all of whose lines were read well is as block memory holds it (R442). -/
theorem State.objRead_good {s : State} {a n : Nat} (h : (s.objRead a n).1 = true) : (s.objRead a n).2.1 = memBytes s.bmem a n := by
  have hfold (j : Nat) (hj : j ≤ if n = 0 then 0 else (a + n + 63) / 64 - a / 64) : ReadTo s.bmem a n (a / 64 + j)
      ((List.range j).foldl (fun r i => objLine r a n (a / 64 + i)) (true, [], s)) := by
    induction j with
    | zero => exact fun _ => ⟨by rw [show min (a + n) (64 * (a / 64 + 0)) - a = 0 by omega]; rfl, rfl⟩
    | succ j ih =>
      rw [List.range_succ, List.foldl_append]
      refine (ih (by omega)).line (by omega) ?_
      split at hj <;> omega
  obtain ⟨hbytes, -⟩ := hfold _ (le_refl _) h
  refine hbytes.trans (congrArg (memBytes s.bmem a) ?_)
  split <;> omega

/-! ### The end of an extend -/

theorem State.extEnd_none (h : s.meas.busy = none) : s.extEnd = s := by
  rw [State.extEnd, h]

/-- An extend that ends does `extend` with the digest given, or with that of the bytes read (R402). -/
theorem State.extEnd_some {r : ExtReq} {q : State} (hb : s.meas.busy = some r) (hq : q = { s with meas := { s.meas with busy := none } })
    {o : Bool × List Byte × State} (ho : o = if r.direct then (true, [], q) else q.objRead (64 * r.src) r.len) :
    s.extEnd = o.2.2.extend r.slot r.kind o.2.1.length r.ver (if r.direct then r.dig else sha384 o.2.1) := by
  rw [State.extEnd, hb]
  dsimp only
  rw [← hq]
  cases hd : r.direct
  · rw [hd, if_neg Bool.false_ne_true] at ho
    rw [ho]
    rfl
  · rw [hd, if_pos rfl] at ho
    rw [ho]
    rfl

end Extend

/-! ### Fuse programs -/

section Fuse

variable {s : State} {a : BitVec 10} {x : BitVec 32} {t : Nat}

theorem exec_fuseProgramDone (err : Bool) : exec (.fuseProgramDone err) s = .next (s.fuseEnd (!err)).goOn := rfl
theorem exec_fuseTimeout : exec .fuseTimeout s = .next s.fuseLate.goOn := rfl

theorem State.fuseEnd_none (h : s.fusePgm = none) (ok : Bool) : s.fuseEnd ok = s := by
  rw [State.fuseEnd, h]

theorem State.fuseEnd_some (h : s.fusePgm = some (a, x, t)) (ok : Bool) : s.fuseEnd ok = State.fuseNext
    (if ok then { s with fusePgm := none, fuse := smSet (fun _ => (0 : BitVec 32)) s.fuse a.toNat x }
    else State.raise { s with
      fusePgm := none, fuseTodo := s.fuseTodo.filter fun e => !(a.toNat % 2 == 0 && decide (a.toNat < 0x300) && e.1.toNat == a.toNat + 1) }
      HA_ST_ERR 4) := by
  rw [State.fuseEnd, h]

theorem State.fuseLate_none (h : s.fusePgm = none) : s.fuseLate = s.fuseRdLate := by
  rw [State.fuseLate, h]

theorem State.fuseRdLate_some (h : s.fuseRd = some t) : s.fuseRdLate = if s.past t 1000 then
      let u := s.hard.items.foldl (fun s i => s.wayClear i) { s with fuseRd := none, map := {}, hard := {} }
      (u.setRaw HA_FAB_SINK_ACT (BitVec.ofNat 32 u.sinkAlways)).raise HA_INPUT_ERR 10
    else s := by
  rw [State.fuseRdLate, h]

theorem State.fuseRdLate_none (h : s.fuseRd = none) : s.fuseRdLate = s := by
  rw [State.fuseRdLate, h]

/-- Whether the word of a program past its limit was written is open (Table 2.3). -/
theorem State.fuseLate_past (h : s.fusePgm = some (a, x, t)) (hp : s.past t 100000 = true) :
    ∃ f ∈ [s.fuse, smSet (fun _ => (0 : BitVec 32)) s.fuse a.toNat x], s.fuseLate =
      (State.raise { s with fusePgm := none, fuse := f, free := s.free + 1 } HA_INPUT_ERR 10).fuseNext := by
  rw [State.fuseLate, h]
  dsimp only
  rw [if_pos hp]
  split
  · exact ⟨_, List.mem_cons_of_mem _ List.mem_cons_self, rfl⟩
  · exact ⟨_, List.mem_cons_self, rfl⟩

theorem State.fuseLate_waits (h : s.fusePgm = some (a, x, t)) (hp : s.past t 100000 = false) : s.fuseLate = s := by
  simp [State.fuseLate, h, hp]

theorem State.fuseNext_cons {l : List (BitVec 10 × BitVec 32)} (h : s.fuseTodo = (a, x) :: l) :
    s.fuseNext = { s with fuseTodo := l, fusePgm := some (a, x, s.tmo) } := by
  rw [State.fuseNext, h]

end Fuse

/-! ### The end of a self-test -/

section Sorrel

variable {s : State} {res : SorrelRes}

theorem exec_sorrelEnd : exec (.sorrelEnd res) s = .next (s.sorrelEnd res).goOn := rfl

theorem State.sorrelEnd_same (h : s.mode ≠ .selftest ∨ s.fusePgm.isSome = true ∨ 4 < s.fld HA_ST_STAT 2 0) : s.sorrelEnd res = s :=
  if_pos h

theorem State.sorrelEnd_runs (hm : s.mode = .selftest) (hp : s.fusePgm = none) (hf : s.fld HA_ST_STAT 2 0 ≤ 4) : s.sorrelEnd res =
    if !res.restoreOk && s.fld HA_ST_STAT 2 0 == 1 then s.raise HA_ST_ERR 1
    else (s.stQuadsEnd.setFld HA_ST_STAT 2 0 4).stCommit res :=
  if_neg (by simp [hm, hp, Nat.not_lt.mpr hf])

/-- With no failed lane there is no new map to commit (R466). -/
theorem State.stCommit_clean (h : res.fails = []) : s.stCommit res = s.fuseNext := by
  rw [State.stCommit, h]
  exact if_pos rfl

end Sorrel

/-- Settles O50, row by row. -/
theorem storeMeasurementAndFuses : Obligations.StoreMeasurementAndFuses := by
  unfold Obligations.StoreMeasurementAndFuses
  intro s src lvl data w stat
  refine ⟨fun hmay c k l hc => ?_, fun p hm hlen c hc => ?_, fun h => ⟨?_, ?_⟩, fun k a d l t u hc hu => ⟨fun hm hst => ?_,
      fun hm hst => ?_, fun hm hst => ?_, fun hp z hz => ?_, fun hp => ?_⟩,
    fun hmay => ⟨fun h9 hb hl hs hn r hr => ?_, fun h9 hb hr => ?_, fun h9 => ?_⟩, fun h => congrArg _ (State.extEnd_none h), ?_,
    fun h => ⟨fun err => ?_, fun hr => ?_, fun t hr hp => ?_, fun t u hr hp hu => ?_⟩,
    fun a x t h => ⟨fun u hu => ?_, fun u hu => ?_, fun hp => ?_, fun hp => ?_⟩, fun a x l h => State.fuseNext_cons h,
    fun res => ⟨fun h => ?_, fun hm hp hf => ⟨fun hr h1 => ?_, fun hr u hu => ⟨?_, State.stCommit_clean⟩⟩⟩⟩
  · rw [exec_psCommand (lvl := lvl) hc, State.psCommand_of hmay]
    exact ⟨fun h => by rw [State.psGo_free h], fun h => by rw [State.psGo_busy h]⟩
  · replace hc : c ∈ (psCommands (.port p) lvl).map (·.1) := hc
    obtain ⟨⟨c', k, l⟩, hmem, rfl⟩ := List.mem_map.mp hc
    rw [exec_psCommand hmem, State.psCommand_denied hm hlen]
  · change execPsResponse stat data s = _
    rw [execPsResponse, State.psRsp, h]
    exact congrArg _ (ite_self _)
  · change execPsTimeout s = _
    rw [execPsTimeout, State.psLate, h]
  · rw [execPsResponse_some hm hc hu, if_pos hst]
    refine ⟨?_, ?_, ?_, ?_, ?_⟩
    · rintro rfl; rfl
    · rintro rfl; rfl
    · rintro rfl
      refine ⟨pageWrite s.store s.pageBuf a.toNat 256, by rw [hu]; rfl, fun b => ?_⟩
      rw [memByte_pageWrite _ _ _ _ _ (le_refl _)]
      simp [Nat.mod_lt]
    · rintro rfl; rfl
    · rintro rfl; rfl
  · rw [execPsResponse_some hm hc hu, hst]
    rfl
  · rw [execPsResponse_some hm hc hu]
    rcases hst with rfl | rfl <;> rfl
  · obtain ⟨v, hv, he⟩ := State.psLate_past hc hp hz
    exact ⟨v, hv, congrArg _ he⟩
  · exact congrArg _ (State.psLate_waits hc hp)
  · rw [execMeasExtend_of hmay, State.extGo_runs h9 hb hl hs hn hr]
  · rw [execMeasExtend_of hmay, State.extGo_refused h9 hb hr]
  · rw [execMeasExtend_of hmay, State.extGo_idle h9]
  · intro r q u o dig new hb hq ho hu hdig hnew
    refine ⟨fun hd hgood => ?_, ?_⟩
    · rw [hd, if_neg Bool.false_ne_true] at ho
      rw [ho] at hgood ⊢
      rw [State.objRead_good hgood, hq]
    · change Host.Outcome.next s.extEnd = _
      rw [State.extEnd_some hb hq ho, ← hdig, ← hu, hnew]
      rfl
  · rw [exec_fuseProgramDone, State.fuseEnd_none h]
  · rw [exec_fuseTimeout, State.fuseLate_none h, State.fuseRdLate_none hr]
  · rw [exec_fuseTimeout, State.fuseLate_none h, State.fuseRdLate_some hr, hp, if_neg Bool.false_ne_true]
  · rw [exec_fuseTimeout, State.fuseLate_none h, State.fuseRdLate_some hr, if_pos hp, hu]
  · rw [exec_fuseProgramDone, State.fuseEnd_some h, hu]
    rfl
  · rw [exec_fuseProgramDone, State.fuseEnd_some h, hu]
    rfl
  · rw [exec_fuseTimeout, State.fuseLate_waits h hp]
  · obtain ⟨f, hf, he⟩ := State.fuseLate_past h hp
    exact ⟨f, hf, by rw [exec_fuseTimeout, he]⟩
  · rw [exec_sorrelEnd, State.sorrelEnd_same h]
  · rw [exec_sorrelEnd, State.sorrelEnd_runs hm hp hf, hr, h1]
    rfl
  · rw [exec_sorrelEnd, State.sorrelEnd_runs hm hp hf, hu, if_neg]
    rcases hr with hr | hr <;> simp [hr]

end Sys2Proof.Machine
end

section
/-! Cold reset, straps, boot, full resets, the hold limit and the watchdog (R53, R392 to R414). -/

namespace Sys2Proof.Machine

/-! ### The mode that a change of mode leaves -/

section ModeKept

variable (s : State)

theorem State.pushRec_mode (kind cls payload : Nat) : (s.pushRec kind cls payload).mode = s.mode := by
  unfold State.pushRec
  split <;> rfl

theorem State.dropped_mode : s.dropped.mode = s.mode := by
  unfold State.dropped
  split
  · rfl
  · exact s.pushRec_mode 0x07 0 s.evDrops.toNat

/-- An event record says what the mode is; it does not change it. -/
theorem State.record_mode (kind cls payload : Nat) : (s.record kind cls payload).mode = s.mode := by
  have hdrop (u : State) : u.dropRec.dropped.mode = u.mode := u.dropRec.dropped_mode
  have hput (u : State) (c : Prop) [Decidable c] : (if c then u.pushRec kind cls payload else u.dropRec.dropped).mode = u.mode := by
    split
    · exact u.pushRec_mode _ _ _
    · exact hdrop u
  unfold State.record
  dsimp only
  split
  · rfl
  · split
    · exact hdrop s
    · exact (hput _ _).trans s.dropped_mode

theorem State.chvEvent_mode (evt datum : Nat) : (s.chvEvent evt datum).mode = s.mode := by
  have h := congrArg State.mode (State.chvEvent_counted s evt datum).rest
  exact h

theorem State.setMode_mode (m : Mode) : (s.setMode m).mode = m := by
  unfold State.setMode
  dsimp only
  split
  · assumption
  · split
    · rfl
    · rw [State.chvEvent_mode, State.record_mode]

theorem State.takeStraps_mode (p : StrapPins) (m : BitVec 9) : (s.takeStraps p m).mode = .fill := by
  unfold State.takeStraps
  exact State.setMode_mode _ _

end ModeKept

/-! ### Cold reset -/

section Cold

variable {s : State}

theorem execColdResetAssert_off (h : s.mode = .off) : exec .coldResetAssert s = .next s := congrArg Host.Outcome.next (if_pos h)
theorem execColdResetAssert_on (h : s.mode ≠ .off) : exec .coldResetAssert s = .next s.enterOff := congrArg Host.Outcome.next (if_neg h)
theorem execColdResetRelease_off (h : s.mode = .off) : exec .coldResetRelease s = .next { s.coldReset with mode := .strap } :=
  congrArg Host.Outcome.next (if_pos h)
theorem execColdResetRelease_on (h : s.mode ≠ .off) : exec .coldResetRelease s = .next s := congrArg Host.Outcome.next (if_neg h)

/-- With no command and no fuse program under way, nothing of the store or the fuses is left open. -/
theorem State.coldReset_quiet (hp : s.psCmd = none) (hf : s.fusePgm = none) : s.coldReset = { State.reset with
    pending := s.pending, store := s.store, pageBuf := s.pageBuf, storeProt := s.storeProt, fuse := s.fuse, free := s.free,
    romSyn := s.romSyn } := by
  rw [State.coldReset, hp]
  dsimp only
  rw [hf]

end Cold

/-! ### Straps -/

section Straps

/-- The mask of the numbers below `n` for which `p` holds has exactly their bits. -/
theorem testBit_sum_two_pow (p : Nat → Prop) [DecidablePred p] (n i : Nat) :
    (((List.range n).map fun j => if p j then 2 ^ j else 0).sum).testBit i = (decide (i < n) && decide (p i)) := by
  have hlt (n : Nat) : ((List.range n).map fun j => if p j then 2 ^ j else 0).sum < 2 ^ n := by
    induction n with
    | zero => exact Nat.one_pos
    | succ n ih =>
      rw [List.range_succ, List.map_append, List.sum_append, List.map_singleton, List.sum_singleton, Nat.pow_succ]
      split <;> omega
  induction n with
  | zero => simp
  | succ n ih =>
    rw [List.range_succ, List.map_append, List.sum_append, List.map_singleton, List.sum_singleton, Nat.add_comm]
    by_cases hp : p n
    · rw [if_pos hp]
      rcases Nat.lt_trichotomy i n with hi | rfl | hi
      · rw [Nat.testBit_two_pow_add_gt hi, ih]
        simp [hi, Nat.lt_succ_of_lt hi]
      · rw [Nat.testBit_two_pow_add_eq, Nat.testBit_lt_two_pow (hlt i)]
        simp [hp]
      · have hbig : 2 ^ n + ((List.range n).map fun j => if p j then 2 ^ j else 0).sum < 2 ^ i :=
          calc _ < 2 ^ n + 2 ^ n := Nat.add_lt_add_left (hlt n) _
            _ = 2 ^ (n + 1) := by rw [Nat.pow_succ, Nat.mul_two]
            _ ≤ 2 ^ i := Nat.pow_le_pow_right (by decide) hi
        rw [Nat.testBit_lt_two_pow hbig]
        simp [show ¬ i < n + 1 by omega]
    · rw [if_neg hp, Nat.zero_add, ih]
      by_cases hi : i = n
      · subst hi; simp [hp]
      · simp [show i < n + 1 ↔ i < n by omega]

variable {s x : State} {p : StrapPins} {m g : BitVec 9}

theorem State.strapsUnst_getLsbD (s : State) {i : Nat} (hi : i < 9) : s.strapsUnst.getLsbD i = decide (1024 < s.chgAt i + 64) := by
  rw [State.strapsUnst, BitVec.getLsbD_ofNat, testBit_sum_two_pow]
  simp [hi]

theorem State.strapsMeet_iff : s.strapsMeet = true ↔ ∀ i < 9, s.chgAt i + 64 ≤ 1024 := by simp [State.strapsMeet]
theorem State.strapsStable_iff : s.strapsStable = true ↔ ∀ i < 9, s.past (s.chgAt i) 64 = true := by simp [State.strapsStable]

/-- The inputs that take a default for having changed: those seen to change in time, and those that came back between two samples. -/
theorem State.strapsUnst_or_eq (h : ∀ i < 9, m.getLsbD i = (decide (1024 < s.chgAt i + 64) || g.getLsbD i)) : s.strapsUnst ||| g = m := by
  refine BitVec.eq_of_getLsbD_eq fun i hi => ?_
  rw [BitVec.getLsbD_or, State.strapsUnst_getLsbD s hi, h i hi]

theorem execStrapsTaken_sampled (hm : s.mode = .strap) (hp : s.pins = none) (hx : s.strapSample p = x) :
    exec (.strapsTaken p) s = .next (if x.strapsMeet && x.strapsStable then x.takeStraps p 0 else x) := by
  subst hx
  exact congrArg Host.Outcome.next (if_pos ⟨hm, hp⟩)

theorem execStrapTimeout_early (h : s.past 0 1024 = false) : exec (.strapTimeout p g) s = .next s :=
  congrArg Host.Outcome.next (if_neg fun hc => by rw [h] at hc; exact Bool.false_ne_true hc.2.2)

theorem execStrapTimeout_sampled (hm : s.mode = .strap) (hp : s.pins = none) (ht : s.past 0 1024 = true) (hx : s.strapSample p = x) :
    exec (.strapTimeout p g) s = .next (if x.strapsUnst ||| g = 0 then (if x.strapsStable then x.takeStraps p 0 else x)
      else x.takeStraps p (x.strapsUnst ||| g)) := by
  subst hx
  exact congrArg Host.Outcome.next (if_pos ⟨hm, hp, ht⟩)

/-- Every input has been unchanged for 64 ticks, and was so by the 1,024th (R53). -/
theorem State.strapsMet_iff : (s.strapsMeet && s.strapsStable) = true ↔ ∀ i < 9, s.chgAt i + 64 ≤ 1024 ∧ s.past (s.chgAt i) 64 = true := by
  rw [Bool.and_eq_true, State.strapsMeet_iff, State.strapsStable_iff]
  exact ⟨fun h i hi => ⟨h.1 i hi, h.2 i hi⟩, fun h => ⟨fun i hi => (h i hi).1, fun i hi => (h i hi).2⟩⟩

theorem execStrapsTaken_met (hm : s.mode = .strap) (hp : s.pins = none) (hx : s.strapSample p = x)
    (h : ∀ i < 9, x.chgAt i + 64 ≤ 1024 ∧ x.past (x.chgAt i) 64 = true) : exec (.strapsTaken p) s = .next (x.takeStraps p 0) := by
  rw [execStrapsTaken_sampled hm hp hx, if_pos (State.strapsMet_iff.mpr h)]

theorem execStrapsTaken_unmet (hm : s.mode = .strap) (hp : s.pins = none) (hx : s.strapSample p = x)
    (h : ∃ i < 9, 1024 < x.chgAt i + 64 ∨ x.past (x.chgAt i) 64 = false) : exec (.strapsTaken p) s = .next x := by
  obtain ⟨i, hi, h⟩ := h
  rw [execStrapsTaken_sampled hm hp hx, if_neg fun hmet => ?_]
  obtain ⟨hmeet, hstable⟩ := State.strapsMet_iff.mp hmet i hi
  rcases h with h | h
  · exact absurd hmeet (Nat.not_le.mpr h)
  · exact Bool.false_ne_true (h.symm.trans hstable)

theorem execStrapTimeout_defaults (hm : s.mode = .strap) (hp : s.pins = none) (ht : s.past 0 1024 = true) (hx : s.strapSample p = x)
    (h0 : m ≠ 0) (h : ∀ i < 9, m.getLsbD i = (decide (1024 < x.chgAt i + 64) || g.getLsbD i)) :
    exec (.strapTimeout p g) s = .next (x.takeStraps p m) := by
  rw [execStrapTimeout_sampled hm hp ht hx, State.strapsUnst_or_eq h, if_neg h0]

theorem execStrapTimeout_met (hm : s.mode = .strap) (hp : s.pins = none) (ht : s.past 0 1024 = true) (hx : s.strapSample p = x)
    (h : ∀ i < 9, x.chgAt i + 64 ≤ 1024 ∧ x.past (x.chgAt i) 64 = true) : exec (.strapTimeout p 0) s = .next (x.takeStraps p 0) := by
  have hnone : x.strapsUnst ||| 0 = 0 := State.strapsUnst_or_eq fun i hi => by simp [Nat.not_lt.mpr (h i hi).1]
  rw [execStrapTimeout_sampled hm hp ht hx, if_pos hnone, if_pos (State.strapsStable_iff.mpr fun i hi => (h i hi).2)]

end Straps

/-! ### Boot -/

section Boot

variable {s : State} {src : Src} {w : BitVec 32}

theorem execFillEnd_fill (h : s.mode = .fill) : exec .fillEnd s = .next ({ s with fuseRd := none }.setMode .boot).bootRun.goOn :=
  congrArg Host.Outcome.next (if_pos h)

theorem execFillEnd_other (h : s.mode ≠ .fill) : exec .fillEnd s = .next s := congrArg Host.Outcome.next (if_neg h)

theorem execBootReady_nil (h : s.MayAccess src HA_BOOT_CTRL true) :
    exec (.bootReady src w []) s = .next ((s.bootCtrl w).goOn.noted src HA_BOOT_CTRL true 0) :=
  congrArg Host.Outcome.next (State.regDo_of h _)

end Boot

/-! ### Full resets -/

section Full

variable {s : State} {src : Src} {k : Nat}

theorem State.fullReq_off (h : s.mode = .off) : s.fullReq k = s := by rw [State.fullReq, h]

/-- A request that no reset follows is recorded as ignored (R407). -/
theorem State.fullReq_ignored (h : s.mode ∈ [.strap, .fill, .flush]) {u : State}
    (hu : u = (s.setFld HA_RST_CAUSE k k 1).setFld HA_RST_CAUSE 6 6 1) :
    s.fullReq k = u.record 9 0 (2 ^ k + 2 ^ 6 + u.fld HA_RST_STAT 2 0 * 2 ^ 16) := by
  subst hu
  rw [State.fullReq]
  simp only [List.mem_cons, List.not_mem_nil, or_false] at h
  rcases h with h | h | h <;> rw [h]

theorem State.fullReq_runs (h : s.mode ∉ [.off, .strap, .fill, .flush]) : s.fullReq k =
    if s.mode = .boot ∨ s.bit HA_IMG_STAT 12 = false then (s.rstNote [k, 7]).stCut.bootPath else (s.rstNote [k]).stCut.holdSeq := by
  rw [State.fullReq]
  cases hm : s.mode <;> simp [hm] at h ⊢

theorem execPwrFullRstPulse_high (h : s.fullPinAt ≤ s.tmo) :
    exec .pwrFullRstPulse s = .next ({ s with fullPinAt := s.tmo + 8 }.fullReq 2).goOn :=
  congrArg Host.Outcome.next (if_neg (Nat.not_lt.mpr h))

theorem execPwrFullRstPulse_low (h : s.tmo < s.fullPinAt) : exec .pwrFullRstPulse s = .next s := congrArg Host.Outcome.next (if_pos h)

theorem execRstFull_of (h : s.MayAccess src HA_RST_REQ true) :
    exec (.rstFull src) s = .next (((s.fullReq 3).noted src HA_RST_REQ true 0).goOn) :=
  congrArg (fun u : State => Host.Outcome.next u.goOn) (State.regDo_of h fun s => s.rstReq 1)

theorem execRstRelease_of (h : s.MayAccess src HA_RST_REQ true) :
    exec (.rstRelease src) s = .next (((if s.mode == .hold then { s with released := true } else s).noted src HA_RST_REQ true 0).goOn) :=
  congrArg (fun u : State => Host.Outcome.next u.goOn) (State.regDo_of h fun s => s.rstReq 2)

end Full

/-! ### Watchdog and hold limit -/

section Limits

variable {s : State} {src : Src} {w : BitVec 32}

theorem execWdogKick_of (h : s.MayAccess src HA_WDOG true) : exec (.wdogKick src w) s = .next ((s.wdogWrite w).noted src HA_WDOG true 0) :=
  congrArg Host.Outcome.next (State.regDo_of h fun s => s.wdogWrite w)

theorem Mode.watched_iff {m : Mode} : m.watched = true ↔ m ∈ [.standby, .service, .degraded, .evacuate] := by
  cases m <;> simp [Mode.watched]

theorem execWatchdogExpiry_late (hm : s.mode ∈ [.standby, .service, .degraded, .evacuate]) (hl : s.fld HA_WDOG 7 0 ≠ 0)
    (hp : s.past s.wdogAt (1024 * s.fld HA_WDOG 7 0) = true) : exec .watchdogExpiry s = .next (s.fullReq 5).goOn :=
  congrArg (fun u : State => Host.Outcome.next u.goOn) (if_pos ⟨Mode.watched_iff.mpr hm, hl, hp⟩)

theorem execWatchdogExpiry_waits (h : s.mode ∉ [.standby, .service, .degraded, .evacuate] ∨ s.fld HA_WDOG 7 0 = 0 ∨
    s.past s.wdogAt (1024 * s.fld HA_WDOG 7 0) = false) : exec .watchdogExpiry s = .next s.goOn := by
  refine congrArg (fun u : State => Host.Outcome.next u.goOn) (if_neg fun hc => ?_)
  obtain ⟨hm, hl, hp⟩ := hc
  rcases h with h | h | h
  · exact h (Mode.watched_iff.mp hm)
  · exact hl h
  · exact Bool.false_ne_true (h.symm.trans hp)

theorem execHoldLimit_late (hm : s.mode = .hold) (hr : s.prior ≠ .selftest) (hp : s.past s.holdAt 40000 = true) {u : State}
    (hu : u = s.raise HA_RST_CAUSE 8) :
    exec .holdLimit s = .next (if u.mode = .safe then u.setFld HA_MODE 15 12 3 else u.safeEntry 3).goOn := by
  subst hu
  exact congrArg (fun u : State => Host.Outcome.next u.goOn) (if_pos ⟨hm, hr, hp⟩)

theorem execHoldLimit_waits (h : s.mode ≠ .hold ∨ s.prior = .selftest ∨ s.past s.holdAt 40000 = false) :
    exec .holdLimit s = .next s.goOn := by
  refine congrArg (fun u : State => Host.Outcome.next u.goOn) (if_neg fun hc => ?_)
  obtain ⟨hm, hr, hp⟩ := hc
  rcases h with h | h | h
  · exact h hm
  · exact hr h
  · exact Bool.false_ne_true (h.symm.trans hp)

end Limits

/-- Settles O46, row by row. -/
theorem resetsAndBoot : Obligations.ResetsAndBoot := by
  unfold Obligations.ResetsAndBoot
  intro s src
  refine ⟨fun h => ⟨execColdResetAssert_on h, execColdResetRelease_on h⟩, fun h => ⟨execColdResetAssert_off h, execColdResetRelease_off h⟩,
    State.coldReset_quiet, fun p m x hm hp hx => ?_, execFillEnd_fill, execFillEnd_other, fun w u h hu => ?_,
    fun k u hu => ⟨State.fullReq_off, fun h => State.fullReq_ignored h hu, fun h hb => ?_, fun h hi => ?_⟩,
    execPwrFullRstPulse_high, execPwrFullRstPulse_low, fun h => ⟨execRstFull_of h, fun hm => ?_, fun hm => ?_⟩, fun h w u hu => ?_,
    execWatchdogExpiry_late, execWatchdogExpiry_waits, fun u hu hm hr hp => execHoldLimit_late hm hr hp hu, execHoldLimit_waits⟩
  · have hx' : s.strapSample p = x := hx.symm ▸ rfl
    exact ⟨State.takeStraps_mode _ _ _, execStrapsTaken_met hm hp hx', execStrapsTaken_unmet hm hp hx',
      fun g ht => execStrapTimeout_defaults hm hp ht hx', fun ht => execStrapTimeout_met hm hp ht hx', fun g => execStrapTimeout_early⟩
  · rw [execBootReady_nil h, hu]
    rfl
  · rw [State.fullReq_runs h, if_pos hb]
  · simp only [List.mem_cons, List.not_mem_nil, or_false, not_or] at h
    obtain ⟨hoff, hstrap, hfill, hflush, hboot⟩ := h
    rw [State.fullReq_runs (by simp [hoff, hstrap, hfill, hflush]), if_neg (by simp [hboot, hi])]
  · rw [execRstRelease_of h, hm]
    rfl
  · rw [execRstRelease_of h, if_neg (by simpa using hm)]
  · rw [execWdogKick_of h, hu]
    rfl

end Sys2Proof.Machine
end

section
/-! Answers to snoops, their limits, and slots out of use (R81, R105, R107, R200 to R202). -/

namespace Sys2Proof.Machine

/-! ### Reads of intact tables -/

/-- With intact survivor tables a lookup goes on at once. -/
theorem State.survThen_clean {s : State} (h : s.survSyn = []) (r f : State → State) : s.survThen r f = f s := if_pos h

/-- The test of R201 reads an intact ledger as it is stored. -/
theorem State.ledScan_clean {s : State} {p : HpId} (h : (s.hpAt p).syn = []) : s.ledScan p = s := if_pos h

/-! ### Delivery to the flow -/

/-- What answer `a` of `host` changes in the tracker of the flow that snooped (R107, R190, R241). -/
def Trk.answered (r : Trk) (host : BitVec 10) (a : Nat) : Trk :=
  let r := r.setW3 10 0 (r.snpOut - 1)
  let r := if a = 1 then r.setW3 11 11 1 else if a = 2 then r.setW3 12 12 1 else r
  if a = 0 then r else r.addAns host.toNat

/-- An answer frees its slot and is given to the flow. -/
def State.answeredTo (s : State) (p : HpId) (i : Nat) (sl : Slot) (n : NodeId) (k a : Nat) : State :=
  ((s.setHp p ((s.hpAt p).setSlot i none)).modTrk n k fun r => r.answered sl.sn.host a).wake n k

/-- A slot of the same set as slot `i` is still to be answered (R82). -/
def HpShell.setOpen (x : HpShell) (i : Nat) (sl : Slot) : Bool := x.slots.any fun e => match e.2 with
  | some o => o.grp == sl.grp && e.1 != i && (match o.st with | .quar _ => false | _ => true)
  | none => false

/-- A slot alone in its set is the last to be answered. -/
theorem HpShell.setOpen_alone {x : HpShell} {i : Nat} {sl : Slot} (h : ∀ e ∈ x.slots, ∀ o, e.2 = some o → o.grp = sl.grp → e.1 = i) :
    x.setOpen i sl = false := by
  rw [HpShell.setOpen, List.any_eq_false]
  rintro ⟨j, o⟩ he
  cases o with
  | none => exact Bool.false_ne_true
  | some o =>
    by_cases hg : o.grp = sl.grp
    · simp [show j = i from h _ he o rfl hg]
    · simp [hg]

/-- Slot `i` of port `p` goes on as `sl` in state `st`. -/
def State.slotTo (s : State) (p : HpId) (i : Nat) (sl : Slot) (st : SlotSt) : State :=
  s.setHp p ((s.hpAt p).setSlot i (some { sl with st := st }))

section Answer

variable {s : State} {p : HpId} {i : Nat} {sl : Slot} {n : NodeId} {k : Nat}

theorem State.deliver_flow {q : Snoop} (hown : q.own = .flow n k)
    (hsyn : smGet (fun _ => (0 : BitVec 8)) ((s.nd n).trkAt k).syn 3 = 0) (a : Nat) :
    s.deliver q a false = (s.modTrk n k fun r => r.answered q.host a).wake n k := by
  simp only [State.deliver, hown, State.updTrk_intact hsyn]
  rfl

/-- The last answer of a set frees its slot, and is delivered as the highest of the set (R82, R107). -/
theorem State.slotDone_last (hsl : (s.hpAt p).slotAt i = some sl) (hlast : (s.hpAt p).setOpen i sl = false) (a : Nat) :
    s.slotDone p i a false = (s.setHp p ((s.hpAt p).setSlot i none)).deliver sl.sn (max sl.acc.toNat a) false := by
  rw [State.slotDone, hsl]
  dsimp only
  split
  · next h => exact absurd h (ne_true_of_eq_false hlast)
  · rfl

/-- An answer that is the only one of its set is delivered as it came. -/
theorem State.slotDone_alone (hsl : (s.hpAt p).slotAt i = some sl) (hlast : (s.hpAt p).setOpen i sl = false) (hacc : sl.acc = 0)
    (hown : sl.sn.own = .flow n k) (hsyn : smGet (fun _ => (0 : BitVec 8)) ((s.nd n).trkAt k).syn 3 = 0) (a : Nat) :
    s.slotDone p i a false = s.answeredTo p i sl n k a := by
  have hmax : max sl.acc.toNat a = a := by rw [hacc]; exact Nat.zero_max a
  rw [State.slotDone_last hsl hlast, hmax, State.deliver_flow hown (by rw [State.nd_setHp]; exact hsyn), State.answeredTo]

/-! ### The response -/

/-- The answers that Table 4.2 permits to a snoop: 0 I, 1 S, 2 E. -/
def snpAnswers (op : BitVec 3) : List Nat :=
  if (op &&& 3) = 0 then [0, 1, 2] else if (op &&& 3) = 1 then [0, 1] else [0]

theorem ansOk_iff (op : BitVec 3) (a : Nat) : ansOk op a = true ↔ a ∈ snpAnswers op := by
  have h : (op &&& 3) = 0 ∨ (op &&& 3) = 1 ∨ (op &&& 3) = 2 ∨ (op &&& 3) = 3 := by revert op; decide
  rcases h with h | h | h | h <;> rw [ansOk, snpAnswers, h] <;> simp <;> omega

theorem State.birspOk_some {msg : BitVec 64} {z : Nat} (hsl : (s.hpAt p).slotAt (birspSlot msg) = some sl) (hst : sl.st = .out z)
    (hhost : bf msg 12 3 = sl.sn.host.toNat) (hres : bf msg 63 29 = 0) (h3 : bf msg 2 0 ≠ 3) (h7 : bf msg 2 0 ≠ 7)
    (hblk : bt msg 2 = bt sl.sn.op 2) : s.birspOk p msg = some sl := by
  simp [State.birspOk, hsl, hst, hhost, hres, h3, h7, hblk]

/-- A response of another epoch than the running one is stale (R105, R202). -/
theorem State.birsp_stale {msg : BitVec 64} (hep : bf msg 28 26 ≠ s.fld HA_RST_STAT 2 0) : s.birsp p msg = s := by
  rw [State.birsp, if_pos hep, ite_self]

section Taken

variable {msg : BitVec 64} (hsink : s.sinks = false) (hr : s.rspReady = true) (huse : s.hpUse p = true) (hon : (s.hpAt p).att.on = true)
  (hfail : (s.hpAt p).failed = false) (hep : bf msg 28 26 = s.fld HA_RST_STAT 2 0) (hok : s.birspOk p msg = some sl)
  (hsyn : (s.hpAt p).syn = [])
include hsink hr huse hon hfail hep hok hsyn

/-- A response of the running epoch that passes its checks: refused, held behind a write of its host, or given to the flow. -/
theorem State.birsp_taken : s.birsp p msg =
    if ansOk sl.sn.op (bf msg 1 0) = false then
      ((s.raise HA_SNP_ERR (16 + p.val)).slotTo p (birspSlot msg) sl .gone).depart sl.sn.host.toNat 3
    else if (s.hpAt p).writeWaits sl = true then
      (s.raise HA_SNP_ERR p.val).setHp p
        ((s.hpAt p).setSlot (birspSlot msg) (some { sl with st := .held (BitVec.ofNat 3 (bf msg 1 0)) }))
    else s.slotDone p (birspSlot msg) (bf msg 1 0) false := by
  rw [State.birsp, if_neg (by simp [hsink, hr, huse, hon, hfail]), if_neg (not_not.mpr hep), hok]
  simp only [State.ledScan_clean hsyn, Bool.not_eq_true']
  rfl

end Taken

theorem exec_birsp {msg : BitVec 64} {u : State} (hs : s.survSyn = []) (hr : s.rspReady = true) (h : s.birsp p msg = u) :
    exec (.birsp p msg) s = .next u.goOn := by
  change execBirsp _ _ _ = _
  rw [execBirsp, if_pos hr, State.survThen_clean hs, h]

/-! ### Held answers, limits and quarantine -/

/-- A held answer is delivered once no write of its host waits (R201). -/
theorem State.heldOut_held {b : BitVec 3} (hsyn : (s.hpAt p).syn = []) (hsl : (s.hpAt p).slotAt i = some sl) (hst : sl.st = .held b) :
    s.heldOut p i = if (s.hpAt p).writeWaits sl = true then s else s.slotDone p i b.toNat false := by
  simp only [State.heldOut, State.ledScan_clean hsyn, hsl, hst]

/-- The limit of an outstanding slot was fixed when its snoop was sent (R108, R200). -/
theorem State.snoopLate_out {z : Nat} (hsl : (s.hpAt p).slotAt i = some sl) (hst : sl.st = .out z) :
    s.snoopLate p i = if s.past z 0 = true then ((s.slotTo p i sl .gone).cntB 0x104 1).depart sl.sn.host.toNat 2 else s := by
  simp only [State.snoopLate, hsl, hst]
  rfl

/-- A slot out of use is free after one further limit (R200). -/
theorem State.quarEnd_quar {z : Nat} (hsl : (s.hpAt p).slotAt i = some sl) (hst : sl.st = .quar z) :
    s.quarEnd p i = if s.past z s.snpLimit = true then s.setHp p ((s.hpAt p).setSlot i none) else s := by
  simp only [State.quarEnd, hsl, hst]

theorem exec_heldAnswerDelivery {slot : Fin 8192} {u : State} (hs : s.survSyn = []) (h : s.heldOut p slot.val = u) :
    exec (.heldAnswerDelivery p slot) s = .next u.goOn := by
  change execHeldAnswerDelivery _ _ _ = _
  rw [execHeldAnswerDelivery, State.survThen_clean hs, h]

theorem exec_snoopTimeout {slot : Fin 8192} {u : State} (hs : s.survSyn = []) (h : s.snoopLate p slot.val = u) :
    exec (.snoopTimeout p slot) s = .next u.goOn := by
  change execSnoopTimeout _ _ _ = _
  rw [execSnoopTimeout, State.survThen_clean hs, h]

end Answer

/-- Settles O38: a response is stale, refused, held or delivered; a held answer is delivered late; a limit departs the host. -/
theorem snoopAnswers : Obligations.SnoopAnswers := by
  unfold Obligations.SnoopAnswers
  intro s p slot i sl x n k msg a gone done ok hi hx hsl hlsyn hs hown hsyn hone hacc ha hok hgone hdone
  subst hi hx ha
  replace hok : ok = snpAnswers sl.sn.op := hok
  have hdone (b : Nat) : s.slotDone p slot.val b false = done b := by
    rw [State.slotDone_alone hsl (HpShell.setOpen_alone hone) hacc hown hsyn, hdone]
    rfl
  refine ⟨fun z hst hslot hr hsink huse hon hfail => ⟨fun hep => exec_birsp hs hr (State.birsp_stale hep),
      fun hep hhost hres h3 h7 hblk => ?_⟩, fun b hst _ => ?_, fun z hst => ?_, fun z hst => ?_⟩
  · have htaken := State.birsp_taken hsink hr huse hon hfail hep (State.birspOk_some (hslot.symm ▸ hsl) hst hhost hres h3 h7 hblk) hlsyn
    rw [hslot, hdone] at htaken
    refine ⟨fun hmem => ?_, fun hmem u hu => exec_birsp hs hr (htaken.trans ?_)⟩
    · rw [if_neg (by rw [(ansOk_iff _ _).mpr (hok ▸ hmem)]; decide)] at htaken
      exact ⟨fun hw => exec_birsp hs hr (htaken.trans (if_neg (ne_true_of_eq_false hw))),
        fun hw => exec_birsp hs hr (htaken.trans (if_pos hw))⟩
    · rw [if_pos (Bool.eq_false_iff.mpr fun h => hmem (hok ▸ (ansOk_iff _ _).mp h)), hu]
      rfl
  · have hheld := State.heldOut_held hlsyn hsl hst
    rw [hdone] at hheld
    exact ⟨fun hw => exec_heldAnswerDelivery hs (hheld.trans (if_neg (ne_true_of_eq_false hw))),
      fun hw => exec_heldAnswerDelivery hs (hheld.trans (if_pos hw))⟩
  · have hlate := State.snoopLate_out hsl hst
    exact ⟨fun hp => exec_snoopTimeout hs ((hlate.trans (if_pos hp)).trans (by rw [hgone]; rfl)),
      fun hp => exec_snoopTimeout hs (hlate.trans (if_neg (ne_true_of_eq_false hp)))⟩
  · have hquar := State.quarEnd_quar hsl hst
    exact ⟨fun hp => congrArg (fun u : State => Host.Outcome.next u.goOn) (hquar.trans (if_pos hp)),
      fun hp => congrArg (fun u : State => Host.Outcome.next u.goOn) (hquar.trans (if_neg (ne_true_of_eq_false hp)))⟩

end Sys2Proof.Machine
end

section
/-! Acknowledgements of media writes, and the MP_ACK limit (R91, R115, R116, R118, R203, R213, R330). -/

namespace Sys2Proof.Machine

/-! ### What noting an error leaves -/

/-- From `s` to `u` only what an error is noted in differs: registers, event records, Chervil's core, the mode and free values. -/
structure Noted (s u : State) : Prop where
  rest : { u with regs := s.regs, evq := s.evq, evDrops := s.evDrops, evSeq := s.evSeq, evSince := s.evSince, chv := s.chv,
                  mode := s.mode, wdogAt := s.wdogAt, free := s.free } = s

section Noted

variable {s u v : State}

theorem Noted.refl (s : State) : Noted s s := ⟨rfl⟩

theorem Noted.trans (h : Noted s u) (k : Noted u v) : Noted s v where
  rest := by
    have h1 := h.rest
    have h2 := k.rest
    rw [← h1, ← h2]

theorem Noted.mpAt (h : Noted s u) (m : MpId) : u.mpAt m = s.mpAt m := by
  rw [← h.rest]
  rfl

theorem Noted.ite {c : Prop} [Decidable c] (h : Noted s u) (k : Noted s v) : Noted s (if c then u else v) := by
  split
  · exact h
  · exact k

variable (s)

theorem State.setFld_noted (a hi lo x : Nat) : Noted s (s.setFld a hi lo x) := ⟨rfl⟩

theorem State.chvEvent_noted (evt datum : Nat) : Noted s (s.chvEvent evt datum) := by
  unfold State.chvEvent
  dsimp only
  split
  · exact ⟨rfl⟩
  · split <;> exact ⟨rfl⟩

theorem State.pushRec_noted (kind cls payload : Nat) : Noted s (s.pushRec kind cls payload) := by
  unfold State.pushRec
  dsimp only
  split <;> exact ⟨rfl⟩

theorem State.dropped_noted : Noted s s.dropped := by
  unfold State.dropped
  exact .ite (.refl s) ((s.pushRec_noted 0x07 0 s.evDrops.toNat).trans ⟨rfl⟩)

theorem State.dropRec_dropped_noted : Noted s s.dropRec.dropped := Noted.trans (u := s.dropRec) ⟨rfl⟩ s.dropRec.dropped_noted

theorem State.record_noted (kind cls payload : Nat) : Noted s (s.record kind cls payload) := by
  unfold State.record
  exact .ite (.refl s) (.ite s.dropRec_dropped_noted
    (s.dropped_noted.trans (.ite (State.pushRec_noted _ _ _ _) (State.dropRec_dropped_noted _))))

theorem State.setMode_noted (m : Mode) : Noted s (s.setMode m) := by
  unfold State.setMode
  refine .ite (.refl s) (.ite ⟨rfl⟩ (Noted.trans (Noted.trans ?_ (State.record_noted _ _ _ _)) (State.chvEvent_noted _ _ _)))
  exact ⟨rfl⟩

theorem State.degrade_noted : Noted s s.degrade := by
  unfold State.degrade
  split
  · exact .ite (s.setMode_noted _) (.refl s)
  · exact .ite (.refl s) (s.setMode_noted _)
  · exact .refl s

theorem State.raiseNote_noted (a i : Nat) (own : Bool) : Noted s (s.raiseNote a i own) := by
  have hrec (u : State) (c : Prop) [Decidable c] (kind cls payload : Nat) : Noted u (if c then u else u.record kind cls payload) :=
    .ite (.refl u) (u.record_noted _ _ _)
  have hevt (u : State) (c : Prop) [Decidable c] (e d : Nat) : Noted u (if c then u.chvEvent e d else u) :=
    .ite (u.chvEvent_noted _ _) (.refl u)
  exact ((s.setFld_noted a i i 1).trans (hrec _ _ _ _ _)).trans (hevt _ _ _ _)

/-- An error below FATAL is noted, and the mode follows (R392, R444). -/
theorem State.raise_noted {a i : Nat} (h : errClass a i ≠ 4) : Noted s (s.raise a i) := by
  unfold State.raise State.raiseK
  dsimp only
  rw [if_neg (c := errClass a i = 4 ∧ _) fun hc => h hc.1]
  exact .ite (.refl s) ((s.raiseNote_noted _ _ _).trans (State.degrade_noted _))

end Noted

/-! ### The end of a write -/

/-- The tag of an acknowledged write or SYNC is free, and no FLUSH waits for it any longer (R91, R116). -/
def State.tagEnded (s : State) (m : MpId) (i : Nat) : State := (s.setMp m ((s.mpAt m).setTag i none)).flushHit m i false

/-- What the failure of a write whose hand-off is in loses: the FLUSHes that cover a write with DHINT 01 fail, and a write whose CMP
went before is a loss (R118). -/
def State.lossNoted (f : State) (g : Mtag) (oc : Nat) : State :=
  let d := match g.dh with
    | none => f
    | some d => if oc = 0 then f else f.setHp d.1 ((f.hpAt d.1).flushLostAt d.2)
  if oc ≠ 0 ∧ (g.comp.isSome = true ∨ g.loss = true) then d.lossPend else d

/-- The response held for DURABLE goes out, or ERR MEDIA in its place (R118, R246). -/
def State.heldAnswered (a : State) (g : Mtag) (oc : Nat) : State :=
  match g.onack with
  | none => a
  | some c => if oc = 0 then a.answerNdr c.1 c.2.1 (setBt c.2.2 36 true)
              else (a.setHp c.1 ((a.hpAt c.1).flushLost c.2.1)).completeErr c

/-- What the end of an unpaired write that its flow still owns does, with outcome `oc` (R203). -/
def State.flowWriteEnds (s : State) (m : MpId) (i : Nat) (g : Mtag) (n : NodeId) (k oc : Nat) : State :=
  ((((s.tagEnded m i).lossNoted g oc).heldAnswered g oc).writeFree n g).writeFlow n k oc

theorem State.writeLoss_handed {g : Mtag} (hh : g.handed = true) (s : State) (oc : Nat) : s.writeLoss g (oc == 0) = s.lossNoted g oc := by
  by_cases h : oc = 0
  · simp only [State.writeLoss, State.lossNoted, h]
    cases g.dh <;> rfl
  · have hloss : (g.comp.isSome && g.handed || g.comp.isNone && g.loss) = (g.comp.isSome || g.loss) := by
      rw [hh]
      cases g.comp <;> simp
    simp only [State.writeLoss, State.lossNoted, hloss, beq_eq_false_iff_ne.mpr h]
    cases g.dh <;> simp [h]

theorem State.writeAck_eq (s : State) (g : Mtag) (oc : Nat) : s.writeAck g (oc == 0) = s.heldAnswered g oc := by
  simp only [State.writeAck, State.heldAnswered, beq_iff_eq]
  cases g.onack <;> rfl

/-- The CMP of a write whose hand-off is in has gone out (R30). -/
theorem State.writeComp_handed {g : Mtag} (hh : g.handed = true) (s : State) (ok : Bool) : s.writeComp g ok = s := by
  unfold State.writeComp
  split
  · rw [hh]; rfl
  · rfl

section WriteEnds

variable {s : State} {m : MpId} {i k : Nat} {n : NodeId} {g : Mtag} (hg : (s.mpAt m).mtag i = some g)
include hg

/-- A handed-off write of a flow ends, and the flow hears of it. -/
theorem State.writeDone_flow (hk : g.kind = .wr) (hown : g.own = .flow n k) (ho : g.orphan = false) (hb : g.bad = false)
    (hp : g.pair = none) (hh : g.handed = true) (oc : Nat) :
    s.writeDone m i oc = (s.flowWriteEnds m i g n k oc, some (.flow n k)) := by
  have hsync : (MKind.wr == MKind.sync) = false := rfl
  simp [State.writeDone, hg, hk, hown, ho, hb, hp, hsync, State.flowWriteEnds, State.tagEnded, State.writeLoss_handed hh,
    State.writeComp_handed hh, State.writeAck_eq]

theorem State.writeDone_sync (hk : g.kind = .sync) (hb : g.bad = false) : s.writeDone m i 0 = (s.tagEnded m i, none) := by
  simp [State.writeDone, hg, hk, hb, State.tagEnded]

theorem State.ackOne_flow (hk : g.kind = .wr) (hown : g.own = .flow n k) (ho : g.orphan = false) (hb : g.bad = false)
    (hp : g.pair = none) (hh : g.handed = true) (oc : Nat) : s.ackOne m i oc = s.flowWriteEnds m i g n k oc := by
  rw [State.ackOne, State.writeDone_flow hg hk hown ho hb hp hh]

theorem State.ackOne_sync (hk : g.kind = .sync) (hb : g.bad = false) : s.ackOne m i 0 = s.tagEnded m i := by
  rw [State.ackOne, State.writeDone_sync hg hk hb]

end WriteEnds

/-! ### Acknowledgements of one tag -/

section Ack

variable {s : State} {m : MpId} {i : Nat} {g : Mtag} {ack : BitVec 64}

/-- An acknowledgement without a count covers the tag it names. -/
theorem ackTags_single (hc : bf ack 25 14 = 0) : ackTags ack = [bf ack 13 2] := by
  have hlt : bf ack 13 2 < 4096 := Nat.mod_lt _ (by decide)
  simp [ackTags, hc, Nat.mod_eq_of_lt hlt]

/-- Whether an acknowledgement of kind `q` ends a request of kind `k`. -/
theorem State.ackOk_single {q : Nat} (hg : (s.mpAt m).mtag i = some g) (hh : g.handed = true) (hq : bf ack 1 0 = q)
    (hk : g.kind = if q = 1 then .sync else .wr) (hres : bf ack 63 26 = 0) (hc : bf ack 25 14 = 0) (hi : bf ack 13 2 = i) :
    s.ackOk m q ack = true := by
  simp [State.ackOk, hq, hres, hc, ackTags_single hc, hi, hg, hh, hk]

theorem State.ackIn_single {q : Nat} (hs : s.survSyn = []) (hin : s.mpIn m = true) (hsink : s.sinks = false)
    (hok : s.ackOk m q ack = true) (hc : bf ack 25 14 = 0) :
    s.ackIn m q ack = s.ackOne m (bf ack 13 2) (if q = 2 then 1 else 0) := by
  simp [State.ackIn, hin, State.survThen_clean hs, hsink, hok, ackTags_single hc]

theorem State.ackIn_field {q : Nat} (hs : s.survSyn = []) (hin : s.mpIn m = true) (hsink : s.sinks = false) (hres : bf ack 63 26 ≠ 0) :
    s.ackIn m q ack = s.mpField m := by
  simp [State.ackIn, hin, State.survThen_clean hs, hsink, State.ackOk, hres]

/-- With no tag of the FLUSH mode's own outstanding, a passed limit is an error and ends the request (R118). -/
theorem State.ackLate_past (hg : (s.mpAt m).mtag i = some g) (hh : g.handed = true) (hk : g.kind ≠ .rd)
    (hp : s.past g.at_ (s.fld HA_PORT_TMO 23 16 * 1024) = true) (hf : s.flushTags = []) :
    s.ackLate m i = (s.raise (HA_MP_STAT + 4 * m.val) 9).ackOne m i 1 := by
  have hsame : { s with flushTags := [] } = s := by rw [← hf]
  simp [State.ackLate, hg, hh, hk, hp, hf, hsame]

/-- The class of MP_ACK is below FATAL (Table 18.5). -/
theorem errClass_mpAck (m : MpId) : errClass (HA_MP_STAT + 4 * m.val) 9 ≠ 4 := by
  revert m
  decide

end Ack

/-! ### The flow of a write -/

/-- The flow of a write hears that it has ended (R203). -/
def State.writeHeard (u : State) (n : NodeId) (k oc : Nat) : State :=
  if oc = 0 then u.modTrk n k fun r => r.setW4 27 27 0 else (u.modTrk n k fun r => r.setW4 27 27 0).raise (ndA n ND_TRK_ERR) 3

theorem State.writeFlow_eq {u : State} {n : NodeId} {k : Nat} (hv : ((u.nd n).trkAt k).v = true)
    (hsyn : smGet (fun _ => (0 : BitVec 8)) ((u.nd n).trkAt k).syn 4 = 0) (oc : Nat) :
    u.writeFlow n k oc = if oc ≠ 0 ∧ ((u.nd n).trkAt k).kind = 4 then (u.writeHeard n k oc).copyEnd n k (if oc = 2 then 5 else 1)
      else ((u.writeHeard n k oc).wake n k).settle n := by
  rw [State.writeFlow]
  dsimp only
  rw [hv, if_neg (by decide), State.updTrk_intact hsyn]
  rfl

theorem exec_mpAckTimeout {s : State} {m : MpId} {t : BitVec 12} {u : State} (hs : s.survSyn = []) (h : s.ackLate m t.toNat = u) :
    exec (.mpAckTimeout m t) s = .next u.goOn := by
  change execMpAckTimeout _ _ _ = _
  rw [execMpAckTimeout, State.survThen_clean hs, h]

/-- Settles O43: an acknowledgement or a passed limit ends its tag, and the write's owner hears of it. -/
theorem mediaWritesEnd : Obligations.MediaWritesEnd := by
  unfold Obligations.MediaWritesEnd
  intro s m ack i k n g free fin hg hh hs hfree hfin
  subst hfree
  replace hfin : fin = fun u oc => u.flowWriteEnds m i g n k oc := by
    rw [hfin]
    funext u oc
    rw [State.flowWriteEnds, State.writeFree]
    cases g.sb <;> rfl
  subst hfin
  refine ⟨fun u v oc hv hsyn hvo => ?_, fun hk hown ho hb hp => ⟨fun hin hsink hres hc hi => ⟨fun hq => ?_, fun hq => ?_⟩,
    fun t ht hpast hf => ?_⟩, fun hk hb hin hsink hres hc hi hq => ?_, fun hin hsink hres c hmem => ?_⟩
  · replace hvo : v = u.writeHeard n k oc := hvo
    rw [State.writeFlow_eq hv hsyn, ← hvo]
    exact ⟨fun h => if_neg (by tauto), fun h4 hk => if_pos ⟨h4, hk⟩⟩
  · have hok := State.ackOk_single hg hh hq hk hres hc hi
    change execAckDurable _ _ _ = _
    rw [execAckDurable, hin, hok, State.ackIn_single hs hin hsink hok hc, hi, State.ackOne_flow hg hk hown ho hb hp hh]
    rfl
  · have hok := State.ackOk_single hg hh hq hk hres hc hi
    change execAckWriteFail _ _ _ = _
    rw [execAckWriteFail, State.ackIn_single hs hin hsink hok hc, hi, State.ackOne_flow hg hk hown ho hb hp hh]
    rfl
  · have hraise := (s.raise_noted (errClass_mpAck m)).mpAt m
    refine exec_mpAckTimeout hs ?_
    rw [ht, State.ackLate_past hg hh (by simp [hk]) hpast hf, State.ackOne_flow (by rw [hraise]; exact hg) hk hown ho hb hp hh]
  · have hok := State.ackOk_single hg hh hq hk hres hc hi
    change execAckSyncDone _ _ _ = _
    rw [execAckSyncDone, State.ackIn_single hs hin hsink hok hc, hi, if_neg (by decide), State.ackOne_sync hg hk hb]
    rfl
  · simp only [List.mem_cons, List.not_mem_nil, or_false] at hmem
    rcases hmem with rfl | rfl
    · exact congrArg (fun u : State => Host.Outcome.next u.goOn) (State.ackIn_field hs hin hsink hres)
    · exact congrArg (fun u : State => Host.Outcome.next u.goOn) (State.ackIn_field hs hin hsink hres)

end Sys2Proof.Machine
end

section
/-! Threads that the sending of snoops leaves as they were (R190, R199, R260, R313, R314, R395). -/

namespace Sys2Proof.Machine

theorem State.foldl_thr {α : Type} {f : State → α → State} {k : Thr} (h : ∀ u a, (f u a).thr k = u.thr k) (l : List α) (s : State) :
    (l.foldl f s).thr k = s.thr k := by
  induction l generalizing s with
  | nil => rfl
  | cons a l ih => exact (ih _).trans (h s a)

/-- A change of a node that leaves the threads of its core leaves every thread. -/
theorem State.modNd_threads {s : State} {n : NodeId} {f : Node → Node} (h : (f (s.nd n)).core.threads = (s.nd n).core.threads) (k : Thr) :
    (s.modNd n f).thr k = s.thr k := by
  simp only [State.thr, Core.thr]
  cases k.core with
  | chervil => rfl
  | node m =>
    simp only [State.core, State.nd_modNd]
    split
    · next hm => rw [h, hm]
    · rfl

/-! ### Errors of any class -/

section Errors

variable (s : State) (k : Thr)

theorem State.note_thr (a i : Nat) : (s.note a i).thr k = s.thr k := by
  unfold State.note
  split
  · rfl
  · rw [State.degrade_thr, State.raiseNote_thr]

theorem State.ledCorrect_thr (p : HpId) (i w : Nat) : (s.ledCorrect p i w).thr k = s.thr k := by
  unfold State.ledCorrect
  dsimp only
  split
  · rw [State.note_thr, State.thr_setHp]
  · rfl

theorem State.ledRead_thr (p : HpId) (i : Nat) : (s.ledRead p i).2.thr k = s.thr k := by
  have hfix := State.foldl_thr (k := k) (fun u w => u.ledCorrect_thr k p i w) (List.range 12) s
  unfold State.ledRead
  dsimp only
  split
  · rfl
  · split
    · rw [State.note_thr, hfix]
    · split
      · rw [State.note_thr, hfix]
      · rw [hfix]

theorem State.putNdr_thr (p : HpId) (i : Nat) (w : BitVec 64) : (s.putNdr p i w).thr k = s.thr k := by
  unfold State.putNdr
  dsimp only
  split
  · rfl
  · split <;> exact State.thr_setHp ..

theorem State.putDrs_thr (p : HpId) (i : Nat) (w : BitVec 64) (d : Line) (b : Bool) : (s.putDrs p i w d b).thr k = s.thr k := by
  unfold State.putDrs
  dsimp only
  split
  · rfl
  · split <;> exact State.thr_setHp ..

theorem State.putErr_thr (p : HpId) (i code dl : Nat) : (s.putErr p i code dl).thr k = s.thr k := by
  unfold State.putErr
  split
  · rfl
  · dsimp only
    split
    · split <;> exact State.putDrs_thr ..
    · exact State.putNdr_thr ..

theorem State.answerErr_thr (p : HpId) (i code dl : Nat) : (s.answerErr p i code dl).thr k = s.thr k := by
  unfold State.answerErr State.answer
  split
  · rfl
  · split
    · rfl
    · dsimp only
      split
      · rw [State.putErr_thr, State.ledRead_thr]
      · rw [State.thr_setHp, State.ledRead_thr]
      · rw [State.putErr_thr, State.ledRead_thr]

/-- Entering SAFE stops engines and halts channels; every thread keeps what it holds (R395). -/
theorem State.safeEntry_thr (cause : Nat) : (s.safeEntry cause).thr k = s.thr k := by
  unfold State.safeEntry
  dsimp only
  rw [State.setMode_thr, State.foldl_thr fun u p => u.thr_setHp p _ k,
    State.foldl_thr fun u p => State.foldl_thr (fun u i => u.answerErr_thr k p i 4 0) _ u, State.foldl_thr fun u c => u.thr_setCh c _ k,
    State.foldl_thr fun u n => State.modNd_threads (s := u) (n := n) (f := fun x => { x with core := { x.core with stopped := true } }) rfl k,
    State.thr_setFld]

theorem State.stAbandon_thr : s.stAbandon.thr k = s.thr k := by
  unfold State.stAbandon
  dsimp only
  split
  · rfl
  · exact State.raiseNote_thr ..

/-- An error of any class leaves every thread as it was (R392, R395, R444). -/
theorem State.raiseK_threads (a i : Nat) (own : Bool) : (s.raiseK a i own).thr k = s.thr k := by
  unfold State.raiseK
  dsimp only
  split
  · rfl
  · split
    · rw [State.safeEntry_thr]
      split
      · rw [State.stAbandon_thr, State.raiseNote_thr]
      · exact State.raiseNote_thr ..
    · rw [State.degrade_thr, State.raiseNote_thr]

theorem State.raise_threads (a i : Nat) : (s.raise a i).thr k = s.thr k := s.raiseK_threads k a i false

theorem State.bmErrs_thr (e : BmErr) : (s.bmErrs e).thr k = s.thr k := by
  cases e with
  | ok | uncorrectable => rfl
  | corrected => exact State.thr_setFld ..
  | address | timeout => exact State.raise_threads ..

end Errors

/-! ### Words that a lookup reads -/

section Reads

variable (s : State) (k : Thr)

theorem State.trkCheck_thr (n : NodeId) (t i : Nat) : (s.trkCheck n t [i]).2.thr k = s.thr k := by
  have hcap (u : State) (a b v : Nat) : (u.captureV a b v).thr k = u.thr k := by
    unfold State.captureV
    split
    · rfl
    · exact State.thr_setRaw ..
  unfold State.trkCheck
  rw [List.foldl_cons, List.foldl_nil]
  dsimp only
  split
  · rw [State.raise_threads, hcap, State.modTrk_thr]
  · split
    · rw [State.raise_threads, State.modTrk_thr]
    · rfl

theorem State.updTrk_thr (n : NodeId) (t i : Nat) (f : Trk → Trk) : (s.updTrk n t i f).thr k = s.thr k := by
  unfold State.updTrk
  dsimp only
  split
  · exact s.trkCheck_thr k n t i
  · rw [State.modTrk_thr, State.trkCheck_thr]

theorem State.survSet_thr (t g : Nat) (v : Word) : (s.survSet t g v).thr k = s.thr k := by
  unfold State.survSet
  split
  · exact State.thr_setHp ..
  · split
    · exact State.thr_setMp ..
    · split
      · exact State.thr_setMp ..
      · split
        · exact State.thr_setSes ..
        · rfl

theorem State.survGran_thr (t g : Nat) : (s.survGran t g).thr k = s.thr k := by
  have hfix (u : State) (e : Ecc) : (match u.survWord t g with
      | some v => if eccFix v e = v then u else u.survSet t g (eccFix v e)
      | none => u).thr k = u.thr k := by
    split
    · split
      · rfl
      · exact State.survSet_thr ..
    · rfl
  unfold State.survGran
  dsimp only
  split
  · rfl
  · split
    · exact State.raise_threads ..
    · rw [State.raise_threads]
      exact hfix s _

theorem State.sesRead_thr (h : Nat) : (s.sesRead h).thr k = s.thr k := by
  unfold State.sesRead State.survRead
  split
  · rfl
  · exact State.foldl_thr (fun u i => u.survGran_thr k 32 (h + i)) _ _

theorem State.survThen_thr {r f : State → State} (hr : ∀ u : State, (r u).thr k = u.thr k) (hf : ∀ u : State, (f u).thr k = u.thr k) :
    (s.survThen r f).thr k = s.thr k := by
  unfold State.survThen
  dsimp only
  split
  · exact hf s
  · split
    · exact hr s
    · rw [hf, hr]

theorem State.macLook_thr (i : Nat) (p : MacEnt → Bool) : (s.macLook i p).2.thr k = s.thr k := by
  unfold State.macLook
  split
  · rfl
  · split
    · exact State.wayError_thr ..
    · exact State.thr_setMac ..

theorem State.reverse_thr (p : HpId) (ctx : BitVec 16) (x : Nat) : (s.reverse p ctx x).2.thr k = s.thr k := by
  unfold State.reverse
  split
  · next h => rw [← s.macLook_thr k p.val, h]
  · next h =>
    rw [← s.macLook_thr k p.val, h]
    exact State.bmErrs_thr ..

theorem State.plcHit_thr (n : NodeId) (x : Nat) : (s.plcHit n x).2.thr k = s.thr k := by
  unfold State.plcHit
  split <;> next h => rw [← s.macLook_thr k (24 + n.val), h]

end Reads

/-! ### A snoop at its host's shell -/

section Place

variable (s : State) (k : Thr)

theorem State.survFresh_thr (t g j : Nat) : (s.survFresh t g j).thr k = s.thr k := State.thr_of_cores rfl rfl k

theorem State.slotSnoop_thr (p : HpId) (q : Snoop) (c : Nat) (gone : Bool) : (s.slotSnoop p q c gone).thr k = s.thr k := by
  unfold State.slotSnoop
  extract_lets x ns _ one parts is
  split
  · exact State.thr_setHp ..
  · rw [State.foldl_thr fun u i => u.survFresh_thr k p.val (2 * i) 2, State.thr_setHp]

theorem State.depart_thr (h cause : Nat) : (s.depart h cause).thr k = s.thr k := by
  unfold State.depart
  dsimp only
  split
  · rfl
  · rw [(State.chvEvent_counted _ _ _).thr, State.raiseK_threads, State.thr_setHp, State.thr_setSes]

theorem State.placeSnoop_thr (q : Snoop) : (s.placeSnoop q).thr k = s.thr k := by
  unfold State.placeSnoop
  refine s.survThen_thr k (fun u => u.sesRead_thr k _) fun u => ?_
  dsimp only
  split
  · exact State.thr_setHp ..
  · split
    · next h => rw [State.slotSnoop_thr, ← u.reverse_thr k, h]
    · next h =>
      split
      · rw [State.slotSnoop_thr, ← u.reverse_thr k, h]
      · rw [State.depart_thr, State.raise_threads, State.slotSnoop_thr, ← u.reverse_thr k, h]

end Place

/-! ### The start of a write-back (R190, R260) -/

section Start

variable (s : State) (k : Thr) (n : NodeId) (t : Nat)

theorem State.waitLb_thr : (s.waitLb n t).thr k = s.thr k := by
  refine State.modNd_threads ?_ k
  dsimp only
  split <;> rfl

theorem State.raiseEvt_thr (evt cls : Nat) (o : Option Nat) (d : Word) : (s.raiseEvt n evt cls o d).thr k = s.thr k :=
  State.modNd_threads rfl k

theorem State.aplFault_thr (stat : Nat) : (s.aplFault n t stat).thr k = s.thr k := by
  unfold State.aplFault
  rw [State.modTrk_thr, State.raiseEvt_thr, State.raise_threads]

theorem State.startEnd_thr (e : Reg32) : (s.startEnd n t e).thr k = s.thr k := by
  unfold State.startEnd State.pushReq
  dsimp only
  rw [State.modTrk_thr, State.raiseEvt_thr]
  split
  · exact State.modTrk_thr ..
  · rfl

theorem State.startArd_thr (e : Reg32) : (s.startArd n t e).thr k = s.thr k := by
  unfold State.startArd
  dsimp only
  split
  · split
    · exact State.waitLb_thr ..
    · next h =>
      rw [State.startEnd_thr, (State.cntN_counted _ _ _ _).thr, State.updTrk_thr, (State.mpIssue_portOnly h).thr]
  · exact State.startEnd_thr ..

theorem State.aplDone_thr (ent : Word) (moved : Bool) : (s.aplDone n t ent moved).thr k = s.thr k := by
  unfold State.aplDone
  dsimp only
  rw [State.startArd_thr, State.updTrk_thr]

theorem State.bmFresh_thr (tag : Nat) (fresh : Bool) : (s.bmFresh tag fresh).thr k = s.thr k := by
  unfold State.bmFresh
  split <;> exact State.thr_of_cores rfl rfl k

theorem State.fill_thr (i : Nat) (p : BitVec 2) (e : MacEnt) : (s.fill i p e).thr k = s.thr k := by
  unfold State.fill
  dsimp only
  split
  · rfl
  · exact State.thr_setMac ..

theorem State.aplEnt_thr (ent : Word) (fresh : Bool) : (s.aplEnt n t ent fresh).thr k = s.thr k := by
  unfold State.aplEnt
  dsimp only
  split
  · exact State.aplFault_thr ..
  · split
    · split
      · rw [State.aplFault_thr, State.bmErrs_thr]
      · split
        · exact State.waitLb_thr ..
        · next h => rw [State.bmFresh_thr, State.bmIssue_thr h]
    · rw [State.aplDone_thr]
      split
      · exact State.fill_thr ..
      · rfl

theorem State.aplRead_thr : (s.aplRead n t).thr k = s.thr k := by
  unfold State.aplRead
  dsimp only
  split
  · rw [State.aplFault_thr, State.bmErrs_thr]
  · split
    · exact State.waitLb_thr ..
    · next h => exact State.bmIssue_thr h k

theorem State.fillFirst_thr : (s.fillFirst n t).thr k = s.thr k := by
  unfold State.fillFirst
  dsimp only
  split
  · exact State.modNd_threads rfl k
  · rfl

theorem State.giveLb_thr (i : Nat) : (s.modNd n fun x => x.giveLb t i).thr k = s.thr k :=
  State.modNd_thr (f := fun x => x.giveLb t i) (Node.giveLb_core _ t i) k

/-- The line-buffer assist of a request that needs an entry; none when no entry is free (R18, R260). -/
def State.lbAssist (need : Bool) : Option State :=
  if need then
    match (s.nd n).freeLb with
    | some i =>
      let u := s.modNd n fun x => x.giveLb t i
      some (if ((s.nd n).trkAt t).isWr then u.fillFirst n t else u)
    | none => none
  else some s

/-- The assists after that of the line buffer (R260). -/
def State.otherAssists (r : Trk) (e : Reg32) : State :=
  if bt e 22 then
    match s.plcHit n (plaExt r.pla) with
    | (some ent, s) => s.aplEnt n t ent false
    | (none, s) => (s.cntN n 0x011 1).aplRead n t
  else s.startArd n t e

theorem State.startReq_eq : s.startReq n t =
    let r := (s.nd n).trkAt t
    let e := (s.pickEntry (.node n) r.evtCode r.cls).word
    match s.lbAssist n t ((r.isWr || bt e 21) && !r.lbufV) with
    | none => s.waitEntry n t
    | some u => u.otherAssists n t r e := rfl

theorem State.lbAssist_thr {need : Bool} {u : State} (h : s.lbAssist n t need = some u) : u.thr k = s.thr k := by
  unfold State.lbAssist at h
  split at h
  · split at h
    · cases h
      split
      · rw [State.fillFirst_thr, State.giveLb_thr]
      · exact State.giveLb_thr ..
    · cases h
  · cases h; rfl

theorem State.otherAssists_thr (r : Trk) (e : Reg32) : (s.otherAssists n t r e).thr k = s.thr k := by
  unfold State.otherAssists
  split
  · split
    · next h => rw [State.aplEnt_thr, ← s.plcHit_thr k, h]
    · next h => rw [State.aplRead_thr, (State.cntN_counted _ _ _ _).thr, ← s.plcHit_thr k, h]
  · exact State.startArd_thr ..

theorem State.startReq_thr : (s.startReq n t).thr k = s.thr k := by
  rw [State.startReq_eq]
  dsimp only
  split
  · exact ((State.cntN_counted _ _ _ _).thr k).trans (s.waitLb_thr k n t)
  · next h => rw [State.otherAssists_thr, s.lbAssist_thr k n t h]

theorem State.seeWb_thr (pla : BitVec 40) : (s.seeWb n pla).thr k = s.thr k := by
  unfold State.seeWb
  split
  · exact State.updTrk_thr ..
  · rfl

end Start

theorem State.chainWb_thr (s : State) (k : Thr) (n : NodeId) (q : Snoop) : (s.chainWb n q).thr k = s.thr k := by
  unfold State.chainWb
  refine State.foldl_thr (fun u l => State.foldl_thr (fun v t => ?_) _ u) _ s
  dsimp only
  split
  · rw [State.startReq_thr, State.modNd_threads rfl, State.seeWb_thr]
  · rfl

/-- Sending snoops leaves every thread as it was. -/
theorem State.sendSnoops_thr (s : State) (k : Thr) (n : NodeId) (q : Snoop) (hosts : List Nat) :
    (s.sendSnoops n q hosts).thr k = s.thr k := by
  unfold State.sendSnoops
  rw [State.foldl_thr fun u h => (State.placeSnoop_thr _ k _).trans (State.chainWb_thr u k n _)]
  exact State.thr_of_cores rfl rfl k

end Sys2Proof.Machine
end

section
/-! SEND.SNP (R82, R146, R190, R245, R520): its checks, the hosts of each set, and what is counted. -/

namespace Sys2Proof.Machine

/-! ### The hosts of a set -/

section Hosts

variable {s : State} {n : NodeId} {v : Word} {self : Nat} {pla : BitVec 40} {set : Nat} {named : Bool} {hs : List Nat}

/-- The hosts of each set with whether a pointer names them (Table 7.14a). -/
def State.snoopSets (s : State) (n : NodeId) (v : Word) (self : Nat) (pla : BitVec 40) : List (Nat × Bool × List Nat) :=
  [(0, decide (entSel v ≤ 1), s.openHosts.filter fun h => entNames v h && !s.skips h (decide (entSel v ≤ 1)) pla && h != self),
   (1, decide (entSel v ≤ 1), s.openHosts.filter fun h => entNames v h && !s.skips h (decide (entSel v ≤ 1)) pla),
   (2, s.ptrNames n (plaSector pla) (bf v 9 0), s.openHosts.filter fun h =>
      h == bf v 9 0 && !s.skips h (s.ptrNames n (plaSector pla) (bf v 9 0)) pla),
   (3, false, s.attachedHosts.filter fun h => !s.skips h false pla)]

theorem State.snpHosts_of_mem (h : (set, named, hs) ∈ s.snoopSets n v self pla) : s.snpHosts n set v self pla = (hs, named) := by
  simp only [State.snoopSets, List.mem_cons, Prod.mk.injEq, List.not_mem_nil, or_false] at h
  obtain ⟨rfl, rfl, rfl⟩ | ⟨rfl, rfl, rfl⟩ | ⟨rfl, rfl, rfl⟩ | ⟨rfl, rfl, rfl⟩ := h
  · refine Prod.ext ?_ rfl
    change (s.holders v pla).filter _ = _
    rw [State.holders, List.filter_filter]
    simp only [Bool.and_comm]
  · rfl
  · rfl
  · rfl

end Hosts

/-! ### The checks -/

section Form

variable {w : Reg32} {o blk : Nat} {pla : BitVec 40}

/-- Opcode `o` with BLK `blk` at a line address `pla` is a form that Table 7.14a allows, aligned (R79). -/
def SnoopForm (o blk : Nat) (pla : BitVec 40) : Prop :=
  o ∉ [3, 7] ∧ if o < 3 then blk = 0 else blk = 1 ∧ pla.toNat % 2 = 0 ∨ blk = 2 ∧ pla.toNat % 4 = 0

/-- The lines of the sector that a snoop of form `blk` covers (R79). -/
def snoopLines (blk : Nat) (pla : BitVec 40) : BitVec 4 :=
  if blk = 0 then BitVec.ofNat 4 (2 ^ (pla.toNat % 4)) else if blk = 1 then BitVec.ofNat 4 (3 * 2 ^ (pla.toNat % 4)) else 15

theorem snpBad_form (h : SnoopForm (bf w 6 4) (snpBlk w) pla) : snpBad w = false := by
  obtain ⟨ho, hb⟩ := h
  simp only [List.mem_cons, List.not_mem_nil, or_false, not_or] at ho
  rw [snpBad, beq_eq_false_iff_ne.mpr ho.1, beq_eq_false_iff_ne.mpr ho.2]
  split at hb
  · next hlt => simp [hlt, hb]
  · next hlt => rcases hb with ⟨hb, -⟩ | ⟨hb, -⟩ <;> simp [hlt, hb]

theorem snpMisaligned_form (h : SnoopForm o blk pla) : snpMisaligned blk pla.toNat = false := by
  obtain ⟨-, hb⟩ := h
  split at hb
  · rw [hb]; rfl
  · rcases hb with ⟨rfl, ha⟩ | ⟨rfl, ha⟩ <;> simp [snpMisaligned, ha]

theorem snpLines_eq (blk : Nat) (pla : BitVec 40) : snpLines blk pla.toNat = snoopLines blk pla := by
  unfold snpLines snoopLines
  split
  · rfl
  · rfl
  · next h0 h1 => rw [if_neg h0, if_neg h1]

end Form

/-! ### The instruction -/

/-- The snoop that SEND.SNP of word `w` sends for tracker `k` of node `n`. -/
def sendSnpWord (w : Reg32) (n : NodeId) (k : Nat) (pla : BitVec 40) (named : Bool) : Snoop :=
  { op := snpOpc w, blk := BitVec.ofNat 2 (snpBlk w), host := 0, pla := pla, own := .flow n k, named := named,
    lines := snoopLines (snpBlk w) pla }

/-- The snoops of SEND.SNP are counted in SNP_OUT and in the counters (R245, Table 17.7). -/
def State.snpCounted (s : State) (n : NodeId) (k set c : Nat) : State :=
  let a := (s.modTrk n k fun r => r.setW3 10 0 (r.snpOut + c)).cntN n 0x00A c
  if set = 3 ∧ (s.nd n).cons = true then a.cntN n 0x018 1 else a

theorem State.snpCounted_thr (s : State) (n : NodeId) (k set c : Nat) (t : Thr) : (s.snpCounted n k set c).thr t = s.thr t := by
  unfold State.snpCounted
  dsimp only
  split
  · rw [(State.cntN_counted _ _ _ _).thr, (State.cntN_counted _ _ _ _).thr, State.modTrk_thr]
  · rw [(State.cntN_counted _ _ _ _).thr, State.modTrk_thr]

/-- SEND.SNP that passes its checks counts its snoops, sends them and writes their number to rd. -/
theorem execSendSnp_gives {s : State} {t : Thr} {w : Reg32} {n : NodeId} {k : Nat} {pla : BitVec 40} {named : Bool} {hs : List Nat}
    (ht : t.core = .node n) (hk : (s.thr t).trk = some k)
    (hpla : pla = BitVec.ofNat 40 (bf ((s.thr t).reg (bf w 20 16)) 39 0)) (hp : Passes s t ((s.thr t).pc + 1)) (hi : Issues s t .sendSnp w)
    (hsyn : smGet (fun _ => (0 : BitVec 8)) ((s.nd n).trkAt k).syn 3 = 0) (hform : SnoopForm (bf w 6 4) (snpBlk w) pla)
    (hset : (snpSet w, named, hs) ∈ s.snoopSets n ((s.thr t).reg (bf w 15 11)) ((s.nd n).trkAt k).host.toNat pla) :
    GivesOn (.sendSnp t w) s ((s.snpCounted n k (snpSet w) hs.length).sendSnoops n (sendSnpWord w n k pla named) hs) t (bf w 25 21)
      (BitVec.ofNat 64 hs.length) ((s.thr t).pc + 1) := by
  refine GivesOn.of_writes (exec_issueN rfl ht) rfl hi ?_ (by rw [State.sendSnoops_thr, State.snpCounted_thr]) hp
  have hcons (c : Nat) (f : Trk → Trk) : (((s.modTrk n k f).cntN n 0x00A c).nd n).cons = (s.nd n).cons := by
    rw [State.nd, (State.cntN_counted _ _ _ _).node]
    exact (congrArg Node.cons (State.nd_modNd_self s n fun x => x.setTrk k (f (x.trkAt k)))).trans rfl
  simp only [iRs1, iRs2, ← hpla, snpBad_form hform, snpMisaligned_form hform, needTrk_bound hk, hk, State.snpHosts_of_mem hset,
    State.updTrk_intact hsyn, hcons, snpLines_eq]
  rfl

/-- Settles O24: an allowed form counts the hosts of its set and snoops them, which leaves the thread to its issue. -/
theorem sendSnoops : Obligations.SendSnoops := by
  unfold Obligations.SendSnoops
  rintro s a b n t w x k o blk v pla hs named ht rfl hk rfl rfl rfl hpla hp hi hsyn ho hblk hset rfl rfl
  exact execSendSnp_gives ht hk hpla hp hi hsyn ⟨ho, hblk⟩ hset

end Sys2Proof.Machine
end

section
/-! SEND.RSP (R100, R115, R122, R125, R191, R246, R365): its checks, what it waits for, and the response it sends. -/

namespace Sys2Proof.Machine

/-! ### The word of Table 7.14b -/

/-- A field that is zero has no bit set. -/
theorem bt_of_bf_eq_zero {w : Nat} {v : BitVec w} {hi lo i : Nat} (h : bf v hi lo = 0) (hlo : lo ≤ i) (hhi : i ≤ hi) :
    bt v i = false := by
  have hb : (bf v hi lo).testBit (i - lo) = bt v i := by
    rw [bf, Nat.testBit_mod_two_pow, Nat.testBit_shiftRight, Nat.add_sub_cancel' hlo, decide_eq_true (by omega), Bool.true_and, bt]
  rw [← hb, h, Nat.zero_testBit]

section Word

variable {v : Word} (h63 : bf v 63 12 = 0)
include h63

theorem rspBad_data (ho : bf v 3 0 ≤ 1) (hg : bf v 9 8 ≠ 3) (hz : bf v 11 10 = 0) : rspBad v true = false := by
  have h10 := bt_of_bf_eq_zero hz (i := 10) (by decide) (by decide)
  have h11 := bt_of_bf_eq_zero hz (i := 11) (by decide) (by decide)
  simp [rspBad, h63, hg, h10, h11, Nat.not_lt.mpr ho]

theorem rspBad_noData (ho : bf v 3 0 ∈ [0, 1, 2, 4]) (hg : bf v 9 8 = 0) (hz : bf v 3 0 ≠ 0 → bf v 11 10 = 0) :
    rspBad v false = false := by
  have hcode : (decide (2 < bf v 3 0) && bf v 3 0 != 4) = false := by
    simp only [List.mem_cons, List.not_mem_nil, or_false] at ho
    rcases ho with ho | ho | ho | ho <;> rw [ho] <;> rfl
  have hbits : (bf v 3 0 != 0 && (bt v 10 || bt v 11)) = false := by
    rcases Decidable.em (bf v 3 0 = 0) with h0 | h0
    · rw [h0]; rfl
    · rw [bt_of_bf_eq_zero (hz h0) (i := 10) (by decide) (by decide), bt_of_bf_eq_zero (hz h0) (i := 11) (by decide) (by decide),
        Bool.or_self, Bool.and_false]
  simp [rspBad, h63, hg, hcode, hbits]

end Word

/-! ### The response -/

/-- The header of a Data response of flow `r`; EVACUATE grants nothing. -/
def State.rspDrs (s : State) (n : NodeId) (r : Trk) (v : Word) : BitVec 64 :=
  drsWord (bf v 3 0) r.host r.tag (s.devload n r.port r.cls) (if s.mode = .evacuate then 0 else bf v 9 8) (bf v 7 4)

/-- The No-data response of flow `r`; in EVACUATE a grant is a CMP. -/
def State.rspNdr (s : State) (n : NodeId) (r : Trk) (v : Word) : BitVec 64 :=
  ndrWord (if s.mode = .evacuate ∧ bf v 3 0 ≤ 2 then 0 else bf v 3 0) r.host r.tag (s.devload n r.port r.cls) (bf v 7 4) (bf v 10 10)

/-- The media port of WR_MTAG holds response `nd` of flow `r` for its acknowledgement (ONACK). -/
def State.rspOnAck (s : State) (r : Trk) (nd : BitVec 64) : State :=
  let m : MpId := Fin.ofNat 8 (bf r.w4 2 0)
  let i := bf r.w4 14 3
  match (s.mpAt m).mtag i with
  | some g => s.setMp m ((s.mpAt m).setTag i (some { g with onack := some (r.port, r.ledger, nd) }))
  | none => s

theorem State.rspOnAck_out {s : State} {r : Trk} {g : Mtag} (h : (s.mpAt (Fin.ofNat 8 (bf r.w4 2 0))).mtag (bf r.w4 14 3) = some g)
    (nd : BitVec 64) : s.rspOnAck r nd = s.setMp (Fin.ofNat 8 (bf r.w4 2 0)) ((s.mpAt (Fin.ofNat 8 (bf r.w4 2 0))).setTag (bf r.w4 14 3)
      (some { g with onack := some (r.port, r.ledger, nd) })) := by
  simp only [State.rspOnAck, h]

/-- The response of SEND.RSP for flow `r` with the data of an entry; `b` is what reading the entry gives. -/
def State.rspData (s : State) (n : NodeId) (r : Trk) (v : Word) (b : Lbe × State) : State :=
  if r.ledgered then b.2.answerDrs r.port r.ledger (s.rspDrs n r v) b.1.data b.1.poison else s

/-- The response of SEND.RSP for flow `r`, with no data. -/
def State.rspNoData (s : State) (n : NodeId) (r : Trk) (v : Word) : State :=
  if r.ledgered then (if bt v 11 then s.rspOnAck r (s.rspNdr n r v) else s.answerNdr r.port r.ledger (s.rspNdr n r v)) else s

/-- The flow has sent its response. -/
def State.rspSent (s : State) (n : NodeId) (k : Nat) : State := s.modTrk n k fun r => { r with rsp := true }

section Threads

variable (s : State) (t : Thr)

/-- An answer leaves every thread as it was, if what it puts does. -/
theorem State.answer_thr (p : HpId) (i : Nat) {f : State → State} (hf : ∀ u, (f u).thr t = u.thr t) :
    (s.answer p i f).thr t = s.thr t := by
  unfold State.answer
  split
  · rfl
  · split
    · rfl
    · dsimp only
      split
      · rw [hf, State.ledRead_thr]
      · rw [State.thr_setHp, State.ledRead_thr]
      · rw [State.putErr_thr, State.ledRead_thr]

theorem State.rspOnAck_thr (r : Trk) (nd : BitVec 64) : (s.rspOnAck r nd).thr t = s.thr t := by
  unfold State.rspOnAck
  dsimp only
  split
  · exact State.thr_setMp ..
  · rfl

theorem State.rspData_thr (n : NodeId) (r : Trk) (v : Word) (b : Lbe) : (s.rspData n r v (b, s)).thr t = s.thr t := by
  unfold State.rspData
  split
  · exact s.answer_thr t _ _ fun u => u.putDrs_thr t _ _ _ _ _
  · rfl

theorem State.rspNoData_thr (n : NodeId) (r : Trk) (v : Word) : (s.rspNoData n r v).thr t = s.thr t := by
  unfold State.rspNoData
  split
  · split
    · exact s.rspOnAck_thr t _ _
    · exact s.answer_thr t _ _ fun u => u.putNdr_thr t _ _ _
  · rfl

end Threads

/-! ### The instruction -/

/-- What SEND.RSP does once its checks have passed. -/
def State.rspEnd (s : State) (n : NodeId) (k : Nat) (v : Word) (data : Bool) (e : Nat) : Res :=
  let r := (s.nd n).trkAt k
  if data && s.heldByWb n k then .stall s (.again (.writeBack r.pla))
  else if s.withheld n.val then .stall s (.again .router)
  else .next (State.rspSent (if data then s.rspData n r v (s.lbGet n e) else s.rspNoData n r v) n k)

section Rsp

variable {s : State} {t : Thr} {w : Reg32} {n : NodeId} {k e : Nat} {v : Word} (ht : t.core = .node n)
  (hk : (s.thr t).trk = some k) (hv : v = (s.thr t).reg (bf w 20 16)) (he : e = bf ((s.thr t).reg (bf w 15 11)) 8 0)
include hk

/-- A flow with no response yet, which owns the entry it names and has a write out for ONACK, raises no STATE trap. -/
theorem State.rspState_none {data : Bool} (hown : data = true → ((s.nd n).lbAt e).own = some k)
    (hr : ((s.nd n).trkAt k).rsp = false) (hack : bt v 11 = true → ((s.nd n).trkAt k).wrOut = true) :
    s.rspState n (s.thr t) v data e = none := by
  have ho : (data && ((s.nd n).lbAt e).own != some k) = false := by
    cases data with
    | false => rfl
    | true => rw [hown rfl]; simp
  have ha : (bt v 11 && !((s.nd n).trkAt k).wrOut) = false := and_not_eq_false hack
  simp [State.rspState, hk, ho, hr, ha]

/-- A second response (Table 7.8a). -/
theorem State.rspState_again (hr : ((s.nd n).trkAt k).rsp = true) : s.rspState n (s.thr t) v false e = some 4 := by
  simp [State.rspState, hk, hr]

/-- ONACK with no write out (Table 7.8a). -/
theorem State.rspState_noWrite (hr : ((s.nd n).trkAt k).rsp = false) (h11 : bt v 11 = true) (hw : ((s.nd n).trkAt k).wrOut = false) :
    s.rspState n (s.thr t) v false e = some 9 := by
  simp [State.rspState, hk, hr, h11, hw]

include ht hv he

/-- SEND.RSP makes its checks and then responds. -/
theorem exec_sendRsp : ∃ f, exec (.sendRsp t w) s = .next (s.issue t .sendRsp w f) ∧
    f (s.thr t) s = checks w (rspBad v (bt w 4)) false none none (s.rspState n (s.thr t) v (bt w 4) e) (s.rspEnd n k v (bt w 4) e) := by
  refine ⟨_, exec_issueN rfl ht, ?_⟩
  simp only [iRs1, iRs2, ← hv, ← he, hk]
  refine congrArg (checks w _ false none none _) ?_
  unfold State.rspEnd
  dsimp only
  split
  · rfl
  split
  · rfl
  simp only [State.rspData, State.rspNoData]
  cases ((s.nd n).trkAt k).ledgered with
  | false => cases bt w 4 <;> rfl
  | true =>
    cases bt w 4 with
    | true => rfl
    | false => cases bt v 11 <;> rfl

/-- SEND.RSP that passes its checks. -/
theorem exec_sendRsp_checked (hbad : rspBad v (bt w 4) = false) (hown : bt w 4 = true → ((s.nd n).lbAt e).own = some k)
    (hr : ((s.nd n).trkAt k).rsp = false) (hack : bt v 11 = true → ((s.nd n).trkAt k).wrOut = true) :
    ∃ f, exec (.sendRsp t w) s = .next (s.issue t .sendRsp w f) ∧ f (s.thr t) s = s.rspEnd n k v (bt w 4) e := by
  obtain ⟨f, hc, hf⟩ := exec_sendRsp ht hk hv he
  refine ⟨f, hc, hf.trans ?_⟩
  rw [hbad, State.rspState_none hk hown hr hack]
  rfl

/-- SEND.RSP with data from an intact entry of the flow. -/
theorem execSendRsp_data (hp : Passes s t ((s.thr t).pc + 1)) (hi : Issues s t .sendRsp w) (hbad : rspBad v true = false)
    (h4 : bt w 4 = true) (h11 : bt v 11 = false) (hown : ((s.nd n).lbAt e).own = some k) (hpar : ((s.nd n).lbAt e).parBad = 0)
    (hr : ((s.nd n).trkAt k).rsp = false) (hwb : s.heldByWb n k = false) (hwh : s.withheld n.val = false) :
    GivesOn (.sendRsp t w) s ((s.rspData n ((s.nd n).trkAt k) v ((s.nd n).lbAt e, s)).rspSent n k) t 0 0 ((s.thr t).pc + 1) := by
  obtain ⟨f, hc, hf⟩ := exec_sendRsp_checked ht hk hv he (h4 ▸ hbad) (fun _ => hown) hr (by simp [h11])
  refine GivesOn.of_silent hc rfl hi (hf.trans ?_) hp (hp.of_thr ((State.modTrk_thr ..).trans (State.rspData_thr ..)))
  simp only [State.rspEnd, h4, hwb, hwh, State.lbGet_intact hpar, Bool.and_false, Bool.false_eq_true, if_false, if_true]

section NoData

variable (hi : Issues s t .sendRsp w) (hbad : rspBad v false = false) (h4 : bt w 4 = false) (hr : ((s.nd n).trkAt k).rsp = false)
  (hack : bt v 11 = true → ((s.nd n).trkAt k).wrOut = true)
include hi hbad h4 hr hack

theorem execSendRsp_noData (hp : Passes s t ((s.thr t).pc + 1)) (hwh : s.withheld n.val = false) :
    GivesOn (.sendRsp t w) s ((s.rspNoData n ((s.nd n).trkAt k) v).rspSent n k) t 0 0 ((s.thr t).pc + 1) := by
  obtain ⟨f, hc, hf⟩ := exec_sendRsp_checked ht hk hv he (h4 ▸ hbad) (by simp [h4]) hr hack
  refine GivesOn.of_silent hc rfl hi (hf.trans ?_) hp (hp.of_thr ((State.modTrk_thr ..).trans (State.rspNoData_thr ..)))
  simp only [State.rspEnd, h4, hwh, Bool.false_and, Bool.false_eq_true, if_false]

/-- While its router withholds, SEND.RSP issues again (R365). -/
theorem execSendRsp_waits (hwh : s.withheld n.val = true) : exec (.sendRsp t w) s =
    .next (s.modThr t fun x => { x with st := .stalled, pend := .again .router, via := none }).goOn := by
  obtain ⟨f, hc, hf⟩ := exec_sendRsp_checked ht hk hv he (h4 ▸ hbad) (by simp [h4]) hr hack
  refine State.issue_again hc rfl hi (hf.trans ?_)
  simp only [State.rspEnd, h4, hwh, Bool.false_and, Bool.false_eq_true, if_false, if_true]

end NoData

/-- SEND.RSP that a STATE trap meets takes it with its sub-code. -/
theorem execSendRsp_traps (hi : Issues s t .sendRsp w) (hm : MayTrap s t 11) (hbad : rspBad v false = false) (h4 : bt w 4 = false)
    {i : Nat} (hst : s.rspState n (s.thr t) v false e = some i) :
    ∃ u, exec (.sendRsp t w) s = .next u.goOn ∧ Traps s u t 11 (BitVec.ofNat 64 i) (s.thr t).pc := by
  obtain ⟨f, hc, hf⟩ := exec_sendRsp ht hk hv he
  refine State.issue_traps hc rfl hi (hf.trans ?_) hm
  rw [h4, hbad, hst]
  rfl

end Rsp

/-- Settles O27: an allowed response is sent once, with data or without, or waits for its router; a second one, or ONACK with no
write out, takes its STATE trap. -/
theorem sendResponses : Obligations.SendResponses := by
  unfold Obligations.SendResponses
  rintro s n t w x k v r sent ht rfl hk hv rfl hi h63 rfl
  refine ⟨fun hp hr hwh => ⟨?_, ?_⟩, fun hr hwh h4 ho hz => ?_, fun hm h4 ho hg => ⟨fun hr => ?_, fun hr h11 hwr => ?_⟩⟩
  · rintro e b h4 ho hg hz he rfl hown hpar hwb
    exact execSendRsp_data ht hk hv he hp hi (rspBad_data h63 ho hg hz) h4 (bt_of_bf_eq_zero hz (by decide) (by decide)) hown hpar hr
      hwb hwh
  · rintro nd h4 ho hg hz rfl
    have hsend := execSendRsp_noData ht hk hv rfl hi (rspBad_noData h63 ho hg hz) h4 hr
    refine ⟨fun h11 => ?_, ?_⟩
    · have h := hsend (by simp [h11]) hp hwh
      rwa [State.rspNoData, h11] at h
    · rintro m i g h11 hled hwr rfl rfl hg
      have h := hsend (fun _ => hwr) hp hwh
      rwa [State.rspNoData, if_pos hled, if_pos h11, State.rspOnAck_out hg] at h
  · have hz' : bf v 9 8 = 0 ∧ bf v 11 10 = 0 := by
      simp only [bf, Nat.shiftRight_eq_div_pow] at hz ⊢
      omega
    exact execSendRsp_waits ht hk hv rfl hi (rspBad_noData h63 ho hz'.1 fun _ => hz'.2) h4 hr
      (by simp [bt_of_bf_eq_zero hz'.2 (i := 11)]) hwh
  · exact execSendRsp_traps ht hk hv rfl hi hm (rspBad_noData h63 (by simp [ho]) hg fun h => absurd ho h) h4
      (State.rspState_again hk hr)
  · exact execSendRsp_traps ht hk hv rfl hi hm (rspBad_noData h63 (by simp [ho]) hg fun h => absurd ho h) h4
      (State.rspState_noWrite hk hr h11 hwr)

end Sys2Proof.Machine
end

section
/-! Mode requests and the FLUSH mode (R57, R178, R392 to R394, R429 to R431, R449, R463). -/

namespace Sys2Proof.Machine

/-! ### Mode requests -/

theorem State.setMode_same {s : State} {m : Mode} (h : s.mode = m) : s.setMode m = s := if_pos h

/-- Table 13.1's row of STANDBY. -/
theorem State.modeReq_standby (s : State) : s.modeReq 4 =
    if s.mode ∈ [.service, .degraded, .evacuate] ∨ (s.mode = .boot ∧ s.handedOver = true) then s.enterStandby
    else s.raise HA_MODE 11 := by
  unfold State.modeReq
  cases s.mode <;> simp

/-- Table 13.1's row of SERVICE. -/
theorem State.modeReq_service (s : State) : s.modeReq 5 =
    if s.mode ∈ [.standby, .evacuate] then s.enterService else s.raise HA_MODE 11 := by
  unfold State.modeReq
  cases s.mode <;> simp

/-- Table 13.1's row of EVACUATE. -/
theorem State.modeReq_evacuate (s : State) : s.modeReq 8 =
    if s.mode ∈ [.standby, .service, .degraded] then s.setMode .evacuate else s.raise HA_MODE 11 := by
  unfold State.modeReq
  cases s.mode <;> simp

/-- Table 13.1's row of SELFTEST. -/
theorem State.modeReq_selftest (s : State) : s.modeReq 10 = if s.mode = .evacuate then s.reqSelftest else s.raise HA_MODE 11 := by
  unfold State.modeReq
  cases s.mode <;> simp

/-- Only the first entry to SERVICE or DEGRADED after cold reset checks conservative tracking (R178). -/
theorem State.enterService_eq (s : State) : s.enterService =
    if s.bit HA_MODE 16 then s.setMode (if s.dgAny then .degraded else .service)
    else (s.setMode (if s.dgAny then .degraded else .service)).consCheck := by
  rw [State.enterService]
  cases s.bit HA_MODE 16 <;> rfl

theorem State.stEnter_mode (s : State) : s.stEnter.mode = .selftest := State.setMode_mode _ _

/-- A mode command that may access HA_MODE_REQ is a request for its target. -/
theorem exec_modeRequest {s : State} {src : Src} (h : s.MayAccess src HA_MODE_REQ true) {c : Instr} {k : Nat}
    (hc : (c, k) ∈ [(Instr.modeStandby src, 4), (.modeService src, 5), (.modeEvacuate src, 8), (.modeSelftest src, 10)]) :
    exec c s = .next (((s.modeReq k).noted src HA_MODE_REQ true 0).goOn) := by
  have hreq (k : Nat) := State.regDo_of h fun s => s.modeReq k
  simp only [List.mem_cons, Prod.mk.injEq, List.not_mem_nil, or_false] at hc
  obtain ⟨rfl, rfl⟩ | ⟨rfl, rfl⟩ | ⟨rfl, rfl⟩ | ⟨rfl, rfl⟩ := hc <;>
    exact congrArg (fun u : State => Host.Outcome.next u.goOn) (hreq _)

/-! ### Power failure -/

section Fail

variable {s : State}

theorem Mode.flushes_iff {m : Mode} :
    m.flushes = true ↔ m ∈ [.standby, .service, .degraded, .hold, .evacuate, .selftest, .safe] := by
  cases m <;> simp [Mode.flushes]

/-- A power failure that the input filter passes is latched, and starts FLUSH in the modes of R429. -/
theorem execPowerFail_passed (hoff : s.mode ≠ .off) (ht : 4 ≤ s.tmo) :
    exec .powerFail s = .next (if s.mode.flushes then { s with pwrFail := true }.flushEnter.goOn else { s with pwrFail := true }) :=
  congrArg Host.Outcome.next (if_neg fun h => h.elim hoff (Nat.not_lt.mpr ht))

theorem execPowerFail_flushes (h : s.mode ∈ [.standby, .service, .degraded, .hold, .evacuate, .selftest, .safe]) (ht : 4 ≤ s.tmo) :
    exec .powerFail s = .next ({ s with pwrFail := true }.flushEnter.goOn) := by
  rw [execPowerFail_passed (fun hoff => by simp [hoff] at h) ht, if_pos (Mode.flushes_iff.mpr h)]

theorem execPowerFail_latched (h : s.mode ∈ [.strap, .fill, .boot, .flush]) (ht : 4 ≤ s.tmo) :
    exec .powerFail s = .next { s with pwrFail := true } := by
  simp only [List.mem_cons, List.not_mem_nil, or_false] at h
  rw [execPowerFail_passed (fun hoff => by simp [hoff] at h) ht, if_neg]
  rw [Mode.flushes_iff]
  rcases h with h | h | h | h <;> simp [h]

theorem execPowerFail_filtered (h : s.mode = .off ∨ s.tmo < 4) : exec .powerFail s = .next s := congrArg Host.Outcome.next (if_pos h)

end Fail

/-! ### The phases of FLUSH -/

section Phases

variable {s : State}

theorem State.noneLive_iff : s.noneLive = true ↔ ∀ p, (s.hpAt p).ledger = [] := by simp [State.noneLive, allHp]

theorem execDrainEnd_over (hm : s.mode = .flush) (hph : s.fld HA_FLUSH_STAT 1 0 = 1) (h : ∀ p, (s.hpAt p).ledger = []) :
    exec .drainEnd s = .next s.syncStart := congrArg Host.Outcome.next (if_pos ⟨hm, hph, State.noneLive_iff.mpr h⟩)

theorem execDrainEnd_waits (h : ∃ p, (s.hpAt p).ledger ≠ []) : exec .drainEnd s = .next s := by
  obtain ⟨p, hp⟩ := h
  exact congrArg Host.Outcome.next (if_neg fun hc => hp (State.noneLive_iff.mp hc.2.2 p))

/-- What is not handed off when DRAIN is cut is never written (R431). -/
theorem execDrainLimit_late (hm : s.mode = .flush) (hph : s.fld HA_FLUSH_STAT 1 0 = 1)
    (ht : s.past s.flushAt (s.fld HA_FLUSH_CTRL 15 0) = true) (hl : s.noneLive = false) : exec .drainLimit s =
      .next (((s.setFld HA_FLUSH_STAT 2 2 1).stopEngines).setFld HA_FLUSH_STAT 27 12 s.leftN).cutWrites.syncStart :=
  congrArg Host.Outcome.next ((if_pos ⟨hm, hph, ht⟩).trans (if_neg (by rw [hl]; exact Bool.false_ne_true)))

/-- In phase 2 the SYNCs that wait for a tag are sent, and the phase ends when every attached port has confirmed. -/
theorem execSyncEnd_sync (hm : s.mode = .flush) (hph : s.fld HA_FLUSH_STAT 1 0 = 2) :
    exec .syncEnd s = .next (if s.modeSync.syncAll then s.modeSync.flushDone false else s.modeSync) :=
  congrArg Host.Outcome.next (if_pos ⟨hm, hph⟩)

theorem execSyncLimit_late (hm : s.mode = .flush) (hph : s.fld HA_FLUSH_STAT 1 0 = 2)
    (ht : s.past s.flushAt (s.fld HA_FLUSH_CTRL 31 16) = true) : exec .syncLimit s = .next (s.flushDone !s.syncAll) :=
  congrArg Host.Outcome.next (if_pos ⟨hm, hph, ht⟩)

/-- Out of FLUSH its phases do not end. -/
theorem exec_flushPhase_other (hm : s.mode ≠ .flush) :
    ∀ c ∈ [Instr.drainEnd, .drainLimit, .syncEnd, .syncLimit], exec c s = .next s := by
  have hsame (c : Prop) [Decidable c] (u : State) : (if s.mode = .flush ∧ c then u else s) = s := if_neg fun h => hm h.1
  simp only [List.forall_mem_cons]
  exact ⟨congrArg Host.Outcome.next (hsame _ _), congrArg Host.Outcome.next (hsame _ _), congrArg Host.Outcome.next (hsame _ _),
    congrArg Host.Outcome.next (hsame _ _), List.forall_mem_nil _⟩

end Phases

/-- Settles O47: each request is a row of Table 13.1, and each command of FLUSH a phase of Table 14.4. -/
theorem modesAndFlush : Obligations.ModesAndFlush := by
  unfold Obligations.ModesAndFlush
  intro s src
  refine ⟨fun h c k => exec_modeRequest h, fun m => ⟨State.setMode_mode s m, State.setMode_same⟩, fun h => ?_, fun h u hu => ?_,
    fun h => ?_, fun h => ⟨fun hr => ⟨?_, s.stEnter_mode⟩, fun hr => ?_⟩, fun h hb => ?_, fun h => ?_, fun h => ?_, fun h => ?_,
    execPowerFail_flushes, execPowerFail_latched, execPowerFail_filtered,
    fun hm hph => ⟨execDrainEnd_over hm hph, fun p h => execDrainEnd_waits ⟨p, h⟩, execDrainLimit_late hm hph⟩,
    fun hm hph => ⟨fun h => ?_, fun h => ?_, execSyncLimit_late hm hph⟩, exec_flushPhase_other, fun cut u hu => hu ▸ rfl⟩
  · rw [State.modeReq_standby]
    exact if_pos h
  · rw [State.modeReq_service, if_pos h, State.enterService_eq, hu]
  · rw [State.modeReq_evacuate, if_pos h]
  · rw [State.modeReq_selftest, if_pos h]
    exact if_pos hr
  · rw [State.modeReq_selftest, if_pos h]
    exact if_neg hr
  · rw [State.modeReq_standby]
    exact if_neg fun hc => hc.elim h hb
  · rw [State.modeReq_service, if_neg h]
  · rw [State.modeReq_evacuate, if_neg h]
  · rw [State.modeReq_selftest, if_neg h]
  · rw [execSyncEnd_sync hm hph, if_pos h]
  · rw [execSyncEnd_sync hm hph, if_neg (by rw [h]; exact Bool.false_ne_true)]

end Sys2Proof.Machine
end

section
/-! A sector's place in its home bank, and the sector that a bank entry names (R137 to R140). -/

namespace Sys2Proof.Machine

/-! ### Home slots (R23) -/

theorem homeSlot_lt (x : Nat) : homeSlot x < 128 := by
  have h7 (a : Nat) : a % 128 < 2 ^ 7 := Nat.mod_lt _ (by decide)
  have h3 : x >>> 35 % 8 < 2 ^ 7 := lt_trans (Nat.mod_lt _ (by decide)) (by decide)
  exact Nat.xor_lt_two_pow (Nat.xor_lt_two_pow (Nat.xor_lt_two_pow (Nat.xor_lt_two_pow (Nat.xor_lt_two_pow (h7 _) (h7 _)) (h7 _)) (h7 _)) (h7 _)) h3

/-- The seven low bits of a sector enter its home slot by exclusive or with what the upper bits give. -/
theorem homeSlot_add {up lo : Nat} (hup : up % 128 = 0) (hlo : lo < 128) : homeSlot (up + lo) = lo ^^^ homeSlot up := by
  have hshift : (up + lo) >>> 7 = up >>> 7 := by
    rw [Nat.shiftRight_eq_div_pow, Nat.shiftRight_eq_div_pow]
    omega
  have hmore (j : Nat) : (up + lo) >>> (7 + j) = up >>> (7 + j) := by rw [Nat.shiftRight_add, hshift, Nat.shiftRight_add]
  have hlow : (up + lo) % 128 = lo := by omega
  rw [homeSlot, homeSlot, hlow, hup, hshift, hmore 7, hmore 14, hmore 21, hmore 28, Nat.zero_xor]
  simp only [Nat.xor_assoc]

/-- R139: the sector with these upper bits and this home slot. -/
theorem homeSlot_lowFromSlot {up h : Nat} (hup : up % 128 = 0) (hh : h < 128) : homeSlot (lowFromSlot up h) = h := by
  rw [lowFromSlot, homeSlot_add hup (Nat.xor_lt_two_pow (n := 7) hh (homeSlot_lt up)), Nat.xor_assoc, Nat.xor_self, Nat.xor_zero]

theorem lowFromSlot_homeSlot {up lo : Nat} (hup : up % 128 = 0) (hlo : lo < 128) : lowFromSlot up (homeSlot (up + lo)) = up + lo := by
  rw [lowFromSlot, homeSlot_add hup hlo, Nat.xor_assoc, Nat.xor_self, Nat.xor_zero]

theorem lowFromSlot_bounds {up h : Nat} (hh : h < 128) : up ≤ lowFromSlot up h ∧ lowFromSlot up h < up + 128 := by
  have := Nat.xor_lt_two_pow (n := 7) hh (homeSlot_lt up)
  rw [lowFromSlot]
  omega

/-! ### Slots and groups of a node (R137) -/

theorem State.mem_slotsOf {s : State} {n : NodeId} {h : Nat} : h ∈ s.slotsOf n ↔ h < 128 ∧ s.slotNode h = n := by
  simp [State.slotsOf]

theorem State.slotsOf_nodup (s : State) (n : NodeId) : (s.slotsOf n).Nodup := List.nodup_range.filter _

/-- The groups of a node divide its 16 ways, and the slots with ways fill four positions of each. -/
theorem groupCount_cases (k : Nat) : (k ≤ 4 ∧ groupCount k = 1) ∨ (k ≤ 8 ∧ groupCount k = 2) ∨ (k ≤ 16 ∧ groupCount k = 4) ∨
    (k ≤ 32 ∧ groupCount k = 8) ∨ groupCount k = 16 := by
  unfold groupCount
  split_ifs <;> simp [*]

/-- The ways of the group of a slot position lie in the bank, and they tell the group. -/
theorem group_of_way {k p i : Nat} (hp : p < k) (h64 : p < 64) (hi : i < 16 / groupCount k) :
    p / 4 * (16 / groupCount k) + i < 16 ∧ (p / 4 * (16 / groupCount k) + i) / (16 / groupCount k) = p / 4 := by
  obtain ⟨h, e⟩ | ⟨h, e⟩ | ⟨h, e⟩ | ⟨h, e⟩ | e := groupCount_cases k <;> rw [e] at hi ⊢ <;> omega

/-- A way lies in the group that it tells, of which there are at most 16. -/
theorem way_of_group {w : Nat} (k : Nat) (hw : w < 16) : w / (16 / groupCount k) < 16 ∧ w % (16 / groupCount k) < 16 / groupCount k ∧
    w / (16 / groupCount k) * (16 / groupCount k) + w % (16 / groupCount k) = w := by
  obtain ⟨_, e⟩ | ⟨_, e⟩ | ⟨_, e⟩ | ⟨_, e⟩ | e := groupCount_cases k <;> rw [e] <;> omega

/-! ### The two maps (R138, R139) -/

section Bank

variable {s : State} {n : NodeId} {x : Nat} {p : BankPos}

/-- Where a sector has a place: its slot's position, and what R138 gives from it. -/
theorem State.bankPos_some : s.bankPos n x = some p ↔
    ((s.slotsOf n).idxOf (homeSlot x) < (s.slotsOf n).length ∧ (s.slotsOf n).idxOf (homeSlot x) < 64) ∧
    p = { set := ((s.slotsOf n).idxOf (homeSlot x) % 4) * 2048 + (x >>> 7) % 2048
          ways := (List.range (16 / groupCount (s.slotsOf n).length)).map fun i =>
            ((s.slotsOf n).idxOf (homeSlot x) / 4) * (16 / groupCount (s.slotsOf n).length) + i
          tag := (x >>> 18) % 2 ^ 20 } := by
  unfold State.bankPos
  simp only []
  split
  · next h => simp only [reduceCtorEq, false_iff]; rintro ⟨⟨h1, h2⟩, -⟩; omega
  · next h =>
    rw [Option.some.injEq, eq_comm]
    exact ⟨fun hp => ⟨by omega, hp⟩, fun hp => hp.2⟩

theorem State.bankPos_none (h : (s.slotsOf n).length ≤ (s.slotsOf n).idxOf (homeSlot x) ∨ 64 ≤ (s.slotsOf n).idxOf (homeSlot x)) :
    s.bankPos n x = none := if_pos h

/-- R139 undoes R138. -/
theorem State.sectorOf_bankPos {w : Nat} (hx : x < 2 ^ 38) (h : s.bankPos n x = some p) (hw : w ∈ p.ways) :
    p.set < 8192 ∧ w < 16 ∧ p.tag = x / 2 ^ 18 ∧ s.sectorOf n p.set w p.tag = x := by
  obtain ⟨⟨hlen, h64⟩, rfl⟩ := State.bankPos_some.mp h
  obtain ⟨i, hi, rfl⟩ := List.mem_map.mp hw
  obtain ⟨hlt, hgrp⟩ := group_of_way hlen h64 (List.mem_range.mp hi)
  have hslot : (s.slotsOf n).getD ((s.slotsOf n).idxOf (homeSlot x)) 0 = homeSlot x := by
    rw [List.getD_eq_getElem _ _ hlen, List.getElem_idxOf]
  generalize (s.slotsOf n).idxOf (homeSlot x) = q at hslot hgrp hlt ⊢
  have h18 : (x >>> 18) % 2 ^ 20 = x / 2 ^ 18 := by rw [Nat.shiftRight_eq_div_pow]; omega
  have h7 : (x >>> 7) % 2048 = x / 128 % 2048 := by rw [Nat.shiftRight_eq_div_pow]
  refine ⟨?_, hlt, h18, ?_⟩
  · show q % 4 * 2048 + _ < 8192
    omega
  · have hpos : 4 * (q / 4) + (q % 4 * 2048 + x / 128 % 2048) / 2048 = q := by omega
    have hup : x / 2 ^ 18 * 2 ^ 18 + (q % 4 * 2048 + x / 128 % 2048) % 2048 * 2 ^ 7 = x / 128 * 128 := by omega
    simp only [State.sectorOf, h18, h7, hgrp, hpos, hslot, hup]
    have hlow := lowFromSlot_homeSlot (up := x / 128 * 128) (Nat.mul_mod_left _ _) (Nat.mod_lt x (by decide : 128 > 0))
    rwa [Nat.div_add_mod'] at hlow

/-- R138 undoes R139, where the position `q` that set and way tell holds a slot. -/
theorem State.bankPos_sectorOf {set w tag q : Nat} (hset : set < 8192) (hw : w < 16) (htag : tag < 2 ^ 20)
    (hq : 4 * (w / (16 / groupCount (s.slotsOf n).length)) + set / 2048 = q) (hlen : q < (s.slotsOf n).length) :
    s.sectorOf n set w tag < 2 ^ 38 ∧ s.slotNode (homeSlot (s.sectorOf n set w tag)) = n ∧
    ∃ p, s.bankPos n (s.sectorOf n set w tag) = some p ∧ p.set = set ∧ w ∈ p.ways ∧ p.tag = tag := by
  obtain ⟨hgrp, hmod, hway⟩ := way_of_group (s.slotsOf n).length hw
  obtain ⟨hh, hnode⟩ := State.mem_slotsOf.mp (List.getElem_mem hlen)
  have hx : s.sectorOf n set w tag = lowFromSlot (tag * 2 ^ 18 + set % 2048 * 2 ^ 7) (s.slotsOf n)[q] := by
    rw [← List.getD_eq_getElem _ 0 hlen, ← hq]
    rfl
  have hslot : homeSlot (s.sectorOf n set w tag) = (s.slotsOf n)[q] := by
    rw [hx]
    exact homeSlot_lowFromSlot (by omega) hh
  have hidx : (s.slotsOf n).idxOf (homeSlot (s.sectorOf n set w tag)) = q := by
    rw [hslot]
    exact (s.slotsOf_nodup n).idxOf_getElem _ hlen
  obtain ⟨hlo, hhi⟩ := lowFromSlot_bounds (up := tag * 2 ^ 18 + set % 2048 * 2 ^ 7) hh
  rw [← hx] at hlo hhi
  refine ⟨by omega, by rw [hslot, hnode], _, State.bankPos_some.mpr ⟨by rw [hidx]; omega, rfl⟩, ?_, ?_, ?_⟩ <;> simp only [hidx]
  · rw [Nat.shiftRight_eq_div_pow]
    omega
  · refine List.mem_map.mpr ⟨w % (16 / groupCount (s.slotsOf n).length), List.mem_range.mpr hmod, ?_⟩
    rw [show q / 4 = w / (16 / groupCount (s.slotsOf n).length) by omega]
    exact hway
  · rw [Nat.shiftRight_eq_div_pow]
    omega

end Bank

/-- Settles O58: the two maps are inverse, and a slot that the node does not hold has no position. -/
theorem bankEntryNamesOneSector : Obligations.BankEntryNamesOneSector := by
  unfold Obligations.BankEntryNamesOneSector
  intro s n
  refine ⟨fun x p w hx hp hw => State.sectorOf_bankPos hx hp hw, fun set w tag hset hw htag hpos => State.bankPos_sectorOf hset hw htag rfl hpos,
    fun x hne => State.bankPos_none (.inl ?_), fun x h => State.bankPos_none (.inr h)⟩
  exact (List.idxOf_eq_length fun hm => hne (State.mem_slotsOf.mp hm).2).ge

end Sys2Proof.Machine
end

section
/-! A settled block, in which nothing that waits goes on (R155, R193, R199, R261, R332, R418). -/

namespace Sys2Proof.Machine

/-! ### What a settled state holds -/

/-- A property of every listed value and of the unlisted one holds of what a map reads as. -/
theorem smGet_of_forall {α : Type} {P : α → Prop} {d : Nat → α} {m : SMap α} (hd : ∀ k, P (d k)) (hm : ∀ e ∈ m, P e.2) (k : Nat) :
    P (smGet d m k) := by
  obtain h | h := smGet_mem d m k
  · exact h ▸ hd k
  · exact hm _ h

theorem State.setHp_hpAt {s : State} (h : s.Canon) (p : HpId) : s.setHp p (s.hpAt p) = s := by
  rw [State.setHp, State.hpAt, smSet_smGet _ _ _ h.hp]

theorem State.setNd_nd {s : State} (h : s.Canon) (n : NodeId) : s.setNd n (s.nd n) = s := by
  rw [State.setNd, State.nd, smSet_smGet _ _ _ h.node]

section Settled

variable {s : State} (h : s.Settled)
include h

theorem State.Settled.slotAt {p : HpId} {i : Nat} {sl : Slot} (hs : (s.hpAt p).slotAt i = some sl) : sl.st ≠ .gone :=
  smGet_of_forall (P := fun o => ∀ sl, o = some sl → sl.st ≠ .gone) (fun _ _ hn => by cases hn) (h.snoops p).2 i sl hs

theorem State.Settled.trkAt (n : NodeId) (t : Nat) : ((s.nd n).trkAt t).waiting = false ∧ ((s.nd n).trkAt t).replay = false :=
  smGet_of_forall (P := fun r : Trk => r.waiting = false ∧ r.replay = false) (fun _ => ⟨rfl, rfl⟩) (h.flows n).2 t

theorem State.Settled.ses (k : Nat) : (s.ses k).st = .closed ∨ (s.ses k).st = .opn := by
  obtain hk | hk := smGet_mem (fun _ => ({} : Session)) s.sess k
  · exact .inl (congrArg Session.st hk)
  · exact h.sessions _ hk

/-! ### Each part of the block -/

theorem State.Settled.attAll : s.attAll = s := by
  have hpoll (q : AttPort) : s.attPoll q = s := by
    unfold State.attPoll
    split
    · next o ho => exact absurd ho (h.attach q o)
    · rfl
  rw [State.attAll, List.foldl_fixed' fun p => hpoll (.hp p), List.foldl_fixed' fun m => hpoll (.mp m)]

theorem State.Settled.holdPoll : s.holdPoll = s := if_neg fun hc => h.mode hc.1

theorem State.Settled.replayGo : s.replayGo = s := by
  unfold State.replayGo
  split
  · rfl
  · refine List.foldl_fixed' (fun e => ?_) _
    refine List.foldl_fixed' (fun r => if_neg fun hc => ?_) _
    rw [(h.trkAt _ r.1).2] at hc
    exact Bool.false_ne_true hc.1

theorem State.Settled.waitedSnoops (p : HpId) : s.waitedSnoops p = s := by
  have hw := (h.snoops p).1
  have hx : ({ s.hpAt p with waitSnp := [] } : HpShell) = s.hpAt p := by rw [← hw]
  simp only [State.waitedSnoops, hw, List.foldl_nil, hx]
  exact State.setHp_hpAt h.canon p

theorem State.Settled.goneSlots (p : HpId) : s.goneSlots p = s := by
  unfold State.goneSlots
  rw [if_neg]
  · refine List.foldl_fixed' (fun i => ?_) _
    split
    · next sl hs => exact if_neg fun hc => h.slotAt hs hc.1
    · rfl
  · rw [Bool.not_eq_true, List.any_eq_false]
    intro e he
    split
    · next sl hs => simpa using (h.snoops p).2 e he sl hs
    · exact Bool.false_ne_true

theorem State.Settled.wakeAll (n : NodeId) : s.wakeAll n = s := by
  refine List.foldl_fixed' (fun t => if_neg ?_) _
  simp [(h.trkAt n t).1]

theorem State.Settled.readyAll (n : NodeId) : s.readyAll (.node n) = s := by
  have hcore : s.setCore (.node n) (s.core (.node n)) = s := State.setNd_nd h.canon n
  unfold State.readyAll
  dsimp only
  rw [List.map_congr_left (g := id), List.map_id]
  · exact hcore
  · intro e he
    split
    · next w _ hp => exact absurd hp (h.threads n e he w)
    · rfl

theorem State.Settled.settle (n : NodeId) : s.settle n = s := by
  rw [State.settle, (h.flows n).1, if_pos rfl, h.wakeAll, h.readyAll]

theorem State.Settled.settleAll : s.settleAll = s := by
  have hport (p : HpId) : (if (s.hpAt p).slots = [] ∧ (s.hpAt p).waitSnp = [] then s else (s.waitedSnoops p).goneSlots p) = s := by
    rw [h.waitedSnoops, h.goneSlots, ite_self]
  rw [State.settleAll, List.foldl_fixed' hport allHp]
  refine List.foldl_fixed' (fun i => ?_) _
  exact h.settle _

theorem State.Settled.injectAll : s.injectAll = s := by
  refine List.foldl_fixed' (fun p => ?_) _
  rw [HpShell.order, List.filterMap_eq_nil_iff.mpr]
  · rfl
  · intro e he
    split
    · next l hl => exact if_neg (by simpa using (h.requests p).2.2 e he l hl)
    · rfl

theorem State.Settled.flushAll : s.flushAll = s := List.foldl_fixed' (fun p => if_pos (h.requests p).2.1) _

theorem State.Settled.chvPoll : s.chvPoll = s := by
  have hs : ({ s with chvTodo := [] } : State) = s := by rw [← h.served]
  rw [State.chvPoll, h.served, hs, List.foldl_nil, ite_self]

theorem State.Settled.sessPoll (k : Nat) : s.sessPoll k = s := by
  refine if_pos ?_
  obtain hk | hk := h.ses k <;> simp [hk]

theorem State.Settled.detachPoll (p : HpId) : s.detachPoll p = s := by
  unfold State.detachPoll
  split
  · next v c hp => exact absurd hp (h.ports p v c)
  · rfl

theorem State.Settled.sessAll : s.sessAll = s := by
  rw [State.sessAll, h.chvPoll, List.foldl_fixed' fun e : Nat × Session => h.sessPoll e.1, List.foldl_fixed' h.detachPoll]

theorem State.Settled.dmaAll : s.dmaAll = s := by
  have hnak (c : ChanId) : (if (s.ch c).nak = [] then s else s.workAgain c) = s := if_pos (h.channels c).2
  have hwants : (allCh.any fun c => (s.ch c).wants) = false := List.any_eq_false.mpr fun c _ => by simp [(h.channels c).1]
  rw [State.dmaAll, if_pos h.reports, List.foldl_fixed' hnak, hwants, if_neg Bool.false_ne_true]

end Settled

/-- Settles O4, part by part. -/
theorem nothingWaits : Obligations.NothingWaits := by
  unfold Obligations.NothingWaits
  intro s h
  have hheld (p : HpId) : (if (s.hpAt p).retry = [] then s else s.freeHeld p) = s := if_pos (h.requests p).1
  rw [State.goOn, h.attAll, h.holdPoll, h.replayGo, h.settleAll, List.foldl_fixed' hheld, h.injectAll, h.flushAll, h.sessAll, h.dmaAll]

end Sys2Proof.Machine
end

section
/-! Overflow control, the rebuild of a region map, the end of conservative tracking, the scrubbers, translation commands and DMA
channels (R159, R169, R173, R178, R319, R321, R328, R332, R333, R439 to R441). -/

namespace Sys2Proof.Machine

/-! ### The overflow directory (R159) -/

section Overflow

variable {s : State} {src : Src} {w : BitVec 32}

theorem execOvfCtrlWrite_of (h : s.MayAccess src HA_OVF_CTRL true) :
    exec (.ovfCtrlWrite src w) s = .next ((s.ovfCtrl src w).noted src HA_OVF_CTRL true 0) :=
  congrArg Host.Outcome.next (State.regDo_of h fun s => s.ovfCtrl src w)

variable (h22 : 22 ≤ bf w 5 1) (h28 : bf w 5 1 ≤ 28)
include h22 h28

/-- While the directory is off, its size is written and EN 1 enables it where it fits. -/
theorem State.ovfCtrl_off (hen : s.bit HA_OVF_CTRL 0 = false) : s.ovfCtrl src w =
    if bt w 0 then
      if (s.setFld HA_OVF_CTRL 5 1 (bf w 5 1)).ovfOk (bf w 5 1) then (s.setFld HA_OVF_CTRL 5 1 (bf w 5 1)).setFld HA_OVF_CTRL 0 0 1
      else (s.setFld HA_OVF_CTRL 5 1 (bf w 5 1)).accErr 2 HA_OVF_CTRL true (srcPriv src)
    else s.setFld HA_OVF_CTRL 5 1 (bf w 5 1) := by
  simp [State.ovfCtrl, hen, Nat.not_lt.mpr h22, Nat.not_lt.mpr h28]

/-- While it is on, its size stays, and EN 0 disables it when it is empty. -/
theorem State.ovfCtrl_on (hen : s.bit HA_OVF_CTRL 0 = true) (hm : bf w 5 1 = s.fld HA_OVF_CTRL 5 1) : s.ovfCtrl src w =
    if bt w 0 then s
    else if s.fld HA_OVF_COUNT 31 0 = 0 then s.setFld HA_OVF_CTRL 0 0 0
    else s.accErr 2 HA_OVF_CTRL true (srcPriv src) := by
  rw [hm] at h22 h28
  cases hgo : bt w 0 <;> simp [State.ovfCtrl, hen, hm, hgo, Nat.not_lt.mpr h22, Nat.not_lt.mpr h28]

theorem State.ovfCtrl_resize (hen : s.bit HA_OVF_CTRL 0 = true) (hm : bf w 5 1 ≠ s.fld HA_OVF_CTRL 5 1) (hgo : bt w 0 = true) :
    s.ovfCtrl src w = s.accErr 2 HA_OVF_CTRL true (srcPriv src) := by
  simp [State.ovfCtrl, hen, hgo, hm, Nat.not_lt.mpr h22, Nat.not_lt.mpr h28]

end Overflow

/-! ### The region map's rebuild, and the end of conservative tracking (R169, R178) -/

section Rebuild

variable {s : State} {src : Src} {n : NodeId}

theorem execRmapRebuild_of (h : s.MayAccess src (ndA n ND_SF_CTRL) true) :
    exec (.rmapRebuild src n) s = .next ((s.rebuildGo n).noted src (ndA n ND_SF_CTRL) true 0) :=
  congrArg Host.Outcome.next (State.regDo_of h fun s => s.rebuildGo n)

theorem State.rebuildEnd_idle (h : (s.nd n).rebuild = false) : s.rebuildEnd n = s := by simp [State.rebuildEnd, h]

theorem State.rebuildEnd_runs (h : (s.nd n).rebuild = true) {r : Bool × State}
    (hr : r = (s.ovfSetsOf n).foldl (fun (a : Bool × State) set => if a.1 then a.2.rebuildSet n set else a) (true, s)) :
    s.rebuildEnd n = if r.1 then (r.2.ovfRest n).2.modNd n fun x => { x with rebuild := false } else r.2 := by
  subst hr
  simp only [State.rebuildEnd, h, Bool.not_true, if_neg Bool.false_ne_true]

/-- A set in block memory is read: its valid entries set their region bits, or it is lost. -/
theorem State.rebuildSet_of {set : Nat} {u : State} {r : Bool × List (Nat × Word) × State} (hin : s.bmIn (s.ovfLine set) = true)
    (hu : u = s.bmFree.2.bmErrs s.bmFree.1) (hr : r = u.ovfCheck n set (memLine s.bmem (s.ovfLine set)) false) :
    s.rebuildSet n set = if bmGood s.bmFree.1 then
      (!r.1, (r.2.1.filter fun e => entValid e.2).foldl (fun s e => s.regionSet n (s.ovfSector set (bf e.2 19 0))) r.2.2)
      else (true, u.ovfLost n set) := by
  subst hu hr
  cases hg : bmGood s.bmFree.1 <;> simp [State.rebuildSet, State.bmLook, hin, hg]

theorem execSfConsEnd_of (h : s.MayAccess src HA_SF_CONS true) :
    exec (.sfConsEnd src) s = .next (s.consEnd.goOn.noted src HA_SF_CONS true 0) :=
  congrArg Host.Outcome.next (State.regDo_of h fun s => s.consEnd.goOn)

/-- The end of conservative tracking clears CONS of every node and changes nothing else there. -/
theorem State.nd_consEnd (s : State) (m : NodeId) : s.consEnd.nd m = { s.nd m with cons := false } := by
  have hfold (l : List NodeId) (u : State) : (l.foldl (fun s n => s.modNd n fun x => { x with cons := false }) u).nd m =
      if m ∈ l then { u.nd m with cons := false } else u.nd m := by
    induction l generalizing u with
    | nil => rfl
    | cons n l ih =>
      rw [List.foldl_cons, ih, State.nd_modNd]
      by_cases hn : m = n <;> by_cases hl : m ∈ l <;> simp [hn, hl]
  exact (hfold _ s).trans (if_pos (List.mem_finRange m))

end Rebuild

/-! ### Scrubbers (R173, R439 to R441) -/

section Scrub

variable {s : State} {n : NodeId}

theorem State.sfScrub_off (h : s.live n = false ∨ s.bit (ndA n ND_SF_CTRL) 0 = false ∨ (s.nd n).repairs ≠ []) : s.sfScrub n = s := by
  refine if_pos ?_
  obtain h | h | h := h <;> simp [h]

/-- A step of the bank scrubber reads one set; unless a repair now runs it goes on to the next, and counts a pass at the end. -/
theorem State.sfScrub_on {u v : State} {set : Nat} (hl : s.live n = true) (hon : s.bit (ndA n ND_SF_CTRL) 0 = true)
    (hr : (s.nd n).repairs = []) (hset : set = s.fld (ndA n ND_SF_SCRUB) 12 0) (hu : u = s.scrubSet n set)
    (hv : v = u.setFld (ndA n ND_SF_SCRUB) 12 0 (set + 1)) :
    s.sfScrub n = if (u.nd n).repairs = [] then
      if set = 8191 then v.setFld (ndA n ND_SF_SCRUB) 31 16 (v.fld (ndA n ND_SF_SCRUB) 31 16 + 1) else v
      else u := by
  have hgo : (!s.live n || !s.bit (ndA n ND_SF_CTRL) 0 || (s.nd n).repairs != []) = false := by simp [hl, hon, hr]
  have hnd : v.nd n = u.nd n := by rw [hv, State.nd_setFld]
  simp only [State.sfScrub, hgo, Bool.false_eq_true, if_false, ← hset, ← hu, ← hv]
  by_cases hrep : (u.nd n).repairs = []
  · simp only [hrep, if_true, hnd, and_true]
  · simp only [hrep, if_false, and_false]

/-- A tick of any scrubber but that of the survivor tables. -/
theorem exec_scrubTick (hm : s.mode ≠ .off) :
    (∀ on, on = (s.live n && s.bit (ndA n ND_SCRUB_CTRL) 0) →
      exec (.scrubTick (.prog n)) s = .next (State.goOn (if on then s.scrubProg n else s)) ∧
      exec (.scrubTick (.scratch n)) s = .next (State.goOn (if on then s.scrubScr n else s)) ∧
      exec (.scrubTick (.trk n)) s = .next (State.goOn (if on then s.scrubTrk n else s)) ∧
      exec (.scrubTick (.rmap n)) s = .next (State.goOn (if on then s.scrubRmap n else s))) ∧
    (∀ p, exec (.scrubTick (.ledger p)) s = .next (State.goOn (if s.bit HA_SCRUB_CTRL 0 then s.scrubLed p else s))) ∧
    exec (.scrubTick .chvProg) s = .next (State.goOn (if s.bit HA_SCRUB_CTRL 1 then s.scrubChvProg else s)) ∧
    exec (.scrubTick .chvData) s = .next (State.goOn (if s.bit HA_SCRUB_CTRL 1 then s.scrubChvData else s)) ∧
    exec (.scrubTick .surv) s = .next s.scrubSurv.goOn ∧ exec (.scrubTick .rom) s = .next s.scrubRom.goOn := by
  have hrow (k : Scrubber) (hk : k ≠ .surv) : exec (.scrubTick k) s = .next (s.scrub k).goOn := by
    cases k with
    | surv => exact absurd rfl hk
    | _ => rfl
  have hsurv : exec (.scrubTick .surv) s = .next (if s.mode = .off then s else s.scrubSurv).goOn := rfl
  refine ⟨fun on hon => ?_, fun p => ?_, ?_, ?_, ?_, ?_⟩
  · subst hon
    refine ⟨?_, ?_, ?_, ?_⟩ <;> rw [hrow _ (by simp), State.scrub, if_neg hm]
  · rw [hrow _ (by simp), State.scrub, if_neg hm]
  · rw [hrow _ (by simp), State.scrub, if_neg hm]
  · rw [hrow _ (by simp), State.scrub, if_neg hm]
  · rw [hsurv, if_neg hm]
  · rw [hrow _ (by simp), State.scrub, if_neg hm]

end Scrub

/-! ### HA_XLT_CMD (R319, R321) -/

section Xlt

variable {s : State} {src : Src} {err : BmErr} {k : BitVec 32}

/-- The commands of HA_XLT_CMD with the word that each writes (Table 10.12). -/
def xltCommands (src : Src) (i : BitVec 6) (p : BitVec 2) (wy : BitVec 5) : List (Instr × Nat) :=
  [(.xltPreload src i p, 1 + i.toNat * 2 ^ 4 + p.toNat * 2 ^ 10), (.xltPreloadLock src i p, 2 + i.toNat * 2 ^ 4 + p.toNat * 2 ^ 10),
   (.xltUnlock src i wy, 3 + i.toNat * 2 ^ 4 + wy.toNat * 2 ^ 12), (.xltInvCtx src, 4), (.xltInvPext src, 5), (.xltInvAll src, 6)]

/-- Each writes its word, whose OP is one of 1 to 6. -/
theorem exec_xltCommand {i : BitVec 6} {p : BitVec 2} {wy : BitVec 5} {c : Instr} {o : Nat} (hc : (c, o) ∈ xltCommands src i p wy)
    (h : s.MayAccess src HA_XLT_CMD true) :
    exec c s = .next ((s.xltWrite (BitVec.ofNat 32 o) true (srcPriv src)).noted src HA_XLT_CMD true 0) ∧
    bf (BitVec.ofNat 32 o) 3 0 ≠ 0 ∧ bf (BitVec.ofNat 32 o) 3 0 ≤ 6 := by
  have hgo (op inst pclass way : Nat) : s.xltGo src op inst pclass way =
      (s.xltWrite (BitVec.ofNat 32 (op + inst * 2 ^ 4 + pclass * 2 ^ 10 + way * 2 ^ 12)) true (srcPriv src)).noted src HA_XLT_CMD true 0 :=
    State.regDo_of h fun s => s.xltWrite (BitVec.ofNat 32 (op + inst * 2 ^ 4 + pclass * 2 ^ 10 + way * 2 ^ 12)) true (srcPriv src)
  have hop (v : Nat) : bf (BitVec.ofNat 32 v) 3 0 = v % 16 := by
    rw [bf_zero_lo, BitVec.toNat_ofNat]
    omega
  have hrow {e : Instr} {op inst pclass way v : Nat} (he : exec e s = .next (s.xltGo src op inst pclass way))
      (hv : v = op + inst * 2 ^ 4 + pclass * 2 ^ 10 + way * 2 ^ 12) (h1 : 1 ≤ op) (h6 : op ≤ 6) :
      exec e s = .next ((s.xltWrite (BitVec.ofNat 32 v) true (srcPriv src)).noted src HA_XLT_CMD true 0) ∧
      bf (BitVec.ofNat 32 v) 3 0 ≠ 0 ∧ bf (BitVec.ofNat 32 v) 3 0 ≤ 6 := by
    rw [he, hgo, ← hv, hop]
    exact ⟨rfl, by omega, by omega⟩
  have hall : ∀ r ∈ xltCommands src i p wy,
      exec r.1 s = .next ((s.xltWrite (BitVec.ofNat 32 r.2) true (srcPriv src)).noted src HA_XLT_CMD true 0) ∧
      bf (BitVec.ofNat 32 r.2) 3 0 ≠ 0 ∧ bf (BitVec.ofNat 32 r.2) 3 0 ≤ 6 := by
    simp only [xltCommands, List.forall_mem_cons, List.not_mem_nil, false_imp_iff, implies_true, and_true]
    exact ⟨hrow (op := 1) rfl (by omega) (by decide) (by decide), hrow (op := 2) rfl (by omega) (by decide) (by decide),
      hrow (op := 3) (pclass := 0) rfl (by omega) (by decide) (by decide),
      hrow (op := 4) (inst := 0) (pclass := 0) (way := 0) rfl rfl (by decide) (by decide),
      hrow (op := 5) (inst := 0) (pclass := 0) (way := 0) rfl rfl (by decide) (by decide),
      hrow (op := 6) (inst := 0) (pclass := 0) (way := 0) rfl rfl (by decide) (by decide)⟩
  exact hall _ hc

theorem State.xltWrite_busy {v : BitVec 32} {wr priv : Bool} (h : s.xltCmd.isSome = true) :
    s.xltWrite v wr priv = s.accErr 1 HA_XLT_CMD wr priv := if_pos (.inl h)

theorem State.xltWrite_free {v : BitVec 32} {wr priv : Bool} (h : s.xltCmd = none) (h0 : bf v 3 0 ≠ 0) (h6 : bf v 3 0 ≤ 6) :
    s.xltWrite v wr priv = { s with xltCmd := some v } := by
  refine if_neg ?_
  rw [h]
  simp [h0, h6]

theorem exec_xltCmdDone {u : State} (h : s.xltRun err = u) : exec (.xltCmdDone err) s = .next u := congrArg Host.Outcome.next h

theorem State.xltRun_none (h : s.xltCmd = none) : s.xltRun err = s := by simp only [State.xltRun, h]

variable (h : s.xltCmd = some k)
include h

theorem State.xltRun_preload (hop : bf k 3 0 = 1 ∨ bf k 3 0 = 2) : s.xltRun err = s.xltPre k err := by
  obtain hop | hop := hop <;> simp only [State.xltRun, h, hop]

theorem State.xltRun_unlock (hop : bf k 3 0 = 3) : s.xltRun err = if 56 ≤ bf k 9 4 then s.xltEnd 1
    else (s.setMac (bf k 9 4) { s.mac (bf k 9 4) with
      lock := smSet (fun _ => none) (s.mac (bf k 9 4)).lock (bf k 16 12) none }).xltEnd 0 := by
  simp only [State.xltRun, h, hop]

theorem State.xltRun_invCtx (hop : bf k 3 0 = 4) {ctx lo hi : Nat} (hctx : ctx = bf (s.raw HA_XLT_ARG0) 15 0)
    (hlo : lo = bf (s.raw HA_XLT_ARG0) 31 16) (hhi : hi = s.fld HA_XLT_ARG1 19 0) : s.xltRun err =
    ((((List.range 24).foldl (fun s i => s.xltInv i fun e =>
      e.k1.toNat == ctx && decide (lo ≤ e.k2.toNat) && decide (e.k2.toNat ≤ hi)) s).qecInv fun e =>
      e.ctx.toNat == ctx && decide (lo ≤ e.cidx.toNat) && decide (e.cidx.toNat ≤ hi)).xltEnd 0) := by
  subst hctx hlo hhi
  simp only [State.xltRun, h, hop]

theorem State.xltRun_invPext (hop : bf k 3 0 = 5) {f : Nat → Bool}
    (hf : f = fun x => decide (bf (s.raw HA_XLT_ARG0) 19 0 ≤ x) && decide (x ≤ s.fld HA_XLT_ARG1 19 0)) :
    s.xltRun err = if s.plcUsing f then s else (s.plcInv f).xltEnd 0 := by
  subst hf
  simp only [State.xltRun, h, hop]

theorem State.xltRun_invAll (hop : bf k 3 0 = 6) : s.xltRun err = if s.plcUsing (fun _ => true) then s
    else (((((List.range 24).foldl (fun s i => s.xltInv i fun _ => true) s).plcInv fun _ => true).qecInv fun _ => true).xltEnd 0) := by
  simp only [State.xltRun, h, hop]

end Xlt

/-! ### The commands of a channel (R332, R333) -/

section Channel

variable {s : State} {src : Src} {c : ChanId} {err : BmErr}

theorem execChannelGo_of (h : s.MayAccess src (chA c 1) true) :
    exec (.channelGo src c err) s = .next (((s.chanGo c err).goOn).noted src (chA c 1) true 0) :=
  congrArg Host.Outcome.next (State.regDo_of h fun s => (s.chanGo c err).goOn)

theorem execChannelResume_of (h : s.MayAccess src (chA c 1) true) :
    exec (.channelResume src c) s = .next (((s.chanResume c).goOn).noted src (chA c 1) true 0) :=
  congrArg Host.Outcome.next (State.regDo_of h fun s => (s.chanResume c).goOn)

theorem execChannelStop_of (h : s.MayAccess src (chA c 1) true) :
    exec (.channelStop src c) s = .next (((s.chanStop c).goOn).noted src (chA c 1) true 0) :=
  congrArg Host.Outcome.next (State.regDo_of h fun s => (s.chanStop c).goOn)

theorem State.chanGo_starts (h : (s.ch c).st ∈ [.idle, .halted, .done]) :
    s.chanGo c err = (s.setCh c { s.ch c with desc := BitVec.ofNat 29 (s.fld (chA c 0) 28 0) }).dmaBegin c err := by
  simp only [List.mem_cons, List.not_mem_nil, or_false] at h
  obtain h | h | h := h <;> simp only [State.chanGo, h, State.modCh]

theorem State.chanGo_runs (h : (s.ch c).st ∈ [.run, .preempted]) : s.chanGo c err = s := by
  simp only [List.mem_cons, List.not_mem_nil, or_false] at h
  obtain h | h := h <;> simp only [State.chanGo, h]

theorem State.chanResume_same (h : (s.ch c).st ≠ .halted) : s.chanResume c = s := if_pos h

/-- A channel that halted before its first unit reads its descriptor again. -/
theorem State.chanResume_again (h : (s.ch c).st = .halted) (hc : (s.ch c).cause ∈ [1, 2, 8]) :
    s.chanResume c = s.bmFree.2.dmaBegin c s.bmFree.1 := by
  have hc : (s.ch c).cause = 1 ∨ (s.ch c).cause = 2 ∨ (s.ch c).cause = 8 := by simpa using hc
  simp only [State.chanResume, h, hc, ne_eq, not_true_eq_false, if_false, if_true]

theorem State.chanResume_goes (h : (s.ch c).st = .halted) (hc : (s.ch c).cause ∉ [1, 2, 8]) {v : State}
    (hv : v = s.setCh c { s.ch c with st := .run, cause := 0, nextUnit := (s.ch c).prog, doneL := [] }) :
    s.chanResume c = if (s.ch c).op = 1 ∧ (s.ch c).ph = .none then v.migBegin c (s.ch c).prog else v := by
  have hc : ¬((s.ch c).cause = 1 ∨ (s.ch c).cause = 2 ∨ (s.ch c).cause = 8) := by simpa using hc
  subst hv
  simp only [State.chanResume, h, hc, ne_eq, not_true_eq_false, if_false]

theorem State.chanStop_same (h : (s.ch c).st ∈ [.idle, .halted, .done]) : s.chanStop c = s := by
  simp only [List.mem_cons, List.not_mem_nil, or_false] at h
  obtain h | h | h := h <;> simp only [State.chanStop, h]

end Channel

/-! ### The units of a channel (R328) -/

section Units

variable {s : State} {c : ChanId}

theorem exec_dmaReport {msg : Line} {u : State} (h : s.dmaMsg msg = u) : exec (.dmaReport msg) s = .next u.goOn :=
  congrArg (fun u : State => Host.Outcome.next u.goOn) h

theorem exec_itemTmo {i : BitVec 32} {u : State} (h : s.itemLate c i.toNat = u) : exec (.itemTmo c i) s = .next u.goOn :=
  congrArg (fun u : State => Host.Outcome.next u.goOn) h

theorem exec_busyReissue {i : BitVec 32} {u : State} (h : s.busyAgain c i.toNat = u) : exec (.busyReissue c i) s = .next u.goOn :=
  congrArg (fun u : State => Host.Outcome.next u.goOn) h

/-- A report message is for the first outstanding unit with its number modulo 2^16. -/
theorem State.dmaMsg_unit {msg : Line} {pre post : List (Nat × Nat)} {o : Nat × Nat} (hop : bf msg 7 0 = 0xD0)
    (hch : bf msg 11 8 = c.val) (hout : (s.ch c).out = pre ++ o :: post) (hpre : ∀ q ∈ pre, q.1 % 65536 ≠ bf msg 31 16)
    (ho : o.1 % 65536 = bf msg 31 16) : s.dmaMsg msg = s.dmaResult c o.1 (bf msg 35 32) := by
  have hc : Fin.ofNat 16 (bf msg 11 8) = c := by rw [hch]; exact Fin.ofNat_val_eq_self c
  have hfind : (s.ch c).out.find? (fun o => o.1 % 65536 == bf msg 31 16) = some o :=
    List.find?_eq_some_iff_append.mpr ⟨by simpa using ho, pre, post, hout, fun q hq => by simpa using hpre q hq⟩
  simp only [State.dmaMsg, hc, hop, hfind, ne_eq, not_true_eq_false, if_false]

/-- The first unit of a list with a number. -/
theorem find?_unit {l pre post : List (Nat × Nat)} {o : Nat × Nat} {i : Nat} (hl : l = pre ++ o :: post) (hpre : ∀ q ∈ pre, q.1 ≠ i)
    (ho : o.1 = i) : l.find? (fun o => o.1 == i) = some o :=
  List.find?_eq_some_iff_append.mpr ⟨by simpa using ho, pre, post, hl, fun q hq => by simpa using hpre q hq⟩

theorem find?_unit_none {l : List (Nat × Nat)} {i : Nat} (h : ∀ q ∈ l, q.1 ≠ i) : l.find? (fun o => o.1 == i) = none :=
  List.find?_eq_none.mpr fun q hq => by simpa using h q hq

end Units

/-- Settles O53, row by row. -/
theorem trackingTranslationAndDma : Obligations.TrackingTranslationAndDma := by
  unfold Obligations.TrackingTranslationAndDma
  intro s src n c
  refine ⟨fun w old m u e h hold hm h22 h28 hu he => ?_, fun h => execRmapRebuild_of h,
    fun h => congrArg (fun u : State => Host.Outcome.next u.goOn) (State.rebuildEnd_idle h),
    fun h r hr => congrArg (fun u : State => Host.Outcome.next u.goOn) (State.rebuildEnd_runs h hr),
    fun set u r hin hu hr => State.rebuildSet_of hin hu hr, fun h => execSfConsEnd_of h,
    fun m => by rw [State.nd_consEnd]; exact ⟨rfl, rfl⟩, fun set u v hl hon hr hset hu hv => ?_,
    fun h => congrArg (fun u : State => Host.Outcome.next u.goOn) (State.sfScrub_off h), fun hm => exec_scrubTick hm,
    fun h i p wy k o hk => ?_, fun err => ⟨fun h => exec_xltCmdDone (State.xltRun_none h), fun k h => ?_⟩, fun h x hx => ?_,
    fun msg h => exec_dmaReport (if_pos h), fun msg pre o post hop hch hout hpre ho => exec_dmaReport (State.dmaMsg_unit hop hch hout hpre ho),
    fun u pre o post hout hpre ho => exec_itemTmo ?_, fun u h => exec_itemTmo ?_, fun u pre o post v hb hpre ho hv => exec_busyReissue ?_,
    fun u h => exec_busyReissue ?_⟩
  · subst hold hm hu he
    simp only [execOvfCtrlWrite_of h]
    refine ⟨fun hen hgo => ?_, fun hen hgo => ?_, fun hen hm hgo => ?_, fun hen hm hgo hcnt => ?_, ?_⟩
    · rw [State.ovfCtrl_off h22 h28 hen, if_pos hgo]
    · rw [State.ovfCtrl_off h22 h28 hen, hgo, if_neg Bool.false_ne_true]
    · rw [State.ovfCtrl_on h22 h28 hen hm, if_pos hgo]
    · rw [State.ovfCtrl_on h22 h28 hen hm, hgo, if_neg Bool.false_ne_true, if_pos hcnt]
    · rintro hen (⟨hm, hgo⟩ | ⟨hm, hgo, hcnt⟩)
      · rw [State.ovfCtrl_resize h22 h28 hen hm hgo]
      · rw [State.ovfCtrl_on h22 h28 hen hm, hgo, if_neg Bool.false_ne_true, if_neg hcnt]
  · have hrow : exec (.sfScrubTick n) s = .next (s.sfScrub n).goOn := rfl
    rw [hrow, State.sfScrub_on hl hon hr hset hu hv]
    refine ⟨fun h hne => ?_, fun h he => ?_, fun h => ?_⟩
    · rw [if_pos h, if_neg hne]
    · rw [if_pos h, if_pos he]
    · rw [if_neg h]
  · obtain ⟨hrow, h0, h6⟩ := exec_xltCommand hk h
    rw [hrow]
    exact ⟨fun hn => by rw [State.xltWrite_free hn h0 h6], fun hb => by rw [State.xltWrite_busy hb]⟩
  · refine ⟨fun hop => exec_xltCmdDone (State.xltRun_preload h hop),
      fun hop hi => exec_xltCmdDone ((State.xltRun_unlock h hop).trans (if_neg (Nat.not_le.mpr hi))),
      fun hop hi => exec_xltCmdDone ((State.xltRun_unlock h hop).trans (if_pos hi)),
      fun ctx lo hi hop hctx hlo hhi => exec_xltCmdDone (State.xltRun_invCtx h hop hctx hlo hhi), fun f hop hf => ⟨fun hb => ?_, fun hb => ?_⟩,
      fun hop => ⟨fun hb => ?_, fun hb => ?_⟩⟩
    · exact exec_xltCmdDone ((State.xltRun_invPext h hop hf).trans (if_pos hb))
    · exact exec_xltCmdDone ((State.xltRun_invPext h hop hf).trans (by rw [hb]; rfl))
    · exact exec_xltCmdDone ((State.xltRun_invAll h hop).trans (if_pos hb))
    · exact exec_xltCmdDone ((State.xltRun_invAll h hop).trans (by rw [hb]; rfl))
  · subst hx
    simp only [execChannelGo_of h, execChannelResume_of h, execChannelStop_of h]
    refine ⟨fun err => ⟨fun hst => by rw [State.chanGo_starts hst], fun hst => by rw [State.chanGo_runs hst]⟩,
      fun hst => ⟨fun hc => by rw [State.chanResume_again hst hc], fun v hc hv => ?_⟩, fun hst => by rw [State.chanResume_same hst],
      fun hst => ?_, fun hst => ?_, fun hst => by rw [State.chanStop_same hst]⟩
    · rw [State.chanResume_goes hst hc hv]
      exact ⟨fun ho hp => by rw [if_pos ⟨ho, hp⟩], fun hn => by rw [if_neg fun ⟨ho, hp⟩ => hn.elim (· ho) (· hp)]⟩
    · simp only [State.chanStop, hst, State.modCh]
    · simp only [State.chanStop, hst]
  · rw [State.itemLate, find?_unit hout hpre ho]
  · rw [State.itemLate, find?_unit_none h]
  · subst hv
    rw [State.busyAgain, find?_unit hb hpre ho]
    rfl
  · rw [State.busyAgain, find?_unit_none h]

end Sys2Proof.Machine
end

section
/-! Lookups of the snoop filter on intact bank entries (R138, R143, R156, R161, R170, R177, R221, R239). -/

namespace Sys2Proof.Machine

/-! ### An error noted beside a change of the nodes (R392, R444, R450) -/

/-- The block with other nodes. -/
def State.withNodes (s : State) (m : SMap Node) : State := { s with node := m }

section Nodes

variable (s : State) (m : SMap Node)

@[simp] theorem State.withNodes_mode : (s.withNodes m).mode = s.mode := rfl
@[simp] theorem State.withNodes_evq : (s.withNodes m).evq = s.evq := rfl
@[simp] theorem State.withNodes_evDrops : (s.withNodes m).evDrops = s.evDrops := rfl
@[simp] theorem State.withNodes_chv : (s.withNodes m).chv = s.chv := rfl
@[simp] theorem State.withNodes_raw (a : Nat) : (s.withNodes m).raw a = s.raw a := rfl
@[simp] theorem State.withNodes_bit (a i : Nat) : (s.withNodes m).bit a i = s.bit a i := rfl
@[simp] theorem State.withNodes_errClasses : (s.withNodes m).errClasses = s.errClasses := rfl
@[simp] theorem State.withNodes_dgAny : (s.withNodes m).dgAny = s.dgAny := rfl
@[simp] theorem State.setFld_withNodes (a hi lo x : Nat) : (s.withNodes m).setFld a hi lo x = (s.setFld a hi lo x).withNodes m := rfl
@[simp] theorem State.dropRec_withNodes : (s.withNodes m).dropRec = s.dropRec.withNodes m := rfl

@[simp] theorem State.ite_withNodes {c : Prop} [Decidable c] (u : State) :
    (if c then s.withNodes m else u.withNodes m) = (if c then s else u).withNodes m := (apply_ite (State.withNodes · m) c s u).symm

@[simp] theorem State.pushRec_withNodes (kind cls payload : Nat) :
    (s.withNodes m).pushRec kind cls payload = (s.pushRec kind cls payload).withNodes m := by
  unfold State.pushRec State.withNodes
  dsimp only
  split <;> rfl

@[simp] theorem State.dropped_withNodes : (s.withNodes m).dropped = s.dropped.withNodes m := by
  unfold State.dropped
  rw [State.pushRec_withNodes, ← State.ite_withNodes]
  rfl

@[simp] theorem State.record_withNodes (kind cls payload : Nat) :
    (s.withNodes m).record kind cls payload = (s.record kind cls payload).withNodes m := by
  simp only [State.record, State.ite_withNodes, State.withNodes_mode, State.withNodes_bit, State.withNodes_evq, State.dropRec_withNodes,
    State.dropped_withNodes, State.pushRec_withNodes]

@[simp] theorem State.chvEvent_withNodes (evt datum : Nat) : (s.withNodes m).chvEvent evt datum = (s.chvEvent evt datum).withNodes m := by
  unfold State.chvEvent
  dsimp only
  rw [← State.ite_withNodes]
  refine ite_congr rfl (fun _ => rfl) fun _ => ?_
  split <;> rfl

@[simp] theorem State.setMode_withNodes (k : Mode) : (s.withNodes m).setMode k = (s.setMode k).withNodes m := by
  have hput (u : State) (k : Mode) : { u.withNodes m with mode := k, wdogAt := (u.withNodes m).tmo } =
      ({ u with mode := k, wdogAt := u.tmo } : State).withNodes m := rfl
  simp only [State.setMode, State.ite_withNodes, State.withNodes_mode, State.setFld_withNodes, State.withNodes_bit, hput,
    State.record_withNodes, State.chvEvent_withNodes]

@[simp] theorem State.degrade_withNodes : (s.withNodes m).degrade = s.degrade.withNodes m := by
  unfold State.degrade
  rw [State.withNodes_mode]
  split <;> simp only [State.ite_withNodes, State.withNodes_dgAny, State.setMode_withNodes]

@[simp] theorem State.raiseNote_withNodes (a i : Nat) (own : Bool) :
    (s.withNodes m).raiseNote a i own = (s.raiseNote a i own).withNodes m := by
  simp only [State.raiseNote, State.ite_withNodes, State.withNodes_errClasses, State.setFld_withNodes, State.withNodes_bit,
    State.withNodes_raw, State.record_withNodes, State.chvEvent_withNodes]

/-- An error below FATAL is noted whatever the nodes hold. -/
theorem State.raise_withNodes {a i : Nat} (h : errClass a i ≠ 4) : (s.withNodes m).raise a i = (s.raise a i).withNodes m := by
  have hf (u : State) : ¬(errClass a i = 4 ∧ u.mode.fatalStops = true) := fun hc => h hc.1
  simp only [State.raise, State.raiseK, hf, if_false, State.ite_withNodes, State.withNodes_bit, State.raiseNote_withNodes,
    State.degrade_withNodes]

end Nodes

/-- Changing a thread of an engine changes the nodes alone. -/
theorem State.modThr_node {s : State} {t : Thr} {n : NodeId} (ht : t.core = .node n) (f : Thread → Thread) :
    s.modThr t f = s.withNodes (s.modThr t f).node := by
  rw [State.modThr, State.setThr, ht]
  rfl

theorem State.raise_only {s : State} {t : Thr} {n : NodeId} (ht : t.core = .node n) {a i : Nat} (h : errClass a i ≠ 4) (f : Thread → Thread) :
    (s.modThr t f).raise a i = (s.raise a i).modThr t f := by
  have hnode : (s.raise a i).node = s.node := by
    have h0 := congrArg State.node (State.raise_withNodes s s.node h)
    exact h0
  have hnd (m : NodeId) : (s.raise a i).nd m = s.nd m := by rw [State.nd, hnode]; rfl
  rw [State.modThr_node ht, State.raise_withNodes _ _ h, State.modThr_node ht (s := s.raise a i), State.modThr, State.modThr, State.setThr,
    State.setThr, ht, State.raise_thr h]
  simp only [State.setCore, State.setNd, State.core, hnd, hnode]

/-! ### An issue that leaves its thread as given -/

section Issue

variable {c : Instr} {s u z : State} {t : Thr} {o : Op} {w : Reg32} {f : Thread → State → Res}
  (hc : exec c s = .next (s.issue t o w f)) (hq : o.quiet = false) (hi : Issues s t o w)
include hc hq hi

theorem exec_now {y : Thread} (hf : f (s.thr t) s = .next z) (hz : OnlyThread u z t) (hy : z.thr t = y) (htc : y.tc = (s.thr t).tc)
    (hp : Passes s t ((s.thr t).pc + 1)) :
    ∃ x, exec c s = .next x.goOn ∧ OnlyThread u x t ∧ Now x t y ((s.thr t).pc + 1) := by
  refine ⟨(z.account t).goto t (s.thr t).pc ((s.thr t).pc + 1), ?_, State.goto_now hz hy hp.1 (htc ▸ hp.2)⟩
  rw [State.issue_on hc hq hi hf, State.finish, hp.last, if_neg Bool.false_ne_true]

/-- An instruction that waits for what it has asked for keeps its pc and its registers. -/
theorem exec_waits {p : Pend} (hf : f (s.thr t) s = .stall z p) (hpend : ∀ why, p ≠ .again why) (hz : z.thr t = s.thr t)
    (hp : pcIn t.core ((s.thr t).pc + 1) = true) :
    ∃ x, exec c s = .next x.goOn ∧ OnlyThread z x t ∧ (x.thr t).st = .stalled ∧ (x.thr t).pend = p ∧ (x.thr t).g = (s.thr t).g ∧
      (x.thr t).pc = (s.thr t).pc := by
  obtain ⟨sl, hacc⟩ := State.account_thr z t
  have hlast : pcLast t.core (s.thr t).pc = false := by rw [pcLast, hp]; rfl
  refine ⟨(z.account t).modThr t fun x => { x with st := .stalled, pend := p, via := none }, ?_,
    (State.account_only z t).trans (State.modThr_only _ _ _), ?_⟩
  · rw [State.issue_on hc hq hi hf]
    cases p with
    | again why => exact absurd rfl (hpend why)
    | _ =>
      simp only [State.finish, hlast]
      rfl
  · rw [State.modThr_thr, if_pos rfl, hacc, hz]
    exact ⟨rfl, rfl, rfl, rfl⟩

end Issue

/-! ### Reads of intact ways (R143, R161, R170) -/

section Ways

variable {s : State} {n : NodeId} {p : BankPos}

theorem State.readWay_good {k : Nat} (h : (entCheck ((s.nd n).entry k)).1 = .good) : s.readWay n k = ((s.nd n).entry k, false, s) := by
  rw [State.readWay, h]

theorem State.wayRead_good {k : Nat} (h : (entCheck ((s.nd n).entry k)).1 = .good) (finder : Nat) :
    s.wayRead n k finder = (.hit k ((s.nd n).entry k), s) := by
  rw [State.wayRead, State.readWay_good h]
  rfl

/-- The way holds an entry of the tag. -/
def Node.wayHolds (x : Node) (p : BankPos) (y : Nat) : Bool :=
  entValid (x.entry (bankKey p.set y)) && bf (x.entry (bankKey p.set y)) 19 0 == p.tag

/-- Every way of the group is intact, and counts as it is stored. -/
def Node.Intact (x : Node) (p : BankPos) : Prop :=
  ∀ y ∈ p.ways, (entCheck (x.entry (bankKey p.set y))).1 = .good ∧ entLive x.cons (x.entry (bankKey p.set y)) = x.entry (bankKey p.set y)

/-- The search of an intact group changes nothing and finds the first way that holds the tag. -/
theorem State.bankFind_intact (hrep : (s.nd n).repairs = []) (hresv : (s.nd n).resv = []) (h : (s.nd n).Intact p) :
    s.bankFind n p = ((p.ways.find? ((s.nd n).wayHolds p)).elim .miss
      fun y => .hit (bankKey p.set y) ((s.nd n).entry (bankKey p.set y)), s) := by
  unfold State.bankFind
  unfold Node.Intact at h
  generalize p.ways = l at h ⊢
  induction l with
  | nil => rfl
  | cons y l ih =>
    obtain ⟨hgood, hlive⟩ := h y List.mem_cons_self
    rw [List.foldl_cons]
    simp only [hrep, hresv, List.any_nil, Bool.or_self, Bool.false_eq_true, if_false, State.wayRead_good hgood, hlive, if_true]
    by_cases hy : (s.nd n).wayHolds p y = true
    · rw [List.find?_cons_of_pos hy, if_pos (by exact hy)]
      exact List.foldl_fixed' (fun _ => rfl) _
    · rw [List.find?_cons_of_neg hy, if_neg (by exact hy)]
      exact ih fun z hz => h z (List.mem_cons_of_mem y hz)

theorem State.bankFind_miss (hrep : (s.nd n).repairs = []) (hresv : (s.nd n).resv = []) (h : (s.nd n).Intact p)
    (hnone : ∀ y ∈ p.ways, entValid ((s.nd n).entry (bankKey p.set y)) = true → bf ((s.nd n).entry (bankKey p.set y)) 19 0 ≠ p.tag) :
    s.bankFind n p = (.miss, s) := by
  rw [State.bankFind_intact hrep hresv h, List.find?_eq_none.mpr]
  · rfl
  · intro y hy
    simpa [Node.wayHolds] using hnone y hy

theorem State.bankFind_hit (hrep : (s.nd n).repairs = []) (hresv : (s.nd n).resv = []) (h : (s.nd n).Intact p) {y : Nat} (hy : y ∈ p.ways)
    (hv : entValid ((s.nd n).entry (bankKey p.set y)) = true) (htag : bf ((s.nd n).entry (bankKey p.set y)) 19 0 = p.tag)
    (hone : ∀ z ∈ p.ways, z ≠ y → entValid ((s.nd n).entry (bankKey p.set z)) = true → bf ((s.nd n).entry (bankKey p.set z)) 19 0 ≠ p.tag) :
    s.bankFind n p = (.hit (bankKey p.set y) ((s.nd n).entry (bankKey p.set y)), s) := by
  obtain ⟨pre, post, hsplit, hpre⟩ := List.eq_append_cons_of_mem hy
  have hfind : p.ways.find? ((s.nd n).wayHolds p) = some y := by
    refine List.find?_eq_some_iff_append.mpr ⟨by simp [Node.wayHolds, hv, htag], pre, post, hsplit, fun z hz => ?_⟩
    have hz' := hone z (hsplit ▸ List.mem_append_left _ hz) fun he => hpre (he ▸ hz)
    simpa [Node.wayHolds, imp_iff_not_or] using hz'
  rw [State.bankFind_intact hrep hresv h, hfind]
  rfl

end Ways

/-! ### SFL (R161, R239) -/

/-- SFL sets the handle and writes rd. -/
theorem State.setHandle_setRd_only (s : State) (t : Thr) (h : Nat × HLoc) (rd : Nat) (v : Word) :
    OnlyThread s ((s.setHandle t h).setRd t rd v) t := (State.modThr_only _ _ _).trans (State.modThr_only _ _ _)

theorem State.setHandle_setRd_thr (s : State) (t : Thr) (h : Nat × HLoc) (rd : Nat) (v : Word) :
    ((s.setHandle t h).setRd t rd v).thr t = { s.thr t with handle := some h }.setReg rd v := by
  rw [State.setRd_thr, State.setHandle, State.modThr_thr, if_pos rfl]

theorem State.sflHit_bank (s : State) (t : Thr) (rd sec k : Nat) (e : Word) : s.sflHit t rd sec (.bank k) e =
    (s.setHandle t (sec, .bank k)).setRd t rd (BitVec.ofNat 64 (bf e 55 0 + 2 ^ 56)) := by
  have hbank (a c : Nat) : a + b2n false * c = a := by simp [b2n]
  exact congrArg (fun v => (s.setHandle t (sec, .bank k)).setRd t rd (BitVec.ofNat 64 v)) (hbank (bf e 55 0 + 2 ^ 56) (2 ^ 57))

theorem Thread.setReg_tc (x : Thread) (rd : Nat) (v : Word) : (x.setReg rd v).tc = x.tc := by
  unfold Thread.setReg
  split <;> rfl

theorem OnlyThread.cons {s u : State} {t : Thr} (h : OnlyThread s u t) (n : NodeId) : (u.nd n).cons = (s.nd n).cons := by
  have hnode := congrArg Node.cons (h.nodes n)
  exact hnode

section Sfl

variable {s : State} {n : NodeId} {t : Thr} {w : Reg32} {sec : Nat} {unk : Word} (ht : t.core = .node n)
  (hsec : sec = bf ((s.thr t).reg (bf w 20 16)) 39 2) (hi : Issues s t .sfl w)
include ht hsec hi

/-- A sector for which a way is reserved waits. -/
theorem execSfl_reserved (hrep : (s.nd n).repairs = []) (h : ∃ r ∈ (s.nd n).resv, r.2.2 = sec) : exec (.sfl t w) s =
    .next (s.modThr t fun y => { y with st := .stalled, pend := .again (.sector sec), via := none }).goOn := by
  have hin : (s.nd n).inRepair sec = false := by rw [Node.inRepair, hrep]; rfl
  have hres : (s.nd n).reserved sec = true := by
    obtain ⟨r, hr, he⟩ := h
    rw [Node.reserved, List.any_eq_true.mpr ⟨r, hr, by simpa using he⟩, Bool.true_or]
  subst hsec
  refine State.issue_again (exec_issueN rfl ht) rfl hi ?_
  simp only [Node.blocked, regSector, iRs1, hin, hres]
  rfl

variable (hrep : (s.nd n).repairs = []) (hresv : (s.nd n).resv = []) (hev : (s.nd n).evicts = [])
include hrep hresv hev

omit ht hsec hi in
theorem Node.blocked_free : (s.nd n).inRepair sec = false ∧ (s.nd n).reserved sec = false := by
  simp [Node.inRepair, Node.reserved, hrep, hresv, hev]

variable (hp : Passes s t ((s.thr t).pc + 1))
include hp

/-- A sector whose slot no bank of the node tracks is an error (R140, R239). -/
theorem execSfl_untracked (hunk : unk = s.missWord n) (hpos : s.bankPos n sec = none) :
    ∃ u, exec (.sfl t w) s = .next u.goOn ∧ OnlyThread (s.raise (ndA n ND_SF_ERR) 6) u t ∧
      Now u t ({ s.thr t with handle := some (sec, .miss) }.setReg (bf w 25 21) (BitVec.ofNat 64 (2 ^ 59) ||| unk)) ((s.thr t).pc + 1) := by
  have h6 : ∀ m : NodeId, errClass (ndA m ND_SF_ERR) 6 ≠ 4 := by decide
  obtain ⟨hin, hres⟩ := Node.blocked_free hrep hresv hev (sec := sec)
  have hmiss : unk = (s.setHandle t (sec, .miss)).missWord n := by
    rw [hunk, State.missWord, State.missWord, State.setHandle, (State.modThr_only s t _).cons]
  refine exec_now (exec_issueN rfl ht) rfl hi (z := ((s.raise (ndA n ND_SF_ERR) 6).setHandle t (sec, .miss)).setRd t (bf w 25 21)
    (BitVec.ofNat 64 (2 ^ 59) ||| unk)) ?_ (State.setHandle_setRd_only ..) ?_ (Thread.setReg_tc _ _ _) hp
  · subst hsec
    simp only [Node.blocked, regSector, iRs1, iRd, hin, hres, Bool.or_self, Bool.false_eq_true, if_false, hpos]
    rw [State.setRd, State.raise_only ht (h6 n), State.setHandle, State.raise_only ht (h6 n), hunk]
    rfl
  · rw [State.setHandle_setRd_thr, State.raise_thr (h6 n)]

variable {p : BankPos} (hpos : s.bankPos n sec = some p)
include hpos

/-- A hit in the bank returns the entry with HIT and points the handle at its way. -/
theorem execSfl_hit {k : Nat} {e : Word} (hfind : s.bankFind n p = (.hit k e, s)) :
    ∃ u, exec (.sfl t w) s = .next u.goOn ∧ OnlyThread s u t ∧
      Now u t ({ s.thr t with handle := some (sec, .bank k) }.setReg (bf w 25 21) (BitVec.ofNat 64 (bf e 55 0 + 2 ^ 56))) ((s.thr t).pc + 1) := by
  obtain ⟨hin, hres⟩ := Node.blocked_free hrep hresv hev (sec := sec)
  have hcnt := State.cntN_counted (s.sflHit t (bf w 25 21) sec (.bank k) e) n 0x00B 1
  refine exec_now (exec_issueN rfl ht) rfl hi (z := (s.sflHit t (bf w 25 21) sec (.bank k) e).cntN n 0x00B 1) ?_
    (.trans ?_ (hcnt.only t)) ?_ (Thread.setReg_tc _ _ _) hp
  · subst hsec
    simp only [Node.blocked, regSector, iRs1, iRd, hin, hres, Bool.or_self, Bool.false_eq_true, if_false, hpos, hfind]
  · rw [State.sflHit_bank]
    exact State.setHandle_setRd_only ..
  · rw [hcnt.thr, State.sflHit_bank]
    exact State.setHandle_setRd_thr ..

variable (hfind : s.bankFind n p = (.miss, s))
  (hmap : s.bit HA_OVF_CTRL 0 = true → smGet (fun _ => 0) (s.nd n).rmapSyn (s.region sec / 64) = 0)
include hfind hmap

omit ht hsec hi hrep hresv hev hp hpos hfind in
/-- The word of the region map that is read is intact. -/
theorem State.rmapCheck_read : (if s.bit HA_OVF_CTRL 0 = true then s.rmapCheck n (s.region sec / 64) else s) = s := by
  split
  · next hb =>
    have hgood : eccClass 64 (0 : BitVec 8).toNat = .good := rfl
    simp only [State.rmapCheck, hmap hb, hgood, reduceCtorEq, if_false, eccCe, Bool.false_eq_true]
  · rfl

/-- A miss in the bank without the region bit is a miss. -/
theorem execSfl_miss (hunk : unk = s.missWord n) (hhit : s.regionHit n sec = false) :
    ∃ u, exec (.sfl t w) s = .next u.goOn ∧ OnlyThread s u t ∧
      Now u t ({ s.thr t with handle := some (sec, .miss) }.setReg (bf w 25 21) unk) ((s.thr t).pc + 1) := by
  obtain ⟨hin, hres⟩ := Node.blocked_free hrep hresv hev (sec := sec)
  have hcnt := State.cntN_counted ((s.setHandle t (sec, .miss)).setRd t (bf w 25 21) unk) n 0x00D 1
  refine exec_now (exec_issueN rfl ht) rfl hi (z := s.sflMiss n t (bf w 25 21) sec) ?_ ?_ ?_ (Thread.setReg_tc _ _ _) hp
  · have hread := State.rmapCheck_read hmap
    subst hsec
    simp only [Node.blocked, regSector, iRs1, iRd, hin, hres, Bool.or_self, Bool.false_eq_true, if_false, hpos, hfind, hread, hhit]
  · rw [State.sflMiss, ← hunk]
    exact (State.setHandle_setRd_only ..).trans (hcnt.only t)
  · rw [State.sflMiss, ← hunk, hcnt.thr]
    exact State.setHandle_setRd_thr ..

/-- With the region bit the overflow set is read, and the thread waits for it. -/
theorem execSfl_reads (hhit : s.regionHit n sec = true) (hin : s.bmIn (s.ovfLine (s.ovfSet sec)) = true) {i : Nat} {y : State}
    (hbm : s.bmIssue (.sflOvf t) false (s.ovfLine (s.ovfSet sec)) 0 0 = some (i, y)) :
    ∃ u, exec (.sfl t w) s = .next u.goOn ∧ OnlyThread y u t ∧ (u.thr t).st = .stalled ∧ (u.thr t).pend = .ovf (bf w 25 21) sec ∧
      (u.thr t).g = (s.thr t).g ∧ (u.thr t).pc = (s.thr t).pc := by
  obtain ⟨hrepair, hres⟩ := Node.blocked_free hrep hresv hev (sec := sec)
  refine exec_waits (exec_issueN rfl ht) rfl hi ?_ (fun _ h => by cases h) (State.bmIssue_thr hbm t) hp.1
  have hread := State.rmapCheck_read hmap
  subst hsec
  simp only [Node.blocked, regSector, iRs1, iRd, hrepair, hres, Bool.or_self, Bool.false_eq_true, if_false, hpos, hfind, hread, hhit,
    if_true, hin, Bool.not_true, hbm]

end Sfl

/-! ### SFRD and SFSEC (R239) -/

/-- An intact way is read as it counts at the node. -/
theorem State.wayWord_good {s : State} {n : NodeId} {k : Nat} (h : (entCheck ((s.nd n).entry k)).1 = .good) (t : Thr) (rd : Nat)
    (f : Option Word → Word) :
    s.wayWord n t rd k f = .next (s.setRd t rd (f (some (entLive (s.nd n).cons ((s.nd n).entry k))))) := by
  simp [State.wayWord, State.readWay_good h, State.wayRead_good h]

/-- Settles O19: the search of the bank's group decides SFL; SFRD and SFSEC read one way. -/
theorem snoopFilterLookup : Obligations.SnoopFilterLookup := by
  unfold Obligations.SnoopFilterLookup
  rintro s n t w x v unk sec pc rd ht rfl rfl hsec rfl rfl hp hunk
  refine ⟨fun hi hrep hresv hev => ⟨fun p hpos hways hmap => ?_, execSfl_untracked ht hsec hi hrep hresv hev hp hunk⟩,
    fun hi hrep hres => execSfl_reserved ht hsec hi hrep hres, ?_⟩
  · have hintact : (s.nd n).Intact p := fun y hy => hways y hy _ rfl
    refine ⟨?_, fun hnone => ?_⟩
    · rintro y e hy rfl hv htag hone
      exact execSfl_hit ht hsec hi hrep hresv hev hp hpos (State.bankFind_hit hrep hresv hintact hy hv htag hone)
    · have hfind := State.bankFind_miss hrep hresv hintact hnone
      exact ⟨execSfl_miss ht hsec hi hrep hresv hev hp hpos hfind hmap hunk,
        fun i y hhit hin hbm => execSfl_reads ht hsec hi hrep hresv hev hp hpos hfind hmap hhit hin hbm⟩
  · rintro k e l rfl rfl hgood rfl
    refine ⟨fun hi => GivesOn.of_writes (exec_issueN rfl ht) rfl hi ?_ rfl hp, fun hi => GivesOn.of_writes (exec_issueN rfl ht) rfl hi ?_ rfl hp⟩
    · exact State.wayWord_good hgood t (bf w 25 21) _
    · exact State.wayWord_good hgood t (bf w 25 21) _

end Sys2Proof.Machine
end

section
/-! Updates of the snoop filter (R142, R147, R151, R155, R156, R239, R241). -/

namespace Sys2Proof.Machine

/-! ### SFA (R155, R156, R239) -/

section Sfa

variable {s : State} {n : NodeId} {p : BankPos} {sec k y : Nat}

/-- No way of an intact group is reserved, in repair or being evicted. -/
theorem Node.candWays_all {x : Node} (hrep : x.repairs = []) (hresv : x.resv = []) (hev : x.evicts = []) (set : Nat) (ways : List Nat) :
    x.candWays set ways = ways := by
  simp [Node.candWays, hrep, hresv, hev]

/-- Ways that count as they are stored: the first that is stored invalid is the free one. -/
theorem Node.freeWay_intact {x : Node} (h : x.Intact p) (hy : p.ways.find? (fun z => !entValid (x.entry (bankKey p.set z))) = some y) :
    x.freeWay p.set p.ways = some y := by
  have hlive : p.ways.find? (fun z => !entValid (entLive x.cons (x.entry (bankKey p.set z)))) = some y :=
    (List.find?_congr fun z hz => by rw [(h z hz).2]).trans hy
  simp only [Node.freeWay, hlive]

/-- A flow whose group has a free way reserves it. -/
theorem State.wayFor_free (hrep : (s.nd n).repairs = []) (hresv : (s.nd n).resv = []) (hev : (s.nd n).evicts = [])
    (hwait : (s.nd n).wayWait = []) (hpos : s.bankPos n sec = some p) (h : (s.nd n).Intact p)
    (hy : p.ways.find? (fun z => !entValid ((s.nd n).entry (bankKey p.set z))) = some y) :
    s.wayFor n k sec = (0, s.modNd n fun q => { q.setEntry (bankKey p.set y) 0 with resv := [(bankKey p.set y, k, sec)] }) := by
  have hne : p.ways ≠ [] := List.ne_nil_of_mem (List.mem_of_find?_eq_some hy)
  simp only [State.wayFor, hresv, hev, hwait, List.any_nil, Bool.or_self, Bool.false_eq_true, if_false, hpos,
    Node.candWays_all hrep hresv hev, hne, Node.freeWay_intact h hy]
  exact congrArg (Prod.mk 0) (State.modNd_congr (by rw [hresv]; rfl))

variable {t : Thr} {w : Reg32} (ht : t.core = .node n) (hsec : sec = bf ((s.thr t).reg (bf w 20 16)) 39 2) (hi : Issues s t .sfa w)
include ht hsec hi

/-- SFA of a sector that missed reserves a free way of its group and returns 0. -/
theorem execSfa_free (htrk : (s.thr t).trk = some k) (hh : (s.thr t).handle = some (sec, .miss)) (hp : Passes s t ((s.thr t).pc + 1))
    (hrep : (s.nd n).repairs = []) (hresv : (s.nd n).resv = []) (hev : (s.nd n).evicts = [])
    (hwait : (s.nd n).wayWait = []) (hpos : s.bankPos n sec = some p) (h : (s.nd n).Intact p)
    (hnone : ∀ z ∈ p.ways, entValid ((s.nd n).entry (bankKey p.set z)) = true → bf ((s.nd n).entry (bankKey p.set z)) 19 0 ≠ p.tag)
    (hy : p.ways.find? (fun z => !entValid ((s.nd n).entry (bankKey p.set z))) = some y) :
    GivesOn (.sfa t w) s (s.modNd n fun q => { q.setEntry (bankKey p.set y) 0 with resv := [(bankKey p.set y, k, sec)] }) t (bf w 25 21) 0
      ((s.thr t).pc + 1) := by
  refine GivesOn.of_writes (exec_issueN rfl ht) rfl hi ?_ (State.modNd_thr rfl t) hp
  obtain ⟨hin, hres⟩ := Node.blocked_free hrep hresv hev (sec := sec)
  have hst : sfaState (s.thr t) sec = none := by simp [sfaState, htrk, hh]
  subst hsec
  simp only [checks, regSector, iRs1, iRd, hst, htrk, hin, hres, Bool.and_false, Bool.or_self, Bool.false_eq_true, if_false, hpos,
    State.bankFind_miss hrep hresv h hnone, State.wayFor_free hrep hresv hev hwait hpos h hy]
  rfl

end Sfa

/-! ### Fields of a word -/

theorem bf_setBf_self {w : Nat} (v : BitVec w) {hi lo : Nat} (x : Nat) (hl : lo ≤ hi) (hw : hi < w) :
    bf (setBf v hi lo x) hi lo = x % 2 ^ (hi - lo + 1) := by
  refine Nat.eq_of_testBit_eq fun j => ?_
  rw [testBit_bf, getLsbD_setBf _ _ _ _ _ hl, Nat.testBit_mod_two_pow]
  by_cases hj : j < hi - lo + 1
  · rw [if_pos (by omega), decide_eq_true (show lo + j < w by omega), Nat.add_sub_cancel_left, Bool.true_and]
  · simp [hj]

theorem bf_setBf_other {w : Nat} (v : BitVec w) {hi lo a b : Nat} (x : Nat) (hl : lo ≤ hi) (hb : b ≤ a) (h : a < lo ∨ hi < b) :
    bf (setBf v hi lo x) a b = bf v a b := by
  refine Nat.eq_of_testBit_eq fun j => ?_
  rw [testBit_bf, testBit_bf, getLsbD_setBf _ _ _ _ _ hl]
  by_cases hj : j < a - b + 1
  · rw [if_neg (by omega)]
  · simp [hj]

theorem bt_setBf_other {w : Nat} (v : BitVec w) {hi lo j : Nat} (x : Nat) (hl : lo ≤ hi) (h : j < lo ∨ hi < j) :
    bt (setBf v hi lo x) j = bt v j := by
  have hbit := getLsbD_setBf v hi lo x j hl
  rwa [if_neg (by omega)] at hbit

/-! ### Fields of an entry (Table 5.3) -/

theorem entLs_setLs (e : Word) {n m : Nat} (x : Nat) (hn : n < 4) :
    entLs (entSetLs e n x) m = if m = n then x % 4 else entLs e m := by
  unfold entLs entSetLs
  split
  · next h =>
    have hwidth : 21 + 2 * n - (20 + 2 * n) + 1 = 2 := by omega
    rw [h, bf_setBf_self _ _ (by omega) (by omega), hwidth]
    rfl
  · next h => rw [bf_setBf_other _ _ (by omega) (by omega) (by omega)]

/-- A field outside the lines keeps them. -/
theorem entLs_setBf (e : Word) {hi lo n : Nat} (x : Nat) (hn : n < 4) (hl : lo ≤ hi) (h : hi < 20 ∨ 27 < lo) :
    entLs (setBf e hi lo x) n = entLs e n :=
  bf_setBf_other _ _ hl (by omega) (by omega)

theorem entLs_zero (n : Nat) : entLs 0 n = 0 := by simp [entLs, bf]

/-- A field that holds no LOSS bit keeps them. -/
theorem entLoss_setBf (e : Word) {hi lo : Nat} (x : Nat) (hl : lo ≤ hi) (h : hi < 48 ∨ 49 < lo ∧ hi < 54 ∨ 55 < lo) :
    entLoss (setBf e hi lo x) = entLoss e := by
  have hbit (n : Nat) (hn : n < 4) : bt (setBf e hi lo x) (lossPos n) = bt e (lossPos n) := by
    refine bt_setBf_other _ _ hl ?_
    unfold lossPos
    split <;> omega
  simp [entLoss, List.range_succ, hbit]

/-- The check that a sealed entry carries covers it. -/
theorem entCheck_seal (e : Word) : (entCheck (entSeal e)).1 = .good := by
  have hcheck : secdedCheck 56 (bf e 55 0) < 2 ^ 8 := by
    unfold secdedCheck
    refine List.foldlRecOn (motive := (· < 2 ^ 8)) _ _ (by decide) fun c hc q hq => ?_
    have hcol : q.2 < 2 ^ 8 := by
      have hmem : q.2 ∈ secdedL := (List.of_mem_zip hq).2
      simp only [secdedL, ofWeight, List.mem_append, List.mem_filter, List.mem_range] at hmem
      omega
    split
    · exact Nat.xor_lt_two_pow hc hcol
    · exact hc
  have hsyn : secdedCheck 56 (bf (entSeal e) 55 0) ^^^ bf (entSeal e) 63 56 = 0 := by
    rw [entSeal, bf_setBf_other _ _ (by decide) (by decide) (by decide), bf_setBf_self _ _ (by decide) (by decide),
      Nat.mod_eq_of_lt hcheck, Nat.xor_self]
  simp only [entCheck, hsyn]
  rfl

/-! ### Updates of an entry (R142, R147, R151, R241) -/

/-- An entry that holds a line and keeps none empty stands as it is. -/
theorem entClose_held {cons : Bool} {old e : Word} (hh : entHolds e = true) (hik : ∀ n < 4, entLs e n ≠ 3) : entClose cons old e = e := by
  have hfold : (List.range 4).foldl (fun e n => if entLs e n = 3 then entSetLs e n 0 else e) e = e := by
    simp [List.range_succ, hik]
  unfold entHolds at hh
  simp only [entClose, hfold, ite_self, hh, if_true]

/-- Outside conservative tracking an entry without a line and without a loss is written as zeros. -/
theorem entClose_empty {old e : Word} (hl : ∀ n < 4, entLs e n = 0) (hloss : entLoss e = false) : entClose false old e = 0 := by
  simp (disch := decide) [entClose, List.range_succ, hl, entLoss_setBf, hloss]

/-- The update word removes no host, takes no answers, writes no order and marks no loss. -/
def UpdPlain (u : Word) : Prop := bt u 13 = false ∧ bt u 14 = false ∧ bt u 15 = false ∧ bt u 26 = false

/-- Line `n` of an entry in the state that an update word names, if it names one. -/
def entTurn (cons : Bool) (u e : Word) (n : Nat) : Word :=
  if bt u n then entSetLs e n (if bf u (5 + 2 * n) (4 + 2 * n) = 3 ∧ cons = false then 0 else bf u (5 + 2 * n) (4 + 2 * n)) else e

variable {cons : Bool} {u e : Word} {ans : Option (Nat × Nat)}

/-- Without ADD the lines turn, and the entry is closed. -/
theorem entUpdate_plain (h : UpdPlain u) (hadd : bt u 12 = false) :
    entUpdate cons false ans u e = if entClose cons e ((List.range 4).foldl (entTurn cons u) e) = 0 then 0
      else setBf (entClose cons e ((List.range 4).foldl (entTurn cons u) e)) 53 52 0 := by
  obtain ⟨hrem, hexact, hord, hloss⟩ := h
  unfold entUpdate
  simp only [hrem, hexact, hord, hloss, hadd, Bool.false_and, Bool.false_eq_true, if_false]
  rfl

/-- ADD makes the host the only sharer of an entry that holds no line. -/
theorem entUpdate_plain_add (h : UpdPlain u) (hadd : bt u 12 = true) (hnone : entHolds e = false) :
    entUpdate cons false ans u e =
      if entClose cons e (entSetShr ((List.range 4).foldl (entTurn cons u) e) (0, bf u 25 16)) = 0 then 0
      else setBf (entClose cons e (entSetShr ((List.range 4).foldl (entTurn cons u) e) (0, bf u 25 16))) 53 52 0 := by
  obtain ⟨hrem, hexact, hord, hloss⟩ := h
  unfold entUpdate
  simp only [hrem, hexact, hord, hloss, hadd, hnone, Bool.false_and, Bool.false_eq_true, if_false, if_true]
  rfl

/-- The lines turn one after the other. -/
theorem foldl_entTurn : (List.range 4).foldl (entTurn cons u) e =
    entTurn cons u (entTurn cons u (entTurn cons u (entTurn cons u e 0) 1) 2) 3 := rfl

theorem entTurn_skip {n : Nat} (h : bt u n = false) : entTurn cons u e n = e := by
  rw [entTurn, h, if_neg Bool.false_ne_true]

theorem entTurn_set {n ls : Nat} (h : bt u n = true) (hto : bf u (5 + 2 * n) (4 + 2 * n) = ls) (hls : ls ≠ 3) :
    entTurn cons u e n = entSetLs e n ls := by
  rw [entTurn, if_pos h, hto, if_neg fun hc => hls hc.1]

/-- An update that names one line turns it alone. -/
theorem foldl_entTurn_one {i ls : Nat} (hi : i < 4) (hset : ∀ n < 4, bt u n = decide (n = i))
    (hto : bf u (5 + 2 * i) (4 + 2 * i) = ls) (hls : ls ≠ 3) : (List.range 4).foldl (entTurn cons u) e = entSetLs e i ls := by
  have hskip (n : Nat) (hn : n < 4) (hne : n ≠ i) (e : Word) : entTurn cons u e n = e :=
    entTurn_skip (by rw [hset n hn, decide_eq_false hne])
  have hturn (e : Word) : entTurn cons u e i = entSetLs e i ls := entTurn_set (by rw [hset i hi, decide_eq_true rfl]) hto hls
  rw [foldl_entTurn]
  obtain rfl | rfl | rfl | rfl : i = 0 ∨ i = 1 ∨ i = 2 ∨ i = 3 := by omega
  all_goals simp [hturn, hskip]

/-- A host that takes a line of an entry without one is its only sharer. -/
theorem entUpdate_add {i ls : Nat} (h : UpdPlain u) (hadd : bt u 12 = true) (hi : i < 4) (hls : ls = 1 ∨ ls = 2)
    (he : ∀ n < 4, entLs e n = 0) (hset : ∀ n < 4, bt u n = decide (n = i)) (hto : bf u (5 + 2 * i) (4 + 2 * i) = ls) :
    entUpdate cons false ans u e = setBf (entSetShr (entSetLs e i ls) (0, bf u 25 16)) 53 52 0 := by
  have hnone : entHolds e = false := by simp [entHolds, List.range_succ, he]
  have hlines (n : Nat) (hn : n < 4) : entLs (entSetShr (entSetLs e i ls) (0, bf u 25 16)) n = if n = i then ls else 0 := by
    simp only [entSetShr, entLs_setBf _ _ hn (by decide : 28 ≤ 47) (by decide), entLs_setBf _ _ hn (by decide : 50 ≤ 51) (by decide),
      entLs_setLs _ _ hi, he n hn, Nat.mod_eq_of_lt (by omega : ls < 4)]
  have hheld : entHolds (entSetShr (entSetLs e i ls) (0, bf u 25 16)) = true :=
    List.any_eq_true.mpr ⟨i, List.mem_range.mpr hi, by simpa [hlines i hi] using hls⟩
  have hne : entSetShr (entSetLs e i ls) (0, bf u 25 16) ≠ 0 := by
    intro h0
    have hzero : entHolds 0 = false := by decide
    rw [h0, hzero] at hheld
    exact Bool.false_ne_true hheld
  have hclose := entClose_held (cons := cons) (old := e) hheld fun n hn => by rw [hlines n hn]; split <;> omega
  rw [entUpdate_plain_add h hadd hnone, foldl_entTurn_one hi hset hto (by omega), hclose, if_neg hne]

/-- An update that turns every line to I, with nothing lost, ends the entry. -/
theorem entUpdate_clear (hloss : entLoss e = false) : entUpdate false false ans 15 e = 0 := by
  have hlines (n : Nat) (hn : n < 4) : entLs (entSetLs (entSetLs (entSetLs (entSetLs e 0 0) 1 0) 2 0) 3 0) n = 0 := by
    simp (disch := decide) only [entLs_setLs]
    split_ifs <;> omega
  have hclose := entClose_empty (old := e) hlines (by simp (disch := decide) only [entSetLs, entLoss_setBf, hloss])
  have hfold : (List.range 4).foldl (entTurn false 15) e = entSetLs (entSetLs (entSetLs (entSetLs e 0 0) 1 0) 2 0) 3 0 := rfl
  rw [entUpdate_plain ⟨rfl, rfl, rfl, rfl⟩ rfl, hfold, hclose, if_pos rfl]

/-! ### SFU (R156, R239, R241) -/

/-- An instruction that is legal in its state runs. -/
theorem checks_runs {w : Reg32} {ill : Bool} {st : Option Nat} {r : Res} (hill : ill = false) (hst : st = none) :
    checks w ill false none none st r = r := by
  rw [hill, hst]
  rfl

theorem checks_state {w : Reg32} {ill : Bool} {st : Option Nat} {r : Res} {i : Nat} (hill : ill = false) (hst : st = some i) :
    checks w ill false none none st r = .trap 11 (BitVec.ofNat 64 i) := by
  rw [hill, hst]
  rfl

/-- EVACUATE changes only a word that adds a host. -/
theorem State.modeWord_same {s : State} (n : NodeId) (k : Option Nat) (e : Word) {u : Word}
    (h : s.mode ≠ .evacuate ∨ bt u 12 = false) : s.modeWord n k e u = u := by
  unfold State.modeWord
  split
  · next hm =>
    obtain h | h := h
    · exact absurd hm h
    · rw [Trk.evacWord, h]
      rfl
  · rfl

/-- The update word is ILLEGAL: a reserved bit, or both ADD and REM (R239). -/
def sfuIll (u : Word) : Bool := decide (bf u 63 27 ≠ 0) || (bt u 12 && bt u 13)

theorem sfuIll_iff {u : Word} : sfuIll u = true ↔ bf u 63 27 ≠ 0 ∨ bf u 13 12 = 3 := by
  have hpair : (bt u 12 && bt u 13) = true ↔ bf u 13 12 = 3 := by
    simp only [bt, bf, Bool.and_eq_true, Nat.testBit_eq_decide_div_mod_eq, decide_eq_true_eq, Nat.shiftRight_eq_div_pow]
    omega
  rw [sfuIll, Bool.or_eq_true, decide_eq_true_eq, hpair]

/-- The entry that an SFU writes. -/
def sfuSeal (e : Word) : Word := if e = 0 then 0 else entSeal e

theorem sfuSeal_zero : sfuSeal 0 = 0 := rfl

section Sfu

variable {s : State} {n : NodeId} {t : Thr} {w : Reg32} {sec k j : Nat} {u : Word} (ht : t.core = .node n)
  (hsec : sec = bf ((s.thr t).reg (bf w 20 16)) 39 2) (hu : u = (s.thr t).reg (bf w 15 11)) (hi : Issues s t .sfu w)
  (htrk : (s.thr t).trk = some k)
include ht hsec hu hi htrk

omit hsec htrk in
theorem execSfu_illegal (hill : sfuIll u = true) (hm : MayTrap s t 1) :
    ∃ y, exec (.sfu t w) s = .next y.goOn ∧ Traps s y t 1 (w.setWidth 64) (s.thr t).pc := by
  refine State.issue_traps (exec_issueN rfl ht) rfl hi ?_ hm
  subst hu
  exact if_pos hill

/-- A word with something to record needs a way. -/
theorem execSfu_noWay (hill : sfuIll u = false) (hh : (s.thr t).handle = none) (hres : ∀ r ∈ (s.nd n).resv, r.2.1 ≠ k)
    (hmode : s.mode ≠ .evacuate) (hrec : bt u 12 = true ∨ bt u 26 = true) (hm : MayTrap s t 11) :
    ∃ y, exec (.sfu t w) s = .next y.goOn ∧ Traps s y t 11 7 (s.thr t).pc := by
  have hfind : (s.nd n).resv.find? (fun r => r.2.1 == k) = none := List.find?_eq_none.mpr fun r hr => by simpa using hres r hr
  have hplace : s.sfuPlace n (s.thr t) sec = none := by simp [State.sfuPlace, htrk, hh, hfind]
  have hempty : sfuEmpty (s.nd n).cons u = false := by
    obtain h | h := hrec <;> simp [sfuEmpty, h]
  refine State.issue_traps (exec_issueN rfl ht) rfl hi ?_ hm
  subst hu hsec
  refine checks_state hill ?_
  simp only [regSector, iRs1, iRs2, hplace, htrk, State.modeWord_same n _ 0 (.inl hmode), hempty, hh]
  rfl

variable (hp : Passes s t ((s.thr t).pc + 1)) (hill : sfuIll u = false)
include hp hill

/-- A way lost to repair takes no update. -/
theorem execSfu_lost (hh : (s.thr t).handle = some (sec, .lost)) : GivesOn (.sfu t w) s s t (bf w 25 21) 1 ((s.thr t).pc + 1) := by
  refine GivesOn.of_writes (exec_issueN rfl ht) rfl hi ?_ rfl hp
  subst hu hsec
  refine (checks_runs hill ?_).trans ?_
  · simp [regSector, iRs1, htrk, hh]
  · simp [regSector, iRs1, iRd, hh]

/-- An update of a bank way that is read intact, by a flow that is no write and has no loss to count. -/
theorem execSfu_bank {tag : Option Nat} {e e2 : Word} (hrep : (s.nd n).repairs = []) (hh : (s.thr t).handle ≠ some (sec, .lost))
    (hplace : s.sfuPlace n (s.thr t) sec = some (.bank j, tag)) (hread : s.sfuRead n (.bank j, tag) = (.hit j e, s))
    (hwr : ((s.nd n).trkAt k).isWr = false) (hwb : ((s.nd n).trkAt k).wbSeen = false) (hcnt : bt ((s.nd n).trkAt k).w3 13 = false)
    (hmode : s.mode ≠ .evacuate ∨ bt u 12 = false)
    (hupd : ∀ ans, entUpdate (s.nd n).cons false ans u e = e2) :
    GivesOn (.sfu t w) s (s.modNd n fun q => { q.setEntry j (sfuSeal e2) with resv := q.resv.filter fun r => r.2.1 != k }) t (bf w 25 21) 0
      ((s.thr t).pc + 1) := by
  have hin : (s.nd n).inRepair sec = false := by rw [Node.inRepair, hrep]; rfl
  have hlost (e2 : Word) : s.countLost ((s.nd n).trkAt k) e e2 = s := by simp [State.countLost, hcnt]
  refine GivesOn.of_writes (exec_issueN rfl ht) rfl hi ?_ (State.modNd_thr rfl t) hp
  subst hu hsec
  refine (checks_runs hill ?_).trans ?_
  · simp [regSector, iRs1, htrk, hplace]
  · simp only [regSector, iRs1, iRs2, iRd, htrk, hplace, hread, hin, hwr, hwb, beq_eq_false_iff_ne.mpr hh,
      State.modeWord_same n _ e hmode, hupd, hlost, Bool.or_self, Bool.false_eq_true, if_false, State.modNd_modNd]
    rfl

end Sfu

/-! ### The words of an added host and of four lines given up (Table 7.12b) -/

/-- A word below 2^64 and its fields. -/
theorem bf_ofNat {x : Nat} (hx : x < 2 ^ 64) (hi lo : Nat) : bf (BitVec.ofNat 64 x) hi lo = x / 2 ^ lo % 2 ^ (hi - lo + 1) := by
  rw [bf, BitVec.toNat_ofNat, Nat.mod_eq_of_lt hx, Nat.shiftRight_eq_div_pow]

theorem bt_ofNat {x : Nat} (hx : x < 2 ^ 64) (i : Nat) : bt (BitVec.ofNat 64 x) i = decide (x / 2 ^ i % 2 = 1) := by
  rw [bt, BitVec.toNat_ofNat, Nat.mod_eq_of_lt hx, Nat.testBit_eq_decide_div_mod_eq]

/-- The update word that adds host `h` with line `i` in state `ls`. -/
def addWord (i ls h : Nat) : Nat := 2 ^ i + ls * 2 ^ (4 + 2 * i) + 2 ^ 12 + h * 2 ^ 16

/-- A field below a multiple of a power of two does not see it. -/
theorem add_mul_field (x m : Nat) {a lo c : Nat} (h : lo + c ≤ a) : (x + 2 ^ a * m) / 2 ^ lo % 2 ^ c = x / 2 ^ lo % 2 ^ c := by
  obtain ⟨d, rfl⟩ := Nat.exists_eq_add_of_le h
  rw [Nat.pow_add, Nat.pow_add, Nat.mul_assoc, Nat.mul_assoc, Nat.add_mul_div_left _ _ (Nat.two_pow_pos lo), Nat.add_mul_mod_self_left]

section AddWord

variable {i ls h : Nat} (hi : i < 4) (hls : ls = 1 ∨ ls = 2)

/-- Above its lines the word is ADD and the host. -/
theorem addWord_high : addWord i ls h = (2 ^ i + ls * 2 ^ (4 + 2 * i)) + 2 ^ 12 * (1 + 2 ^ 4 * h) := by
  rw [addWord]
  ring

include hi hls

theorem addWord_low : 2 ^ i + ls * 2 ^ (4 + 2 * i) < 2 ^ 12 := by
  have hlow : ∀ i < 4, ∀ ls < 3, 2 ^ i + ls * 2 ^ (4 + 2 * i) < 2 ^ 12 := by decide
  exact hlow i hi ls (by omega)

variable (hh : h < 1024)
include hh

theorem addWord_lt : addWord i ls h < 2 ^ 64 := by
  have hlow := addWord_low hi hls
  rw [addWord_high]
  omega

/-- The word adds its host and does nothing else. -/
theorem addWord_control : UpdPlain (BitVec.ofNat 64 (addWord i ls h)) ∧ bt (BitVec.ofNat 64 (addWord i ls h)) 12 = true ∧
    bf (BitVec.ofNat 64 (addWord i ls h)) 25 16 = h ∧ bf (BitVec.ofNat 64 (addWord i ls h)) 63 27 = 0 := by
  have hlow := addWord_low hi hls
  have h64 := addWord_lt hi hls hh
  rw [addWord_high] at h64 ⊢
  generalize 2 ^ i + ls * 2 ^ (4 + 2 * i) = x at hlow h64 ⊢
  simp only [UpdPlain, bt_ofNat h64, bf_ofNat h64, decide_eq_false_iff_not, decide_eq_true_eq]
  omega

/-- The word names line `i` alone, in state `ls`. -/
theorem addWord_line : (∀ n < 4, bt (BitVec.ofNat 64 (addWord i ls h)) n = decide (n = i)) ∧
    bf (BitVec.ofNat 64 (addWord i ls h)) (5 + 2 * i) (4 + 2 * i) = ls := by
  have h64 := addWord_lt hi hls hh
  have hset : ∀ i < 4, ∀ ls < 3, ∀ n < 4, (2 ^ i + ls * 2 ^ (4 + 2 * i)) / 2 ^ n % 2 ^ 1 = 1 ↔ n = i := by decide
  have hto : ∀ i < 4, ∀ ls < 3, (2 ^ i + ls * 2 ^ (4 + 2 * i)) / 2 ^ (4 + 2 * i) % 2 ^ 2 = ls := by decide
  have hwidth : 5 + 2 * i - (4 + 2 * i) + 1 = 2 := by omega
  constructor
  · intro n hn
    have hbit := add_mul_field (2 ^ i + ls * 2 ^ (4 + 2 * i)) (1 + 2 ^ 4 * h) (a := 12) (lo := n) (c := 1) (by omega)
    rw [bt_ofNat h64, addWord_high, decide_eq_decide, ← hset i hi ls (by omega) n hn, ← hbit]
    rfl
  · rw [bf_ofNat h64, addWord_high, hwidth, add_mul_field _ _ (by omega), hto i hi ls (by omega)]

end AddWord

/-- The entry of a way that `h` takes with line `i`. -/
def addEntry (tag i ls h : Nat) : Word := setBf (entSetShr (entSetLs (setBf 0 19 0 tag) i ls) (0, h)) 53 52 0

section AddEntry

variable {tag i ls h : Nat} (hi : i < 4)

/-- A field that the sharers, the order and the check leave alone. -/
theorem bf_sealAdd {a b : Nat} (hb : b ≤ a) (ha : a < 28) :
    bf (entSeal (addEntry tag i ls h)) a b = bf (entSetLs (setBf 0 19 0 tag) i ls) a b := by
  simp (disch := omega) only [entSeal, addEntry, entSetShr, bf_setBf_other]

include hi

theorem entLs_sealAdd (hls : ls = 1 ∨ ls = 2) {m : Nat} (hm : m < 4) :
    entLs (entSeal (addEntry tag i ls h)) m = if m = i then ls else 0 := by
  rw [entLs, bf_sealAdd (by omega) (by omega), ← entLs, entLs_setLs _ _ hi, entLs_setBf _ _ hm (by decide) (by decide), entLs_zero,
    Nat.mod_eq_of_lt (by omega)]

theorem tag_sealAdd (htag : tag < 2 ^ 20) : bf (entSeal (addEntry tag i ls h)) 19 0 = tag := by
  rw [bf_sealAdd (by decide) (by decide), entSetLs, bf_setBf_other _ _ (by omega) (by decide) (by omega),
    bf_setBf_self _ _ (by decide) (by decide), Nat.mod_eq_of_lt htag]

omit hi in
theorem sharer_sealAdd (hh : h < 1024) : entSel (entSeal (addEntry tag i ls h)) = 0 ∧ entShr (entSeal (addEntry tag i ls h)) = h := by
  constructor
  · simp (disch := decide) only [entSel, entSeal, addEntry, entSetShr, bf_setBf_other, bf_setBf_self, Nat.zero_mod]
  · simp (disch := decide) only [entShr, entSeal, addEntry, entSetShr, bf_setBf_other, bf_setBf_self]
    exact Nat.mod_eq_of_lt (hh.trans (by decide))

theorem entLoss_sealAdd : entLoss (entSeal (addEntry tag i ls h)) = false := by
  have hzero : entLoss 0 = false := by decide
  simp (disch := omega) only [entSeal, addEntry, entSetShr, entSetLs, entLoss_setBf, hzero]

/-- A line is held, so the entry is not written as zeros. -/
theorem sfuSeal_add (hls : ls = 1 ∨ ls = 2) : sfuSeal (addEntry tag i ls h) = entSeal (addEntry tag i ls h) := by
  refine if_neg fun hz => ?_
  have hline := entLs_sealAdd (tag := tag) (h := h) hi hls hi
  have hzero : entLs (entSeal 0) i = 0 := by rw [entSeal, entLs_setBf _ _ hi (by decide) (by decide), entLs_zero]
  rw [hz, hzero, if_pos rfl] at hline
  omega

end AddEntry

section SfuWays

variable {s : State} {n : NodeId} {t : Thr} {w : Reg32} {sec k j : Nat} {u : Word} {p : BankPos} (ht : t.core = .node n)
  (hsec : sec = bf ((s.thr t).reg (bf w 20 16)) 39 2) (hu : u = (s.thr t).reg (bf w 15 11)) (hi : Issues s t .sfu w)
  (htrk : (s.thr t).trk = some k) (hp : Passes s t ((s.thr t).pc + 1)) (hpos : s.bankPos n sec = some p) (hrep : (s.nd n).repairs = [])
  (hwr : ((s.nd n).trkAt k).isWr = false) (hwb : ((s.nd n).trkAt k).wbSeen = false) (hcnt : bt ((s.nd n).trkAt k).w3 13 = false)
  (hgood : (entCheck ((s.nd n).entry j)).1 = .good)
include ht hsec hu hi htrk hp hpos hrep hwr hwb hcnt hgood

/-- Through the reserved way a host is added, and the reservation ends. -/
theorem execSfu_add {i ls h : Nat} (hh : (s.thr t).handle = some (sec, .miss)) (hresv : (s.nd n).resv = [(j, k, sec)])
    (hzero : (s.nd n).entry j = 0) (hmode : s.mode ≠ .evacuate) (hi4 : i < 4) (hls : ls = 1 ∨ ls = 2) (hlt : h < 1024)
    (hadd : u = BitVec.ofNat 64 (addWord i ls h)) :
    GivesOn (.sfu t w) s (s.modNd n fun q => { q.setEntry j (entSeal (addEntry p.tag i ls h)) with resv := [] }) t (bf w 25 21) 0
      ((s.thr t).pc + 1) := by
  have hplace : s.sfuPlace n (s.thr t) sec = some (.bank j, some p.tag) := by simp [State.sfuPlace, hh, htrk, hresv, hpos]
  have hread : s.sfuRead n (.bank j, some p.tag) = (.hit j (setBf 0 19 0 p.tag), s) := by
    simp [State.sfuRead, State.wayRead_good hgood, hzero]
  have hnone (m : Nat) (hm : m < 4) : entLs (setBf 0 19 0 p.tag) m = 0 := by
    rw [entLs_setBf _ _ hm (by decide) (by decide), entLs_zero]
  obtain ⟨hplain, hbit, hhost, hhigh⟩ := addWord_control hi4 hls hlt
  obtain ⟨hset, hto⟩ := addWord_line hi4 hls hlt
  rw [← hadd] at hplain hbit hhost hhigh hset hto
  have hill : sfuIll u = false := by simp [sfuIll, hhigh, hplain.1]
  have hupd (ans : Option (Nat × Nat)) : entUpdate (s.nd n).cons false ans u (setBf 0 19 0 p.tag) = addEntry p.tag i ls h := by
    rw [entUpdate_add hplain hbit hi4 hls hnone hset hto, hhost, addEntry]
  have hgives := execSfu_bank ht hsec hu hi htrk hp hill hrep (by simp [hh]) hplace hread hwr hwb hcnt (.inl hmode) hupd
  have hdone : (s.nd n).resv.filter (fun r => r.2.1 != k) = [] := by simp [hresv]
  rw [sfuSeal_add hi4 hls] at hgives
  exact (congrArg (GivesOn (.sfu t w) s · t _ 0 _) (State.modNd_congr (by simp only [hdone]))).mp hgives

omit hpos in
/-- Through the handle the four lines are given up, and the way is written as zeros. -/
theorem execSfu_clear (hh : (s.thr t).handle = some (sec, .bank j)) (hcons : (s.nd n).cons = false)
    (hloss : entLoss ((s.nd n).entry j) = false) (hclear : u = 15) :
    GivesOn (.sfu t w) s (s.modNd n fun q => { q.setEntry j 0 with resv := q.resv.filter fun r => r.2.1 != k }) t (bf w 25 21) 0
      ((s.thr t).pc + 1) := by
  have hplace : s.sfuPlace n (s.thr t) sec = some (.bank j, none) := by simp [State.sfuPlace, hh]
  have hread : s.sfuRead n (.bank j, none) = (.hit j ((s.nd n).entry j), s) := by simp [State.sfuRead, State.wayRead_good hgood]
  have hupd (ans : Option (Nat × Nat)) : entUpdate (s.nd n).cons false ans u ((s.nd n).entry j) = 0 := by
    rw [hcons, hclear, entUpdate_clear hloss]
  have hill : sfuIll u = false := hclear ▸ rfl
  have hnoAdd : bt u 12 = false := hclear ▸ rfl
  have hgives := execSfu_bank ht hsec hu hi htrk hp hill hrep (by simp [hh]) hplace hread hwr hwb hcnt (.inr hnoAdd) hupd
  rwa [sfuSeal_zero] at hgives

end SfuWays

/-- Settles O20: SFA takes the free way of an intact group; SFU writes the way that its handle or its reservation names. -/
theorem snoopFilterUpdate : Obligations.SnoopFilterUpdate := by
  unfold Obligations.SnoopFilterUpdate
  rintro s n t w x v sec k pc rd p ht rfl hsec hv rfl rfl htrk hp hpos hrep
  have hlegal (hres : bf v 63 27 = 0) (hpair : bf v 13 12 ≠ 3) : sfuIll v = false :=
    Bool.eq_false_iff.mpr fun hc => (sfuIll_iff.mp hc).elim (· hres) hpair
  refine ⟨fun y hi hh hresv hev hwait hways hy => ?_, fun j hi hwr hwb hcnt hgood => ⟨?_, fun hh hcons hloss hu => ?_⟩,
    fun hi hh hres hpair => execSfu_lost ht hsec hv hi htrk hp (hlegal hres hpair) hh,
    fun hi hill hm => execSfu_illegal ht hv hi (sfuIll_iff.mpr hill) hm,
    fun hi hh hresv hres hpair hmode hrec hm => ?_⟩
  · have hintact : (s.nd n).Intact p := fun z hz => (hways z hz _ rfl).imp_right And.left
    exact execSfa_free ht hsec hi htrk hh hp hrep hresv hev hwait hpos hintact (fun z hz => (hways z hz _ rfl).2.2) hy
  · rintro h ls i u hh hresv hzero hmode hlt hls hi4 hadd rfl
    have htag : p.tag < 2 ^ 20 := (State.bankPos_some.mp hpos).2 ▸ Nat.mod_lt _ (Nat.two_pow_pos 20)
    have hgives := execSfu_add ht hsec hv hi htrk hp hpos hrep hwr hwb hcnt hgood hh hresv hzero hmode hi4 hls hlt hadd
    exact ⟨entSeal (addEntry p.tag i ls h), hgives,
      fun m hm => entLs_sealAdd hi4 hls hm, tag_sealAdd hi4 htag, (sharer_sealAdd hlt).1, (sharer_sealAdd hlt).2, entLoss_sealAdd hi4,
      entCheck_seal _⟩
  · exact execSfu_clear ht hsec hv hi htrk hp hrep hwr hwb hcnt hgood hh hcons hloss hu
  · have hbit (i : Nat) : bf v i i = 1 → bt v i = true := by simp [bf, bt, Nat.testBit, Nat.one_and_eq_mod_two]
    exact execSfu_noWay ht hsec hv hi htrk (hlegal hres hpair) hh hresv hmode (hrec.imp (hbit 12) (hbit 26)) hm

end Sys2Proof.Machine
end

section
/-! The end of a translation walk, admission at the home node, RETRY and GRANT, and the answer of a sinking node (R189, R192, R193, R195,
R197, R308, R311, R358, R363). -/

namespace Sys2Proof.Machine

/-! ### The end of a walk (R308, R311) -/

section Walk

variable {s : State} {p : HpId} {i : Nat} {e : LedEnt} (hl : (s.hpAt p).led i = some e) (hst : e.st = .walk) {err : BmErr}
include hl hst

theorem State.walkDone_ok {y : Xlat} (hw : s.walk (hdrCtx e.hdr) (cidxOf (hdrCaddr e.hdr)) err = .ok y) :
    s.walkDone p i err = ((((s.bmErrs err).cntB 0x107 (s.walkLines (hdrCtx e.hdr) (cidxOf (hdrCaddr e.hdr)))).xlateFill p
      (hdrCtx e.hdr) (cidxOf (hdrCaddr e.hdr)) y).xlated p i y).unblock p := by
  simp only [State.walkDone, hl, hst, hw, ne_eq, not_true_eq_false, if_false]

theorem State.walkDone_failed {w : Walk} (hw : s.walk (hdrCtx e.hdr) (cidxOf (hdrCaddr e.hdr)) err = w) (hfail : ∀ y, w ≠ .ok y) :
    s.walkDone p i err = (((s.walkErrs w).cntB 0x107 (s.walkLines (hdrCtx e.hdr) (cidxOf (hdrCaddr e.hdr)))).answerErr p i 2 0).unblock p := by
  simp only [State.walkDone, hl, hst, hw, ne_eq, not_true_eq_false, if_false]

end Walk

/-! ### Admission (R189, R192, R195, R197) -/

section Admission

variable {s : State} {p : HpId} {n : NodeId} {i : Nat} {e : LedEnt} (hl : (s.hpAt p).led i = some e) (hst : e.st = .sent n)
  (hlive : s.live n = true) (hsunk : s.sunk n = false) (hold : s.olderSent p n e = false)
include hl hst hlive hsunk hold

/-- A BI_CONFLICT waits at its port for the acknowledgement. -/
theorem State.admission_conflict (ho : hdrOpc e.hdr = 5) : s.admission n p i = ((s.takeReq p n).setHp p { (s.takeReq p n).hpAt p with
    bicAcks := ((s.takeReq p n).hpAt p).bicAcks ++ [{
      host := hdrHost e.hdr, tag := hdrTag e.hdr, pla := e.pla, devload := BitVec.ofNat 2 ((s.takeReq p n).devload n p e.cls.toNat) }] }).setLedSt
    p i fun e => { e with st := .home } := by
  simp [State.admission, hl, hst, hlive, hsunk, hold, ho]

section WriteBack

variable (ho : hdrOpc e.hdr = 0x18 ∨ hdrOpc e.hdr = 0x19) (hwb : (s.takeReq p n).isWriteBack n (hdrHost e.hdr) e.pla = true)
include ho hwb

theorem State.admission_writeBack {k : Nat} {u : State} (htake : (s.takeReq p n).takeTrk n 1 { mkTrk p i e with replay := false } = some (k, u)) :
    s.admission n p i = (u.setLedSt p i fun e => { e with st := .home }).startWb n k := by
  have hne : hdrOpc e.hdr ≠ 5 := by omega
  simp [State.admission, hl, hst, hlive, hsunk, hold, hne, ho, hwb, htake]

theorem State.admission_writeBack_full (htake : (s.takeReq p n).takeTrk n 1 { mkTrk p i e with replay := false } = none) :
    s.admission n p i = ((s.takeReq p n).seeWb n e.pla).answerRetry n p i true := by
  have hne : hdrOpc e.hdr ≠ 5 := by omega
  simp [State.admission, hl, hst, hlive, hsunk, hold, hne, ho, hwb, htake]

end WriteBack

section Request

variable (ho : hdrOpc e.hdr ≠ 5)
  (hwb : ¬((hdrOpc e.hdr = 0x18 ∨ hdrOpc e.hdr = 0x19) ∧ (s.takeReq p n).isWriteBack n (hdrHost e.hdr) e.pla = true))
  (hrep : e.replay = false)
include ho hwb hrep

theorem State.admission_request {k : Nat} {u : State} (hpend : (s.takeReq p n).bit (ndA n ND_TRK_PEND) (retryBit p false) = false)
    (htake : (s.takeReq p n).takeTrk n 0 (mkTrk p i e) = some (k, u)) :
    s.admission n p i = (u.setLedSt p i fun e => { e with st := .home }).startFlow n k := by
  simp [State.admission, hl, hst, hlive, hsunk, hold, ho, hwb, hrep, hpend, htake]

/-- With requests of the port held for the node, or with no tracker, the answer is RETRY. -/
theorem State.admission_full (h : (s.takeReq p n).bit (ndA n ND_TRK_PEND) (retryBit p false) = true ∨
    (s.takeReq p n).takeTrk n 0 (mkTrk p i e) = none) : s.admission n p i = (s.takeReq p n).answerRetry n p i false := by
  obtain h | h := h
  · simp [State.admission, hl, hst, hlive, hsunk, hold, ho, hwb, hrep, h]
  · simp [State.admission, hl, hst, hlive, hsunk, hold, ho, hwb, hrep, h]

end Request

end Admission

/-! ### RETRY (R192) -/

section Retry

variable {s : State} {p : HpId} {n : NodeId}

/-- The only response of a node is the next to arrive at its port, once its router lets it pass. -/
theorem State.rspTo_single {j : Option Nat} {b : Bool} (hout : (s.nd n).rspOut = [(p, j, b)]) (hvalid : s.rspValid n (p, j, b) = true)
    (hpass : b = true → s.withheld n.val = false) : s.rspTo n p = [(p, j, b)] := by
  have hgo : (b && s.withheld n.val) = false := by
    cases b with
    | false => rfl
    | true => exact hpass rfl
  rw [State.rspTo, hout, List.filter_cons_of_pos (by simp [hvalid]), List.takeWhile_cons_of_pos (by simp only [hgo]; rfl)]
  rfl

theorem State.rspTook_single {j : Option Nat} {b : Bool} (hout : (s.nd n).rspOut = [(p, j, b)]) :
    s.rspTook n p j = s.modNd n fun y => { y with rspOut := [] } :=
  State.modNd_congr (by simp [hout])

theorem State.rspTo_nil (hout : (s.nd n).rspOut = []) : s.rspTo n p = [] := by simp [State.rspTo, hout]

theorem State.retryIn_none {i : Nat} (h : s.rspTo n p = []) : s.retryIn p n i = s := by
  unfold State.retryIn
  dsimp only
  split
  · rfl
  · split
    · rw [h, if_pos (.inr (by simp))]
    · rfl

theorem State.retryIn_holds {i : Nat} {e : LedEnt} {wb b : Bool} (hl : (s.hpAt p).led i = some e) (hst : e.st = .retried n wb)
    (hretry : (n, i) ∉ (s.hpAt p).retry) (hwbRetry : (n, i) ∉ (s.hpAt p).wbRetry) (hout : (s.nd n).rspOut = [(p, some i, b)])
    (hpass : b = true → s.withheld n.val = false) :
    s.retryIn p n i = (s.modNd n fun y => { y with rspOut := [] }).setHp p (if wb then
      { s.hpAt p with wbRetry := (s.hpAt p).hold (n, i) (s.hpAt p).wbRetry } else
      { s.hpAt p with retry := (s.hpAt p).hold (n, i) (s.hpAt p).retry }) := by
  have hvalid : s.rspValid n (p, some i, b) = true := by
    cases wb <;> simp [State.rspValid, hl, hst, hretry, hwbRetry]
  have hshell : (s.modNd n fun y => { y with rspOut := [] }).hpAt p = s.hpAt p := rfl
  simp only [State.retryIn, State.rspTook_single hout, hshell, hl, hst, State.rspTo_single hout hvalid hpass]
  cases wb <;> simp

end Retry

/-! ### GRANT (R193) -/

section Grant

variable {s : State} {p : HpId} {n : NodeId}

theorem State.grantIn_none (h : ∀ k ∈ (s.nd n).kept, k.2.1 ≠ p) : s.grantIn p n = s := by
  have hfind : ((s.nd n).kept.find? fun k => k.2.1 == p && ((s.rspTo n p).head?.map (·.2.1)) == some none) = none :=
    List.find?_eq_none.mpr fun k hk => by simp [h k hk]
  rw [State.grantIn, hfind]

/-- The held entries that a GRANT for requests, or for write-backs, may serve. -/
def HpShell.heldFor (x : HpShell) (wb : Bool) : List (NodeId × Nat) := if wb then x.wbRetry else x.retry

/-- The only GRANT of a node has arrived, and its tracker is kept no longer. -/
def State.grantTaken (s : State) (n : NodeId) : State :=
  (s.modNd n fun y => { y with rspOut := [] }).modNd n fun y => { y with kept := [] }

/-- A GRANT that arrived waits at its port: its router withholds, a quench holds the entry back, or no credit is left. -/
def State.grantWaits (s : State) (p : HpId) (n : NodeId) (wb replay : Bool) : Bool :=
  s.withheld (2 * p.val) || (!wb && !replay && s.quenchHolds n) || !s.reqCredit p n

variable {k i : Nat} {wb b : Bool} (hkept : (s.nd n).kept = [(k, p, wb)]) (hout : (s.nd n).rspOut = [(p, none, b)])
  (hpass : b = true → s.withheld n.val = false)
include hkept hout hpass

theorem State.grantIn_find : ((s.nd n).kept.find? fun k => k.2.1 == p && ((s.rspTo n p).head?.map (·.2.1)) == some none) =
    some (k, p, wb) := by
  have hvalid : s.rspValid n (p, none, b) = true := by simp [State.rspValid, hkept]
  simp [hkept, State.rspTo_single hout hvalid hpass]

omit hpass in
theorem State.grantTaken_eq : (s.rspTook n p none).modNd n (fun y => { y with kept := y.kept.filter fun j => j.1 != k }) =
    s.grantTaken n := by
  rw [State.rspTook_single hout]
  exact State.modNd_congr (by simp [hkept])

/-- A GRANT that finds no held entry of its node passes the tracker on. -/
theorem State.grantIn_unused (h : ∀ r ∈ (s.hpAt p).heldFor wb, r.1 ≠ n) :
    s.grantIn p n = ((s.grantTaken n).modNd n fun y => y.setTrk k {}).offer n k ((s.nd n).trkAt k).pool := by
  have hfind : ((s.hpAt p).heldFor wb).find? (fun r => r.1 == n) = none := List.find?_eq_none.mpr fun r hr => by simpa using h r hr
  simp only [HpShell.heldFor] at hfind
  simp only [State.grantIn, State.grantIn_find hkept hout hpass, hfind, State.grantTaken_eq hkept hout]

variable {e : LedEnt} (hl : (s.hpAt p).led i = some e) (hheld : (s.hpAt p).heldFor wb = [(n, i)])
include hl hheld

theorem State.grantIn_waits (h : s.grantWaits p n wb e.replay = true) : s.grantIn p n = s := by
  have hfind : ((s.hpAt p).heldFor wb).find? (fun r => r.1 == n) = some (n, i) := by simp [hheld]
  simp only [HpShell.heldFor] at hfind
  rw [State.grantWaits] at h
  simp only [State.grantIn, State.grantIn_find hkept hout hpass, hfind, hl, h, if_true]

theorem State.grantIn_sends (h : s.grantWaits p n wb e.replay = false) (hsurv : s.survSyn = []) {u : State}
    (hu : u = (((s.grantTaken n).takeReq p n).setHp p { s.hpAt p with
      retry := (s.hpAt p).retry.filter fun r => r != (n, i), wbRetry := (s.hpAt p).wbRetry.filter fun r => r != (n, i) }).intoKept n k p i wb)
    (hlast : (u.hpAt p).holds n wb = false) :
    s.grantIn p n = u.setFld (ndA n ND_TRK_PEND) (retryBit p wb) (retryBit p wb) 0 := by
  have hfind : ((s.hpAt p).heldFor wb).find? (fun r => r.1 == n) = some (n, i) := by simp [hheld]
  simp only [HpShell.heldFor] at hfind
  rw [State.grantWaits] at h
  simp only [State.grantIn, State.grantIn_find hkept hout hpass, hfind, hl, h, State.survThen_clean hsurv, State.grantTaken_eq hkept hout,
    ← hu, hlast]
  rfl

end Grant

theorem State.grantWaits_iff {s : State} {p : HpId} {n : NodeId} {wb replay : Bool} : s.grantWaits p n wb replay = true ↔
    s.withheld (2 * p.val) = true ∨ wb = false ∧ replay = false ∧ s.quenches n = true ∧ s.mode ≠ .flush ∨ s.reqCredit p n = false := by
  simp [State.grantWaits, State.quenchHolds, or_assoc, and_assoc]

/-! ### A sinking node (R363) -/

theorem State.sink_absorbs {s : State} {p : HpId} {n : NodeId} {i : Nat} {e : LedEnt} (hl : (s.hpAt p).led i = some e)
    (hst : e.st = .sent n) (hsunk : s.sunk n = true) :
    s.sink n p i = (((s.takeReq p n).raise HA_FAB_ERR 5).cntB 0x10B 1).answerErr p i 3 0 := by
  simp [State.sink, hl, hst, hsunk]

/-! ### The rows -/

section Rows

variable (s : State) (p : HpId) (n : NodeId) (idx : Fin 2048)

theorem exec_translationWalkDone (err : BmErr) : exec (.translationWalkDone p idx err) s = .next (s.walkDone p idx.val err) := rfl
theorem exec_admission : exec (.admission n p idx) s = .next (s.admission n p idx.val).goOn := rfl
theorem exec_retry : exec (.retry p n idx) s = .next (s.retryIn p n idx.val).goOn := rfl
theorem exec_grant : exec (.grant p n) s = .next (s.grantIn p n).goOn := rfl
theorem exec_sinkAbsorb : exec (.sinkAbsorb n p idx) s = .next (s.sink n p idx.val).goOn := rfl

end Rows

/-- Settles O37: each row takes the branch that the state of its ledger entry, the kept tracker and the responses on their way select. -/
theorem walksAdmissionAndRetry : Obligations.WalksAdmissionAndRetry := by
  unfold Obligations.WalksAdmissionAndRetry
  rintro s z p n idx i e x o rfl rfl hl rfl hz
  replace hz : z = s.takeReq p n := hz
  subst hz
  refine ⟨?_, fun hst hlive hsunk hold => ⟨fun ho => ?_, fun ho hnwb hrep => ?_, ?_⟩,
    fun wb b hst hretry hwbRetry hout hpass => ?_, fun hout => ?_, fun h => ?_, fun k wb b g hkept hout hpass hg => ⟨fun h => ?_, ?_⟩,
    fun hst hsunk => ?_⟩
  · rintro err _ _ _ rfl rfl rfl hst
    exact ⟨fun y hw => by rw [exec_translationWalkDone, State.walkDone_ok hl hst hw],
      fun w hw hfail => by rw [exec_translationWalkDone, State.walkDone_failed hl hst hw hfail]⟩
  · rw [exec_admission, State.admission_conflict hl hst hlive hsunk hold ho]
  · have hplain : ¬((hdrOpc e.hdr = 0x18 ∨ hdrOpc e.hdr = 0x19) ∧ (s.takeReq p n).isWriteBack n (hdrHost e.hdr) e.pla = true) :=
      fun hc => by simp [hnwb (by simpa using hc.1)] at hc
    refine ⟨fun h => ?_, fun k u hpend htake => ?_⟩
    · rw [exec_admission, State.admission_full hl hst hlive hsunk hold ho hplain hrep h]
      rfl
    · rw [exec_admission, State.admission_request hl hst hlive hsunk hold ho hplain hrep hpend htake]
  · rintro r ho hwb rfl
    replace ho : hdrOpc e.hdr = 0x18 ∨ hdrOpc e.hdr = 0x19 := by simpa using ho
    exact ⟨fun k u htake => by rw [exec_admission, State.admission_writeBack hl hst hlive hsunk hold ho hwb htake],
      fun htake => by rw [exec_admission, State.admission_writeBack_full hl hst hlive hsunk hold ho hwb htake]⟩
  · rw [exec_retry, State.retryIn_holds hl hst hretry hwbRetry hout hpass]
  · rw [exec_retry, State.retryIn_none (State.rspTo_nil hout)]
  · rw [exec_grant, State.grantIn_none h]
  · rw [exec_grant, State.grantIn_unused hkept hout hpass h, hg]
    rfl
  · rintro hheld u hu
    subst hg
    refine ⟨fun h => ?_, fun hrouter hquench hcredit hsurv hlast => ?_⟩
    · rw [exec_grant, State.grantIn_waits hkept hout hpass hl hheld (State.grantWaits_iff.mpr h)]
    · have hgo : s.grantWaits p n wb e.replay = false := by
        rw [← Bool.not_eq_true, State.grantWaits_iff]
        rintro (h | ⟨hwb, hrep, hq, hm⟩ | h)
        · simp [hrouter] at h
        · simp [hwb, hrep, hq, hm] at hquench
        · simp [hcredit] at h
      rw [exec_grant, State.grantIn_sends hkept hout hpass hl hheld hgo hsurv hu hlast]
  · rw [exec_sinkAbsorb, State.sink_absorbs hl hst hsunk]

end Sys2Proof.Machine
end

section
/-! TALLOC (R186, R193, R242): an internal flow takes a tracker, joins the queue, or is refused. -/

namespace Sys2Proof.Machine

/-! ### The events of a node -/

theorem Counted.nd {s u : State} (h : Counted s u) (n : NodeId) : u.nd n = s.nd n := by rw [State.nd, h.node, State.nd]

theorem State.modThr_events (s : State) (t : Thr) (f : Thread → Thread) (n : NodeId) :
    ((s.modThr t f).nd n).core.events = (s.nd n).core.events := by
  have hcore : ((s.modThr t f).core (.node n)).events = (s.core (.node n)).events := by
    rw [State.modThr, State.setThr, State.core_setCore]
    split
    · next h => rw [h]; rfl
    · rfl
  exact hcore

theorem State.account_events (s : State) (t : Thr) (n : NodeId) : ((s.account t).nd n).core.events = (s.nd n).core.events := by
  unfold State.account
  dsimp only
  split
  · rw [(State.cntN_counted _ _ _ _).nd, State.modThr_events]
  · rw [State.modThr_events]

/-- A change of one thread leaves the trackers of every node. -/
theorem OnlyThread.trkAt {s u : State} {t : Thr} (h : OnlyThread s u t) (n : NodeId) (j : Nat) : (u.nd n).trkAt j = (s.nd n).trkAt j :=
  (congrArg (Node.trkAt · j) (h.nodes n) :)

theorem OnlyThread.intQ {s u : State} {t : Thr} (h : OnlyThread s u t) (n : NodeId) : (u.nd n).intQ = (s.nd n).intQ :=
  (congrArg Node.intQ (h.nodes n) :)

/-- An instruction whose last act is to write `v` to rd leaves the events that `u` holds. -/
theorem exec_writes {c : Instr} {s u : State} {t : Thr} {o : Op} {w : Reg32} {f : Thread → State → Res} {rd : Nat} {v : Word}
    (hc : exec c s = .next (s.issue t o w f)) (hq : o.quiet = false) (hi : Issues s t o w)
    (hf : f (s.thr t) s = .next (u.setRd t rd v)) (hu : u.thr t = s.thr t) (hp : Passes s t ((s.thr t).pc + 1)) :
    ∃ x, exec c s = .next x.goOn ∧ OnlyThread u x t ∧ WroteRd u x t rd v ((s.thr t).pc + 1) ∧
      ∀ n, (x.nd n).core.events = (u.nd n).core.events := by
  obtain ⟨honly, hwrote⟩ := State.finish_to (s := s) (pc := (s.thr t).pc) hu (State.modThr_only u t _) (State.setRd_thr u t rd v) hp
  refine ⟨_, ?_, honly, hwrote, fun n => ?_⟩
  · rw [State.issue_on hc hq hi hf, State.finish, hp.last, if_neg Bool.false_ne_true]
    rfl
  · have htc : bt (((u.modThr t (·.setReg rd v)).account t).thr t).tc 1 = false := by
      obtain ⟨sl, ha⟩ := State.account_thr (u.modThr t (·.setReg rd v)) t
      rw [ha, State.modThr_thr, if_pos rfl]
      exact (congrArg (bt · 1) (Thread.setReg_tc ..)).trans (hu ▸ hp.2)
    rw [State.goto_passes _ _ _ _ hp.1 htc, State.modThr_events, State.account_events, State.modThr_events]

/-! ### The record of an internal flow (Table 6.2) -/

/-- What a start word gives an internal flow: CLASS, PLA, HOST and CTX. -/
def Trk.ofStart (sw : Word) (pla : BitVec 40) : Trk :=
  { w0 := BitVec.ofNat 64 (bf sw 6 4 * 2 ^ 5 + pla.toNat * 2 ^ 24),
    w1 := BitVec.ofNat 64 (bf sw 16 7 * 2 ^ 16 + bf sw 32 17 * 2 ^ 42) }

/-- The tracker of an internal flow, taken from pool `p` at time `time`. -/
def Trk.internal (sw : Word) (pla : BitVec 40) (p : Pool) (time : Word) : Trk :=
  { Trk.ofStart sw pla with w0 := setBf (setBf (Trk.ofStart sw pla).w0 0 0 1) 4 1 (bf sw 3 0), w5 := time, pool := p, start := sw }

/-- The first event of an internal flow of tracker `i` (Table 8.1). -/
def Evt.internal (sw : Word) (i : Nat) : Evt :=
  { evt := BitVec.ofNat 8 (if bf sw 3 0 = 3 then 0x20 else 0x21), cls := BitVec.ofNat 3 (bf sw 6 4), trk := some i, datum := sw }

theorem bf_lt {w : Nat} (v : BitVec w) (hi lo : Nat) : bf v hi lo < 2 ^ (hi - lo + 1) := Nat.mod_lt _ (Nat.two_pow_pos _)

section Record

variable (sw : Word) (pla : BitVec 40) (p : Pool) (time : Word)

theorem Trk.internal_v : (Trk.internal sw pla p time).v = true := by
  have hbit (v : Word) : bt (setBf v 0 0 1) 0 = true := (getLsbD_setBf v 0 0 1 0 le_rfl).trans rfl
  exact (bt_setBf_other _ _ (by decide) (by decide)).trans (hbit _)

theorem Trk.internal_kind : (Trk.internal sw pla p time).kind = bf sw 3 0 :=
  (bf_setBf_self _ _ (by decide) (by decide)).trans (Nat.mod_eq_of_lt (bf_lt sw 3 0))

/-- A field above KIND is that of the word before V and KIND were set. -/
theorem Trk.internal_field {a b : Nat} (hb : b ≤ a) (h : 4 < b) :
    bf (Trk.internal sw pla p time).w0 a b = (bf sw 6 4 * 2 ^ 5 + pla.toNat * 2 ^ 24) / 2 ^ b % 2 ^ (a - b + 1) := by
  have hcls := bf_lt sw 6 4
  rw [Trk.internal, bf_setBf_other _ _ (by decide) hb (.inr h), bf_setBf_other _ _ (by decide) hb (.inr (by omega)), Trk.ofStart,
    bf_ofNat (by omega)]

theorem Trk.internal_cls : (Trk.internal sw pla p time).cls = bf sw 6 4 := by
  have hcls := bf_lt sw 6 4
  rw [Trk.cls, Trk.internal_field _ _ _ _ (by decide) (by decide)]
  omega

theorem Trk.internal_pla : (Trk.internal sw pla p time).pla = pla := by
  have hcls := bf_lt sw 6 4
  rw [Trk.pla, Trk.internal_field _ _ _ _ (by decide) (by decide)]
  refine BitVec.eq_of_toNat_eq ?_
  rw [BitVec.toNat_ofNat]
  omega

theorem Trk.internal_host : (Trk.internal sw pla p time).host.toNat = bf sw 16 7 := by
  have hhost := bf_lt sw 16 7
  have hctx := bf_lt sw 32 17
  rw [Trk.host, Trk.internal, Trk.ofStart, bf_ofNat (by omega), BitVec.toNat_ofNat]
  omega

theorem Trk.internal_ctx : (Trk.internal sw pla p time).ctx.toNat = bf sw 32 17 := by
  have hhost := bf_lt sw 16 7
  have hctx := bf_lt sw 32 17
  rw [Trk.ctx, Trk.internal, Trk.ofStart, bf_ofNat (by omega), BitVec.toNat_ofNat]
  omega

end Record

/-! ### The start of an internal flow (R242) -/

section Start

variable {s : State} {n : NodeId} {sw : Word} {pla : BitVec 40}

theorem State.takeTrk_some {k : Nat} {r : Trk} {p : Pool} {i : Nat} (hpool : s.freePool n (poolsOf k) = some p)
    (hidx : (s.nd n).freeIdx = some i) : s.takeTrk n k r = some (i, (s.modNd n fun x => x.setTrk i
      { r with w0 := setBf (setBf r.w0 0 0 1) 4 1 k, w5 := BitVec.ofNat 64 s.time.toNat, pool := p }).cntN n
        (if k = 0 then 0x004 else if k = 1 then 0x005 else 0x006) 1) := by
  rw [State.takeTrk, hpool, hidx]

/-- A node whose only waiting internal flow has taken tracker `i` with record `r` and raised `e`. -/
def Node.started (x : Node) (i : Nat) (r : Trk) (e : Evt) : Node :=
  { x.setTrk i r with intQ := [], core := { x.core with events := x.core.events ++ [e] } }

theorem Node.started_trkAt (x : Node) (i j : Nat) (r : Trk) (e : Evt) : (x.started i r e).trkAt j = if j = i then r else x.trkAt j :=
  Node.trkAt_setTrk x i j r
theorem Node.started_events (x : Node) (i : Nat) (r : Trk) (e : Evt) : (x.started i r e).core.events = x.core.events ++ [e] := rfl
theorem Node.started_intQ (x : Node) (i : Nat) (r : Trk) (e : Evt) : (x.started i r e).intQ = [] := rfl

theorem State.nd_started (s : State) (n : NodeId) (i sel evt cls : Nat) (r : Trk) (sw : Word) :
    (((((s.modNd n fun x => x.setTrk i r).cntN n sel 1).modNd n fun x => { x with intQ := [] }).modTrk n i fun r =>
      { r with start := sw }).raiseEvt n evt cls (some i) sw).nd n = (s.nd n).started i { r with start := sw }
        { evt := BitVec.ofNat 8 evt, cls := BitVec.ofNat 3 cls, trk := some i, datum := sw } := by
  rw [State.raiseEvt, State.nd_modNd_self, State.modTrk, State.nd_modNd_self, State.nd_modNd_self, (State.cntN_counted _ _ _ _).nd,
    State.nd_modNd_self]
  simp only [Node.started, Node.setTrk, Node.trkAt, smGet_smSet_self, smSet_smSet]

theorem State.intTake_talloc {rest : List IntWait} {i : Nat} {u : State} (hq : (s.nd n).intQ = .talloc sw pla :: rest)
    (htake : s.takeTrk n (bf sw 3 0) (.ofStart sw pla) = some (i, u)) :
    s.intTake n = ((u.modNd n fun x => { x with intQ := rest }).modTrk n i fun r => { r with start := sw }).raiseEvt n
      (if bf sw 3 0 = 3 then 0x20 else 0x21) (bf sw 6 4) (some i) sw := by
  rw [Trk.ofStart] at htake
  simp only [State.intTake, hq, htake]

/-- The only waiting flow of KIND 3 or 4 takes the free tracker and raises its event. -/
theorem State.intTake_starts (hkind : bf sw 3 0 = 3 ∨ bf sw 3 0 = 4) {p : Pool} {i : Nat} (hq : (s.nd n).intQ = [.talloc sw pla])
    (hpool : s.freePool n [.int, .gen] = some p) (hidx : (s.nd n).freeIdx = some i) :
    (∀ t, (s.intTake n).thr t = s.thr t) ∧ (s.intTake n).nd n =
      (s.nd n).started i (.internal sw pla p (BitVec.ofNat 64 s.time.toNat)) (.internal sw i) := by
  have hpools : poolsOf (bf sw 3 0) = [.int, .gen] := by obtain h | h := hkind <;> rw [h] <;> rfl
  rw [State.intTake_talloc hq (State.takeTrk_some (hpools ▸ hpool) hidx)]
  refine ⟨fun t => ?_, State.nd_started ..⟩
  rw [State.raiseEvt_thr, State.modTrk_thr, State.modNd_thr rfl, (State.cntN_counted _ _ _ _).thr, State.modNd_thr (Node.setTrk_core ..)]

/-- With no flow waiting it is taken at once. -/
theorem State.tallocGo_takes (hkind : bf sw 3 0 = 3 ∨ bf sw 3 0 = 4) {p : Pool} {i : Nat} (hq : (s.nd n).intQ = [])
    (hpool : s.freePool n [.int, .gen] = some p) (hidx : (s.nd n).freeIdx = some i) :
    ∃ u, s.tallocGo n sw pla = (0, u) ∧ (∀ t, u.thr t = s.thr t) ∧ u.nd n =
      (s.nd n).started i (.internal sw pla p (BitVec.ofNat 64 s.time.toNat)) (.internal sw i) := by
  let s1 := s.modNd n fun y => { y with intQ := [.talloc sw pla] }
  have hs1 : (s.modNd n fun y => { y with intQ := y.intQ ++ [.talloc sw pla] }) = s1 := State.modNd_congr (by rw [hq]; rfl)
  have hnd : s1.nd n = { s.nd n with intQ := [.talloc sw pla] } := State.nd_modNd_self _ _ _
  have hpool1 : s1.freePool n [.int, .gen] = some p := by
    rw [← hpool, State.freePool, hnd]
    rfl
  obtain ⟨hthr, htaken⟩ := State.intTake_starts (s := s1) hkind (by rw [hnd]) hpool1 ((congrArg Node.freeIdx hnd).trans hidx)
  refine ⟨s1.intTake n, ?_, fun t => (hthr t).trans (State.modNd_thr rfl t), ?_⟩
  · have hempty : ((s1.intTake n).nd n).intQ = [] := by rw [htaken, Node.started_intQ]
    simp [State.tallocGo, hs1, hq, hempty]
  · rw [htaken, hnd]
    rfl

variable {q : IntWait} {qs : List IntWait} (hq : (s.nd n).intQ = q :: qs) (hall : ∀ a ∈ q :: qs, ∃ b y, a = .talloc b y)
include hq hall

theorem State.tallocGo_waiting : s.tallocGo n sw pla =
    if 63 ≤ qs.length then (2, s) else (1, s.modNd n fun y => { y with intQ := q :: qs ++ [.talloc sw pla] }) := by
  have hcount (f : IntWait → Bool) (hf : ∀ b y, f (.talloc b y) = true) : (q :: qs).filter f = q :: qs :=
    List.filter_eq_self.mpr fun a ha => by
      obtain ⟨b, y, rfl⟩ := hall a ha
      exact hf b y
  have hjoin : (s.modNd n fun y => { y with intQ := y.intQ ++ [.talloc sw pla] }) =
      s.modNd n fun y => { y with intQ := q :: qs ++ [.talloc sw pla] } := State.modNd_congr (by rw [hq])
  rw [State.tallocGo, hq, hcount]
  · simp [hjoin]
  · exact fun _ _ => rfl

theorem State.tallocGo_queued (h : qs.length < 63) :
    s.tallocGo n sw pla = (1, s.modNd n fun y => { y with intQ := q :: qs ++ [.talloc sw pla] }) := by
  rw [State.tallocGo_waiting hq hall, if_neg (by omega)]

theorem State.tallocGo_refused (h : 63 ≤ qs.length) : s.tallocGo n sw pla = (2, s) := by
  rw [State.tallocGo_waiting hq hall, if_pos (by omega)]

end Start

/-! ### TALLOC (R242) -/

/-- The start word is ILLEGAL: another KIND, or a reserved bit (R242). -/
def startIll (sw : Word) : Bool := (bf sw 3 0 != 3 && bf sw 3 0 != 4) || bf sw 63 33 != 0

theorem startIll_iff {sw : Word} : startIll sw = true ↔ bf sw 3 0 ≠ 3 ∧ bf sw 3 0 ≠ 4 ∨ bf sw 63 33 ≠ 0 := by simp [startIll]

theorem startIll_eq_false {sw : Word} (hkind : bf sw 3 0 = 3 ∨ bf sw 3 0 = 4) (hres : bf sw 63 33 = 0) : startIll sw = false := by
  rw [← Bool.not_eq_true, startIll_iff]
  omega

section Talloc

variable {s : State} {n : NodeId} {t : Thr} {w : Reg32} {v : Word} {pla : BitVec 40} (ht : t.core = .node n)
  (hv : v = (s.thr t).reg (bf w 20 16)) (hpla : pla = ((s.thr t).reg (bf w 15 11)).setWidth 40)
include ht hv hpla

theorem exec_talloc : ∃ f, exec (.talloc t w) s = .next (s.issue t .talloc w f) ∧ f (s.thr t) s =
    checks w (startIll v) (!(s.thr t).priv) none none none
      (.next ((s.tallocGo n v pla).2.setRd t (bf w 25 21) (BitVec.ofNat 64 (s.tallocGo n v pla).1))) := by
  refine ⟨_, exec_issueN rfl ht, ?_⟩
  rw [hv, hpla, ← ofNat_bf_pla]
  rfl

variable (hi : Issues s t .talloc w)
include hi

theorem execTalloc_illegal (hill : startIll v = true) (hm : MayTrap s t 1) :
    ∃ u, exec (.talloc t w) s = .next u.goOn ∧ Traps s u t 1 (w.setWidth 64) (s.thr t).pc := by
  obtain ⟨f, hc, hf⟩ := exec_talloc (w := w) ht hv hpla
  rw [hill] at hf
  exact State.issue_traps hc rfl hi hf hm

variable (hill : startIll v = false)
include hill

theorem execTalloc_priv (hpriv : (s.thr t).priv = false) (hm : MayTrap s t 2) :
    ∃ u, exec (.talloc t w) s = .next u.goOn ∧ Traps s u t 2 (w.setWidth 64) (s.thr t).pc := by
  obtain ⟨f, hc, hf⟩ := exec_talloc (w := w) ht hv hpla
  rw [hill, hpriv] at hf
  exact State.issue_traps hc rfl hi hf hm

variable (hpriv : (s.thr t).priv = true) (hp : Passes s t ((s.thr t).pc + 1))
include hpriv hp

theorem execTalloc_runs {a : Nat} {u : State} (hgo : s.tallocGo n v pla = (a, u)) (hu : u.thr t = s.thr t) :
    ∃ x, exec (.talloc t w) s = .next x.goOn ∧ OnlyThread u x t ∧ WroteRd u x t (bf w 25 21) (BitVec.ofNat 64 a) ((s.thr t).pc + 1) ∧
      ∀ n, (x.nd n).core.events = (u.nd n).core.events := by
  obtain ⟨f, hc, hf⟩ := exec_talloc (w := w) ht hv hpla
  rw [hill, hpriv, hgo] at hf
  exact exec_writes hc rfl hi hf hu hp

theorem execTalloc_gives {a : Nat} {u : State} (hgo : s.tallocGo n v pla = (a, u)) (hu : u.thr t = s.thr t) :
    GivesOn (.talloc t w) s u t (bf w 25 21) (BitVec.ofNat 64 a) ((s.thr t).pc + 1) := by
  obtain ⟨x, hx, honly, hwrote, -⟩ := execTalloc_runs ht hv hpla hi hill hpriv hp hgo hu
  exact ⟨x, hx, honly, hwrote⟩

end Talloc

/-- Settles O22: the checks of TALLOC, and what its start word finds in the queue of internal flows and among the free trackers. -/
theorem internalFlowStart : Obligations.InternalFlowStart := by
  unfold Obligations.InternalFlowStart
  rintro s n t w _ v pla _ _ ht rfl hv hpla rfl rfl hi
  refine ⟨fun hpriv hp hkind hres => ?_, fun hbad hm => execTalloc_illegal ht hv hpla hi (startIll_iff.mpr hbad) hm,
    fun hpriv hkind hres hm => execTalloc_priv ht hv hpla hi (startIll_eq_false hkind hres) hpriv hm⟩
  have hill := startIll_eq_false hkind hres
  refine ⟨fun p i hq hpool hidx => ?_, fun q qs hq hall hlen => ?_, fun q qs hq hall hlen => ?_⟩
  · obtain ⟨y, hgo, hthr, hnd⟩ := State.tallocGo_takes (pla := pla) hkind hq hpool hidx
    obtain ⟨u, hu, honly, hwrote, hevents⟩ := execTalloc_runs ht hv hpla hi hill hpriv hp hgo (hthr t)
    have htrk (j : Nat) : (u.nd n).trkAt j = if j = i then .internal v pla p (BitVec.ofNat 64 s.time.toNat) else (s.nd n).trkAt j := by
      rw [honly.trkAt, hnd, Node.started_trkAt]
    refine ⟨u, (u.nd n).trkAt i, .internal v i, hu, hwrote.pc, ?_, fun j hj => ?_, rfl, ?_⟩
    · rw [hwrote.value]
      exact ite_self _
    · rw [hwrote.others j hj, hthr]
    · rw [htrk i, if_pos rfl]
      refine ⟨Trk.internal_v .., Trk.internal_kind .., Trk.internal_cls .., Trk.internal_pla .., Trk.internal_host .., Trk.internal_ctx ..,
        rfl, rfl, fun j hj => ?_, ?_, ?_, rfl, rfl, ?_, ?_⟩
      · rw [htrk j, if_neg hj]
      · rw [hevents, hnd, Node.started_events]
      · rw [Evt.internal]
        split <;> rfl
      · rw [Evt.internal, BitVec.toNat_ofNat]
        exact Nat.mod_eq_of_lt (bf_lt v 6 4)
      · rw [honly.intQ, hnd, Node.started_intQ]
  · exact execTalloc_gives ht hv hpla hi hill hpriv hp (State.tallocGo_queued hq hall hlen) (State.modNd_thr rfl t)
  · exact execTalloc_gives ht hv hpla hi hill hpriv hp (State.tallocGo_refused hq hall hlen) rfl

end Sys2Proof.Machine
end

section
/-! Conflict chains (R195, R196): what joining the chains of some lines, and leaving them, makes of a node. -/

namespace Sys2Proof.Machine

/-! ### The lines of a flow -/

/-- What a write to a sparse map leaves listed. -/
theorem mem_of_mem_smSet {α : Type} [DecidableEq α] {d : Nat → α} {m : SMap α} {k : Nat} {v : α} {e : Nat × α} (h : e ∈ smSet d m k v) :
    e = (k, v) ∨ e ∈ m := by
  have hins (l : SMap α) (h : e ∈ smIns k v l) : e = (k, v) ∨ e ∈ l := by
    induction l with
    | nil => exact .inl (List.mem_singleton.mp h)
    | cons a l ih =>
      rw [smIns] at h
      split at h
      · exact List.mem_cons.mp h
      · obtain rfl | h := List.mem_cons.mp h
        · exact .inr List.mem_cons_self
        · exact (ih h).imp_right (List.mem_cons_of_mem _)
  rw [smSet] at h
  split at h
  · exact .inr (List.mem_filter.mp h).1
  · exact (hins _ h).imp_right fun h => (List.mem_filter.mp h).1

section Lines

variable {x : Node} {k l m : Nat}

theorem Node.mem_linesOf : l ∈ x.linesOf k ↔ ∃ c, (l, c) ∈ x.chains ∧ k ∈ c := by
  simp [Node.linesOf]

/-- A flow that stands in the chain of a line has that line. -/
theorem Node.mem_linesOf_of_chain (h : k ∈ x.chain l) : l ∈ x.linesOf k := by
  obtain hnil | hmem := smGet_mem (fun _ => ([] : List Nat)) x.chains l
  · rw [Node.chain, hnil] at h
    cases h
  · exact Node.mem_linesOf.mpr ⟨_, hmem, h⟩

theorem Node.not_mem_chain (h : x.linesOf k = []) (l : Nat) : k ∉ x.chain l := fun hk => by
  simpa [h] using Node.mem_linesOf_of_chain hk

theorem Node.chain_setChain (x : Node) (l m : Nat) (c : List Nat) : (x.setChain l c).chain m = if m = l then c else x.chain m :=
  smGet_smSet ..

theorem Node.mem_linesOf_setChain {c : List Nat} (h : m ∈ (x.setChain l c).linesOf k) : m = l ∨ m ∈ x.linesOf k := by
  obtain ⟨b, hb, hk⟩ := Node.mem_linesOf.mp h
  obtain heq | hmem := mem_of_mem_smSet (show (m, b) ∈ smSet (fun _ => []) x.chains l c from hb)
  · exact .inl (Prod.mk.inj heq).1
  · exact .inr (Node.mem_linesOf.mpr ⟨b, hmem, hk⟩)

end Lines

/-! ### Joining (R195) -/

/-- Flow `k` joins the chains of the lines `ls`. -/
def Node.joins (x : Node) (ls : List Nat) (k : Nat) : Node := ls.foldl (fun x l => x.join l k) x

section Joins

variable {x : Node} {k l : Nat}

theorem Node.join_eq (h : k ∉ x.chain l) : x.join l k = x.setChain l (x.chain l ++ [k]) := by simp [Node.join, h]

theorem Node.mem_linesOf_join {m : Nat} (h : m ∈ (x.join l k).linesOf k) : m = l ∨ m ∈ x.linesOf k := by
  unfold Node.join at h
  split at h
  · exact .inr h
  · exact Node.mem_linesOf_setChain h

theorem Node.join_core : (x.join l k).core = x.core := by
  unfold Node.join
  split <;> rfl

theorem Node.join_trk : (x.join l k).trk = x.trk := by
  unfold Node.join
  split <;> rfl

theorem Node.joins_core (x : Node) (ls : List Nat) (k : Nat) : (x.joins ls k).core = x.core := by
  induction ls generalizing x with
  | nil => rfl
  | cons l ls ih => exact (ih _).trans Node.join_core

theorem Node.joins_trk (x : Node) (ls : List Nat) (k : Nat) : (x.joins ls k).trk = x.trk := by
  induction ls generalizing x with
  | nil => rfl
  | cons l ls ih => exact (ih _).trans Node.join_trk

theorem Node.joins_trkAt (x : Node) (ls : List Nat) (k j : Nat) : (x.joins ls k).trkAt j = x.trkAt j := by
  rw [Node.trkAt, Node.joins_trk, Node.trkAt]

/-- A flow joins the tails of chains that it does not stand in. -/
theorem Node.chain_joins {ls : List Nat} (hnot : ∀ m ∈ ls, k ∉ x.chain m) (hls : ls.Nodup) (m : Nat) :
    (x.joins ls k).chain m = if m ∈ ls then x.chain m ++ [k] else x.chain m := by
  induction ls generalizing x with
  | nil => rfl
  | cons l ls ih =>
    obtain ⟨hl, hls⟩ := List.nodup_cons.mp hls
    have hjoin := Node.join_eq (hnot l List.mem_cons_self)
    have hother (j : Nat) (hj : j ≠ l) : (x.join l k).chain j = x.chain j := by rw [hjoin, Node.chain_setChain, if_neg hj]
    have hrest : ∀ j ∈ ls, k ∉ (x.join l k).chain j := fun j hj => by
      rw [hother j (ne_of_mem_of_not_mem hj hl)]
      exact hnot j (List.mem_cons_of_mem l hj)
    refine (ih hrest hls).trans ?_
    by_cases hm : m = l
    · subst hm
      rw [if_neg hl, if_pos List.mem_cons_self, hjoin, Node.chain_setChain, if_pos rfl]
    · simp [hother m hm, hm]

theorem Node.mem_linesOf_joins {ls : List Nat} {m : Nat} (h : m ∈ (x.joins ls k).linesOf k) : m ∈ ls ∨ m ∈ x.linesOf k := by
  induction ls generalizing x with
  | nil => exact .inr h
  | cons l ls ih =>
    obtain h | h := ih h
    · exact .inl (List.mem_cons_of_mem l h)
    · exact (Node.mem_linesOf_join h).imp_left fun (h : m = l) => h ▸ List.mem_cons_self

/-- A flow that had no line is active on all it joined when nothing stood in their chains. -/
theorem Node.headAll_joins {ls : List Nat} (hnone : x.linesOf k = []) (hls : ls.Nodup) :
    (x.joins ls k).headAll k = ls.all fun l => x.chain l == [] := by
  have hnot := Node.not_mem_chain hnone
  have hchain (m : Nat) (hm : m ∈ ls) : (x.joins ls k).chain m = x.chain m ++ [k] := by
    rw [Node.chain_joins (fun m _ => hnot m) hls, if_pos hm]
  have hlines (m : Nat) : m ∈ (x.joins ls k).linesOf k ↔ m ∈ ls := by
    refine ⟨fun h => (Node.mem_linesOf_joins h).resolve_right (by simp [hnone]), fun h => Node.mem_linesOf_of_chain ?_⟩
    simp [hchain m h]
  have hhead (m : Nat) (hm : m ∈ ls) : ((x.joins ls k).chain m).head? = some k ↔ x.chain m = [] := by
    rw [hchain m hm]
    cases hc : x.chain m with
    | nil => simp
    | cons a c =>
      have hne : a ≠ k := fun h => hnot m (by simp [hc, h])
      simp [hne]
  rw [Bool.eq_iff_iff, Node.headAll, List.all_eq_true, List.all_eq_true]
  simp only [hlines, beq_iff_eq]
  exact forall₂_congr hhead

end Joins

/-! ### Leaving (R196) -/

/-- Flow `k` leaves the chains of the lines `ls`. -/
def Node.leaves (x : Node) (ls : List Nat) (k : Nat) : Node := ls.foldl (fun x l => x.leave l k) x

theorem Node.leaves_core (x : Node) (ls : List Nat) (k : Nat) : (x.leaves ls k).core = x.core := by
  induction ls generalizing x with
  | nil => rfl
  | cons l ls ih => exact ih _

theorem Node.leaves_trkAt (x : Node) (ls : List Nat) (k j : Nat) : (x.leaves ls k).trkAt j = x.trkAt j := by
  induction ls generalizing x with
  | nil => rfl
  | cons l ls ih => exact ih _

theorem Node.chain_leave (x : Node) (l k m : Nat) : (x.leave l k).chain m = if m = l then (x.chain l).filter (· != k) else x.chain m :=
  Node.chain_setChain ..

/-- A flow that leaves all its lines stands in no chain. -/
theorem Node.not_mem_leaves {x : Node} {ls : List Nat} {k m : Nat} (h : k ∉ x.chain m ∨ m ∈ ls) : k ∉ (x.leaves ls k).chain m := by
  induction ls generalizing x with
  | nil => simpa [Node.leaves] using h
  | cons l ls ih =>
    refine ih ?_
    rw [Node.chain_leave]
    split
    · exact .inl (by simp)
    · next hm => exact h.imp_right fun h => (List.mem_cons.mp h).resolve_left hm

end Sys2Proof.Machine
end

section
/-! The instructions that read and write trackers and their chains (Table 7.13, R188, R195, R242, R243). -/

namespace Sys2Proof.Machine

/-! ### Counting beside a change of a node -/

theorem Counted.modNd {s u : State} (h : Counted s u) (n : NodeId) (f : Node → Node) : Counted (s.modNd n f) (u.modNd n f) where
  rest := by
    rw [State.modNd, State.modNd, h.nd]
    exact congrArg (State.setNd · n (f (s.nd n))) h.rest
  chv := h.chv
  regs := h.regs

theorem OnlyThread.chain {s u : State} {t : Thr} (h : OnlyThread s u t) (n : NodeId) (l : Nat) : (u.nd n).chain l = (s.nd n).chain l :=
  (congrArg (Node.chain · l) (h.nodes n) :)

/-- An instruction whose work is done but for counting, and whose last act is to write `v` to rd. -/
theorem GivesOn.of_counted {c : Instr} {s u z : State} {t : Thr} {o : Op} {w : Reg32} {f : Thread → State → Res} {rd : Nat} {v : Word}
    (hc : exec c s = .next (s.issue t o w f)) (hq : o.quiet = false) (hi : Issues s t o w) (hf : f (s.thr t) s = .next (z.setRd t rd v))
    (hz : Counted u z) (hu : u.thr t = s.thr t) (hp : Passes s t ((s.thr t).pc + 1)) : GivesOn c s u t rd v ((s.thr t).pc + 1) :=
  .of_ends hc hq hi hf hu ((hz.only t).trans (State.modThr_only ..)) (by rw [State.setRd_thr, hz.thr]) hp

/-! ### TCHAIN (R195) -/

/-- The lines that TCHAIN joins: one, or the four of its sector. -/
def chainLines (four : Bool) (l : Nat) : List Nat := if four then (List.range 4).map fun i => l / 4 * 4 + i else [l]

/-- HOLD4, and with it the PLA of the sector (Table 6.2). -/
def Trk.chained (r : Trk) (four : Bool) : Trk :=
  if four then { r.setW2 22 22 1 with w0 := setBf r.w0 25 24 0 } else r.setW2 22 22 0

theorem mem_chainLines_four {l m : Nat} : m ∈ chainLines true l ↔ m / 4 = l / 4 := by
  simp only [chainLines, if_true, List.mem_map, List.mem_range]
  exact ⟨fun ⟨i, hi, h⟩ => by omega, fun h => ⟨m % 4, by omega, by omega⟩⟩

theorem chainLines_nodup (four : Bool) (l : Nat) : (chainLines four l).Nodup := by
  cases four with
  | false => exact List.nodup_singleton l
  | true => exact List.nodup_range.map fun i j h => Nat.add_left_cancel h

theorem Trk.chained_hold4 (r : Trk) : bt (r.chained true).w2 22 = true := (getLsbD_setBf r.w2 22 22 1 22 le_rfl).trans rfl

theorem Trk.chained_pla (r : Trk) : (r.chained true).pla.toNat = r.pla.toNat / 4 * 4 := by
  have hfield : bf (setBf r.w0 25 24 0) 63 24 = bf r.w0 63 24 / 2 ^ 2 * 2 ^ 2 := by
    refine Nat.eq_of_testBit_eq fun j => ?_
    rw [testBit_bf, getLsbD_setBf _ _ _ _ _ (by decide), Nat.testBit_mul_two_pow, Nat.testBit_div_two_pow, testBit_bf]
    by_cases hj : 2 ≤ j
    · rw [if_neg (by omega), decide_eq_true hj, Nat.sub_add_cancel hj, Bool.true_and]
    · rw [if_pos (by omega), decide_eq_false hj]
      simp
  have hlt := bf_lt r.w0 63 24
  show (BitVec.ofNat 40 (bf (setBf r.w0 25 24 0) 63 24)).toNat = (BitVec.ofNat 40 (bf r.w0 63 24)).toNat / 4 * 4
  rw [hfield, BitVec.toNat_ofNat, BitVec.toNat_ofNat]
  omega

section Chain

variable {s : State} {n : NodeId} {k : Nat}

/-- Flow `k` joins the chain of line `l`, and is counted when another flow stands in it. -/
def State.joinLine (s : State) (n : NodeId) (k l : Nat) : State :=
  (if (s.nd n).chain l = [] then s else s.cntN n 0x014 1).modNd n fun y => y.join l k

theorem State.joinLine_counted {x z : State} (h : Counted x z) (l : Nat) : Counted (x.modNd n fun y => y.join l k) (z.joinLine n k l) := by
  refine Counted.modNd ?_ n _
  split
  · exact h
  · exact h.trans (State.cntN_counted ..)

/-- Flow `k` joins the chains of the lines `ls` one by one. -/
def State.joinLines (s : State) (n : NodeId) (k : Nat) (ls : List Nat) : State := ls.foldl (fun s l => s.joinLine n k l) s

theorem State.joinLines_counted (s : State) {ls : List Nat} (hne : ls ≠ []) :
    Counted (s.modNd n fun y => y.joins ls k) (s.joinLines n k ls) := by
  have hmore (f : Node → Node) (z : State) (h : Counted (s.modNd n f) z) (ls : List Nat) :
      Counted (s.modNd n fun y => (f y).joins ls k) (z.joinLines n k ls) := by
    induction ls generalizing f z with
    | nil => exact h
    | cons l ls ih =>
      have hl := State.joinLine_counted (n := n) (k := k) h l
      rw [State.modNd_modNd] at hl
      exact ih (fun y => (f y).join l k) _ hl
  cases ls with
  | nil => exact absurd rfl hne
  | cons l ls => exact hmore (fun y => y.join l k) _ (State.joinLine_counted (.refl s) l) ls

/-- HOLD4 is written, and the PLA of a flow that chains a sector. -/
def State.noteChain (s : State) (n : NodeId) (k : Nat) (four : Bool) : State :=
  let s := s.updTrk n k 2 fun r => r.setW2 22 22 (b2n four)
  if four then s.updTrk n k 0 fun r => { r with w0 := setBf r.w0 25 24 0 } else s

theorem State.noteChain_intact {four : Bool} (h2 : smGet (fun _ => (0 : BitVec 8)) ((s.nd n).trkAt k).syn 2 = 0)
    (h0 : four = true → smGet (fun _ => (0 : BitVec 8)) ((s.nd n).trkAt k).syn 0 = 0) :
    s.noteChain n k four = s.modTrk n k (·.chained four) := by
  rw [State.noteChain, State.updTrk_intact h2]
  cases four with
  | false => rfl
  | true =>
    have hsyn : (((s.modTrk n k fun r => r.setW2 22 22 1).nd n).trkAt k).syn = ((s.nd n).trkAt k).syn := by
      rw [State.modTrk, State.nd_modNd_self, Node.trkAt_setTrk, if_pos rfl]
      rfl
    exact (State.updTrk_intact (hsyn ▸ h0 rfl) _).trans (State.modTrk_modTrk ..)

/-- The whole work of TCHAIN. -/
def State.tchain (s : State) (n : NodeId) (k : Nat) (four : Bool) (l : Nat) : State :=
  (s.joinLines n k (chainLines four l)).noteChain n k four

/-- What TCHAIN makes of a node in which the flow has joined no line yet. -/
def Node.chainFor (y : Node) (k : Nat) (four : Bool) (l : Nat) : Node :=
  (y.joins (chainLines four l) k).setTrk k ((y.trkAt k).chained four)

theorem Node.trkAt_chainFor (y : Node) (k : Nat) (four : Bool) (l j : Nat) :
    (y.chainFor k four l).trkAt j = if j = k then (y.trkAt k).chained four else y.trkAt j := by
  rw [Node.chainFor, Node.trkAt_setTrk, Node.joins_trkAt]

theorem Node.chain_chainFor {y : Node} (hnone : y.linesOf k = []) (four : Bool) (l m : Nat) :
    (y.chainFor k four l).chain m = if m ∈ chainLines four l then y.chain m ++ [k] else y.chain m :=
  Node.chain_joins (fun _ _ => Node.not_mem_chain hnone _) (chainLines_nodup four l) m

theorem Node.chainFor_one {y : Node} (hnone : y.linesOf k = []) (l : Nat) :
    y.chainFor k false l = (y.setChain l (y.chain l ++ [k])).setTrk k ((y.trkAt k).setW2 22 22 0) :=
  congrArg (fun x : Node => x.setTrk k ((y.trkAt k).setW2 22 22 0)) (Node.join_eq (Node.not_mem_chain hnone l))

section Joined

variable {four : Bool} (l : Nat) (h2 : smGet (fun _ => (0 : BitVec 8)) ((s.nd n).trkAt k).syn 2 = 0)
  (h0 : four = true → smGet (fun _ => (0 : BitVec 8)) ((s.nd n).trkAt k).syn 0 = 0)
include h2 h0

theorem State.tchain_counted : Counted (s.modNd n fun y => y.chainFor k four l) (s.tchain n k four l) := by
  have hne : chainLines four l ≠ [] := by cases four <;> exact List.cons_ne_nil _ _
  have hjoin := State.joinLines_counted (n := n) (k := k) s hne
  have htrk : ((s.joinLines n k (chainLines four l)).nd n).trkAt k = (s.nd n).trkAt k := by
    rw [hjoin.nd, State.nd_modNd_self, Node.joins_trkAt]
  rw [State.tchain, State.noteChain_intact (htrk ▸ h2) (htrk ▸ h0)]
  have hboth := hjoin.modNd n fun y => y.setTrk k ((y.trkAt k).chained four)
  rw [State.modNd_modNd] at hboth
  rwa [State.modNd_congr (g := fun y => y.chainFor k four l) (by rw [Node.chainFor, Node.joins_trkAt])] at hboth

theorem State.tchain_headAll (hnone : (s.nd n).linesOf k = []) :
    ((s.tchain n k four l).nd n).headAll k = (chainLines four l).all fun m => (s.nd n).chain m == [] := by
  rw [(State.tchain_counted l h2 h0).nd, State.nd_modNd_self, ← Node.headAll_joins hnone (chainLines_nodup four l)]
  rfl

end Joined

end Chain

/-- An intact tracker word reads as it is stored (R188). -/
theorem State.trkRead_intact {s : State} {n : NodeId} {k i : Nat}
    (h : smGet (fun _ => (0 : BitVec 8)) ((s.nd n).trkAt k).syn i = 0) : s.trkRead n k i = ((s.nd n).trkWord k i, s) := by
  simp [State.trkRead, State.trkCheck_intact h]

section Rows

variable {s : State} {n : NodeId} {t : Thr} {w : Reg32} {v : Word} {k : Nat} (ht : t.core = .node n)
  (hv : v = (s.thr t).reg (bf w 20 16)) (htrk : (s.thr t).trk = some k)
include ht hv htrk

theorem exec_tchain : ∃ f, exec (.tchain t w) s = .next (s.issue t .tchain w f) ∧ f (s.thr t) s =
    checks w false false none none (if (s.nd n).holdsLine k then some 8 else none)
      (.next ((s.tchain n k (bt w 11) (bf v 39 0)).setRd t (bf w 25 21)
        (if ((s.tchain n k (bt w 11) (bf v 39 0)).nd n).headAll k then 1 else 0))) := by
  refine ⟨_, exec_issueN rfl ht, ?_⟩
  rw [hv]
  simp only [htrk]
  rfl

variable (hp : Passes s t ((s.thr t).pc + 1))
include hp

/-- TCHAIN by a flow that has joined no line yet. -/
theorem execTchain_gives (hi : Issues s t .tchain w) (hnone : (s.nd n).linesOf k = [])
    (h2 : smGet (fun _ => (0 : BitVec 8)) ((s.nd n).trkAt k).syn 2 = 0)
    (h0 : bt w 11 = true → smGet (fun _ => (0 : BitVec 8)) ((s.nd n).trkAt k).syn 0 = 0) :
    GivesOn (.tchain t w) s (s.modNd n fun y => y.chainFor k (bt w 11) (bf v 39 0)) t (bf w 25 21)
      (if (chainLines (bt w 11) (bf v 39 0)).all fun m => (s.nd n).chain m == [] then 1 else 0) ((s.thr t).pc + 1) := by
  have hholds : (s.nd n).holdsLine k = false := by rw [Node.holdsLine, hnone]; rfl
  obtain ⟨f, hc, hf⟩ := exec_tchain (w := w) ht hv htrk
  rw [hholds, State.tchain_headAll _ h2 h0 hnone] at hf
  exact .of_counted hc rfl hi hf (State.tchain_counted _ h2 h0)
    (State.modNd_thr (by rw [Node.chainFor, Node.setTrk_core, Node.joins_core]) t) hp

/-- TFIND reads the chain of a line. -/
theorem execTfind_gives (hi : Issues s t .tfind w) : GivesOn (.tfind t w) s s t (bf w 25 21) (match (s.nd n).chain (bf v 39 0) with
    | [] => 0
    | a :: c => BitVec.ofNat 64 (a + 2 ^ 10 + min c.length 1023 * 2 ^ 11)) ((s.thr t).pc + 1) := by
  refine GivesOn.of_writes (exec_issueN rfl ht) rfl hi ((checks_runs rfl (needTrk_bound htrk)).trans ?_) rfl hp
  subst hv
  simp only [iRs1, iRd]
  cases (s.nd n).chain (bf ((s.thr t).reg (bf w 20 16)) 39 0) <;> rfl

omit hv in
/-- TRD reads an intact word of the flow's tracker. -/
theorem execTrd_gives (hi : Issues s t .trd w)
    (hgood : smGet (fun _ => (0 : BitVec 8)) ((s.nd n).trkAt k).syn (bf w 13 11) = 0) :
    GivesOn (.trd t w) s s t (bf w 25 21) ((s.nd n).trkWord k (bf w 13 11)) ((s.thr t).pc + 1) := by
  refine GivesOn.of_writes (exec_issueN rfl ht) rfl hi ((checks_runs rfl (needTrk_bound htrk)).trans ?_) rfl hp
  simp only [htrk, State.trkRead_intact hgood]
  rfl

omit htrk in
/-- TRDX reads an intact word of the tracker named. -/
theorem execTrdx_gives (hi : Issues s t .trdx w)
    (hgood : smGet (fun _ => (0 : BitVec 8)) ((s.nd n).trkAt (bf v 9 0)).syn (bf v 12 10) = 0) :
    GivesOn (.trdx t w) s s t (bf w 25 21) ((s.nd n).trkWord (bf v 9 0) (bf v 12 10)) ((s.thr t).pc + 1) := by
  refine GivesOn.of_writes (exec_issueN rfl ht) rfl hi ?_ rfl hp
  subst hv
  simp only [iRs1, iRd, State.trkRead_intact hgood]

section Twr

variable (hi : Issues s t .twr w)
include hi

/-- TWR replaces word 6 or word 7. -/
theorem execTwr_whole {i : Nat} (hw : bf w 13 11 = i) (h67 : i = 6 ∨ i = 7) : GivesOn (.twr t w) s (s.modTrk n k fun q =>
    if i = 6 then { q with w6 := v, syn := smSet (fun _ => (0 : BitVec 8)) q.syn i 0 }
    else { q with w7 := v, syn := smSet (fun _ => (0 : BitVec 8)) q.syn i 0 }) t 0 0 ((s.thr t).pc + 1) := by
  have hne : i ≠ 3 := by omega
  refine GivesOn.of_silent (exec_issueN rfl ht) rfl hi ((checks_runs rfl ?_).trans ?_) hp (hp.of_thr (State.modTrk_thr ..))
  · simp [htrk, hw, h67]
  · subst hv
    simp only [htrk, hw, hne, if_false]
    rfl

/-- TWR replaces LOST and REREAD of an intact word 3. -/
theorem execTwr_word3 (hw : bf w 13 11 = 3) (hgood : smGet (fun _ => (0 : BitVec 8)) ((s.nd n).trkAt k).syn 3 = 0) :
    GivesOn (.twr t w) s (s.modTrk n k fun q => { q with
      w3 := setBf (setBf ((s.nd n).trkAt k).w3 13 13 (bf v 13 13)) 15 15 (bf v 15 15) }) t 0 0 ((s.thr t).pc + 1) := by
  refine GivesOn.of_silent (exec_issueN rfl ht) rfl hi ((checks_runs rfl ?_).trans ?_) hp (hp.of_thr (State.modTrk_thr ..))
  · simp [htrk, hw]
  · subst hv
    simp only [htrk, hw, State.trkCheck_intact hgood, if_true, Bool.false_eq_true, if_false]
    exact congrArg Res.next (State.modNd_congr rfl)

end Twr

end Rows

/-- Of a word whose bits 13 and 15 are replaced, every other bit stays. -/
theorem getLsbD_lostReread (a v : Word) (b : Nat) :
    (setBf (setBf a 13 13 (bf v 13 13)) 15 15 (bf v 15 15)).getLsbD b = if b = 13 ∨ b = 15 then v.getLsbD b else a.getLsbD b := by
  have hone (j : Nat) : (bf v j j).testBit 0 = v.getLsbD j := by rw [testBit_bf]; simp
  rw [getLsbD_setBf _ _ _ _ _ le_rfl, getLsbD_setBf _ _ _ _ _ le_rfl]
  by_cases h15 : b = 15
  · subst h15
    simp [hone]
  · by_cases h13 : b = 13
    · subst h13
      simp [hone]
    · rw [if_neg (by omega), if_neg (by omega), if_neg (by omega)]

end Sys2Proof.Machine
end

section
/-! TFREE (R188, R193, R196, R242): what the freeing of a finished flow's tracker leaves. -/

namespace Sys2Proof.Machine

/-! ### Release of the lines (R196) -/

section Release

variable {s : State} {n : NodeId} {k : Nat}

/-- Flow `k` leaves line `l`, and the flow that is then the first of its chain becomes active. -/
def State.releaseLine (s : State) (n : NodeId) (k l : Nat) : State :=
  match (s.nd n).active l == some k, ((s.modNd n fun x => x.leave l k).nd n).active l with
  | true, some h => (s.modNd n fun x => x.leave l k).nowActive n h
  | _, _ => s.modNd n fun x => x.leave l k

theorem State.release_eq : s.release n k = ((s.nd n).linesOf k).foldl (fun s l => s.releaseLine n k l) s := rfl

theorem State.releaseLine_alone {l : Nat} (h : ∀ j ∈ (s.nd n).chain l, j = k) :
    s.releaseLine n k l = s.modNd n fun x => x.leave l k := by
  have hnone : ((s.modNd n fun x => x.leave l k).nd n).active l = none := by
    rw [State.nd_modNd_self, Node.active, Node.chain_leave, if_pos rfl, List.filter_eq_nil_iff.mpr fun j hj => by simpa using h j hj]
    rfl
  rw [State.releaseLine, hnone]
  cases (s.nd n).active l == some k <;> rfl

/-- Where no other flow stands in the chains of its lines, a flow that leaves them starts none. -/
theorem State.release_alone (h : ∀ m ∈ (s.nd n).linesOf k, (s.nd n).chain m = [k]) :
    (s.release n k).nd n = (s.nd n).leaves ((s.nd n).linesOf k) k ∧ ∀ t, (s.release n k).thr t = s.thr t := by
  rw [State.release_eq]
  replace h : ∀ m ∈ (s.nd n).linesOf k, ∀ j ∈ (s.nd n).chain m, j = k := fun m hm => by simp [h m hm]
  generalize (s.nd n).linesOf k = ls at h
  induction ls generalizing s with
  | nil => exact ⟨rfl, fun _ => rfl⟩
  | cons l ls ih =>
    have hnd : (s.modNd n fun x => x.leave l k).nd n = (s.nd n).leave l k := State.nd_modNd_self ..
    obtain ⟨hnode, hthr⟩ := ih (s := s.modNd n fun x => x.leave l k) fun m hm j hj => by
      rw [hnd, Node.chain_leave] at hj
      split at hj
      · exact h l List.mem_cons_self j (List.mem_filter.mp hj).1
      · exact h m (List.mem_cons_of_mem l hm) j hj
    rw [List.foldl_cons, State.releaseLine_alone (h l List.mem_cons_self)]
    exact ⟨hnode.trans (by rw [hnd]; rfl), fun t => (hthr t).trans (State.modNd_thr rfl t)⟩

end Release

/-! ### Offering the tracker (R193) -/

/-- A node after one of its free trackers was offered: at most the tracker itself, which stays free, and what is kept for a GRANT differ. -/
structure Node.Offered (x y : Node) (i : Nat) : Prop where
  chains : y.chains = x.chains
  lb : y.lb = x.lb
  resv : y.resv = x.resv
  core : y.core = x.core
  others : ∀ j, j ≠ i → y.trkAt j = x.trkAt j
  free : (x.trkAt i).v = false → (y.trkAt i).v = false

theorem Trk.v_pool (p : Pool) : ({ pool := p } : Trk).v = false := by cases p <;> rfl

theorem State.offer_offered (s : State) (n : NodeId) (i : Nat) (p : Pool) : (s.nd n).Offered ((s.offer n i p).nd n) i := by
  have hsame : (s.nd n).Offered (s.nd n) i := ⟨rfl, rfl, rfl, rfl, fun _ _ => rfl, id⟩
  unfold State.offer
  dsimp only
  split
  · exact hsame
  · split
    · exact hsame
    · rw [(State.cntN_counted ..).nd, State.nd_modNd_self]
      refine ⟨rfl, rfl, rfl, rfl, fun j hj => ?_, fun _ => ?_⟩
      · exact (Node.trkAt_setTrk ..).trans (if_neg hj)
      · exact (congrArg Trk.v ((Node.trkAt_setTrk (s.nd n) i i _).trans (if_pos rfl))).trans (Trk.v_pool _)

theorem State.offer_thr (s : State) (n : NodeId) (i : Nat) (p : Pool) (t : Thr) : (s.offer n i p).thr t = s.thr t := by
  unfold State.offer
  dsimp only
  split
  · rfl
  · split
    · rfl
    · rw [(State.cntN_counted ..).thr, State.modNd_thr (by rfl)]

/-! ### The freeing of a tracker (R242) -/

theorem smGet_map {α : Type} {d : Nat → α} {f : α → α} {k : Nat} (hd : f (d k) = d k) (m : SMap α) :
    smGet d (m.map fun e => (e.1, f e.2)) k = f (smGet d m k) := by
  induction m with
  | nil => exact hd.symm
  | cons e m ih =>
    rw [List.map_cons, smGet, smGet]
    split
    · rfl
    · exact ih

/-- No entry that its owner has freed is still owned by it. -/
theorem Node.lbAt_freeLbs (x : Node) (k e : Nat) : ((x.freeLbs k).lbAt e).own ≠ some k := by
  obtain hnone | hmem := smGet_mem (fun _ => ({} : Lbe)) (x.freeLbs k).lb e
  · rw [Node.lbAt, hnone]
    exact Option.some_ne_none k |>.symm
  · simpa [Node.lbAt] using (List.mem_filter.mp hmem).2

/-- A node in which flow `k` has ended: its entries, reservation, waits and events are gone, and no access belongs to it. -/
def Node.ended (x : Node) (k : Nat) : Node :=
  { (x.freeLbs k).setTrk k {} with
    resv := x.resv.filter (fun e => e.2.1 != k), lbWait := x.lbWait.filter (· != k), wayWait := x.wayWait.filter (fun e => e.1 != k),
    evicts := x.evicts.map (fun v => if v.req = some k then { v with req := none } else v),
    core := { x.core with events := x.core.events.filter (fun e => e.trk != some k),
                          threads := x.core.threads.map fun e => (e.1, e.2.forget k) } }

theorem Node.trkAt_ended (x : Node) (k j : Nat) : (x.ended k).trkAt j = if j = k then {} else x.trkAt j :=
  Node.trkAt_setTrk (x.freeLbs k) k j {}

theorem Node.thr_ended (x : Node) (k i : Nat) : (x.ended k).core.thr i = (x.core.thr i).forget k :=
  smGet_map (d := fun _ => ({} : Thread)) (f := fun y => y.forget k) rfl x.core.threads

theorem State.freeTrk_eq (s : State) (n : NodeId) (k : Nat) :
    s.freeTrk n k = ((s.release n k).modNd n fun x => x.ended k).offer n k ((s.nd n).trkAt k).pool := rfl

theorem Now.of_forget {u : State} {t : Thr} {x : Thread} {k pc : Nat} (h : Now u t (x.forget k) pc) : Now u t x pc where
  same := congrArg (fun y : Thread => { y with sb := x.sb }) h.same
  stores := h.stores.trans (by
    rw [Thread.forget, List.map_map]
    refine List.map_congr_left fun b _ => ?_
    rw [Function.comp]
    split <;> rfl)
  pc := h.pc
  ready := h.ready

section Free

variable {s : State} {n : NodeId} {k : Nat} (h : ∀ m ∈ (s.nd n).linesOf k, (s.nd n).chain m = [k])
include h

/-- The node after the tracker of a flow that is alone on its lines was freed. -/
theorem State.freeTrk_offered : (((s.nd n).leaves ((s.nd n).linesOf k) k).ended k).Offered ((s.freeTrk n k).nd n) k := by
  have hoff := State.offer_offered ((s.release n k).modNd n fun x => x.ended k) n k ((s.nd n).trkAt k).pool
  rwa [State.nd_modNd_self, (State.release_alone h).1, ← State.freeTrk_eq] at hoff

/-- A thread of the node forgets the flow. -/
theorem State.freeTrk_thr {t : Thr} (ht : t.core = .node n) : (s.freeTrk n k).thr t = (s.thr t).forget k := by
  rw [State.freeTrk_eq, State.offer_thr, ← (State.release_alone h).2 t, State.thr, State.thr, ht]
  exact (congrArg (fun x : Node => x.core.thr t.t.val) (State.nd_modNd_self ..)).trans (Node.thr_ended ..)

end Free

/-! ### TFREE -/

section Kept

variable {s u : State} {t : Thr} (h : OnlyThread s u t) (n : NodeId)
include h

theorem OnlyThread.chains : (u.nd n).chains = (s.nd n).chains := (congrArg Node.chains (h.nodes n) :)
theorem OnlyThread.resv : (u.nd n).resv = (s.nd n).resv := (congrArg Node.resv (h.nodes n) :)
theorem OnlyThread.lbAt (e : Nat) : (u.nd n).lbAt e = (s.nd n).lbAt e := (congrArg (Node.lbAt · e) (h.nodes n) :)

end Kept

/-- A flow has finished: no snoop, read or write of it is out, its host has its response, and its tracker is not wedged. -/
structure Trk.Finished (r : Trk) : Prop where
  snoops : r.snpOut = 0
  reads : r.rdOut = false
  writes : r.wrOut = false
  answered : r.ledgered = true → r.rsp = true
  intact : r.wedged = false

section Tfree

variable {s : State} {n : NodeId} {t : Thr} {w : Reg32} {k : Nat} (ht : t.core = .node n) (htrk : (s.thr t).trk = some k)
  (hr : ((s.nd n).trkAt k).Finished)
include htrk hr

theorem State.tfreeState_finished : s.tfreeState n (s.thr t) = none := by
  obtain ⟨hsnp, hrd, hwr, hrsp, -⟩ := hr
  simpa [State.tfreeState, htrk, hsnp, hrd, hwr] using hrsp

include ht

theorem exec_tfree : ∃ f, exec (.tfree t w) s = .next (s.issue t .tfree w f) ∧ f (s.thr t) s =
    .next ((s.modThr t fun x => { x with trk := none }).freeTrk n k) := by
  refine ⟨_, exec_issueN rfl ht, (checks_runs rfl (State.tfreeState_finished htrk hr)).trans ?_⟩
  simp only [htrk, (s.modThr_only t _).trkAt n k, hr.intact, Bool.false_eq_true, if_false]

/-- TFREE of a finished flow that is alone on its lines. -/
theorem execTfree_finished (hi : Issues s t .tfree w) (hp : Passes s t ((s.thr t).pc + 1))
    (hlines : ∀ m ∈ (s.nd n).linesOf k, (s.nd n).chain m = [k]) :
    ∃ u, exec (.tfree t w) s = .next u.goOn ∧ Now u t { s.thr t with trk := none } ((s.thr t).pc + 1) ∧
      ((u.nd n).trkAt k).v = false ∧ (∀ m, k ∉ (u.nd n).chain m) ∧ (∀ e, ((u.nd n).lbAt e).own ≠ some k) ∧
      (∀ q ∈ (u.nd n).resv, q.2.1 ≠ k) ∧ ∀ m, m ≠ k → (u.nd n).trkAt m = (s.nd n).trkAt m := by
  obtain ⟨f, hc, hf⟩ := exec_tfree (w := w) ht htrk hr
  have hunbound := s.modThr_only t fun x => { x with trk := none }
  have hthr : (s.modThr t fun x => { x with trk := none }).thr t = { s.thr t with trk := none } := by rw [State.modThr_thr, if_pos rfl]
  generalize s.modThr t (fun x => { x with trk := none }) = y at hf hunbound hthr
  have hchains := hunbound.chains n
  have hlinesOf : (y.nd n).linesOf k = (s.nd n).linesOf k := by rw [Node.linesOf, hchains, Node.linesOf]
  replace hlines : ∀ m ∈ (y.nd n).linesOf k, (y.nd n).chain m = [k] := fun m hm => by
    rw [hunbound.chain]
    exact hlines m (hlinesOf ▸ hm)
  have hfree := State.freeTrk_offered hlines
  obtain ⟨u, hu, honly, hnow⟩ := exec_now hc rfl hi hf (.refl _ t) (State.freeTrk_thr hlines ht) (by rw [hthr]; rfl) hp
  rw [hthr] at hnow
  refine ⟨u, hu, hnow.of_forget, ?_, fun m => ?_, fun e => ?_, fun q hq => ?_, fun m hm => ?_⟩
  · rw [honly.trkAt]
    exact hfree.free (by rw [Node.trkAt_ended, if_pos rfl]; rfl)
  · have hleft : k ∉ ((y.nd n).leaves ((y.nd n).linesOf k) k).chain m := Node.not_mem_leaves (by
      by_cases hm : k ∈ (y.nd n).chain m
      · exact .inr (Node.mem_linesOf_of_chain hm)
      · exact .inl hm)
    rw [honly.chain, Node.chain, hfree.chains]
    exact hleft
  · rw [honly.lbAt, Node.lbAt, hfree.lb]
    exact Node.lbAt_freeLbs _ k e
  · rw [honly.resv, hfree.resv] at hq
    simpa using (List.mem_filter.mp hq).2
  · rw [honly.trkAt, hfree.others m hm, Node.trkAt_ended, if_neg hm, Node.leaves_trkAt, hunbound.trkAt]

end Tfree

/-- Settles O21: on intact words each tracker instruction reads, joins, writes or frees what it names. -/
theorem trackerInstructions : Obligations.TrackerInstructions := by
  unfold Obligations.TrackerInstructions
  rintro s n t w _ v k i l _ _ _ ht rfl hv rfl rfl rfl rfl hp htrk rfl
  refine ⟨execTfind_gives ht hv htrk hp, fun hi hnone hgood hfour => ?_, fun hi hone hnone hgood => ?_, execTrd_gives ht htrk hp,
    execTrdx_gives ht hv hp, fun hi => ⟨fun h6 => execTwr_whole ht hv htrk hp hi h6 (.inl rfl),
      fun h7 => execTwr_whole ht hv htrk hp hi h7 (.inr rfl),
      fun h3 hgood => ⟨_, execTwr_word3 ht hv htrk hp hi h3 hgood, fun b _ => getLsbD_lostReread _ v b⟩⟩,
    fun hi hsnp hrd hwr hrsp hwedged hlines => execTfree_finished ht htrk ⟨hsnp, hrd, hwr, hrsp, hwedged⟩ hi hp hlines⟩
  · obtain ⟨u, hu, honly, hwrote⟩ := execTchain_gives ht hv htrk hp hi hnone (hgood 2 (by simp)) fun _ => hgood 0 (by simp)
    rw [hfour] at honly hwrote
    have htrks (j : Nat) : (u.nd n).trkAt j = if j = k then ((s.nd n).trkAt k).chained true else (s.nd n).trkAt j := by
      rw [honly.trkAt, State.nd_modNd_self, Node.trkAt_chainFor]
    have hchains (m : Nat) : (u.nd n).chain m = if m ∈ chainLines true (bf v 39 0) then (s.nd n).chain m ++ [k] else (s.nd n).chain m := by
      rw [honly.chain, State.nd_modNd_self, Node.chain_chainFor hnone]
    refine ⟨u, hu, ?_, ?_, hwrote.pc, fun hrd => ?_, fun m hm => ?_, fun m => ?_⟩
    · rw [htrks, if_pos rfl, Trk.chained_pla]
    · rw [htrks, if_pos rfl, Trk.chained_hold4]
    · rw [hwrote.value, if_neg hrd, chainLines, if_pos rfl, List.all_map]
      rfl
    · rw [htrks, if_neg hm]
    · rw [hchains]
      exact if_congr mem_chainLines_four rfl rfl
  · have hgives := execTchain_gives ht hv htrk hp hi hnone hgood fun h => absurd h (by simp [hone])
    rw [hone, State.modNd_congr (g := fun y => (y.setChain (bf v 39 0) ((s.nd n).chain (bf v 39 0) ++ [k])).setTrk k
      (((s.nd n).trkAt k).setW2 22 22 0)) (Node.chainFor_one hnone (bf v 39 0))] at hgives
    simpa [chainLines] using hgives

end Sys2Proof.Machine
end

section
/-! The integer instructions with an immediate, and the bit-field instructions (Table 7.9, R233). -/

namespace Sys2Proof.Machine

/-! ### Immediates and fields -/

theorem iImmZ_eq (w : Reg32) : iImmZ w = (w.setWidth 16).setWidth 64 := by
  apply BitVec.eq_of_toNat_eq
  rw [iImmZ, bf_zero_lo, BitVec.toNat_ofNat, BitVec.toNat_setWidth, BitVec.toNat_setWidth]

/-- The shift count of an immediate shift is the low six bits of the word. -/
theorem shCount_iImmZ (w : Reg32) : shCount (iImmZ w) = bf w 5 0 := by
  rw [shCount, iImmZ_eq, bf_zero_lo, bf_zero_lo, BitVec.toNat_setWidth, BitVec.toNat_setWidth]
  omega

/-- The field of `len` bits from `pos` on. -/
theorem bf_field {n : Nat} (v : BitVec n) (pos : Nat) {len : Nat} (h : 0 < len) :
    bf v (pos + len - 1) pos = v.toNat / 2 ^ pos % 2 ^ len := by
  rw [bf, Nat.shiftRight_eq_div_pow, show pos + len - 1 - pos + 1 = len by omega]

/-! ### The rows -/

section Rows

variable {c : Instr} {s : State} {t : Thr} {o : Op} {w : Reg32} {v : Word}

/-- A format I instruction that issues gives its function of rs1 and the immediate. -/
theorem Gives.of_aluI {f : Word → Word → Word} {imm : Word} (hc : exec c s = .next (s.aluI t o w imm f)) (hq : o.quiet = true)
    (hp : Passes s t ((s.thr t).pc + 1)) (hv : f ((s.thr t).reg (bf w 20 16)) imm = v) (h : Issues s t o w) :
    Gives c s s t (bf w 25 21) v ((s.thr t).pc + 1) :=
  Gives.of_writes hc hq h (hv ▸ rfl) hp

/-- A format F instruction whose field lies inside the word ends with `v` in rd. -/
theorem Gives.of_field {f : Thread → State → Res} (hc : exec c s = .next (s.issue t o w f))
    (hf : f (s.thr t) s = checks w (decide (64 < fPos w + fLen w)) false none none none (.next (s.setRd t (iRd w) v)))
    (hq : o.quiet = true) (hp : Passes s t ((s.thr t).pc + 1)) (h : Issues s t o w) (hle : bf w 15 10 + (bf w 9 4 + 1) ≤ 64) :
    Gives c s s t (bf w 25 21) v ((s.thr t).pc + 1) := by
  have hin : decide (64 < fPos w + fLen w) = false := decide_eq_false (Nat.not_lt.mpr hle)
  rw [hin] at hf
  exact Gives.of_writes hc hq h hf hp

end Rows

/-- Settles O6: ten rows are `aluI` at their function, EXT reads its field and INS replaces it. -/
theorem integerImmediateForms : Obligations.IntegerImmediateForms := by
  unfold Obligations.IntegerImmediateForms
  rintro s t w a old z x rd pc pos len rfl rfl rfl rfl rfl rfl rfl rfl hp
  refine ⟨.of_aluI rfl rfl hp (by rw [iImmS_eq]), .of_aluI rfl rfl hp (by rw [iImmZ_eq]), .of_aluI rfl rfl hp (by rw [iImmZ_eq]),
    .of_aluI rfl rfl hp (by rw [iImmZ_eq]), .of_aluI rfl rfl hp (by rw [shCount_iImmZ, word_shiftLeft]),
    .of_aluI rfl rfl hp (by rw [shCount_iImmZ, word_ushiftRight]), .of_aluI rfl rfl hp (by rw [shCount_iImmZ, word_sshiftRight]),
    .of_aluI rfl rfl hp (by rw [iImmS_eq, boolWord_slt]), .of_aluI rfl rfl hp (by rw [iImmS_eq, boolWord_ult]),
    .of_aluI rfl rfl hp (by rw [iImmZ_eq]), fun h hle => ?_, fun h hle => ⟨_, .of_field rfl rfl rfl hp h hle, fun i hi => ?_⟩⟩
  · rw [← bf_field _ _ (Nat.succ_pos _)]
    exact .of_field rfl rfl rfl hp h hle
  · have hrange : fPos w ≤ i ∧ i ≤ fPos w + fLen w - 1 ↔ bf w 15 10 ≤ i ∧ i < bf w 15 10 + (bf w 9 4 + 1) :=
      and_congr_right fun _ => Nat.le_sub_one_iff_lt (by rw [fLen]; omega)
    rw [getLsbD_setBf _ _ _ _ _ (by rw [fLen]; omega)]
    exact if_congr hrange (by rw [decide_eq_true hi]; rfl) rfl

end Sys2Proof.Machine
end

section
/-! The branches and the jumps (Table 7.9, R231, R233, R234). -/

namespace Sys2Proof.Machine

theorem iOff15_eq (w : Reg32) : iOff15 w = (w.setWidth 15).signExtend 64 := by
  rw [iOff15]
  congr 1
  apply BitVec.eq_of_toNat_eq
  simp [bf_zero_lo]

theorem iOff21_eq (w : Reg32) : iOff21 w = (w.setWidth 21).signExtend 64 := by
  rw [iOff21]
  congr 1
  apply BitVec.eq_of_toNat_eq
  simp [bf_zero_lo]

section Rows

variable {c : Instr} {s : State} {t : Thr} {o : Op} {w : Reg32} {f : Thread → State → Res}
  (hc : exec c s = .next (s.issue t o w f)) (hq : o.quiet = true)
include hc hq

/-- A transfer of control to a target in the program space. -/
theorem Gives.of_jump {y : State} {rd : Nat} {v target : Word} (h : Issues s t o w) (hf : f (s.thr t) s = .jump y target)
    (hy : OnlyThread s y t) (hx : y.thr t = (s.thr t).setReg rd v) (hp : Passes s t target.toNat) :
    Gives c s s t rd v target.toNat := by
  obtain ⟨x, hx, hu⟩ := State.issue_jumps h hf rfl hy hx hp
  rw [hq, if_pos rfl] at hx
  exact ⟨x, by rw [hc, hx], hu⟩

/-- A branch goes to its target where its condition holds, else to the next instruction, and writes no register. -/
theorem Gives.of_branch {taken : Prop} [Decidable taken] {target : Word} {to_ : Nat}
    (hf : f (s.thr t) s = if taken then .jump s target else .next s) (hp : Passes s t to_) (h : Issues s t o w)
    (hto : to_ = if taken then target.toNat else (s.thr t).pc + 1) : Gives c s s t 0 0 to_ := by
  have hsame : s.thr t = (s.thr t).setReg 0 0 := (Thread.setReg_zero _ _).symm
  subst hto
  split at hp <;> rename_i hcond
  · rw [if_pos hcond] at hf ⊢
    exact .of_jump hc hq h hf (.refl s t) hsame hp
  · rw [if_neg hcond] at hf ⊢
    obtain ⟨x, hx, hu⟩ := State.issue_ends h hf rfl (.refl s t) hsame hp
    rw [hq, if_pos rfl] at hx
    exact ⟨x, by rw [hc, hx], hu⟩

/-- A jump whose target lies outside the program space takes PC_RANGE, and what it would have written is discarded (R234). -/
theorem State.jump_outside {y : State} {target : Word} (h : Issues s t o w) (hf : f (s.thr t) s = .jump y target)
    (hp : pcIn t.core target.toNat = false) (hm : MayTrap s t 5) :
    ∃ u, exec c s = .next u ∧ Traps s u t 5 target (s.thr t).pc := by
  refine ⟨_, ?_, State.account_traps s t 5 target _ hm⟩
  rw [hc, State.issue_of h, hq, hf, if_pos rfl, State.finish, hp, if_neg Bool.false_ne_true]

end Rows

/-- Settles O7: each branch goes by its condition. -/
theorem branches : Obligations.Branches := by
  unfold Obligations.Branches
  rintro s t w a b taken near to_ next rfl rfl rfl rfl rfl hp
  rw [← iImmS_eq, ← iOff15_eq]
  refine ⟨.of_branch rfl rfl (if_congr ?_ rfl rfl) hp, .of_branch rfl rfl (if_congr ?_ rfl rfl) hp,
    .of_branch rfl rfl (if_congr ?_ rfl rfl) hp, .of_branch rfl rfl (if_congr ?_ rfl rfl) hp, .of_branch rfl rfl (if_congr ?_ rfl rfl) hp,
    .of_branch rfl rfl (if_congr ?_ rfl rfl) hp, .of_branch rfl rfl (if_congr ?_ rfl rfl) hp, fun h hto => ?_⟩
  · exact beq_iff_eq
  · exact bne_iff_ne
  · exact BitVec.slt_iff_toInt_lt
  · rw [Bool.not_eq_true', ← Bool.not_eq_true, BitVec.slt_iff_toInt_lt, Int.not_lt]
    rfl
  · exact BitVec.ult_iff_toNat_lt
  · rw [Bool.not_eq_true', ← Bool.not_eq_true, BitVec.ult_iff_toNat_lt, Nat.not_lt]
    rfl
  · exact beq_iff_eq
  · refine .of_branch rfl rfl (if_congr beq_iff_eq rfl rfl) hp h ?_
    rw [hto, ← ite_not]
    exact if_congr (Bool.not_eq_true _).to_iff rfl rfl

/-- Settles O8: inside the program space a jump links and goes, outside it traps. -/
theorem jumps : Obligations.Jumps := by
  unfold Obligations.Jumps
  rintro s t w c target pc rfl (⟨hi, rfl, rfl⟩ | ⟨hi, rfl, rfl⟩)
  · rw [← iOff21_eq]
    exact ⟨.of_jump rfl rfl hi rfl (State.modThr_only _ _ _) (State.setRd_thr _ _ _ _), State.jump_outside rfl rfl hi rfl⟩
  · rw [← iImmS_eq]
    exact ⟨.of_jump rfl rfl hi rfl (State.modThr_only _ _ _) (State.setRd_thr _ _ _ _), State.jump_outside rfl rfl hi rfl⟩

end Sys2Proof.Machine
end

section
/-! What the fetched word alone decides (R217, R218, R230). -/

namespace Sys2Proof.Machine

/-- The issue of an instruction that only an engine has is an issue. -/
theorem State.issueN_issue (s : State) (t : Thr) (o : Op) (w : Reg32) (f : NodeId → Thread → State → Res) :
    ∃ g, s.issueN t o w f = s.issue t o w g := by
  unfold State.issueN
  split <;> exact ⟨_, rfl⟩

/-- A command of an instruction that both profiles have issues it. -/
theorem exec_common {c : Instr} {t : Thr} {o : Op} {w : Reg32} (hc : c.sage = some (t, o, w)) (ho : o.engineOnly = false) (s : State) :
    ∃ f, exec c s = .next (s.issue t o w f) := by
  unfold Instr.sage at hc
  split at hc <;> cases hc <;> cases ho <;> exact ⟨_, rfl⟩

/-- A command of an instruction that only an engine has issues it. -/
theorem exec_engineOnly {c : Instr} {t : Thr} {o : Op} {w : Reg32} (hc : c.sage = some (t, o, w)) (ho : o.engineOnly = true) (s : State) :
    ∃ f, exec c s = .next (s.issueN t o w f) := by
  unfold Instr.sage at hc
  split at hc <;> cases hc <;> cases ho <;> exact ⟨_, rfl⟩

/-- Every instruction command issues its operation with its word. -/
theorem exec_sage {c : Instr} {t : Thr} {o : Op} {w : Reg32} (hc : c.sage = some (t, o, w)) (s : State) :
    ∃ f, exec c s = .next (s.issue t o w f) := by
  cases ho : o.engineOnly with
  | false => exact exec_common hc ho s
  | true =>
    obtain ⟨f, hf⟩ := exec_engineOnly hc ho s
    obtain ⟨g, hg⟩ := s.issueN_issue t o w f
    exact ⟨g, hf.trans (congrArg _ hg)⟩

/-- A word fetched unharmed that spells no instruction, or one that its operation may not run, traps (R230, R232). -/
theorem State.issue_wordTrap {s : State} {t : Thr} {o : Op} {w : Reg32} {cause : Nat} (f : Thread → State → Res)
    (hmay : s.mayIssue t = true) (hfetch : s.fetch t.core (s.thr t).pc = (w, Ecc.good))
    (h : opOf w = none ∧ cause = 1 ∨ opOf w = some o ∧ o.wordFault t.core (s.thr t) w = some cause) :
    s.issue t o w f = ((s.account t).trapTo t cause (w.setWidth 64) (s.thr t).pc).goOn := by
  have hce : s.fetchCe t (s.thr t).pc Ecc.good = s := rfl
  unfold State.issue
  obtain ⟨hop, rfl⟩ | ⟨hop, hfault⟩ := h
  · simp [hmay, hfetch, hop, hce, State.finish]
  · simp [hmay, hfetch, hop, hce, hfault, State.finish]

/-- The rules of R230 and R218 that a word of an instruction breaks. -/
theorem Op.wordFault_of {o : Op} {c : CoreId} {x : Thread} {w : Reg32} {cause : Nat}
    (h : cause = 1 ∧ (w.toNat &&& o.unused ≠ 0 ∨ c = .chervil ∧ o.engineOnly = true) ∨
      cause = 2 ∧ w.toNat &&& o.unused = 0 ∧ ¬(c = .chervil ∧ o.engineOnly = true) ∧ o.super = true ∧ x.priv = false) :
    o.wordFault c x w = some cause := by
  obtain ⟨rfl, hbad⟩ | ⟨rfl, hunused, hprofile, hsuper, hpriv⟩ := h
  · exact if_pos hbad
  · rw [Op.wordFault, if_neg (not_or.mpr ⟨not_not.mpr hunused, hprofile⟩), hsuper, hpriv]
    rfl

/-- Settles O9: the command issues its word, and the word decides the trap. -/
theorem wordTraps : Obligations.WordTraps := by
  unfold Obligations.WordTraps
  intro c s t o w cause hc hmay hfetch hm hwhy
  obtain ⟨f, hf⟩ := exec_sage hc s
  refine ⟨_, hf.trans (congrArg _ (State.issue_wordTrap f hmay hfetch ?_)), State.account_traps s t cause _ _ hm⟩
  obtain ⟨rfl, hop⟩ | ⟨rfl, hop, hbad⟩ | ⟨rfl, hop, hunused, hprofile, hsuper, hpriv⟩ := hwhy
  · exact .inl ⟨hop, rfl⟩
  · exact .inr ⟨hop, Op.wordFault_of (.inl ⟨rfl, hbad⟩)⟩
  · exact .inr ⟨hop, Op.wordFault_of (.inr ⟨rfl, hunused, hprofile, hsuper, hpriv⟩)⟩

end Sys2Proof.Machine
end

section
/-! TRAP, RTE, YIELD, the barriers and the control registers (Tables 7.3 to 7.5, R218, R222 to R224, R248, R249, R269). -/

namespace Sys2Proof.Machine

/-! ### Rules of an issue -/

section Issue

variable {c : Instr} {s : State} {t : Thr} {o : Op} {w : Reg32} {f : Thread → State → Res}
  (hc : exec c s = .next (s.issue t o w f)) (hq : o.quiet = false) (hi : Issues s t o w)
include hc hq hi

/-- An instruction that transfers control and leaves its thread as `y`. -/
theorem exec_jumps_now {z : State} {y : Thread} {target : Word} (hf : f (s.thr t) s = .jump z target) (hz : OnlyThread s z t)
    (hy : z.thr t = y) (htc : y.tc = (s.thr t).tc) (hp : Passes s t target.toNat) :
    ∃ u, exec c s = .next u.goOn ∧ OnlyThread s u t ∧ Now u t y target.toNat := by
  refine ⟨(z.account t).goto t (s.thr t).pc target.toNat, ?_, State.goto_now hz hy hp.1 (htc ▸ hp.2)⟩
  rw [State.issue_on hc hq hi hf, State.finish, hp.1, if_pos rfl]

end Issue

theorem checks_pass (w : Reg32) (r : Res) : checks w false false none none none r = r := rfl

/-! ### TRAP and RTE (R249) -/

/-- The thread that RTE leaves: what ETS saved returns to it, and its handle stays lost (log entry 38). -/
def Thread.returned (x : Thread) (c : CoreId) : Thread :=
  { x with trapActive := false, priv := decide (c = .chervil) || bt x.ets 0, incomplete := bt x.ets 1,
           trk := if bt x.ets 7 then some (bf x.ets 17 8) else none }

/-- TRAP raises SOFT with its immediate, and EPC is the next instruction. -/
theorem execTrap_soft {s : State} {t : Thr} {w : Reg32} (hi : Issues s t .trap w) (hm : MayTrap s t 12) :
    ∃ u, exec (.trap t w) s = .next u.goOn ∧ Traps s u t 12 ((w.setWidth 16).setWidth 64) ((s.thr t).pc + 1) := by
  refine ⟨_, State.issue_on (r := .soft (iImmZ w)) rfl rfl hi rfl, ?_⟩
  rw [iImmZ_eq]
  exact State.account_traps s t 12 _ _ hm

/-- RTE in a trap goes to EPC with what ETS saved. -/
theorem execRte_returns {s : State} {t : Thr} {w : Reg32} (hi : Issues s t .rte w) (ha : (s.thr t).trapActive = true)
    (hn : NoMerge s t) (hp : Passes s t (s.thr t).epc.toNat) :
    ∃ u, exec (.rte t w) s = .next u.goOn ∧ OnlyThread s u t ∧ Now u t ((s.thr t).returned t.core) (s.thr t).epc.toNat := by
  refine exec_jumps_now rfl rfl hi (z := s.modThr t fun x => x.returned t.core) ?_ (State.modThr_only s t _) ?_ rfl hp
  · simp only [ha, if_true, checks_pass, State.sbRelease_same hn]
    rfl
  · rw [State.modThr_thr, if_pos rfl]

/-- RTE outside a trap takes STATE 9. -/
theorem execRte_state {s : State} {t : Thr} {w : Reg32} (hi : Issues s t .rte w) (ha : (s.thr t).trapActive = false)
    (hm : MayTrap s t 11) : ∃ u, exec (.rte t w) s = .next u.goOn ∧ Traps s u t 11 9 (s.thr t).pc := by
  refine State.issue_traps rfl rfl hi ?_ hm
  simp only [ha]
  rfl

/-- Settles O10: TRAP is SOFT, and RTE goes by TRAP_ACTIVE. -/
theorem trapAndReturn : Obligations.TrapAndReturn := by
  unfold Obligations.TrapAndReturn
  rintro s t w x rfl
  exact ⟨execTrap_soft, execRte_returns, execRte_state⟩

end Sys2Proof.Machine
end

section
/-! The barriers and YIELD (R248, R249, R266, R296). -/

namespace Sys2Proof.Machine

/-! ### The barriers -/

section Barrier

variable {c : Instr} {s : State} {t : Thr} {o : Op} {w : Reg32} {trap : Bool} (hc : exec c s = .next (s.barrier t o w trap))
  (hq : o.quiet = false) (hi : Issues s t o w)
include hc hq hi

/-- A barrier that reports, with an empty buffer, writes INCOMPLETE to rd. -/
theorem State.barrier_reports (hp : Passes s t ((s.thr t).pc + 1)) (hsb : (s.thr t).sb = [])
    (htrap : (trap || bt (s.thr t).tc 0) = false) :
    GivesOn c s s t (bf w 25 21) (if (s.thr t).incomplete then 1 else 0) ((s.thr t).pc + 1) := by
  refine .of_writes hc hq hi ?_ rfl hp
  simp only [hsb, htrap, ne_eq, not_true_eq_false, Bool.false_eq_true, if_false]
  cases (s.thr t).incomplete <;> rfl

/-- A barrier that traps, with an empty buffer and nothing discarded, writes 0 to rd. -/
theorem State.barrier_clears (hp : Passes s t ((s.thr t).pc + 1)) (hsb : (s.thr t).sb = [])
    (htrap : (trap || bt (s.thr t).tc 0) = true) (hinc : (s.thr t).incomplete = false) :
    GivesOn c s s t (bf w 25 21) 0 ((s.thr t).pc + 1) := by
  refine .of_writes hc hq hi ?_ rfl hp
  simp only [hsb, htrap, hinc, ne_eq, not_true_eq_false, Bool.false_eq_true, if_false, if_true]
  rfl

/-- A barrier that traps, with an empty buffer and an access discarded, takes STORE_TMO with its address. -/
theorem State.barrier_traps (hsb : (s.thr t).sb = []) (htrap : (trap || bt (s.thr t).tc 0) = true)
    (hinc : (s.thr t).incomplete = true) (hm : MayTrap s t 9) :
    ∃ u, exec c s = .next u.goOn ∧ Traps s u t 9 (s.thr t).disc (s.thr t).pc := by
  refine State.issue_traps hc hq hi ?_ hm
  simp only [hsb, htrap, hinc, ne_eq, not_true_eq_false, if_false, if_true]

/-- A barrier waits for the buffer to empty, and issues again (Table 8.5). -/
theorem State.barrier_waits (hsb : (s.thr t).sb ≠ []) (hn : NoMerge s t) : exec c s =
    .next (s.modThr t fun x => { x with st := .stalled, pend := .again .barrier, via := none }).goOn := by
  refine State.issue_again hc hq hi ?_
  simp only [hsb, ne_eq, not_false_eq_true, if_true, State.sbRelease_same hn]

end Barrier

/-! ### YIELD -/

/-- A thread that differs from what it was in SLICE alone has written no register. -/
theorem Now.wroteNothing {u z : State} {t : Thr} {sl pc : Nat} (v : Word) (h : Now z t { u.thr t with slice := sl } pc) :
    WroteRd u z t 0 v pc := by
  obtain ⟨hsame, hstores, hpc, hready⟩ := h
  have hg : (z.thr t).g = (u.thr t).g := (congrArg Thread.g hsame :)
  refine ⟨rfl, fun r _ => ?_, ?_, hstores, hpc, hready⟩
  · rw [Thread.reg, Thread.reg, hg]
  · rintro x rfl
    rw [← hg]
    exact congrArg (fun y : Thread => { y with slice := (u.thr t).slice }) hsame

/-- An issue that is not the last of its slice takes one from SLICE (R266). -/
theorem State.account_slice {s : State} {t : Thr} (h : 1 < (s.thr t).slice) : ((s.account t).thr t).slice = (s.thr t).slice - 1 := by
  have hne : ¬((s.thr t).slice - 1 = 0 ∧ (s.core t.core).rival t.t.val (s.thr t).effPrio = false) := fun hc => by omega
  unfold State.account
  dsimp only
  split
  · rw [(State.cntN_counted _ _ _ _).thr, State.modThr_thr, if_pos rfl]
    exact if_neg hne
  · rw [State.modThr_thr, if_pos rfl]
    exact if_neg hne

/-- The thread of an instruction that is done and goes on. -/
theorem State.goto_thr {s : State} {t : Thr} {pc to_ : Nat} (h : pcIn t.core to_ = true) (ht : bt (s.thr t).tc 1 = false) :
    (s.goto t pc to_).thr t = { s.thr t with pc := to_, st := .ready, pend := .none } := by
  rw [State.goto_passes s t pc to_ h ht, State.modThr_thr, if_pos rfl]

/-- The block with thread `t` behind the other threads of its core in the rotation (R265). -/
def State.yielded (s : State) (t : Thr) : State :=
  s.setCore t.core { s.core t.core with order := (s.core t.core).order.filter (· != t.t.val) ++ [t.t.val] }

theorem State.yielded_thr (s : State) (t : Thr) : (s.yielded t).thr t = s.thr t := by
  rw [State.thr, State.yielded, State.core_setCore_self]
  rfl

/-- The same with the slice from which the issue of YIELD leaves 512. -/
def State.freshSlice (s : State) (t : Thr) : State := (s.yielded t).modThr t fun x => { x with slice := 513 }

theorem State.freshSlice_thr (s : State) (t : Thr) : (s.freshSlice t).thr t = { (s.yielded t).thr t with slice := 513 } := by
  rw [State.freshSlice, State.modThr_thr, if_pos rfl]

/-- YIELD moves its thread behind the others, with a fresh slice. -/
theorem execYield_yields {s : State} {t : Thr} {w : Reg32} (hi : Issues s t .yieldT w) (hp : Passes s t ((s.thr t).pc + 1)) :
    ∃ z, exec (.yieldT t w) s = .next z.goOn ∧ OnlyThread (s.yielded t) z t ∧
      WroteRd (s.yielded t) z t 0 0 ((s.thr t).pc + 1) ∧ (z.thr t).slice = 512 := by
  have hslice : ((s.freshSlice t).thr t).slice = 513 := (congrArg Thread.slice (s.freshSlice_thr t) :)
  have htc : bt (((s.freshSlice t).account t).thr t).tc 1 = false := by
    obtain ⟨sl, ha⟩ := State.account_thr (s.freshSlice t) t
    rw [ha, State.freshSlice_thr, State.yielded_thr]
    exact hp.2
  obtain ⟨honly, hnow⟩ := State.goto_now (pc := (s.thr t).pc) (State.modThr_only (s.yielded t) t _) (s.freshSlice_thr t) hp.1
    (by rw [State.yielded_thr]; exact hp.2)
  refine ⟨_, ?_, honly, hnow.wroteNothing 0, ?_⟩
  · rw [State.issue_on (r := .next (s.freshSlice t)) rfl rfl hi rfl, State.finish, hp.last, if_neg Bool.false_ne_true]
    rfl
  · calc _ = (((s.freshSlice t).account t).thr t).slice := (congrArg Thread.slice (State.goto_thr hp.1 htc) :)
      _ = 512 := by rw [State.account_slice (by omega), hslice]

/-- Settles O12: the barriers go by the buffer and INCOMPLETE, and YIELD moves its thread to the end of the order. -/
theorem barriersAndYield : Obligations.BarriersAndYield := by
  unfold Obligations.BarriersAndYield
  rintro s t w x pc rd rfl rfl rfl
  refine ⟨fun hi hp hsb htc => State.barrier_reports rfl rfl hi hp hsb htc,
    fun hi hp hsb htc hinc => State.barrier_clears rfl rfl hi hp hsb htc hinc,
    fun hi hp hsb hinc => State.barrier_clears rfl rfl hi hp hsb rfl hinc,
    fun hsb hinc hm => ⟨fun hi => State.barrier_traps rfl rfl hi hsb rfl hinc hm,
      fun hi htc => State.barrier_traps rfl rfl hi hsb htc hinc hm⟩,
    fun hsb hn u hu => hu ▸ ⟨fun hi => State.barrier_waits rfl rfl hi hsb hn, fun hi => State.barrier_waits rfl rfl hi hsb hn⟩,
    fun hi hp u hu => hu ▸ execYield_yields hi hp⟩

end Sys2Proof.Machine
end

section
/-! CRR and CRW (Tables 7.3 to 7.5, R222 to R224, R249). -/

namespace Sys2Proof.Machine

/-! ### The control registers by number -/

/-- The control registers of Table 7.3 with what each reads as. -/
def State.csrs (s : State) (t : Thr) (x : Thread) : List (Nat × Word) :=
  [(0x000, s.tsWord t), (0x001, x.tc), (0x002, x.epc), (0x003, x.ecause), (0x004, x.eval), (0x005, x.ets), (0x006, x.tvec),
    (0x007, x.sscr), (0x100, 0x100), (0x101, if t.core = .chervil then 0x387 else 0x7FF),
    (0x102, match t.core with | .node n => BitVec.ofNat 64 n.val | .chervil => 0x3F), (0x103, s.time.setWidth 64),
    (0x104, BitVec.ofNat 64 (s.fld HA_RST_STAT 2 0)), (0x105, BitVec.ofNat 64 s.mode.code), (0x106, BitVec.ofNat 64 x.slice)]

theorem State.csr_of_mem {s : State} {t : Thr} {i : Nat} {r : Word} (h : (i, r) ∈ s.csrs t (s.thr t)) : s.csr t i = some r := by
  have hall : ∀ e ∈ s.csrs t (s.thr t), s.csr t e.1 = some e.2 := by
    simp only [State.csrs, List.forall_mem_cons]
    refine ⟨rfl, rfl, rfl, rfl, rfl, rfl, rfl, rfl, rfl, ?_, rfl, rfl, rfl, rfl, rfl, fun _ h => absurd h List.not_mem_nil⟩
    rw [State.csr]
    cases t.core <;> rfl
  exact hall _ h

theorem State.csr_eq_none {i : Nat} (s : State) (t : Thr) (h : 0x106 < i ∨ 7 < i ∧ i < 0x100) : s.csr t i = none := by
  unfold State.csr
  dsimp only
  split
  case h_16 => rfl
  all_goals omega

theorem State.csr_isSome {i : Nat} (s : State) (t : Thr) (h : i ≤ 7 ∨ 0xFF < i ∧ i ≤ 0x106) : (s.csr t i).isSome = true := by
  obtain h | ⟨h1, h2⟩ := h
  · interval_cases i <;> rfl
  · interval_cases i <;> rfl

/-! ### CRR -/

section Crr

variable {s : State} {t : Thr} {w : Reg32} (hi : Issues s t .crr w)
include hi

/-- CRR at supervisor privilege writes a listed register to rd. -/
theorem execCrr_reads {r : Word} (hr : s.csr t (bf w 15 0) = some r) (hpriv : (s.thr t).priv = true)
    (hp : Passes s t ((s.thr t).pc + 1)) : GivesOn (.crr t w) s s t (bf w 25 21) r ((s.thr t).pc + 1) := by
  refine .of_writes rfl rfl hi ?_ rfl hp
  simp only [hr, hpriv]
  rfl

theorem execCrr_illegal (hr : s.csr t (bf w 15 0) = none) (hm : MayTrap s t 1) :
    ∃ u, exec (.crr t w) s = .next u.goOn ∧ Traps s u t 1 (w.setWidth 64) (s.thr t).pc := by
  refine State.issue_traps rfl rfl hi ?_ hm
  simp only [hr]
  rfl

theorem execCrr_priv (hr : (s.csr t (bf w 15 0)).isSome = true) (hpriv : (s.thr t).priv = false) (hm : MayTrap s t 2) :
    ∃ u, exec (.crr t w) s = .next u.goOn ∧ Traps s u t 2 (w.setWidth 64) (s.thr t).pc := by
  have hnone : (s.csr t (bf w 15 0)).isNone = false := by rw [← Option.not_isSome, hr]; rfl
  refine State.issue_traps rfl rfl hi ?_ hm
  simp only [hnone, hpriv]
  rfl

end Crr

/-! ### What CRW may write (log entry 121) -/

/-- The value names a bit that CRW may not write in register `i`, or no bit of it may be written. -/
def csrIll (i : Nat) (v : Word) : Bool :=
  match csrBits i with
  | some m => v &&& ~~~m != 0
  | none => true

/-- The thread after a write of `v` to control register `i`; TC.STEP is written only where `lc` opens it. -/
def Thread.csrWrite (x : Thread) (lc : Bool) (i : Nat) (v : Word) : Thread :=
  match i with
  | 0x000 => if bt v 1 then { x with incomplete := false } else x
  | 0x001 => { x with tc := BitVec.ofNat 64 (bf v 0 0 + 2 * if lc then bf v 1 1 else bf x.tc 1 1) }
  | 0x002 => { x with epc := v }
  | 0x003 => { x with ecause := v }
  | 0x004 => { x with eval := v }
  | 0x005 => { x with ets := v }
  | 0x006 => { x with tvec := v }
  | _ => { x with sscr := v }

/-- Only bits below `k` of a word are set exactly when it is less than `2 ^ k`. -/
theorem and_not_low_eq_zero (v : Word) (k : Nat) : v &&& ~~~BitVec.ofNat 64 (2 ^ k - 1) = 0 ↔ v.toNat < 2 ^ k := by
  have hbit (j : Nat) : (v &&& ~~~BitVec.ofNat 64 (2 ^ k - 1)).getLsbD j = (v.getLsbD j && decide (k ≤ j)) := by
    rw [BitVec.getLsbD_and, BitVec.getLsbD_not, BitVec.getLsbD_ofNat, Nat.testBit_two_pow_sub_one]
    by_cases hj : j < 64
    · simp only [hj, decide_true, Bool.true_and, ← decide_not, Nat.not_lt]
    · rw [BitVec.getLsbD_of_ge v j (Nat.not_lt.mp hj), Bool.false_and, Bool.false_and]
  constructor
  · intro h
    refine Nat.lt_pow_two_of_testBit _ fun j hj => ?_
    have hz := hbit j
    rw [h, decide_eq_true hj, Bool.and_true] at hz
    exact hz.symm.trans BitVec.getLsbD_zero
  · intro h
    refine BitVec.eq_of_getLsbD_eq fun j _ => ?_
    refine (hbit j).trans (.trans ?_ BitVec.getLsbD_zero.symm)
    by_cases hj : k ≤ j
    · have hz : v.getLsbD j = false := Nat.testBit_lt_two_pow (h.trans_le (Nat.pow_le_pow_right (by decide) hj))
      rw [hz, Bool.false_and]
    · rw [decide_eq_false hj, Bool.and_false]

theorem csrIll_tc (v : Word) : csrIll 1 v = true ↔ 4 ≤ v.toNat :=
  bne_iff_ne.trans ((not_congr (and_not_low_eq_zero v 2)).trans Nat.not_lt)

theorem csrIll_ecause (v : Word) : csrIll 3 v = true ↔ 32 ≤ v.toNat :=
  bne_iff_ne.trans ((not_congr (and_not_low_eq_zero v 5)).trans Nat.not_lt)

theorem csrIll_ts (v : Word) : csrIll 0 v = true ↔ v &&& 0xFFFFFFFFFFFFFFFD ≠ 0 := bne_iff_ne

theorem csrBits_eq_none {i : Nat} (h : 7 < i) : csrBits i = none := by
  unfold csrBits
  split
  case h_9 => rfl
  all_goals omega

/-- No bit of a register that is read-only or not listed may be written. -/
theorem csrIll_high {i : Nat} (v : Word) (h : 7 < i) : csrIll i v = true := by rw [csrIll, csrBits_eq_none h]

/-- A register whose every bit may be written. -/
theorem csrIll_whole {i : Nat} (v : Word) (h : csrBits i = some (BitVec.allOnes 64)) : csrIll i v = false := by
  simp [csrIll, h]

theorem csrIll_zero {i : Nat} (h : i ≤ 7) : csrIll i 0 = false := by interval_cases i <;> rfl

/-! ### The trap STEP (R249) -/

/-- Trap entry from the state at hand. -/
theorem State.trapTo_here {s : State} {t : Thr} {cause : Nat} (val : Word) (epc : Nat) (hm : MayTrap s t cause) :
    Traps s (s.trapTo t cause val epc) t cause val epc :=
  State.trapTo_traps val epc (.refl s t) ⟨_, _, _, rfl, id, id⟩ hm

/-- The account of an issue leaves a thread that may take a trap. -/
theorem MayTrap.account {s : State} {t : Thr} {cause : Nat} (h : MayTrap s t cause) : MayTrap (s.account t) t cause := by
  obtain ⟨hactive, hvec, hpar⟩ := h
  obtain ⟨sl, ha⟩ := State.account_thr s t
  refine ⟨by rw [ha]; exact hactive, by rw [ha]; exact hvec, ?_⟩
  rw [ha]
  intro e he
  obtain ⟨a, hmem, rfl⟩ := List.mem_map.mp he
  split
  · exact hpar a hmem
  · exact hpar a hmem

/-- Where TC.STEP is set, an instruction that is done is followed by STEP, with EPC where it goes. -/
theorem State.goto_steps {s : State} {t : Thr} {pc to_ : Nat} (h : pcIn t.core to_ = true) (ht : bt (s.thr t).tc 1 = true)
    (hm : MayTrap s t 13) : ((s.goto t pc to_).thr t).tc = (s.thr t).tc ∧ ((s.goto t pc to_).thr t).ecause = 13 ∧
      ((s.goto t pc to_).thr t).epc = BitVec.ofNat 64 to_ := by
  have hthr : (s.modThr t fun x => { x with pc := to_, st := .ready, pend := .none }).thr t =
      { s.thr t with pc := to_, st := .ready, pend := .none } := by rw [State.modThr_thr, if_pos rfl]
  have hgo : s.goto t pc to_ =
      (s.modThr t fun x => { x with pc := to_, st := .ready, pend := .none }).trapTo t 13 (BitVec.ofNat 64 to_) to_ := by
    rw [State.goto, h, Bool.not_true, if_neg Bool.false_ne_true, if_pos (by rw [hthr]; exact ht)]
  have hm' : MayTrap (s.modThr t fun x => { x with pc := to_, st := .ready, pend := .none }) t 13 := by
    rw [MayTrap, hthr]
    exact hm
  obtain ⟨⟨-, hepc, hcause, -⟩, -, -, ⟨-, -, -, hkept, -⟩, -⟩ := State.trapTo_here (BitVec.ofNat 64 to_) to_ hm'
  rw [hgo]
  exact ⟨hkept.trans (by rw [hthr]), hcause, hepc⟩

/-! ### CRW -/

theorem bf_bit_false {n : Nat} {v : BitVec n} {i : Nat} (h : bt v i = false) : bf v i i = 0 := by
  rw [bf, Nat.sub_self, Nat.shiftRight_eq_div_pow]
  have hbit : (v.toNat / 2 ^ i % 2 == 1) = false := (Nat.testBit_eq_decide_div_mod_eq ..).symm.trans h
  have hne := ne_of_beq_false hbit
  omega

/-- What TC holds after a write that leaves STEP at 0. -/
theorem tc_written {x : Thread} {lc : Bool} {v : Word} (hstep : bt x.tc 1 = false) (hv : ¬(lc = true ∧ bt v 1 = true)) :
    BitVec.ofNat 64 (bf v 0 0 + 2 * if lc then bf v 1 1 else bf x.tc 1 1) = v &&& 1 := by
  have hkeep : (if lc then bf v 1 1 else bf x.tc 1 1) = 0 := by
    cases lc with
    | false => exact bf_bit_false hstep
    | true => exact bf_bit_false (Bool.not_eq_true _ ▸ fun h => hv ⟨rfl, h⟩)
  rw [hkeep, bf_zero_lo]
  apply BitVec.eq_of_toNat_eq
  rw [BitVec.toNat_and, BitVec.toNat_ofNat, show (1 : Word).toNat = 1 from rfl, Nat.and_one_is_mod]
  omega

/-- What a write that is not ILLEGAL leaves, for the registers that CRW writes whole and for the fields it may write in the others. -/
theorem Thread.csrWrite_legal {x y : Thread} {lc : Bool} {i : Nat} {v : Word} (hstep : bt x.tc 1 = false)
    (h1 : i = 1 → v.toNat < 4 ∧ ¬(lc = true ∧ bt v 1 = true)) (h3 : i = 3 → v.toNat < 32)
    (h : (i, y) ∈ [(0x001, { x with tc := v &&& 1 }), (0x002, { x with epc := v }), (0x003, { x with ecause := v &&& 31 }),
        (0x004, { x with eval := v }), (0x005, { x with ets := v }), (0x006, { x with tvec := v }), (0x007, { x with sscr := v })] ∨
      i = 0 ∧ v = 2 ∧ y = { x with incomplete := false } ∨ i = 0 ∧ v = 0 ∧ y = x) :
    csrIll i v = false ∧ x.csrWrite lc i v = y ∧ bt y.tc 1 = false := by
  obtain h | ⟨rfl, rfl, rfl⟩ | ⟨rfl, rfl, rfl⟩ := h
  · simp only [List.mem_cons, Prod.mk.injEq, List.not_mem_nil, or_false] at h
    obtain ⟨rfl, rfl⟩ | ⟨rfl, rfl⟩ | ⟨rfl, rfl⟩ | ⟨rfl, rfl⟩ | ⟨rfl, rfl⟩ | ⟨rfl, rfl⟩ | ⟨rfl, rfl⟩ := h
    · obtain ⟨hlt, hopen⟩ := h1 rfl
      refine ⟨by rw [← Bool.not_eq_true, csrIll_tc]; exact Nat.not_le.mpr hlt, ?_, ?_⟩
      · rw [Thread.csrWrite, tc_written hstep hopen]
      · rw [bt, BitVec.toNat_and, Nat.testBit_and]
        exact Bool.and_false _
    · exact ⟨csrIll_whole v rfl, rfl, hstep⟩
    · have hlow : v &&& 31 = v := BitVec.eq_of_toNat_eq
        ((BitVec.toNat_and v 31).trans ((Nat.and_two_pow_sub_one_eq_mod v.toNat 5).trans (Nat.mod_eq_of_lt (h3 rfl))))
      rw [hlow]
      exact ⟨by rw [← Bool.not_eq_true, csrIll_ecause]; exact Nat.not_le.mpr (h3 rfl), rfl, hstep⟩
    all_goals exact ⟨csrIll_whole v rfl, rfl, hstep⟩
  · exact ⟨rfl, rfl, hstep⟩
  · exact ⟨rfl, rfl, hstep⟩

section Crw

variable {s : State} {t : Thr} {w : Reg32} {v : Word} (hv : v = (s.thr t).reg (bf w 20 16))
include hv

theorem exec_crw : ∃ f, exec (.crw t w) s = .next (s.issue t .crw w f) ∧ f (s.thr t) s =
    checks w (csrIll (bf w 15 0) v) (!(s.thr t).priv) none none none
      (.next (s.modThr t fun x => x.csrWrite s.lcOpen (bf w 15 0) v)) := by
  subst hv
  refine ⟨_, rfl, ?_⟩
  refine congrArg (checks w (csrIll (bf w 15 0) _) _ none none none) ?_
  unfold Thread.csrWrite
  generalize bf w 15 0 = i
  match i with
  | 0 | 1 | 2 | 3 | 4 | 5 | 6 | _ + 7 => rfl

variable (hi : Issues s t .crw w)
include hi

theorem execCrw_illegal (hill : csrIll (bf w 15 0) v = true) (hm : MayTrap s t 1) :
    ∃ u, exec (.crw t w) s = .next u.goOn ∧ Traps s u t 1 (w.setWidth 64) (s.thr t).pc := by
  obtain ⟨f, hc, hf⟩ := exec_crw hv
  rw [hill] at hf
  exact State.issue_traps hc rfl hi hf hm

theorem execCrw_priv (hill : csrIll (bf w 15 0) v = false) (hpriv : (s.thr t).priv = false) (hm : MayTrap s t 2) :
    ∃ u, exec (.crw t w) s = .next u.goOn ∧ Traps s u t 2 (w.setWidth 64) (s.thr t).pc := by
  obtain ⟨f, hc, hf⟩ := exec_crw hv
  rw [hill, hpriv] at hf
  exact State.issue_traps hc rfl hi hf hm

variable (hill : csrIll (bf w 15 0) v = false) (hpriv : (s.thr t).priv = true) (hpc : pcIn t.core ((s.thr t).pc + 1) = true)
include hill hpriv hpc

/-- CRW at supervisor privilege issues as a write of its register and goes on. -/
theorem execCrw_goes : exec (.crw t w) s = .next
    (((s.modThr t fun x => x.csrWrite s.lcOpen (bf w 15 0) v).account t).goto t (s.thr t).pc ((s.thr t).pc + 1)).goOn := by
  obtain ⟨f, hc, hf⟩ := exec_crw hv
  have hlast : pcLast t.core (s.thr t).pc = false := by rw [pcLast, hpc]; rfl
  rw [hill, hpriv] at hf
  rw [State.issue_on hc rfl hi hf, Bool.not_true, checks_pass, State.finish, hlast, if_neg Bool.false_ne_true]

variable {y : Thread} (hy : (s.thr t).csrWrite s.lcOpen (bf w 15 0) v = y)
include hy

/-- CRW at supervisor privilege writes its register. -/
theorem execCrw_writes (htc : bt y.tc 1 = false) :
    ∃ u, exec (.crw t w) s = .next u.goOn ∧ OnlyThread s u t ∧ Now u t y ((s.thr t).pc + 1) :=
  ⟨_, execCrw_goes hv hi hill hpriv hpc, State.goto_now (State.modThr_only s t _) (by rw [State.modThr_thr, if_pos rfl, hy]) hpc htc⟩

/-- CRW that leaves STEP set is followed by the trap STEP (log entry 32). -/
theorem execCrw_steps (htc : bt y.tc 1 = true)
    (hsame : y.trapActive = (s.thr t).trapActive ∧ y.tvec = (s.thr t).tvec ∧ y.sb = (s.thr t).sb)
    (hmay : MayTrap s t 13) : ∃ u : State, exec (.crw t w) s = .next u.goOn ∧ (u.thr t).tc = y.tc ∧ (u.thr t).ecause = 13 ∧
      (u.thr t).epc = BitVec.ofNat 64 ((s.thr t).pc + 1) := by
  obtain ⟨hactive, hvec, hsb⟩ := hsame
  have hput : (s.modThr t fun x => x.csrWrite s.lcOpen (bf w 15 0) v).thr t = y := by rw [State.modThr_thr, if_pos rfl, hy]
  obtain ⟨sl, hacc⟩ := State.account_thr (s.modThr t fun x => x.csrWrite s.lcOpen (bf w 15 0) v) t
  rw [hput] at hacc
  obtain ⟨htc', hcause, hepc⟩ := State.goto_steps (pc := (s.thr t).pc) hpc (by rw [hacc]; exact htc)
    (MayTrap.account (s := s.modThr t fun x => x.csrWrite s.lcOpen (bf w 15 0) v)
      (by rw [MayTrap, hput, hactive, hvec, hsb]; exact hmay))
  exact ⟨_, execCrw_goes hv hi hill hpriv hpc, htc'.trans (by rw [hacc]), hcause, hepc⟩

end Crw

/-- The values of TC that set STEP are legal, and written whole where the lifecycle opens STEP. -/
theorem Thread.csrWrite_step (x : Thread) {v : Word} (h : v = 2 ∨ v = 3) :
    csrIll 1 v = false ∧ x.csrWrite true 1 v = { x with tc := v } ∧ bt v 1 = true := by
  obtain rfl | rfl := h <;> exact ⟨rfl, rfl, rfl⟩

/-- Settles O11: CRR reads a listed register, CRW writes what csrIll lets it, and the rest traps. -/
theorem controlRegisters : Obligations.ControlRegisters := by
  unfold Obligations.ControlRegisters
  rintro s t w x v i pc rfl hv rfl rfl
  refine ⟨fun hi hpriv hp r hr => execCrr_reads hi (State.csr_of_mem hr) hpriv hp, fun hi hpriv hp h1 h3 y hy => ?_,
    fun hm hnone => ⟨fun hi => execCrr_illegal hi (s.csr_eq_none t hnone) hm,
      fun hi => execCrw_illegal hv hi (csrIll_high v (by omega)) hm⟩,
    fun hm hbad hi => execCrw_illegal hv hi ?_ hm,
    fun hm hpriv => ⟨fun hlisted hi => execCrr_priv hi (s.csr_isSome t hlisted) hpriv hm,
      fun hlow hzero hi => execCrw_priv hv hi (hzero ▸ csrIll_zero hlow) hpriv hm⟩,
    fun hm hi hpriv hpc htc hopen hstep => ?_⟩
  · obtain ⟨hill, hput, hnostep⟩ := Thread.csrWrite_legal (lc := s.lcOpen) hp.2 h1 h3 hy
    exact execCrw_writes hv hi hill hpriv hp.1 hput hnostep
  · obtain hhigh | ⟨h0, hts⟩ | ⟨h1, htc⟩ | ⟨h3, hcause⟩ := hbad
    · exact csrIll_high v (by omega)
    · rw [h0, csrIll_ts]; exact hts
    · rw [h1, csrIll_tc]; exact htc
    · rw [h3, csrIll_ecause]; exact hcause
  · obtain ⟨hill, hput, hset⟩ := (s.thr t).csrWrite_step hstep
    exact execCrw_steps (y := { s.thr t with tc := v }) hv hi (htc ▸ hill) hpriv hpc (by rw [htc, hopen]; exact hput) hset
      ⟨rfl, rfl, rfl⟩ hm

end Sys2Proof.Machine
end

section
/-! Stores into the store buffer (R225, R235, R236, R292). -/

namespace Sys2Proof.Machine

/-! ### The bytes of a store -/

/-- A place is aligned as every address is that reaches it. -/
theorem State.regionOf_canon_mod {s : State} {c : CoreId} {ea n : Nat} {r : Reg} (hn : n ∣ 8) (hr : s.regionOf c ea = some r) :
    r.canon % n = ea % n := by
  obtain ⟨k, hk⟩ := hn
  have h8 : r.canon % 8 = ea % 8 := by
    unfold State.regionOf at hr
    dsimp only at hr
    split at hr
    all_goals repeat' split at hr
    all_goals cases hr <;> simp only [Reg.canon] <;> omega
  rw [← Nat.mod_mul_right_mod r.canon n k, ← Nat.mod_mul_right_mod ea n k, ← hk, h8]

theorem getLsbD_laneMask (a n : Nat) {i : Nat} (hi : i < 64) :
    (laneMask a n).getLsbD i = (decide (a % 64 ≤ i) && decide (i < a % 64 + n)) := by
  rw [laneMask, BitVec.getLsbD_ofNat, decide_eq_true hi, Bool.true_and, Nat.testBit_mul_two_pow, Nat.testBit_two_pow_sub_one]
  by_cases h : a % 64 ≤ i
  · rw [decide_eq_true h, Bool.true_and, Bool.true_and, decide_eq_decide]
    omega
  · rw [decide_eq_false h, Bool.false_and, Bool.false_and]

/-- A value placed in its line has its bytes at its address. -/
theorem byteOf_laneData {a n i : Nat} (v : Word) (hin : a % 64 + n ≤ 64) (hi : i < n) :
    byteOf (laneData a v n) (a % 64 + i) = byteOf v i := by
  apply BitVec.eq_of_getLsbD_eq
  intro k hk
  rw [byteOf_getLsbD, byteOf_getLsbD, laneData, BitVec.getLsbD_ofNat, Nat.testBit_mul_two_pow, Nat.testBit_mod_two_pow]
  have h1 : 8 * (a % 64 + i) + k < 512 := by omega
  have h2 : 8 * (a % 64) ≤ 8 * (a % 64 + i) + k := by omega
  have h3 : 8 * (a % 64 + i) + k - 8 * (a % 64) = 8 * i + k := by omega
  have h4 : 8 * i + k < 8 * n := by omega
  rw [h3, decide_eq_true h1, decide_eq_true h2, decide_eq_true h4, Bool.true_and, Bool.true_and, Bool.true_and]
  rfl

/-! ### The thread after an issue -/

/-- The thread `x` after an instruction that left it so: one more issue, older merging stores, and the next index. -/
def Thread.issued (x : Thread) (slice pc : Nat) : Thread :=
  { x with slice := slice, run := x.run + 1, pc := pc, st := .ready, pend := .none,
           sb := x.sb.map fun e => if e.merging then { e with age := e.age + 1 } else e }

/-- An instruction that ends with `z`, and what it leaves of its thread. -/
theorem exec_issued {c : Instr} {s u z : State} {t : Thr} {o : Op} {w : Reg32} {f : Thread → State → Res}
    (hc : exec c s = .next (s.issue t o w f)) (hq : o.quiet = false) (hi : Issues s t o w) (hf : f (s.thr t) s = .next z)
    (hz : OnlyThread u z t) (hp : pcIn t.core ((s.thr t).pc + 1) = true) (ht : bt (z.thr t).tc 1 = false) :
    ∃ x sl, exec c s = .next x.goOn ∧ OnlyThread u x t ∧ x.thr t = (z.thr t).issued sl ((s.thr t).pc + 1) := by
  obtain ⟨sl, ha⟩ := State.account_thr z t
  obtain ⟨honly, -⟩ := State.goto_now (pc := (s.thr t).pc) hz rfl hp ht
  have hlast : pcLast t.core (s.thr t).pc = false := by rw [pcLast, hp]; rfl
  refine ⟨_, sl, ?_, honly, ?_⟩
  · rw [State.issue_on hc hq hi hf, State.finish, hlast, if_neg Bool.false_ne_true]
  · rw [State.goto_thr hp (by rw [ha]; exact ht), ha]
    rfl

/-! ### The store -/

/-- The entry that a store of `n` bytes of `v` at `a` takes in FIFO mode (R292). -/
def Thread.storeEnt (x : Thread) (a n : Nat) (v : Word) : SbEnt :=
  { id := x.sbNext, kind := .st, addr := a, mask := laneMask a n, data := laneData a v n, merging := false, pc := x.pc, trk := x.trk }

theorem Thread.sbStore_fifo (x : Thread) (isReg : Bool) (a n : Nat) (v : Word) :
    x.sbStore false isReg a n v x.pc = x.push (x.storeEnt a n v) := by
  simp [Thread.sbStore, Thread.push, Thread.storeEnt]

section Store

variable {c : Instr} {s : State} {t : Thr} {o : Op} {w : Reg32} {n : Nat} {ea : Word}
  (hc : exec c s = .next (s.storeOp t o w n)) (hq : o.quiet = false) (hi : Issues s t o w)
  (hea : ea = (s.thr t).reg (bf w 20 16) + (w.setWidth 16).signExtend 64) (hpriv : eaSuper ea.toNat = true → (s.thr t).priv = true)
include hc hq hi hea hpriv

/-- A permitted aligned store that finds a place joins the end of the buffer. -/
theorem State.storeOp_enters {r : Reg} (hreg : s.regionOf t.core ea.toNat = some r) (hw : r.widthOk true n = true)
    (hal : ea.toNat % n = 0) (hm : s.sbm = false) (hroom : (s.thr t).sb.length < 16) (hp : Passes s t ((s.thr t).pc + 1)) :
    ∃ u sl, exec c s = .next u.goOn ∧ OnlyThread s u t ∧
      u.thr t = ((s.thr t).push ((s.thr t).storeEnt r.canon n ((s.thr t).reg (bf w 25 21)))).issued sl ((s.thr t).pc + 1) := by
  have hs := and_not_eq_false hpriv
  have hpush : (s.modThr t fun x => x.push (x.storeEnt r.canon n ((s.thr t).reg (bf w 25 21)))).thr t =
      (s.thr t).push ((s.thr t).storeEnt r.canon n ((s.thr t).reg (bf w 25 21))) := by rw [State.modThr_thr, if_pos rfl]
  rw [← hpush]
  refine exec_issued hc hq hi ?_ (State.modThr_only s t _) hp.1 (by rw [hpush]; exact hp.2)
  simp only [iImmS_eq, iRs1, iRd, ← hea, hreg, hs, hw, hal, hm, Thread.sbRoom, hroom, decide_true, if_true, Thread.sbStore_fifo]
  rfl

/-- A permitted misaligned store takes ALIGN with its address (R232). -/
theorem State.storeOp_misaligned (hal : ea.toNat % n ≠ 0) (hm : MayTrap s t 3) :
    ∃ u, exec c s = .next u.goOn ∧ Traps s u t 3 ea (s.thr t).pc := by
  have hs := and_not_eq_false hpriv
  refine State.issue_traps hc hq hi ?_ hm
  simp only [iImmS_eq, iRs1, ← hea, hs, if_pos hal]
  rfl

/-- A permitted aligned store to no region takes ADDR with its address (R225). -/
theorem State.storeOp_nowhere (hal : ea.toNat % n = 0) (hreg : s.regionOf t.core ea.toNat = none) (hm : MayTrap s t 4) :
    ∃ u, exec c s = .next u.goOn ∧ Traps s u t 4 ea (s.thr t).pc := by
  have hs := and_not_eq_false hpriv
  refine State.issue_traps hc hq hi ?_ hm
  simp only [iImmS_eq, iRs1, ← hea, hs, hal, hreg]
  rfl

end Store

theorem Thread.issued_push_last (x : Thread) (e : SbEnt) (slice pc : Nat) (h : e.merging = false) :
    ((x.push e).issued slice pc).sb.getLast? = some e := by
  simp [Thread.issued, Thread.push, h]

theorem Thread.issued_push_ids (x : Thread) (e : SbEnt) (slice pc : Nat) :
    ((x.push e).issued slice pc).sb.map (·.id) = x.sb.map (·.id) ++ [e.id] := by
  have hid (e : SbEnt) : (if e.merging then { e with age := e.age + 1 } else e).id = e.id := by split <;> rfl
  simp only [Thread.issued, Thread.push, List.map_map, Function.comp_def, hid, List.map_append, List.map_cons, List.map_nil]

/-- Settles O15: each of the four stores is `storeOp` at its width, which divides a granule. -/
theorem stores : Obligations.Stores := by
  unfold Obligations.Stores
  rintro s t w n o c ea x pc hmem hi rfl hea rfl hpriv
  have hstore : exec c s = .next (s.storeOp t o w n) ∧ o.quiet = false ∧ n ∣ 8 := by
    simp only [List.mem_cons, Prod.mk.injEq, List.not_mem_nil, or_false] at hmem
    obtain ⟨rfl, rfl, rfl⟩ | ⟨rfl, rfl, rfl⟩ | ⟨rfl, rfl, rfl⟩ | ⟨rfl, rfl, rfl⟩ := hmem <;> exact ⟨rfl, rfl, by decide⟩
  obtain ⟨hc, hq, hn⟩ := hstore
  refine ⟨fun r hreg hw hal hm hroom hp => ?_, State.storeOp_misaligned hc hq hi hea hpriv, State.storeOp_nowhere hc hq hi hea hpriv⟩
  obtain ⟨u, sl, hu, honly, hthr⟩ := State.storeOp_enters hc hq hi hea hpriv hreg hw hal hm hroom hp
  have hin : r.canon % 64 + n ≤ 64 := by
    have h0 : r.canon % n = 0 := (State.regionOf_canon_mod hn hreg).trans hal
    have hn8 : n ≤ 8 := Nat.le_of_dvd (by decide) hn
    obtain ⟨k, hk⟩ := hn
    interval_cases n <;> omega
  refine ⟨u, _, hu, honly, hthr ▸ Thread.issued_push_last _ _ _ _ rfl, hthr ▸ Thread.issued_push_ids .., ?_⟩
  rw [hthr]
  exact ⟨rfl, rfl, rfl, rfl, rfl, rfl, rfl, rfl, fun i hi => getLsbD_laneMask _ _ hi, fun i hi => byteOf_laneData _ hin hi⟩

end Sys2Proof.Machine
end

section
/-! Atomic operations on a core's own data memory (R235, R295, Table 7.10). -/

namespace Sys2Proof.Machine

/-- Two writes of a core are the second. -/
theorem State.setCore_setCore (s : State) (c : CoreId) (x y : Core) : (s.setCore c x).setCore c y = s.setCore c y := by
  cases c with
  | chervil => rfl
  | node n =>
    change (s.modNd n fun z => { z with core := x }).modNd n (fun z => { z with core := y }) = _
    rw [State.modNd_modNd]
    rfl

/-- A core whose data memory holds the word `v` at `a`, stored with a fresh check. -/
def Core.putWord (c : Core) (a : Nat) (v : Word) : Core :=
  { c with ram := memWrite c.ram a v.toNat 8, ramSyn := smSet (fun _ => (0 : BitVec 8)) c.ramSyn (a / 8) 0 }

/-- An AMO on an intact word of a core's data memory answers the old word and stores the new one. -/
theorem State.ramAmo_intact {s : State} {t : Thr} {c : CoreId} {a fn : Nat} {v cmp old : Word} (ha : a % 8 = 0)
    (hold : old = BitVec.ofNat 64 (memRead (s.core c).ram a 8))
    (h : smGet (fun _ => (0 : BitVec 8)) (s.core c).ramSyn (a / 8) = 0) :
    s.ramAmo t c a fn v cmp = (some old, s.setCore c ((s.core c).putWord a (amoNew fn old v cmp))) := by
  have ha8 : 8 * (a / 8) = a := Nat.mul_div_cancel' (Nat.dvd_of_mod_eq_zero ha)
  simp only [State.ramAmo, State.ramRead_intact (t := t) (Nat.succ_pos 7) (by omega) h, ← hold, State.core_setCore_self,
    State.setCore_setCore, EccMem.put, Core.data, Core.setData, ha8, Core.putWord]

/-- An AMO of the thread's own data memory that no buffered store overlaps and whose word is intact is done at once. -/
theorem State.amoGo_own {s : State} {t : Thr} {rd fn ea k : Nat} {v cmp old : Word} {r : Reg} (hr : r.ramOf = some (t.core, k))
    (hk : k % 8 = 0) (hov : ∀ e ∈ (s.thr t).sb, e.overlaps r.canon 8 = false)
    (hold : old = BitVec.ofNat 64 (memRead (s.core t.core).ram k 8))
    (h : smGet (fun _ => (0 : BitVec 8)) (s.core t.core).ramSyn (k / 8) = 0) :
    s.amoGo t (s.thr t) rd fn v cmp ea r =
      .next ((s.setCore t.core ((s.core t.core).putWord k (amoNew fn old v cmp))).setRd t rd old) := by
  have hlast : (s.thr t).lastOver r.canon 8 = none := by
    rw [Thread.lastOver, List.filter_eq_nil_iff.mpr fun e he => by simp [hov e he]]
    rfl
  have hheld : s.accHeld t.core r = false := by simp [State.accHeld, Reg.isOwn, hr]
  unfold State.amoGo
  simp only [hlast]
  cases r with
  | scr | chvRam => simp [hheld, hr, State.ramAmo_intact hk hold h]
  | reg | prog | chvProg | bm => cases hr

/-- An AMO at a permitted aligned address of the thread's own data memory that no buffered store overlaps and whose word is intact
gives the old word and stores the new one (R235, R295). -/
theorem State.amoOp_own {c : Instr} {s : State} {t : Thr} {o : Op} {w : Reg32} {k : Nat} {ea old : Word} {r : Reg}
    (hc : exec c s = .next (s.amoOp t o w)) (hq : o.quiet = false) (hi : Issues s t o w) (hea : ea = (s.thr t).reg (bf w 20 16))
    (hpriv : eaSuper ea.toNat = true → (s.thr t).priv = true) (hreg : s.regionOf t.core ea.toNat = some r)
    (hram : r.ramOf = some (t.core, k)) (hal : ea.toNat % 8 = 0) (hov : ∀ e ∈ (s.thr t).sb, e.overlaps r.canon 8 = false)
    (hold : old = BitVec.ofNat 64 (memRead (s.core t.core).ram k 8))
    (hsyn : smGet (fun _ => (0 : BitVec 8)) (s.core t.core).ramSyn (k / 8) = 0) (hp : Passes s t ((s.thr t).pc + 1)) :
    GivesOn c s (s.setCore t.core ((s.core t.core).putWord k
      (amoNew (iFunc w) old ((s.thr t).reg (bf w 15 11)) ((s.thr t).reg (bf w 25 21))))) t (bf w 25 21) old ((s.thr t).pc + 1) := by
  have hk : k % 8 = 0 := (State.regionOf_ramOf_mod (Nat.dvd_refl 8) hreg hram).trans hal
  have hs := and_not_eq_false hpriv
  have hok : r.amoOk = true := by
    cases r with
    | scr | chvRam => rfl
    | reg | prog | chvProg | bm => cases hram
  refine GivesOn.of_writes hc hq hi ?_ (by simp [State.thr, Core.putWord, Core.thr]) hp
  simp only [iRs1, iRs2, iRd, ← hea, hreg, hs, hok, hal, State.amoGo_own hram hk hov hold hsyn]
  rfl

/-- The word of an AMO spells it by its function. -/
theorem opOf_amo {w : Reg32} {o : Op} (h : opOf w = some o) (ho : o ∈ amoOps) : amoOps[iFunc w]? = some o := by
  have hnot {l : List Op} {i : Nat} (hl : l.all (fun o => !amoOps.contains o) = true) (hi : l[i]? = some o) : False := by
    have := List.all_eq_true.mp hl o (List.mem_of_getElem? hi)
    simp [ho] at this
  have hone {p : Op} (hp : amoOps.contains p = false) (hi : some p = some o) : False := by
    cases hi
    simp [ho] at hp
  unfold opOf at h
  dsimp only at h
  split at h
  · exact (hnot (l := aluOps) (by decide) h).elim
  split at h
  · exact (hnot (l := immOps) (by decide) h).elim
  split at h
  · exact (hnot (l := brOps) (by decide) h).elim
  split at h
  · exact (hnot (l := memOps) (by decide) h).elim
  split at h
  · exact h
  · exact (hnot (l := lbOps) (by decide) h).elim
  · exact (hnot (l := sendOps) (by decide) h).elim
  · exact (hone (by decide) h).elim
  · exact (hone (by decide) h).elim
  · exact (hnot (l := sfOps) (by decide) h).elim
  · exact (hnot (l := trkOps) (by decide) h).elim
  · split at h
    · exact (hone (by decide) h).elim
    · cases h
  · split at h
    · exact (hone (by decide) h).elim
    · exact (hone (by decide) h).elim
    · exact (hone (by decide) h).elim
    · exact (hone (by decide) h).elim
    · cases h
  · exact (hone (by decide) h).elim
  · exact (hone (by decide) h).elim
  · exact (hone (by decide) h).elim
  · cases h

/-- The function of a word that spells the AMO of place `i` in the table is `i`. -/
theorem iFunc_of_opOf {w : Reg32} {i : Nat} (hi : i < amoOps.length) (h : opOf w = some amoOps[i]) : iFunc w = i := by
  have hf := opOf_amo h (List.getElem_mem hi)
  obtain ⟨hlt, he⟩ := List.getElem?_eq_some_iff.mp hf
  exact (List.Nodup.getElem_inj_iff (by decide : amoOps.Nodup)).mp he

/-- Settles O16: each row is `amoOp`, and its function selects the new word of Table 7.10. -/
theorem localAtomics : Obligations.LocalAtomics := by
  unfold Obligations.LocalAtomics
  rintro s t w o c ea a old new pc k r x m rfl hea rfl rfl rfl hreg hram hold hmem hi hpriv hal hov hsyn hp
  have hamo : exec c s = .next (s.amoOp t o w) ∧ o.quiet = false ∧
      new = amoNew (iFunc w) old ((s.thr t).reg (bf w 15 11)) ((s.thr t).reg (bf w 25 21)) := by
    simp only [List.mem_cons, Prod.mk.injEq, List.not_mem_nil, or_false] at hmem
    obtain ⟨rfl, rfl, rfl⟩ | ⟨rfl, rfl, rfl⟩ | ⟨rfl, rfl, rfl⟩ | ⟨rfl, rfl, rfl⟩ | ⟨rfl, rfl, rfl⟩ := hmem
    · rw [iFunc_of_opOf (i := 0) (by decide) hi.spells]; exact ⟨rfl, rfl, rfl⟩
    · rw [iFunc_of_opOf (i := 1) (by decide) hi.spells]; exact ⟨rfl, rfl, rfl⟩
    · rw [iFunc_of_opOf (i := 2) (by decide) hi.spells]; exact ⟨rfl, rfl, rfl⟩
    · rw [iFunc_of_opOf (i := 3) (by decide) hi.spells]; exact ⟨rfl, rfl, rfl⟩
    · rw [iFunc_of_opOf (i := 4) (by decide) hi.spells]; exact ⟨rfl, rfl, rfl⟩
  obtain ⟨hc, hq, rfl⟩ := hamo
  exact State.amoOp_own hc hq hi hea hpriv hreg hram hal hov hold hsyn hp

end Sys2Proof.Machine
end

section
/-! SEND.MGT (R245). -/

namespace Sys2Proof.Machine

/-- The source of a message is the line of the core's own data memory. -/
theorem State.mgtSrc_own (s : State) {c : CoreId} {a o : Nat}
    (h : c ≠ .chervil ∧ a < 0x8000 ∧ o = a ∨ c = .chervil ∧ a = 0x200000000 + o ∧ o < 0x20000) : s.mgtSrc c a = some o := by
  obtain ⟨hc, ha, rfl⟩ | ⟨rfl, rfl, ho⟩ := h
  · cases c with
    | chervil => exact absurd rfl hc
    | node n =>
      have hhi : o / 2 ^ 32 = 0 := by omega
      have hlo : o % 2 ^ 32 = o := by omega
      have hreg : s.regionOf (.node n) o = some (.scr n o) := by simp only [State.regionOf, hhi, hlo, if_pos ha]
      simp only [State.mgtSrc, hreg, true_and, if_pos ha]
  · have hhi : (0x200000000 + o) / 2 ^ 32 = 2 := by omega
    have hlo : (0x200000000 + o) % 2 ^ 32 = o := by omega
    have hreg : s.regionOf .chervil (0x200000000 + o) = some (.chvRam o) := by simp only [State.regionOf, hhi, hlo, if_pos ho]
    simp only [State.mgtSrc, hreg]

/-- The message SEND.MGT sends. -/
def State.mgtEnt (s : State) (t : Thr) (a o : Nat) (dst : CoreId) : SbEnt :=
  { id := (s.thr t).sbNext, kind := .mgt, addr := a, data := memLine (s.core t.core).ram (o / 64), pc := (s.thr t).pc,
    trk := (s.thr t).trk, dst := dst, merging := s.sbm }

section SendMgt

variable {s : State} {t : Thr} {w : Reg32} {v : Word} {a o : Nat} (hv : v = (s.thr t).reg (bf w 20 16))
  (ha : a = ((s.thr t).reg (bf w 15 11)).toNat) (hill : bf v 63 6 = 0) (hi : Issues s t .sendMgt w)
include hv ha hill hi

/-- A message that Chervil gets, or a node in service from a supervisor, takes a place of the store buffer. -/
theorem execSendMgt_sends {dst : CoreId} (hal : a % 64 = 0) (hsrc : s.mgtSrc t.core a = some o) (hp : Passes s t ((s.thr t).pc + 1))
    (hroom : (s.thr t).sb.length < 16) (hdst : bt v 5 = true ∧ dst = .chervil ∨ bt v 5 = false ∧ (s.thr t).priv = true ∧
      s.inService (Fin.ofNat 32 (bf v 4 0)) = true ∧ dst = .node (Fin.ofNat 32 (bf v 4 0))) :
    GivesOn (.sendMgt t w) s (s.modThr t fun x => x.push (s.mgtEnt t a o dst)) t 0 0 ((s.thr t).pc + 1) := by
  refine GivesOn.of_silent rfl rfl hi ?_ hp ⟨hp.1, by rw [State.modThr_thr, if_pos rfl]; exact hp.2⟩
  have hfull : ¬ 16 ≤ (s.thr t).sb.length := Nat.not_le.mpr hroom
  obtain ⟨hchv, rfl⟩ | ⟨hchv, hs, hserv, rfl⟩ := hdst
  · simp only [iRs1, iRs2, ← hv, ← ha, hill, hal, hsrc, hchv, hfull]
    rfl
  · simp only [iRs1, iRs2, ← hv, ← ha, hill, hal, hsrc, hchv, hs, hserv, hfull]
    rfl

omit ha in
/-- At flow privilege a message to a node takes PRIV (R218). -/
theorem execSendMgt_priv (hm : MayTrap s t 2) (hchv : bt v 5 = false) (hflow : (s.thr t).priv = false) :
    ∃ u, exec (.sendMgt t w) s = .next u.goOn ∧ Traps s u t 2 (w.setWidth 64) (s.thr t).pc := by
  refine State.issue_traps rfl rfl hi ?_ hm
  simp only [iRs1, ← hv, hill, hchv, hflow]
  rfl

end SendMgt

/-- Settles O28: the source and the place are there, so only the receiver decides. -/
theorem sendManagement : Obligations.SendManagement := by
  unfold Obligations.SendManagement
  rintro s t w x v a o dst e rfl hv ha hal hill hi hsrc
  refine ⟨fun hp hroom hdst he => ?_, execSendMgt_priv hv hill hi⟩
  subst he
  exact execSendMgt_sends hv ha hill hi hal (s.mgtSrc_own hsrc) hp hroom hdst

end Sys2Proof.Machine
end

section
/-! Array instructions in a state that forbids them (Table 7.8a). -/

namespace Sys2Proof.Machine

section States

variable {c : Instr} {s : State} {n : NodeId} {t : Thr} {o : Op} {w : Reg32} {sub : Nat}
  (hn : t.core = .node n) (hi : Issues s t o w) (hm : MayTrap s t 11)
include hn hi hm

/-- An array instruction whose state check names a sub-code takes STATE with it. -/
theorem State.issueN_state {f : NodeId → Thread → State → Res} {st : Option Nat} {k : Res} (hc : exec c s = .next (s.issueN t o w f))
    (hq : o.quiet = false) (hf : f n (s.thr t) s = checks w false false none none st k) (hst : st = some sub) :
    ∃ u, exec c s = .next u.goOn ∧ Traps s u t 11 (BitVec.ofNat 64 sub) (s.thr t).pc :=
  State.issue_traps (exec_issueN hc hn) hq hi (by rw [hf, hst]; rfl) hm

/-- Without a bound tracker each instruction that needs one takes STATE 1. -/
theorem arrayState_noTracker (hx : (s.thr t).trk = none)
    (hrow : (o, c) ∈ [(Op.lbm, Instr.lbm t w), (.lba, .lba t w), (.lbf, .lbf t w), (.lbld, .lbld t w), (.lbst, .lbst t w),
      (.lbmask, .lbmask t w), (.lbstat, .lbstat t w), (.sfa, .sfa t w), (.tfind, .tfind t w), (.tchain, .tchain t w),
      (.tfree, .tfree t w), (.trd, .trd t w), (.twr, .twr t w), (.plk, .plk t w)]) :
    ∃ u, exec c s = .next u.goOn ∧ Traps s u t 11 (BitVec.ofNat 64 1) (s.thr t).pc := by
  have hneed : needTrk (s.thr t) = some 1 := by rw [needTrk, hx]; rfl
  have hlb (es : List Nat) : s.lbState n (s.thr t) es = some 1 := by rw [State.lbState, hx]; rfl
  simp only [List.mem_cons, Prod.mk.injEq, List.not_mem_nil, or_false] at hrow
  obtain ⟨rfl, rfl⟩ | ⟨rfl, rfl⟩ | ⟨rfl, rfl⟩ | ⟨rfl, rfl⟩ | ⟨rfl, rfl⟩ | ⟨rfl, rfl⟩ | ⟨rfl, rfl⟩ | ⟨rfl, rfl⟩ | ⟨rfl, rfl⟩ |
    ⟨rfl, rfl⟩ | ⟨rfl, rfl⟩ | ⟨rfl, rfl⟩ | ⟨rfl, rfl⟩ | ⟨rfl, rfl⟩ := hrow
  · exact State.issueN_state hn hi hm rfl rfl rfl (hlb _)
  · exact State.issueN_state hn hi hm rfl rfl rfl hneed
  · exact State.issueN_state hn hi hm rfl rfl rfl (hlb _)
  · exact State.issueN_state hn hi hm rfl rfl rfl (hlb _)
  · exact State.issueN_state hn hi hm rfl rfl rfl (hlb _)
  · exact State.issueN_state hn hi hm rfl rfl rfl (hlb _)
  · exact State.issueN_state hn hi hm rfl rfl rfl (hlb _)
  · exact State.issueN_state hn hi hm rfl rfl rfl (by rw [sfaState, hx]; rfl)
  · exact State.issueN_state hn hi hm rfl rfl rfl hneed
  · exact State.issueN_state hn hi hm rfl rfl rfl (by rw [hx])
  · exact State.issueN_state hn hi hm rfl rfl rfl (by rw [State.tfreeState, hx])
  · exact State.issueN_state hn hi hm rfl rfl rfl hneed
  · exact State.issueN_state hn hi hm rfl rfl rfl (by rw [hx]; rfl)
  · exact State.issueN_state hn hi hm rfl rfl rfl hneed

/-- A line-buffer entry that the bound tracker does not own takes STATE 3 (R238). -/
theorem arrayState_notOwned (hx : (s.thr t).trk ≠ none)
    (hown : ((s.nd n).lbAt (bf ((s.thr t).reg (bf w 20 16)) 8 0)).own ≠ (s.thr t).trk)
    (hrow : (o, c) ∈ [(Op.lbm, Instr.lbm t w), (.lbf, .lbf t w), (.lbld, .lbld t w), (.lbst, .lbst t w), (.lbmask, .lbmask t w),
      (.lbstat, .lbstat t w)]) :
    ∃ u, exec c s = .next u.goOn ∧ Traps s u t 11 (BitVec.ofNat 64 3) (s.thr t).pc := by
  have hlb (es : List Nat) : s.lbState n (s.thr t) (bf ((s.thr t).reg (iRs1 w)) 8 0 :: es) = some 3 := by
    simp [State.lbState, hx, iRs1, hown]
  simp only [List.mem_cons, Prod.mk.injEq, List.not_mem_nil, or_false] at hrow
  obtain ⟨rfl, rfl⟩ | ⟨rfl, rfl⟩ | ⟨rfl, rfl⟩ | ⟨rfl, rfl⟩ | ⟨rfl, rfl⟩ | ⟨rfl, rfl⟩ := hrow
  · exact State.issueN_state hn hi hm rfl rfl rfl (hlb _)
  · exact State.issueN_state hn hi hm rfl rfl rfl (hlb _)
  · exact State.issueN_state hn hi hm rfl rfl rfl (hlb _)
  · exact State.issueN_state hn hi hm rfl rfl rfl (hlb _)
  · exact State.issueN_state hn hi hm rfl rfl rfl (hlb _)
  · exact State.issueN_state hn hi hm rfl rfl rfl (hlb _)

end States

/-- Settles O18: each row's state check names its sub-code of Table 7.8a. -/
theorem arrayStates : Obligations.ArrayStates := by
  unfold Obligations.ArrayStates
  rintro s n t w o c x sub hn rfl hi hm
  rintro (⟨rfl, hx, hrow⟩ | ⟨rfl, hx, hown, hrow⟩ | ⟨rfl, hx, hmiss, hrow⟩ | ⟨k, hx, hrow⟩)
  · exact arrayState_noTracker hn hi hm hx hrow
  · exact arrayState_notOwned hn hi hm hx hown hrow
  · cases hrow
    exact State.issueN_state hn hi hm rfl rfl rfl (by simp [sfaState, hx, regSector, iRs1, hmiss])
  · obtain ⟨rfl, hrow, hout⟩ | ⟨rfl, hrow, l, hl, hact⟩ | ⟨rfl, hrow, hword⟩ := hrow
    · cases hrow
      refine State.issueN_state hn hi hm rfl rfl rfl ?_
      rw [State.tfreeState, hx]
      exact if_pos hout
    · cases hrow
      have hholds : (s.nd n).holdsLine k = true := List.any_eq_true.mpr ⟨l, hl, by rw [hact]; exact beq_self_eq_true _⟩
      refine State.issueN_state hn hi hm rfl rfl rfl ?_
      rw [hx]
      exact if_pos hholds
    · cases hrow
      refine State.issueN_state hn hi hm rfl rfl rfl ?_
      have hother : ¬ (bf w 13 11 = 3 ∨ bf w 13 11 = 6 ∨ bf w 13 11 = 7) := by
        simp only [List.mem_cons, List.not_mem_nil, or_false] at hword
        omega
      rw [hx]
      exact if_neg hother

end Sys2Proof.Machine
end

section
/-! WAIT and END (R247): the end of a handler and the wake of its flow. -/

namespace Sys2Proof.Machine

/-! ### What the sends of a store buffer leave of the trackers -/

theorem OnlyThread.trk {s u : State} {t : Thr} (h : OnlyThread s u t) (m : NodeId) : (u.nd m).trk = (s.nd m).trk := by
  have hm := congrArg Node.trk (h.nodes m)
  exact hm

theorem State.bmIssue_nd {s u : State} {why : BmWhy} {wr : Bool} {l : Nat} {be : BitVec 64} {d : Line} {i : Nat}
    (h : s.bmIssue why wr l be d = some (i, u)) (m : NodeId) : u.nd m = s.nd m := by
  unfold State.bmIssue at h
  split at h
  · cases h
  · simp only [Option.some.injEq, Prod.mk.injEq] at h
    rw [← h.2, (State.cntB_counted _ _ _).nd]
    rfl

theorem State.mpQueue_nd (s : State) (p : MpId) (i : Nat) (m : NodeId) : (s.mpQueue p i).nd m = s.nd m := rfl

theorem State.modSb_trk (s : State) (t : Thr) (i : Nat) (f : SbEnt → SbEnt) (m : NodeId) :
    ((s.modSb t i f).nd m).trk = (s.nd m).trk :=
  (State.modThr_only s t _).trk m

/-- Sending an entry without a parity error changes no tracker. -/
theorem State.sbSendOne_trk (s : State) (t : Thr) {e : SbEnt} (he : e.parBad = false) (m : NodeId) :
    ((s.sbSendOne t e).nd m).trk = (s.nd m).trk := by
  unfold State.sbSendOne
  rw [he, if_neg Bool.false_ne_true]
  split
  · rfl
  split
  · exact State.modSb_trk ..
  · refine (State.modSb_trk ..).trans ?_
    split
    · split <;> rfl
    · rfl
  · split
    · split
      · next h => exact (State.modSb_trk ..).trans (congrArg Node.trk (State.bmIssue_nd h m))
      · rfl
    · exact State.modSb_trk ..

theorem State.sbSendWhile_trk (t : Thr) (p : SbEnt → Bool) (m : NodeId) (k : Nat) :
    ∀ s : State, (∀ e ∈ (s.thr t).sb, e.parBad = false) → ((s.sbSendWhile t p k).nd m).trk = (s.nd m).trk := by
  induction k with
  | zero => exact fun _ _ => rfl
  | succ k ih =>
    intro s hc
    unfold State.sbSendWhile
    split
    · rfl
    · next e he =>
      split
      · have hbad := hc e (List.mem_of_find?_eq_some he)
        exact (ih _ (State.sbSendOne_sbOnly s t e hbad hc).clean).trans (State.sbSendOne_trk s t hbad m)
      · rfl

/-- Sending the merging stores of a buffer without parity errors changes no tracker. -/
theorem State.sbRelease_trk (s : State) (t : Thr) (hc : ∀ e ∈ (s.thr t).sb, e.parBad = false) (m : NodeId) :
    ((s.sbRelease t).nd m).trk = (s.nd m).trk := by
  unfold State.sbRelease State.sbFlush
  split
  · have h := State.mapSb_sbOnly s t (fun e => if ((s.thr t).sb.map (·.id)).contains e.id then { e with merging := false } else e)
      (fun e => by split <;> rfl) hc
    exact (State.sbSendWhile_trk t _ m _ _ h.clean).trans ((State.modThr_only s t _).trk m)
  · rfl

/-! ### The end of a handler -/

/-- A thread whose handler ended. -/
def Thread.ended (x : Thread) : Thread := { x with st := .free, handle := none, trk := none, inbox := none, pend := .none }

/-- A core whose thread `k` gives up inbox slot `slot` and is done with engine start. -/
def Core.gaveUp (c : Core) (slot : Option Nat) (k : Nat) : Core :=
  { c with inbox := (match slot with | some i => c.inbox.filter (· != i) | none => c.inbox)
           starting := c.starting.filter (· != k) }

theorem State.endHandler_eq (s : State) (t : Thr) : s.endHandler t =
    (fun z : State => z.setCore t.core ((z.core t.core).gaveUp ((s.sbRelease t).thr t).inbox t.t.val))
      ((s.sbRelease t).modThr t Thread.ended) := rfl

theorem State.setCore_nd (s : State) (c : CoreId) (x : Core) (m : NodeId) :
    { (s.setCore c x).nd m with core := (s.nd m).core } = s.nd m := by
  cases c with
  | chervil => rfl
  | node n =>
    rw [State.setCore, State.nd_setNd]
    split
    · next h => rw [h]
    · rfl

theorem State.setCore_trk (s : State) (c : CoreId) (x : Core) (m : NodeId) : ((s.setCore c x).nd m).trk = (s.nd m).trk := by
  have hm := congrArg Node.trk (s.setCore_nd c x m)
  exact hm

/-- A core that keeps its threads keeps them in the state. -/
theorem State.thr_setCore {s : State} {c : CoreId} {x : Core} (h : x.threads = (s.core c).threads) (k : Thr) :
    (s.setCore c x).thr k = s.thr k := by
  rw [State.thr, State.core_setCore]
  split
  · next hc => rw [Core.thr, h, State.thr, hc, Core.thr]
  · rfl

theorem State.gaveUp_thr (s : State) (c : CoreId) (slot : Option Nat) (k : Nat) (j : Thr) :
    (s.setCore c ((s.core c).gaveUp slot k)).thr j = s.thr j :=
  State.thr_setCore (x := (s.core c).gaveUp slot k) rfl j

theorem State.endHandler_trk (s : State) (t : Thr) (hc : ∀ e ∈ (s.thr t).sb, e.parBad = false) (m : NodeId) :
    ((s.endHandler t).nd m).trk = (s.nd m).trk := by
  rw [State.endHandler_eq]
  exact (State.setCore_trk ..).trans (((State.modThr_only _ t _).trk m).trans (s.sbRelease_trk t hc m))

theorem State.endHandler_thr (s : State) (t : Thr) : (s.endHandler t).thr t = ((s.sbRelease t).thr t).ended := by
  rw [State.endHandler_eq]
  refine (State.gaveUp_thr ..).trans ?_
  rw [State.modThr_thr, if_pos rfl]

/-- With no merging store to send, the end of a handler changes its thread, its inbox slot and its start alone. -/
theorem State.endHandler_noMerge {s : State} {t : Thr} (h : NoMerge s t) :
    s.endHandler t = (s.setCore t.core ((s.core t.core).gaveUp (s.thr t).inbox t.t.val)).modThr t Thread.ended := by
  rw [State.endHandler_eq, State.sbRelease_same h]
  simp only [State.modThr, State.setThr, State.core_setCore_self, State.setCore_setCore, State.gaveUp_thr]
  rfl

theorem State.endHandler_thr_ne {s : State} {t j : Thr} (h : NoMerge s t) (hj : j ≠ t) : (s.endHandler t).thr j = s.thr j := by
  rw [State.endHandler_noMerge h, State.modThr_thr, if_neg hj, State.gaveUp_thr]

theorem State.endHandler_nd {s : State} {t : Thr} (h : NoMerge s t) (m : NodeId) :
    { (s.endHandler t).nd m with core := (s.nd m).core } = s.nd m := by
  rw [State.endHandler_noMerge h]
  have hthr := (State.modThr_only (s.setCore t.core ((s.core t.core).gaveUp (s.thr t).inbox t.t.val)) t Thread.ended).nodes m
  have hcore := s.setCore_nd t.core ((s.core t.core).gaveUp (s.thr t).inbox t.t.val) m
  rw [← hthr] at hcore
  exact hcore

/-! ### The wake of a flow (R261) -/

/-- A node whose flow `k` has its wake event queued. -/
def Node.woken (x : Node) (k : Nat) : Node :=
  let r := x.trkAt k
  let e : Evt := { evt := if r.kind ≤ 1 then 0x40 else 0x41, cls := BitVec.ofNat 3 r.cls, trk := some k, datum := 0 }
  let y := x.setTrk k { r with waiting := false }
  { y with core := { y.core with events := y.core.events ++ [e] } }

/-- A flow is woken: it waits, it is not wedged, and an awaited condition is pending. -/
def Node.wakes (x : Node) (k : Nat) : Bool :=
  let r := x.trkAt k
  r.v && r.waiting && !r.wedged && r.wait &&& x.pendMask k != 0

theorem State.wake_eq (s : State) (n : NodeId) (k : Nat) :
    s.wake n k = if (s.nd n).wakes k then s.modNd n (·.woken k) else s := rfl

theorem Node.trkAt_woken (x : Node) (k j : Nat) :
    (x.woken k).trkAt j = if j = k then { x.trkAt k with waiting := false } else x.trkAt j :=
  smGet_smSet ..

theorem Node.pendMask_woken (x : Node) (k : Nat) : (x.woken k).pendMask k = x.pendMask k := by
  have hk : (x.woken k).trkAt k = { x.trkAt k with waiting := false } := by rw [Node.trkAt_woken, if_pos rfl]
  unfold Node.pendMask
  rw [hk]
  rfl

theorem State.wake_thr (s : State) (n : NodeId) (k : Nat) (j : Thr) : (s.wake n k).thr j = s.thr j := by
  rw [State.wake_eq]
  split
  · rw [State.thr, State.thr]
    cases hc : j.core with
    | chervil => rfl
    | node m =>
      simp only [State.core, State.nd_modNd]
      split
      · next h => rw [h]; rfl
      · rfl
  · rfl

/-- A wake changes the core and the trackers of its node alone. -/
theorem State.wake_nd (s : State) (n : NodeId) (k : Nat) (m : NodeId) :
    { (s.wake n k).nd m with core := (s.nd m).core, trk := (s.nd m).trk } = s.nd m := by
  rw [State.wake_eq]
  split
  · rw [State.nd_modNd]
    split
    · next h => rw [h]; rfl
    · rfl
  · rfl

theorem State.wake_trkAt_ne (s : State) (n : NodeId) {k j : Nat} (h : j ≠ k) : ((s.wake n k).nd n).trkAt j = (s.nd n).trkAt j := by
  rw [State.wake_eq]
  split
  · rw [State.nd_modNd_self, Node.trkAt_woken, if_neg h]
  · rfl

/-- Of its own tracker a wake changes WAITING alone. -/
theorem State.wake_trkAt (s : State) (n : NodeId) (k : Nat) : ((s.wake n k).nd n).trkAt k =
    { (s.nd n).trkAt k with waiting := !(s.nd n).wakes k && ((s.nd n).trkAt k).waiting } := by
  rw [State.wake_eq]
  split
  · next h => rw [State.nd_modNd_self, Node.trkAt_woken, if_pos rfl, h]; rfl
  · next h => rw [Bool.eq_false_iff.mpr h]; rfl

theorem State.wake_pendMask (s : State) (n : NodeId) (k : Nat) : ((s.wake n k).nd n).pendMask k = (s.nd n).pendMask k := by
  rw [State.wake_eq]
  split
  · rw [State.nd_modNd_self, Node.pendMask_woken]
  · rfl

end Sys2Proof.Machine
end

section
/-! WAIT and END (R247). -/

namespace Sys2Proof.Machine

/-- A tracker in a WAIT for the conditions of `mask`, to resume at `pc`. -/
def Trk.waits (r : Trk) (mask pc : Nat) : Trk :=
  { r.setW2 39 33 mask with w0 := setBf (r.setW2 39 33 mask).w0 21 8 pc, waiting := true }

theorem Trk.waits_wait (r : Trk) {mask : Nat} (pc : Nat) (h : mask < 128) : (r.waits mask pc).wait = mask :=
  (bf_setBf_self r.w2 mask (by decide) (by decide)).trans (Nat.mod_eq_of_lt h)

theorem Trk.waits_resume (r : Trk) (mask : Nat) {pc : Nat} (h : pc < 2 ^ 14) : (r.waits mask pc).resume = pc :=
  (bf_setBf_self r.w0 pc (by decide) (by decide)).trans (Nat.mod_eq_of_lt h)

theorem Trk.waits_v (r : Trk) (mask pc : Nat) : (r.waits mask pc).v = r.v :=
  bt_setBf_other r.w0 pc (by decide) (.inl (by decide))

/-- The state after WAIT has stored what the flow waits for and its handler has ended, before the wake. -/
def State.inWait (s : State) (n : NodeId) (t : Thr) (k : Nat) (w : Reg32) : State :=
  (s.modTrk n k (·.waits (bf w 25 19) (bf w 13 0))).endHandler t

theorem State.modTrk_nd (s : State) (n : NodeId) (k : Nat) (f : Trk → Trk) (m : NodeId) :
    { (s.modTrk n k f).nd m with core := (s.nd m).core, trk := (s.nd m).trk } = s.nd m := by
  rw [State.modTrk, State.nd_modNd]
  split
  · next h => rw [h]; rfl
  · rfl

section Wait

variable {s : State} {n : NodeId} {t : Thr} {w : Reg32} {k : Nat} (hn : t.core = .node n) (hi : Issues s t .wait w)
  (hc : ∀ e ∈ (s.thr t).sb, e.parBad = false)

include hn hi in
theorem execWait_waits (hk : (s.thr t).trk = some k) (hm : bf w 25 19 ≠ 0)
    (hsyn : ∀ i ∈ [0, 2], smGet (fun _ => (0 : BitVec 8)) ((s.nd n).trkAt k).syn i = 0) :
    exec (.wait t w) s = .next (((s.inWait n t k w).wake n k).cntN n 0x001 1).goOn := by
  have h2 := hsyn 2 (by decide)
  have h0 : smGet (fun _ => (0 : BitVec 8)) (((s.modTrk n k fun r => r.setW2 39 33 (bf w 25 19)).nd n).trkAt k).syn 0 = 0 := by
    simpa [State.modTrk, Node.trkAt, Node.setTrk, Trk.setW2] using hsyn 0 (by decide)
  rw [State.issue_on (exec_issueN rfl hn) rfl hi (r := .left ((s.inWait n t k w).wake n k))]
  · simp only [State.finish, hn]
  · have hneed : needTrk (s.thr t) = none := by rw [needTrk, hk]; rfl
    have hmask : (bf w 25 19 == 0) = false := beq_false_of_ne hm
    simp only [hk, hneed, hmask, State.updTrk_intact h2, State.updTrk_intact h0, State.modTrk_modTrk]
    rfl

include hc in
theorem State.inWait_trkAt (m : NodeId) (j : Nat) : ((s.inWait n t k w).nd m).trkAt j =
    if m = n ∧ j = k then ((s.nd n).trkAt k).waits (bf w 25 19) (bf w 13 0) else (s.nd m).trkAt j := by
  have htrk := (s.modTrk n k (·.waits (bf w 25 19) (bf w 13 0))).endHandler_trk t (by rw [State.modTrk_thr]; exact hc) m
  have hat : ((s.inWait n t k w).nd m).trkAt j = ((s.modTrk n k (·.waits (bf w 25 19) (bf w 13 0))).nd m).trkAt j :=
    congrArg (smGet (fun _ => ({} : Trk)) · j) htrk
  rw [hat, State.modTrk, State.nd_modNd]
  by_cases hm : m = n
  · subst hm
    simp only [if_pos, Node.trkAt_setTrk, true_and]
  · simp only [hm, if_false, false_and]

/-- The thread that WAIT frees. -/
theorem State.inWait_thr : ∃ x : Thread, (s.inWait n t k w).thr t = x.ended :=
  ⟨_, State.endHandler_thr _ t⟩

/-- With no merging store to send, WAIT changes of the nodes only cores and trackers, and no other thread. -/
theorem State.inWait_noMerge (h : NoMerge s t) (m : NodeId) :
    { (s.inWait n t k w).nd m with core := (s.nd m).core, trk := (s.nd m).trk } = s.nd m ∧
      ∀ j, j ≠ t → (s.inWait n t k w).thr j = s.thr j := by
  have hz : NoMerge (s.modTrk n k (·.waits (bf w 25 19) (bf w 13 0))) t := ⟨h.1, by rw [State.modTrk_thr]; exact h.2⟩
  refine ⟨?_, fun j hj => (State.endHandler_thr_ne hz hj).trans (State.modTrk_thr ..)⟩
  have hend := State.endHandler_nd hz m
  have htrk := State.modTrk_nd s n k (·.waits (bf w 25 19) (bf w 13 0)) m
  rw [← hend] at htrk
  exact htrk

end Wait

/-- WAIT with a bound tracker (R247). -/
theorem handlerEnds_wait {s : State} {n : NodeId} {t : Thr} {w : Reg32} {k : Nat} (hn : t.core = .node n) (hi : Issues s t .wait w)
    (hk : (s.thr t).trk = some k) (hm : bf w 25 19 ≠ 0)
    (hsyn : ∀ i ∈ [0, 2], smGet (fun _ => (0 : BitVec 8)) ((s.nd n).trkAt k).syn i = 0) (hc : ∀ e ∈ (s.thr t).sb, e.parBad = false) :
    ∃ u : State, exec (.wait t w) s = .next u.goOn ∧ (u.thr t).st = .free ∧ (u.thr t).trk = none ∧ (u.thr t).handle = none ∧
      ((u.nd n).trkAt k).wait = bf w 25 19 ∧ ((u.nd n).trkAt k).resume = bf w 13 0 ∧
      (∀ j, j ≠ k → (u.nd n).trkAt j = (s.nd n).trkAt j) ∧
      (((s.nd n).trkAt k).v = true → ((s.nd n).trkAt k).wedged = false →
        (((u.nd n).trkAt k).waiting = false ↔ bf w 25 19 &&& (u.nd n).pendMask k ≠ 0)) ∧
      (NoMerge s t → ∀ m, { u.nd m with core := (s.nd m).core, trk := (s.nd m).trk } = s.nd m ∧
        ∀ j, j ≠ t → u.thr j = s.thr j) := by
  have hcnt := State.cntN_counted ((s.inWait n t k w).wake n k) n 0x001 1
  obtain ⟨x, hx⟩ := State.inWait_thr (s := s) (n := n) (t := t) (k := k) (w := w)
  have hthr : ((((s.inWait n t k w).wake n k).cntN n 0x001 1).thr t) = x.ended := by rw [hcnt.thr, State.wake_thr, hx]
  have hown := State.inWait_trkAt (n := n) (k := k) (w := w) hc n k
  rw [if_pos ⟨rfl, rfl⟩] at hown
  have hwait : (((s.inWait n t k w).nd n).trkAt k).wait = bf w 25 19 := by
    rw [hown]
    exact Trk.waits_wait _ _ (bf_lt ..)
  have hat := State.wake_trkAt (s.inWait n t k w) n k
  refine ⟨_, execWait_waits hn hi hk hm hsyn, by rw [hthr]; rfl, by rw [hthr]; rfl, by rw [hthr]; rfl, ?_, ?_, fun j hj => ?_,
    fun hv hwed => ?_, fun h m => ⟨?_, fun j hj => ?_⟩⟩
  · rw [hcnt.nd, hat]
    exact hwait
  · rw [hcnt.nd, hat, hown]
    exact Trk.waits_resume _ _ (bf_lt ..)
  · rw [hcnt.nd, State.wake_trkAt_ne _ _ hj, State.inWait_trkAt hc, if_neg fun h => hj h.2]
  · rw [hcnt.nd, State.wake_pendMask, hat]
    have hv' : (((s.inWait n t k w).nd n).trkAt k).v = true := by rw [hown, Trk.waits_v, hv]
    have hwed' : (((s.inWait n t k w).nd n).trkAt k).wedged = false := by rw [hown]; exact hwed
    have hwaiting : (((s.inWait n t k w).nd n).trkAt k).waiting = true := by rw [hown]; rfl
    simp only [Node.wakes, hv', hwed', hwaiting, hwait, Bool.and_true, Bool.true_and, Bool.not_false, Bool.not_eq_false', bne_iff_ne]
  · rw [hcnt.nd]
    have hw := State.wake_nd (s.inWait n t k w) n k m
    have hq := (State.inWait_noMerge (n := n) (k := k) (w := w) h m).1
    rw [← hw] at hq
    exact hq
  · rw [hcnt.thr, State.wake_thr]
    exact (State.inWait_noMerge h m).2 j hj

/-- Only an engine has WAIT, so its thread is one of a node. -/
theorem Issues.core_node {s : State} {t : Thr} {o : Op} {w : Reg32} (h : Issues s t o w) (ho : o.engineOnly = true) :
    ∃ n, t.core = .node n := by
  cases hc : t.core with
  | node n => exact ⟨n, rfl⟩
  | chervil =>
    have hallow := h.allowed
    rw [Op.wordFault, if_pos (.inr ⟨hc, ho⟩)] at hallow
    cases hallow

/-- WAIT for nothing takes ILLEGAL, and without a bound tracker STATE 1. -/
theorem handlerEnds_waitTraps {s : State} {t : Thr} {w : Reg32} {cause : Nat} {v : Word} (hi : Issues s t .wait w)
    (hm : MayTrap s t cause) (hwhy : bf w 25 19 = 0 ∧ cause = 1 ∧ v = w.setWidth 64 ∨
      bf w 25 19 ≠ 0 ∧ (s.thr t).trk = none ∧ cause = 11 ∧ v = 1) :
    ∃ u : State, exec (.wait t w) s = .next u.goOn ∧ Traps s u t cause v (s.thr t).pc := by
  obtain ⟨n, hn⟩ := hi.core_node rfl
  refine State.issue_traps (exec_issueN rfl hn) rfl hi ?_ hm
  obtain ⟨hmask, rfl, rfl⟩ | ⟨hmask, htrk, rfl, rfl⟩ := hwhy
  · simp only [hmask, beq_self_eq_true, checks, if_true]
  · exact checks_state (beq_false_of_ne hmask) (by rw [needTrk, htrk]; rfl)

/-- What the end of a handler leaves is counted at a node. -/
theorem State.finish_left (s y : State) (t : Thr) (pc : Nat) : Counted y (s.finish t pc (.left y)) := by
  rw [State.finish]
  split
  · exact State.cntN_counted ..
  · exact Counted.refl _

/-- END without a bound tracker. -/
theorem handlerEnds_end {s : State} {t : Thr} {w : Reg32} (hi : Issues s t .endH w) (hk : (s.thr t).trk = none) :
    ∃ u : State, exec (.endH t w) s = .next u.goOn ∧ (u.thr t).st = .free ∧ (u.thr t).handle = none ∧ (u.thr t).inbox = none ∧
      (NoMerge s t → (u.thr t).g = (s.thr t).g ∧
        OnlyThread (s.setCore t.core ((s.core t.core).gaveUp (s.thr t).inbox t.t.val)) u t) := by
  have hcnt := s.finish_left (s.endHandler t) t (s.thr t).pc
  have hend := State.issue_on (c := .endH t w) rfl rfl hi (checks_runs (w := w) rfl (by rw [hk]; rfl))
  have hthr := hcnt.thr t
  rw [State.endHandler_thr] at hthr
  refine ⟨_, hend, by rw [hthr]; rfl, by rw [hthr]; rfl, by rw [hthr]; rfl, fun h => ⟨?_, ?_⟩⟩
  · rw [hthr, State.sbRelease_same h]
    rfl
  · refine OnlyThread.trans ?_ (hcnt.only t)
    rw [State.endHandler_noMerge h]
    exact State.modThr_only ..

/-- Settles O13: WAIT stores what it waits for, ends the handler and wakes the flow; END ends the handler. -/
theorem handlerEnds : Obligations.HandlerEnds := by
  unfold Obligations.HandlerEnds
  refine ⟨fun s n t w k hn hi hk hm hsyn hc => handlerEnds_wait hn hi hk hm hsyn hc,
    fun s t w cause v hi hm hwhy => handlerEnds_waitTraps hi hm hwhy, ?_, fun s t w k hi hk hm => ?_⟩
  · rintro s t w hi hk c s1 rfl rfl
    exact handlerEnds_end hi hk
  · exact State.issue_traps rfl rfl hi (checks_state rfl (by rw [hk]; rfl)) hm

end Sys2Proof.Machine
end

section
/-! Writes of a line to a checked memory (R227, R437). -/

namespace Sys2Proof.Machine

/-- Replacing the selected of the low `n` bytes of a word. -/
theorem byteOf_foldl_setBf {w : Nat} (p : Nat → Bool) (old v : BitVec w) (i n : Nat) (hn : 8 * n ≤ w) :
    byteOf ((List.range n).foldl (fun a j => if p j then setBf a (8 * j + 7) (8 * j) (bf v (8 * j + 7) (8 * j)) else a) old) i =
      if i < n ∧ p i = true then byteOf v i else byteOf old i := by
  induction n with
  | zero => simp
  | succ n ih =>
    specialize ih (by omega)
    rw [List.range_succ, List.foldl_append, List.foldl_cons, List.foldl_nil]
    by_cases hin : i = n
    · subst hin
      rw [if_neg fun h => absurd h.1 (lt_irrefl _)] at ih
      cases hp : p i
      · simpa [hp] using ih
      · rw [if_pos rfl, byteOf_setBf _ _ _ _ _ (le_refl _) (by omega), if_pos ⟨le_refl _, le_refl _⟩]
        simp [ofNat_bf_byte]
    · have hlt : i < n + 1 ↔ i < n := by omega
      simp only [hlt, ← ih]
      split
      · rw [byteOf_setBf _ _ _ _ _ (le_refl _) (by omega), if_neg (by omega)]
      · rfl

theorem byteOf_memGran (m : Memory) (g : Nat) {i : Nat} (hi : i < 8) : byteOf (memGran m g) i = memByte m (8 * g + i) := by
  have h := bf_memGran m (8 * g + i) 1 (by decide) (by omega)
  have hdiv : (8 * g + i) / 8 = g := by omega
  have hmod : (8 * g + i) % 8 = i := by omega
  have hhi : 8 * (i + 1) - 1 = 8 * i + 7 := by omega
  rw [hdiv, hmod, hhi] at h
  rw [← ofNat_bf_byte, h, memRead, memRead]
  simp

theorem testBit_bf_byte {w : Nat} (v : BitVec w) (n : Nat) {k : Nat} (hk : k < 8) :
    (bf v (8 * n + 7) (8 * n)).testBit k = v.getLsbD (8 * n + k) := by
  have hw : k < 8 * n + 7 - 8 * n + 1 := by omega
  rw [testBit_bf, decide_eq_true hw, Bool.true_and]

theorem byteOf_bf_word (d : Line) (n : Nat) {i : Nat} (hi : i < 8) :
    byteOf (BitVec.ofNat 64 (bf d (64 * n + 63) (64 * n))) i = byteOf d (8 * n + i) := by
  apply BitVec.eq_of_getLsbD_eq
  intro k hk
  have h64 : 8 * i + k < 64 := by omega
  have hw : 8 * i + k < 64 * n + 63 - 64 * n + 1 := by omega
  have hat : 64 * n + (8 * i + k) = 8 * (8 * n + i) + k := by omega
  rw [byteOf_getLsbD, byteOf_getLsbD, BitVec.getLsbD_ofNat, testBit_bf, decide_eq_true h64, decide_eq_true hw, hat,
    Bool.true_and, Bool.true_and]

/-- A granule of a memory is intact. -/
def EccMem.Intact (m : EccMem) (g : Nat) : Prop := smGet (fun _ => (0 : BitVec 8)) m.syn g = 0

theorem EccMem.intact_put {m : EccMem} {j : Nat} (g : Nat) (v : Word) (h : m.Intact j) : (m.put g v).Intact j := by
  unfold EccMem.Intact EccMem.put
  rw [smGet_smSet]
  split
  · rfl
  · exact h

theorem EccMem.memByte_put (m : EccMem) (g : Nat) (v : Word) (b : Nat) :
    memByte (m.put g v).mem b = if b / 8 = g then byteOf v (b % 8) else memByte m.mem b := by
  unfold EccMem.put
  split
  · next h =>
    have hb : b = 8 * g + b % 8 := by omega
    conv_lhs => rw [hb]
    exact memByte_memWrite _ _ _ _ _ (by omega)
  · exact memByte_memWrite_ne _ _ _ _ _ (by omega)

/-- A masked write of an intact granule replaces the bytes under the mask. -/
theorem EccMem.write_intact {m : EccMem} {g be : Nat} (v : Word) (h : m.Intact g) :
    ∃ z, m.write g be v = (z, false, false) ∧ (∀ j, m.Intact j → z.Intact j) ∧
      ∀ b, memByte z.mem b = if b / 8 = g ∧ be.testBit (b % 8) = true then byteOf v (b % 8) else memByte m.mem b := by
  unfold EccMem.write
  split
  · next h0 => exact ⟨m, rfl, fun _ hj => hj, fun b => by simp [h0]⟩
  · split
    · next h1 =>
      refine ⟨_, rfl, fun _ => EccMem.intact_put g v, fun b => ?_⟩
      have hbit : be.testBit (b % 8) = true := by
        rw [h1]
        have : b % 8 < 8 := Nat.mod_lt _ (by decide)
        interval_cases b % 8 <;> rfl
      rw [EccMem.memByte_put, hbit]
      simp
    · rw [EccMem.get_intact h]
      refine ⟨_, rfl, fun _ => EccMem.intact_put g _, fun b => ?_⟩
      rw [EccMem.memByte_put]
      split
      · next hg =>
        have h8 : b % 8 < 8 := Nat.mod_lt _ (by decide)
        have hb : 8 * g + b % 8 = b := by omega
        rw [byteOf_foldl_setBf (fun i => be.testBit i) _ _ _ _ (by decide), byteOf_memGran _ _ h8, hb]
        simp [h8, hg]
      · next hg => rw [if_neg fun h => hg h.1]

/-- A masked write of a line whose granules are intact replaces the bytes under the mask. -/
theorem EccMem.writeLine_intact {m : EccMem} {line : Nat} {be : BitVec 64} {d : Line} (h : ∀ g, g / 8 = line → m.Intact g) :
    ∃ z, m.writeLine line be d = (z, false, false) ∧
      ∀ b, memByte z.mem b = if b / 64 = line ∧ be.getLsbD (b % 64) = true then byteOf d (b % 64) else memByte m.mem b := by
  have key (n : Nat) (hn : n ≤ 8) : ∃ z, (List.range n).foldl (fun a i =>
      let r := a.1.write (8 * line + i) (bf be (8 * i + 7) (8 * i)) (BitVec.ofNat 64 (bf d (64 * i + 63) (64 * i)))
      (r.1, a.2.1 || r.2.1, a.2.2 || r.2.2)) (m, false, false) = (z, false, false) ∧ (∀ j, m.Intact j → z.Intact j) ∧
      ∀ b, memByte z.mem b = if b / 64 = line ∧ b % 64 / 8 < n ∧ be.getLsbD (b % 64) = true then byteOf d (b % 64)
        else memByte m.mem b := by
    induction n with
    | zero => exact ⟨m, rfl, fun _ hj => hj, fun b => by simp⟩
    | succ n ih =>
      obtain ⟨y, hy, hint, hbytes⟩ := ih (by omega)
      obtain ⟨z, hz, hint', hbytes'⟩ := EccMem.write_intact (m := y) (g := 8 * line + n) (be := bf be (8 * n + 7) (8 * n))
        (BitVec.ofNat 64 (bf d (64 * n + 63) (64 * n))) (hint _ (h _ (by omega)))
      refine ⟨z, ?_, fun j hj => hint' j (hint j hj), fun b => ?_⟩
      · rw [List.range_succ, List.foldl_append, hy, List.foldl_cons, List.foldl_nil, hz]
        rfl
      · rw [hbytes', hbytes]
        by_cases hb : b / 8 = 8 * line + n
        · have hb64 : b % 64 = 8 * n + b % 8 := by omega
          have hline : b / 64 = line := by omega
          have hat : b % 64 / 8 < n + 1 := by omega
          have hbelow : ¬ b % 64 / 8 < n := by omega
          have h8 : b % 8 < 8 := Nat.mod_lt _ (by decide)
          simp only [hb, hline, hat, hbelow, true_and, false_and, if_false, testBit_bf_byte be n h8, byteOf_bf_word d n h8, ← hb64]
        · have hrange : b / 64 = line ∧ b % 64 / 8 < n + 1 ↔ b / 64 = line ∧ b % 64 / 8 < n := by omega
          rw [if_neg fun h => hb h.1]
          simp only [← and_assoc, hrange]
  obtain ⟨z, hz, -, hbytes⟩ := key 8 (le_refl 8)
  refine ⟨z, hz, fun b => ?_⟩
  rw [hbytes]
  have h8 : b % 64 / 8 < 8 := by omega
  simp [h8]

end Sys2Proof.Machine
end

section
/-! Completion of a sent store or message (R287, R292). -/

namespace Sys2Proof.Machine

/-- A store to intact data memory of a core is its masked line write. -/
theorem State.perform_ram {s : State} {t : Thr} {e : SbEnt} {c : CoreId} {o : Nat} (hr : (regOfCanon e.addr).ramOf = some (c, o))
    (h : ∀ g, g / 8 = o / 64 → (s.core c).data.Intact g) :
    ∃ z, s.perform t e = s.setCore c ((s.core c).setData z) ∧ ∀ b, memByte z.mem b =
      if b / 64 = o / 64 ∧ e.mask.getLsbD (b % 64) = true then byteOf e.data (b % 64) else memByte (s.core c).ram b := by
  obtain ⟨z, hz, hbytes⟩ := EccMem.writeLine_intact (be := e.mask) (d := e.data) h
  refine ⟨z, ?_, hbytes⟩
  unfold State.perform
  cases hreg : regOfCanon e.addr with
  | scr n k =>
    rw [hreg] at hr
    cases hr
    exact congrArg (s.storeEcc t e.pc · _) hz
  | chvRam k =>
    rw [hreg] at hr
    cases hr
    exact congrArg (s.storeEcc t e.pc · _) hz
  | reg | prog | chvProg | bm => rw [hreg] at hr; cases hr

section Complete

variable {s : State} {t : Thr} {i : Fin 16} {rsp : BmErr} {e : SbEnt} (hlive : s.accLive t = true)
  (hat : ((s.thr t).sb.drop i.val).head? = some e)

include hlive hat in
theorem execAccessCompletion_sb : exec (.accessCompletion t (.sb i) rsp) s =
    .next (s.sbComplete t ((s.thr t).sb.take i.val) e rsp).pendAll.goOn := by
  have hexec : exec (.accessCompletion t (.sb i) rsp) s = execAccessCompletion t (.sb i) rsp s := rfl
  simp [hexec, execAccessCompletion, hlive, hat]

/-- An entry that is sent, took no switch of tables, and is behind no other of its target. -/
structure SbEnt.Due (e : SbEnt) (earlier : List SbEnt) : Prop where
  sent : e.sent ≠ none
  via : e.via = none
  first : ∀ b ∈ earlier, b.target ≠ e.target

theorem SbEnt.Due.passes {earlier : List SbEnt} (h : e.Due earlier) :
    (e.sent.isNone || e.via == some false || earlier.any fun b => b.target == e.target) = false := by
  have hsent : e.sent.isNone = false := by simpa using Option.ne_none_iff_isSome.mp h.sent
  have hfirst : (earlier.any fun b => b.target == e.target) = false := by simpa using h.first
  rw [hsent, h.via, hfirst]
  rfl

/-- A due store whose endpoint is reached is performed and leaves the buffer. -/
theorem State.sbComplete_store {earlier : List SbEnt} (h : e.Due earlier) (hk : e.kind = .st)
    (hbm : ∀ b, regOfCanon e.addr ≠ .bm b) (hreach : s.reaches t.core (regOfCanon e.addr) = true) :
    s.sbComplete t earlier e rsp = (s.perform t e).dropSb t e.id := by
  unfold State.sbComplete
  simp only [h.passes, hk, hreach, Bool.or_true, if_true, Bool.false_eq_true, if_false]

/-- A due message that its receiver takes leaves the buffer. -/
theorem State.sbComplete_message {earlier : List SbEnt} {u : State} (h : e.Due earlier) (hk : e.kind = .mgt) (hnak : e.nak = none)
    (hreach : s.mgtReaches e.dst = true) (hrep : ¬ (e.dst = .chervil ∧ bf e.data 7 0 = 0xD0))
    (hput : s.inboxPut e.dst (senderCode t.core) e.data = some u) :
    s.sbComplete t earlier e rsp = u.dropSb t e.id := by
  unfold State.sbComplete
  simp [h.passes, hk, hreach, hnak, State.deliverMgt, hrep, hput]

end Complete

/-- Settles O33: an entry that is not due is left, and a due one is performed or delivered. -/
theorem storesComplete : Obligations.StoresComplete := by
  unfold Obligations.StoresComplete
  rintro s t i rsp e hlive hat
  rw [execAccessCompletion_sb hlive hat]
  refine ⟨fun h => ?_, fun h => ?_, fun hsent hvia hfirst => ?_⟩
  · rw [State.sbComplete, h]
    rfl
  · rw [State.sbComplete, h, if_pos (by simp)]
  · have hdue : e.Due ((s.thr t).sb.take i.val) := ⟨hsent, hvia, hfirst⟩
    refine ⟨fun c o hk hr hreach hint => ?_, fun a hk hr hsunk => ?_, fun u hk hnak hreach hrep hput => ?_⟩
    · obtain ⟨z, hz, hbytes⟩ := State.perform_ram (t := t) hr hint
      have hbm (b : Nat) : regOfCanon e.addr ≠ .bm b := fun h => by rw [h] at hr; cases hr
      refine ⟨_, by rw [State.sbComplete_store hdue hk hbm hreach], ?_, fun b => ?_⟩
      · rw [hz, State.core_setCore_self]
        rfl
      · rw [hz, State.core_setCore_self, memRead_one, memRead_one]
        exact (congrArg BitVec.toNat (hbytes b)).trans (apply_ite ..)
    · have hreach : s.reaches t.core (regOfCanon e.addr) = true := by rw [hr, State.reaches, hsunk]; rfl
      have hperf : s.perform t e = s.regTo (srcOf t.core e.pc) a (BitVec.ofNat 32 (e.value a 4).toNat) := by
        rw [State.perform, hr]
      rw [State.sbComplete_store hdue hk (by simp [hr]) hreach, hperf]
    · rw [State.sbComplete_message hdue hk hnak hreach hrep hput]

end Sys2Proof.Machine
end

section
/-! Completion and timeout of an awaited load or AMO (R226, R287, R295). -/

namespace Sys2Proof.Machine

/-! ### Register accesses leave every thread -/

section Threads

variable (s : State) (k : Thr)

theorem State.capture_thr (cap valid ts val : Nat) : (s.capture cap valid ts val).thr k = s.thr k := by
  unfold State.capture
  split
  · rfl
  · rw [State.thr_setRaw, State.thr_setRaw]

theorem State.accErr_thr (kind a : Nat) (wr priv : Bool) : (s.accErr kind a wr priv).thr k = s.thr k := by
  rw [State.accErr, State.raise_threads, State.capture_thr]

theorem State.engErr_thr (t : Thr) (i c pc : Nat) : (s.engErr t i c pc).thr k = s.thr k := by
  rw [State.engErr, State.raise_threads]
  split
  · rfl
  · split <;> exact State.capture_thr ..

/-- A debug read of a granule consumes at most free values. -/
theorem State.granGet_thr (a : Arr) (g : Nat) : (s.granGet a g).2.thr k = s.thr k := by
  have hfree (p : HpId) : (s.granFree p).2.thr k = s.thr k := by
    unfold State.granFree
    split <;> rfl
  cases a with
  | bank | rmap | trk | que | thr | prog | scr | chvProg | chvRam | sess => rfl
  | lbuf n =>
    unfold State.granGet
    dsimp only
    split
    · rfl
    split
    · rfl
    split <;> rfl
  | qec | mtag | mirror | evq => unfold State.granGet; dsimp only; split <;> rfl
  | led p =>
    unfold State.granGet
    dsimp only
    split
    · rfl
    split
    · rfl
    · exact hfree p
  | slots p =>
    unfold State.granGet
    dsimp only
    split
    · rfl
    · exact hfree p

theorem State.dbgLoad_thr (a : Arr) (r : Gran) (par : Bool) : (s.dbgLoad a r par).thr k = s.thr k := by
  rw [State.dbgLoad, State.thr_setFld, State.thr_setFld, State.thr_setFld]

theorem State.apRead_thr (src : Src) (off : Nat) : (s.apRead src off).2.thr k = s.thr k := by
  have hlatch (u : State) (x : Option (Nat × Word)) (y : Option (Nat × BitVec 32)) :
      ({ u with dbgLatch := x, dbgHeld := y } : State).thr k = u.thr k := rfl
  unfold State.apRead
  split
  · rw [State.apMiss, State.accErr_thr, State.thr_setFld, hlatch]
  · dsimp only
    split
    · split
      · rw [hlatch, State.thr_setFld]
      · rw [State.dbgLoad_thr, State.granGet_thr, hlatch, State.thr_setFld]
    · rw [hlatch, State.dbgLoad_thr, State.granGet_thr, State.thr_setFld]

theorem State.regGet_thr (src : Src) (a : Nat) : (s.regGet src a).2.thr k = s.thr k := by
  unfold State.regGet
  split
  · exact State.apRead_thr ..
  · split
    · exact State.thr_setRaw ..
    · rfl

/-- A load from register space leaves every thread. -/
theorem State.regFrom_thr (src : Src) (a : Nat) : (s.regFrom src a).2.thr k = s.thr k := by
  unfold State.regFrom
  dsimp only
  generalize (if (decide (0x300000 ≤ a) && decide (a < 0x400000)) = true then s.closed a || !srcPriv src
    else s.regDenied src a false) = denied
  cases denied with
  | false => exact State.regGet_thr ..
  | true => exact State.accErr_thr ..

end Threads

end Sys2Proof.Machine
end

section
/-! Completion and timeout of an awaited load or AMO (R226, R287, R295): the rows. -/

namespace Sys2Proof.Machine

/-- What a thread wrote is told by what it was. -/
theorem WroteRd.of_thr {s u x : State} {t : Thr} {rd : Nat} {v : Word} {pc : Nat} (h : WroteRd u x t rd v pc)
    (hu : u.thr t = s.thr t) : WroteRd s x t rd v pc := by
  obtain ⟨hvalue, hothers, hrest, hstores, hpc, hready⟩ := h
  rw [hu] at hothers hrest hstores
  exact ⟨hvalue, hothers, hrest, hstores, hpc, hready⟩

/-- An access that ends well in a state `u` which its work on the rest of the block left. -/
theorem State.pendOk_ends {s u : State} {t : Thr} (rd : Nat) (v : Word) (hu : u.thr t = s.thr t) (hp : Passes s t ((s.thr t).pc + 1)) :
    OnlyThread u (u.pendOk t rd v) t ∧ WroteRd u (u.pendOk t rd v) t rd v ((s.thr t).pc + 1) := by
  have h := State.pendOk_wrote (rd := rd) (v := v) (s := u) (t := t) (by rw [hu]; exact hp.of_thr hu)
  rwa [hu] at h

theorem Core.putWord_threads (c : Core) (a : Nat) (v : Word) : (c.putWord a v).threads = c.threads := rfl

section Pend

variable {s : State} {t : Thr} {rsp : BmErr} {rd w ea z : Nat} {r : Reg}

theorem execAccessCompletion_pend (hlive : s.accLive t = true) :
    exec (.accessCompletion t .pend rsp) s = .next (s.pendComplete t rsp).pendAll.goOn := by
  have hexec : exec (.accessCompletion t .pend rsp) s = execAccessCompletion t .pend rsp s := rfl
  simp [hexec, execAccessCompletion, hlive]

theorem execAccessTimeout_pend (hlive : s.accLive t = true) :
    exec (.accessTimeout t .pend) s = .next (s.pendLate t).pendAll.goOn := by
  have hexec : exec (.accessTimeout t .pend) s = execAccessTimeout t .pend s := rfl
  simp [hexec, execAccessTimeout, hlive]

section Ram

variable {c : CoreId} {o : Nat} (hvia : (s.thr t).via = none) (hreg : s.regionOf t.core ea = some r) (hram : r.ramOf = some (c, o))
  (hreach : s.reaches t.core r = true) (hsyn : smGet (fun _ => (0 : BitVec 8)) (s.core c).ramSyn (o / 8) = 0)
include hvia hreg hram hreach hsyn

/-- A load of intact data memory ends with the bytes read. -/
theorem State.pendComplete_load (hpend : (s.thr t).pend = .load rd w ea (some z)) (hw : 0 < w) (ho : o % 8 + w ≤ 8) :
    s.pendComplete t rsp = (s.setCore c (s.core c)).pendOk t rd (BitVec.ofNat 64 (memRead (s.core c).ram o w)) := by
  unfold State.pendComplete
  simp only [hvia, hpend, hreg]
  cases r with
  | scr | chvRam => simp [hreach, hram, State.ramRead_intact hw ho hsyn]
  | reg | prog | chvProg | bm => cases hram

/-- An AMO of intact data memory ends with the old word and stores the new one. -/
theorem State.pendComplete_amo {fn : Nat} {v cmp old : Word} (hpend : (s.thr t).pend = .amo rd fn v cmp ea (some z)) (ho : o % 8 = 0)
    (hold : old = BitVec.ofNat 64 (memRead (s.core c).ram o 8)) :
    s.pendComplete t rsp = (s.setCore c ((s.core c).putWord o (amoNew fn old v cmp))).pendOk t rd old := by
  unfold State.pendComplete
  simp only [hvia, hpend, hreg]
  cases r with
  | scr | chvRam => simp [hreach, hram, State.ramAmo_intact ho hold hsyn]
  | reg | prog | chvProg | bm => cases hram

end Ram

/-- A load of a register that no sink absorbs ends with what the register answers. -/
theorem State.pendComplete_reg {a : Nat} (hvia : (s.thr t).via = none) (hpend : (s.thr t).pend = .load rd w ea (some z))
    (hreg : s.regionOf t.core ea = some (.reg a)) (hsunk : s.sunkAt a = false) :
    s.pendComplete t rsp = (s.regFrom (srcOf t.core (s.thr t).pc) a).2.pendOk t rd
      ((s.regFrom (srcOf t.core (s.thr t).pc) a).1.setWidth 64) := by
  unfold State.pendComplete
  simp [hvia, hpend, hreg, hsunk]

/-- A load whose limit has passed takes LOAD_TMO with its address, LD_TMO set. -/
theorem State.pendLate_past (hpend : (s.thr t).pend = .load rd w ea (some z)) (hreg : ∀ b, s.regionOf t.core ea ≠ some (.bm b))
    (hpast : s.past z 0 = true) :
    s.pendLate t = (s.engErr t 5 4 (s.thr t).pc).trapTo t 10 (BitVec.ofNat 64 ea) (s.thr t).pc := by
  unfold State.pendLate
  simp only [hpend, hpast, if_true, State.pendTrap, State.engErr_thr]

theorem State.pendLate_before (hpend : (s.thr t).pend = .load rd w ea (some z)) (hpast : s.past z 0 = false) : s.pendLate t = s := by
  unfold State.pendLate
  simp only [hpend]
  split
  · rfl
  · rw [if_neg (Bool.eq_false_iff.mp hpast)]

end Pend

section Buffered

variable {s : State} {t : Thr} {i : Fin 16} {e : SbEnt} {z : Nat} (hlive : s.accLive t = true)
  (hat : ((s.thr t).sb.drop i.val).head? = some e) (hsent : e.sent = some z)
include hlive hat hsent

theorem execAccessTimeout_sb : exec (.accessTimeout t (.sb i)) s =
    .next (if s.past z 0 = true then (s.sbLate t e).pendAll.goOn else s) := by
  have hexec : exec (.accessTimeout t (.sb i)) s = execAccessTimeout t (.sb i) s := rfl
  simp [hexec, execAccessTimeout, hlive, hat, hsent]

end Buffered

/-- A message whose limit has passed is discarded with ST_TMO. -/
theorem State.sbLate_message {s : State} {t : Thr} {e : SbEnt} (hk : e.kind = .mgt) :
    s.sbLate t e = (s.discard t e).engErr t 4 3 e.pc := by
  rw [State.sbLate, hk]
  simp only [State.discardAll, hk]

/-- A store whose limit has passed is discarded with ST_TMO, and may still be performed (R300). -/
theorem State.sbLate_store {s u : State} {t : Thr} {e : SbEnt} (hk : e.kind = .st) (hbm : ∀ b, regOfCanon e.addr ≠ .bm b)
    (hu : u = (s.discard t e).engErr t 4 3 e.pc) : s.sbLate t e = { u with late := u.late ++ [(t, e)] } := by
  rw [State.sbLate, hk]
  simp only [State.discardAll, hk, hu]

/-- Settles O34: each access ends in `pendOk` of its value, and each limit in its trap or discard. -/
theorem loadsComplete : Obligations.LoadsComplete := by
  unfold Obligations.LoadsComplete
  rintro s t rsp x rfl hlive hvia
  refine ⟨fun rd w ea z r c o hpend hreg hram hreach hsyn hw ho hp => ?_, ?_, ?_,
    fun rd w ea z hpend hreg => ⟨fun hpast hm => ?_, fun hpast => ?_⟩,
    fun i e z hat hsent => ⟨?_, fun hpast => ?_⟩⟩
  · have hw8 : 0 < w ∧ o % 8 + w ≤ 8 := by
      simp only [List.mem_cons, List.not_mem_nil, or_false] at hw
      obtain rfl | rfl | rfl | rfl := hw <;> omega
    have hthr : (s.setCore c (s.core c)).thr t = s.thr t := State.thr_setCore rfl t
    obtain ⟨honly, hwrote⟩ := State.pendOk_ends rd (BitVec.ofNat 64 (memRead (s.core c).ram o w)) hthr hp
    have hend := State.pendComplete_load (rsp := rsp) hvia hreg hram hreach hsyn hpend hw8.1 hw8.2
    exact ⟨_, by rw [execAccessCompletion_pend hlive, hend], (State.setCore_core_only s t c).trans honly, hwrote.of_thr hthr⟩
  · rintro rd w ea z a v hpend hreg hsunk hv hp
    have hthr : v.2.thr t = s.thr t := by rw [hv]; exact State.regFrom_thr ..
    obtain ⟨honly, hwrote⟩ := State.pendOk_ends rd (v.1.setWidth 64) hthr hp
    have hend := State.pendComplete_reg (rsp := rsp) hvia hpend hreg hsunk
    rw [← hv] at hend
    exact ⟨_, by rw [execAccessCompletion_pend hlive, hend], honly, hwrote⟩
  · rintro rd fn v cmp ea z r c o old hpend hreg hram hreach hsyn hp ho hold
    have hthr : (s.setCore c ((s.core c).putWord o (amoNew fn old v cmp))).thr t = s.thr t :=
      State.thr_setCore (Core.putWord_threads ..) t
    obtain ⟨honly, hwrote⟩ := State.pendOk_ends rd old hthr hp
    have hend := State.pendComplete_amo (rsp := rsp) hvia hreg hram hreach hsyn hpend ho hold
    exact ⟨_, _, by rw [execAccessCompletion_pend hlive, hend], honly, hwrote, rfl⟩
  · have hm' : MayTrap (s.engErr t 5 4 (s.thr t).pc) t 10 := by
      rw [MayTrap, State.engErr_thr]
      exact hm
    exact ⟨_, by rw [execAccessTimeout_pend hlive, State.pendLate_past hpend hreg hpast], State.trapTo_here _ _ hm'⟩
  · rw [execAccessTimeout_pend hlive, State.pendLate_before hpend hpast]
  · rintro hpast u rfl
    rw [execAccessTimeout_sb hlive hat hsent, if_pos hpast]
    exact ⟨fun hk => by rw [State.sbLate_message hk]; rfl, fun hk hbm => by rw [State.sbLate_store hk hbm rfl]; rfl⟩
  · rw [execAccessTimeout_sb hlive hat hsent, if_neg (Bool.eq_false_iff.mp hpast)]

end Sys2Proof.Machine
end

section
/-! Dispatch of an event (R220, R254, R256, R259, R264). -/

namespace Sys2Proof.Machine

/-! ### A change of a tracker beside a change of a thread -/

theorem State.modTrk_core (s : State) (n : NodeId) (k : Nat) (f : Trk → Trk) (c : CoreId) : (s.modTrk n k f).core c = s.core c := by
  cases c with
  | chervil => rfl
  | node m =>
    simp only [State.core, State.modTrk, State.nd_modNd]
    split
    · next h => rw [h]; rfl
    · rfl

theorem OnlyThread.modTrk {s u : State} {t : Thr} (h : OnlyThread s u t) (n : NodeId) (k : Nat) (f : Trk → Trk) :
    OnlyThread (s.modTrk n k f) (u.modTrk n k f) t := by
  refine ⟨?_, fun a ha => h.regs a ha, fun m => ?_, fun c => ?_, fun j hj => ?_⟩
  · have hrest := congrArg (fun z : State => { z with node := (s.modTrk n k f).node }) h.rest
    exact hrest
  · have hm := h.nodes m
    simp only [State.modTrk, State.nd_modNd]
    split
    · next hmn =>
      subst hmn
      have hset := congrArg (fun y : Node => y.setTrk k (f (y.trkAt k))) hm
      exact hset
    · exact hm
  · simp only [State.modTrk_core]
    exact h.cores c
  · simp only [State.modTrk_thr]
    exact h.threads j hj

/-! ### Binding an event to a thread -/

/-- The word of an event's flow that enters the frame. -/
def State.flowWord (s : State) (t : Thr) (e : Evt) (i : Nat) : Word :=
  match t.core, e.trk with
  | .node n, some k => (s.nd n).trkWord k i
  | _, _ => 0

/-- The frame of Table 7.2: what identifies the event, six words of its flow, and its datum. -/
def State.frameOf (s : State) (t : Thr) (e : Evt) : SMap Word :=
  let set (f : SMap Word) (i : Nat) (v : Word) : SMap Word := smSet (fun _ => 0) f i v
  (List.range 6).foldl (fun f i => set f (i + 1) (s.flowWord t e i))
    (set (set [] 0 (BitVec.ofNat 64 (e.evt.toNat + e.cls.toNat * 2 ^ 8
      + (match e.trk with | some k => 2 ^ 11 + k * 2 ^ 12 | none => 0) + t.t.val * 2 ^ 22))) 7 (s.datum t.core e))

/-- Where the handler of an event starts through its own entry. -/
def State.entryPc (s : State) (t : Thr) (e : Evt) (w : Reg32) : Nat :=
  match t.core, e.trk with
  | .node n, some k => if e.evt = 0x40 ∨ e.evt = 0x41 then ((s.nd n).trkAt k).resume else bf w 13 0
  | .node _, none => bf w 13 0
  | .chervil, _ => bf w 16 0

/-- A thread to which an event is bound (R220). -/
def State.bound (s : State) (t : Thr) (e : Evt) (w : Reg32) (x : Thread) : Thread :=
  { x with
    st := .ready, g := [], f := s.frameOf t e, pc := s.entryPc t e w, priv := decide (t.core = .chervil) || bt w 18, incomplete := false
    trapActive := false, trk := e.trk, handle := none, pend := .none, slice := 512, run := 0, prio := bf w 20 19, evt := e.evt
    cls := e.cls, inbox := e.inbox }

/-- The state with DEPART of an event's flow cleared. -/
def State.undepart (s : State) (t : Thr) (e : Evt) : State :=
  match t.core, e.trk with
  | .node n, some k => s.modTrk n k fun r => { r with depart := false }
  | _, _ => s

theorem State.bind_own (s : State) (t : Thr) (e : Evt) (w : Reg32) :
    s.bind t e w true = (s.modThr t (s.bound t e w)).undepart t e := by
  have hpriv : decide (t.core = .chervil ∨ bt w 18 = true) = (decide (t.core = .chervil) || bt w 18) := by simp
  have hwake (p q : Nat) : (if ((e.evt == 0x40 || e.evt == 0x41) && true) = true then p else q) =
      if e.evt = 0x40 ∨ e.evt = 0x41 then p else q := by simp
  obtain ⟨evt, cls, trk, datum, inbox⟩ := e
  obtain ⟨c, i⟩ := t
  unfold State.bind State.bound State.undepart State.entryPc State.frameOf State.flowWord
  dsimp only at hpriv hwake ⊢
  simp only [hpriv, hwake]
  cases c with
  | chervil => rfl
  | node n =>
    cases trk with
    | none => rfl
    | some k => rfl

theorem State.frameOf_id (s : State) (t : Thr) (e : Evt) : smGet (fun _ => 0) (s.frameOf t e) 0 =
    BitVec.ofNat 64 (e.evt.toNat + e.cls.toNat * 2 ^ 8
      + (match e.trk with | some k => 2 ^ 11 + k * 2 ^ 12 | none => 0) + t.t.val * 2 ^ 22) := by
  simp [State.frameOf, List.range_succ, smGet_smSet]

theorem State.frameOf_flow (s : State) (t : Thr) (e : Evt) {i : Nat} (hi : i < 6) :
    smGet (fun _ => 0) (s.frameOf t e) (i + 1) = s.flowWord t e i := by
  interval_cases i <;> simp [State.frameOf, List.range_succ, smGet_smSet]

theorem State.frameOf_datum (s : State) (t : Thr) (e : Evt) : smGet (fun _ => 0) (s.frameOf t e) 7 = s.datum t.core e := by
  simp [State.frameOf, List.range_succ, smGet_smSet]

theorem State.undepart_thr (s : State) (t : Thr) (e : Evt) (j : Thr) : (s.undepart t e).thr j = s.thr j := by
  unfold State.undepart
  split
  · exact State.modTrk_thr ..
  · rfl

theorem State.undepart_core (s : State) (t : Thr) (e : Evt) (c : CoreId) : (s.undepart t e).core c = s.core c := by
  unfold State.undepart
  split
  · exact State.modTrk_core ..
  · rfl

theorem OnlyThread.undepart {s u : State} {t : Thr} (h : OnlyThread s u t) (e : Evt) : OnlyThread (s.undepart t e) (u.undepart t e) t := by
  unfold State.undepart
  split
  · exact h.modTrk ..
  · exact h

/-! ### Dispatch through an event's own entry -/

/-- The state with an event taken from its core's queue. -/
def State.unqueued (s : State) (c : CoreId) (e : Evt) : State :=
  s.setCore c { s.core c with events := (s.core c).events.erase e }

/-- The tracker of an event, at a node, has no recorded upset. -/
def State.FlowIntact (s : State) (t : Thr) (e : Evt) : Prop :=
  ∀ n k, t.core = .node n → e.trk = some k → ((s.nd n).trkAt k).syn = []

theorem State.trkCheck_clean {s : State} {n : NodeId} {k : Nat} (h : ((s.nd n).trkAt k).syn = []) (l : List Nat) :
    s.trkCheck n k l = (false, s) := by
  have hword (i : Nat) : smGet (fun _ => (0 : BitVec 8)) ((s.nd n).trkAt k).syn i = 0 := by rw [h]; rfl
  induction l with
  | nil => rfl
  | cons i l ih =>
    have hone := State.trkCheck_intact (hword i)
    simp only [State.trkCheck, List.foldl_cons, List.foldl_nil] at hone ih ⊢
    rw [hone]
    exact ih

theorem State.dispatch_own {s : State} {t : Thr} {e : Evt} {w : Reg32} (hpick : s.pickEntry t.core e.evt.toNat e.cls.toNat = .own w)
    (hclean : s.FlowIntact t e) :
    s.dispatch t e = (((s.unqueued t.core e)).modThr t ((s.unqueued t.core e).bound t e w)).undepart t e := by
  rw [← State.bind_own]
  unfold State.dispatch
  rw [hpick]
  cases hc : t.core with
  | chervil => simp [State.unqueued]
  | node n =>
    cases hk : e.trk with
    | none => simp [State.unqueued]
    | some k => simp [State.unqueued, State.trkCheck_clean (hclean n k hc hk)]

/-- What is bound to a thread does not depend on the events that wait at its core. -/
theorem State.bound_congr {s u : State} {t : Thr} (e : Evt) (w : Reg32)
    (h : ∀ n, t.core = .node n → ∃ l, u.nd n = { s.nd n with core := { (s.nd n).core with events := l } }) :
    u.bound t e w = s.bound t e w := by
  obtain ⟨evt, cls, trk, datum, inbox⟩ := e
  obtain ⟨c, i⟩ := t
  cases c with
  | chervil => rfl
  | node n =>
    cases trk with
    | none => rfl
    | some k =>
      obtain ⟨l, hl⟩ := h n rfl
      unfold State.bound State.frameOf State.entryPc State.flowWord State.datum
      dsimp only
      rw [hl]
      rfl

theorem State.unqueued_bound (s : State) (t : Thr) (e : Evt) (w : Reg32) : (s.unqueued t.core e).bound t e w = s.bound t e w := by
  refine State.bound_congr e w fun n hn => ⟨(s.core t.core).events.erase e, ?_⟩
  rw [State.unqueued, hn, State.setCore, State.nd_setNd, if_pos rfl]
  rfl

theorem State.unqueued_thr (s : State) (c : CoreId) (e : Evt) (k : Thr) : (s.unqueued c e).thr k = s.thr k :=
  State.thr_setCore (x := { s.core c with events := (s.core c).events.erase e }) rfl k

theorem State.unqueued_only (s : State) (t : Thr) (e : Evt) : OnlyThread s (s.unqueued t.core e) t := by
  refine ⟨?_, fun a _ => s.raw_setCore _ _ a, fun n => s.setCore_nd _ _ n, fun d => ?_, fun k _ => s.unqueued_thr _ e k⟩
  · obtain ⟨c, i⟩ := t
    cases c <;> rfl
  · rw [State.unqueued, State.core_setCore]
    split
    · next h => rw [h]
    · rfl

/-- Dispatch through an event's own entry binds the thread and takes the event (R220). -/
theorem State.dispatch_binds {s : State} {t : Thr} {e : Evt} {w : Reg32} (hpick : s.pickEntry t.core e.evt.toNat e.cls.toNat = .own w)
    (hclean : s.FlowIntact t e) : ∃ u, s.dispatch t e = u ∧ (u.core t.core).events = (s.core t.core).events.erase e ∧
      OnlyThread (s.undepart t e) u t ∧ u.thr t = s.bound t e w (s.thr t) := by
  refine ⟨_, State.dispatch_own hpick hclean, ?_, ?_, ?_⟩
  · rw [State.undepart_core, State.modThr, State.setThr, State.core_setCore_self, State.unqueued, State.core_setCore_self]
    rfl
  · exact ((s.unqueued_only t e).trans (State.modThr_only _ t _)).undepart e
  · rw [State.undepart_thr, State.modThr_thr, if_pos rfl, State.unqueued_bound, State.unqueued_thr]

/-! ### A command that dispatches -/

/-- The state in which a dispatch is counted (R494). -/
def State.dispatchCount (s : State) (t : Thr) : State :=
  match t.core with
  | .node n => s.cntN n 0x003 1
  | .chervil => s

theorem State.dispatchCount_counted (s : State) (t : Thr) : Counted s (s.dispatchCount t) := by
  unfold State.dispatchCount
  split
  · exact State.cntN_counted ..
  · exact Counted.refl s

theorem State.dispatchCount_core (s : State) (t : Thr) : (s.dispatchCount t).core t.core = s.core t.core := by
  unfold State.dispatchCount
  split
  · next n hn =>
    rw [hn]
    exact congrArg Node.core ((s.cntN_counted n 0x003 1).nd n)
  · rfl

theorem State.dispatchCount_entryAt (s : State) (t : Thr) (evt cls : Nat) :
    (s.dispatchCount t).entryAt t.core evt cls = s.entryAt t.core evt cls := by
  unfold State.dispatchCount
  split
  · next n hn =>
    rw [hn]
    exact congrArg (·.core.progWord (0x3800 + 8 * evt + cls)) ((s.cntN_counted n 0x003 1).nd n)
  · rfl

theorem State.dispatchCount_pickEntry (s : State) (t : Thr) (evt cls : Nat) :
    (s.dispatchCount t).pickEntry t.core evt cls = s.pickEntry t.core evt cls := by
  simp only [State.pickEntry, State.dispatchCount_entryAt]

theorem State.dispatchIf_next {s : State} {t : Thr} {e : Evt} {p : Evt → Bool} (hfree : (s.thr t).st = .free)
    (hnext : s.nextEvt t.core = some e) (hp : p e = true) : s.dispatchIf t p = ((s.dispatchCount t).dispatch t e).goOn := by
  unfold State.dispatchIf
  simp only [hfree, hnext, hp, ne_eq, not_true, if_false, if_true]
  rfl

end Sys2Proof.Machine
end

section
/-! Dispatch of an event (R220, R254, R256, R261, R480): the rows. -/

namespace Sys2Proof.Machine

/-- A command dispatches event `e` to thread `t` when that event is the core's next and the thread is free. -/
def Dispatches (c : Instr) (s : State) (t : Thr) (e : Evt) : Prop := ∃ p, exec c s = .next (s.dispatchIf t p) ∧ p e = true

section Rows

variable {s : State} {t : Thr} {c : Instr} {lo hi : Nat} {e : Evt} (hlo : lo ≤ e.evt.toNat) (hhi : e.evt.toNat ≤ hi)
include hlo hhi

theorem dispatches_engine {n : NodeId} (hn : t.core = .node n)
    (hrow : (c, lo, hi) ∈ [(Instr.hostRequestEvent n t.t, 0x01, 0x11), (.writeBackEvent n t.t, 0x12, 0x13),
      (.assistFault n t.t, 0x14, 0x14), (.recallStart n t.t, 0x20, 0x20), (.lineCopyStart n t.t, 0x21, 0x21),
      (.wakeHostFlow n t.t, 0x40, 0x40), (.wakeInternalFlow n t.t, 0x41, 0x41)]) : Dispatches c s t e := by
  have hc : exec c s = .next (s.dispatchEvt n t.t lo hi) := by
    simp only [List.mem_cons, Prod.mk.injEq, List.not_mem_nil, or_false] at hrow
    obtain ⟨rfl, rfl, rfl⟩ | ⟨rfl, rfl, rfl⟩ | ⟨rfl, rfl, rfl⟩ | ⟨rfl, rfl, rfl⟩ | ⟨rfl, rfl, rfl⟩ | ⟨rfl, rfl, rfl⟩ |
      ⟨rfl, rfl, rfl⟩ := hrow <;> rfl
  obtain ⟨core, i⟩ := t
  subst hn
  exact ⟨_, hc, by simp [hlo, hhi]⟩

theorem dispatches_message (hrow : (c, lo, hi) = (.managementMessage t, 0x30, 0x30)) : Dispatches c s t e := by
  cases hrow
  have hevt : e.evt = 0x30 := BitVec.eq_of_toNat_eq (Nat.le_antisymm hhi hlo)
  exact ⟨_, rfl, by simp [hevt]⟩

theorem dispatches_chervil (hn : t.core = .chervil)
    (hrow : (c, lo, hi) ∈ [(Instr.evMailbox t.t, 0x50, 0x50), (.evError t.t, 0x53, 0x53), (.evMode t.t, 0x54, 0x54),
      (.evDma t.t, 0x55, 0x55), (.evMpDetach t.t, 0x56, 0x56), (.evFlush t.t, 0x58, 0x58), (.pmcOvf t.t, 0x59, 0x59)]) :
    Dispatches c s t e := by
  have hc : exec c s = .next (s.chvDispatch t.t lo) ∧ lo = hi := by
    simp only [List.mem_cons, Prod.mk.injEq, List.not_mem_nil, or_false] at hrow
    obtain ⟨rfl, rfl, rfl⟩ | ⟨rfl, rfl, rfl⟩ | ⟨rfl, rfl, rfl⟩ | ⟨rfl, rfl, rfl⟩ | ⟨rfl, rfl, rfl⟩ | ⟨rfl, rfl, rfl⟩ |
      ⟨rfl, rfl, rfl⟩ := hrow <;> exact ⟨rfl, rfl⟩
  obtain ⟨hc, rfl⟩ := hc
  obtain ⟨core, i⟩ := t
  subst hn
  have hevt : e.evt.toNat = lo := Nat.le_antisymm hhi hlo
  exact ⟨_, hc, by simp [← hevt]⟩

/-- Before its period has passed the TIMER row only dispatches. -/
theorem dispatches_timer (hn : t.core = .chervil) (hrow : (c, lo, hi) = (.evTimer t.t, 0x57, 0x57))
    (hwait : s.fld HA_CHV_TIMER 23 0 = 0 ∨ s.time.toNat < s.timerAt + s.fld HA_CHV_TIMER 23 0) : Dispatches c s t e := by
  cases hrow
  have hpoll : s.timerPoll = s := if_pos (by rw [← or_assoc]; exact .inl hwait)
  have hevt : e.evt = 0x57 := BitVec.eq_of_toNat_eq (Nat.le_antisymm hhi hlo)
  obtain ⟨core, i⟩ := t
  subst hn
  refine ⟨fun e => e.evt == 0x57, ?_, by simp [hevt]⟩
  have hexec : exec (.evTimer i) s = .next (s.timerPoll.chvDispatch i 0x57) := rfl
  rw [hexec, hpoll]
  rfl

end Rows

/-- Settles O29: every row dispatches the core's next event, and dispatch binds it. -/
theorem dispatchBindsTheThread : Obligations.DispatchBindsTheThread := by
  unfold Obligations.DispatchBindsTheThread
  rintro s t c lo hi entry e w hfree hnext hlo hhi hpick hrow hclean rfl
  have hdisp : Dispatches c s t e := by
    obtain ⟨n, hn, hrow⟩ | hrow | ⟨hn, hrow⟩ | ⟨hn, hrow, hwait⟩ := hrow
    · exact dispatches_engine hlo hhi hn hrow
    · exact dispatches_message hlo hhi hrow
    · exact dispatches_chervil hlo hhi hn hrow
    · exact dispatches_timer hlo hhi hn hrow hwait
  obtain ⟨p, hc, hp⟩ := hdisp
  have hcnt := s.dispatchCount_counted t
  have hcore := s.dispatchCount_core t
  have hbound : (s.dispatchCount t).bound t e w = s.bound t e w :=
    State.bound_congr e w fun n hn => ⟨(s.nd n).core.events, hcnt.nd n⟩
  obtain ⟨u, hu, hevents, honly, hthr⟩ := State.dispatch_binds (s := s.dispatchCount t) (t := t) (e := e) (w := w)
    (by rw [State.dispatchCount_pickEntry, hpick]) (fun n k hn hk => by rw [hcnt.nd]; exact hclean n k hn hk)
  rw [hcnt.thr, hbound] at hthr
  refine ⟨u, by rw [hc, State.dispatchIf_next hfree hnext hp, hu], by rw [hevents, hcore], ?_, ?_, ?_, fun i hi => ?_, ?_⟩
  · exact (hcnt.only t |>.undepart e).trans honly
  · rw [hthr]
    rfl
  · rw [hthr]
    exact s.frameOf_id t e
  · rw [hthr]
    exact s.frameOf_flow t e hi
  · rw [hthr]
    exact s.frameOf_datum t e

end Sys2Proof.Machine
end

section
/-! Engine start, the TIMER event and the thread clock (R256, R264 to R267, R480). -/

namespace Sys2Proof.Machine

/-! ### Engine start -/

/-- A core whose thread `k` receives its engine start. -/
def Core.started (c : Core) (k : Nat) : Core :=
  { c with toStart := c.toStart.filter (· != k), starting := c.starting ++ [k] }

theorem State.started_pickEntry (s : State) (c : CoreId) (k evt cls : Nat) :
    (s.setCore c ((s.core c).started k)).pickEntry c evt cls = s.pickEntry c evt cls := by
  have hentry (evt cls : Nat) : (s.setCore c ((s.core c).started k)).entryAt c evt cls = s.entryAt c evt cls := by
    cases c with
    | chervil => rfl
    | node n =>
      unfold State.entryAt
      dsimp only
      rw [State.setCore, State.nd_setNd, if_pos rfl]
      rfl
  simp only [State.pickEntry, hentry]

theorem State.started_thr (s : State) (c : CoreId) (k : Nat) (j : Thr) : (s.setCore c ((s.core c).started k)).thr j = s.thr j :=
  State.thr_setCore (x := (s.core c).started k) rfl j

theorem State.undepart_none {s : State} {t : Thr} {e : Evt} (h : e.trk = none) : s.undepart t e = s := by
  unfold State.undepart
  split
  · next hk => rw [h] at hk; cases hk
  · rfl

/-- An engine start with an entry is dispatched, and its handler counts as started (R264). -/
theorem State.startWith_own {s : State} {t : Thr} {w : Reg32} {e : Evt} (hpick : s.pickEntry t.core 0x3E 0 = .own w) :
    s.startWith t e = ((s.setCore t.core ((s.core t.core).started t.t.val)).dispatch t e).goOn := by
  unfold State.startWith
  rw [hpick]
  rfl

theorem execEngineStart_starts {s : State} {t : Thr} {e : Evt} (hto : t.t.val ∈ (s.core t.core).toStart) (hfree : (s.thr t).st = .free)
    (hstall : (s.core t.core).dspStall = false) (hruns : s.coreRuns t.core = true) (hevt : e.evt = 0x3E)
    (he : match t.core with | .node _ => e = (s.core t.core).startEvt | .chervil => s.nextEvt .chervil = some e) :
    exec (.engineStart t) s = .next (s.startWith t e) := by
  have hexec : exec (.engineStart t) s = .next (s.startThr t) := rfl
  have hmay : (!(s.core t.core).toStart.contains t.t.val || (s.thr t).st != .free || (s.core t.core).dspStall ||
      !s.coreRuns t.core) = false := by
    simp [hto, hfree, hstall, hruns]
  rw [hexec, State.startThr, hmay, if_neg Bool.false_ne_true]
  split
  · next n hn =>
    rw [hn] at he
    dsimp only at he
    rw [he, hn]
  · next hn =>
    rw [hn] at he
    dsimp only at he
    rw [he]
    exact congrArg Host.Outcome.next (if_pos hevt)

theorem engineStart_binds {s : State} {t : Thr} {w : Reg32} {e : Evt} (hto : t.t.val ∈ (s.core t.core).toStart)
    (hfree : (s.thr t).st = .free) (hstall : (s.core t.core).dspStall = false) (hruns : s.coreRuns t.core = true)
    (hpick : s.pickEntry t.core 0x3E 0 = .own w) (hevt : e.evt = 0x3E) (hcls : e.cls = 0) (htrk : e.trk = none)
    (he : match t.core with | .node _ => e = (s.core t.core).startEvt | .chervil => s.nextEvt .chervil = some e) :
    ∃ u z : State, exec (.engineStart t) s = .next u.goOn ∧ z = s.setCore t.core ((s.core t.core).started t.t.val) ∧ OnlyThread z u t ∧
      u.thr t = z.bound t e w (s.thr t) := by
  obtain ⟨u, hu, -, honly, hthr⟩ := State.dispatch_binds (s := s.setCore t.core ((s.core t.core).started t.t.val))
    (t := t) (e := e) (w := w) (by rw [State.started_pickEntry, hevt, hcls]; exact hpick) (fun n k _ hk => by rw [htrk] at hk; cases hk)
  refine ⟨u, _, by rw [execEngineStart_starts hto hfree hstall hruns hevt he, State.startWith_own hpick, hu], rfl, ?_, ?_⟩
  · rwa [State.undepart_none htrk] at honly
  · rw [hthr, State.started_thr]

/-- What is bound for an event without a flow, beside the frame. -/
theorem State.bound_start {s : State} {t : Thr} {e : Evt} (htrk : e.trk = none) (w : Reg32) (hevt : e.evt = 0x3E) (hcls : e.cls = 0)
    (x : Thread) :
    (s.bound t e w x).pc = (match t.core with | .node _ => bf w 13 0 | .chervil => bf w 16 0) ∧
      (s.bound t e w x).frame 0 = BitVec.ofNat 64 (0x3E + t.t.val * 2 ^ 22) ∧ (∀ i < 6, (s.bound t e w x).frame (i + 1) = 0) ∧
      (s.bound t e w x).frame 7 = e.datum := by
  obtain ⟨evt, cls, trk, datum, inbox⟩ := e
  obtain ⟨c, k⟩ := t
  cases htrk
  cases hevt
  cases hcls
  refine ⟨?_, ?_, fun i hi => ?_, ?_⟩
  · cases c <;> rfl
  · exact (s.frameOf_id _ _).trans (by simp)
  · refine (s.frameOf_flow _ _ hi).trans ?_
    cases c <;> rfl
  · refine (s.frameOf_datum _ _).trans ?_
    cases c <;> rfl

/-! ### The TIMER event -/

theorem State.chvEvent_thr (s : State) (evt datum : Nat) (k : Thr) : (s.chvEvent evt datum).thr k = s.thr k := by
  have hput (u : State) (l : List Evt) : ({ u with chv := { u.chv with events := l } } : State).thr k = u.thr k := by
    obtain ⟨c, i⟩ := k
    cases c <;> rfl
  unfold State.chvEvent
  dsimp only
  split
  · exact hput ..
  · split
    · exact hput ..
    · exact hput ..
    · exact hput ..

/-- A dispatch to a thread that is not free is none. -/
theorem State.dispatchIf_busy {s : State} {t : Thr} (h : (s.thr t).st ≠ .free) (p : Evt → Bool) : s.dispatchIf t p = s := if_pos h

/-- The TIMER event that falls due is raised, and where Chervil's thread is busy that is all. -/
theorem execEvTimer_raises {s : State} {i : Fin 8} {p : Nat} (hp : p = s.fld HA_CHV_TIMER 23 0) (h0 : p ≠ 0)
    (hdue : s.timerAt + p ≤ s.time.toNat) (hoff : s.mode ≠ .off) (hbusy : (s.thr ⟨.chervil, i⟩).st ≠ .free) :
    exec (.evTimer i) s = .next ({ s with timerAt := s.time.toNat }.chvEvent 0x57 s.time.toNat) := by
  have hexec : exec (.evTimer i) s = .next (s.timerPoll.chvDispatch i 0x57) := rfl
  have hpoll : s.timerPoll = { s with timerAt := s.time.toNat }.chvEvent 0x57 s.time.toNat := by
    unfold State.timerPoll
    rw [← hp]
    exact if_neg (by simp only [h0, Nat.not_lt.mpr hdue, hoff, or_self, not_false_iff])
  rw [hexec, hpoll]
  exact congrArg Host.Outcome.next (State.dispatchIf_busy (by rw [State.chvEvent_thr]; exact hbusy) _)

/-! ### The thread clock -/

theorem execRunaway_engine {s : State} {t : Thr} {n : NodeId} (hn : t.core = .node n) : exec (.runaway t) s = .next
    (if ((s.thr t).st = .ready ∨ (s.thr t).st = .stalled) ∧ s.fld (ndA n ND_DSP_CTRL) 7 0 * 512 < (s.thr t).run then s.haltThr t 3 4
     else s) := by
  have hexec : exec (.runaway t) s = execRunaway t s := rfl
  rw [hexec, execRunaway, hn]

theorem State.haltThr_engine {s : State} {t : Thr} {n : NodeId} (hn : t.core = .node n) (bit kind : Nat) : s.haltThr t bit kind =
    ((s.modThr t fun x => { x with st := .halted, pend := .none }).captureV (ndA n ND_DSP_ERR_CAP) 17
      ((s.thr t).evt.toNat + (s.thr t).cls.toNat * 2 ^ 8 + t.t.val * 2 ^ 11 + kind * 2 ^ 14)).raise (ndA n ND_DSP_ERR) bit := by
  rw [State.haltThr, hn]

/-- Settles O30: engine start is a dispatch, and the other rows are their own conditions. -/
theorem engineStartsTimersAndSlices : Obligations.EngineStartsTimersAndSlices := by
  unfold Obligations.EngineStartsTimersAndSlices
  rintro s t
  refine ⟨?_, fun p hp h0 hdue hoff hbusy => execEvTimer_raises hp h0 hdue hoff hbusy, ?_⟩
  · rintro w k e rfl hto hfree hstall hruns hpick hevt hcls htrk he
    obtain ⟨u, z, hu, hz, honly, hthr⟩ := engineStart_binds hto hfree hstall hruns hpick hevt hcls htrk he
    obtain ⟨hpc, hid, hflow, hdatum⟩ := z.bound_start (t := t) htrk w hevt hcls (s.thr t)
    subst hz
    refine ⟨u, hu, honly, ?_⟩
    rw [hthr]
    exact ⟨rfl, rfl, htrk, rfl, rfl, rfl, rfl, rfl, hpc, hid, hflow, hdatum, rfl⟩
  · rintro x k rfl rfl
    have hslice : exec (.sliceExpiry t) s = execSliceExpiry t s := rfl
    refine ⟨fun h0 hready => ?_, fun h => ?_, fun n hn hst hrun => ?_, fun n hn h => ?_, fun hn => ?_⟩
    · rw [hslice, execSliceExpiry, if_pos ⟨h0, hready⟩]
    · rw [hslice, execSliceExpiry, if_neg (by tauto)]
    · rw [execRunaway_engine hn, if_pos ⟨hst, hrun⟩, State.haltThr_engine hn]
    · have hkeep : ¬ (((s.thr t).st = .ready ∨ (s.thr t).st = .stalled) ∧ s.fld (ndA n ND_DSP_CTRL) 7 0 * 512 < (s.thr t).run) := by
        rintro ⟨hst, hrun⟩
        obtain ⟨hready, hstalled⟩ | hle := h
        · exact hst.elim hready hstalled
        · exact Nat.not_lt.mpr hle hrun
      rw [execRunaway_engine hn, if_neg hkeep]
    · have hexec : exec (.runaway t) s = execRunaway t s := rfl
      rw [hexec, execRunaway, hn]

end Sys2Proof.Machine
end

section
/-! The session events that firmware serves (R417, R418, R420, R480). -/

namespace Sys2Proof.Machine

/-! ### Dispatch of an event that firmware serves -/

section Dispatch

variable {s : State} {j : Fin 8} {e : Evt} {w : Reg32} (hfree : (s.thr ⟨.chervil, j⟩).st = .free) (hnext : s.nextEvt .chervil = some e)
  (hpick : s.pickEntry .chervil e.evt.toNat 0 = .own w)
include hfree hnext hpick

theorem State.chvTakes_next : s.chvTakes j e.evt.toNat = some e.datum.toNat := by
  simp [State.chvTakes, hfree, hnext, hpick]

/-- The event is dispatched, and its datum is noted for service. -/
theorem State.chvServed_next {u : State} (hu : s.dispatch ⟨.chervil, j⟩ e = u) (err : BmErr) : s.chvServed j e.evt.toNat err =
    { u.goOn with chvTodo := u.goOn.chvTodo ++ [(e.evt.toNat, e.datum.toNat, err)] }.goOn := by
  have hdisp : s.chvDispatch j e.evt.toNat = (s.dispatch ⟨.chervil, j⟩ e).goOn := State.dispatchIf_next hfree hnext (by simp)
  unfold State.chvServed
  rw [State.chvTakes_next hfree hnext hpick, hdisp, hu]

/-- What SESSION and DEPART do of their event: it is bound to the thread, and noted. -/
theorem exec_chvServed (hcls : e.cls = 0) (htrk : e.trk = none) {err : BmErr} {c : Instr}
    (hrow : (c, e.evt) ∈ [(Instr.evSession j err, 0x51), (Instr.evDepart j err, 0x52)]) : ∃ u : State,
    OnlyThread s u ⟨.chervil, j⟩ ∧ u.thr ⟨.chervil, j⟩ = s.bound ⟨.chervil, j⟩ e w (s.thr ⟨.chervil, j⟩) ∧
      exec c s = .next { u.goOn with chvTodo := u.goOn.chvTodo ++ [(e.evt.toNat, e.datum.toNat, err)] }.goOn := by
  have hexec : exec c s = .next (s.chvServed j e.evt.toNat err) := by
    simp only [List.mem_cons, Prod.mk.injEq, List.not_mem_nil, or_false] at hrow
    obtain ⟨rfl, hevt⟩ | ⟨rfl, hevt⟩ := hrow
    · have hcode : e.evt.toNat = 0x51 := congrArg BitVec.toNat hevt
      rw [hcode]
      rfl
    · have hcode : e.evt.toNat = 0x52 := congrArg BitVec.toNat hevt
      rw [hcode]
      rfl
  obtain ⟨u, hu, -, honly, hthr⟩ := State.dispatch_binds (t := ⟨.chervil, j⟩) (e := e) (w := w) (by rw [hcls]; exact hpick)
    (fun n k hn _ => by cases hn)
  rw [State.undepart_none htrk] at honly
  exact ⟨u, honly, hthr, by rw [hexec, State.chvServed_next hfree hnext hpick hu]⟩

end Dispatch

/-! ### Service -/

theorem State.chvPoll_one {s : State} {o : Nat × Nat × BmErr} (hruns : s.chvRuns = true) (htodo : s.chvTodo = [o]) :
    s.chvPoll = { s with chvTodo := [] }.chvServe o := by
  simp only [State.chvPoll, hruns, htodo, if_true, List.foldl_cons, List.foldl_nil]

/-- The session message that an event's datum names is taken, and served by its opcode. -/
theorem State.sessServe_named {s z : State} {d i : Nat} {p : HpId} {l : LedEnt} (err : BmErr) (hp : p = Fin.ofNat 16 (d / 2 ^ 40))
    (hled : (s.hpAt p).ledger = [(i, some l)]) (hst : l.st = .session) (htaken : l.taken = false)
    (htag : l.tag.toNat % 2 ^ 40 = d % 2 ^ 40) (hgone : l.gone = false) (hsyn : s.survSyn = [])
    (hz : z = s.setHp p ((s.hpAt p).setLed i (some { l with taken := true }))) :
    s.sessServe d err = if hdrOpc l.hdr = 0x10 then z.sessOpen p i l err else z.sessClose p i l := by
  have htake : s.sessTake p i l = z := hz.symm
  have hclean : z.survSyn = [] := by rw [hz]; exact hsyn
  have hmatch : (l.st == .session && !l.taken && l.tag.toNat % 2 ^ 40 == d % 2 ^ 40) = true := by
    rw [hst, htaken, htag]
    simp
  unfold State.sessServe
  simp only [← hp, hled, List.find?_cons, hmatch, hgone, htake, State.survThen_clean hclean, Bool.false_eq_true, if_false]

section Messages

variable {s : State} {p : HpId} {i h : Nat} {l : LedEnt} {err : BmErr} (hh : h = (hdrHost l.hdr).toNat)
include hh

theorem State.sessOpen_notClosed (hst : (s.ses h).st ≠ .closed) : s.sessOpen p i l err = s.answerErr p i 1 0 := by
  subst hh
  exact if_pos hst

theorem State.sessOpen_opens {u : State} (hst : (s.ses h).st = .closed) (hin : s.ctxIn (hdrCtx l.hdr) = true)
    (hgood : bmGood err = true) (hu : u = s.bmErrs err) (hvalid : bt (u.ctxWord (hdrCtx l.hdr) 0) 0 = true) :
    s.sessOpen p i l err = (u.setSes h { st := .opn, port := p, ctx := hdrCtx l.hdr, legacy := (u.hpAt p).legacy }).answerNdr p i
      (ndrWord 5 (hdrHost l.hdr) (hdrTag l.hdr) 0 0 0) := by
  subst hh
  simp only [State.sessOpen, hst, hin, hgood, ← hu, hvalid, ne_eq, not_true, if_false, Bool.not_true, Bool.false_eq_true]

theorem State.sessClose_open (hst : (s.ses h).st = .opn) (hport : (s.ses h).port = p) : s.sessClose p i l =
    s.modSes h fun x => { x with st := .closing, closeIdx := some i, visits := 0, todo := 0, visitSent := false } := by
  subst hh
  simp [State.sessClose, hst, hport]

theorem State.sessClose_over (hst : (s.ses h).st = .closed) :
    s.sessClose p i l = s.answerNdr p i (ndrWord 5 (hdrHost l.hdr) (hdrTag l.hdr) 0 0 0) := by
  subst hh
  exact if_pos (.inl hst)

end Messages

/-- A good access changes no context entry. -/
theorem State.ctxWord_bmErrs {err : BmErr} (hgood : bmGood err = true) (s : State) (c : BitVec 16) (k : Nat) :
    (s.bmErrs err).ctxWord c k = s.ctxWord c k := by
  cases err with
  | ok => rfl
  | corrected =>
    have hbase (v : Nat) : (s.setFld HA_BM_CECNT 15 0 v).fld HA_CTX_BASE 13 0 = s.fld HA_CTX_BASE 13 0 := by
      rw [State.fld, State.raw_setFld, if_neg (by decide)]
      rfl
    unfold State.bmErrs State.ctxWord
    dsimp only
    rw [hbase]
    rfl
  | uncorrectable => cases hgood
  | address => cases hgood
  | timeout => cases hgood

/-- A departure is served by the policy of its context entry. -/
theorem State.departServe_reads {s : State} {h : Nat} {err : BmErr} (hst : (s.ses h).st = .departing)
    (hin : s.ctxIn (s.ses h).ctx = true) (hgood : bmGood err = true) : s.departServe h err = (s.bmErrs err).modSes h fun x =>
      { x with revert := bt ((s.bmErrs err).ctxWord x.ctx 0) 4, served := true } := by
  simp only [State.departServe, hst, hin, hgood, State.ctxWord_bmErrs hgood, ne_eq, not_true, if_false, Bool.not_true, Bool.or_self,
    Bool.false_eq_true]

end Sys2Proof.Machine
end

section
/-! The messages that the supervisor image serves (R330, R421), and the visits of a node. -/

namespace Sys2Proof.Machine

/-! ### Work messages and VISIT -/

section Inbox

variable {s : State} {n : NodeId} {j : Fin 16} {m : Line} (hruns : s.coreRuns (.node n) = true)
  (hevt : ∃ e ∈ (s.nd n).core.events, e.evt = 0x30 ∧ e.inbox = some j.val)
  (hm : m = memLine (s.nd n).core.ram (inboxAddr (.node n) j.val / 64))
include hruns hevt hm

/-- A message that waits at a running engine is found by its type. -/
theorem State.inboxMsg_waits {ty : Nat} (hty : bf m 7 0 = ty) : s.inboxMsg n j.val ty = some m := by
  have hany : ((s.nd n).core.events.any fun e => e.evt == 0x30 && e.inbox == some j.val) = true := by
    obtain ⟨e, he, h30, hslot⟩ := hevt
    exact List.any_eq_true.mpr ⟨e, he, by simp [h30, hslot]⟩
  simp only [State.inboxMsg, hruns, hany, ← hm, hty, Bool.not_true, Bool.or_self, Bool.false_eq_true, if_false, if_true]

/-- A work message frees its slot and starts its flow, or is reported BUSY. -/
theorem exec_workMessage {c : Instr} {ty kind : Nat} {r : Nat × State}
    (hrow : (c, ty, kind) ∈ [(Instr.lineCopy n j, 0xC1, 4), (.sectorRecall n j, 0xC2, 3)]) (hty : bf m 7 0 = ty)
    (hr : r = (s.inboxTake n j.val).tallocGo n (BitVec.ofNat 64 (kind + bf m 170 168 * 2 ^ 4)) (BitVec.ofNat 40 (bf m 103 64))) :
    exec c s = .next (if r.1 = 2 then r.2.dmaMsg (reportMsg m 4) else r.2).goOn := by
  have hexec : exec c s = .next (s.serveWork n j.val ty kind) := by
    simp only [List.mem_cons, Prod.mk.injEq, List.not_mem_nil, or_false] at hrow
    obtain ⟨rfl, rfl, rfl⟩ | ⟨rfl, rfl, rfl⟩ := hrow <;> rfl
  rw [hexec, State.serveWork, State.inboxMsg_waits hruns hevt hm hty, hr]

/-- A VISIT outside FLUSH frees its slot and starts its visit. -/
theorem execVisit_starts (hty : bf m 7 0 = 0xC3) (hmode : s.mode ≠ .flush) (hnone : (s.nd n).visits = []) :
    exec (.visit n j) s = .next ((((s.inboxTake n j.val).modNd n fun x =>
      { x with visits := [{ host := bf m 17 8, depart := bt m 18 }] }).visitPoll n).goOn) := by
  have hexec : exec (.visit n j) s = execVisit n j s := rfl
  have hempty : ((s.inboxTake n j.val).nd n).visits = [] := by rw [State.inboxTake, State.nd_modNd_self]; exact hnone
  rw [hexec, execVisit, State.inboxMsg_waits hruns hevt hm hty]
  dsimp only
  have hvisits (v : Visit) : ((s.inboxTake n j.val).modNd n fun x =>
      { x with visits := x.visits.filter (fun o => !(o.host == v.host && o.depart == v.depart)) ++ [v] }) =
      (s.inboxTake n j.val).modNd n fun x => { x with visits := [v] } := State.modNd_congr (by rw [hempty]; rfl)
  exact congrArg Host.Outcome.next ((if_neg hmode).trans (congrArg (fun u : State => (u.visitPoll n).goOn) (hvisits ⟨bf m 17 8, bt m 18, 0, false, false⟩)))

end Inbox

/-! ### A visit of a bank -/

theorem HA_OVF_CTRL_ne_pmcHiA (i : PmcId) : HA_OVF_CTRL ≠ pmcHiA i := by
  cases i <;> simp only [pmcHiA, pmcSelA, ndA, HA_OVF_CTRL, HA_PMC_SEL] <;> omega

/-- The start of the only waiting flow writes no register outside the counters. -/
theorem State.intTake_raw {s : State} {n : NodeId} {sw : Word} {pla : BitVec 40} (hq : (s.nd n).intQ = [.talloc sw pla]) {a : Nat}
    (ha : ∀ i, a ≠ pmcHiA i) : (s.intTake n).raw a = s.raw a := by
  cases htake : s.takeTrk n (bf sw 3 0) (.ofStart sw pla) with
  | none =>
    rw [Trk.ofStart] at htake
    simp only [State.intTake, hq, htake]
  | some o =>
    obtain ⟨i, u⟩ := o
    have hu : u.raw a = s.raw a := by
      unfold State.takeTrk at htake
      split at htake
      · cases htake
        exact (State.cntN_counted ..).regs a ha
      · cases htake
    rw [State.intTake_talloc hq htake]
    exact hu

/-- TALLOC writes no register outside the counters, whatever it finds. -/
theorem State.tallocGo_raw (s : State) (n : NodeId) (sw : Word) (pla : BitVec 40) {a : Nat} (ha : ∀ i, a ≠ pmcHiA i) :
    (s.tallocGo n sw pla).2.raw a = s.raw a := by
  have htaken (hidle : (s.nd n).intQ = []) :
      ((s.modNd n fun y => { y with intQ := y.intQ ++ [.talloc sw pla] }).intTake n).raw a = s.raw a :=
    State.intTake_raw (by rw [State.nd_modNd_self, hidle]; rfl) ha
  unfold State.tallocGo
  dsimp only
  by_cases hidle : (s.nd n).intQ = []
  · rw [if_pos (decide_eq_true hidle)]
    split
    · exact htaken hidle
    · split
      · rfl
      · exact htaken hidle
  · rw [decide_eq_false hidle, if_neg Bool.false_ne_true]
    split
    · rfl
    · split <;> rfl

/-- A visit takes an intact way: the flow of its entry starts, or the entry needs none. -/
theorem State.visitWay_good {s : State} {n : NodeId} {h k : Nat} {e : Word} (hent : (s.nd n).entry k = e)
    (hgood : (entCheck e).1 = .good) (hlive : entLive (s.nd n).cons e = e) (hrep : (s.nd n).repairs = []) :
    s.visitWay n h k = s.visitEntry n h (s.sectorOf n (k / 16) (k % 16) (bf e 19 0)) e := by
  have hread := State.wayRead_good (s := s) (n := n) (hent.symm ▸ hgood) 2
  simp only [State.visitWay, hrep, List.any_nil, Bool.false_eq_true, if_false, hread, hent, hlive]

/-- The TALLOC of an entry that a visit has read: none where the entry does not name the host or holds no line. -/
theorem State.visitEntry_starts {s : State} {n : NodeId} {h sec : Nat} {e : Word} {r : Nat × State}
    (hr : r = if entNames e h && entHolds e then s.tallocGo n (BitVec.ofNat 64 (3 + h * 2 ^ 7)) (BitVec.ofNat 40 (4 * sec)) else (0, s))
    (hroom : r.1 ≠ 2) : s.visitEntry n h sec e = (true, r.2) := by
  unfold State.visitEntry
  split at hr
  · next hnames =>
    rw [if_pos hnames, ← hr]
    simp [hroom]
  · next hnames =>
    rw [if_neg hnames, hr]

/-- With one entry in the bank and no overflow directory a visit that can take the entry is over. -/
theorem State.visitGo_one {s u : State} {n : NodeId} {j : Visit} {k : Nat} {e : Word} (hpos : j.pos = 0)
    (hbank : (s.nd n).bank = [(k, e)]) (hk : k < visitBankEnd) (hway : s.visitWay n j.host k = (true, u))
    (hoff : u.bit HA_OVF_CTRL 0 = false) :
    s.visitGo n j = u.modNd n fun x => x.setVisit { j with pos := visitBankEnd, done := true } := by
  have hbanks : s.visitBanks n j = (true, { j with pos := k + 1 }, u) := by
    simp [State.visitBanks, hbank, hpos, hway]
  have hend : max (k + 1) visitBankEnd = visitBankEnd := Nat.max_eq_right hk
  simp [State.visitGo, hbanks, hoff, hend]

/-! ### The end of a visit -/

/-- A finished visit whose flows have ended is dropped, and the node's bit of the session it was of clears. -/
theorem State.visitEnd_clears {s : State} {n : NodeId} {h : BitVec 10} {dep : Bool} (hsent : (s.ses h.toNat).visitSent = true)
    (hbit : bt (s.ses h.toNat).visits n.val = true) (hdone : bt (s.ses h.toNat).todo n.val = false)
    (hdep : (s.ses h.toNat).st = .departing ↔ dep = true)
    (hvisits : ∀ o ∈ (s.nd n).visits, o.host = h.toNat ∧ o.depart = dep) (hev : (s.nd n).evicts = [])
    (htrk : ∀ o ∈ (s.nd n).trk, o.2.v = true → o.2.kind = 3 → o.2.host ≠ h) (hq : (s.nd n).intQ = []) (hin : (s.nd n).core.inbox = []) :
    s.visitEnd n h.toNat dep = (s.modNd n fun x => { x with visits := [] }).modSes h.toNat fun y =>
      { y with visits := setBt y.visits n.val false } := by
  have hflows : ((s.nd n).trk.any fun o => o.2.v && o.2.kind == 3 && o.2.host.toNat == h.toNat) = false := by
    simp only [List.any_eq_false, Bool.and_eq_true, beq_iff_eq, not_and]
    exact fun o ho hv heq => htrk o ho hv.1 hv.2 (BitVec.eq_of_toNat_eq heq)
  have hdrop : ((s.nd n).visits.filter fun o => !(o.host == h.toNat && o.depart == dep)) = [] :=
    List.filter_eq_nil_iff.mpr fun o ho => by simp [hvisits o ho]
  have hkind : ((s.ses h.toNat).st == .departing) = dep := by
    rw [Bool.eq_iff_iff, beq_iff_eq, hdep]
  have hmod : (s.modNd n fun x => { x with visits := x.visits.filter fun o => !(o.host == h.toNat && o.depart == dep) }) =
      s.modNd n fun x => { x with visits := [] } := State.modNd_congr (by rw [hdrop])
  simp only [State.visitEnd, hflows, hev, hq, hin, hmod, hsent, hbit, hdone, hkind, List.any_nil, Bool.or_self, Bool.false_eq_true,
    if_false, if_true, Bool.not_false, Bool.and_self, beq_self_eq_true]

/-- Settles O31: SESSION and DEPART dispatch and note their event, service goes by the session's state, and the supervisor image
serves the message of its slot. -/
theorem firmwareAndSupervisorServe : Obligations.FirmwareAndSupervisorServe := by
  unfold Obligations.FirmwareAndSupervisorServe
  refine ⟨?_, ?_, ?_, fun s n => ⟨fun j m hruns hevt hm => ⟨fun c ty kind r hrow hty hr => exec_workMessage hruns hevt hm hrow hty hr,
    execVisit_starts hruns hevt hm⟩, ?_, ?_⟩⟩
  · rintro s j t e w err rfl hfree hnext hpick hcls htrk c hrow
    obtain ⟨u, honly, hthr, hexec⟩ := exec_chvServed hfree hnext hpick hcls htrk hrow
    refine ⟨u, honly, ?_, ?_, ?_, hexec⟩
    · rw [hthr]
      rfl
    · rw [hthr]
      rfl
    · rw [hthr]
      exact s.frameOf_datum ⟨.chervil, j⟩ e
  · rintro s z p i l h d err hh hp hled hst htaken htag hgone hsyn hruns htodo hz
    have hserve := State.sessServe_named (s := { s with chvTodo := [] }) err hp hled hst htaken htag hgone hsyn hz
    have hz_ses : z.ses h = s.ses h := by rw [hz]; rfl
    have hz_in : z.ctxIn (hdrCtx l.hdr) = s.ctxIn (hdrCtx l.hdr) := by rw [hz]; rfl
    rw [← hz_ses, ← hz_in]
    have hpoll : s.chvPoll = _ := (State.chvPoll_one hruns htodo).trans hserve
    refine ⟨fun hop hses => ?_, fun hop hses hin hgood u hu hvalid => ?_, fun hop hses hport => ?_, fun hop hses => ?_⟩
    · rw [hpoll, if_pos hop]
      exact State.sessOpen_notClosed hh hses
    · rw [hpoll, if_pos hop]
      exact State.sessOpen_opens hh hses hin hgood hu hvalid
    · rw [hpoll, if_neg hop]
      exact State.sessClose_open hh hses hport
    · rw [hpoll, if_neg hop]
      exact State.sessClose_over hh hses
  · rintro s u h err hlt hsyn hruns htodo hst hin hgood rfl
    have hserve : ({ s with chvTodo := [] } : State).chvServe (0x52, h, err) = { s with chvTodo := [] }.departServe h err := by
      simp only [State.chvServe, Nat.mod_eq_of_lt hlt]
      exact (if_neg (by decide)).trans (State.survThen_clean (s := { s with chvTodo := [] }) hsyn _ _)
    rw [State.chvPoll_one hruns htodo, hserve]
    exact State.departServe_reads hst hin hgood
  · rintro j k e r hoff hpos hbank hgood hlive hrep hk hr hroom
    have hent : (s.nd n).entry k = e := by simp [Node.entry, hbank, smGet]
    have hkeep : r.2.bit HA_OVF_CTRL 0 = false := by
      rw [hr]
      split
      · rw [State.bit, State.tallocGo_raw _ _ _ _ HA_OVF_CTRL_ne_pmcHiA]
        exact hoff
      · exact hoff
    exact State.visitGo_one hpos hbank hk
      ((State.visitWay_good hent hgood hlive hrep).trans (State.visitEntry_starts hr hroom)) hkeep
  · rintro h dep e p rfl hsent hbit hdone hdep hvisits hev htrk hq hin
    have hexec : exec (.visitDone n h dep 0) s = .next (s.visitEnd n h.toNat dep).goOn := by
      have hrow (r : BitVec 4) : exec (.visitDone n h dep r) s = execVisitDone n h dep r s := rfl
      rw [hrow, execVisitDone, hvisits]
      simp [b2n]
    rw [hexec, State.visitEnd_clears hsent hbit hdone hdep (by simp [hvisits]) hev htrk hq hin]

end Sys2Proof.Machine
end

section
/-! The mailbox commands that act (R307, R488 to R493), past the checks of R484 and R485. -/

namespace Sys2Proof.Machine

/-! ### A request that firmware serves -/

/-- Firmware serves a privileged request with clear reserved bytes, and `t` is the state in which it does: the MAILBOX event is taken. -/
structure Serves (s t : State) : Prop where
  server : s.mbServer = some false
  busy : s.bit HA_MB_STAT 0 = true
  priv : s.bit HA_MB_STAT 2 = true
  pad : s.mbNum 8 8 = 0
  taken : t = { s with chv := { s.chv with events := s.chv.events.filter fun e => e.evt != 0x50 } }

section Request

variable {s t : State} (h : Serves s t)
include h

theorem Serves.num (i n : Nat) : s.mbNum i n = t.mbNum i n := by rw [h.taken]; rfl
theorem Serves.mode : s.mode = t.mode := by rw [h.taken]
theorem Serves.stage : s.mbStage = t.mbStage := by rw [h.taken]

section Row

variable {code len : Nat} {sup rom : Bool} (hcode : s.mbNum 0 2 = code) (hlen : s.mbNum 2 2 = len)
  (hrow : mbRow code = some ⟨sup, rom, len⟩)
include hcode hlen hrow

theorem Serves.mbServe (f : Bool → State → State) : s.mbServe code f = f false t := by
  have hhead : s.mbHeadOk ⟨sup, rom, len⟩ = true := by simp [State.mbHeadOk, hlen, h.pad]
  unfold State.mbServe
  simp only [h.server, h.busy, h.priv, hcode, hrow, hhead, ← h.taken, Bool.not_true, Bool.false_and, Bool.and_false,
    Bool.false_eq_true, ne_eq, not_true, if_false]

/-- A command whose code and length are the request's is carried out. -/
theorem Serves.exec {c : Instr} {f : State → State} (hexec : Machine.exec c s = .next (s.mbServe code fun _ => f)) :
    Machine.exec c s = .next (f t) := by
  rw [hexec, h.mbServe hcode hlen hrow]

/-- So is one after which what waits goes on. -/
theorem Serves.exec_goOn {c : Instr} {f : State → State} (hexec : Machine.exec c s = .next (s.mbServe code fun _ => f).goOn) :
    Machine.exec c s = .next (f t).goOn := by
  rw [hexec, h.mbServe hcode hlen hrow]

end Row

end Request

theorem Mode.maps_iff {m : Mode} : m.maps = true ↔ m ∈ [.standby, .service, .degraded, .evacuate] := by
  cases m <;> simp [Mode.maps]

theorem Mode.maps_eq_false_iff {m : Mode} : m.maps = false ↔ m ∉ [.standby, .service, .degraded, .evacuate] := by
  rw [← Mode.maps_iff, Bool.not_eq_true]

theorem bmGood_iff {err : BmErr} : bmGood err = true ↔ err = .ok ∨ err = .corrected := by
  cases err <;> simp [bmGood]

theorem State.migMode_iff {s : State} : s.migMode = true ↔ s.mode = .service ∨ s.mode = .degraded := by
  simp [State.migMode]

theorem State.mbNum_ctx {s : State} {c : BitVec 16} (h : s.mbNum 16 2 = c.toNat) : BitVec.ofNat 16 (s.mbNum 16 2) = c := by
  rw [h, BitVec.ofNat_toNat, BitVec.setWidth_eq]

/-! ### SET_POWER -/

theorem Serves.setPower {s t : State} (h : Serves s t) (hcode : s.mbNum 0 2 = 0x0040) (hlen : s.mbNum 2 2 = 3) :
    Machine.exec .setPower s = .next (if t.mbNum 16 2 < 40 ∨ 192 < t.mbNum 16 2 ∨ 200 < t.mbNum 18 1 then t.mbReply 3 [] false
      else ((t.setFld HA_PWR_CAP 8 0 (t.mbNum 16 2)).setFld HA_PWR_VREQ 7 0 (t.mbNum 18 1)).mbReply 0 [] false) := by
  have hexec : Machine.exec .setPower s = execSetPower s := rfl
  rw [hexec, execSetPower, h.mbServe hcode hlen rfl]
  rfl

/-! ### Context tables -/

section Contexts

variable {s u : State} {err : BmErr} {c : BitVec 16} (hc : s.mbNum 16 2 = c.toNat) (hu : u = s.bmErrs err)

section CtxSet

variable {b : Nat} (hb : b = s.mbNum 18 1)
include hb

theorem State.mbCtxSet_badClass (h : 128 ≤ b) : s.mbCtxSet err = s.mbReply 3 [] false := if_pos (hb ▸ h)

theorem State.mbCtxSet_badMode (h : b < 128) (hmode : s.mode ∉ [.standby, .service, .degraded, .evacuate]) :
    s.mbCtxSet err = s.mbReply 4 [] false := by
  simp only [State.mbCtxSet, ← hb, Nat.not_le.mpr h, Mode.maps_eq_false_iff.mpr hmode, if_false, Bool.not_false, if_true]
  rfl

variable (h : b < 128) (hmode : s.mode ∈ [.standby, .service, .degraded, .evacuate]) (hin : s.ctxIn c = true)
include hc hu h hmode hin

/-- The three checks of the context entry have passed. -/
theorem State.mbCtxSet_entry : s.mbCtxSet err = if bmGood err = true then
    (if b % 2 = 0 ∧ ((u.sess.any fun e => e.2.ctx == c && e.2.st != .closed) = true ∨ u.ctxRuns c ≠ []) then u.mbReply 5 [] false
      else (u.ctxPut c (b + (if bt (s.ctxWord c 0) 0 then bf (s.ctxWord c 0) 24 8 * 2 ^ 8 else 0))).mbReply 0 [] false)
    else u.mbReply 8 [] false := by
  subst hu
  cases hgood : bmGood err <;>
    simp only [State.mbCtxSet, State.mbNum_ctx hc, ← hb, Nat.not_le.mpr h, Mode.maps_iff.mpr hmode, hin, hgood, Bool.not_true,
      Bool.not_false, Bool.false_eq_true, if_false, if_true] <;> rfl

end CtxSet

section MapRun

variable {r : Run} {rs : List Run} (hr : r = s.mbRun)
include hr

theorem State.mbMap_badRun (h : r.ok = false) : s.mbMap err = s.mbReply 3 [] false := if_pos (by rw [← hr, h]; rfl)

variable (hrs : rs = u.ctxRuns c) (hok : r.ok = true) (hmode : s.mode ∈ [.standby, .service, .degraded, .evacuate])
  (hin : s.ctxIn c = true) (hgood : bmGood err = true)
include hc hu hrs hok hmode hin hgood

/-- The run and the context entry have passed their checks. -/
theorem State.mbMap_entry : s.mbMap err = if bt (u.ctxWord c 0) 0 = false then u.mbReply 5 [] false
    else if r ∈ rs then u.mbReply 0 [] false
    else if ∃ o ∈ rs, r.overlaps o = true then u.mbReply 5 [] false
    else if 65536 ≤ rs.length then u.mbReply 6 [] false
    else (u.runsPut c (runIns r rs)).mbReply 0 [] false := by
  simp only [State.mbMap, State.mbNum_ctx hc, ← hr, ← hu, ← hrs, hok, Mode.maps_iff.mpr hmode, hin, hgood, Bool.not_true,
    Bool.false_eq_true, if_false, List.contains_iff_mem, List.any_eq_true, Bool.not_eq_true']
  rfl

end MapRun

/-- The phase, the channel and the extents recalled that a stage of UNMAP_RUN holds. -/
theorem unmapStage_parts {p : Nat} (hp : p < 4) (k : ChanId) :
    (p + 4 * k.val) % 4 = p ∧ Fin.ofNat 16 ((p + 4 * k.val) / 4 % 16) = k ∧ (p + 4 * k.val) / 64 = 0 := by
  have hk := k.isLt
  refine ⟨by omega, Fin.ext ?_, by omega⟩
  rw [Fin.val_ofNat]
  omega

section UnmapRun

variable {r : Run} {k : ChanId} (hr : r = s.mbRun)
include hc hr

/-- UNMAP_RUN begins with the first recall, on a free channel. -/
theorem State.mbUnmap_first (hstage : s.mbStage = 0) (hok : r.ok = true)
    (hmode : s.mode ∈ [.standby, .service, .degraded, .evacuate]) (hin : s.ctxIn c = true) (hmem : r ∈ s.ctxRuns c) :
    s.mbUnmap err = match s.freeCh with
      | none => s.mbReply 6 [] false
      | some k => { s.recallGo k c.toNat r true 0 with mbStage := 1 + 4 * k.val } := by
  have hcontains : (s.ctxRuns c).contains r = true := List.contains_iff_mem.mpr hmem
  simp only [State.mbUnmap, State.mbNum_ctx hc, ← hr, hstage, hok, Mode.maps_iff.mpr hmode, hin, hcontains, Nat.zero_mod,
    Bool.not_true, Bool.false_eq_true, if_false, if_true]
  rfl

/-- The first recall of at most 8,192 extents has ended: the run goes, and the second recall starts. -/
theorem State.mbUnmap_second (hstage : s.mbStage = 1 + 4 * k.val) (hdone : (s.ch k).st = .done) (hcount : r.count ≤ 8192)
    (hidle : s.xltCmd = none) :
    s.mbUnmap err = { (s.unmapMid c r).recallGo k c.toNat r false 0 with mbStage := 2 + 4 * k.val } := by
  obtain ⟨hphase, hchan, hext⟩ := unmapStage_parts (p := 1) (by decide) k
  have hlast : ¬ 0 + recallExts < r.count := by rw [recallExts]; omega
  simp only [State.mbUnmap, State.mbNum_ctx hc, ← hr, hstage, hphase, hchan, hext, hdone, hlast, hidle, Nat.one_ne_zero,
    Option.isSome_none, Bool.false_eq_true, if_false, if_true]
  rfl

include hu

/-- The second recall has ended. -/
theorem State.mbUnmap_last (hstage : s.mbStage = 2 + 4 * k.val) (hdone : (s.ch k).st = .done) (hcount : r.count ≤ 8192) :
    s.mbUnmap err = u.mbReply (if err = .ok ∨ err = .corrected then 0 else 8) [] false := by
  obtain ⟨hphase, hchan, hext⟩ := unmapStage_parts (p := 2) (by decide) k
  have hlast : ¬ 0 + recallExts < r.count := by rw [recallExts]; omega
  have hsay : (if bmGood err = true then u.mbReply 0 [] false else u.mbReply 8 [] false) =
      u.mbReply (if err = .ok ∨ err = .corrected then 0 else 8) [] false := by
    simp only [bmGood_iff]
    split <;> rfl
  rw [← hsay]
  simp only [State.mbUnmap, State.mbNum_ctx hc, ← hr, ← hu, hstage, hphase, hchan, hext, hdone, hlast, OfNat.ofNat_ne_zero,
    OfNat.ofNat_ne_one, if_false]
  rfl

end UnmapRun

end Contexts

/-! ### Migration -/

section Migration

variable {s u : State} {err : BmErr} {c : ChanId}

theorem State.mbChan_of (hc : s.mbNum 16 1 = c.val) : s.mbChan = some c := by
  have hlt : c.val < 16 := c.isLt
  rw [State.mbChan, hc, if_pos hlt]
  exact congrArg some (Fin.ext (Nat.mod_eq_of_lt hlt))

theorem Serves.migStatus {t : State} (h : Serves s t) (hcode : s.mbNum 0 2 = 0x0031) (hlen : s.mbNum 2 2 = 1)
    (hc : t.mbNum 16 1 = c.val) (hu : u = t.bmErrs err) (hin : t.bmIn (t.fld (chA c 0) 28 0) = true) (hgood : bmGood err = true) :
    Machine.exec (.migStatus err) s = .next (u.mbReply 0 (u.regBytes (chA c 2) ++ u.regBytes (chA c 3) ++
      wordBytes (BitVec.ofNat 32 (memRead u.bmem (64 * t.fld (chA c 0) 28 0 + 56) 4)) 4) false) := by
  have hexec : Machine.exec (.migStatus err) s = execMigStatus err s := rfl
  rw [hexec, execMigStatus, h.mbServe hcode hlen rfl]
  simp only [State.mbChan_of hc, hin, hgood, ← hu, Bool.not_true, Bool.false_eq_true, if_false]

section Resume

variable (hc : s.mbNum 16 1 = c.val) (hmode : s.mode = .service ∨ s.mode = .degraded)
include hc hmode

/-- MIG_RESUME of a channel, by its state. -/
theorem State.mbMigResume_chan : s.mbMigResume err = match (s.ch c).st with
    | .halted => (s.chanResume c).mbReply 0 [] false
    | .run | .preempted => s.mbReply 0 [] false
    | .idle =>
      if !bmGood err then (s.bmErrs err).mbReply 8 [] false
      else match s.migLeft c with
        | some k => ((s.bmErrs err).migAgain c k).mbReply 0 [] false
        | none => (s.bmErrs err).mbReply 5 [] false
    | .done => s.mbReply 5 [] false := by
  simp only [State.mbMigResume, State.mbChan_of hc, State.migMode_iff.mpr hmode, Bool.not_true, Bool.false_eq_true, if_false]
  rfl

/-- MIG_STOP of a channel, by its state. -/
theorem State.mbMigStop_chan : s.mbMigStop = match (s.ch c).st with
    | .run | .preempted => (s.chanStop c).mbReply 0 [] false
    | .halted => s.mbReply (if (s.ch c).cause = 10 then 0 else 5) [] false
    | .idle => s.mbReply (if (s.migLeft c).isSome then 0 else 5) [] false
    | .done => s.mbReply 5 [] false := by
  simp only [State.mbMigStop, State.mbChan_of hc, State.migMode_iff.mpr hmode, Bool.not_true, Bool.false_eq_true, if_false]
  rfl

end Resume

section Start

variable {ext dst : Nat} (hext : ext = s.mbNum 16 4) (hdst : dst = s.mbNum 20 4)
include hext hdst

theorem State.mbMigStart_badArg (h : 1048576 ≤ ext ∨ 1048576 ≤ dst) : s.mbMigStart err = s.mbReply 3 [] false :=
  if_pos (by rwa [← hext, ← hdst])

variable (hext_lt : ext < 1048576) (hdst_lt : dst < 1048576)
include hext_lt hdst_lt

theorem State.mbMigStart_badMode (hmode : ¬ (s.mode = .service ∨ s.mode = .degraded)) : s.mbMigStart err = s.mbReply 4 [] false := by
  have hbad : s.migMode = false := Bool.eq_false_iff.mpr (mt State.migMode_iff.mp hmode)
  have hfits : ¬ (1048576 ≤ ext ∨ 1048576 ≤ dst) := by omega
  rw [State.migMode] at hbad
  simp only [State.mbMigStart, ← hext, ← hdst, hfits, hbad, if_false, Bool.not_false, if_true]
  rfl

variable (hmode : s.mode = .service ∨ s.mode = .degraded) (hin : s.bmIn (s.plcLine ext) = true) (hgood : bmGood err = true)
  (hu : u = s.bmErrs err) (hnew : ¬ (bt (u.plcEnt ext) 0 = true ∧ bt (u.plcEnt ext) 1 = true ∧ bf (u.plcEnt ext) 41 22 = dst))
include hmode hin hgood hu hnew

/-- A move that no channel has begun starts on a free channel. -/
theorem State.mbMigStart_new : s.mbMigStart err = match u.freeCh with
    | none => u.mbReply 6 [] false
    | some k =>
      if ((u.descGo k 1 (ext + dst * 2 ^ 20) 0 0 1048576).ch k).st = .halted then
        (u.descGo k 1 (ext + dst * 2 ^ 20) 0 0 1048576).mbReply
          (if ((u.descGo k 1 (ext + dst * 2 ^ 20) 0 0 1048576).ch k).cause = 8 then 5 else 8) [] false
      else (u.descGo k 1 (ext + dst * 2 ^ 20) 0 0 1048576).mbReply 0 [BitVec.ofNat 8 k.val] false := by
  have hgo := State.migMode_iff.mpr hmode
  have hfits : ¬ (1048576 ≤ ext ∨ 1048576 ≤ dst) := by omega
  have hother : ¬ (bt (u.plcEnt ext) 0 && bt (u.plcEnt ext) 1 && bf (u.plcEnt ext) 41 22 == dst) = true := by
    simpa only [Bool.and_eq_true, beq_iff_eq, and_assoc] using hnew
  rw [State.migMode] at hgo
  simp only [State.mbMigStart, ← hext, ← hdst, ← hu, hfits, hgo, hin, hgood, hother, Bool.not_true, Bool.false_eq_true, if_false]
  rfl

end Start

end Migration

/-! ### GATE -/

section Gate

variable {s : State} {q : QuadId} (hq : s.mbNum 16 1 = q.val)
include hq

theorem State.mbNum_quad : Fin.ofNat 4 (s.mbNum 16 1) = q := by
  rw [hq]
  exact Fin.ext (Nat.mod_eq_of_lt q.isLt)

/-- The first stage of GATE with valid arguments. -/
theorem State.mbGate_first (hmode : s.mode = .service ∨ s.mode = .degraded) (hstage : s.mbStage = 0) (hop : s.mbNum 17 1 ≤ 1) :
    s.mbGate =
      if s.mbNum 17 1 = 1 then
        (if s.ungateRej q = 0 then { s.ungateGo q with mbStage := 4 } else (s.ungateGo q).gateSay q 5)
      else if (s.qd q).pwr ≠ .on ∨ s.qEnabled q = false then (s.gateGo q).gateSay q 5
      else { (s.quenchQuad q 1).quenchQuad (buddy q) 1 with mbStage := 1 } := by
  have hargs : ¬ (3 < s.mbNum 16 1 ∨ 1 < s.mbNum 17 1) := by have := q.isLt; omega
  simp only [State.mbGate, hstage, hargs, State.mbNum_quad hq, State.migMode_iff.mpr hmode, Bool.not_true, Bool.false_eq_true,
    if_false, beq_iff_eq]

/-- The quadrant is off. -/
theorem State.mbGate_off (hstage : s.mbStage = 3) (hoff : (s.qd q).pwr = .off) : s.mbGate = s.gateSay q 0 := by
  simp only [State.mbGate, hstage, State.mbNum_quad hq, hoff, if_true]

end Gate

/-! ### SHUTDOWN -/

section Shutdown

variable {s : State}

theorem State.shutdown_begins (hstage : s.mbStage = 0) (hprog : s.mbNum 16 1 ≤ 3) (hquads : s.mbNum 17 1 ≤ 15)
    (hmode : s.mode ∈ [.standby, .service, .degraded]) : s.shutdown = { s.setMode .evacuate with mbStage := 1 } := by
  have hargs : ¬ (3 < s.mbNum 16 1 ∨ 15 < s.mbNum 17 1) := by omega
  have hreq : s.modeReq 8 = s.setMode .evacuate := (s.modeReq_evacuate).trans (if_pos hmode)
  simp only [State.shutdown, hstage, hargs, if_false, hreq]
  simp only [List.mem_cons, List.not_mem_nil, or_false] at hmode
  obtain hm | hm | hm := hmode <;> simp only [hm]

theorem State.shutdown_badArg (hstage : s.mbStage = 0) (h : 3 < s.mbNum 16 1 ∨ 15 < s.mbNum 17 1) :
    s.shutdown = s.mbReply 3 [] false := by
  simp only [State.shutdown, hstage, h, if_true]
  rfl

theorem State.shutdown_evacuates (hstage : s.mbStage = 1) (hmode : s.mode = .evacuate) (hheld : s.held ≠ 0) :
    s.shutdown = s.evacGo := by
  unfold State.shutdown
  rw [hstage]
  exact if_pos ⟨hmode, hheld⟩

theorem State.shutdown_tests (hstage : s.mbStage = 1) (hheld : s.held = 0) (htest : s.shutTest.mode = .selftest) :
    s.shutdown = { s.shutTest with mbStage := 2 } := by
  simp only [State.shutdown, hstage, hheld, htest, ne_eq, not_true, and_false, if_false, if_true]

theorem State.shutdown_commits (hstage : s.mbStage = 2) (hmode : s.mode = .standby) (hphase : s.fld HA_ST_STAT 2 0 = 5) :
    s.shutdown = s.shutCommit := by
  have hended : s.mode ≠ .selftest := by rw [hmode]; decide
  unfold State.shutdown
  rw [hstage]
  exact (if_neg hended).trans (if_pos ⟨hmode, hphase⟩)

end Shutdown

/-! ### The commands together -/

section Commands

variable {s t : State} (h : Serves s t) (err : BmErr)
include h

theorem Serves.ctxSet (hcode : s.mbNum 0 2 = 0x0020) (hlen : s.mbNum 2 2 = 3) : Machine.exec (.ctxSet err) s = .next (t.mbCtxSet err) :=
  h.exec (f := (·.mbCtxSet err)) hcode hlen rfl rfl

theorem Serves.mapRun (hcode : s.mbNum 0 2 = 0x0021) (hlen : s.mbNum 2 2 = 12) : Machine.exec (.mapRun err) s = .next (t.mbMap err) :=
  h.exec (f := (·.mbMap err)) hcode hlen rfl rfl

theorem Serves.unmapRun (hcode : s.mbNum 0 2 = 0x0022) (hlen : s.mbNum 2 2 = 12) :
    Machine.exec (.unmapRun err) s = .next (t.mbUnmap err).goOn :=
  h.exec_goOn (f := (·.mbUnmap err)) hcode hlen rfl rfl

theorem Serves.migStart (hcode : s.mbNum 0 2 = 0x0030) (hlen : s.mbNum 2 2 = 8) :
    Machine.exec (.migStart err) s = .next (t.mbMigStart err).goOn :=
  h.exec_goOn (f := (·.mbMigStart err)) hcode hlen rfl rfl

theorem Serves.migResume (hcode : s.mbNum 0 2 = 0x0032) (hlen : s.mbNum 2 2 = 1) :
    Machine.exec (.migResume err) s = .next (t.mbMigResume err).goOn :=
  h.exec_goOn (f := (·.mbMigResume err)) hcode hlen rfl rfl

theorem Serves.migStop (hcode : s.mbNum 0 2 = 0x0033) (hlen : s.mbNum 2 2 = 1) : Machine.exec .migStop s = .next t.mbMigStop.goOn :=
  h.exec_goOn (f := (·.mbMigStop)) hcode hlen rfl rfl

theorem Serves.gate (hcode : s.mbNum 0 2 = 0x0041) (hlen : s.mbNum 2 2 = 2) : Machine.exec .mbGate s = .next t.mbGate.goOn :=
  h.exec_goOn (f := (·.mbGate)) hcode hlen rfl rfl

theorem Serves.shutdown (hcode : s.mbNum 0 2 = 0x0011) (hlen : s.mbNum 2 2 = 2) : Machine.exec .mbShutdown s = .next t.shutdown.goOn :=
  h.exec_goOn (f := (·.shutdown)) hcode hlen rfl rfl

end Commands

/-- Settles O55: past the checks of the mailbox each command goes by its own rules. -/
theorem mailboxCommandsAct : Obligations.MailboxCommandsAct := by
  unfold Obligations.MailboxCommandsAct
  intro s t err hserver hbusy hpriv hpad ht
  have h : Serves s t := ⟨hserver, hbusy, hpriv, hpad, ht⟩
  refine ⟨?_, ?_, ?_, ?_, ?_, ?_⟩
  · rintro hcode hlen l c rfl rfl
    rw [h.setPower hcode hlen, h.num, h.num]
    exact ⟨fun h1 h2 h3 => by rw [if_neg (by omega)], fun hbad => by rw [if_pos hbad]⟩
  · rintro c hc u hu
    rw [h.num] at hc
    refine ⟨fun hcode hlen b hb => ?_, fun r rs hcode hlen hr hrs => ?_, fun r k hcode hlen hr hmode hok hin hmem => ?_⟩
    · rw [h.ctxSet err hcode hlen, h.mode]
      rw [h.num] at hb
      refine ⟨fun hbad => by rw [State.mbCtxSet_badClass hb hbad], fun hlt hmode => by rw [State.mbCtxSet_badMode hb hlt hmode],
        fun hlt hmode hin => ?_⟩
      rw [State.mbCtxSet_entry hc hu hb hlt hmode hin]
      refine ⟨fun hok hcor => ?_, fun hgood => ?_⟩
      · rw [if_neg (by rw [bmGood_iff]; tauto)]
      · rw [if_pos (bmGood_iff.mpr hgood)]
        refine ⟨fun heven hused => by rw [if_pos ⟨heven, hused⟩], fun hfree => ?_⟩
        rw [if_neg]
        rintro ⟨heven, hused⟩
        obtain hodd | ⟨hunbound, hempty⟩ := hfree
        · omega
        · exact hused.elim (by simp [hunbound]) (absurd hempty)
    · rw [h.mapRun err hcode hlen, h.mode]
      rw [h.num, h.num, h.num] at hr
      refine ⟨fun hbad => by rw [State.mbMap_badRun hr hbad], fun hok hmode hin hgood => ?_⟩
      rw [State.mbMap_entry hc hu hr hrs hok hmode hin (bmGood_iff.mpr hgood)]
      refine ⟨fun hv => by rw [if_pos hv], fun hv hmem => by rw [hv, if_neg (by simp), if_pos hmem],
        fun hv hmem hover => by rw [hv, if_neg (by simp), if_neg hmem, if_pos hover], fun hv hmem hapart hroom => ?_⟩
      rw [hv, if_neg (by simp), if_neg hmem, if_neg (by simpa using hapart), if_neg (Nat.not_le.mpr hroom)]
    · rw [h.unmapRun err hcode hlen, h.stage]
      rw [h.num, h.num, h.num] at hr
      rw [h.mode] at hmode
      refine ⟨fun hstage hnone => ?_, fun hstage hfree => ?_, fun hstage hdone hcount hidle => ?_, fun hstage hdone hcount => ?_⟩
      · rw [State.mbUnmap_first hc hr hstage hok hmode hin hmem, hnone]
      · rw [State.mbUnmap_first hc hr hstage hok hmode hin hmem, hfree]
      · rw [State.mbUnmap_second hc hr hstage hdone hcount hidle]
      · rw [State.mbUnmap_last hc hu hr hstage hdone hcount]
  · rintro c u hu hc hlen hmode
    rw [h.num] at hc
    rw [h.mode] at hmode
    refine ⟨fun hcode hin hgood => h.migStatus hcode hlen hc hu hin (bmGood_iff.mpr hgood), fun hcode => ?_, fun hcode => ?_⟩
    · rw [h.migResume err hcode hlen, State.mbMigResume_chan hc hmode]
      refine ⟨fun hst => by rw [hst], fun hst => ?_, fun hst => by rw [hst], fun k hst hleft hgood => ?_⟩
      · simp only [List.mem_cons, List.not_mem_nil, or_false] at hst
        obtain hst | hst := hst <;> rw [hst]
      · rw [hst, hleft, bmGood_iff.mpr hgood, hu]
        rfl
    · rw [h.migStop hcode hlen, State.mbMigStop_chan hc hmode]
      refine ⟨fun hst => ?_, fun hst => by rw [hst], fun hst => by rw [hst], fun hst => by rw [hst]⟩
      simp only [List.mem_cons, List.not_mem_nil, or_false] at hst
      obtain hst | hst := hst <;> rw [hst]
  · rintro ext dst u hcode hlen hext hdst hu
    rw [h.migStart err hcode hlen, h.mode]
    rw [h.num] at hext hdst
    refine ⟨fun hbad => by rw [State.mbMigStart_badArg hext hdst hbad],
      fun hlt hlt' hs hd => by rw [State.mbMigStart_badMode hext hdst hlt hlt' (not_or.mpr ⟨hs, hd⟩)],
      fun hlt hlt' hmode hin hgood hnew => ?_⟩
    rw [State.mbMigStart_new hext hdst hlt hlt' hmode hin (bmGood_iff.mpr hgood) hu hnew]
    refine ⟨fun hnone => by rw [hnone], ?_⟩
    rintro c v hfree rfl
    rw [hfree]
  · rintro q hcode hlen hq hmode
    rw [h.gate hcode hlen, h.stage, h.num]
    rw [h.num] at hq
    rw [h.mode] at hmode
    refine ⟨fun hstage hop hon hen => ?_, fun hstage hop hon => ?_, fun hstage hop hrej => ?_, fun hstage hoff => ?_⟩
    · rw [State.mbGate_first hq hmode hstage (by omega), if_neg (by omega), if_neg (by simp [hon, hen])]
    · rw [State.mbGate_first hq hmode hstage (by omega), if_neg (by omega), if_pos (.inl hon)]
    · rw [State.mbGate_first hq hmode hstage (by omega), if_pos hop, if_pos hrej]
    · rw [State.mbGate_off hq hstage hoff]
  · intro hcode hlen
    rw [h.shutdown hcode hlen, h.stage, h.num, h.num, h.mode]
    refine ⟨fun hstage hprog hquads hmode => ?_, fun hstage hbad => ?_, fun hstage hmode hheld => ?_,
      fun hstage _ hheld htest => ?_, fun hstage hmode hphase => ?_⟩
    · rw [State.shutdown_begins hstage hprog hquads hmode]
    · rw [State.shutdown_badArg hstage hbad]
    · rw [State.shutdown_evacuates hstage hmode hheld]
    · rw [State.shutdown_tests hstage hheld htest]
    · rw [State.shutdown_commits hstage hmode hphase]

end Sys2Proof.Machine
end

section
/-! The route of a packet (R347): two rings walked one after the other. -/

namespace Sys2Proof.Machine

/-! ### One ring -/

/-- The hops in the + direction from `a` to `b` on a ring of `n` routers. -/
def ringGap (n a b : Nat) : Nat := (b + n - a) % n

/-- The hops of the shorter way around. -/
def ringHops (n a b : Nat) : Nat := min (ringGap n a b) (n - ringGap n a b)

/-- Whether the shorter way from `a` to `b` is the + direction; `tie` decides between equal ways. -/
def ringPlus (n a b : Nat) (tie : Bool) : Bool :=
  decide (ringGap n a b < n / 2 ∨ ringGap n a b = n / 2 ∧ tie = true)

/-- The place `k` hops from `a` in the direction `plus`, for `k` up to `n`. -/
def ringAt (n a : Nat) (plus : Bool) (k : Nat) : Nat := if plus then (a + k) % n else (a + n - k) % n

theorem ringAt_zero {n a : Nat} (plus : Bool) (ha : a < n) : ringAt n a plus 0 = a := by
  cases plus <;> simp [ringAt, Nat.mod_eq_of_lt ha]

theorem ringAt_succ {n k : Nat} (a : Nat) (plus : Bool) (hk : k < n) :
    ringAt n a plus (k + 1) = (ringAt n a plus k + if plus then 1 else n - 1) % n := by
  cases plus with
  | true => simp [ringAt, Nat.add_assoc]
  | false =>
    have hback : a + n - k + (n - 1) = a + n - (k + 1) + n := by omega
    simp [ringAt, hback]

theorem ringGap_le_of_ringPlus {n a b : Nat} {tie : Bool} (h : ringPlus n a b tie = true) : ringGap n a b ≤ n / 2 := by
  have hor := of_decide_eq_true h
  omega

theorem le_ringGap_of_not_ringPlus {n a b : Nat} {tie : Bool} (h : ringPlus n a b tie = false) :
    n / 2 ≤ ringGap n a b := by
  have hnor := of_decide_eq_false h
  omega

/-- On the rings of the fabric the shorter way reaches `b` after `ringHops` hops and not before. -/
theorem ringAt_eq_iff {n a b k : Nat} {tie : Bool} (hn : n = 8 ∨ n = 4) (ha : a < n) (hb : b < n)
    (hk : k ≤ ringHops n a b) : ringAt n a (ringPlus n a b tie) k = b ↔ k = ringHops n a b := by
  cases hp : ringPlus n a b tie with
  | true =>
    have hgap := ringGap_le_of_ringPlus hp
    simp only [ringAt, ringHops, ringGap, if_true] at hgap hk ⊢
    obtain rfl | rfl := hn <;> omega
  | false =>
    have hgap := le_ringGap_of_not_ringPlus hp
    simp only [ringAt, ringHops, ringGap, Bool.false_eq_true, if_false] at hgap hk ⊢
    obtain rfl | rfl := hn <;> omega

theorem ringGap_eq_zero_iff {n a b : Nat} (hn : n = 8 ∨ n = 4) (ha : a < n) (hb : b < n) :
    ringGap n a b = 0 ↔ a = b := by
  unfold ringGap
  obtain rfl | rfl := hn <;> omega

/-! ### The coordinates of a router -/

theorem rX_lt (r : NodeId) : rX r < 8 := Nat.mod_lt _ (by decide)

theorem rY_lt (r : NodeId) : rY r < 4 := by
  have := r.isLt
  unfold rY
  omega

theorem node_ext {q r : NodeId} (hx : rX q = rX r) (hy : rY q = rY r) : q = r := by
  unfold rX at hx
  unfold rY at hy
  exact Fin.ext (by omega)

/-- What a hop through a port adds to x. -/
def hopX : RtrPort → Nat
  | .xp => 1 | .xm => 7 | _ => 0

/-- What a hop through a port adds to y. -/
def hopY : RtrPort → Nat
  | .yp => 1 | .ym => 3 | _ => 0

@[simp] theorem rX_linkTo (r : NodeId) (o : RtrPort) : rX (linkTo r o) = (rX r + hopX o) % 8 := by
  have := r.isLt
  cases o <;> simp [linkTo, rX, rY, hopX]
  all_goals omega

@[simp] theorem rY_linkTo (r : NodeId) (o : RtrPort) : rY (linkTo r o) = (rY r + hopY o) % 4 := by
  have := r.isLt
  cases o <;> simp [linkTo, rX, rY, hopY]
  all_goals omega

/-! ### The two legs of a route -/

/-- The tie bit of R347. -/
def tieOf (src : NodeId) : Bool := decide ((rX src + rY src) % 2 = 0)

/-- Whether a packet from `src` to `dst` takes its X hops in the + direction. -/
def xPlus (src dst : NodeId) : Bool := ringPlus 8 (rX src) (rX dst) (tieOf src)

/-- Whether it takes its Y hops in the + direction. -/
def yPlus (src dst : NodeId) : Bool := ringPlus 4 (rY src) (rY dst) (tieOf src)

/-- The X hops of the route, which come first. -/
def xHops (src dst : NodeId) : Nat := ringHops 8 (rX src) (rX dst)

/-- The Y hops of the route. -/
def yHops (src dst : NodeId) : Nat := ringHops 4 (rY src) (rY dst)

theorem hopsOf_eq (src dst : NodeId) : hopsOf src dst = xHops src dst + yHops src dst := rfl

theorem hopsOf_le (src dst : NodeId) : hopsOf src dst ≤ 6 := by
  rw [hopsOf_eq, xHops, yHops, ringHops, ringHops]
  omega

theorem xDir_of_ne {src dst : NodeId} (h : rX src ≠ rX dst) :
    xDir src dst = some (if xPlus src dst then .xp else .xm) := by
  have hgap := mt (ringGap_eq_zero_iff (.inl rfl) (rX_lt src) (rX_lt dst)).mp h
  unfold ringGap at hgap
  simp only [xDir, hgap, if_false, xPlus, ringPlus, ringGap, tieOf, beq_iff_eq, decide_eq_true_eq]
  split <;> rfl

theorem yDir_of_ne {src dst : NodeId} (h : rY src ≠ rY dst) :
    yDir src dst = some (if yPlus src dst then .yp else .ym) := by
  have hgap := mt (ringGap_eq_zero_iff (.inr rfl) (rY_lt src) (rY_lt dst)).mp h
  unfold ringGap at hgap
  simp only [yDir, hgap, if_false, yPlus, ringPlus, ringGap, tieOf, beq_iff_eq, decide_eq_true_eq]
  split <;> rfl

theorem routeOut_dst (src dst : NodeId) (att : Bool) : routeOut dst src dst att = if att then .att else .loc := by
  simp [routeOut]

theorem xHops_le (src dst : NodeId) : xHops src dst ≤ 4 := by
  rw [xHops, ringHops]
  omega

theorem yHops_le (src dst : NodeId) : yHops src dst ≤ 2 := by
  rw [yHops, ringHops]
  omega

theorem ringAt_xPlus_eq_iff {src dst : NodeId} {k : Nat} (hk : k ≤ xHops src dst) :
    ringAt 8 (rX src) (xPlus src dst) k = rX dst ↔ k = xHops src dst :=
  ringAt_eq_iff (.inl rfl) (rX_lt src) (rX_lt dst) hk

theorem ringAt_yPlus_eq_iff {src dst : NodeId} {k : Nat} (hk : k ≤ yHops src dst) :
    ringAt 4 (rY src) (yPlus src dst) k = rY dst ↔ k = yHops src dst :=
  ringAt_eq_iff (.inr rfl) (rY_lt src) (rY_lt dst) hk

theorem rX_ne_of_lt_xHops {src dst : NodeId} {k : Nat} (hk : k < xHops src dst) : rX src ≠ rX dst := by
  have hstart := ringAt_xPlus_eq_iff (Nat.zero_le (xHops src dst))
  rw [ringAt_zero _ (rX_lt src)] at hstart
  exact mt hstart.mp (by omega)

theorem rY_ne_of_lt_yHops {src dst : NodeId} {k : Nat} (hk : k < yHops src dst) : rY src ≠ rY dst := by
  have hstart := ringAt_yPlus_eq_iff (Nat.zero_le (yHops src dst))
  rw [ringAt_zero _ (rY_lt src)] at hstart
  exact mt hstart.mp (by omega)

/-- R347: while X hops are left, the direction is the one that source and destination give on X. -/
theorem routeOut_xLeg {r src dst : NodeId} {k : Nat} (att : Bool) (hk : k < xHops src dst)
    (hr : rX r = ringAt 8 (rX src) (xPlus src dst) k) :
    routeOut r src dst att = if xPlus src dst then .xp else .xm := by
  have hne : rX r ≠ rX dst := hr ▸ mt (ringAt_xPlus_eq_iff hk.le).mp hk.ne
  simp [routeOut, hne, xDir_of_ne (rX_ne_of_lt_xHops hk)]

/-- R347: with x reached and Y hops left, the direction is the one that source and destination give on Y. -/
theorem routeOut_yLeg {r src dst : NodeId} {k : Nat} (att : Bool) (hk : k < yHops src dst) (hx : rX r = rX dst)
    (hr : rY r = ringAt 4 (rY src) (yPlus src dst) k) :
    routeOut r src dst att = if yPlus src dst then .yp else .ym := by
  have hne : rY r ≠ rY dst := hr ▸ mt (ringAt_yPlus_eq_iff hk.le).mp hk.ne
  simp [routeOut, hx, hne, yDir_of_ne (rY_ne_of_lt_yHops hk)]

theorem hopAfter_xLeg (src dst : NodeId) (att : Bool) {k : Nat} (hk : k ≤ xHops src dst) :
    rX (hopAfter src dst att k) = ringAt 8 (rX src) (xPlus src dst) k ∧ rY (hopAfter src dst att k) = rY src := by
  induction k with
  | zero => exact ⟨(ringAt_zero _ (rX_lt src)).symm, rfl⟩
  | succ k ih =>
    obtain ⟨hx, hy⟩ := ih (by omega)
    have hlen := xHops_le src dst
    rw [hopAfter, rX_linkTo, rY_linkTo, routeOut_xLeg att hk hx, hx, hy, ringAt_succ _ _ (by omega)]
    cases xPlus src dst <;> simp [hopX, hopY, Nat.mod_eq_of_lt (rY_lt src)]

theorem hopAfter_yLeg (src dst : NodeId) (att : Bool) {k : Nat} (hk : k ≤ yHops src dst) :
    rX (hopAfter src dst att (xHops src dst + k)) = rX dst ∧
      rY (hopAfter src dst att (xHops src dst + k)) = ringAt 4 (rY src) (yPlus src dst) k := by
  induction k with
  | zero =>
    obtain ⟨hx, hy⟩ := hopAfter_xLeg src dst att le_rfl
    exact ⟨hx.trans ((ringAt_xPlus_eq_iff le_rfl).mpr rfl), hy.trans (ringAt_zero _ (rY_lt src)).symm⟩
  | succ k ih =>
    obtain ⟨hx, hy⟩ := ih (by omega)
    have hlen := yHops_le src dst
    rw [← Nat.add_assoc, hopAfter, rX_linkTo, rY_linkTo, routeOut_yLeg att hk hx hy, hx, hy, ringAt_succ _ _ (by omega)]
    cases yPlus src dst <;> simp [hopX, hopY, Nat.mod_eq_of_lt (rX_lt dst)]

theorem hopAfter_hops (src dst : NodeId) (att : Bool) : hopAfter src dst att (xHops src dst + yHops src dst) = dst := by
  obtain ⟨hx, hy⟩ := hopAfter_yLeg src dst att le_rfl
  exact node_ext hx (hy.trans ((ringAt_yPlus_eq_iff le_rfl).mpr rfl))

theorem xPlus_iff (src dst : NodeId) : xPlus src dst = true ↔
    ringGap 8 (rX src) (rX dst) < 4 ∨ ringGap 8 (rX src) (rX dst) = 4 ∧ tieOf src = true := decide_eq_true_iff

theorem yPlus_iff (src dst : NodeId) : yPlus src dst = true ↔
    ringGap 4 (rY src) (rY dst) < 2 ∨ ringGap 4 (rY src) (rY dst) = 2 ∧ tieOf src = true := decide_eq_true_iff

/-- Settles O57: the X leg, then the Y leg, each along one ring. -/
theorem routeOfAPacket : Obligations.RouteOfAPacket := by
  unfold Obligations.RouteOfAPacket
  rintro src dst att _ _ _ _ _ rfl rfl rfl rfl rfl
  refine ⟨hopsOf_eq src dst, hopsOf_le src dst, fun k hk => ?_, fun k hk hle => ?_, hopAfter_hops src dst att,
    routeOut_dst src dst att⟩
  · obtain ⟨hx, -⟩ := hopAfter_xLeg src dst att (Nat.le_of_lt hk)
    exact (routeOut_xLeg att hk hx).trans (if_congr (xPlus_iff src dst) rfl rfl)
  · obtain ⟨j, rfl⟩ := Nat.exists_eq_add_of_le hle
    have hj : j < yHops src dst := Nat.lt_of_add_lt_add_left hk
    obtain ⟨hx, hy⟩ := hopAfter_yLeg src dst att hj.le
    exact (routeOut_yLeg att hj hx hy).trans (if_congr (yPlus_iff src dst) rfl rfl)

end Sys2Proof.Machine
end

section
/-! Cold reset, the totality of the step, and the mode FLUSH (R392, R396, R429, R503). -/

namespace Sys2Proof.Machine

/-! ### The state after cold reset -/

theorem State.reset_canon : State.reset.Canon := ⟨rfl, rfl, rfl, rfl, rfl, rfl, rfl, rfl, rfl, rfl⟩

/-- No register of the reset state is listed, so each reads as its cold-reset value. -/
@[simp] theorem State.reset_raw (a : Nat) : State.reset.raw a = regDefault a := rfl

theorem State.reset_sfCons : State.reset.bit HA_SF_CONS 0 = true := by
  rw [State.bit, State.reset_raw]
  decide

theorem State.reset_fabEpoch : State.reset.fld HA_FAB_EPOCH 15 8 = 0 := by
  rw [State.fld, State.reset_raw]
  decide

/-- Settles O3: nothing is listed in the reset state, so each part reads as its own default. -/
theorem coldResetState : Obligations.ColdResetState := by
  unfold Obligations.ColdResetState
  exact ⟨rfl, rfl, State.reset_canon, State.reset_raw, fun _ => ⟨rfl, rfl⟩, fun _ => ⟨rfl, rfl⟩, fun _ => ⟨rfl, rfl, rfl⟩, fun _ => rfl,
    fun _ => rfl, fun _ => rfl, rfl, rfl, rfl, State.reset_sfCons, State.reset_fabEpoch⟩

/-! ### Every command is taken -/

/-- The two commands of a cold reset and all others answer a next state. -/
theorem exec_next (c : Instr) (s : State) : ∃ t, exec c s = .next t := by
  by_cases hcold : c = .coldResetAssert ∨ c = .coldResetRelease
  · obtain ⟨t, ht, -⟩ := coldReset_keeps c s hcold
    exact ⟨t, ht⟩
  · obtain ⟨hassert, hrelease⟩ := not_or.mp hcold
    obtain ⟨t, ht, -⟩ := exec_keeps c s hassert hrelease
    exact ⟨t, ht⟩

theorem step_tick {s : State} (h : s.pending = []) : step s = .next s.tick := by rw [step, h]

theorem step_exec {s : State} {c : Instr} {cs : List Instr} (h : s.pending = c :: cs) : step s = exec c { s with pending := cs } := by
  rw [step, h]

/-- Settles O2: a step is a tick or the command at the front of the queue. -/
theorem everyCommandIsTaken : Obligations.EveryCommandIsTaken := by
  unfold Obligations.EveryCommandIsTaken
  refine ⟨exec_next, fun s => ?_⟩
  cases hq : s.pending with
  | nil => exact ⟨s.tick, step_tick hq⟩
  | cons c cs =>
    rw [step_exec hq]
    exact exec_next c _

/-! ### FLUSH is left by a cold reset only -/

theorem State.enterOff_mode (s : State) : s.enterOff.mode = .off := by
  rw [State.enterOff]
  exact List.foldlRecOn (motive := fun u : State => u.mode = .off) allQd _ rfl fun _ h _ _ => h

/-- A command other than an assertion of the cold reset leaves FLUSH as it is; a release acts in OFF only. -/
theorem exec_flush {c : Instr} {s : State} (hm : s.mode = .flush) (hc : c ≠ .coldResetAssert) :
    ∃ t, exec c s = .next t ∧ t.mode = .flush := by
  by_cases hr : c = .coldResetRelease
  · subst hr
    exact ⟨s, execColdResetRelease_on (by simp [hm]), hm⟩
  · obtain ⟨t, ht, hkeeps⟩ := exec_keeps c s hc hr
    exact ⟨t, ht, hkeeps.flush hm⟩

theorem exec_coldResetAssert {s : State} (hm : s.mode ≠ .off) :
    ∃ t, exec .coldResetAssert s = .next t ∧ t.mode = .off ∧ t.pending = s.pending := by
  obtain ⟨t, ht, hq, -⟩ := coldReset_keeps .coldResetAssert s (.inl rfl)
  obtain rfl : s.enterOff = t := Host.Outcome.next.inj ((execColdResetAssert_on hm).symm.trans ht)
  exact ⟨s.enterOff, ht, s.enterOff_mode, hq⟩

/-- Settles O60: a tick and every command but COLD_RESET_ASSERT keep FLUSH, and that one leads to OFF. -/
theorem onlyColdResetLeavesFlush : Obligations.OnlyColdResetLeavesFlush := by
  unfold Obligations.OnlyColdResetLeavesFlush
  refine fun s hm => ⟨fun hfront => ?_, fun cs hq => ?_⟩
  · cases hq : s.pending with
    | nil =>
      obtain ⟨-, -, hflush⟩ := s.tick_keeps
      exact ⟨s.tick, step_tick hq, hflush hm⟩
    | cons c cs =>
      rw [step_exec hq]
      refine exec_flush hm ?_
      rintro rfl
      exact hfront cs hq
  · rw [step_exec hq]
    exact exec_coldResetAssert (by simp [hm])

end Sys2Proof.Machine
end

section
/-! The mailbox: doorbell, completion, replies, and the checks before a command's own rules (R405, R407, R446, R481 to R485). -/

namespace Sys2Proof.Machine

/-! ### Doorbell and completion (R482) -/

section Access

variable {s : State} {src : Src}

theorem execDoorbell_of (h : s.MayAccess src HA_MB_DOORBELL true) :
    exec (.doorbell src) s = .next ((s.mbDoor src 1).noted src HA_MB_DOORBELL true 0) :=
  congrArg Host.Outcome.next (State.regDo_of h _)

theorem execMbComplete_of (h : s.MayAccess src HA_MB_COMPLETE true) :
    exec (.mbComplete src) s = .next ((s.mbComp src 1).noted src HA_MB_COMPLETE true 0) :=
  congrArg Host.Outcome.next (State.regDo_of h _)

theorem State.mbDoor_idle (h : s.bit HA_MB_STAT 0 = false) : s.mbDoor src 1 =
    (((s.setFld HA_MB_STAT 0 0 1).setFld HA_MB_STAT 1 1 0).setFld HA_MB_STAT 2 2 (b2n (srcPriv src))).chvEvent 0x50
      (b2n (srcPriv src)) := by
  rw [State.mbDoor, h]
  rfl

theorem State.mbDoor_busy (h : s.bit HA_MB_STAT 0 = true) : s.mbDoor src 1 = s.accErr 1 HA_MB_DOORBELL true (srcPriv src) := by
  rw [State.mbDoor, h]
  rfl

theorem State.mbComp_busy {u : State} (h : s.bit HA_MB_STAT 0 = true)
    (hu : u = (((s.setFld HA_MB_STAT 15 8 (s.fld (HA_MB_RSP + 8) 7 0)).setFld HA_MB_STAT 3 3 (b2n (src matches .bootRom))).setFld
      HA_MB_STAT 0 0 0).setFld HA_MB_STAT 1 1 1) : s.mbComp src 1 = { u with mbStage := 0 } := by
  subst hu
  unfold State.mbComp
  rw [h]
  cases src <;> rfl

theorem State.mbComp_idle (h : s.bit HA_MB_STAT 0 = false) : s.mbComp src 1 = s.accErr 1 HA_MB_COMPLETE true (srcPriv src) := by
  unfold State.mbComp
  rw [h]
  rfl

end Access

/-! ### Replies (R482, R484) -/

/-- A register that none of several writes names. -/
theorem State.raw_foldl_setRaw {α : Type} (addr : α → Nat) (val : α → BitVec 32) (b : Nat) (l : List α) (s : State)
    (h : ∀ k ∈ l, b ≠ addr k) : (l.foldl (fun s k => s.setRaw (addr k) (val k)) s).raw b = s.raw b := by
  induction l generalizing s with
  | nil => rfl
  | cons k l ih =>
    rw [List.forall_mem_cons] at h
    rw [List.foldl_cons, ih _ h.2, State.raw_setRaw, if_neg h.1]

/-- HA_MB_STAT after a reply: STATUS and the server, DONE set and BUSY cleared. -/
def mbStatReplied (v : BitVec 32) (st : Nat) (rom : Bool) : BitVec 32 := setBf (setBf (setBf (setBf v 15 8 st) 3 3 (b2n rom)) 1 1 1) 0 0 0

section Reply

variable {t : State} {st : Nat} {p : List Byte} {rom : Bool}

theorem State.mbReply_mbStage : (t.mbReply st p rom).mbStage = 0 := rfl

/-- The registers after a reply whose payload fits, outside the payload: HA_MB_STAT and the four words of the header. -/
theorem State.mbReply_raw (hp : p.length ≤ 4080) {b : Nat} (hb : b < HA_MB_RSP + 16 ∨ HA_MB_RSP + 4096 ≤ b) :
    (t.mbReply st p rom).raw b =
      if b = HA_MB_STAT then mbStatReplied (t.raw HA_MB_STAT) st rom
      else if b = HA_MB_RSP + 12 then 0
      else if b = HA_MB_RSP + 8 then BitVec.ofNat 32 st
      else if b = HA_MB_RSP + 4 then t.raw (HA_MB_REQ + 4)
      else if b = HA_MB_RSP then BitVec.ofNat 32 ((t.raw HA_MB_REQ).toNat % 65536 + p.length * 65536)
      else t.raw b := by
  have hpayload {c : Nat} (hc : c < HA_MB_RSP + 16 ∨ HA_MB_RSP + 4096 ≤ c) :
      ∀ k ∈ List.range ((p.length + 3) / 4), c ≠ HA_MB_RSP + 16 + 4 * k := by
    intro k hk
    rw [List.mem_range] at hk
    omega
  have hstage (u : State) (c : Nat) : ({ u with mbStage := 0 } : State).raw c = u.raw c := rfl
  unfold State.mbReply
  simp only [State.raw_setFld, hstage]
  by_cases hstat : b = HA_MB_STAT
  · subst hstat
    simp only [if_true, State.raw_foldl_setRaw _ _ _ _ _ (hpayload hb), State.raw_setRaw]
    rfl
  · simp only [if_neg hstat, State.raw_foldl_setRaw _ _ _ _ _ (hpayload hb), State.raw_setRaw]
    rfl

/-- What a reply leaves in HA_MB_STAT. -/
theorem mbStatReplied_fields (v : BitVec 32) (hst : st < 256) :
    bt (mbStatReplied v st rom) 0 = false ∧ bt (mbStatReplied v st rom) 1 = true ∧ bt (mbStatReplied v st rom) 3 = rom ∧
    bf (mbStatReplied v st rom) 15 8 = st := by
  have hbit (v : BitVec 32) {i : Nat} (hi : i < 32) (x : Nat) : bt (setBf v i i x) i = x.testBit 0 :=
    (getLsbD_setBf v i i x i le_rfl).trans (by simp [hi])
  unfold mbStatReplied
  refine ⟨by rw [hbit _ (by decide)]; rfl, ?_, ?_, ?_⟩
  · rw [bt_setBf_other _ _ le_rfl (by omega), hbit _ (by decide)]
    rfl
  · rw [bt_setBf_other _ _ le_rfl (by omega), bt_setBf_other _ _ le_rfl (by omega), hbit _ (by decide)]
    cases rom <;> rfl
  · rw [bf_setBf_other _ _ le_rfl (by decide) (by omega), bf_setBf_other _ _ le_rfl (by decide) (by omega),
      bf_setBf_other _ _ le_rfl (by decide) (by omega), bf_setBf_self _ _ (by decide) (by decide)]
    exact Nat.mod_eq_of_lt hst

variable (hp : p.length ≤ 4080)
include hp

theorem State.mbReply_stat : (t.mbReply st p rom).raw HA_MB_STAT = mbStatReplied (t.raw HA_MB_STAT) st rom := by
  rw [State.mbReply_raw hp (.inr (by decide)), if_pos rfl]

theorem State.mbReply_rsp : (t.mbReply st p rom).raw HA_MB_RSP = BitVec.ofNat 32 (bf (t.raw HA_MB_REQ) 15 0 + p.length * 65536) :=
  State.mbReply_raw hp (.inl (by decide))

theorem State.mbReply_tag : (t.mbReply st p rom).raw (HA_MB_RSP + 4) = t.raw (HA_MB_REQ + 4) :=
  State.mbReply_raw hp (.inl (by decide))

theorem State.mbReply_status : (t.mbReply st p rom).raw (HA_MB_RSP + 8) = BitVec.ofNat 32 st :=
  State.mbReply_raw hp (.inl (by decide))

theorem State.mbReply_ctrl : (t.mbReply st p rom).raw HA_MB_CTRL = t.raw HA_MB_CTRL :=
  State.mbReply_raw hp (.inr (by decide))

end Reply

/-- DONE raises cfg_irq while IRQ_EN is 1 (R446). -/
theorem State.cfgIrq_of_done {s : State} (hdone : s.bit HA_MB_STAT 1 = true) (hen : s.bit HA_MB_CTRL 0 = true) : s.cfgIrq = true := by
  simp [State.cfgIrq, hdone, hen]

/-! ### The server and the checks (R485) -/

/-- Table 17.5 lists these codes and no others. -/
theorem mbRow_eq_none {code : Nat} (h : code ∉ [0x0001, 0x0002, 0x0003, 0x0010, 0x0011, 0x0020, 0x0021, 0x0022, 0x0030, 0x0031, 0x0032,
    0x0033, 0x0040, 0x0041, 0x0050]) : mbRow code = none := by
  simp only [List.mem_cons, List.not_mem_nil, or_false, not_or] at h
  simp [mbRow, h]

section Server

variable {s : State}

theorem State.mbServer_none (h : s.mode ∈ [.off, .strap, .fill, .hold]) : s.mbServer = none := by
  simp only [List.mem_cons, List.not_mem_nil, or_false] at h
  rw [State.mbServer]
  obtain h | h | h | h := h <;> rw [h]

theorem State.mbServer_boot (h : s.mode = .boot) : s.mbServer = some true := by rw [State.mbServer, h]

theorem State.mbServer_firmware (h : s.mode ∈ [.standby, .service, .degraded, .flush, .evacuate, .selftest]) (hfw : s.fwRuns = true) :
    s.mbServer = some false := by
  simp only [List.mem_cons, List.not_mem_nil, or_false] at h
  rw [State.mbServer]
  obtain h | h | h | h | h | h := h <;> simp [h, hfw]

end Server

/-- A request waits and `r` is its server, the boot ROM or firmware; `t` is the state in which it is served: the MAILBOX event is
taken. -/
structure Awaits (s t : State) (r : Bool) : Prop where
  server : s.mbServer = some r
  busy : s.bit HA_MB_STAT 0 = true
  taken : t = { s with chv := { s.chv with events := s.chv.events.filter fun e => e.evt != 0x50 } }

section Checks

variable {s t : State} {r : Bool} {code : Nat} {f : Bool → State → State}

theorem State.mbServe_waits (h : s.mbServer = none ∨ s.bit HA_MB_STAT 0 = false) : s.mbServe code f = s := by
  unfold State.mbServe
  cases hs : s.mbServer with
  | none => rfl
  | some r =>
    have hidle : s.bit HA_MB_STAT 0 = false := h.resolve_left (by simp [hs])
    simp [hidle]

theorem Awaits.unknown (h : Awaits s t r) (hrow : mbRow (s.mbNum 0 2) = none) : s.mbServe code f = t.mbReply 1 [] r := by
  simp [State.mbServe, h.server, h.busy, hrow, h.taken]

/-- A request with the command's own code: UNKNOWN to a server that lacks it, then privilege, then the header, then the command. -/
theorem Awaits.own (h : Awaits s t r) {row : MbRow} (hcode : s.mbNum 0 2 = code) (hrow : mbRow code = some row) : s.mbServe code f =
    if r && !row.rom then t.mbReply 1 [] r
    else if row.sup && !s.bit HA_MB_STAT 2 then t.mbReply 2 [] r
    else if !s.mbHeadOk row then t.mbReply 3 [] r
    else f r t := by
  simp only [State.mbServe, h.server, h.busy, hcode, hrow, h.taken, Bool.not_true, Bool.false_eq_true, ne_eq, not_true, if_false]

/-- The request is this server's, and its privilege suffices: the header decides. -/
theorem Awaits.allowed (h : Awaits s t r) {row : MbRow} (hcode : s.mbNum 0 2 = code) (hrow : mbRow code = some row)
    (hserved : r = false ∨ row.rom = true) (hpriv : row.sup = false ∨ s.bit HA_MB_STAT 2 = true) :
    s.mbServe code f = if !s.mbHeadOk row then t.mbReply 3 [] r else f r t := by
  rw [h.own hcode hrow, if_neg (by simpa [imp_iff_not_or] using hserved), if_neg (by simpa [imp_iff_not_or] using hpriv)]

end Checks

/-- Command `c` is row `row` of Table 17.5: it serves requests of code `code` by `f`, after which `fin` follows. -/
structure ServesCode (c : Instr) (code : Nat) (row : MbRow) (f : Bool → State → State) (fin : State → State) : Prop where
  row : mbRow code = some row
  serves : ∀ s, exec c s = .next (fin (s.mbServe code f))

section Served

variable {s t : State} {r : Bool} {c : Instr} {code : Nat} {row : MbRow} {f : Bool → State → State} {fin : State → State}
  (h : ServesCode c code row f fin)
include h

theorem ServesCode.waits (hw : s.mbServer = none ∨ s.bit HA_MB_STAT 0 = false) : exec c s = .next (fin s) := by
  rw [h.serves, State.mbServe_waits hw]

variable (hw : Awaits s t r)
include hw

theorem ServesCode.unknown (hrow : mbRow (s.mbNum 0 2) = none) : exec c s = .next (fin (t.mbReply 1 [] r)) := by
  rw [h.serves, hw.unknown hrow]

variable (hcode : s.mbNum 0 2 = code)
include hcode

theorem ServesCode.notBoot (hr : r = true) (hrom : row.rom = false) : exec c s = .next (fin (t.mbReply 1 [] r)) := by
  rw [h.serves, hw.own hcode h.row, if_pos (by simp [hr, hrom])]

variable (hserved : r = false ∨ row.rom = true)
include hserved

theorem ServesCode.privilege (hsup : row.sup = true) (hpriv : s.bit HA_MB_STAT 2 = false) :
    exec c s = .next (fin (t.mbReply 2 [] r)) := by
  rw [h.serves, hw.own hcode h.row, if_neg (by simpa [imp_iff_not_or] using hserved), if_pos (by simp [hsup, hpriv])]

variable (hpriv : row.sup = false ∨ s.bit HA_MB_STAT 2 = true)
include hpriv

theorem ServesCode.header (hbad : s.mbNum 2 2 ≠ row.len ∨ s.mbNum 8 8 ≠ 0) : exec c s = .next (fin (t.mbReply 3 [] r)) := by
  have hhead : s.mbHeadOk row = false := by simpa [State.mbHeadOk, imp_iff_not_or] using hbad
  rw [h.serves, hw.allowed hcode h.row hserved hpriv, if_pos (by simp [hhead])]

theorem ServesCode.acts (hlen : s.mbNum 2 2 = row.len) (hpad : s.mbNum 8 8 = 0) : exec c s = .next (fin (f r t)) := by
  have hhead : s.mbHeadOk row = true := by simp [State.mbHeadOk, hlen, hpad]
  rw [h.serves, hw.allowed hcode h.row hserved hpriv, if_neg (by simp [hhead])]

end Served

/-- Settles O54: the two accesses, the reply, and the checks of a request for each row of Table 17.5. -/
theorem mailboxCommandsAreServed : Obligations.MailboxCommandsAreServed := by
  unfold Obligations.MailboxCommandsAreServed
  intro s src err
  refine ⟨fun h => ?_, fun h => ?_, ?_, ?_, State.mbServer_none, State.mbServer_boot, State.mbServer_firmware⟩
  · rw [execDoorbell_of h]
    exact ⟨fun hidle => by rw [State.mbDoor_idle hidle], fun hbusy => by rw [State.mbDoor_busy hbusy]⟩
  · rw [execMbComplete_of h]
    exact ⟨fun hbusy u hu => by rw [State.mbComp_busy hbusy hu], fun hidle => by rw [State.mbComp_idle hidle]⟩
  · rintro t st p rom u rfl hst hp
    obtain ⟨hbusy, hdone, hrom, hstatus⟩ := mbStatReplied_fields (rom := rom) (t.raw HA_MB_STAT) hst
    rw [← State.mbReply_stat hp] at hbusy hdone hrom hstatus
    refine ⟨hbusy, hdone, hrom, hstatus, State.mbReply_rsp hp, State.mbReply_tag hp, State.mbReply_status hp, State.mbReply_mbStage,
      fun hen => State.cfgIrq_of_done hdone ?_⟩
    rwa [State.bit, State.mbReply_ctrl hp]
  · rintro c code len sup rom body fin ⟨on, rfl, hrow⟩ hbody
    obtain ⟨f, h, hf⟩ : ∃ f, ServesCode c code ⟨sup, rom, len⟩ f (if on then State.goOn else id) ∧
        (code ≠ 0x0031 → code ≠ 0x0040 → f = body) := by
      simp only [List.mem_cons, List.not_mem_nil, or_false, Prod.mk.injEq] at hrow
      obtain hlisted | hown := hbody
      -- a row whose own rules the statement lists
      · rcases hrow with h | h | h | h | h | h | h | h | h | h | h | h | h | h | h <;> obtain ⟨rfl, rfl, rfl, rfl, rfl, rfl⟩ := h <;>
          simp only [List.mem_cons, List.not_mem_nil, or_false, false_or, Prod.mk.injEq, Nat.reduceEqDiff, OfNat.ofNat_ne_one,
            OfNat.one_ne_ofNat, false_and, true_and] at hlisted
        all_goals
          subst hlisted
          refine ⟨_, ⟨rfl, ?_⟩, fun _ _ => rfl⟩
          simp only [Bool.false_eq_true, if_true, if_false]
          exact fun _ => rfl
      -- MIG_STATUS and SET_POWER, of which it gives the checks only
      · obtain rfl | rfl := hown
        all_goals
          simp only [Nat.reduceEqDiff, OfNat.ofNat_ne_one, false_and, and_false, true_and, false_or, or_false] at hrow
          obtain ⟨rfl, rfl, rfl, rfl, rfl⟩ := hrow
          simp only [Bool.false_eq_true, if_false]
          exact ⟨_, ⟨rfl, fun _ => rfl⟩, fun h31 h40 => by contradiction⟩
    refine ⟨h.waits, fun r t hserver hbusy ht => ?_⟩
    have hw : Awaits s t r := ⟨hserver, hbusy, ht⟩
    refine ⟨fun hcode => h.unknown hw (mbRow_eq_none hcode), fun hcode => ⟨h.notBoot hw hcode, fun hserved =>
      ⟨h.privilege hw hcode hserved, fun hpriv => ⟨h.header hw hcode hserved hpriv, fun hlen hpad h31 h40 => ?_⟩⟩⟩⟩
    rw [h.acts hw hcode hserved hpriv hlen hpad, hf h31 h40]

end Sys2Proof.Machine
end

section
/-! The step as a whole: the front command, and the canonical form, the queue and the clock (log entries 2 and 6). -/

namespace Sys2Proof.Machine

/-- Settles O1: the queue of the state names its front command and its rest. -/
theorem stepRunsTheFrontCommand : Obligations.StepRunsTheFrontCommand := by
  unfold Obligations.StepRunsTheFrontCommand
  exact fun _ _ _ => step_exec rfl

/-- The queue is no part of the canonical form. -/
theorem State.Canon.setPending {s : State} (h : s.Canon) (cs : List Instr) : ({ s with pending := cs } : State).Canon := { h with }

/-- Every command, a cold reset too, leaves the queue's rest and keeps the canonical form. -/
theorem exec_pending_canon {c : Instr} {s t : State} (h : exec c s = .next t) : t.pending = s.pending ∧ (s.Canon → t.Canon) := by
  by_cases hcold : c = .coldResetAssert ∨ c = .coldResetRelease
  · obtain ⟨u, hu, hkeeps⟩ := coldReset_keeps c s hcold
    obtain rfl : u = t := Host.Outcome.next.inj (hu.symm.trans h)
    exact hkeeps
  · obtain ⟨hassert, hrelease⟩ := not_or.mp hcold
    obtain ⟨u, hu, hkeeps⟩ := exec_keeps c s hassert hrelease
    obtain rfl : u = t := Host.Outcome.next.inj (hu.symm.trans h)
    exact ⟨hkeeps.pending, hkeeps.canon⟩

/-- Only a cold reset sets the clock or lets the free values start anew. -/
theorem exec_clock {c : Instr} {s t : State} (h : exec c s = .next t) (hassert : c ≠ .coldResetAssert) (hrelease : c ≠ .coldResetRelease) :
    t.time = s.time ∧ t.tmo = s.tmo ∧ s.free ≤ t.free := by
  obtain ⟨u, hu, hkeeps⟩ := exec_keeps c s hassert hrelease
  obtain rfl : u = t := Host.Outcome.next.inj (hu.symm.trans h)
  exact ⟨hkeeps.time, hkeeps.tmo, hkeeps.free⟩

/-- Settles O59: a step is a tick, or the front command on the state with the queue's rest. -/
theorem canonicalFormIsKept : Obligations.CanonicalFormIsKept := by
  unfold Obligations.CanonicalFormIsKept
  intro s t hstep
  cases hq : s.pending with
  | nil =>
    obtain ⟨hpending, hcanon, -⟩ := s.tick_keeps
    obtain rfl : s.tick = t := Host.Outcome.next.inj ((step_tick hq).symm.trans hstep)
    exact ⟨hcanon, fun _ => hpending.trans hq, fun c cs hcons => absurd hcons.symm (List.cons_ne_nil c cs)⟩
  | cons c cs =>
    rw [step_exec hq] at hstep
    obtain ⟨hpending, hcanon⟩ := exec_pending_canon hstep
    have hclock := exec_clock hstep
    refine ⟨fun hs => hcanon (hs.setPending cs), fun hnil => absurd hnil (List.cons_ne_nil c cs), fun d ds hcons => ?_⟩
    obtain ⟨rfl, rfl⟩ := List.cons.inj hcons
    exact ⟨hpending, hclock⟩

end Sys2Proof.Machine
end

section
/-! Control of the performance counters and the debug aperture (R495, R502, R509, R511 to R513). -/

namespace Sys2Proof.Machine

/-! ### Counter control (R495) -/

section Counters

variable {s : State} {src : Src} {w : BitVec 32}

/-- FREEZE and OVF_EVT are bits 0 and 3 of HA_PMC_CTRL; SNAP and CLEAR, bits 1 and 2, are not stored. -/
theorem and9_or_and9 {v : BitVec 32} (hv : v &&& 9 = 0) (x : BitVec 32) : ((x &&& 9) ||| v) &&& 9 = x &&& 9 := by
  rw [BitVec.and_or_distrib_right, hv, BitVec.and_assoc, BitVec.and_self]
  exact BitVec.or_zero

theorem and9_or_and6 (x v : BitVec 32) : ((x &&& 9) ||| v) &&& 6 = v &&& 6 := by
  rw [BitVec.and_or_distrib_right, BitVec.and_assoc]
  exact (congrArg (· ||| v &&& 6) BitVec.and_zero).trans BitVec.zero_or

theorem bt_and9_or (x v : BitVec 32) {i : Nat} (hi : bt (9 : BitVec 32) i = false) : bt ((x &&& 9) ||| v) i = bt v i := by
  simp only [bt, BitVec.toNat_or, BitVec.toNat_and, Nat.testBit_or, Nat.testBit_and] at hi ⊢
  rw [hi, Bool.and_false, Bool.false_or]

/-- A write without SNAP and CLEAR stores its bits. -/
theorem State.pmcCtrl_store (h : w &&& 6 = 0) : s.pmcCtrl src w = s.setRaw HA_PMC_CTRL (w &&& 9) := if_pos h

/-- SNAP and CLEAR while SNAP_BUSY is 1. -/
theorem State.pmcCtrl_busy (h : w &&& 6 ≠ 0) (hbusy : s.tmo < s.pmcBusyTo) :
    s.pmcCtrl src w = (s.setRaw HA_PMC_CTRL (w &&& 9)).accErr 1 HA_PMC_CTRL true (srcPriv src) :=
  (if_neg h).trans (if_pos (decide_eq_true hbusy))

/-- SNAP and CLEAR while SNAP_BUSY is 0. -/
theorem State.pmcCtrl_run (h : w &&& 6 ≠ 0) (hidle : s.pmcBusyTo ≤ s.tmo) :
    s.pmcCtrl src w = (s.setRaw HA_PMC_CTRL (w &&& 9)).pmcRun fun s =>
      let s := if bt w 1 then s.pmcSnapAll else s
      if bt w 2 then s.pmcClearAll else s :=
  (if_neg h).trans (if_neg (decide_eq_true_iff.not.mpr (Nat.not_lt.mpr hidle)))

theorem execPmcFreeze_of (h : s.MayAccess src HA_PMC_CTRL true) :
    exec (.pmcFreeze src w) s = .next ((s.pmcCtrl src (w &&& 9)).noted src HA_PMC_CTRL true 0) :=
  congrArg Host.Outcome.next (State.regDo_of h _)

theorem execPmcSnap_of (h : s.MayAccess src HA_PMC_CTRL true) :
    exec (.pmcSnap src) s = .next ((s.pmcCtrl src ((s.raw HA_PMC_CTRL &&& 9) ||| 2)).noted src HA_PMC_CTRL true 0) :=
  congrArg Host.Outcome.next (State.regDo_of h _)

theorem execPmcClear_of (h : s.MayAccess src HA_PMC_CTRL true) :
    exec (.pmcClear src) s = .next ((s.pmcCtrl src ((s.raw HA_PMC_CTRL &&& 9) ||| 4)).noted src HA_PMC_CTRL true 0) :=
  congrArg Host.Outcome.next (State.regDo_of h _)

/-- FREEZE. -/
theorem execPmcFreeze_stores (h : s.MayAccess src HA_PMC_CTRL true) :
    exec (.pmcFreeze src w) s = .next ((s.setRaw HA_PMC_CTRL (w &&& 9)).noted src HA_PMC_CTRL true 0) := by
  have hact : (w &&& 9) &&& 6 = 0 := by
    rw [BitVec.and_assoc]
    exact BitVec.and_zero
  rw [execPmcFreeze_of h, State.pmcCtrl_store hact, BitVec.and_assoc, BitVec.and_self]

variable {x : BitVec 32}

/-- The ticks for which SNAP_BUSY stays 1 after a snapshot or a clear: at most 100 (log entry 50). -/
def State.pmcTicks (s : State) : Nat := (Config.freeValue s.free).toNat % 101

theorem State.pmcTicks_le (s : State) : s.pmcTicks ≤ 100 := Nat.le_of_lt_succ (Nat.mod_lt _ (by decide))

/-- A SNAP keeps the stored bits and takes the snapshots. -/
theorem State.pmcCtrl_snap (hidle : s.pmcBusyTo ≤ s.tmo) :
    s.pmcCtrl src ((x &&& 9) ||| 2) = { (s.setRaw HA_PMC_CTRL (x &&& 9)).pmcMap (fun c => { c with snap := c.live }) with
      pmcBusyTo := s.tmo + s.pmcTicks, free := s.free + 1 } := by
  rw [State.pmcCtrl_run (by rw [and9_or_and6]; decide) hidle, and9_or_and9 rfl]
  simp only [bt_and9_or x 2 (i := 1) rfl, bt_and9_or x 2 (i := 2) rfl]
  rfl

/-- A CLEAR keeps the stored bits and clears the live values. -/
theorem State.pmcCtrl_clear (hidle : s.pmcBusyTo ≤ s.tmo) :
    s.pmcCtrl src ((x &&& 9) ||| 4) = { (s.setRaw HA_PMC_CTRL (x &&& 9)).pmcMap (fun c => { c with live := 0 }) with
      pmcBusyTo := s.tmo + s.pmcTicks, free := s.free + 1 } := by
  rw [State.pmcCtrl_run (by rw [and9_or_and6]; decide) hidle, and9_or_and9 rfl]
  simp only [bt_and9_or x 4 (i := 1) rfl, bt_and9_or x 4 (i := 2) rfl]
  rfl

/-- A SNAP or CLEAR while SNAP_BUSY is 1 keeps the stored bits and does nothing else. -/
theorem State.pmcCtrl_ignored {v : BitVec 32} (hv : v &&& 9 = 0) (hact : v &&& 6 ≠ 0) (hbusy : s.tmo < s.pmcBusyTo) :
    s.pmcCtrl src ((x &&& 9) ||| v) = (s.setRaw HA_PMC_CTRL (x &&& 9)).accErr 1 HA_PMC_CTRL true (srcPriv src) := by
  rw [State.pmcCtrl_busy (by rwa [and9_or_and6]) hbusy, and9_or_and9 hv]

end Counters

/-! ### Reaching the aperture (R502, R509) -/

/-- An access of `src` at offset `off` of the aperture is carried out: the block is not off, the debug windows are open, the source is
a supervisor's, and the register port has a free place. -/
structure State.ReachesAperture (s : State) (src : Src) (off : BitVec 20) : Prop where
  mode : s.mode ≠ .off
  source : src ≠ .tarragon
  opened : s.closed (0x300000 + off.toNat) = false
  supervisor : srcPriv src = true
  place : ∀ p, src = .port p → s.cfg.length < 4

/-- An access that nothing turns away has its effect, and the register port keeps the answer. -/
theorem State.regAccIf_of {s : State} {src : Src} {a : Nat} {wr : Bool} (hmode : s.mode ≠ .off) (hsource : src ≠ .tarragon)
    (hsunk : s.sunkAt a = false) (hplace : ∀ p, src = .port p → s.cfg.length < 4) (f : State → BitVec 32 × State) :
    s.regAccIf src a wr false f = (f s).2.noted src a wr (f s).1 := by
  cases src with
  | tarragon => exact absurd rfl hsource
  | port p => simp [State.regAccIf, State.noted, hmode, hsunk, Nat.not_le.mpr (hplace p rfl)]
  | _ => simp [State.regAccIf, State.noted, hmode, hsunk]

/-- No node's window lies in the aperture, so no sink absorbs an access of it. -/
theorem State.sunkAt_aperture (s : State) (off : Nat) : s.sunkAt (0x300000 + off) = false := by
  have hnode : ndOf (0x300000 + off) = none := if_neg (by omega)
  rw [State.sunkAt, hnode]

section Aperture

variable {s : State} {src : Src} {off : BitVec 20} {w : BitVec 32}

theorem State.apAcc_of (h : s.ReachesAperture src off) {wr : Bool} {hi : Nat} (hoff : off.toNat % 8 = 4 * hi)
    (f : State → BitVec 32 × State) : s.apAcc src off wr hi f = (f s).2.noted src (0x300000 + off.toNat) wr (f s).1 := by
  have hallowed : (s.closed (0x300000 + off.toNat) || !srcPriv src) = false := by rw [h.opened, h.supervisor]; rfl
  rw [State.apAcc, if_neg (not_not.mpr hoff)]
  dsimp only
  rw [hallowed, State.regAccIf_of h.mode h.source (s.sunkAt_aperture _) h.place]

theorem execApertureReadLow_of (h : s.ReachesAperture src off) (hoff : off.toNat % 8 = 0) : exec (.apertureReadLow src off) s =
    .next ((s.apRead src off.toNat).2.noted src (0x300000 + off.toNat) false (s.apRead src off.toNat).1) :=
  congrArg Host.Outcome.next (State.apAcc_of h hoff _)

theorem execApertureReadHigh_of (h : s.ReachesAperture src off) (hoff : off.toNat % 8 = 4) : exec (.apertureReadHigh src off) s =
    .next ((s.apRead src off.toNat).2.noted src (0x300000 + off.toNat) false (s.apRead src off.toNat).1) :=
  congrArg Host.Outcome.next (State.apAcc_of h hoff _)

/-- A write of the aperture lets what waits go on. -/
theorem State.apAcc_write (h : s.ReachesAperture src off) {hi : Nat} (hoff : off.toNat % 8 = 4 * hi) :
    s.apAcc src off true hi (fun s => (0, (s.apWrite src off.toNat w).goOn)) =
      (s.apWrite src off.toNat w).goOn.noted src (0x300000 + off.toNat) true 0 := by
  rw [State.apAcc_of h hoff]

theorem execApertureWriteLow_of (h : s.ReachesAperture src off) (hoff : off.toNat % 8 = 0) : exec (.apertureWriteLow src off w) s =
    .next ((s.apWrite src off.toNat w).goOn.noted src (0x300000 + off.toNat) true 0) :=
  congrArg Host.Outcome.next (State.apAcc_write h hoff)

theorem execApertureWriteHigh_of (h : s.ReachesAperture src off) (hoff : off.toNat % 8 = 4) : exec (.apertureWriteHigh src off w) s =
    .next ((s.apWrite src off.toNat w).goOn.noted src (0x300000 + off.toNat) true 0) :=
  congrArg Host.Outcome.next (State.apAcc_write h hoff)

end Aperture

/-! ### Words of the aperture (R511 to R513) -/

section Words

variable {s : State} {src : Src} {off : Nat} {x : Arr} {v : Word} {w lo : BitVec 32}

theorem half_of_low (h : off % 8 = 0) : off / 4 % 2 = 0 := by omega
theorem half_of_high (h : off % 8 = 4) : off / 4 % 2 = 1 := by omega

/-- Clearing UNAVAIL leaves the selection of the array. -/
theorem State.dbgKey_setStat (s : State) (hi lo v off : Nat) : (s.setFld HA_DBG_STAT hi lo v).dbgKey off = s.dbgKey off := by
  have hsel : (s.setFld HA_DBG_STAT hi lo v).raw HA_DBG_SEL = s.raw HA_DBG_SEL := (State.raw_setFld ..).trans (if_neg (by decide))
  simp only [State.dbgKey, State.fld, hsel]

/-- Clearing UNAVAIL leaves whether a write injects an error. -/
theorem State.injects_setStat (s : State) (hi lo v : Nat) : (s.setFld HA_DBG_STAT hi lo v).bit HA_DBG_CTRL 0 = s.bit HA_DBG_CTRL 0 := by
  rw [State.bit, State.raw_setFld, if_neg (by decide), State.bit]

theorem State.apRead_miss {away : Bool} (h : s.apArr off = .error away) : s.apRead src off = (0, s.apMiss src off false away) := by
  rw [State.apRead, h]

theorem State.apWrite_miss {away : Bool} (h : s.apArr off = .error away) : s.apWrite src off w = s.apMiss src off true away := by
  rw [State.apWrite, h]

/-- The low word latches the granule and loads the check, syndrome and parity. -/
theorem State.apRead_low {t : State} {r : Gran × State} (ht : t = s.setFld HA_DBG_STAT 9 9 0) (hoff : off % 8 = 0)
    (hx : s.apArr off = .ok x) (hwide : x.narrow = false) (hr : r = t.granGet x (off / 8)) :
    s.apRead src off = (BitVec.ofNat 32 (bf r.1.val 31 0),
      { r.2.dbgLoad x r.1 (r.1.par != 0) with dbgLatch := some (s.dbgKey off, r.1.val), dbgHeld := none }) := by
  subst hr ht
  rw [State.apRead, hx]
  simp [half_of_low hoff, hwide, State.dbgKey_setStat]

/-- The high word right after the low one returns the latch. -/
theorem State.apRead_latched {t : State} (ht : t = s.setFld HA_DBG_STAT 9 9 0) (hoff : off % 8 = 4) (hx : s.apArr off = .ok x)
    (hwide : x.narrow = false) (hlatch : s.dbgLatch = some (s.dbgKey off, v)) :
    s.apRead src off = (BitVec.ofNat 32 (bf v 63 32), { t with dbgLatch := none, dbgHeld := none }) := by
  subst ht
  rw [State.apRead, hx]
  simp only [half_of_high hoff, hwide, and_self, if_true, State.setFld_dbgLatch, hlatch]
  exact if_pos (s.dbgKey_setStat 9 9 0 off).symm

/-- A written low word is held. -/
theorem State.apWrite_low {t : State} (ht : t = s.setFld HA_DBG_STAT 9 9 0) (hoff : off % 8 = 0) (hx : s.apArr off = .ok x)
    (hwide : x.narrow = false) (hwr : x.readOnly = false) :
    s.apWrite src off w = { t with dbgLatch := none, dbgHeld := some (s.dbgKey off, w) } := by
  subst ht
  rw [← s.dbgKey_setStat 9 9 0 off, State.apWrite, hx]
  simp only [half_of_low hoff, hwide, hwr, Bool.false_eq_true, if_false, if_true]
  rfl

/-- A written high word writes the granule with the held low word. -/
theorem State.apWrite_held {u : State} {k : Word} (hu : u = { s.setFld HA_DBG_STAT 9 9 0 with dbgLatch := none }) (hoff : off % 8 = 4)
    (hx : s.apArr off = .ok x) (hwide : x.narrow = false) (hwr : x.readOnly = false) (hheld : s.dbgHeld = some (s.dbgKey off, lo))
    (hk : k = BitVec.ofNat 64 (lo.toNat + w.toNat * 2 ^ 32)) :
    s.apWrite src off w = { u.granPut x (off / 8) k (u.dbgSyn x k) (u.bit HA_DBG_CTRL 0) 255 with dbgHeld := none } := by
  subst hk
  have hinj : u.bit HA_DBG_CTRL 0 = s.bit HA_DBG_CTRL 0 := by
    subst hu
    exact s.injects_setStat 9 9 0
  have hkey : s.dbgKey off = u.dbgKey off := by
    subst hu
    exact (s.dbgKey_setStat 9 9 0 off).symm
  rw [hinj, State.apWrite, hx]
  simp only [half_of_high hoff, hwide, hwr, Bool.false_eq_true, Nat.one_ne_zero, if_false, ← hu]
  rw [State.setFld_dbgHeld, hheld]
  exact if_pos hkey

end Words

/-- Settles O49: a write of HA_PMC_CTRL by what its SNAP and CLEAR bits do, and an aperture access by its half and by whether it
reaches an array. -/
theorem countersAndAperture : Obligations.CountersAndAperture := by
  unfold Obligations.CountersAndAperture
  intro s src w
  refine ⟨fun h u hu => ⟨execPmcFreeze_stores h, fun hbusy => ?_, fun hidle => ⟨s.pmcTicks, s.pmcTicks_le, ?_, ?_⟩⟩, ?_⟩
  · subst hu
    simp only [List.forall_mem_cons, List.not_mem_nil, false_imp_iff, implies_true, and_true]
    constructor
    · rw [execPmcSnap_of h, State.pmcCtrl_ignored rfl (by decide) hbusy]
    · rw [execPmcClear_of h, State.pmcCtrl_ignored rfl (by decide) hbusy]
  · rw [execPmcSnap_of h, State.pmcCtrl_snap hidle, hu]
  · rw [execPmcClear_of h, State.pmcCtrl_clear hidle, hu]
  · rintro off a g t rfl rfl hmode hsource hopened hsupervisor hplace ht
    have h : s.ReachesAperture src off := ⟨hmode, hsource, hopened, hsupervisor, hplace⟩
    refine ⟨fun x r hoff hx hwide hr => ⟨?_, fun hwr u hu => ?_⟩, fun x v hoff hx hwide => ⟨fun hlatch => ?_, ?_⟩,
      fun away u hx hu => ⟨fun hoff => ⟨?_, ?_⟩, fun hoff => ⟨?_, ?_⟩⟩⟩
    · rw [execApertureReadLow_of h hoff, State.apRead_low ht hoff hx hwide hr]
    · rw [execApertureWriteLow_of h hoff, State.apWrite_low ht hoff hx hwide hwr, hu]
    · rw [execApertureReadHigh_of h hoff, State.apRead_latched ht hoff hx hwide hlatch]
    · intro lo k u hwr hheld hk hu
      rw [execApertureWriteHigh_of h hoff, State.apWrite_held (hu.trans (by rw [ht])) hoff hx hwide hwr hheld hk]
    · rw [execApertureReadLow_of h hoff, State.apRead_miss hx, hu, State.apMiss]
    · rw [execApertureWriteLow_of h hoff, State.apWrite_miss hx, hu, State.apMiss]
    · rw [execApertureReadHigh_of h hoff, State.apRead_miss hx, hu, State.apMiss]
    · rw [execApertureWriteHigh_of h hoff, State.apWrite_miss hx, hu, State.apMiss]

end Sys2Proof.Machine
end
